-- ==== Sys2Proof/Word.lean ====
section
/-!
DEFINITION. Word types: 64-bit register values (R8), bytes (R12), 32-bit instruction words (R52), and the register
and field index types of the instruction formats (R53).
-/

namespace Sys2Proof

/-- A 64-bit register value (R8). -/
abbrev Word := BitVec 64

/-- One byte of memory (R12). -/
abbrev Byte := BitVec 8

/-- A 32-bit instruction word (R52). -/
abbrev IWord := BitVec 32

/-- A 57-bit virtual address, as the program counter holds it (R8, R12). -/
abbrev VAddr := BitVec 57

/-- A 5-bit register field (R53). -/
abbrev Reg := Fin 32

/-- The wait count W of an instruction word (R52). -/
abbrev Wait := Fin 8

/-- The governing mask field mask3 (R58). -/
abbrev Mask3 := Fin 8

end Sys2Proof
end

