-- ==== Sys2Proof/Syntax.lean ====
section
/-!
DEFINITION. The abstract syntax: one constructor of `Instr` per row of spec/opcode_table.json. An instruction word's
constructor carries the operand bundle of its format (R53); an event's constructor carries the event's parameters.
-/

namespace Sys2Proof

/-- R format with all three register fields (R53). -/
structure R3 where
  w : Wait
  d : Reg
  a : Reg
  b : Reg
  deriving DecidableEq, Repr

/-- R or X format with fields d and a; b is unused and zero (R53, R54). -/
structure R2 where
  w : Wait
  d : Reg
  a : Reg
  deriving DecidableEq, Repr

/-- R or T format with fields a and b; d is unused and zero. -/
structure Pair where
  w : Wait
  a : Reg
  b : Reg
  deriving DecidableEq, Repr

/-- R, X or T format with field d only. -/
structure Dst where
  w : Wait
  d : Reg
  deriving DecidableEq, Repr

/-- R or T format with fields d and b (`tbest`, R155). -/
structure DstB where
  w : Wait
  d : Reg
  b : Reg
  deriving DecidableEq, Repr

/-- A word whose only field is the wait count. -/
structure Bare where
  w : Wait
  deriving DecidableEq, Repr

/-- The immediate shifts: the amount k is fn8[0] x 32 + b (R77). -/
structure Shift where
  w : Wait
  d : Reg
  a : Reg
  k : Fin 64
  deriving DecidableEq, Repr

/-- I format: d, a and imm13 (R53). -/
structure ImmI where
  w : Wait
  d : Reg
  a : Reg
  imm : BitVec 13
  deriving DecidableEq, Repr

/-- J format: d and imm18 (R53). -/
structure ImmJ where
  w : Wait
  d : Reg
  imm : BitVec 18
  deriving DecidableEq, Repr

/-- B format: a, b and disp13 (R53). -/
structure ImmB where
  w : Wait
  a : Reg
  b : Reg
  imm : BitVec 13
  deriving DecidableEq, Repr

/-- `loop`: I format with d zero (R91). -/
structure LoopR where
  w : Wait
  a : Reg
  imm : BitVec 13
  deriving DecidableEq, Repr

/-- `loopi`: I format whose count is d followed by a (R91). -/
structure LoopI where
  w : Wait
  count : BitVec 10
  imm : BitVec 13
  deriving DecidableEq, Repr

/-- `bgs` and `bgsn`: B format whose a field carries the stop code k (R88). -/
structure Grant where
  w : Wait
  k : Fin 32
  imm : BitVec 13
  deriving DecidableEq, Repr

/-- A read of control register `num` (R96). -/
structure CtlR where
  w : Wait
  d : Reg
  num : Fin 2048
  deriving DecidableEq, Repr

/-- A write form of control register `num` (R96). -/
structure CtlW where
  w : Wait
  d : Reg
  a : Reg
  num : Fin 2048
  deriving DecidableEq, Repr

/-- `trap k` (R99). -/
structure TrapK where
  w : Wait
  k : Fin 256
  deriving DecidableEq, Repr

/-- V format: d, a, b and mask3 (R53). -/
structure V3 where
  w : Wait
  d : Reg
  a : Reg
  b : Reg
  m : Mask3
  deriving DecidableEq, Repr

/-- V format with b zero. -/
structure V2 where
  w : Wait
  d : Reg
  a : Reg
  m : Mask3
  deriving DecidableEq, Repr

/-- V format with a zero (`vbcast`, R131). -/
structure VB where
  w : Wait
  d : Reg
  b : Reg
  m : Mask3
  deriving DecidableEq, Repr

/-- V format with a and b zero (`vid`, R131). -/
structure V1 where
  w : Wait
  d : Reg
  m : Mask3
  deriving DecidableEq, Repr

/-- T format: accumulator row, vector register a, weight slot, mask3 (R53, R155). -/
structure TMac where
  w : Wait
  row : Fin 256
  a : Reg
  slot : Fin 4
  m : Mask3
  deriving DecidableEq, Repr

/-- T format without a slot: the register in bits 17-13 is `a` (R155). -/
structure TRow where
  w : Wait
  row : Fin 256
  a : Reg
  m : Mask3
  deriving DecidableEq, Repr

/-- T format without slot or mask: the scalar register in bits 17-13 is `a` (R155). -/
structure TRng where
  w : Wait
  row : Fin 256
  a : Reg
  deriving DecidableEq, Repr

/-- `tld` (R155). -/
structure TLd where
  w : Wait
  a : Reg
  slot : Fin 4
  deriving DecidableEq, Repr

/-- `amo` (R230): `ord` is the order field, `narrow` the w bit (32 bits when true). -/
structure Amo where
  w : Wait
  d : Reg
  a : Reg
  b : Reg
  ord : Fin 4
  narrow : Bool
  deriving DecidableEq, Repr

/-- A fence: the low three bits of fn8 give the scope (R231). -/
structure FenceF where
  w : Wait
  scope : Fin 8
  deriving DecidableEq, Repr

/-- An engine command with a chunk mask field (R272, R352). -/
structure Eng where
  w : Wait
  d : Reg
  a : Reg
  b : Reg
  c : Fin 8
  deriving DecidableEq, Repr

/-! ### Parameters of events -/

/-- The header of a request (R342): the endpoint that sent it, its session, its sequence number, its tag and the
partition it names; the Ethernet port it came in at, the version, whether the reserved bits and the status field are 0, and the
stated length of the body. `mgmt` tells the management port from a host port (R354). -/
structure Hdr where
  mgmt : Bool
  ep   : Nat
  sess : BitVec 16
  seq  : Word
  tag  : Word
  part : Fin 16
  port : Nat
  version : Nat
  zeros : Bool
  len  : Nat
  deriving DecidableEq, Repr

/-- Why the resident service requests a pre-emption (R297). -/
inductive Purpose where
  | timeSlice
  | resize
  | rebinding
  | hostCancel
  | recordCancel
  deriving DecidableEq, Repr

/-- A frame of a collective on a scale-up or long-haul port (R340, R349): whether it authenticates, the partition it is
for, what it carries of a collective (group, identifier, R352), of its plan (R350) and of the group as the sender registered it
(R348). `level` 0 is a rank's own elements in the plan's type,
1 and 2 are the contribution that a leader forms at that level, in fp32, and 3 is the plan alone, without data. `marked` are the
poisoned data sectors (R318). -/
structure Frame where
  authentic : Bool
  part  : Nat
  group : Nat
  ident : Word
  rank  : Nat
  level : Nat
  op    : Nat
  type  : Nat
  count : Nat
  comp1 : Bool
  comp2 : Bool
  seed  : Word
  sizes : Nat × Nat × Nat
  map   : List (Nat × Nat)
  data  : List (BitVec 32)
  marked : List Nat
  deriving DecidableEq, Repr

/-- A transaction between L2 slices, bank units and engines (R322): a write or a read of a 32-byte sector, its physical address,
byte enables and data. -/
structure Transfer where
  write : Bool
  pa    : Nat
  en    : BitVec 32
  data  : BitVec 256
  deriving DecidableEq, Repr

/-- What a poison notice says (R318): the identifier of the collective and the destination ranges, as offset and length. -/
structure NoticeBody where
  ident  : Word
  ranges : List (Nat × Nat)
  deriving DecidableEq, Repr

/-- A viaduct group as a request names it (R348). -/
structure GroupBody where
  num : Nat
  n0 : Nat
  n1 : Nat
  n2 : Nat
  /-- for each rank in order: domain address and device (R348) -/
  map : List (Nat × Nat)
  deriving DecidableEq, Repr

/-- Body of a create-partition request (R343). -/
structure CreateBody where
  number : Nat
  uppers : Nat
  /-- gang width 1, 2 or 4 (R334) -/
  gang : Nat
  share : Nat
  framePool : Nat
  queueSlots : Nat
  frameArea : Nat
  deriving DecidableEq, Repr

/-- Body of a map request (R343, R307, R308): page size 0 is 64 KiB, 1 is 2 MiB, 2 is 1 GiB. -/
structure MapBody where
  addr : Nat
  size : Nat
  page : Nat
  r : Bool
  w : Bool
  x : Bool
  u : Bool
  key : Nat
  data : Option (List Byte)
  deriving DecidableEq, Repr

/-- The instructions and events of the UJ-2816: one constructor per row of the opcode table. -/
inductive Instr where
  /-- R77 -/
  | add (f : R3)
  /-- R77 -/
  | sub (f : R3)
  /-- R77 -/
  | and (f : R3)
  /-- R77 -/
  | or (f : R3)
  /-- R77 -/
  | xor (f : R3)
  /-- R77 -/
  | andn (f : R3)
  /-- R77 -/
  | sll (f : R3)
  /-- R77 -/
  | srl (f : R3)
  /-- R77 -/
  | sra (f : R3)
  /-- R77 -/
  | rol (f : R3)
  /-- R77 -/
  | slt (f : R3)
  /-- R77 -/
  | sltn (f : R3)
  /-- R77 -/
  | seq (f : R3)
  /-- R77 -/
  | min (f : R3)
  /-- R77 -/
  | max (f : R3)
  /-- R77 -/
  | minn (f : R3)
  /-- R77 -/
  | maxn (f : R3)
  /-- R77 -/
  | addw (f : R3)
  /-- R77 -/
  | subw (f : R3)
  /-- R77 -/
  | adds1 (f : R3)
  /-- R77 -/
  | adds2 (f : R3)
  /-- R77 -/
  | adds3 (f : R3)
  /-- R77 -/
  | slli (f : Shift)
  /-- R77 -/
  | srli (f : Shift)
  /-- R77 -/
  | srai (f : Shift)
  /-- R77 -/
  | roli (f : Shift)
  /-- R78 -/
  | mul (f : R3)
  /-- R78 -/
  | mulh (f : R3)
  /-- R78 -/
  | mulhn (f : R3)
  /-- R79 -/
  | div (f : R3)
  /-- R79 -/
  | divn (f : R3)
  /-- R79 -/
  | rem (f : R3)
  /-- R79 -/
  | remn (f : R3)
  /-- R78 -/
  | clz (f : R2)
  /-- R78 -/
  | ctz (f : R2)
  /-- R78 -/
  | cpop (f : R2)
  /-- R80 -/
  | bext (f : R3)
  /-- R80 -/
  | bins (f : R3)
  /-- R81 -/
  | addi (f : ImmI)
  /-- R81 -/
  | andi (f : ImmI)
  /-- R81 -/
  | ori (f : ImmI)
  /-- R81 -/
  | xori (f : ImmI)
  /-- R82 -/
  | lih (f : ImmJ)
  /-- R84 -/
  | ldxb (f : R3)
  /-- R84 -/
  | ldxbn (f : R3)
  /-- R84 -/
  | ldxh (f : R3)
  /-- R84 -/
  | ldxhn (f : R3)
  /-- R84 -/
  | ldxw (f : R3)
  /-- R84 -/
  | ldxwn (f : R3)
  /-- R84 -/
  | ldxd (f : R3)
  /-- R84 -/
  | stxb (f : R3)
  /-- R84 -/
  | stxh (f : R3)
  /-- R84 -/
  | stxw (f : R3)
  /-- R84 -/
  | stxd (f : R3)
  /-- R85 -/
  | cwb (f : Pair)
  /-- R84 -/
  | czero (f : Pair)
  /-- R84 -/
  | ldd (f : ImmI)
  /-- R84 -/
  | ldw (f : ImmI)
  /-- R84 -/
  | ldwn (f : ImmI)
  /-- R84 -/
  | std (f : ImmB)
  /-- R84 -/
  | stw (f : ImmB)
  /-- R86 -/
  | lr (f : R2)
  /-- R86 -/
  | lrw (f : R2)
  /-- R86 -/
  | sc (f : R3)
  /-- R86 -/
  | scw (f : R3)
  /-- R85 -/
  | pref (f : Pair)
  /-- R87 -/
  | beq (f : ImmB)
  /-- R87 -/
  | bne (f : ImmB)
  /-- R87 -/
  | blt (f : ImmB)
  /-- R87 -/
  | bge (f : ImmB)
  /-- R87 -/
  | bltn (f : ImmB)
  /-- R87 -/
  | bgen (f : ImmB)
  /-- R89 -/
  | jal (f : ImmJ)
  /-- R89 -/
  | jalr (f : R2)
  /-- R89 -/
  | rdpc (f : Dst)
  /-- R91 -/
  | loop (f : LoopR)
  /-- R91 -/
  | loopi (f : LoopI)
  /-- R94 -/
  | lpop (f : Bare)
  /-- R94 -/
  | lbrk (f : Bare)
  /-- R94 -/
  | lcnt (f : Dst)
  /-- R94 -/
  | ldep (f : Dst)
  /-- R88 -/
  | bgs (f : Grant)
  /-- R88 -/
  | bgsn (f : Grant)
  /-- R96 -/
  | mfc (f : CtlR)
  /-- R96 -/
  | mtc (f : CtlW)
  /-- R96 -/
  | mcset (f : CtlW)
  /-- R96 -/
  | mcclr (f : CtlW)
  /-- R99 -/
  | rft (f : Bare)
  /-- R99 -/
  | trap (f : TrapK)
  /-- R63 -/
  | ifence (f : Bare)
  /-- R100 -/
  | pause (f : Bare)
  /-- R100 -/
  | sdrain (f : Bare)
  /-- R100 -/
  | halt (f : Bare)
  /-- R104 -/
  | vtype (f : R2)
  /-- R107 -/
  | mfg (f : R3)
  /-- R29 -/
  | zctw (f : R2)
  /-- R30 -/
  | zcswap (f : Bare)
  /-- R108 -/
  | strip (f : R3)
  /-- R112 -/
  | sclose (f : Bare)
  /-- R112 -/
  | scloseRel (f : Bare)
  /-- R116 -/
  | zld (f : R3)
  /-- R117 -/
  | zst (f : R2)
  /-- R118 -/
  | zfind (f : R2)
  /-- R119 -/
  | zskip (f : R3)
  /-- R120 -/
  | vld (f : V2)
  /-- R120 -/
  | vlds (f : V3)
  /-- R120 -/
  | vldb (f : V2)
  /-- R120 -/
  | vldo (f : V2)
  /-- R120 -/
  | vldso (f : V3)
  /-- R124 -/
  | vldx (f : V3)
  /-- R124 -/
  | vldxo (f : V3)
  /-- R120 -/
  | vst (f : V2)
  /-- R120 -/
  | vsts (f : V3)
  /-- R123 -/
  | vstc (f : V2)
  /-- R120 -/
  | vsto (f : V2)
  /-- R120 -/
  | vstso (f : V3)
  /-- R124 -/
  | vstx (f : V3)
  /-- R124 -/
  | vstxo (f : V3)
  /-- R132 -/
  | vadd (f : V3)
  /-- R132 -/
  | vsub (f : V3)
  /-- R132 -/
  | vmul (f : V3)
  /-- R132 -/
  | vdiv (f : V3)
  /-- R132 -/
  | vmin (f : V3)
  /-- R132 -/
  | vmax (f : V3)
  /-- R132 -/
  | vabsd (f : V3)
  /-- R132 -/
  | vand (f : V3)
  /-- R132 -/
  | vor (f : V3)
  /-- R132 -/
  | vxor (f : V3)
  /-- R132 -/
  | vsll (f : V3)
  /-- R132 -/
  | vsrl (f : V3)
  /-- R132 -/
  | vsra (f : V3)
  /-- R134 -/
  | vneg (f : V2)
  /-- R134 -/
  | vabs (f : V2)
  /-- R134 -/
  | vsqrt (f : V2)
  /-- R136 -/
  | vmov (f : V2)
  /-- R135 -/
  | vadds (f : V3)
  /-- R135 -/
  | vmuls (f : V3)
  /-- R135 -/
  | vbcast (f : VB)
  /-- R136 -/
  | vid (f : V1)
  /-- R137 -/
  | vfma (f : V3)
  /-- R137 -/
  | vfms (f : V3)
  /-- R137 -/
  | vfnma (f : V3)
  /-- R138 -/
  | vtsum (f : V3)
  /-- R139 -/
  | vtprod (f : V3)
  /-- R140 -/
  | vceq (f : V3)
  /-- R140 -/
  | vcne (f : V3)
  /-- R140 -/
  | vclt (f : V3)
  /-- R140 -/
  | vcle (f : V3)
  /-- R140 -/
  | vcnan (f : V3)
  /-- R145 -/
  | vcvt (f : V3)
  /-- R147 -/
  | vqnt (f : R2)
  /-- R148 -/
  | vdqnt (f : R2)
  /-- R141 -/
  | vsel (f : V3)
  /-- R142 -/
  | vslup (f : V3)
  /-- R142 -/
  | vsldn (f : V3)
  /-- R143 -/
  | vperm (f : V3)
  /-- R144 -/
  | vcomp (f : V2)
  /-- R149 -/
  | vredo (f : V3)
  /-- R150 -/
  | vredt (f : V3)
  /-- R149 -/
  | vscano (f : V3)
  /-- R150 -/
  | vscanf (f : V3)
  /-- R151 -/
  | vredmin (f : V3)
  /-- R151 -/
  | vredmax (f : V3)
  /-- R152 -/
  | mand (f : R3)
  /-- R152 -/
  | mor (f : R3)
  /-- R152 -/
  | mxor (f : R3)
  /-- R152 -/
  | mandn (f : R3)
  /-- R152 -/
  | mnot (f : R2)
  /-- R152 -/
  | mlen (f : R2)
  /-- R152 -/
  | mpop (f : R2)
  /-- R152 -/
  | mfirst (f : R2)
  /-- R161 -/
  | tmac (f : TMac)
  /-- R161 -/
  | tdist (f : TMac)
  /-- R169 -/
  | tcupd (f : TRow)
  /-- R169 -/
  | tacc (f : TRow)
  /-- R167 -/
  | tdrain (f : TRow)
  /-- R168 -/
  | tfill (f : TRow)
  /-- R166 -/
  | tzero (f : TRng)
  /-- R170 -/
  | tcdiv (f : TRng)
  /-- R166 -/
  | tcget (f : TRng)
  /-- R158 -/
  | tld (f : TLd)
  /-- R160 -/
  | tmode (f : Pair)
  /-- R160 -/
  | tmodr (f : Dst)
  /-- R160 -/
  | tmodc (f : Dst)
  /-- R164 -/
  | tbest (f : DstB)
  /-- R171 -/
  | tcnt (f : R2)
  /-- R202 -/
  | cfun (f : R3)
  /-- R202 -/
  | ccor (f : R3)
  /-- R202 -/
  | cseq (f : R3)
  /-- R202 -/
  | cpar (f : R3)
  /-- R202 -/
  | cpipe (f : R3)
  /-- R202 -/
  | cfarm (f : R3)
  /-- R202 -/
  | cloop (f : R3)
  /-- R204 -/
  | capply (f : R3)
  /-- R215 -/
  | cret (f : Pair)
  /-- R222 -/
  | cyield (f : R3)
  /-- R218 -/
  | wid (f : R2)
  /-- R221 -/
  | chput (f : R3)
  /-- R221 -/
  | chget (f : R3)
  /-- R227 -/
  | barv (f : R3)
  /-- R229 -/
  | barw (f : R3)
  /-- R227 -/
  | bara (f : R3)
  /-- R230 -/
  | amoSwap (f : Amo)
  /-- R230 -/
  | amoAdd (f : Amo)
  /-- R230 -/
  | amoAnd (f : Amo)
  /-- R230 -/
  | amoOr (f : Amo)
  /-- R230 -/
  | amoXor (f : Amo)
  /-- R230 -/
  | amoMin (f : Amo)
  /-- R230 -/
  | amoMax (f : Amo)
  /-- R230 -/
  | amoMinn (f : Amo)
  /-- R230 -/
  | amoMaxn (f : Amo)
  /-- R230 -/
  | amoCas (f : Amo)
  /-- R233 -/
  | scopen (f : Pair)
  /-- R234 -/
  | scaddO (f : R3)
  /-- R234 -/
  | scaddU (f : R3)
  /-- R236 -/
  | scflush (f : R2)
  /-- R231 -/
  | fence (f : FenceF)
  /-- R231 -/
  | fenceAcq (f : FenceF)
  /-- R231 -/
  | fenceRel (f : FenceF)
  /-- R273 -/
  | xcopy (f : Eng)
  /-- R276 -/
  | xcopyz (f : Eng)
  /-- R273 -/
  | xfill (f : Eng)
  /-- R280 -/
  | xquery (f : R3)
  /-- R279 -/
  | xgrid (f : R3)
  /-- R352 -/
  | xcoll (f : Eng)
  /-- R353 -/
  | xnote (f : R2)
  /-- Event, R192 -/
  | pop (q : Nat)
  /-- Event, R191 -/
  | aging
  /-- Event, R196 -/
  | timeSliceQuantum (u : Nat)
  /-- Event, R196 -/
  | tenantSwitch (u : Nat)
  /-- Event, R30 -/
  | classTableSwap (u : Nat)
  /-- Event, R30 -/
  | generationDrain (u : Nat)
  /-- Event, R229 -/
  | barwPhaseReached (q : Nat)
  /-- Event, R229 -/
  | barwTimeout (q : Nat)
  /-- Event, R269 -/
  | engineChunkComplete (c j : Nat)
  /-- Event, R267 -/
  | engineCommandComplete (c : Nat)
  /-- Event, R277 -/
  | engineCommandFail (c : Nat)
  /-- Event, R275 -/
  | translationStallResolved (c : Nat)
  /-- Event, R280 -/
  | xqueryAnswer (c : Nat)
  /-- Event, R279 -/
  | xgridDeclare (c : Nat)
  /-- Event, R235 -/
  | scaddUpdateArrival (n : Nat)
  /-- Event, R236 -/
  | scatterRoundClose (r : Nat)
  /-- Event, R352 -/
  | collectiveComplete (c : Nat)
  /-- Event, R297 -/
  | preemptionRequest (u : Nat) (why : Purpose)
  /-- Event, R299 -/
  | preemptEscalation (u : Nat)
  /-- Event, R301 -/
  | contextSave (u : Nat)
  /-- Event, R305 -/
  | contextRestore (u k : Nat)
  /-- Event, R290 -/
  | doubleFaultRecovery (q : Nat)
  /-- Event, R291 -/
  | haltedRecordEnd (q : Nat)
  /-- Event, R313 -/
  | tableRebuild (page : Nat)
  /-- Event, R337 -/
  | weltRebind (sole half : Nat)
  /-- Event, R322 -/
  | crcFailure (t : Transfer) (crc : BitVec 32)
  /-- Event, R329 -/
  | linkLaneRetrain (link lane : Nat)
  /-- Event, R340 -/
  | fabricFrameReceive (port : Nat) (f : Frame)
  /-- Event, R340 -/
  | keySwitch (port : Nat)
  /-- Event, R318 -/
  | poisonNotice (port : Nat) (device : Word) (n : NoticeBody)
  /-- Event, R347 -/
  | sessionGapTimeout (mgmt : Bool) (ep : Nat) (sess : BitVec 16)
  /-- Event, R343 -/
  | createPartition (h : Hdr) (b : CreateBody)
  /-- Event, R343 -/
  | destroyPartition (h : Hdr) (number : Nat)
  /-- Event, R338 -/
  | resize (h : Hdr) (number : Nat) (delta : Int)
  /-- Event, R341 -/
  | installKey (h : Hdr) (slot : Nat) (k1 k2 : BitVec 256)
  /-- Event, R341 -/
  | releaseKey (h : Hdr) (slot : Nat)
  /-- Event, R346 -/
  | setPatternTable (h : Hdr) (addr : Word)
  /-- Event, R346 -/
  | setHandler (h : Hdr) (addr : Word)
  /-- Event, R347 -/
  | openSession (h : Hdr)
  /-- Event, R347 -/
  | closeSession (h : Hdr)
  /-- Event, R251 -/
  | map (h : Hdr) (b : MapBody)
  /-- Event, R251 -/
  | unmap (h : Hdr) (addr size : Nat)
  /-- Event, R343 -/
  | copy (h : Hdr) (addr len : Nat) (toDevice : Option (List Byte))
  /-- Event, R180 -/
  | launch (h : Hdr) (addr : Word)
  /-- Event, R343 -/
  | cancel (h : Hdr) (token : Word)
  /-- Event, R345 -/
  | signal (h : Hdr) (addr val : Word)
  /-- Event, R362 -/
  | latencyTolerance (h : Hdr) (ns : Word)
  /-- Event, R348 -/
  | registerGroup (h : Hdr) (g : GroupBody)
  /-- Event, R339 -/
  | configurePort (h : Hdr) (port role : Nat)
  /-- Event, R364 -/
  | fetchDump (h : Hdr) (off len : Nat)
  /-- Event, R285 -/
  | readTrapLog (h : Hdr) (q count : Nat)
  /-- Event, R343 -/
  | unknownRequestType (h : Hdr)
  /-- Event, R357 -/
  | attest (h : Hdr) (nonce : BitVec 256)
  /-- Event, R359 -/
  | writeImage (h : Hdr) (off : Nat) (piece : List Byte)
  /-- Event, R359 -/
  | activateImage (h : Hdr)
  /-- Event, R360 -/
  | readSensors (h : Hdr)
  /-- Event, R361 -/
  | readErrorLog (h : Hdr) (first count : Nat)
  /-- Event, R364 -/
  | mgmtFetchDump (h : Hdr) (off len : Nat)
  /-- Event, R363 -/
  | resetDevice (h : Hdr)
  /-- Event, R362 -/
  | powerOff (h : Hdr)
  /-- Event, R355 -/
  | powerUp
  /-- Event, R360 -/
  | throttle
  /-- Event, R360 -/
  | criticalTemperature (sensor : Nat)
  /-- Event, R363 -/
  | watchdogExpiry
  /-- Event, R363 -/
  | fatalError (cause : Nat) (cls num : Nat) (detail : Word)
  /-- Event, R362 -/
  | powerStateEntry (p : Nat)
  /-- Event, R362 -/
  | wakeEvent (p : Nat)
  /-- Event, R60 -/
  | illegalInstruction
  /-- Event, R310 -/
  | instructionFetchFault
  /-- Event, R333 -/
  | powerLoss (writing : Bool)
  /-- Event, R360 -/
  | throttleRelease
  /-- Event, R352 -/
  | rankUnreachable (c : Nat)
  deriving DecidableEq, Repr

end Sys2Proof
end

