-- ==== Sys2Proof/WellFormed.lean ====
section
/-!
DEFINITION. Which operand values a description allows (R54, R60). A word whose operands are not well formed decodes
to its row, and its meaning takes illegal instruction at step 1 of R62. Every check here is a function of the
instruction alone.
-/

namespace Sys2Proof

/-- The access rights of a control register (R95): for everyone, in privileged mode only, or for nobody. -/
inductive Right where
  | all
  | priv
  | none
  deriving DecidableEq, Repr

/-- Read and write right of each control register number; `none` for a number outside the table of R95. -/
def ctlRights (n : Nat) : Option (Right × Right) :=
  match n with
  | 0x000 => some (.all, .all)
  | 0x001 => some (.all, .priv)
  | 0x002 => some (.all, .all)
  | 0x003 => some (.all, .all)
  | 0x004 => some (.all, .all)
  | 0x005 => some (.all, .priv)
  | 0x006 => some (.priv, .priv)
  | 0x010 => some (.priv, .priv)
  | 0x011 => some (.priv, .priv)
  | 0x012 => some (.priv, .priv)
  | 0x013 => some (.priv, .priv)
  | 0x014 => some (.priv, .priv)
  | 0x015 => some (.priv, .priv)
  | 0x016 => some (.priv, .priv)
  | 0x017 => some (.priv, .priv)
  | 0x020 => some (.all, .all)
  | 0x021 => some (.all, .priv)
  | 0x022 => some (.all, .priv)
  | 0x023 => some (.all, .priv)
  | 0x024 => some (.all, .priv)
  | 0x030 => some (.all, .none)
  | 0x031 => some (.all, .none)
  | 0x032 => some (.all, .none)
  | _ => Option.none

/-- The register can be read at all (R95). -/
def ctlReadable (n : Nat) : Bool := (ctlRights n).isSome

/-- The register can be written at all: a register whose write right is none makes the word illegal (R95). -/
def ctlWritable (n : Nat) : Bool :=
  match ctlRights n with
  | some (_, .all) => true
  | some (_, .priv) => true
  | some (_, .none) => false
  | Option.none => false

/-- The source formats of `vcvt` (R145). -/
def cvtFormatDefined (b : Nat) : Bool := b ≤ 12 || b == 16 || (20 ≤ b && b ≤ 23)

/-- Operand values that the instruction's description allows. -/
def Instr.wf : Instr → Bool
  | .loop f => 2 ≤ f.imm.toNat
  | .loopi f => 2 ≤ f.imm.toNat
  | .bgs f => f.k.val < 8
  | .bgsn f => f.k.val < 8
  | .mfc f => ctlReadable f.num.val
  | .mtc f => ctlWritable f.num.val
  | .mcset f => ctlWritable f.num.val
  | .mcclr f => ctlWritable f.num.val
  | .mfg f => f.b.val ≤ 9 && (8 ≤ f.b.val || f.a.val == 0)
  | .zctw f => f.d.val == 1 || f.d.val == 3
  | .vcvt f => cvtFormatDefined f.b.val
  | .vsel f => f.m.val != 0
  | .vcomp f => f.m.val != 0
  | .vceq f => f.d.val < 8
  | .vcne f => f.d.val < 8
  | .vclt f => f.d.val < 8
  | .vcle f => f.d.val < 8
  | .vcnan f => f.d.val < 8
  | .mand f => f.d.val < 8 && f.a.val < 8 && f.b.val < 8
  | .mor f => f.d.val < 8 && f.a.val < 8 && f.b.val < 8
  | .mxor f => f.d.val < 8 && f.a.val < 8 && f.b.val < 8
  | .mandn f => f.d.val < 8 && f.a.val < 8 && f.b.val < 8
  | .mnot f => f.d.val < 8 && f.a.val < 8
  | .mlen f => f.d.val < 8
  | .mpop f => f.a.val < 8
  | .mfirst f => f.a.val < 8
  | .tbest f => f.d.val == 0 || f.d != f.b
  | .tcnt f => f.a.val ≤ 3
  | .wid f => f.a.val ≤ 7
  | .fence f => f.scope.val ≤ 4
  | .fenceAcq f => f.scope.val ≤ 4
  | .fenceRel f => f.scope.val ≤ 4
  | _ => true

end Sys2Proof
end

