-- ==== Sys2Proof/Config.lean ====
section
/-!
DEFINITION. What the manual fixes as numbers (R4, R195, R249, R299, R300 and others), what the model chooses where the
manual leaves a placement open (marked, with the log entry), and the free values: constants without a body.
-/

namespace Sys2Proof.Config

/-! ### Figures of the manual -/

/-- Compute uppers of the package (R4); service cores follow as 512 to 519 (R95). -/
def uppers : Nat := 512
/-- Physical uppers, service cores included (R95). -/
def allUppers : Nat := 520
/-- Sequencers of an upper (R4). -/
def seqsPerUpper : Nat := 4
/-- Sectors of the strip store buffer (R109). -/
def bufferSectors : Nat := 512
/-- Rows of the undo journal (R157). -/
def journalRows : Nat := 64
/-- Records of a trap-log ring (R285). -/
def trapRing : Nat := 256
/-- Entries of the error log (R361). -/
def errorLog : Nat := 65536
/-- Outstanding engine commands of a sequencer (R266). -/
def maxCommands : Nat := 16
/-- Holding entries of a combining unit (R235). -/
def holdEntries : Nat := 16
/-- Clocks of 100 µs at 2.25 GHz: the quantum of R196 and the escalation delay of R299. -/
def clocks100us : Nat := 225000
/-- Clocks of 10 s, the gap limit of R347. -/
def clocks10s : Nat := 22500000000
/-- TIME in nanoseconds at a clock count: 4/9 ns per clock at 2.25 GHz (R4, R286). DEDUCED, log 11. -/
def timeNs (clock : Nat) : Nat := clock * 4 / 9

/-- L2 slices of a stack (R4). -/
def slicesPerStack : Nat := 384
/-- Bytes of tier one in a stack: 48 GiB (R4). -/
def stackBytes : Nat := 0xC00000000
/-- End of tier one in the physical map: four stacks (R249). -/
def tierOneEnd : Nat := 4 * stackBytes
/-- Start of tier two, partition-mappable (R249). -/
def tierTwo : Nat := 0x10000000000
/-- Start of the service region (R249). -/
def service : Nat := 0x1FE00000000
/-- End of physical memory (R249). -/
def physEnd : Nat := 0x20000000000
/-- First address of the global scratchpad window (R240). -/
def globalWindow : Nat := 0x1FFFFFF00000000
/-- First reserved address after the global window (R240). -/
def reservedWindow : Nat := 0x1FFFFFF80000000
/-- First address of the local scratchpad window (R240). -/
def localWindow : Nat := 0x1FFFFFFFFC00000

/-! ### Choices of the model -/

/-- Where the model keeps scratchpad bytes: location 2^41 + 2^22 x image + offset. No physical address lies there
(R249), so the two kinds of location never meet. DESIGN CHOICE, log 9. -/
def padBase : Nat := 0x20000000000
/-- Bytes of location space for one image: four soles of 1 MiB (R302). DESIGN CHOICE, log 9. -/
def padSize : Nat := 0x400000
/-- First image number of a logical core: launch n's logical core c has image 1024 + 4096 n + c. DESIGN CHOICE, log 9. -/
def imageBase : Nat := 1024

/-- Where the resident service starts to place page tables: inside the service region (R306). DESIGN CHOICE, log 10. -/
def tablePool : Nat := 0x1FE40000000
/-- Where that pool ends: the windows of the long-haul ports, 16 x 256 MiB, follow (R249). DESIGN CHOICE, log 10. -/
def tableEnd : Nat := 0x1FF00000000
/-- Where the resident service starts to take physical pages for partitions: tier two, 64 KiB pages for frame pools and
mapped pages. DESIGN CHOICE, log 10. -/
def pagePool : Nat := 0x10000000000
/-- Virtual address of the standard handler's code (R346). DESIGN CHOICE, log 10. -/
def stdHandlerVa : Nat := 0x1FFFF0000000000
/-- Virtual address of a partition's frame pool (R209, R343). DESIGN CHOICE, log 10. -/
def framePoolVa : Nat := 0x1FFFE0000000000
/-- The default aging threshold in units of 1,024 clocks (R180). -/
def agingDefault : Nat := 1024

/-! ### Free values and device-private functions: no body, so nothing can be proved about their values -/

/-- The picks that form the unspecified fold of `vredt` and `vscanf` (R46, R150). Free value, log 7. -/
opaque freePick : Nat → Nat
/-- Bits read past the end of a register group, where a fill count written under another type reaches (R105, R106).
Free value, log 7. -/
opaque beyondGroup : Nat → Nat → Bool
/-- The bytes of a device-private format: a round's overflow area (R235, R263) and a channel's wait state (R219). Free
value, log 7. -/
opaque privateByte : Nat → Byte
/-- The device-private hash that chooses the home L2 slice of a line (R248). Free value, log 8. -/
opaque homeSlice : Nat → Nat
/-- RSA-3072 signatures under key 0 (Urmen's) or 1 (the device's) over a message (R332, R357, R364). Log 14. -/
opaque sign : Nat → List Byte → BitVec 3072
/-- Whether a firmware image verifies under Urmen's key (R355 step 1). Log 14. -/
opaque imageSigned : List Byte → Bool
/-- The version a firmware image carries (R355 step 1, R359). Log 5. -/
opaque imageVersion : List Byte → Nat
/-- Whether a given image reaches ready at its n-th boot (R359 step 3). Log 5. -/
opaque imageReady : List Byte → Nat → Bool
/-- The device identifier (R332, R357). Log 5. -/
opaque deviceId : Word
/-- The certificate of the device key, signed by Urmen (R357). Log 5. -/
opaque certificate : List Byte
/-- The boot ROM's version (R356). Log 5. -/
opaque romVersion : Word
/-- The signed service image (R355 step 6). Log 5. -/
opaque serviceImage : List Byte
/-- Contents of the error registers in a dump (R364). Log 14. -/
opaque errorRegisters : Nat → Byte
/-- The result of the rebinding search among bindings that change equally many uppers (R337). Log 4. -/
opaque bindingPick : Nat → Nat

end Sys2Proof.Config
end

