-- ==== Sys2Proof/Machine/State.lean ====
section
/-!
DEFINITION. The state of the whole device as plain data, and the state after reset. Sequencers, uppers, sole images,
partitions and the rest stand in sparse maps: a key that is absent stands for the reset value.
-/

namespace Sys2Proof.Machine

/-! ### Sparse maps -/

/-- A map from numbers, kept as a list of pairs with rising keys. -/
abbrev SMap (α : Type) := List (Nat × α)

/-- The value at a key. -/
def SMap.find {α : Type} (m : SMap α) (k : Nat) : Option α :=
  match m with
  | [] => none
  | (j, v) :: t => if j = k then some v else SMap.find t k

/-- Store a value at a key, keeping the keys rising. -/
def SMap.put {α : Type} (m : SMap α) (k : Nat) (v : α) : SMap α :=
  match m with
  | [] => [(k, v)]
  | (j, u) :: t => if k < j then (k, v) :: (j, u) :: t else if j = k then (k, v) :: t else (j, u) :: SMap.put t k v

/-- Remove a key. -/
def SMap.del {α : Type} (m : SMap α) (k : Nat) : SMap α :=
  match m with
  | [] => []
  | (j, v) :: t => if j = k then t else (j, v) :: SMap.del t k

/-! ### Types of data (R103) -/

/-- The plain formats in the order of the w field (R103). -/
inductive Fmt where
  | i8 | i16 | i32 | i64 | n8 | n16 | n32 | n64 | f16 | fp32 | bf16 | e4m3 | e5m2 | eb
  deriving DecidableEq, Repr

/-- The family of a type (R103); PZF carries its precision P. -/
inductive Fam where
  | plain (f : Fmt)
  | pzi
  | pzf (p : Nat)
  deriving DecidableEq, Repr

/-- The rounding modes (R40, R103). -/
inductive Rm where
  | ne | tz | dn | up | sr
  deriving DecidableEq, Repr

/-- A valid type register (R102): g is the multiplier 1, 2, 4 or 8. -/
structure VType where
  fam : Fam
  g   : Nat
  bb  : Nat
  eb  : Int
  ct  : Bool
  rm  : Rm
  sat : Bool
  deriving DecidableEq, Repr

/-! ### Engine commands (R266 to R280, R350) -/

/-- A class table: eight widths (R24). -/
abbrev Widths := Vector Nat 8

/-- Who makes an access (R240 to R242, R309): partition, privilege, sole image and backed gang width of the local
window, and the deterministic launch with its grid. -/
structure Ctx where
  part  : Nat
  priv  : Bool
  image : Nat
  gang  : Nat
  det   : Option (Nat × Nat)
  deriving DecidableEq, Repr

/-- The fields of a collective's plan (R350). -/
structure Plan where
  op    : Nat
  type  : Nat
  comp1 : Bool
  comp2 : Bool
  count : Nat
  src   : Nat
  dst   : Nat
  res   : Nat
  ident : Word
  group : Nat
  rank  : Nat
  seed  : Word
  deriving DecidableEq, Repr

/-- What an engine command does (R272, R279, R280, R352, R353). -/
inductive CmdKind where
  | copy (src : Nat)
  | fill (pattern : Word)
  | expand (src : Nat) (fam : Fam) (eb : Int) (fmt : Fmt) (rm : Rm) (sat : Bool) (ct : Bool) (table : Widths) (gen : BitVec 16)
  | query (grid ans : Nat)
  | gridDecl (grid : Nat) (dims : Word)
  | coll (p : Plan)
  | note (val : Word)
  deriving DecidableEq, Repr

/-- A tile of an expansion as decoded (R276): the bits of its elements from the lowest, the cursor, the elements derived from marked
bytes, and whether a marked prefix has placed the cursor. -/
structure Tile where
  bits   : Nat
  cursor : Nat
  marked : List Nat
  tainted : Bool
  deriving DecidableEq, Repr

/-- An outstanding engine command (R266 to R277). `seq` issued it, with the accesses `ctx` and DET bit of the issue;
`launch`, `core` and `wid` name its record's launch, sum and identifier. `chunks` are the chunks done, `held` the source
sectors read ahead of their write (R273) as data and mark, `wrote` the destination sectors written so far by virtual
address: byte enables, data, mark. -/
structure Command where
  seq    : Nat
  kind   : CmdKind
  dst    : Nat
  len    : Nat
  bar    : Nat
  mask   : Nat
  ctx    : Ctx
  det    : Bool
  launch : Nat
  core   : Nat
  wid    : Word
  /-- the next source bit of an expansion (R276), and its tiles written whole -/
  cursor : Nat
  tiles  : Nat
  /-- the tile decoded and not yet written whole (R276) -/
  tile   : Option Tile
  chunks : List Nat
  held   : SMap (BitVec 256 × Bool)
  wrote  : SMap (BitVec 32 × BitVec 256 × Bool)
  /-- the command waits for a page that the service can map (R275) -/
  stalled : Bool
  /-- what a collective has formed so far, by level (R349): the rank's own elements at 0, the contributions of a leader at 1 and 2
  as fp32 bits; each with its mark -/
  formed : SMap (List (Nat × Bool))
  deriving DecidableEq, Repr

/-! ### The sequencer (R8, R10, R95) -/

/-- One held entry of the loop stack (R91, R95). -/
structure LoopEntry where
  start : Word
  stop  : Word
  count : Word
  deriving DecidableEq, Repr

/-- The hardware loop stack: six held entries and the depth (R8, R95). -/
structure Loops where
  held  : Vector LoopEntry 6
  depth : Nat
  deriving DecidableEq, Repr

/-- A vector register: its bits (the low 8,192 x gang width are used), fill count, fill length and the elements marked
uncorrectable (R8, R336, R315). -/
structure VReg where
  bits  : BitVec 32768
  count : Nat
  len   : Nat
  marks : List Nat
  deriving DecidableEq, Repr

/-- The grant file (R8, R115). -/
structure GrantFile where
  gl : Word
  gk : Word
  gp : Word
  ga : Word
  gb : Word
  gd : Word
  gs : BitVec 3
  deriving DecidableEq, Repr

/-- The control registers that hold a value (R10, R95). -/
structure Ctl where
  status  : Word
  det     : Word
  chk     : Word
  sdseed  : Word
  sbase   : Word
  ptab    : Word
  tvec    : Word
  cause   : Word
  trappc  : Word
  addr    : Word
  elem    : Word
  tstatus : Word
  resume  : Word
  target  : Word
  scratch : Word
  lsel    : Word
  deriving DecidableEq, Repr

/-- What a pending token register waits for: an engine command, a nest or a scatter round (R213, R236, R267). -/
inductive Tok where
  | cmd (id : Nat)
  | nest (id : Nat)
  | round (loc : Nat)
  deriving DecidableEq, Repr

/-- The exception counters of a truss context (R153). -/
structure Tx where
  ov : Nat
  nv : Nat
  nx : Nat
  deriving DecidableEq, Repr

/-- A truss context (R153): the mode image, `tm.c`, the best register (index, fp32 value) when valid, the counters. -/
structure Truss where
  tm  : Word
  tmc : BitVec 32
  tb  : Option (Nat × BitVec 32)
  tx  : Tx
  deriving DecidableEq, Repr

/-- What a `strip` checkpoint holds (R17, R268), the undo journal apart. -/
structure Checkpoint where
  regs  : Vector Word 32
  loops : Loops
  grant : GrantFile
  flags : Word
  tx    : Tx
  pend  : SMap Tok
  deriving DecidableEq, Repr

/-- One sector of the strip store buffer (R109): its virtual address, byte enables and data. -/
structure BufSector where
  va   : Nat
  en   : BitVec 32
  data : BitVec 256
  deriving DecidableEq, Repr

/-- An accumulator row with its count cell and marks (R153, R315): column n is bits 32n+31 to 32n. -/
structure Row where
  cols  : BitVec 8192
  count : Nat
  marks : List Nat
  deriving DecidableEq, Repr

/-- An open strip (R8, R17, R18): the address of its `strip` word, the checkpoint, the store buffer by location sector,
and the journalled rows (R157). -/
structure Strip where
  pc      : VAddr
  ck      : Checkpoint
  buf     : SMap BufSector
  journal : SMap Row
  deriving DecidableEq, Repr

/-- Two delay slots, or the words that `rft` still owes before a transfer (R14, R99): words left, and the target when
the transfer is taken. -/
structure Delay where
  left   : Nat
  target : Option VAddr
  deriving DecidableEq, Repr

/-- A continuation record in flight (R183, R184, R206, R365). `node` is the nest and node it instantiates; a free record
has none. `resume` belongs to a coroutine to be resumed from its save block (R222): the register that its `cyield` then
sets to 0, and the scatter round it holds (R233); a record to be entered afresh has none. -/
structure Rec where
  code   : Word
  frame  : Word
  join   : Word
  wid    : Word
  part   : Nat
  launch : Nat
  depth  : Nat
  node   : Option (Nat × Nat)
  coro   : Bool
  resume : Option (Reg × Option Nat)
  serial : Nat
  deriving DecidableEq, Repr

/-- A load performed ahead of its place (R258, R260; log 2): `size` bytes at a location, read for element `elem` of the word that
will take it, as they stood then; `writers` are the parties that have written to one of them since, each with the image of its
context at the write (R254). -/
structure Early where
  loc  : Nat
  size : Nat
  elem : Nat
  data : Nat
  bad  : Bool
  writers : List (Nat × Nat)
  deriving DecidableEq, Repr

/-- A load that can still be performed after words that follow it (R258, R260; log 2): the register that no word has read or written
since, the bytes, and how they are extended. An element of a vector load stands in the group of `span` registers from `reg` on, its
first bit at `pos`; a scalar load has no `pos`. -/
structure Late where
  reg    : Reg
  pos    : Option Nat
  span   : Nat
  loc    : Nat
  size   : Nat
  signed : Bool
  deriving DecidableEq, Repr

/-- The accesses of one store of the open strip, in the order of its elements, as sector and byte enables, and whether they are ordered
(R255, R256, R258; log 2). -/
structure StoreShape where
  ordered : Bool
  parts   : List (Nat × BitVec 32)
  deriving DecidableEq, Repr

/-- A write of a commit that other parties do not see yet (R255, R258; log 2): the bytes of one access in a sector, and the bytes that
the commit writes of that sector in all; the clock of the commit, the store among those of its strip, the access among those of its
store, and whether they are ordered. -/
structure Unseen where
  sec  : Nat
  en   : BitVec 32
  data : BitVec 256
  all  : BitVec 32
  time : Nat
  store : Nat
  rank : Nat
  ordered : Bool
  deriving DecidableEq, Repr

/-- A waiting `barw` (R229): the word's fields, object address, target phase, deadline in clocks. -/
structure BarWait where
  word     : R3
  addr     : Nat
  target   : Nat
  deadline : Option Nat
  deriving DecidableEq, Repr

/-- Why a sequencer does not fetch: nothing to run, a waiting `barw`, a stop for the context-save engine with the kind
of R303, `halt`, a double fault. -/
inductive Mode where
  | idle
  | running
  | barw (b : BarWait)
  | stopped (kind : Nat)
  | halted
  | doubleFault
  deriving DecidableEq, Repr

/-- The values that a double fault latches (R289): cause, TRAPPC, TRAPADDR and TRAPELEM. -/
structure Shadow where
  cause : Nat
  pc    : Word
  addr  : Word
  elem  : Word
  deriving DecidableEq, Repr

/-- A trap record (R285). -/
structure TrapRec where
  time   : Nat
  seq    : Nat
  cause  : Nat
  seqid  : Nat
  strip  : Bool
  second : Option Nat
  pc     : Word
  addr   : Word
  elem   : Word
  wid    : Word
  other  : Word
  deriving DecidableEq, Repr

/-- A sequencer (R8 and the rules that each field cites). -/
structure Seq where
  pc     : VAddr
  regs   : Vector Word 32
  vregs  : Vector VReg 32
  masks  : Vector (BitVec 4096) 8
  vt     : Option VType
  grant  : GrantFile
  loops  : Loops
  ctl    : Ctl
  delay  : Option Delay
  /-- the transfer of a word that `rft` still owed, which goes on after the owed transfer (R14, R99; log 61) -/
  owed   : Option Delay
  strip  : Option Strip
  truss  : Truss
  /-- the reserved 64-byte granule, as a location divided by 64 (R86) -/
  resv   : Option Nat
  pend   : SMap Tok
  /-- elements of mask registers marked uncorrectable (R315): element n of mask k is 4,096 k + n -/
  mmarks : List Nat
  /-- a command whose issue checks have passed and which waits for the interlocks of R266 and R269 -/
  posted : Option Command
  /-- loads performed ahead of their place (R258), the newest first -/
  early  : List Early
  /-- loads that may still be performed later than they stand (R258) -/
  late   : List Late
  /-- the stores of the open strip, the oldest first (R255) -/
  shapes : List StoreShape
  /-- writes of commits that other parties do not see yet, the oldest first (R258) -/
  unseen : List Unseen
  /-- registers that hold a token's value no word has read yet (R258) -/
  tokens : List Nat
  /-- mask bits that an engine command has set and no governing read has acquired yet (R259): bit n of mask k is 4,096 k + n -/
  marked : List Nat
  /-- registers written by a fixed-latency operation, with the nominal clocks still missing (R57) -/
  dist   : SMap Nat
  /-- registers written by a fixed-latency operation, with the clock from which the result is available (R57) -/
  avail  : SMap Nat
  /-- earliest clock at which the next word may issue (R56) -/
  ready  : Nat
  mode   : Mode
  work   : Option Rec
  level  : Nat
  /-- the age of the record when it was popped (R188) -/
  age    : Nat
  /-- the descriptor location of the scatter round held (R233) -/
  held   : Option Nat
  /-- words fetched before a store changed them (R63): virtual address and word -/
  fetched : SMap (BitVec 32)
  window : Bool
  /-- a strip was open when the last trap was taken (R285) -/
  openAt : Bool
  /-- the hardware is restarting a strip after a check mismatch: it counts as open (R30, R293) -/
  replay : Bool
  shadow : Option (Shadow × Shadow)
  /-- sequence number of the last trap record (R286) -/
  trapSeq : Nat
  ring   : List TrapRec
  deriving DecidableEq, Repr

/-! ### Uppers and soles -/

/-- The four tables of one copy (R26, R28). -/
abbrev Tables := Vector Widths 4

/-- Whose records an upper runs (R196, R366). -/
inductive Tenant where
  | ordinary
  | logical (launch core : Nat)
  deriving DecidableEq, Repr

/-- Power states of a partition's cores (R362). -/
inductive Power where
  | run | clockGated | soleGated | upperGated
  deriving DecidableEq, Repr

/-- A front end (R28, R196, R297). -/
structure Upper where
  active  : Tables
  shadow  : Tables
  gen     : BitVec 16
  /-- the sequencer whose `zcswap` has issued and not completed, whether its swap has taken effect, and the word's wait
  count (R30) -/
  swapWait : Option (Nat × Bool × Wait)
  /-- sequencers whose `zcswap` has issued and waits behind another's (R30) -/
  swapQueue : List Nat
  /-- clock of the upper's reset: the origin of CYCLE (R95) -/
  origin  : Nat
  tenant  : Tenant
  /-- clock at which the running tenant was switched in (R196) -/
  since   : Nat
  /-- clock at which each other tenant was switched out (R196) -/
  outAt   : List (Tenant × Nat)
  /-- a pre-emption request with its clock (R297, R299) -/
  preempt : Option (Purpose × Nat)
  throttled : Bool
  power   : Power
  deriving DecidableEq, Repr

/-- A weight slot (R153, R158): its tag, and the tile's bytes as they lie in memory, byte k at bits 8k+7 to 8k. -/
structure Slot where
  tag   : Option Fmt
  bits  : BitVec 327680
  marks : List Nat
  deriving DecidableEq, Repr

/-- What keeps a checking position pinned (R320): the sequencer and the address of its word, the address of the `strip` word
whose strip is restarted (the word's own address outside a strip), and whether the failure has been marked already (R321). -/
structure Pin where
  seq    : Nat
  pc     : Nat
  home   : Nat
  marked : Bool
  deriving DecidableEq, Repr

/-- The checking positions of a sole, lane and column, and what keeps each pinned (R172, R319, R320). -/
structure Checks where
  lane    : Nat
  col     : Nat
  lanePin : Option Pin
  colPin  : Option Pin
  deriving DecidableEq, Repr

/-- A core's sole state, or a logical core's image of it, the scratchpad bytes apart (R153, R221). -/
structure Sole where
  slots : Vector Slot 4
  rows  : SMap Row
  /-- channel-area lines with the live bit set, as sole-0 offsets (R221) -/
  live  : List Nat
  deriving DecidableEq, Repr

/-! ### Partitions, launches, nests, queues -/

/-- A core of a partition (R3, R242, R334): leader upper, gang width, slot number. -/
structure CoreOf where
  leader : Nat
  width  : Nat
  slot   : Nat
  deriving DecidableEq, Repr

/-- A mapped range, as the map request gave it (R251): `page` is the level of its leaves, `perm` their bits 5 to 0 (R308),
`service` marks the pages the service mapped for itself. -/
structure MapRange where
  va   : Nat
  size : Nat
  page : Nat
  key  : Nat
  perm : Nat
  service : Bool
  deriving DecidableEq, Repr

/-- A partition (R176, R343, R346). -/
structure Partition where
  cores   : List CoreOf
  root    : Nat
  ptab    : Option Word
  handler : Option Word
  stdVa   : Nat
  pool    : Nat × Nat
  slotsPerUpper : Nat
  area    : Nat
  share   : Nat
  tolerance : Nat
  maps    : List MapRange
  groups  : List GroupBody
  /-- leaders of the gangs formed for the partition, which stand until it is destroyed (R334) -/
  gangs   : List Nat
  /-- physical addresses of the save areas set up for the partition, by the image that holds the
  context's sole state and the gang width (R301) -/
  saveAreas : SMap Nat
  /-- depths of the partition's free records, by the address of the frame (R365) -/
  frames : SMap Nat
  deriving DecidableEq, Repr

/-- A launch (R180, R195, R209, R323): `areas` are the frame areas of a deterministic launch, `sums` the digest sums
S[L], `streams` the entries of the streams still open by record serial (those of a closed round are summed at the close). -/
structure Launch where
  part   : Nat
  det    : Bool
  gang   : Nat
  widths : List Nat
  grid   : Nat
  prio   : Nat
  token  : Nat
  theta  : Nat
  frame  : Word
  areas  : List (Nat × Nat)
  remap  : List Nat
  sums   : SMap (BitVec 256)
  streams : SMap (List Byte)
  cancelled : Bool
  /-- the token's final value, once it has been written (R181, R344) -/
  final  : Option Word
  hdr    : Hdr
  deriving DecidableEq, Repr

/-- The kinds of a pattern entry (R200). -/
inductive Kind where
  | fn | cor | sq | par | pipe | farm | loop
  deriving DecidableEq, Repr

/-- How far a node has come (R212, R217). -/
inductive Progress where
  | waiting | started | ended
  deriving DecidableEq, Repr

/-- A node of a nest: the hardware's copy of its start line and continuation, and its place in the tree
(R205 to R212). -/
structure Node where
  entry   : Nat
  kind    : Kind
  route   : Nat
  parent  : Option Nat
  kids    : List Nat
  handler : Option Nat
  /-- the node that a handler instance serves (R205) -/
  serves  : Option Nat
  frame   : Nat
  wid     : Word
  depth   : Nat
  code    : Word
  inCh    : Nat
  outCh   : Nat
  chan    : Nat
  phase   : Nat
  iter    : Nat
  result  : Word
  progress : Progress
  /-- cancellation requested while the node's record runs (R217) -/
  cancel  : Bool
  /-- the hardware's write of the node's frame faulted: its record is not entered (R310) -/
  lost    : Bool
  /-- nodes and frame bytes of the subtree, handlers included (R205, R209) -/
  count   : Nat
  span    : Nat
  deriving DecidableEq, Repr

/-- Where a nest's final token goes (R181, R213). -/
inductive NestTok where
  | register
  | memory (launch : Nat)
  deriving DecidableEq, Repr

/-- What a nest has reserved (R208). -/
structure Claims where
  frames  : Nat
  queue   : Nat
  scratch : Nat
  slots   : Nat
  deriving DecidableEq, Repr

/-- A resident nest (R204 to R212): the launch it belongs to, its root level, its frame block and channels (image,
offset, size), its claims. -/
structure Nest where
  launch : Nat
  part   : Nat
  token  : NestTok
  level  : Nat
  args   : Word
  base   : Nat
  size   : Nat
  /-- the logical core whose frame area the block lies in, for a deterministic launch (R209) -/
  area   : Option Nat
  chans  : List (Nat × Nat × Nat)
  claims : Claims
  nodes  : List Node
  deriving DecidableEq, Repr

/-- A queued record (R188, R189): its place (an upper, or a logical core of its launch), level, age, and the clock at which
it came to stand there; `saved` is the context of a pre-empted record. Queue order is list order. -/
structure QEntry where
  work  : Rec
  place : Nat
  level : Nat
  age   : Nat
  entered : Nat
  overdue : Bool
  saved : Option Seq
  /-- where the record stands in a queue's ring beyond the head, as a virtual address of its partition (R188, R309) -/
  ring  : Option Nat
  /-- where the block of a pre-empted record stands in a save area, as a physical address (R301) -/
  block : Option Nat
  deriving DecidableEq, Repr

/-- A coroutine record that waits on a channel (R222): the channel's control-line location, the condition (0 not full,
1 not empty), and where it yielded. -/
structure Yield where
  work  : Rec
  chan  : Nat
  cond  : Nat
  place : Nat
  level : Nat
  deriving DecidableEq, Repr

/-! ### Scatter rounds -/

/-- A scatter-add update on its way or held (R234, R235): its round's descriptor location, none for an unordered addition; its
sequencer and format, target, tag (work identifier and index), value, and the serial of the record that sent it. -/
structure Update where
  round  : Option Nat
  by_    : Nat
  fmt    : Fmt
  va     : Nat
  loc    : Nat
  wid    : Word
  idx    : Word
  val    : Nat
  src    : Nat
  deriving DecidableEq, Repr

/-- A scatter round as its home slice keeps it (R232 to R236): the accesses of the participant that opened it, the
descriptor's address, and the spilled runs, oldest first. -/
structure Round where
  ctx    : Ctx
  launch : Nat
  va     : Nat
  fmt    : Fmt
  parts  : Nat
  joined : Nat
  flushed : Nat
  closing : Bool
  base   : Nat
  size   : Nat
  used   : Nat
  failed : Bool
  runs   : List (List Update)
  /-- serials of participants that have ended while updates of theirs were on their way (R233) -/
  leaving : List Nat
  deriving DecidableEq, Repr

/-! ### The device -/

/-- A message the device has sent to a host (R342 to R344, R353, R354): port side, endpoint, type, status, tag, body. -/
structure Msg where
  mgmt   : Bool
  ep     : Nat
  type   : Nat
  status : Nat
  sess   : BitVec 16
  seq    : Word
  tag    : Word
  part   : Nat
  body   : List Byte
  deriving DecidableEq, Repr

/-- What a request asks for (R343, R354): the body of a request without its header. -/
inductive Req where
  | createPartition (b : CreateBody)
  | destroyPartition (number : Nat)
  | resize (number : Nat) (delta : Int)
  | installKey (slot : Nat) (k1 k2 : BitVec 256)
  | releaseKey (slot : Nat)
  | setPatternTable (addr : Word)
  | setHandler (addr : Word)
  | openSession
  | closeSession
  | map (b : MapBody)
  | unmap (addr size : Nat)
  | copy (addr len : Nat) (toDevice : Option (List Byte))
  | launch (addr : Word)
  | cancel (token : Word)
  | signal (addr val : Word)
  | latencyTolerance (ns : Word)
  | registerGroup (g : GroupBody)
  | configurePort (port role : Nat)
  | fetchDump (off len : Nat)
  | readTrapLog (q count : Nat)
  | attest (nonce : BitVec 256)
  | writeImage (off : Nat) (piece : List Byte)
  | activateImage
  | readSensors
  | readErrorLog (first count : Nat)
  | mgmtFetchDump (off len : Nat)
  | resetDevice
  | powerOff
  | unknown
  deriving DecidableEq, Repr

/-- A request that waits in its session (R345, R347): its number, header and body, the clock at which it came and, for a resize under
way, the number of its change among those that take effect one at a time (R337), with the uppers that are still to leave. -/
structure Held where
  num  : Nat
  hdr  : Hdr
  req  : Req
  since : Nat
  turn : Option (Nat × Option (List Nat))
  deriving DecidableEq, Repr

/-- An open session (R347): next number, waiting requests by number, kept replies, clock since a gap stands. -/
structure Session where
  mgmt : Bool
  ep   : Nat
  sess : BitVec 16
  next : Nat
  held : List Held
  kept : List (Nat × Msg)
  gapSince : Option Nat
  deriving DecidableEq, Repr

/-- A port (R339, R340): role, keys installed and not yet used, the key in use, the packet number. -/
structure Port where
  role : Nat
  key  : Option (BitVec 256)
  next : List (BitVec 256)
  pn   : Nat
  deriving DecidableEq, Repr

/-- A memory key slot (R341). -/
structure KeySlot where
  part : Nat
  k1   : BitVec 256
  k2   : BitVec 256
  deriving DecidableEq, Repr

/-- An entry of the error log (R361). -/
structure LogEntry where
  time : Nat
  kind : Nat
  part : Nat
  cls  : Nat
  num  : Nat
  cont : Bool
  d1   : Word
  d2   : Word
  deriving DecidableEq, Repr

/-- A repair record (R332): format, update count, signer, device, whether its signature is valid, half-sole status by half
number 2 x sole + half, and the base welt map where it differs from the plain binding. -/
structure Repair where
  format : Nat
  count  : Nat
  signer : Nat
  device : Word
  valid  : Bool
  status : SMap Nat
  welt   : SMap Word
  deriving DecidableEq, Repr

/-- A firmware slot and the boot state (R355, R358, R359). -/
structure Flash where
  slots   : Vector (List Byte) 2
  active  : Nat
  pending : Bool
  tries   : Nat
  rollback : Nat
  repair  : Vector Repair 2
  deriving DecidableEq, Repr

/-- The package's own state (R355, R362, R363): serving, after a fatal error, off, or stopped in a boot that found no
valid image (R355 step 1). -/
inductive Running where
  | up | fatal | off | unbooted
  deriving DecidableEq, Repr

/-- A dump (R363, R364): what the device held at the fatal error, from which every byte of the dump follows; the queued
records with the uppers at which they stand. -/
structure Dump where
  time  : Nat
  cause : Nat
  seqs  : SMap Seq
  parts : SMap Partition
  queue : List QEntry
  welt  : SMap Word
  rounds : SMap Round
  deriving DecidableEq, Repr

/-- A saved core context (R301 to R304): which upper, its partition and gang width, the tenant that ran, the sequencers, the
tables. The sole images stay where they are in the model (log 9). A tenant that is switched out has an entry with its
tables and no sequencers. -/
structure Saved where
  upper : Nat
  part  : Nat
  tenant : Tenant
  seqs  : List Seq
  active : Tables
  shadow : Tables
  gen   : BitVec 16
  time  : Nat
  purpose : Purpose
  gang  : Nat
  /-- clock at which the tenant was switched in (R196) -/
  since : Nat
  /-- physical address of the save area in tier two (R301, R302); none for a tenant's tables -/
  area  : Option Nat
  deriving DecidableEq, Repr

/-- A poison notice (R318): the peer device it goes to, the device that sends it, the identifier of the collective, and the
destination ranges as byte offset and length (log 49). -/
structure Notice where
  peer   : Word
  device : Word
  ident  : Word
  ranges : List (Nat × Nat)
  deriving DecidableEq, Repr

/-- What the device shows or reports at a port outside any request: ready (R355 step 7), no firmware that boots (R355 step 1), no
repair record that qualifies (R333), a service image that does not verify (R355 step 6), a poison notice (R318). -/
inductive PortReport where
  | ready
  | noFirmware
  | noRepair
  | noService
  | poison (n : Notice)
  deriving DecidableEq, Repr

/-- What takes effect one at a time (R337): the rebinding around a half-sole that is failing, with the chain of uppers that give
up a half and take another once it has been chosen; a resize; the removal of the core of an upper. -/
inductive Change where
  | rebind (half : Nat) (links : Option (List (Nat × Nat × Nat)))
  | resize (id : Nat)
  | removal (upper : Nat)
  deriving DecidableEq, Repr

/-- Everything of the device outside the cores and the memory. -/
structure Dev where
  running : Running
  keys    : SMap KeySlot
  ports   : SMap Port
  /-- the welt map in force, where it differs from the plain binding (R331) -/
  welt    : SMap Word
  /-- half-sole status by half number 2 x sole + half; absent is 0, good (R332) -/
  halves  : SMap Nat
  flash   : Flash
  meas    : Vector (BitVec 256) 8
  log     : List LogEntry
  lost    : Nat
  sensors : SMap Nat
  /-- for each sensor above its critical limit, the clock since which it is (R360) -/
  hot     : SMap Nat
  fatal   : Option (Nat × Word)
  dump    : Option Dump
  sessions : List Session
  out     : List Msg
  /-- frames received and not yet used (R340, R352) -/
  frames  : List Frame
  /-- contributions sent to peers (R340, R349), and notices sent and received (R318) -/
  sent    : List Frame
  noticed : List Notice
  notices : List Notice
  /-- serving: the compute uppers are bound (R333) -/
  bound   : Bool
  /-- reports on the management port (true) and the host ports (false), oldest first (R318, R333, R355) -/
  reports : List (Bool × PortReport)
  /-- the firmware image that runs (R355, R357) -/
  image   : List Byte
  /-- stacks whose tier one is in self-refresh (R362) -/
  refresh : List Nat
  /-- transactions whose CRC has failed, with the failures so far (R322) -/
  crc     : List (Transfer × Nat)
  /-- binding changes, resizes and removals in the order the cobbler received them (R337) -/
  changes : List Change
  deriving DecidableEq, Repr

/-- Physical memory and translation caches. -/
structure Mem where
  cells  : List Host.Cell
  /-- poisoned 32-byte sectors, as location divided by 32, rising (R315) -/
  poison : List Nat
  /-- sectors whose mark came with a read that failed its CRC four times (R322): the memory below still holds them sound -/
  returned : List Nat
  /-- table pages with a negative entry, as physical address divided by 4,096 (R312) -/
  negative : List Nat
  /-- cached translations (R311, R312): partition, virtual page, physical page, permission bits, table pages used -/
  tlb    : List (Nat × Nat × Nat × Nat × List Nat)
  /-- the service's shadow copy of every table page, at the locations of the pages (R306) -/
  tables : List Host.Cell
  deriving DecidableEq, Repr

/-- A corrected soft error, by the structure that held the data (R361 kind 1): an address of tier one; an address of tier two with
its controller; an address as an L2 slice holds it; a location of a scratchpad, on the sole of an upper; an offset of a
sequencer's block (R303) or of a sole's image (R304); an offset of the flash. -/
inductive Soft where
  | tierOne (pa : Nat)
  | tierTwo (pa controller : Nat)
  | slice (pa : Nat)
  | pad (upper loc : Nat)
  | block (q off : Nat)
  | sole (upper off : Nat)
  | flash (off : Nat)
  deriving DecidableEq, Repr

/-- What acts in a step that does not come from the default schedule (log 1): an event of the opcode table, the choice
of the sequencer whose turn it is, the passing of clocks, and the physical happenings the manual leaves to chance. -/
inductive Agent where
  | event (i : Instr)
  | select (q : Nat)
  | tick (n : Nat)
  /-- sequencer q fetches the word at a virtual address ahead of its issue (R63) -/
  | prefetch (q va : Nat)
  /-- a line loses its data: the sector of a location becomes uncorrectable (R315) -/
  | poisonSector (sec : Nat)
  /-- a vector register's byte, a mask's element, a row's column or a slot's byte becomes uncorrectable (R315) -/
  | poisonReg (q v n : Nat)
  | poisonMask (q k n : Nat)
  | poisonRow (image r n : Nat)
  | poisonSlot (image w n : Nat)
  /-- a soft error is corrected (R315) -/
  | corrected (x : Soft)
  /-- a sector whose mark came with a read is read again (R322) -/
  | refetch (sec : Nat)
  /-- sequencer q performs a load of `size` bytes ahead of its place, for element `elem` of a later word (R258) -/
  | early (q loc size elem : Nat)
  /-- sequencer q's next word, a load, may still be performed later; and its loads of that kind are performed now (R258) -/
  | defer (q : Nat)
  | again (q : Nat)
  /-- what the next word of sequencer q stores or commits is not seen yet; and the n-th of the writes not seen yet is seen (R258) -/
  | hold (q : Nat)
  | land (q n : Nat)
  /-- a translation is cached; a cached translation is used or not (R311, R312) -/
  | cache (part va : Nat)
  | uncache (n : Nat)
  /-- an engine command reads one source sector ahead (R273) -/
  | engineRead (c k : Nat)
  /-- an engine command writes one destination sector (R273, R277) -/
  | engineWrite (c k : Nat)
  /-- a sensor reads a value (R360) -/
  | sensor (n val : Nat)
  /-- the checking lane or column of sole j of the core finds a mismatch on the next instruction of q (R320) -/
  | mismatch (q j : Nat) (column : Bool)
  deriving DecidableEq, Repr

/-- The device. -/
structure State where
  /-- core clocks since boot (R95, R286) -/
  clock  : Nat
  /-- the sequencer whose turn it is (log 1) -/
  cur    : Nat
  /-- the party for which the machine writes: a sequencer while an instruction of its own writes, else no sequencer (R253) -/
  writer : Nat
  /-- the last turn waited: the next one belongs to another party (log 1) -/
  waited : Bool
  /-- the clock at which the other parties last had their turn (log 1) -/
  polled : Nat
  agenda : List Agent
  mem    : Mem
  seqs   : SMap Seq
  uppers : SMap Upper
  soles  : SMap Sole
  /-- the checking positions of each sole, by the upper whose welt entry binds it (R319) -/
  checks : SMap Checks
  parts  : SMap Partition
  launches : SMap Launch
  nests  : SMap Nest
  queue  : List QEntry
  yields : List Yield
  cmds   : SMap Command
  rounds : SMap Round
  /-- updates on their way, in issue order (R234) -/
  flights : List Update
  /-- holding entries of each slice's combining unit (R235) -/
  holds  : SMap (List Update)
  saves  : SMap Saved
  dev    : Dev
  /-- counter of the free values (log 7) -/
  free   : Nat
  /-- the next number for a launch, nest, command, record or save -/
  uid    : Nat
  /-- the service's allocation cursors: next table, next physical page (log 10) -/
  nextTable : Nat
  nextPage  : Nat
  deriving DecidableEq, Repr

/-! ### Reasons to stop -/

/-- A step of the model that stops with a fault. -/
inductive Fault where
  /-- `cur` names no sequencer of the device (R95). Raised by `step` alone, in a state no run reaches. Safe. -/
  | noSequencer (q : Nat)
  deriving DecidableEq, Repr

/-- A step of the model that refuses. -/
inductive Refusal where
  /-- An instruction without a meaning yet. Raised by the arms of `exec` alone. Safe. -/
  | notModelled (mnemonic : String)
  deriving DecidableEq, Repr

/-! ### Reset -/

/-- An entry of the loop stack at reset (R8). -/
def LoopEntry.zero : LoopEntry := ⟨0, 0, 0⟩

/-- The loop stack at reset (R8). -/
def Loops.reset : Loops := ⟨Vector.replicate 6 LoopEntry.zero, 0⟩

/-- A vector register at reset (R8). -/
def VReg.reset : VReg := ⟨0, 0, 0, []⟩

/-- The grant file at reset (R8). -/
def GrantFile.reset : GrantFile := ⟨0, 0, 0, 0, 0, 0, 0⟩

/-- The control registers at reset (R10, R95). -/
def Ctl.reset : Ctl := ⟨1, 0, 0, 0, 0, 0, 0, 0, 0, 0, 0, 0, 0, 0, 0, 0⟩

/-- The truss context after scrub (R153). -/
def Truss.reset : Truss := ⟨0, 0, none, ⟨0, 0, 0⟩⟩

/-- A sequencer after an architectural reset (R8, R21). -/
def Seq.reset : Seq where
  pc := 0
  regs := Vector.replicate 32 0
  vregs := Vector.replicate 32 VReg.reset
  masks := Vector.replicate 8 0
  vt := none
  grant := GrantFile.reset
  loops := Loops.reset
  ctl := Ctl.reset
  delay := none
  owed := none
  strip := none
  truss := Truss.reset
  resv := none
  pend := []
  mmarks := []
  posted := none
  early := []
  late := []
  shapes := []
  unseen := []
  tokens := []
  marked := []
  dist := []
  avail := []
  ready := 0
  mode := .idle
  work := none
  level := 0
  age := 0
  held := none
  fetched := []
  window := false
  openAt := false
  replay := false
  shadow := none
  trapSeq := 0
  ring := []

/-- The reset and default widths of tables 0 to 3 (R26). -/
def Tables.reset : Tables :=
  #v[#v[2, 4, 6, 8, 12, 16, 24, 64], #v[2, 4, 6, 8, 12, 16, 24, 64],
     #v[0, 0, 1, 2, 3, 4, 6, 0], #v[0, 0, 1, 2, 3, 4, 6, 0]]

/-- An upper at reset (R28, R251). -/
def Upper.reset : Upper where
  active := Tables.reset
  shadow := Tables.reset
  gen := 0
  swapWait := none
  swapQueue := []
  origin := 0
  tenant := .ordinary
  since := 0
  outAt := []
  preempt := none
  throttled := false
  power := .run

/-- A weight slot after scrub (R153). -/
def Slot.reset : Slot := ⟨none, 0, []⟩

/-- Sole state after scrub (R153, R251). -/
def Sole.reset : Sole where
  slots := Vector.replicate 4 Slot.reset
  rows := []
  live := []

/-- The checking positions before the first checked word. DESIGN CHOICE 0, log 17. -/
def Checks.reset : Checks := ⟨0, 0, none, none⟩

/-- A row never written since the scrub (R153). -/
def Row.zero : Row := ⟨0, 0, []⟩

/-- A repair record of the model: every half good, every upper on its own sole (R332). DESIGN CHOICE, log 4. -/
def Repair.initial : Repair := ⟨1, 0, 0, Config.deviceId, true, [], []⟩

/-- The flash at reset (R358). DESIGN CHOICE, log 5: both slots empty images, slot 0 active, counters 0. -/
def Flash.initial : Flash where
  slots := Vector.replicate 2 []
  active := 0
  pending := false
  tries := 0
  rollback := 0
  repair := Vector.replicate 2 Repair.initial

/-- The device outside cores and memory, ready after boot (R355). -/
def Dev.reset : Dev where
  running := .up
  keys := []
  ports := []
  welt := []
  halves := []
  flash := Flash.initial
  meas := Vector.replicate 8 0
  log := []
  lost := 0
  sensors := []
  hot := []
  fatal := none
  dump := none
  sessions := []
  out := []
  frames := []
  sent := []
  noticed := []
  notices := []
  bound := true
  reports := [(false, .ready), (true, .ready)]
  image := []
  refresh := []
  crc := []
  changes := []

/-- Memory after reset: nothing listed, nothing marked (R251, R315). -/
def Mem.reset : Mem := ⟨[], [], [], [], [], []⟩

/-- The device right after reset (R355): every sequencer idle, no partition. -/
def State.reset : State where
  clock := 0
  cur := 0
  writer := 65535
  waited := false
  polled := 0
  agenda := []
  mem := Mem.reset
  seqs := []
  uppers := []
  soles := []
  checks := []
  parts := []
  launches := []
  nests := []
  queue := []
  yields := []
  cmds := []
  rounds := []
  flights := []
  holds := []
  saves := []
  dev := Dev.reset
  free := 0
  uid := 0
  nextTable := Config.tablePool
  nextPage := Config.pagePool

end Sys2Proof.Machine
end

