-- ==== Sys2Proof/Machine/Flags.lean ====
section
/-!
DEFINITION. STATUS and its flags (R11), and the set of sticky flags that one operation raises (R49).
-/

namespace Sys2Proof.Machine

/-- The flags one element's operation raises (R49). -/
structure FlagSet where
  nv  : Bool
  dz  : Bool
  ovf : Bool
  uf  : Bool
  nx  : Bool
  iov : Bool
  deriving DecidableEq, Repr

/-- No flag. -/
def noFlags : FlagSet := ⟨false, false, false, false, false, false⟩
def flagNV : FlagSet := { noFlags with nv := true }
def flagDZ : FlagSet := { noFlags with dz := true }
def flagOF : FlagSet := { noFlags with ovf := true }
def flagUF : FlagSet := { noFlags with uf := true }
def flagNX : FlagSet := { noFlags with nx := true }
def flagIOV : FlagSet := { noFlags with iov := true }

/-- The flags of either set: sticky flags are only ever set by hardware (R11). -/
def FlagSet.join (a b : FlagSet) : FlagSet :=
  ⟨a.nv || b.nv, a.dz || b.dz, a.ovf || b.ovf, a.uf || b.uf, a.nx || b.nx, a.iov || b.iov⟩

/-- The flags at their places in STATUS: NV 1, DZ 2, OF 3, UF 4, NX 5, IOV 6 (R11). -/
def FlagSet.word (f : FlagSet) : Word :=
  BitVec.ofNat 64 ((if f.nv then 2 else 0) + (if f.dz then 4 else 0) + (if f.ovf then 8 else 0) +
    (if f.uf then 16 else 0) + (if f.nx then 32 else 0) + (if f.iov then 64 else 0))

/-- The sticky-flag bits of STATUS (R11). -/
def stickyMask : Word := 0x7E
/-- The INSTRIP bit of STATUS (R11). -/
def instripBit : Word := 0x80
/-- The PRIV bit of STATUS (R11). -/
def privBit : Word := 1
/-- The bits of STATUS that exist (R11). -/
def statusMask : Word := 0xFF

/-- PRIV of a STATUS value. -/
def isPriv (st : Word) : Bool := st.getLsbD 0

/-- A STATUS value with PRIV set or cleared. -/
def withPriv (st : Word) (p : Bool) : Word := (st &&& ~~~privBit) ||| (if p then privBit else 0)

/-- A STATUS value with INSTRIP set or cleared. -/
def withInstrip (st : Word) (p : Bool) : Word := (st &&& ~~~instripBit) ||| (if p then instripBit else 0)

/-- A STATUS value with its sticky flags replaced (R19, R296). -/
def withSticky (st fl : Word) : Word := (st &&& ~~~stickyMask) ||| (fl &&& stickyMask)

/-- A STATUS value after an operation raised flags (R49). -/
def raiseFlags (st : Word) (f : FlagSet) : Word := st ||| f.word

end Sys2Proof.Machine
end

