-- ==== Sys2Proof/Decode.lean ====
section
/-!
DEFINITION. The decoder, total on any bytes, and the encoder beside it, both from the format tables of R53, the opcode
map of R60 and the function values of each description. Words are read as natural numbers: bit i of the word is bit i
of the number.
-/

namespace Sys2Proof

/-- Why a word is no instruction (R60, R54, R22). -/
inductive Reject where
  /-- the all-zero or all-one word -/
  | alwaysIllegal
  /-- a major opcode without a format -/
  | noMajor
  /-- a function value that no description assigns -/
  | noFunction
  /-- a field that the instruction does not use is not zero -/
  | unusedField
  /-- fewer than four bytes -/
  | short
  deriving DecidableEq, Repr

/-! ### Fields of a word (R53) -/

/-- `n` bits of `x` from bit `lo` up. -/
def bitsAt (x lo n : Nat) : Nat := x / 2 ^ lo % 2 ^ n

def fW (x : Nat) : Wait := ⟨x / 536870912 % 8, Nat.mod_lt _ (by decide)⟩
def fMajor (x : Nat) : Nat := x / 8388608 % 64
def f22 (x : Nat) : Reg := ⟨x / 262144 % 32, Nat.mod_lt _ (by decide)⟩
def f17 (x : Nat) : Reg := ⟨x / 8192 % 32, Nat.mod_lt _ (by decide)⟩
def f12 (x : Nat) : Reg := ⟨x / 256 % 32, Nat.mod_lt _ (by decide)⟩
def fn8 (x : Nat) : Nat := x % 256
def fn5 (x : Nat) : Nat := x % 32
def fMask (x : Nat) : Fin 8 := ⟨x / 32 % 8, Nat.mod_lt _ (by decide)⟩
def fSel (x : Nat) : Nat := x % 8192
def fImm13 (x : Nat) : BitVec 13 := BitVec.ofNat 13 (x % 8192)
def fImm18 (x : Nat) : BitVec 18 := BitVec.ofNat 18 (x % 262144)
def fRowLo (x : Nat) : Nat := x / 262144 % 32
def fRowHi (x : Nat) : Nat := x / 256 % 8
def fSlot (x : Nat) : Fin 4 := ⟨x / 2048 % 4, Nat.mod_lt _ (by decide)⟩
def fRow (x : Nat) : Fin 256 := ⟨fRowHi x * 32 + fRowLo x, by unfold fRowHi fRowLo; omega⟩

/-! ### Reading and writing one operand bundle -/

/-- The wait count and the major opcode of a word (R52). -/
def wordHead (w : Wait) (maj : Nat) : Nat := w.val * 536870912 + maj * 8388608

def R3.get (x : Nat) : R3 := ⟨fW x, f22 x, f17 x, f12 x⟩
def R3.put (maj fn : Nat) (f : R3) : Nat := wordHead f.w maj + f.d.val * 262144 + f.a.val * 8192 + f.b.val * 256 + fn
def R2.get (x : Nat) : R2 := ⟨fW x, f22 x, f17 x⟩
def R2.put (maj fn : Nat) (f : R2) : Nat := wordHead f.w maj + f.d.val * 262144 + f.a.val * 8192 + fn
def Pair.get (x : Nat) : Pair := ⟨fW x, f17 x, f12 x⟩
def Pair.put (maj fn : Nat) (f : Pair) : Nat := wordHead f.w maj + f.a.val * 8192 + f.b.val * 256 + fn
def Dst.get (x : Nat) : Dst := ⟨fW x, f22 x⟩
def Dst.put (maj fn : Nat) (f : Dst) : Nat := wordHead f.w maj + f.d.val * 262144 + fn
def DstB.get (x : Nat) : DstB := ⟨fW x, f22 x, f12 x⟩
def DstB.put (maj fn : Nat) (f : DstB) : Nat := wordHead f.w maj + f.d.val * 262144 + f.b.val * 256 + fn
def Bare.get (x : Nat) : Bare := ⟨fW x⟩
def Bare.put (maj fn : Nat) (f : Bare) : Nat := wordHead f.w maj + fn
/-- The shift amount is fn8[0] x 32 + b (R77). -/
def Shift.get (x : Nat) : Shift := ⟨fW x, f22 x, f17 x, ⟨x % 2 * 32 + x / 256 % 32, by omega⟩⟩
def Shift.put (maj fn : Nat) (f : Shift) : Nat :=
  wordHead f.w maj + f.d.val * 262144 + f.a.val * 8192 + f.k.val % 32 * 256 + (fn + f.k.val / 32)
def ImmI.get (x : Nat) : ImmI := ⟨fW x, f22 x, f17 x, fImm13 x⟩
def ImmI.put (maj : Nat) (f : ImmI) : Nat := wordHead f.w maj + f.d.val * 262144 + f.a.val * 8192 + f.imm.toNat
def ImmJ.get (x : Nat) : ImmJ := ⟨fW x, f22 x, fImm18 x⟩
def ImmJ.put (maj : Nat) (f : ImmJ) : Nat := wordHead f.w maj + f.d.val * 262144 + f.imm.toNat
def ImmB.get (x : Nat) : ImmB := ⟨fW x, f22 x, f17 x, fImm13 x⟩
def ImmB.put (maj : Nat) (f : ImmB) : Nat := wordHead f.w maj + f.a.val * 262144 + f.b.val * 8192 + f.imm.toNat
def LoopR.get (x : Nat) : LoopR := ⟨fW x, f17 x, fImm13 x⟩
def LoopR.put (maj : Nat) (f : LoopR) : Nat := wordHead f.w maj + f.a.val * 8192 + f.imm.toNat
def LoopI.get (x : Nat) : LoopI := ⟨fW x, BitVec.ofNat 10 (x / 8192 % 1024), fImm13 x⟩
def LoopI.put (maj : Nat) (f : LoopI) : Nat := wordHead f.w maj + f.count.toNat * 8192 + f.imm.toNat
def Grant.get (x : Nat) : Grant := ⟨fW x, f22 x, fImm13 x⟩
def Grant.put (maj test : Nat) (f : Grant) : Nat := wordHead f.w maj + f.k.val * 262144 + test * 8192 + f.imm.toNat
def fCtl (x : Nat) : Fin 2048 := ⟨x % 2048, Nat.mod_lt _ (by decide)⟩
def CtlR.get (x : Nat) : CtlR := ⟨fW x, f22 x, fCtl x⟩
def CtlR.put (maj op : Nat) (f : CtlR) : Nat := wordHead f.w maj + f.d.val * 262144 + op * 2048 + f.num.val
def CtlW.get (x : Nat) : CtlW := ⟨fW x, f22 x, f17 x, fCtl x⟩
def CtlW.put (maj op : Nat) (f : CtlW) : Nat :=
  wordHead f.w maj + f.d.val * 262144 + f.a.val * 8192 + op * 2048 + f.num.val
def TrapK.get (x : Nat) : TrapK := ⟨fW x, ⟨x % 256, Nat.mod_lt _ (by decide)⟩⟩
def TrapK.put (maj sel : Nat) (f : TrapK) : Nat := wordHead f.w maj + sel + f.k.val
def V3.get (x : Nat) : V3 := ⟨fW x, f22 x, f17 x, f12 x, fMask x⟩
def V3.put (maj fn : Nat) (f : V3) : Nat :=
  wordHead f.w maj + f.d.val * 262144 + f.a.val * 8192 + f.b.val * 256 + f.m.val * 32 + fn
def V2.get (x : Nat) : V2 := ⟨fW x, f22 x, f17 x, fMask x⟩
def V2.put (maj fn : Nat) (f : V2) : Nat := wordHead f.w maj + f.d.val * 262144 + f.a.val * 8192 + f.m.val * 32 + fn
def VB.get (x : Nat) : VB := ⟨fW x, f22 x, f12 x, fMask x⟩
def VB.put (maj fn : Nat) (f : VB) : Nat := wordHead f.w maj + f.d.val * 262144 + f.b.val * 256 + f.m.val * 32 + fn
def V1.get (x : Nat) : V1 := ⟨fW x, f22 x, fMask x⟩
def V1.put (maj fn : Nat) (f : V1) : Nat := wordHead f.w maj + f.d.val * 262144 + f.m.val * 32 + fn
def TMac.get (x : Nat) : TMac := ⟨fW x, fRow x, f17 x, fSlot x, fMask x⟩
def TMac.put (maj fn : Nat) (f : TMac) : Nat :=
  wordHead f.w maj + f.row.val % 32 * 262144 + f.a.val * 8192 + f.slot.val * 2048 + f.row.val / 32 * 256 +
    f.m.val * 32 + fn
def TRow.get (x : Nat) : TRow := ⟨fW x, fRow x, f17 x, fMask x⟩
def TRow.put (maj fn : Nat) (f : TRow) : Nat :=
  wordHead f.w maj + f.row.val % 32 * 262144 + f.a.val * 8192 + f.row.val / 32 * 256 + f.m.val * 32 + fn
def TRng.get (x : Nat) : TRng := ⟨fW x, fRow x, f17 x⟩
def TRng.put (maj fn : Nat) (f : TRng) : Nat :=
  wordHead f.w maj + f.row.val % 32 * 262144 + f.a.val * 8192 + f.row.val / 32 * 256 + fn
def TLd.get (x : Nat) : TLd := ⟨fW x, f17 x, fSlot x⟩
def TLd.put (maj fn : Nat) (f : TLd) : Nat := wordHead f.w maj + f.a.val * 8192 + f.slot.val * 2048 + fn
/-- fn8 of an atomic: op in bits 3-0, w in bit 4, order in bits 6-5 (R230). -/
def Amo.get (x : Nat) : Amo :=
  ⟨fW x, f22 x, f17 x, f12 x, ⟨x / 32 % 4, Nat.mod_lt _ (by decide)⟩, x / 16 % 2 == 1⟩
def Amo.put (maj op : Nat) (f : Amo) : Nat :=
  wordHead f.w maj + f.d.val * 262144 + f.a.val * 8192 + f.b.val * 256 + f.ord.val * 32 +
    (if f.narrow then 16 else 0) + op
def FenceF.get (x : Nat) : FenceF := ⟨fW x, ⟨x % 8, Nat.mod_lt _ (by decide)⟩⟩
def FenceF.put (maj base : Nat) (f : FenceF) : Nat := wordHead f.w maj + base + f.scope.val
def Eng.get (x : Nat) : Eng := ⟨fW x, f22 x, f17 x, f12 x, fMask x⟩
def Eng.put (maj fn : Nat) (f : Eng) : Nat :=
  wordHead f.w maj + f.d.val * 262144 + f.a.val * 8192 + f.b.val * 256 + f.c.val * 32 + fn

/-! ### Unused fields (R54) -/

/-- The fields that a form does not use are zero: the instruction, or the rejection by name. -/
def unusedZero (c : Bool) (i : Instr) : Except Reject Instr := if c then .ok i else .error .unusedField

def zD (x : Nat) : Bool := x / 262144 % 32 == 0
def zA (x : Nat) : Bool := x / 8192 % 32 == 0
def zB (x : Nat) : Bool := x / 256 % 32 == 0
def zDAB (x : Nat) : Bool := x / 256 % 32768 == 0
def zAB (x : Nat) : Bool := x / 256 % 1024 == 0
def zDA (x : Nat) : Bool := x / 8192 % 1024 == 0
def zMask (x : Nat) : Bool := x / 32 % 8 == 0
def zSlot (x : Nat) : Bool := x / 2048 % 4 == 0
def zHi (x : Nat) : Bool := x / 256 % 8 == 0

/-! ### The opcode map (R60) -/

/-- Major 0x01 by fn8 (R77). -/
def decode01 (x : Nat) : Except Reject Instr :=
  match fn8 x with
  | 0 => .ok (.add (R3.get x))
  | 1 => .ok (.sub (R3.get x))
  | 2 => .ok (.and (R3.get x))
  | 3 => .ok (.or (R3.get x))
  | 4 => .ok (.xor (R3.get x))
  | 5 => .ok (.andn (R3.get x))
  | 6 => .ok (.sll (R3.get x))
  | 7 => .ok (.srl (R3.get x))
  | 8 => .ok (.sra (R3.get x))
  | 9 => .ok (.rol (R3.get x))
  | 10 => .ok (.slt (R3.get x))
  | 11 => .ok (.sltn (R3.get x))
  | 12 => .ok (.seq (R3.get x))
  | 13 => .ok (.min (R3.get x))
  | 14 => .ok (.max (R3.get x))
  | 15 => .ok (.minn (R3.get x))
  | 16 => .ok (.maxn (R3.get x))
  | 17 => .ok (.addw (R3.get x))
  | 18 => .ok (.subw (R3.get x))
  | 19 => .ok (.adds1 (R3.get x))
  | 20 => .ok (.adds2 (R3.get x))
  | 21 => .ok (.adds3 (R3.get x))
  | 32 => .ok (.slli (Shift.get x))
  | 33 => .ok (.slli (Shift.get x))
  | 34 => .ok (.srli (Shift.get x))
  | 35 => .ok (.srli (Shift.get x))
  | 36 => .ok (.srai (Shift.get x))
  | 37 => .ok (.srai (Shift.get x))
  | 38 => .ok (.roli (Shift.get x))
  | 39 => .ok (.roli (Shift.get x))
  | _ => .error .noFunction

/-- Major 0x02 by fn8 (R78, R79, R80). -/
def decode02 (x : Nat) : Except Reject Instr :=
  match fn8 x with
  | 0 => .ok (.mul (R3.get x))
  | 1 => .ok (.mulh (R3.get x))
  | 2 => .ok (.mulhn (R3.get x))
  | 3 => .ok (.div (R3.get x))
  | 4 => .ok (.divn (R3.get x))
  | 5 => .ok (.rem (R3.get x))
  | 6 => .ok (.remn (R3.get x))
  | 7 => unusedZero (zB x) (.clz (R2.get x))
  | 8 => unusedZero (zB x) (.ctz (R2.get x))
  | 9 => unusedZero (zB x) (.cpop (R2.get x))
  | 10 => .ok (.bext (R3.get x))
  | 11 => .ok (.bins (R3.get x))
  | _ => .error .noFunction

/-- Major 0x08 by fn8 (R84). -/
def decode08 (x : Nat) : Except Reject Instr :=
  match fn8 x with
  | 0 => .ok (.ldxb (R3.get x))
  | 1 => .ok (.ldxbn (R3.get x))
  | 2 => .ok (.ldxh (R3.get x))
  | 3 => .ok (.ldxhn (R3.get x))
  | 4 => .ok (.ldxw (R3.get x))
  | 5 => .ok (.ldxwn (R3.get x))
  | 6 => .ok (.ldxd (R3.get x))
  | _ => .error .noFunction

/-- Major 0x09 by fn8 (R84, R85). -/
def decode09 (x : Nat) : Except Reject Instr :=
  match fn8 x with
  | 0 => .ok (.stxb (R3.get x))
  | 1 => .ok (.stxh (R3.get x))
  | 2 => .ok (.stxw (R3.get x))
  | 3 => .ok (.stxd (R3.get x))
  | 4 => unusedZero (zD x) (.cwb (Pair.get x))
  | 5 => unusedZero (zD x) (.czero (Pair.get x))
  | _ => .error .noFunction

/-- Major 0x0F by fn8 (R86, R85). -/
def decode0F (x : Nat) : Except Reject Instr :=
  match fn8 x with
  | 0 => unusedZero (zB x) (.lr (R2.get x))
  | 1 => unusedZero (zB x) (.lrw (R2.get x))
  | 2 => .ok (.sc (R3.get x))
  | 3 => .ok (.scw (R3.get x))
  | 4 => unusedZero (zD x) (.pref (Pair.get x))
  | _ => .error .noFunction

/-- Major 0x17 by fn8 (R89). -/
def decode17 (x : Nat) : Except Reject Instr :=
  match fn8 x with
  | 0 => unusedZero (zB x) (.jalr (R2.get x))
  | 1 => unusedZero (zA x && zB x) (.rdpc (Dst.get x))
  | _ => .error .noFunction

/-- Major 0x1A by fn8 (R94). -/
def decode1A (x : Nat) : Except Reject Instr :=
  match fn8 x with
  | 0 => unusedZero (zD x && zA x && zB x) (.lpop (Bare.get x))
  | 1 => unusedZero (zD x && zA x && zB x) (.lbrk (Bare.get x))
  | 2 => unusedZero (zA x && zB x) (.lcnt (Dst.get x))
  | 3 => unusedZero (zA x && zB x) (.ldep (Dst.get x))
  | _ => .error .noFunction

/-- Major 0x1B: the b field selects the test (R88). -/
def decode1B (x : Nat) : Except Reject Instr :=
  match x / 8192 % 32 with
  | 0 => .ok (.bgs (Grant.get x))
  | 1 => .ok (.bgsn (Grant.get x))
  | _ => .error .noFunction

/-- Major 0x1C: sel13 bits 12-11 select the operation (R96). -/
def decode1C (x : Nat) : Except Reject Instr :=
  match x / 2048 % 4 with
  | 0 => unusedZero (zA x) (.mfc (CtlR.get x))
  | 1 => .ok (.mtc (CtlW.get x))
  | 2 => .ok (.mcset (CtlW.get x))
  | _ => .ok (.mcclr (CtlW.get x))

/-- Major 0x1D (R99). -/
def decode1D (x : Nat) : Except Reject Instr :=
  if fSel x = 0 then unusedZero (zDA x) (.rft (Bare.get x))
  else if fSel x / 256 = 1 then unusedZero (zDA x) (.trap (TrapK.get x))
  else .error .noFunction

/-- Major 0x1E (R100). -/
def decode1E (x : Nat) : Except Reject Instr :=
  match fSel x with
  | 0 => unusedZero (zDA x) (.ifence (Bare.get x))
  | 1 => unusedZero (zDA x) (.pause (Bare.get x))
  | 2 => unusedZero (zDA x) (.sdrain (Bare.get x))
  | _ => .error .noFunction

/-- Major 0x1F (R100). -/
def decode1F (x : Nat) : Except Reject Instr :=
  match fSel x with
  | 0 => unusedZero (zDA x) (.halt (Bare.get x))
  | _ => .error .noFunction

/-- Major 0x20 by fn8 (R104, R107, R29, R30). -/
def decode20 (x : Nat) : Except Reject Instr :=
  match fn8 x with
  | 0 => unusedZero (zB x) (.vtype (R2.get x))
  | 1 => .ok (.mfg (R3.get x))
  | 16 => unusedZero (zB x) (.zctw (R2.get x))
  | 17 => unusedZero (zD x && zA x && zB x) (.zcswap (Bare.get x))
  | _ => .error .noFunction

/-- Major 0x21 by fn8 (R108, R112). -/
def decode21 (x : Nat) : Except Reject Instr :=
  match fn8 x with
  | 0 => .ok (.strip (R3.get x))
  | 1 => unusedZero (zD x && zA x && zB x) (.sclose (Bare.get x))
  | 2 => unusedZero (zD x && zA x && zB x) (.scloseRel (Bare.get x))
  | _ => .error .noFunction

/-- Major 0x22 by fn5 (R116, R117, R118, R119). -/
def decode22 (x : Nat) : Except Reject Instr :=
  match fn5 x with
  | 0 => unusedZero (zMask x) (.zld (R3.get x))
  | 1 => unusedZero (zB x && zMask x) (.zst (R2.get x))
  | 2 => unusedZero (zB x && zMask x) (.zfind (R2.get x))
  | 3 => unusedZero (zMask x) (.zskip (R3.get x))
  | _ => .error .noFunction

/-- Major 0x23 by fn5 (R120). -/
def decode23 (x : Nat) : Except Reject Instr :=
  match fn5 x with
  | 0 => unusedZero (zB x) (.vld (V2.get x))
  | 1 => .ok (.vlds (V3.get x))
  | 2 => unusedZero (zB x) (.vldb (V2.get x))
  | 3 => unusedZero (zB x) (.vldo (V2.get x))
  | 4 => .ok (.vldso (V3.get x))
  | _ => .error .noFunction

/-- Major 0x24 by fn5 (R124). -/
def decode24 (x : Nat) : Except Reject Instr :=
  match fn5 x with
  | 0 => .ok (.vldx (V3.get x))
  | 1 => .ok (.vldxo (V3.get x))
  | _ => .error .noFunction

/-- Major 0x25 by fn5 (R120, R123, R124). -/
def decode25 (x : Nat) : Except Reject Instr :=
  match fn5 x with
  | 0 => unusedZero (zB x) (.vst (V2.get x))
  | 1 => .ok (.vsts (V3.get x))
  | 2 => unusedZero (zB x) (.vstc (V2.get x))
  | 3 => unusedZero (zB x) (.vsto (V2.get x))
  | 4 => .ok (.vstso (V3.get x))
  | 5 => .ok (.vstx (V3.get x))
  | 6 => .ok (.vstxo (V3.get x))
  | _ => .error .noFunction

/-- Major 0x26 by fn5 (R132). -/
def decode26 (x : Nat) : Except Reject Instr :=
  match fn5 x with
  | 0 => .ok (.vadd (V3.get x))
  | 1 => .ok (.vsub (V3.get x))
  | 2 => .ok (.vmul (V3.get x))
  | 3 => .ok (.vdiv (V3.get x))
  | 4 => .ok (.vmin (V3.get x))
  | 5 => .ok (.vmax (V3.get x))
  | 6 => .ok (.vabsd (V3.get x))
  | 7 => .ok (.vand (V3.get x))
  | 8 => .ok (.vor (V3.get x))
  | 9 => .ok (.vxor (V3.get x))
  | 10 => .ok (.vsll (V3.get x))
  | 11 => .ok (.vsrl (V3.get x))
  | 12 => .ok (.vsra (V3.get x))
  | _ => .error .noFunction

/-- Major 0x27 by fn5 (R134, R136, R135). -/
def decode27 (x : Nat) : Except Reject Instr :=
  match fn5 x with
  | 0 => unusedZero (zB x) (.vneg (V2.get x))
  | 1 => unusedZero (zB x) (.vabs (V2.get x))
  | 2 => unusedZero (zB x) (.vsqrt (V2.get x))
  | 3 => unusedZero (zB x) (.vmov (V2.get x))
  | 4 => .ok (.vadds (V3.get x))
  | 5 => .ok (.vmuls (V3.get x))
  | 6 => unusedZero (zA x) (.vbcast (VB.get x))
  | 7 => unusedZero (zA x && zB x) (.vid (V1.get x))
  | _ => .error .noFunction

/-- Major 0x28 by fn5 (R137, R138, R139). -/
def decode28 (x : Nat) : Except Reject Instr :=
  match fn5 x with
  | 0 => .ok (.vfma (V3.get x))
  | 1 => .ok (.vfms (V3.get x))
  | 2 => .ok (.vfnma (V3.get x))
  | 3 => .ok (.vtsum (V3.get x))
  | 4 => .ok (.vtprod (V3.get x))
  | _ => .error .noFunction

/-- Major 0x29 by fn5 (R140). -/
def decode29 (x : Nat) : Except Reject Instr :=
  match fn5 x with
  | 0 => .ok (.vceq (V3.get x))
  | 1 => .ok (.vcne (V3.get x))
  | 2 => .ok (.vclt (V3.get x))
  | 3 => .ok (.vcle (V3.get x))
  | 4 => .ok (.vcnan (V3.get x))
  | _ => .error .noFunction

/-- Major 0x2A by fn5 (R145, R147, R148). -/
def decode2A (x : Nat) : Except Reject Instr :=
  match fn5 x with
  | 0 => .ok (.vcvt (V3.get x))
  | 1 => unusedZero (zB x && zMask x) (.vqnt (R2.get x))
  | 2 => unusedZero (zB x && zMask x) (.vdqnt (R2.get x))
  | _ => .error .noFunction

/-- Major 0x2B by fn5 (R141, R142, R143, R144). -/
def decode2B (x : Nat) : Except Reject Instr :=
  match fn5 x with
  | 0 => .ok (.vsel (V3.get x))
  | 1 => .ok (.vslup (V3.get x))
  | 2 => .ok (.vsldn (V3.get x))
  | 3 => .ok (.vperm (V3.get x))
  | 4 => unusedZero (zB x) (.vcomp (V2.get x))
  | _ => .error .noFunction

/-- Major 0x2C by fn5 (R149, R150, R151). -/
def decode2C (x : Nat) : Except Reject Instr :=
  match fn5 x with
  | 0 => .ok (.vredo (V3.get x))
  | 1 => .ok (.vredt (V3.get x))
  | 2 => .ok (.vscano (V3.get x))
  | 3 => .ok (.vscanf (V3.get x))
  | 4 => .ok (.vredmin (V3.get x))
  | 5 => .ok (.vredmax (V3.get x))
  | _ => .error .noFunction

/-- Major 0x2D by fn5 (R152). -/
def decode2D (x : Nat) : Except Reject Instr :=
  match fn5 x with
  | 0 => unusedZero (zMask x) (.mand (R3.get x))
  | 1 => unusedZero (zMask x) (.mor (R3.get x))
  | 2 => unusedZero (zMask x) (.mxor (R3.get x))
  | 3 => unusedZero (zMask x) (.mandn (R3.get x))
  | 4 => unusedZero (zB x && zMask x) (.mnot (R2.get x))
  | 5 => unusedZero (zB x && zMask x) (.mlen (R2.get x))
  | 6 => unusedZero (zB x && zMask x) (.mpop (R2.get x))
  | 7 => unusedZero (zB x && zMask x) (.mfirst (R2.get x))
  | _ => .error .noFunction

/-- Major 0x2E by fn5 (R161, R169). -/
def decode2E (x : Nat) : Except Reject Instr :=
  match fn5 x with
  | 0 => .ok (.tmac (TMac.get x))
  | 1 => .ok (.tdist (TMac.get x))
  | 2 => unusedZero (zSlot x) (.tcupd (TRow.get x))
  | 3 => unusedZero (zSlot x) (.tacc (TRow.get x))
  | _ => .error .noFunction

/-- Major 0x2F by fn5 (R167, R168, R166, R170). -/
def decode2F (x : Nat) : Except Reject Instr :=
  match fn5 x with
  | 0 => unusedZero (zSlot x) (.tdrain (TRow.get x))
  | 1 => unusedZero (zSlot x) (.tfill (TRow.get x))
  | 2 => unusedZero (zSlot x && zMask x) (.tzero (TRng.get x))
  | 3 => unusedZero (zSlot x && zMask x) (.tcdiv (TRng.get x))
  | 4 => unusedZero (zSlot x && zMask x) (.tcget (TRng.get x))
  | _ => .error .noFunction

/-- Major 0x30 by fn5 (R158). -/
def decode30 (x : Nat) : Except Reject Instr :=
  match fn5 x with
  | 0 => unusedZero (zD x && zHi x && zMask x) (.tld (TLd.get x))
  | _ => .error .noFunction

/-- Major 0x31 by fn5 (R160, R164, R171). -/
def decode31 (x : Nat) : Except Reject Instr :=
  match fn5 x with
  | 0 => unusedZero (zD x && zMask x) (.tmode (Pair.get x))
  | 1 => unusedZero (zA x && zB x && zMask x) (.tmodr (Dst.get x))
  | 2 => unusedZero (zA x && zB x && zMask x) (.tmodc (Dst.get x))
  | 3 => unusedZero (zA x && zMask x) (.tbest (DstB.get x))
  | 4 => unusedZero (zB x && zMask x) (.tcnt (R2.get x))
  | _ => .error .noFunction

/-- Major 0x32 by fn8 (R202). -/
def decode32 (x : Nat) : Except Reject Instr :=
  match fn8 x with
  | 0 => .ok (.cfun (R3.get x))
  | 1 => .ok (.ccor (R3.get x))
  | 2 => .ok (.cseq (R3.get x))
  | 3 => .ok (.cpar (R3.get x))
  | 4 => .ok (.cpipe (R3.get x))
  | 5 => .ok (.cfarm (R3.get x))
  | 6 => .ok (.cloop (R3.get x))
  | _ => .error .noFunction

/-- Major 0x33 by fn8 (R204, R215, R222, R218). -/
def decode33 (x : Nat) : Except Reject Instr :=
  match fn8 x with
  | 0 => .ok (.capply (R3.get x))
  | 1 => unusedZero (zD x) (.cret (Pair.get x))
  | 2 => .ok (.cyield (R3.get x))
  | 3 => unusedZero (zB x) (.wid (R2.get x))
  | _ => .error .noFunction

/-- Major 0x34 by fn8 (R221). -/
def decode34 (x : Nat) : Except Reject Instr :=
  match fn8 x with
  | 0 => .ok (.chput (R3.get x))
  | 1 => .ok (.chget (R3.get x))
  | _ => .error .noFunction

/-- Major 0x35 by fn8 (R227, R229). -/
def decode35 (x : Nat) : Except Reject Instr :=
  match fn8 x with
  | 0 => .ok (.barv (R3.get x))
  | 1 => .ok (.barw (R3.get x))
  | 2 => .ok (.bara (R3.get x))
  | _ => .error .noFunction

/-- Major 0x36 by fn8 (R230). -/
def decode36 (x : Nat) : Except Reject Instr :=
  if x / 128 % 2 = 1 then .error .noFunction
  else match x % 16 with
  | 0 => .ok (.amoSwap (Amo.get x))
  | 1 => .ok (.amoAdd (Amo.get x))
  | 2 => .ok (.amoAnd (Amo.get x))
  | 3 => .ok (.amoOr (Amo.get x))
  | 4 => .ok (.amoXor (Amo.get x))
  | 5 => .ok (.amoMin (Amo.get x))
  | 6 => .ok (.amoMax (Amo.get x))
  | 7 => .ok (.amoMinn (Amo.get x))
  | 8 => .ok (.amoMaxn (Amo.get x))
  | 9 => .ok (.amoCas (Amo.get x))
  | _ => .error .noFunction

/-- Major 0x37 by fn8 (R233, R234, R236, R231). -/
def decode37 (x : Nat) : Except Reject Instr :=
  match fn8 x with
  | 0 => unusedZero (zD x) (.scopen (Pair.get x))
  | 1 => .ok (.scaddO (R3.get x))
  | 2 => .ok (.scaddU (R3.get x))
  | 3 => unusedZero (zB x) (.scflush (R2.get x))
  | 16 => unusedZero (zD x && zA x && zB x) (.fence (FenceF.get x))
  | 17 => unusedZero (zD x && zA x && zB x) (.fence (FenceF.get x))
  | 18 => unusedZero (zD x && zA x && zB x) (.fence (FenceF.get x))
  | 19 => unusedZero (zD x && zA x && zB x) (.fence (FenceF.get x))
  | 20 => unusedZero (zD x && zA x && zB x) (.fence (FenceF.get x))
  | 24 => unusedZero (zD x && zA x && zB x) (.fenceAcq (FenceF.get x))
  | 25 => unusedZero (zD x && zA x && zB x) (.fenceAcq (FenceF.get x))
  | 26 => unusedZero (zD x && zA x && zB x) (.fenceAcq (FenceF.get x))
  | 27 => unusedZero (zD x && zA x && zB x) (.fenceAcq (FenceF.get x))
  | 28 => unusedZero (zD x && zA x && zB x) (.fenceAcq (FenceF.get x))
  | 32 => unusedZero (zD x && zA x && zB x) (.fenceRel (FenceF.get x))
  | 33 => unusedZero (zD x && zA x && zB x) (.fenceRel (FenceF.get x))
  | 34 => unusedZero (zD x && zA x && zB x) (.fenceRel (FenceF.get x))
  | 35 => unusedZero (zD x && zA x && zB x) (.fenceRel (FenceF.get x))
  | 36 => unusedZero (zD x && zA x && zB x) (.fenceRel (FenceF.get x))
  | _ => .error .noFunction

/-- Major 0x38 by fn5 (R273, R276). -/
def decode38 (x : Nat) : Except Reject Instr :=
  match fn5 x with
  | 0 => .ok (.xcopy (Eng.get x))
  | 1 => .ok (.xcopyz (Eng.get x))
  | 2 => .ok (.xfill (Eng.get x))
  | _ => .error .noFunction

/-- Major 0x39 by fn8 (R280, R279). -/
def decode39 (x : Nat) : Except Reject Instr :=
  match fn8 x with
  | 0 => .ok (.xquery (R3.get x))
  | 1 => .ok (.xgrid (R3.get x))
  | _ => .error .noFunction

/-- Major 0x3A by fn5 (R352, R353). -/
def decode3A (x : Nat) : Except Reject Instr :=
  match fn5 x with
  | 0 => .ok (.xcoll (Eng.get x))
  | 1 => unusedZero (zB x && zMask x) (.xnote (R2.get x))
  | _ => .error .noFunction

/-- The instruction that a word holds, or why it holds none (R60, R62 step 1). -/
def decodeWord (x : Nat) : Except Reject Instr :=
  if x = 0 ∨ x = 0xFFFFFFFF then .error .alwaysIllegal
  else match fMajor x with
  | 0x01 => decode01 x
  | 0x02 => decode02 x
  | 0x03 => .ok (.addi (ImmI.get x))
  | 0x04 => .ok (.andi (ImmI.get x))
  | 0x05 => .ok (.ori (ImmI.get x))
  | 0x06 => .ok (.xori (ImmI.get x))
  | 0x07 => .ok (.lih (ImmJ.get x))
  | 0x08 => decode08 x
  | 0x09 => decode09 x
  | 0x0A => .ok (.ldd (ImmI.get x))
  | 0x0B => .ok (.ldw (ImmI.get x))
  | 0x0C => .ok (.ldwn (ImmI.get x))
  | 0x0D => .ok (.std (ImmB.get x))
  | 0x0E => .ok (.stw (ImmB.get x))
  | 0x0F => decode0F x
  | 0x10 => .ok (.beq (ImmB.get x))
  | 0x11 => .ok (.bne (ImmB.get x))
  | 0x12 => .ok (.blt (ImmB.get x))
  | 0x13 => .ok (.bge (ImmB.get x))
  | 0x14 => .ok (.bltn (ImmB.get x))
  | 0x15 => .ok (.bgen (ImmB.get x))
  | 0x16 => .ok (.jal (ImmJ.get x))
  | 0x17 => decode17 x
  | 0x18 => unusedZero (zD x) (.loop (LoopR.get x))
  | 0x19 => .ok (.loopi (LoopI.get x))
  | 0x1A => decode1A x
  | 0x1B => decode1B x
  | 0x1C => decode1C x
  | 0x1D => decode1D x
  | 0x1E => decode1E x
  | 0x1F => decode1F x
  | 0x20 => decode20 x
  | 0x21 => decode21 x
  | 0x22 => decode22 x
  | 0x23 => decode23 x
  | 0x24 => decode24 x
  | 0x25 => decode25 x
  | 0x26 => decode26 x
  | 0x27 => decode27 x
  | 0x28 => decode28 x
  | 0x29 => decode29 x
  | 0x2A => decode2A x
  | 0x2B => decode2B x
  | 0x2C => decode2C x
  | 0x2D => decode2D x
  | 0x2E => decode2E x
  | 0x2F => decode2F x
  | 0x30 => decode30 x
  | 0x31 => decode31 x
  | 0x32 => decode32 x
  | 0x33 => decode33 x
  | 0x34 => decode34 x
  | 0x35 => decode35 x
  | 0x36 => decode36 x
  | 0x37 => decode37 x
  | 0x38 => decode38 x
  | 0x39 => decode39 x
  | 0x3A => decode3A x
  | _ => .error .noMajor

/-- The decoder on bytes: four bytes, little-endian (R52), and the rest. -/
def decode : List Byte → Except Reject (Instr × List Byte)
  | b0 :: b1 :: b2 :: b3 :: rest =>
    match decodeWord (b0.toNat + 256 * b1.toNat + 65536 * b2.toNat + 16777216 * b3.toNat) with
    | .ok i => .ok (i, rest)
    | .error e => .error e
  | _ => .error .short

/-! ### The encoder -/

/-- The word of an instruction; an event has none. -/
def encodeWord : Instr → Option Nat
  | .add f => some (R3.put 0x01 0 f)
  | .sub f => some (R3.put 0x01 1 f)
  | .and f => some (R3.put 0x01 2 f)
  | .or f => some (R3.put 0x01 3 f)
  | .xor f => some (R3.put 0x01 4 f)
  | .andn f => some (R3.put 0x01 5 f)
  | .sll f => some (R3.put 0x01 6 f)
  | .srl f => some (R3.put 0x01 7 f)
  | .sra f => some (R3.put 0x01 8 f)
  | .rol f => some (R3.put 0x01 9 f)
  | .slt f => some (R3.put 0x01 10 f)
  | .sltn f => some (R3.put 0x01 11 f)
  | .seq f => some (R3.put 0x01 12 f)
  | .min f => some (R3.put 0x01 13 f)
  | .max f => some (R3.put 0x01 14 f)
  | .minn f => some (R3.put 0x01 15 f)
  | .maxn f => some (R3.put 0x01 16 f)
  | .addw f => some (R3.put 0x01 17 f)
  | .subw f => some (R3.put 0x01 18 f)
  | .adds1 f => some (R3.put 0x01 19 f)
  | .adds2 f => some (R3.put 0x01 20 f)
  | .adds3 f => some (R3.put 0x01 21 f)
  | .slli f => some (Shift.put 0x01 32 f)
  | .srli f => some (Shift.put 0x01 34 f)
  | .srai f => some (Shift.put 0x01 36 f)
  | .roli f => some (Shift.put 0x01 38 f)
  | .mul f => some (R3.put 0x02 0 f)
  | .mulh f => some (R3.put 0x02 1 f)
  | .mulhn f => some (R3.put 0x02 2 f)
  | .div f => some (R3.put 0x02 3 f)
  | .divn f => some (R3.put 0x02 4 f)
  | .rem f => some (R3.put 0x02 5 f)
  | .remn f => some (R3.put 0x02 6 f)
  | .clz f => some (R2.put 0x02 7 f)
  | .ctz f => some (R2.put 0x02 8 f)
  | .cpop f => some (R2.put 0x02 9 f)
  | .bext f => some (R3.put 0x02 10 f)
  | .bins f => some (R3.put 0x02 11 f)
  | .addi f => some (ImmI.put 0x03 f)
  | .andi f => some (ImmI.put 0x04 f)
  | .ori f => some (ImmI.put 0x05 f)
  | .xori f => some (ImmI.put 0x06 f)
  | .lih f => some (ImmJ.put 0x07 f)
  | .ldxb f => some (R3.put 0x08 0 f)
  | .ldxbn f => some (R3.put 0x08 1 f)
  | .ldxh f => some (R3.put 0x08 2 f)
  | .ldxhn f => some (R3.put 0x08 3 f)
  | .ldxw f => some (R3.put 0x08 4 f)
  | .ldxwn f => some (R3.put 0x08 5 f)
  | .ldxd f => some (R3.put 0x08 6 f)
  | .stxb f => some (R3.put 0x09 0 f)
  | .stxh f => some (R3.put 0x09 1 f)
  | .stxw f => some (R3.put 0x09 2 f)
  | .stxd f => some (R3.put 0x09 3 f)
  | .cwb f => some (Pair.put 0x09 4 f)
  | .czero f => some (Pair.put 0x09 5 f)
  | .ldd f => some (ImmI.put 0x0A f)
  | .ldw f => some (ImmI.put 0x0B f)
  | .ldwn f => some (ImmI.put 0x0C f)
  | .std f => some (ImmB.put 0x0D f)
  | .stw f => some (ImmB.put 0x0E f)
  | .lr f => some (R2.put 0x0F 0 f)
  | .lrw f => some (R2.put 0x0F 1 f)
  | .sc f => some (R3.put 0x0F 2 f)
  | .scw f => some (R3.put 0x0F 3 f)
  | .pref f => some (Pair.put 0x0F 4 f)
  | .beq f => some (ImmB.put 0x10 f)
  | .bne f => some (ImmB.put 0x11 f)
  | .blt f => some (ImmB.put 0x12 f)
  | .bge f => some (ImmB.put 0x13 f)
  | .bltn f => some (ImmB.put 0x14 f)
  | .bgen f => some (ImmB.put 0x15 f)
  | .jal f => some (ImmJ.put 0x16 f)
  | .jalr f => some (R2.put 0x17 0 f)
  | .rdpc f => some (Dst.put 0x17 1 f)
  | .loop f => some (LoopR.put 0x18 f)
  | .loopi f => some (LoopI.put 0x19 f)
  | .lpop f => some (Bare.put 0x1A 0 f)
  | .lbrk f => some (Bare.put 0x1A 1 f)
  | .lcnt f => some (Dst.put 0x1A 2 f)
  | .ldep f => some (Dst.put 0x1A 3 f)
  | .bgs f => some (Grant.put 0x1B 0 f)
  | .bgsn f => some (Grant.put 0x1B 1 f)
  | .mfc f => some (CtlR.put 0x1C 0 f)
  | .mtc f => some (CtlW.put 0x1C 1 f)
  | .mcset f => some (CtlW.put 0x1C 2 f)
  | .mcclr f => some (CtlW.put 0x1C 3 f)
  | .rft f => some (Bare.put 0x1D 0 f)
  | .trap f => some (TrapK.put 0x1D 256 f)
  | .ifence f => some (Bare.put 0x1E 0 f)
  | .pause f => some (Bare.put 0x1E 1 f)
  | .sdrain f => some (Bare.put 0x1E 2 f)
  | .halt f => some (Bare.put 0x1F 0 f)
  | .vtype f => some (R2.put 0x20 0 f)
  | .mfg f => some (R3.put 0x20 1 f)
  | .zctw f => some (R2.put 0x20 16 f)
  | .zcswap f => some (Bare.put 0x20 17 f)
  | .strip f => some (R3.put 0x21 0 f)
  | .sclose f => some (Bare.put 0x21 1 f)
  | .scloseRel f => some (Bare.put 0x21 2 f)
  | .zld f => some (R3.put 0x22 0 f)
  | .zst f => some (R2.put 0x22 1 f)
  | .zfind f => some (R2.put 0x22 2 f)
  | .zskip f => some (R3.put 0x22 3 f)
  | .vld f => some (V2.put 0x23 0 f)
  | .vlds f => some (V3.put 0x23 1 f)
  | .vldb f => some (V2.put 0x23 2 f)
  | .vldo f => some (V2.put 0x23 3 f)
  | .vldso f => some (V3.put 0x23 4 f)
  | .vldx f => some (V3.put 0x24 0 f)
  | .vldxo f => some (V3.put 0x24 1 f)
  | .vst f => some (V2.put 0x25 0 f)
  | .vsts f => some (V3.put 0x25 1 f)
  | .vstc f => some (V2.put 0x25 2 f)
  | .vsto f => some (V2.put 0x25 3 f)
  | .vstso f => some (V3.put 0x25 4 f)
  | .vstx f => some (V3.put 0x25 5 f)
  | .vstxo f => some (V3.put 0x25 6 f)
  | .vadd f => some (V3.put 0x26 0 f)
  | .vsub f => some (V3.put 0x26 1 f)
  | .vmul f => some (V3.put 0x26 2 f)
  | .vdiv f => some (V3.put 0x26 3 f)
  | .vmin f => some (V3.put 0x26 4 f)
  | .vmax f => some (V3.put 0x26 5 f)
  | .vabsd f => some (V3.put 0x26 6 f)
  | .vand f => some (V3.put 0x26 7 f)
  | .vor f => some (V3.put 0x26 8 f)
  | .vxor f => some (V3.put 0x26 9 f)
  | .vsll f => some (V3.put 0x26 10 f)
  | .vsrl f => some (V3.put 0x26 11 f)
  | .vsra f => some (V3.put 0x26 12 f)
  | .vneg f => some (V2.put 0x27 0 f)
  | .vabs f => some (V2.put 0x27 1 f)
  | .vsqrt f => some (V2.put 0x27 2 f)
  | .vmov f => some (V2.put 0x27 3 f)
  | .vadds f => some (V3.put 0x27 4 f)
  | .vmuls f => some (V3.put 0x27 5 f)
  | .vbcast f => some (VB.put 0x27 6 f)
  | .vid f => some (V1.put 0x27 7 f)
  | .vfma f => some (V3.put 0x28 0 f)
  | .vfms f => some (V3.put 0x28 1 f)
  | .vfnma f => some (V3.put 0x28 2 f)
  | .vtsum f => some (V3.put 0x28 3 f)
  | .vtprod f => some (V3.put 0x28 4 f)
  | .vceq f => some (V3.put 0x29 0 f)
  | .vcne f => some (V3.put 0x29 1 f)
  | .vclt f => some (V3.put 0x29 2 f)
  | .vcle f => some (V3.put 0x29 3 f)
  | .vcnan f => some (V3.put 0x29 4 f)
  | .vcvt f => some (V3.put 0x2A 0 f)
  | .vqnt f => some (R2.put 0x2A 1 f)
  | .vdqnt f => some (R2.put 0x2A 2 f)
  | .vsel f => some (V3.put 0x2B 0 f)
  | .vslup f => some (V3.put 0x2B 1 f)
  | .vsldn f => some (V3.put 0x2B 2 f)
  | .vperm f => some (V3.put 0x2B 3 f)
  | .vcomp f => some (V2.put 0x2B 4 f)
  | .vredo f => some (V3.put 0x2C 0 f)
  | .vredt f => some (V3.put 0x2C 1 f)
  | .vscano f => some (V3.put 0x2C 2 f)
  | .vscanf f => some (V3.put 0x2C 3 f)
  | .vredmin f => some (V3.put 0x2C 4 f)
  | .vredmax f => some (V3.put 0x2C 5 f)
  | .mand f => some (R3.put 0x2D 0 f)
  | .mor f => some (R3.put 0x2D 1 f)
  | .mxor f => some (R3.put 0x2D 2 f)
  | .mandn f => some (R3.put 0x2D 3 f)
  | .mnot f => some (R2.put 0x2D 4 f)
  | .mlen f => some (R2.put 0x2D 5 f)
  | .mpop f => some (R2.put 0x2D 6 f)
  | .mfirst f => some (R2.put 0x2D 7 f)
  | .tmac f => some (TMac.put 0x2E 0 f)
  | .tdist f => some (TMac.put 0x2E 1 f)
  | .tcupd f => some (TRow.put 0x2E 2 f)
  | .tacc f => some (TRow.put 0x2E 3 f)
  | .tdrain f => some (TRow.put 0x2F 0 f)
  | .tfill f => some (TRow.put 0x2F 1 f)
  | .tzero f => some (TRng.put 0x2F 2 f)
  | .tcdiv f => some (TRng.put 0x2F 3 f)
  | .tcget f => some (TRng.put 0x2F 4 f)
  | .tld f => some (TLd.put 0x30 0 f)
  | .tmode f => some (Pair.put 0x31 0 f)
  | .tmodr f => some (Dst.put 0x31 1 f)
  | .tmodc f => some (Dst.put 0x31 2 f)
  | .tbest f => some (DstB.put 0x31 3 f)
  | .tcnt f => some (R2.put 0x31 4 f)
  | .cfun f => some (R3.put 0x32 0 f)
  | .ccor f => some (R3.put 0x32 1 f)
  | .cseq f => some (R3.put 0x32 2 f)
  | .cpar f => some (R3.put 0x32 3 f)
  | .cpipe f => some (R3.put 0x32 4 f)
  | .cfarm f => some (R3.put 0x32 5 f)
  | .cloop f => some (R3.put 0x32 6 f)
  | .capply f => some (R3.put 0x33 0 f)
  | .cret f => some (Pair.put 0x33 1 f)
  | .cyield f => some (R3.put 0x33 2 f)
  | .wid f => some (R2.put 0x33 3 f)
  | .chput f => some (R3.put 0x34 0 f)
  | .chget f => some (R3.put 0x34 1 f)
  | .barv f => some (R3.put 0x35 0 f)
  | .barw f => some (R3.put 0x35 1 f)
  | .bara f => some (R3.put 0x35 2 f)
  | .amoSwap f => some (Amo.put 0x36 0 f)
  | .amoAdd f => some (Amo.put 0x36 1 f)
  | .amoAnd f => some (Amo.put 0x36 2 f)
  | .amoOr f => some (Amo.put 0x36 3 f)
  | .amoXor f => some (Amo.put 0x36 4 f)
  | .amoMin f => some (Amo.put 0x36 5 f)
  | .amoMax f => some (Amo.put 0x36 6 f)
  | .amoMinn f => some (Amo.put 0x36 7 f)
  | .amoMaxn f => some (Amo.put 0x36 8 f)
  | .amoCas f => some (Amo.put 0x36 9 f)
  | .scopen f => some (Pair.put 0x37 0 f)
  | .scaddO f => some (R3.put 0x37 1 f)
  | .scaddU f => some (R3.put 0x37 2 f)
  | .scflush f => some (R2.put 0x37 3 f)
  | .fence f => some (FenceF.put 0x37 16 f)
  | .fenceAcq f => some (FenceF.put 0x37 24 f)
  | .fenceRel f => some (FenceF.put 0x37 32 f)
  | .xcopy f => some (Eng.put 0x38 0 f)
  | .xcopyz f => some (Eng.put 0x38 1 f)
  | .xfill f => some (Eng.put 0x38 2 f)
  | .xquery f => some (R3.put 0x39 0 f)
  | .xgrid f => some (R3.put 0x39 1 f)
  | .xcoll f => some (Eng.put 0x3A 0 f)
  | .xnote f => some (R2.put 0x3A 1 f)
  | _ => none

/-- The four bytes of a word, lowest address first (R52). -/
def wordBytes (x : Nat) : List Byte :=
  [BitVec.ofNat 8 x, BitVec.ofNat 8 (x / 256), BitVec.ofNat 8 (x / 65536), BitVec.ofNat 8 (x / 16777216)]

/-- The bytes of an instruction; none for an event. -/
def encode (i : Instr) : List Byte :=
  match encodeWord i with
  | some x => wordBytes x
  | none => []

/-- The instruction that the decoder reads from a word numbered as the opcode table numbers it. -/
def decodeTableWord (nbits w : Nat) : Option Instr :=
  if nbits = 32 ∧ w < 4294967296 then
    match decode (wordBytes w) with
    | .ok (i, _) => some i
    | .error _ => none
  else none

end Sys2Proof
end

