-- ==== Sys2Proof/Machine/Operands.lean ====
section
/-!
DEFINITION. What a word names: the scalar and vector registers an instruction reads and writes, its latency, its
major opcode; and the type register's image, widths and caps.
-/

namespace Sys2Proof.Machine

/-! ### Formats (R37, R103, R105) -/

/-- The w code of a plain format (R103). -/
def Fmt.code : Fmt → Nat
  | .i8 => 0 | .i16 => 1 | .i32 => 2 | .i64 => 3 | .n8 => 4 | .n16 => 5 | .n32 => 6 | .n64 => 7
  | .f16 => 8 | .fp32 => 9 | .bf16 => 10 | .e4m3 => 11 | .e5m2 => 12 | .eb => 13

/-- The plain format of a w code; 14 and 15 name none (R103). -/
def Fmt.ofCode : Nat → Option Fmt
  | 0 => some .i8 | 1 => some .i16 | 2 => some .i32 | 3 => some .i64
  | 4 => some .n8 | 5 => some .n16 | 6 => some .n32 | 7 => some .n64
  | 8 => some .f16 | 9 => some .fp32 | 10 => some .bf16 | 11 => some .e4m3 | 12 => some .e5m2 | 13 => some .eb
  | _ => none

/-- Width in bits of a plain element; eb elements have no width of their own and count as 5 (80 bits for 16). -/
def Fmt.width : Fmt → Nat
  | .i8 => 8 | .i16 => 16 | .i32 => 32 | .i64 => 64 | .n8 => 8 | .n16 => 16 | .n32 => 32 | .n64 => 64
  | .f16 => 16 | .fp32 => 32 | .bf16 => 16 | .e4m3 => 8 | .e5m2 => 8 | .eb => 5

/-- A signed or unsigned integer format (R37). -/
def Fmt.isInt (f : Fmt) : Bool := f.code < 8
/-- A signed integer format. -/
def Fmt.isSigned (f : Fmt) : Bool := f.code < 4
/-- A float format with elements of its own (R127, class float). -/
def Fmt.isFloat (f : Fmt) : Bool := 8 ≤ f.code && f.code ≤ 12

/-- The log2 of the group multiplier (R103). -/
def gCode : Nat → Nat
  | 1 => 0 | 2 => 1 | 4 => 2 | _ => 3

/-- The code of a precision P (R103). -/
def pCode : Nat → Nat
  | 3 => 0 | 7 => 1 | 10 => 2 | _ => 3

/-- The precision of a code (R103). -/
def pOf : Nat → Nat
  | 0 => 3 | 1 => 7 | 2 => 10 | _ => 23

/-- The code of a rounding mode (R103). -/
def Rm.code : Rm → Nat
  | .ne => 0 | .tz => 1 | .dn => 2 | .up => 3 | .sr => 4

/-- The rounding mode of a code; 5 to 7 name none (R103). -/
def Rm.ofCode : Nat → Option Rm
  | 0 => some .ne | 1 => some .tz | 2 => some .dn | 3 => some .up | 4 => some .sr
  | _ => none

/-- The signed 8-bit value of a field. -/
def signed8 (x : Nat) : Int := if x < 128 then (x : Int) else (x : Int) - 256

/-! ### The image of vt (R102) -/

/-- The image of a valid type (R102). -/
def VType.image (t : VType) : Word :=
  let fam := match t.fam with | .plain _ => 0 | .pzi => 1 | .pzf _ => 2
  let w := match t.fam with | .plain f => f.code | _ => 0
  let p := match t.fam with | .pzf p => pCode p | _ => 0
  BitVec.ofNat 64 (fam + w * 4 + p * 64 + gCode t.g * 256 + t.bb * 1024 + (t.eb % 256).toNat * 262144 +
    (if t.ct then 67108864 else 0) + t.rm.code * 134217728 + (if t.sat then 1073741824 else 0))

/-- The image that `mfg` reads: inv alone while vt is invalid (R102, R104). -/
def vtImage : Option VType → Word
  | some t => t.image
  | none => 0x8000000000000000

/-- The combinations of g with a plain format (R103). -/
def gDefined (f : Fmt) (g : Nat) : Bool :=
  if f = .eb then g ≤ 1 else if f.width = 8 then g ≤ 2 else true

/-- The type that a written image selects; `none` when any field breaks R102 or R103. -/
def vtOfImage (x : Word) : Option VType :=
  let n := x.toNat
  let fam := n % 4
  let w := n / 4 % 16
  let p := n / 64 % 4
  let g := n / 256 % 4
  let bb := n / 1024 % 256
  let eb := n / 262144 % 256
  let ct := n / 67108864 % 2
  let sat := n / 1073741824 % 2 = 1
  if 2147483648 ≤ n then none
  else match Rm.ofCode (n / 134217728 % 8) with
  | none => none
  | some rm =>
    match fam with
    | 0 =>
      match Fmt.ofCode w with
      | none => none
      | some f =>
        if p = 0 ∧ bb = 0 ∧ eb = 0 ∧ ct = 0 ∧ gDefined f g = true then
          some ⟨.plain f, 2 ^ g, 0, 0, false, rm, sat⟩
        else none
    | 1 =>
      if w = 0 ∧ p = 0 ∧ eb = 0 ∧ 1 ≤ bb ∧ bb ≤ 128 then some ⟨.pzi, 2 ^ g, bb, 0, ct = 1, rm, sat⟩ else none
    | 2 =>
      if w = 0 ∧ 1 ≤ bb ∧ bb ≤ 128 then some ⟨.pzf (pOf p), 2 ^ g, bb, signed8 eb, ct = 1, rm, sat⟩ else none
    | _ => none

/-- A coded type (R105). -/
def VType.coded (t : VType) : Bool :=
  match t.fam with
  | .plain _ => false
  | _ => true

/-- EMAX at gang width `gang` (R105, R336). -/
def VType.emax (t : VType) (gang : Nat) : Nat :=
  (match t.fam with
   | .plain .eb => 16 * (8192 * t.g / 80)
   | .plain f => 8192 * t.g / f.width
   | _ => 512 * t.g) * gang

/-- The budget of a group in bits at gang width `gang` (R105, R336). -/
def VType.budget (t : VType) (gang : Nat) : Nat :=
  (match t.fam with
   | .plain _ => 8192 * t.g
   | _ => t.bb * 64 * t.g) * gang

/-! ### What an instruction names -/

/-- The wait count, the scalar registers read and written, the fixed latency (R101; none when interlocked), the vector
register fields of R59, and the mask registers written (R269). -/
structure Info where
  w : Nat
  srcs : List Nat
  dsts : List Nat
  lat : Option Nat
  vregs : List Nat
  masks : List Nat
  deriving DecidableEq, Repr

/-- What each instruction names (the operand tables of R77 to R101, R120, R131, R155 and the later descriptions). -/
def instrInfo (i : Instr) : Info :=
  match i with
  | .add f | .sub f | .and f | .or f | .xor f | .andn f | .sll f | .srl f | .sra f | .rol f | .slt f | .sltn f
    | .seq f | .min f | .max f | .minn f | .maxn f | .addw f | .subw f | .adds1 f | .adds2 f | .adds3 f => ⟨f.w.val, [f.a.val, f.b.val], [f.d.val], some 2, [], []⟩
  | .slli f | .srli f | .srai f | .roli f => ⟨f.w.val, [f.a.val], [f.d.val], some 2, [], []⟩
  | .mul f | .mulh f | .mulhn f => ⟨f.w.val, [f.a.val, f.b.val], [f.d.val], some 4, [], []⟩
  | .div f | .divn f | .rem f | .remn f | .ldxb f | .ldxbn f | .ldxh f | .ldxhn f | .ldxw f | .ldxwn f | .ldxd f
    | .sc f | .scw f | .strip f | .zskip f | .capply f | .cyield f | .chput f | .chget f | .barv f | .barw f
    | .bara f | .xquery f | .xgrid f => ⟨f.w.val, [f.a.val, f.b.val], [f.d.val], none, [], []⟩
  | .clz f | .ctz f | .cpop f => ⟨f.w.val, [f.a.val], [f.d.val], some 3, [], []⟩
  | .bext f => ⟨f.w.val, [f.a.val, f.b.val], [f.d.val], some 3, [], []⟩
  | .bins f => ⟨f.w.val, [f.a.val, f.b.val, f.d.val], [f.d.val], some 3, [], []⟩
  | .addi f | .andi f | .ori f | .xori f => ⟨f.w.val, [f.a.val], [f.d.val], some 2, [], []⟩
  | .lih f => ⟨f.w.val, [f.d.val], [f.d.val], some 2, [], []⟩
  | .stxb f | .stxh f | .stxw f | .stxd f | .cfun f | .ccor f | .cseq f | .cpar f | .cpipe f | .cfarm f
    | .cloop f => ⟨f.w.val, [f.a.val, f.b.val, f.d.val], [], none, [], []⟩
  | .cwb f | .czero f | .pref f | .tmode f | .cret f | .scopen f => ⟨f.w.val, [f.a.val, f.b.val], [], none, [], []⟩
  | .ldd f | .ldw f | .ldwn f => ⟨f.w.val, [f.a.val], [f.d.val], none, [], []⟩
  | .std f | .stw f | .beq f | .bne f | .blt f | .bge f | .bltn f | .bgen f => ⟨f.w.val, [f.a.val, f.b.val], [], none, [], []⟩
  | .lr f | .lrw f | .vtype f | .scflush f | .xnote f => ⟨f.w.val, [f.a.val], [f.d.val], none, [], []⟩
  | .jal f => ⟨f.w.val, [], [f.d.val], some 2, [], []⟩
  | .jalr f => ⟨f.w.val, [f.a.val], [f.d.val], some 2, [], []⟩
  | .rdpc f | .lcnt f | .ldep f => ⟨f.w.val, [], [f.d.val], some 2, [], []⟩
  | .loop f => ⟨f.w.val, [f.a.val], [], none, [], []⟩
  | .loopi f => ⟨f.w.val, [], [], none, [], []⟩
  | .lpop f | .lbrk f | .rft f | .ifence f | .pause f | .sdrain f | .halt f | .zcswap f | .sclose f
    | .scloseRel f => ⟨f.w.val, [], [], none, [], []⟩
  | .bgs f | .bgsn f => ⟨f.w.val, [], [], none, [], []⟩
  | .mfc f => ⟨f.w.val, [], [f.d.val], some 3, [], []⟩
  | .mtc f | .mcset f | .mcclr f => ⟨f.w.val, [f.a.val], [f.d.val], some 3, [], []⟩
  | .trap f => ⟨f.w.val, [], [], none, [], []⟩
  | .mfg f => ⟨f.w.val, [], [f.d.val], none, [], []⟩
  | .zctw f => ⟨f.w.val, [f.a.val], [], none, [], []⟩
  | .zld f => ⟨f.w.val, [f.a.val, f.b.val], [], none, [f.d.val], []⟩
  | .zst f => ⟨f.w.val, [f.a.val], [], none, [f.d.val], []⟩
  | .zfind f | .vqnt f | .vdqnt f => ⟨f.w.val, [], [], none, [f.d.val, f.a.val], []⟩
  | .vld f | .vldb f | .vldo f | .vst f | .vstc f | .vsto f => ⟨f.w.val, [f.a.val], [], none, [f.d.val], []⟩
  | .vlds f | .vldso f | .vsts f | .vstso f => ⟨f.w.val, [f.a.val, f.b.val], [], none, [f.d.val], []⟩
  | .vldx f | .vldxo f | .vstx f | .vstxo f => ⟨f.w.val, [f.a.val], [], none, [f.d.val, f.b.val], []⟩
  | .vadd f | .vsub f | .vmul f | .vdiv f | .vmin f | .vmax f | .vabsd f | .vand f | .vor f | .vxor f | .vsll f
    | .vsrl f | .vsra f | .vfma f | .vfms f | .vfnma f | .vtsum f | .vtprod f | .vsel f | .vperm f | .vredo f
    | .vredt f | .vscano f | .vscanf f | .vredmin f | .vredmax f => ⟨f.w.val, [], [], none, [f.d.val, f.a.val, f.b.val], []⟩
  | .vneg f | .vabs f | .vsqrt f | .vmov f | .vcomp f => ⟨f.w.val, [], [], none, [f.d.val, f.a.val], []⟩
  | .vadds f | .vmuls f | .vslup f | .vsldn f => ⟨f.w.val, [f.b.val], [], none, [f.d.val, f.a.val], []⟩
  | .vbcast f => ⟨f.w.val, [f.b.val], [], none, [f.d.val], []⟩
  | .vid f => ⟨f.w.val, [], [], none, [f.d.val], []⟩
  | .vceq f | .vcne f | .vclt f | .vcle f | .vcnan f => ⟨f.w.val, [], [], none, [f.a.val, f.b.val], [f.d.val]⟩
  | .vcvt f => ⟨f.w.val, [], [], none, [f.d.val, f.a.val], []⟩
  | .mand f | .mor f | .mxor f | .mandn f => ⟨f.w.val, [], [], none, [], [f.d.val]⟩
  | .mnot f => ⟨f.w.val, [], [], none, [], [f.d.val]⟩
  | .mlen f => ⟨f.w.val, [f.a.val], [], none, [], [f.d.val]⟩
  | .mpop f | .mfirst f | .tcnt f | .wid f => ⟨f.w.val, [], [f.d.val], none, [], []⟩
  | .tmac f | .tdist f => ⟨f.w.val, [], [], none, [f.a.val], []⟩
  | .tcupd f | .tacc f | .tdrain f | .tfill f => ⟨f.w.val, [], [], none, [f.a.val], []⟩
  | .tzero f | .tcdiv f => ⟨f.w.val, [f.a.val], [], none, [], []⟩
  | .tcget f => ⟨f.w.val, [], [f.a.val], none, [], []⟩
  | .tld f => ⟨f.w.val, [f.a.val], [], none, [], []⟩
  | .tmodr f | .tmodc f => ⟨f.w.val, [], [f.d.val], none, [], []⟩
  | .tbest f => ⟨f.w.val, [], [f.d.val, f.b.val], none, [], []⟩
  | .amoSwap f | .amoAdd f | .amoAnd f | .amoOr f | .amoXor f | .amoMin f | .amoMax f | .amoMinn f | .amoMaxn f => ⟨f.w.val, [f.a.val, f.b.val], [f.d.val], none, [], []⟩
  | .amoCas f => ⟨f.w.val, [f.a.val, f.b.val, f.d.val], [f.d.val], none, [], []⟩
  | .scaddO f | .scaddU f => ⟨f.w.val, [f.a.val], [], none, [f.d.val, f.b.val], []⟩
  | .fence f | .fenceAcq f | .fenceRel f => ⟨f.w.val, [], [], none, [], []⟩
  | .xcopy f | .xcopyz f | .xfill f | .xcoll f => ⟨f.w.val, [f.a.val, f.b.val], [f.d.val], none, [], []⟩
  | _ => ⟨0, [], [], none, [], []⟩

/-- The major opcode (R60); 0 for an event. -/
def instrMajor (i : Instr) : Nat :=
  match i with
  | .add _ | .sub _ | .and _ | .or _ | .xor _ | .andn _ | .sll _ | .srl _ | .sra _ | .rol _ | .slt _ | .sltn _
    | .seq _ | .min _ | .max _ | .minn _ | .maxn _ | .addw _ | .subw _ | .adds1 _ | .adds2 _ | .adds3 _
    | .slli _ | .srli _ | .srai _ | .roli _ => 0x01
  | .mul _ | .mulh _ | .mulhn _ | .div _ | .divn _ | .rem _ | .remn _ | .clz _ | .ctz _ | .cpop _ | .bext _
    | .bins _ => 0x02
  | .addi _ => 0x03
  | .andi _ => 0x04
  | .ori _ => 0x05
  | .xori _ => 0x06
  | .lih _ => 0x07
  | .ldxb _ | .ldxbn _ | .ldxh _ | .ldxhn _ | .ldxw _ | .ldxwn _ | .ldxd _ => 0x08
  | .stxb _ | .stxh _ | .stxw _ | .stxd _ | .cwb _ | .czero _ => 0x09
  | .ldd _ => 0x0A
  | .ldw _ => 0x0B
  | .ldwn _ => 0x0C
  | .std _ => 0x0D
  | .stw _ => 0x0E
  | .lr _ | .lrw _ | .sc _ | .scw _ | .pref _ => 0x0F
  | .beq _ => 0x10
  | .bne _ => 0x11
  | .blt _ => 0x12
  | .bge _ => 0x13
  | .bltn _ => 0x14
  | .bgen _ => 0x15
  | .jal _ => 0x16
  | .jalr _ | .rdpc _ => 0x17
  | .loop _ => 0x18
  | .loopi _ => 0x19
  | .lpop _ | .lbrk _ | .lcnt _ | .ldep _ => 0x1A
  | .bgs _ | .bgsn _ => 0x1B
  | .mfc _ | .mtc _ | .mcset _ | .mcclr _ => 0x1C
  | .rft _ | .trap _ => 0x1D
  | .ifence _ | .pause _ | .sdrain _ => 0x1E
  | .halt _ => 0x1F
  | .vtype _ | .mfg _ | .zctw _ | .zcswap _ => 0x20
  | .strip _ | .sclose _ | .scloseRel _ => 0x21
  | .zld _ | .zst _ | .zfind _ | .zskip _ => 0x22
  | .vld _ | .vlds _ | .vldb _ | .vldo _ | .vldso _ => 0x23
  | .vldx _ | .vldxo _ => 0x24
  | .vst _ | .vsts _ | .vstc _ | .vsto _ | .vstso _ | .vstx _ | .vstxo _ => 0x25
  | .vadd _ | .vsub _ | .vmul _ | .vdiv _ | .vmin _ | .vmax _ | .vabsd _ | .vand _ | .vor _ | .vxor _ | .vsll _
    | .vsrl _ | .vsra _ => 0x26
  | .vneg _ | .vabs _ | .vsqrt _ | .vmov _ | .vadds _ | .vmuls _ | .vbcast _ | .vid _ => 0x27
  | .vfma _ | .vfms _ | .vfnma _ | .vtsum _ | .vtprod _ => 0x28
  | .vceq _ | .vcne _ | .vclt _ | .vcle _ | .vcnan _ => 0x29
  | .vcvt _ | .vqnt _ | .vdqnt _ => 0x2A
  | .vsel _ | .vslup _ | .vsldn _ | .vperm _ | .vcomp _ => 0x2B
  | .vredo _ | .vredt _ | .vscano _ | .vscanf _ | .vredmin _ | .vredmax _ => 0x2C
  | .mand _ | .mor _ | .mxor _ | .mandn _ | .mnot _ | .mlen _ | .mpop _ | .mfirst _ => 0x2D
  | .tmac _ | .tdist _ | .tcupd _ | .tacc _ => 0x2E
  | .tdrain _ | .tfill _ | .tzero _ | .tcdiv _ | .tcget _ => 0x2F
  | .tld _ => 0x30
  | .tmode _ | .tmodr _ | .tmodc _ | .tbest _ | .tcnt _ => 0x31
  | .cfun _ | .ccor _ | .cseq _ | .cpar _ | .cpipe _ | .cfarm _ | .cloop _ => 0x32
  | .capply _ | .cret _ | .cyield _ | .wid _ => 0x33
  | .chput _ | .chget _ => 0x34
  | .barv _ | .barw _ | .bara _ => 0x35
  | .amoSwap _ | .amoAdd _ | .amoAnd _ | .amoOr _ | .amoXor _ | .amoMin _ | .amoMax _ | .amoMinn _ | .amoMaxn _
    | .amoCas _ => 0x36
  | .scopen _ | .scaddO _ | .scaddU _ | .scflush _ | .fence _ | .fenceAcq _ | .fenceRel _ => 0x37
  | .xcopy _ | .xcopyz _ | .xfill _ => 0x38
  | .xquery _ | .xgrid _ => 0x39
  | .xcoll _ | .xnote _ => 0x3A
  | _ => 0

/-- Majors 0x22 to 0x31, `scadd.o` and `scadd.u`: they need a valid vt (R62 step 4). -/
def instrTyped (i : Instr) : Bool :=
  match i with
  | .scaddO _ => true
  | .scaddU _ => true
  | i => 0x22 ≤ instrMajor i && instrMajor i ≤ 0x31

/-- The restricted set of R90 by major, `wid` apart. -/
def restrictedMajor (m : Nat) : Bool := (0x10 ≤ m && m ≤ 0x1F) || m == 0x21 || (0x32 ≤ m && m ≤ 0x34)

/-- A word of the restricted set (R90, R218). -/
def restrictedWord (x : Nat) : Bool :=
  restrictedMajor (fMajor x) && !(fMajor x == 0x33 && fn8 x == 3)

/-- An instruction of the restricted set. -/
def instrRestricted (i : Instr) : Bool :=
  match i with
  | .wid _ => false
  | i => restrictedMajor (instrMajor i)

end Sys2Proof.Machine
end

