-- ==== Sys2Proof/Machine/Ops.lean ====
section
/-!
DEFINITION. The named operations over registers and memory that every meaning uses: accessors, bytes and sectors, the
page walk and the windows, the strip store buffer and its commit, taking a trap and returning from one, and the frame
of an issuing word: the checks of R62 in order, and what follows its completion.
-/

namespace Sys2Proof.Machine

/-! ### Sequencers and uppers -/

/-- Sequencer q; an absent one stands at reset (R8). -/
def State.seqAt (s : State) (q : Nat) : Seq := (SMap.find s.seqs q).getD Seq.reset
def State.setSeq (s : State) (q : Nat) (m : Seq) : State := { s with seqs := SMap.put s.seqs q m }
/-- The sequencer whose turn it is. -/
def State.me (s : State) : Seq := s.seqAt s.cur
def State.setMe (s : State) (m : Seq) : State := s.setSeq s.cur m

/-- The upper of a sequencer number: bits 11-2 of SEQID (R95). -/
def upperOf (q : Nat) : Nat := q / 4
def State.upperAt (s : State) (u : Nat) : Upper := (SMap.find s.uppers u).getD Upper.reset
def State.setUpper (s : State) (u : Nat) (x : Upper) : State := { s with uppers := SMap.put s.uppers u x }
/-- The sequencers other than `q` whose `zcswap` waits behind another's (R30). -/
def Upper.behind (up : Upper) (q : Nat) : List Nat := up.swapQueue.filter (· != q)
def State.soleAt (s : State) (i : Nat) : Sole := (SMap.find s.soles i).getD Sole.reset
def State.setSole (s : State) (i : Nat) (x : Sole) : State := { s with soles := SMap.put s.soles i x }
/-- The checking positions of the sole that upper v's welt entry binds (R319). -/
def State.posAt (s : State) (v : Nat) : Checks := (SMap.find s.checks v).getD Checks.reset
def State.setPos (s : State) (v : Nat) (x : Checks) : State := { s with checks := SMap.put s.checks v x }

/-- Read a scalar register: s0 reads zero (R8, SReg of R64). -/
def Seq.sreg (m : Seq) (r : Reg) : Word := if r.val = 0 then 0 else m.regs.get r
/-- Write a scalar register: a write of s0 is discarded (R8, SetS of R64). -/
def Seq.setS (m : Seq) (r : Reg) (v : Word) : Seq :=
  if r.val = 0 then m else { m with regs := m.regs.set r.val v r.isLt }
def State.sreg (s : State) (r : Reg) : Word := s.me.sreg r
def State.setS (s : State) (r : Reg) (v : Word) : State := s.setMe (s.me.setS r v)

/-- Replace the control registers of the current sequencer. -/
def State.setCtl (s : State) (c : Ctl) : State := s.setMe { s.me with ctl := c }
def State.setGrant (s : State) (g : GrantFile) : State := s.setMe { s.me with grant := g }
/-- Raise sticky flags (R11, R49). -/
def State.raise (s : State) (f : FlagSet) : State :=
  s.setCtl { s.me.ctl with status := raiseFlags s.me.ctl.status f }
/-- STATUS.PRIV of the current sequencer. -/
def State.priv (s : State) : Bool := isPriv s.me.ctl.status

/-! ### Cores, launches, contexts of an access -/

/-- The core that upper u leads, with its partition (R3, R176). -/
def findCore (ps : SMap Partition) (u : Nat) : Option (Nat × CoreOf) :=
  match ps with
  | [] => none
  | (n, p) :: t =>
    match p.cores.find? (fun c => c.leader == u) with
    | some c => some (n, c)
    | none => findCore t u

def State.coreAt (s : State) (u : Nat) : Option (Nat × CoreOf) := findCore s.parts u

/-- The launch of a running record. -/
def State.launchOf (s : State) (m : Seq) : Option Launch :=
  match m.work with
  | some r => SMap.find s.launches r.launch
  | none => none

/-- LogicalCore(wid) (R194). -/
def logicalCore (wid : Word) (grid : Nat) : Nat := wid.toNat % grid

/-- The image number of a logical core. -/
def logicalImage (launch core : Nat) : Nat := Config.imageBase + launch * 4096 + core

/-- The context of sequencer q's accesses (R241, R242, R336). -/
def State.ctxOf (s : State) (q : Nat) : Ctx :=
  let m := s.seqAt q
  let core := s.coreAt (upperOf q)
  let part := match core with | some (p, _) => p | none => 16
  let width := match core with | some (_, c) => c.width | none => 1
  let own : Ctx := ⟨part, isPriv m.ctl.status, upperOf q, width, none⟩
  match m.work with
  | none => own
  | some r =>
    match SMap.find s.launches r.launch with
    | none => own
    | some l =>
      if l.det then { own with image := logicalImage r.launch (logicalCore r.wid l.grid), gang := 1,
                               det := some (r.launch, l.grid) }
      else own

def State.ctx (s : State) : Ctx := s.ctxOf s.cur

/-- The sole image the current sequencer works on (R153, R196, R366). -/
def State.image (s : State) : Nat := s.ctx.image
/-- The gang width that scales the figures of R336. -/
def State.gang (s : State) : Nat := s.ctx.gang
def State.sole (s : State) : Sole := s.soleAt s.image

/-! ### Bytes of memory -/

/-- The byte at a location; a byte nothing has written reads 0 (R251; log 3). -/
def cellGet (m : List Host.Cell) (a : Nat) : Byte :=
  match m with
  | [] => 0
  | (x, y) :: t => if x = a then y else cellGet t a

/-- Write one byte, keeping the list canonical: rising locations and no zero byte. -/
def cellPut (m : List Host.Cell) (a : Nat) (b : Byte) : List Host.Cell :=
  match m with
  | [] => if b = 0 then [] else [(a, b)]
  | (x, y) :: t =>
    if a < x then (if b = 0 then (x, y) :: t else (a, b) :: (x, y) :: t)
    else if a = x then (if b = 0 then t else (a, b) :: t)
    else (x, y) :: cellPut t a b

/-- The canonical form above a location: locations rise strictly and no byte is zero. -/
def wfFrom (lo : Nat) (m : List Host.Cell) : Bool :=
  match m with
  | [] => true
  | (x, y) :: t => lo ≤ x && y != 0 && wfFrom (x + 1) t

/-- The canonical form of a memory. -/
def Memory.wf (m : List Host.Cell) : Bool := wfFrom 0 m

/-- `n` bytes from location `a` as a little-endian number (R12). -/
def cellsNat (m : List Host.Cell) (a : Nat) : Nat → Nat
  | 0 => 0
  | n + 1 => (cellGet m a).toNat + 256 * cellsNat m (a + 1) n

/-- Write `n` bytes of a number, little-endian (R12). -/
def cellsPut (m : List Host.Cell) (a : Nat) (n : Nat) (v : Nat) : List Host.Cell :=
  match n with
  | 0 => m
  | n + 1 => cellsPut (cellPut m a (BitVec.ofNat 8 v)) (a + 1) n (v / 256)

/-- The byte of a location (all of memory goes through here). -/
def State.byte (s : State) (loc : Nat) : Byte := cellGet s.mem.cells loc
def State.setCells (s : State) (c : List Host.Cell) : State := { s with mem := { s.mem with cells := c } }

/-- The least number of a list. -/
def leastOf (l : List Nat) : Option Nat :=
  l.foldl (fun b q => match b with
    | none => some q
    | some x => some (min x q)) none

/-- Insert a number into a rising list. -/
def insertNat (l : List Nat) (x : Nat) : List Nat :=
  match l with
  | [] => [x]
  | y :: t => if x < y then x :: y :: t else if x = y then y :: t else y :: insertNat t x

/-- Whether a location's sector is marked uncorrectable (R315). -/
def State.poisoned (s : State) (loc : Nat) : Bool := s.mem.poison.contains (loc / 32)
def State.markSector (s : State) (sec : Nat) : State :=
  { s with mem := { s.mem with poison := insertNat s.mem.poison sec } }
def State.unmarkSector (s : State) (sec : Nat) : State :=
  { s with mem := { s.mem with poison := s.mem.poison.filter (· != sec) } }

/-! ### Channel control lines (R219, R221) -/

/-- Whether a location lies in a channel's control line with its live bit set: a program store there is discarded. -/
def State.liveLine (s : State) (loc : Nat) : Bool :=
  if loc < Config.padBase then false
  else
    let off := (loc - Config.padBase) % Config.padSize
    (s.soleAt ((loc - Config.padBase) / Config.padSize)).live.contains (off / 64 * 64)

/-! ### The result digest's entries (R323, R324) -/

/-- The low `n` bytes of a number, lowest first. -/
def bytesOf (v : Nat) : Nat → List Byte
  | 0 => []
  | n + 1 => BitVec.ofNat 8 v :: bytesOf (v / 256) n

/-- One 48-byte entry (R324): bytes not written are 0. -/
def digestEntry (va : Nat) (en : BitVec 32) (marked : Bool) (data : BitVec 256) : List Byte :=
  bytesOf va 8 ++ bytesOf en.toNat 4 ++ bytesOf (if marked then 1 else 0) 4 ++
    (List.range 32).map (fun k => if en.getLsbD k then data.extractLsb' (8 * k) 8 else 0)

/-- Append entries to an open stream of a launch. -/
def State.hashInto (s : State) (launch serial : Nat) (bs : List Byte) : State :=
  match SMap.find s.launches launch with
  | none => s
  | some l =>
    let old := (SMap.find l.streams serial).getD []
    { s with launches := SMap.put s.launches launch { l with streams := SMap.put l.streams serial (old ++ bs) } }

/-- Append entries to the current record's stream (R323). -/
def State.hashMine (s : State) (bs : List Byte) : State :=
  match s.me.work with
  | some r => s.hashInto r.launch r.serial bs
  | none => s

/-! ### Stores -/

/-- A mask of byte enables as a mask of bits. -/
def enBits (en : BitVec 32) : BitVec 256 :=
  (List.range 32).foldl (fun acc k => if en.getLsbD k then acc ||| ((255 : BitVec 256) <<< (8 * k)) else acc) 0

/-- Put one byte into a sector map: virtual address and location of the byte (R109). -/
def bufByte (b : SMap BufSector) (va loc : Nat) (v : Byte) : SMap BufSector :=
  let k := loc % 32
  let old := (SMap.find b (loc / 32)).getD ⟨va / 32 * 32, 0, 0⟩
  SMap.put b (loc / 32)
    ⟨old.va, old.en ||| ((1 : BitVec 32) <<< k),
     (old.data &&& ~~~((255 : BitVec 256) <<< (8 * k))) ||| ((v.setWidth 256) <<< (8 * k))⟩

/-- Put `n` bytes of a number into a sector map. -/
def bufNat (b : SMap BufSector) (va loc : Nat) (n v : Nat) : SMap BufSector :=
  match n with
  | 0 => b
  | n + 1 => bufNat (bufByte b va loc (BitVec.ofNat 8 v)) (va + 1) (loc + 1) n (v / 256)

/-- The byte of a sector map at a location, when one is there. -/
def bufGet (b : SMap BufSector) (loc : Nat) : Option Byte :=
  match SMap.find b (loc / 32) with
  | none => none
  | some e => if e.en.getLsbD (loc % 32) then some (e.data.extractLsb' (8 * (loc % 32)) 8) else none

/-- Merge newer sectors over older ones. -/
def bufMerge (old new : SMap BufSector) : SMap BufSector :=
  new.foldl (fun acc (k, e) =>
    match SMap.find acc k with
    | none => SMap.put acc k e
    | some o => SMap.put acc k ⟨o.va, o.en ||| e.en, (o.data &&& ~~~(enBits e.en)) ||| (e.data &&& enBits e.en)⟩) old

/-- Write the enabled bytes of one sector, from byte k on. -/
def sectorCells (m : List Host.Cell) (base : Nat) (en : BitVec 32) (data : BitVec 256) (k : Nat) : Nat → List Host.Cell
  | 0 => m
  | n + 1 =>
    let m' := if en.getLsbD k then cellPut m (base + k) (data.extractLsb' (8 * k) 8) else m
    sectorCells m' base en data (k + 1) n

/-- A number that names no sequencer: stores of the service, combining units and other parties. -/
def otherParty : Nat := 65535
/-- The engine commands of sequencer q as a party (R253): a number that names no sequencer. -/
def engineParty (q : Nat) : Nat := 65536 + q
/-- The sequencer that a party is or works for (R253, R254). -/
def partyOf (p : Nat) : Nat := if p < 65536 then p else p - 65536
/-- A party that writes, with the image of its context: for a deterministic launch, the logical core whose record it is (R254). -/
def State.writerOf (s : State) (p : Nat) : Nat × Nat := (p, (s.ctxOf (partyOf p)).image)

/-- The runs of `n` bytes from a and of `m` bytes from b have one in common. -/
def overlap (a n b m : Nat) : Bool := a < b + m && b < a + n
/-- A run of bytes has one among the enabled bytes of a sector. -/
def enabledIn (sec : Nat) (en : BitVec 32) (loc size : Nat) : Bool :=
  (List.range size).any (fun k => (loc + k) / 32 == sec && en.getLsbD ((loc + k) % 32))

/-- A set of bytes, by the runs that meet it. -/
abbrev Hit := Nat → Nat → Bool

/-- A sequencer without the loads of some bytes that it has performed ahead of their place, or may still perform: its own access to
the bytes comes between (R257, R258; log 2). -/
def Seq.forget (m : Seq) (hit : Hit) : Seq :=
  { m with
    early := m.early.filter (fun e => !hit e.loc e.size)
    late := m.late.filter (fun e => !hit e.loc e.size) }

/-- A party has written some bytes: loads performed ahead from there are older than the write (R254, R257). -/
def Seq.olderThan (m : Seq) (w : Nat × Nat) (hit : Hit) : Seq :=
  { m with early := m.early.map (fun e =>
      if hit e.loc e.size && !e.writers.contains w then { e with writers := w :: e.writers } else e) }

/-- What a write of some bytes of a granule does to the sequencers as it becomes visible: the writing one loses what it has loaded
ahead from there (R257); the others' reservations on the granule are lost (R86). -/
def loseReservations (m : SMap Seq) (w : Nat × Nat) (granule : Nat) (hit : Hit) : SMap Seq :=
  m.map (fun (q, x) =>
    if q = w.1 then (q, x.forget hit)
    else
      let x := x.olderThan w hit
      if x.resv = some granule then (q, { x with resv := none }) else (q, x))

/-- Make one sector write visible, by sequencer `by_` (a number that names no sequencer for any other party):
discarded in a live control line (R219), else the enabled bytes are written, a full write clears the sector's mark
(R315), and other parties' reservations on the granule are lost (R86). A sector that has been written keeps its mark until a full
write clears it (R315), wherever the mark came from. -/
def State.writeSector (s : State) (by_ sec : Nat) (en : BitVec 32) (data : BitVec 256) : State :=
  if s.liveLine (sec * 32) then s
  else
    { s with
      mem := { s.mem with
        cells := sectorCells s.mem.cells (sec * 32) en data 0 32,
        poison := if en = BitVec.allOnes 32 then s.mem.poison.filter (· != sec) else s.mem.poison,
        returned := s.mem.returned.filter (· != sec) },
      seqs := loseReservations s.seqs (s.writerOf by_) (sec / 2) (enabledIn sec en) }

/-- Insert a sector write into a list that rises by virtual address. -/
def byVa (l : List (Nat × BufSector)) (x : Nat × BufSector) : List (Nat × BufSector) :=
  match l with
  | [] => [x]
  | y :: t => if x.2.va ≤ y.2.va then x :: y :: t else y :: byVa t x

/-- Make a set of sectors visible as stores of the current sequencer, with their digest entries in ascending virtual
address (R110, R323); an entry carries the mark its sector keeps (R324). -/
def State.commitSectors (s : State) (b : SMap BufSector) : State :=
  (b.foldl byVa []).foldl (fun s (sec, e) =>
    if s.liveLine (sec * 32) then s
    else
      let s := s.writeSector s.cur sec e.en e.data
      s.hashMine (digestEntry e.va e.en (s.mem.poison.contains sec) e.data)) s

/-! ### Writes that other parties do not see yet (R258; log 2) -/

/-- Piece p of sequencer q's writes becomes visible; `rest` are those left. The last piece of a sector that its commit writes whole
clears the mark (R315). -/
def State.landPiece (s : State) (q : Nat) (p : Unseen) (rest : List Unseen) : State :=
  let s := s.writeSector q p.sec p.en p.data
  let s := if p.all = BitVec.allOnes 32 && !rest.any (fun x => x.time == p.time && x.sec == p.sec) then s.unmarkSector p.sec else s
  s.setSeq q { s.seqAt q with unseen := rest }

/-- Pieces become visible in turn, before those that stay. -/
def State.landAll (s : State) (q : Nat) (stay : List Unseen) : List Unseen → State
  | [] => s
  | p :: t => (s.landPiece q p (t ++ stay)).landAll q stay t

/-- All that sequencer q has written is visible. -/
def State.drainSeq (s : State) (q : Nat) : State := s.landAll q [] (s.seqAt q).unseen

/-- A write must follow another: an older one to the same bytes, or one that comes before it in an ordered store (R257, R258). -/
def Unseen.follows (p x : Unseen) (older : Bool) : Bool :=
  (older && x.sec == p.sec && x.en &&& p.en != 0) ||
    (p.ordered && x.time == p.time && x.store == p.store && x.rank < p.rank)

/-- The writes not seen yet that some set of them calls for, with what must come before those, and the others. -/
def splitUnseen (hit : Unseen → Bool) : List Unseen → List Unseen × List Unseen
  | [] => ([], [])
  | p :: t =>
    let (a, b) := splitUnseen hit t
    if hit p || a.any (fun x => x.follows p true) then (p :: a, b) else (a, p :: b)

/-- Some of what sequencer q has written is visible, with what must come before it. -/
def State.landHit (s : State) (q : Nat) (hit : Unseen → Bool) : State :=
  let (a, b) := splitUnseen hit (s.seqAt q).unseen
  s.landAll q b a

/-- The n-th of the writes not seen yet of sequencer q is seen, where none must come before it. -/
def State.landNth (s : State) (q n : Nat) : State :=
  let l := (s.seqAt q).unseen
  match l[n]? with
  | none => s
  | some p =>
    if (l.take n).any (fun x => p.follows x true) || (l.drop (n + 1)).any (fun x => p.follows x false) then s
    else s.landPiece q p (l.eraseIdx n)

/-- A store's accesses where they are its sectors, in ascending address. -/
def sectorParts (b : SMap BufSector) : List (Nat × BitVec 32) := (b.foldl byVa []).map (fun x => (x.1, x.2.en))

/-- Perform a store's sectors: into the buffer of an open strip (R18), which notes the store's accesses (R255), else at once. A store
to a live control line is discarded (R219) and keeps no sector of the buffer, though its own word counts the sector when it looks for
room (R109). DESIGN CHOICE, log 64. -/
def State.storeAs (s : State) (shape : StoreShape) (b : SMap BufSector) : State :=
  match s.me.strip with
  | some st =>
    s.setMe { b.foldl (fun m x => m.forget (enabledIn x.1 x.2.en)) s.me with
      shapes := s.me.shapes ++ [shape]
      strip := some { st with buf := bufMerge st.buf (b.filter (fun x => !s.liveLine (x.1 * 32))) } }
  | none => s.commitSectors b

/-- A store of one access, or of sectors that nothing orders. -/
def State.store (s : State) (b : SMap BufSector) : State := s.storeAs ⟨false, sectorParts b⟩ b

/-- A contiguous store: the write of each sector comes before that of each higher one (R256, R258). -/
def State.storeRow (s : State) (b : SMap BufSector) : State := s.storeAs ⟨true, sectorParts b⟩ b

/-! ### The error log (R361), the welt map (R331), and a checking position that is let go (R320) -/

/-- Append an entry; a full log loses its oldest entry and counts it. `part` is 0xFF for none. -/
def State.logErr (s : State) (kind part cls num : Nat) (cont : Bool) (d1 d2 : Nat) : State :=
  let e : LogEntry := ⟨Config.timeNs s.clock, kind, part, cls, num, cont, BitVec.ofNat 64 d1, BitVec.ofNat 64 d2⟩
  let d := s.dev
  if d.log.length < Config.errorLog then { s with dev := { d with log := d.log ++ [e] } }
  else { s with dev := { d with log := d.log.tail ++ [e], lost := d.lost + 1 } }

/-- An upper's plain binding: its own sole, half 0 in position A and half 1 in position B (R328, R330, R331). -/
def plainWelt (u : Nat) : Word :=
  let sole := 17 * (u % 128 / 16) + u % 16
  BitVec.ofNat 64 (u * 4294967296 + 16777216 + sole * 65536 + sole)

/-- The welt map's entry of an upper. -/
def State.weltAt (s : State) (u : Nat) : Word := (SMap.find s.dev.welt u).getD (plainWelt u)

/-- The sole that holds lane or column n of upper u's own pair: 136 x stack + index (R330, R331, R361). -/
def State.soleNumber (s : State) (u n : Nat) : Nat :=
  136 * (u / 128) + (if n % 64 < 32 then (s.weltAt u).toNat % 256 else (s.weltAt u).toNat / 65536 % 256)

/-- The partition number of an error-log entry about an upper; 0xFF for none. -/
def State.logPart (s : State) (u : Nat) : Nat := ((s.coreAt u).map (·.1)).getD 255

/-- The state field of an entry (R331). -/
def weltState (e : Word) : Nat := e.toNat / 2 ^ 62
/-- The leader field of an entry. -/
def weltLeader (e : Word) : Nat := e.toNat / 2 ^ 32 % 1024
/-- The position that an entry's pair takes in its core. -/
def weltPosition (e : Word) : Nat := e.toNat / 2 ^ 44 % 4

/-- The upper whose entry binds sole j of the core that upper u leads (R331, R334). -/
def State.soleUpper (s : State) (u j : Nat) : Nat :=
  if j = 0 then u
  else
    ((List.range Config.uppers).find? (fun v =>
      weltState (s.weltAt v) == 1 && weltLeader (s.weltAt v) == u && weltPosition (s.weltAt v) == j)).getD u

/-- The replay of a mismatch has matched: the event is logged as kind 2 (R320, R361), unless it has been logged as a failure
already (R321). A column counts across the gang (R153). -/
def State.logReplay (s : State) (v : Nat) (pin : Pin) (n : Nat) (column : Bool) : State :=
  let u := upperOf pin.seq
  if pin.marked then s
  else
    s.logErr 2 (s.logPart u) 2 (s.soleNumber v n) false pin.pc
      ((if column then 65536 + 64 * weltPosition (s.weltAt v) + n else n) + u * 4294967296)

/-- A pin of sequencer q that the completion of the strip or word at `home` ends (R320). -/
def Pin.ends (p : Pin) (q home : Nat) : Bool := p.seq == q && p.home == home

/-- The positions without the pins that the completion at `home` ends. -/
def Checks.letGo (x : Checks) (q home : Nat) : Checks :=
  { x with
    lanePin := x.lanePin.filter (fun p => !p.ends q home)
    colPin := x.colPin.filter (fun p => !p.ends q home) }

/-- The pins that the completion at `home` ends: upper, pin, position, and whether it is the column's. -/
def endedPins (m : SMap Checks) (q home : Nat) : List (Nat × Pin × Nat × Bool) :=
  m.flatMap (fun (v, x) =>
    ((x.lanePin.filter (fun p => p.ends q home)).toList.map (fun p => (v, p, x.lane, false))) ++
      ((x.colPin.filter (fun p => p.ends q home)).toList.map (fun p => (v, p, x.col, true))))

/-- The restarted strip whose `strip` word stands at `home` has closed, or the re-issued word at `home` has completed: the
positions that the current sequencer keeps pinned for it are let go (R320). -/
def State.unpin (s : State) (home : Nat) : State :=
  (endedPins s.checks s.cur home).foldl (fun s (v, p, n, column) => s.logReplay v p n column)
    { s with checks := s.checks.map (fun x => (x.1, x.2.letGo s.cur home)) }

/-- Positions that sequencer q no longer pins. -/
def Checks.dropped (x : Checks) (q : Nat) : Checks :=
  { x with
    lanePin := x.lanePin.filter (fun p => p.seq != q)
    colPin := x.colPin.filter (fun p => p.seq != q) }

/-- Sequencer q gives its record up: what it kept pinned is let go without a replay. -/
def State.dropPins (s : State) (q : Nat) : State := { s with checks := s.checks.map (fun x => (x.1, x.2.dropped q)) }

/-- CommitStrip (R110): the buffered stores become visible, the journal is discarded, INSTRIP becomes 0. -/
def State.commitStrip (s : State) : State :=
  match s.me.strip with
  | none => s
  | some st =>
    let s := (s.commitSectors st.buf).unpin st.pc.toNat
    s.setMe { s.me with strip := none, shapes := [], ctl := { s.me.ctl with status := withInstrip s.me.ctl.status false } }

/-- Whether sector `sec` would take the store buffer of the open strip above its size (R109). -/
def State.bufferFull (s : State) (extra : SMap BufSector) (sec : Nat) : Bool :=
  match s.me.strip with
  | none => false
  | some st =>
    (SMap.find st.buf sec).isNone && (SMap.find extra sec).isNone &&
      Config.bufferSectors ≤ st.buf.length + (extra.filter (fun x => (SMap.find st.buf x.1).isNone)).length

/-! ### Loads -/

/-- The write to a byte that the others do not see yet, the newest (R258; log 2). -/
def Seq.unseenAt (m : Seq) (loc : Nat) : Option Byte :=
  (m.unseen.reverse.find? (fun p => p.sec == loc / 32 && p.en.getLsbD (loc % 32))).map
    (fun p => p.data.extractLsb' (8 * (loc % 32)) 8)

/-- The sequencer's own store of a byte that is not in memory: in the buffer of its open strip, or committed and not seen yet (R16). -/
def Seq.ownByte (m : Seq) (loc : Nat) : Option Byte :=
  match m.strip with
  | none => m.unseenAt loc
  | some st => (bufGet st.buf loc).or (m.unseenAt loc)

/-- A byte as the current sequencer sees it: its own store first (R16). -/
def State.viewByte (s : State) (loc : Nat) : Byte := (s.me.ownByte loc).getD (s.byte loc)

/-- Whether a byte read consumes poisoned data (R316): its sector is marked and the byte does not come from a store of the
sequencer's own. -/
def State.viewMarked (s : State) (loc : Nat) : Bool := s.poisoned loc && (s.me.ownByte loc).isNone

/-- `n` bytes as the current sequencer sees them, little-endian. -/
def State.viewNat (s : State) (loc : Nat) : Nat → Nat
  | 0 => 0
  | n + 1 => (s.viewByte loc).toNat + 256 * s.viewNat (loc + 1) n

/-- Whether any of `n` bytes is marked. -/
def State.viewBad (s : State) (loc : Nat) : Nat → Bool
  | 0 => false
  | n + 1 => s.viewMarked loc || s.viewBad (loc + 1) n

/-- The early load that an access of `size` bytes at `loc` takes for element `elem` (R258, R260; log 2). -/
def Seq.earlyAt (m : Seq) (loc size elem : Nat) : Option Early :=
  m.early.find? (fun e => e.loc == loc && e.size == size && e.elem == elem)

/-- `n` bytes that a load takes for element `elem`: as an early load left them, else as they stand now. -/
def State.loadNat (s : State) (loc n elem : Nat) : Nat :=
  match s.me.earlyAt loc n elem with
  | some e => e.data % 256 ^ n
  | none => s.viewNat loc n

/-- Whether those bytes are marked. -/
def State.loadBad (s : State) (loc n elem : Nat) : Bool :=
  match s.me.earlyAt loc n elem with
  | some e => e.bad
  | none => s.viewBad loc n

/-- The same for an access that is single-copy atomic by sector (R256): the early load of its whole sector serves it. -/
def State.sectorNat (s : State) (loc n : Nat) : Nat :=
  match s.me.earlyAt (loc / 32 * 32) 32 0 with
  | some e => e.data / 256 ^ (loc % 32) % 256 ^ n
  | none => s.viewNat loc n

/-- Whether those bytes are marked. -/
def State.sectorBad (s : State) (loc n : Nat) : Bool :=
  match s.me.earlyAt (loc / 32 * 32) 32 0 with
  | some e => e.bad
  | none => s.viewBad loc n

/-- An access of a word: its bytes, and the load performed ahead that it takes, if one. -/
structure Access where
  loc  : Nat
  size : Nat
  took : Option Early
  deriving DecidableEq, Repr

/-- After an access, a load performed ahead of the bytes is void, but for one performed after that which the access took (R258). -/
def Access.voids (x : Access) (l : List Early) : List Early :=
  match x.took with
  | none => l.filter (fun e => !overlap e.loc e.size x.loc x.size)
  | some t => l.takeWhile (· != t) ++ (l.dropWhile (· != t)).filter (fun e => !overlap e.loc e.size x.loc x.size)

/-- The current sequencer's word has made some accesses, whose order among themselves is open (R255): what was performed ahead before
one of them and not taken is void (R258). -/
def State.loaded (s : State) (l : List Access) : State :=
  if s.me.early.isEmpty then s
  else s.setMe { s.me with early := s.me.early.filter (fun e => l.all (fun x => (x.voids s.me.early).contains e)) }

/-- A scalar access for element 0, which takes a load performed ahead where one stands. -/
def State.accessAt (s : State) (loc size : Nat) : Access := ⟨loc, size, s.me.earlyAt loc size 0⟩
/-- An access made in its place. -/
def inPlace (loc size : Nat) : Access := ⟨loc, size, none⟩
/-- The access of a byte under an atomic access by sector (R256). -/
def State.sectorAccess (s : State) (loc size : Nat) : Access := ⟨loc, size, s.me.earlyAt (loc / 32 * 32) 32 0⟩

/-! ### Acquiring (R254, R258, R259) -/

/-- Party p with image i lies in the scope of number `sc` as sequencer q issues it (R54, R254). -/
def State.inScope (s : State) (q sc : Nat) (w : Nat × Nat) : Bool :=
  let x := partyOf w.1
  x == q ||
    (match sc with
     | 0 => false
     | 1 => w.1 != otherParty && (if (s.ctxOf q).det.isSome then w.2 == (s.ctxOf q).image else upperOf x == upperOf q)
     | 2 => w.1 != otherParty && upperOf x / 128 == upperOf q / 128
     | _ => true)

/-- A load performed ahead is as good as one performed now: its bytes stand as it took them. -/
def State.stands (s : State) (e : Early) : Bool := s.viewNat e.loc e.size == e.data && s.viewBad e.loc e.size == e.bad

/-- What an acquire in scope `sc` leaves of a load performed ahead: one that is as good as a new one is a new one, and one whose bytes
no party of the scope has written since stays (R254, R260). -/
def State.outlives (s : State) (sc : Nat) (e : Early) : Option Early :=
  if s.stands e then some { e with writers := [] }
  else if !e.writers.isEmpty && e.writers.all (fun w => !s.inScope s.cur sc w) then some e
  else none

/-- The current sequencer acquires in scope `sc`. -/
def State.acquire (s : State) (sc : Nat) : State :=
  if s.me.early.isEmpty then s else s.setMe { s.me with early := s.me.early.filterMap (s.outlives sc) }

/-- Every acquire but a fence's is at `.sys` (R254). -/
def sysScope : Nat := 4

/-! ### Causes (R283) and traps -/

namespace Cause
def illegalInstruction : Nat := 0x0001
def privileged : Nat := 0x0002
def illegalInStrip : Nat := 0x0003
def delaySlot : Nat := 0x0004
def loopEnd : Nat := 0x0005
def waitShort : Nat := 0x0006
def illegalType : Nat := 0x0007
def registerGroup : Nat := 0x0008
def loopOverflow : Nat := 0x0009
def loopUnderflow : Nat := 0x000A
def badTarget : Nat := 0x000B
def softwareTrap : Nat := 0x000C
def noOpenStrip : Nat := 0x000D
def addressRange : Nat := 0x0100
def misaligned : Nat := 0x0101
def unbackedWindow : Nat := 0x0102
def pageNotPresent : Nat := 0x0103
def permission : Nat := 0x0104
def tablePoisoned : Nat := 0x0105
def badEntry : Nat := 0x0106
def uncorrectable : Nat := 0x0107
def stripOverflow : Nat := 0x0200
def journalOverflow : Nat := 0x0201
def rowRange : Nat := 0x0202
def trussMode : Nat := 0x0203
def trussFormat : Nat := 0x0204
def noBest : Nat := 0x0205
def checkMismatch : Nat := 0x0206
def malformed : Nat := 0x0300
def illegalTable : Nat := 0x0301
def unordered : Nat := 0x0302
def illegalPattern : Nat := 0x0400
def badChannel : Nat := 0x0401
def notCoroutine : Nat := 0x0402
def staleArrival : Nat := 0x0403
def barrierOverrun : Nat := 0x0404
def badBarrier : Nat := 0x0405
def barrierBytes : Nat := 0x0406
def scatterRound : Nat := 0x0407
def scatterTarget : Nat := 0x0408
def badCommand : Nat := 0x0409
def doubleFault : Nat := 0x0F00
def halted : Nat := 0x0F01
/-- No cause of R283: the access waits for a core that is saved (R301); no trap is ever taken with it. -/
def held : Nat := 0x10000
end Cause

/-- A trap to be taken: cause, TRAPELEM, TRAPADDR, and the table page whose uncorrectable entry the walk met (R312). -/
structure Trap where
  cause : Nat
  elem  : Nat := 0
  addr  : Nat := 0
  page  : Option Nat := none
  deriving DecidableEq, Repr

/-- A trap with no element and no address (R283). -/
def Trap.plain (cause : Nat) : Trap := ⟨cause, 0, 0, none⟩

/-- A cause found while resolving an address, with the table page it poisons. -/
structure Miss where
  cause : Nat
  page  : Option Nat := none
  deriving DecidableEq, Repr

/-- The trap of a miss at element `elem` and byte address `va` (R122, R83): TRAPADDR is the bit address. -/
def Miss.trap (m : Miss) (elem va : Nat) : Trap := ⟨m.cause, elem, 8 * va, m.page⟩

/-! ### Address translation (R306 to R309) -/

/-- The kinds of access of R309; `hw` is the hardware's own, never checked for permission. -/
inductive Acc where
  | fetch | load | store | both | hw
  deriving DecidableEq, Repr

/-- The permission bits V L R W X U of an entry, as a number from bit 0 (R308). -/
def permOk (e : Nat) (priv : Bool) (acc : Acc) : Bool :=
  let r := e / 4 % 2 == 1
  let w := e / 8 % 2 == 1
  let x := e / 16 % 2 == 1
  let u := e / 32 % 2 == 1
  match acc with
  | .hw => true
  | .fetch => (u || priv) && x
  | .load => (u || priv) && r
  | .store => (u || priv) && w
  | .both => (u || priv) && r && w

/-- Index of a level in a virtual address (R307). -/
def levelIndex (va lv : Nat) : Nat :=
  match lv with
  | 3 => va / 549755813888 % 262144
  | 2 => va / 1073741824 % 512
  | 1 => va / 2097152 % 512
  | _ => va / 65536 % 32

/-- Size of the page a leaf maps at a level (R307). -/
def levelPage (lv : Nat) : Nat :=
  match lv with
  | 2 => 1073741824
  | 1 => 2097152
  | _ => 65536

/-- Size to which the table below a level is aligned (R307). -/
def nextAlign (lv : Nat) : Nat := if lv = 1 then 256 else 4096

/-- A physical page that an entry may name (R249). -/
def physAllowed (pa : Nat) : Bool := pa < Config.tierOneEnd || (Config.tierTwo ≤ pa && pa < Config.service)

/-- Whether a valid entry keeps R308 at a level, for partition `part`. -/
def entryOk (keys : SMap KeySlot) (part lv e : Nat) : Bool :=
  let addr := e % 2199023255552
  if e / 2 % 2 = 1 then
    lv != 3 && e / 256 % 256 == 0 && e / 64 % 4 == 0 && e / 2199023255552 % 16384 == 0 &&
      (addr / 65536 * 65536) % levelPage lv == 0 && physAllowed (addr / 65536 * 65536) &&
      (match SMap.find keys (e / 36028797018963968 % 512) with
       | some k => k.part == part
       | none => false)
  else
    lv != 0 && e / 4 % 16 == 0 && e / 64 % 4 == 0 && e / 2199023255552 == 0 &&
      (addr / 256 * 256) % nextAlign lv == 0

/-- A finished walk (R307): physical address of the byte, entry, level, and the table pages it read. -/
structure Walked where
  pa    : Nat
  entry : Nat
  lv    : Nat
  pages : List Nat
  deriving DecidableEq, Repr

/-- Walk(va) (R307), without the permission check of R309. -/
def walkFrom (s : State) (part va table : Nat) (pages : List Nat) : List Nat → Except Miss Walked
  | [] => .error ⟨Cause.badEntry, none⟩
  | lv :: rest =>
    let a := table + 8 * levelIndex va lv
    let page := a / 4096
    if s.mem.negative.contains page then .error ⟨Cause.tablePoisoned, none⟩
    else if s.mem.poison.contains (a / 32) then .error ⟨Cause.tablePoisoned, some page⟩
    else
      let e := cellsNat s.mem.cells a 8
      if e % 2 = 0 then .error ⟨Cause.pageNotPresent, none⟩
      else if !entryOk s.dev.keys part lv e then .error ⟨Cause.badEntry, none⟩
      else if e / 2 % 2 = 1 then
        .ok ⟨e % 2199023255552 / 65536 * 65536 + va % levelPage lv, e, lv, page :: pages⟩
      else walkFrom s part va (e % 2199023255552 / 256 * 256) (page :: pages) rest

/-- A cached translation of a virtual page, when the model holds one (R311, R312; log 12). -/
def State.cached (s : State) (part va : Nat) : Option (Nat × Nat) :=
  match s.mem.tlb.find? (fun e => e.1 == part && e.2.1 == va / 65536) with
  | some (_, _, pp, perm, _) => some (pp * 65536 + va % 65536, perm)
  | none => none

/-- Translate a general-memory address for partition `part` (R307, R309). -/
def State.translate (s : State) (part : Nat) (priv : Bool) (acc : Acc) (va : Nat) : Except Miss Nat :=
  match s.cached part va with
  | some (pa, perm) => if permOk perm priv acc then .ok pa else .error ⟨Cause.permission, none⟩
  | none =>
    match SMap.find s.parts part with
    | none => .error ⟨Cause.pageNotPresent, none⟩
    | some p =>
      match walkFrom s part va p.root [] [3, 2, 1, 0] with
      | .error e => .error e
      | .ok w => if permOk w.entry priv acc then .ok w.pa else .error ⟨Cause.permission, none⟩

/-- Location of offset `off` of an image's scratchpad. -/
def padLoc (image off : Nat) : Nat := Config.padBase + image * Config.padSize + off

/-- The location that a virtual address names for a party (R240 to R242, R307). -/
def State.resolve (s : State) (c : Ctx) (acc : Acc) (va : Nat) : Except Miss Nat :=
  if 2 ^ 57 ≤ va then .error ⟨Cause.addressRange, none⟩
  else if Config.localWindow ≤ va then
    let off := va - Config.localWindow
    if off < 1048576 * c.gang then .ok (padLoc c.image off) else .error ⟨Cause.unbackedWindow, none⟩
  else if Config.reservedWindow ≤ va then .error ⟨Cause.unbackedWindow, none⟩
  else if Config.globalWindow ≤ va then
    let slot := (va - Config.globalWindow) / 4194304
    let off := (va - Config.globalWindow) % 4194304
    match c.det with
    | some (l, grid) =>
      if slot < grid ∧ off < 1048576 then .ok (padLoc (logicalImage l slot) off)
      else .error ⟨Cause.unbackedWindow, none⟩
    | none =>
      match SMap.find s.parts c.part with
      | none => .error ⟨Cause.unbackedWindow, none⟩
      | some p =>
        match p.cores.find? (fun k => k.slot == slot) with
        | none => .error ⟨Cause.unbackedWindow, none⟩
        | some k => if off < 1048576 * k.width then .ok (padLoc k.leader off) else .error ⟨Cause.unbackedWindow, none⟩
  else s.translate c.part c.priv acc va

/-- A core context has been saved and not yet restored (R301), the tables of a tenant that is switched out apart. -/
def Saved.core (x : Saved) : Bool := !x.seqs.isEmpty

/-- Global slot `slot` belongs to a core whose context is saved: accesses to it are held (R301). A logical core that is switched
out serves accesses from its image (R242). -/
def State.slotHeld (s : State) (c : Ctx) (slot : Nat) : Bool :=
  match c.det with
  | some (l, _) => s.saves.any (fun x => x.2.core && x.2.tenant == .logical l slot)
  | none =>
    match SMap.find s.parts c.part with
    | none => false
    | some p =>
      p.cores.any (fun k => k.slot == slot && s.saves.any (fun x => x.2.core && x.2.tenant == .ordinary && x.2.upper == k.leader))

/-- An access to an address waits for a saved core (R301). -/
def State.heldAt (s : State) (c : Ctx) (va : Nat) : Bool :=
  !s.saves.isEmpty && Config.globalWindow ≤ va && va < Config.reservedWindow &&
    s.slotHeld c ((va - Config.globalWindow) / 4194304)

/-- The checks of R122 steps 1 to 3 on one access: range, alignment, translation and permission; an access that is held waits
(R301). -/
def State.checkAccess (s : State) (c : Ctx) (acc : Acc) (va align : Nat) : Except Miss Nat :=
  if 2 ^ 57 ≤ va then .error ⟨Cause.addressRange, none⟩
  else if va % align ≠ 0 then .error ⟨Cause.misaligned, none⟩
  else if s.heldAt c va then .error ⟨Cause.held, none⟩
  else s.resolve c acc va

/-- The accesses of `n` bytes from an address, each as `f` makes it at its location. -/
def State.accessesFrom (s : State) (f : Nat → Access) (va n : Nat) : List Access :=
  (List.range n).filterMap (fun k =>
    match s.resolve s.ctx .load (va + k) with
    | .ok loc => some (f loc)
    | .error _ => none)

/-- The current sequencer has loaded `n` bytes from an address, each as `f` makes the access. -/
def State.loadedFrom (s : State) (f : Nat → Access) (va n : Nat) : State :=
  if s.me.early.isEmpty then s else s.loaded (s.accessesFrom f va n)

/-- Whether an address lies in a scratchpad window (R240). -/
def inWindow (va : Nat) : Bool := Config.globalWindow ≤ va && va < 2 ^ 57

/-! ### Taking a trap and returning from one -/

/-- A strip's buffer holds one of the bytes of a run. -/
def Strip.holds (st : Strip) (loc size : Nat) : Bool := st.buf.any (fun x => enabledIn x.1 x.2.en loc size)

/-- Restore what a strip's checkpoint and journal hold (R19, R293). Token values that arrived meanwhile stand in the
checkpoint already (R268). What was loaded ahead from the discarded stores goes with them (R16, R257). -/
def State.abandonStrip (s : State) : State :=
  match s.me.strip with
  | none => s
  | some st =>
    let m := s.me
    let sole := st.journal.foldl (fun sl (r, row) => { sl with rows := SMap.put sl.rows r row }) s.sole
    let s := s.setSole s.image sole
    s.setMe { m with
      regs := st.ck.regs, loops := st.ck.loops, grant := st.ck.grant,
      truss := { m.truss with tx := st.ck.tx }, strip := none, shapes := [],
      early := m.early.filter (fun e => !st.holds e.loc e.size), late := [],
      ctl := { m.ctl with status := withInstrip (withSticky m.ctl.status st.ck.flags) false } }

/-- Append a trap record to the current sequencer's ring, with the next sequence number (R285, R286). -/
def State.record (s : State) (r : Nat → TrapRec) : State :=
  let m := s.me
  let n := m.trapSeq + 1
  s.setMe { m with trapSeq := n, ring := (m.ring ++ [r n]).drop (m.ring.length + 1 - Config.trapRing) }

/-- The work identifier of the current record, or 0. -/
def State.widOr0 (s : State) : Word := match s.me.work with | some r => r.wid | none => 0

/-- Place a negative entry for a table page (R312). -/
def State.negate (s : State) (p : Option Nat) : State :=
  match p with
  | none => s
  | some n => { s with mem := { s.mem with negative := insertNat s.mem.negative n } }

/-- What a walk for an access leaves behind: the negative entry of a table page whose entry it found uncorrectable (R312). -/
def State.walked (s : State) (c : Ctx) (acc : Acc) (va : Nat) : State :=
  match s.resolve c acc va with
  | .error e => s.negate e.page
  | .ok _ => s

/-- A double fault (R289): an open strip is discarded (R19, R290), the sequencer halts, both causes are latched, and a record
with bit 29 is written, whose bit 28 says whether a strip was open at the first trap (R285). -/
def State.takeDoubleFault (s : State) (t : Trap) : State :=
  let s := s.abandonStrip
  let m := s.me
  let first : Shadow := ⟨m.ctl.cause.toNat % 65536, m.ctl.trappc, m.ctl.addr, m.ctl.elem⟩
  let pc : Word := m.pc.setWidth 64
  let second : Shadow := ⟨t.cause, pc, BitVec.ofNat 64 t.addr, BitVec.ofNat 64 t.elem⟩
  let s := s.setMe { m with mode := .doubleFault, delay := none, owed := none, replay := false, shadow := some (first, second) }
  s.record (fun n => ⟨Config.timeNs s.clock, n, first.cause, s.cur, m.openAt, some t.cause, first.pc, first.addr,
    first.elem, s.widOr0, pc⟩)

/-- Where a trap resumes: TRAPRESUME and TRAPTARGET by the table of R98. -/
def resumePoint (m : Seq) (cause : Nat) : Word × Word :=
  match m.strip with
  | some st => (st.pc.setWidth 64, 0)
  | none =>
    if cause = Cause.softwareTrap then ((m.pc + 4).setWidth 64, 0)
    else
      match m.delay with
      | some ⟨left, some tgt⟩ => (m.pc.setWidth 64, (tgt.setWidth 64 &&& ~~~3) ||| BitVec.ofNat 64 left)
      | _ => (m.pc.setWidth 64, 0)

/-- Take a trap at the word at PC (R98, R284, R285, R288, R289, R293). A strip-closing word that traps on a location check
has committed its strip by then: the trap finds no strip open (R111), so INSTRIP of TRAPSTATUS and bit 28 of the record are 0
and the resume address is the word itself. DEDUCED, log 62. -/
def State.takeTrap (s : State) (t : Trap) : State :=
  let s := s.negate t.page
  if s.me.window then s.takeDoubleFault t
  else
    let wasOpen := s.me.strip.isSome
    let (res, tgt) := resumePoint s.me t.cause
    let s := s.abandonStrip
    let m := s.me
    let pc : Word := m.pc.setWidth 64
    let n := m.trapSeq + 1
    let s := s.record (fun n => ⟨Config.timeNs s.clock, n, t.cause, s.cur, wasOpen, none, pc, BitVec.ofNat 64 t.addr,
      BitVec.ofNat 64 t.elem, s.widOr0, 0⟩)
    s.setMe { s.me with
      pc := m.ctl.tvec.setWidth 57
      delay := none, owed := none, resv := none, dist := [], avail := [], late := [], window := true, openAt := wasOpen
      replay := false, posted := none
      ctl := { m.ctl with
        tstatus := withInstrip m.ctl.status wasOpen
        status := withPriv m.ctl.status true
        resume := res, target := tgt
        cause := BitVec.ofNat 64 (t.cause + n % 4294967296 * 4294967296)
        trappc := pc, addr := BitVec.ofNat 64 t.addr, elem := BitVec.ofNat 64 t.elem } }

/-- Return from a trap (R99): STATUS, PC and a pending transfer come back. -/
def State.returnFromTrap (s : State) : State :=
  let m := s.me
  let n := m.ctl.target.toNat % 4
  s.setMe { m with
    pc := m.ctl.resume.setWidth 57
    dist := []
    avail := []
    delay := if n = 0 then none else some ⟨n, some ((m.ctl.target &&& ~~~3).setWidth 57)⟩
    owed := none
    ctl := { m.ctl with status := withInstrip m.ctl.tstatus false } }

/-! ### What a word's meaning answers, and what follows its completion -/

/-- How control goes on after a completed word: to the next word, into a transfer with two delay slots (taken or not),
to an address without delay slots, or nowhere (the sequencer no longer runs this word's stream). -/
inductive Flow where
  | seq
  | branch (target : Option VAddr)
  | goto (pc : VAddr)
  | stay
  deriving DecidableEq, Repr

/-- What a meaning answers: completed, a trap taken in a state (the strip may have been committed before it, R111), or
a wait: the word stays at issue. -/
inductive Res where
  | done (f : Flow) (s : State)
  | trap (t : Trap) (s : State)
  | wait (s : State)

/-- Pop the top loop level: its held entry becomes 0 (R92, R95). -/
def Loops.pop (l : Loops) : Loops :=
  if h : l.depth - 1 < 6 then ⟨l.held.set (l.depth - 1) LoopEntry.zero h, l.depth - 1⟩ else ⟨l.held, l.depth - 1⟩

/-- The top loop level. -/
def Loops.top (l : Loops) : LoopEntry := l.held.toList.getD (l.depth - 1) LoopEntry.zero

/-- LoopStep (R92) after the word at `w`: the stack, the next PC, and whether an iteration boundary was passed. -/
def loopStep (fuel : Nat) (l : Loops) (w : VAddr) : Loops × VAddr × Bool :=
  match fuel with
  | 0 => (l, w + 4, false)
  | fuel + 1 =>
    if l.depth = 0 then (l, w + 4, false)
    else
      let t := l.top
      if w = (t.stop - 4).setWidth 57 then
        if t.count - 1 ≠ 0 then
          (if h : l.depth - 1 < 6 then ⟨l.held.set (l.depth - 1) { t with count := t.count - 1 } h, l.depth⟩ else l,
           t.start.setWidth 57, true)
        else loopStep fuel l.pop w
      else (l, w + 4, false)

/-- The nominal distances after a word with wait count w that writes `dsts` with latency `lat` (R57). -/
def stepDist (d : SMap Nat) (w : Nat) (dsts : List Nat) (lat : Option Nat) : SMap Nat :=
  let d := (d.map (fun (r, n) => (r, n - (1 + w)))).filter (fun (_, n) => n != 0)
  let d := dsts.foldl (fun d r => SMap.del d r) d
  match lat with
  | none => d
  | some l => if l ≤ 1 + w then d else dsts.foldl (fun d r => if r = 0 then d else SMap.put d r (l - (1 + w))) d

/-- When the results of a word with latency `lat` that issues at `t` are there (R57). -/
def stepAvail (a : SMap Nat) (t : Nat) (dsts : List Nat) (lat : Option Nat) : SMap Nat :=
  let a := dsts.foldl (fun a r => SMap.del a r) (a.filter (fun (_, n) => t < n))
  match lat with
  | none => a
  | some l => dsts.foldl (fun a r => if r = 0 then a else SMap.put a r (t + l)) a

/-- A word that the checking lanes follow: majors 0x22 to 0x2D (R319). -/
def laneWord (i : Instr) : Bool := 0x22 ≤ instrMajor i && instrMajor i ≤ 0x2D

/-- A `tmac` or `tdist`: the words the checking column follows (R172). -/
def columnWord (i : Instr) : Bool :=
  match i with
  | .tmac _ => true
  | .tdist _ => true
  | _ => false

/-- A sole's checking positions after a performed word: each advances by one modulo 64 unless it is pinned (R172, R319). -/
def Checks.advance (x : Checks) (lane column : Bool) : Checks :=
  { x with
    lane := if lane && x.lanePin.isNone then (x.lane + 1) % 64 else x.lane
    col := if column && x.colPin.isNone then (x.col + 1) % 64 else x.col }

/-- The soles of the current sequencer's core: those of a gang work on the same instructions under DET too (R336). -/
def State.solesOf (s : State) : Nat := ((s.coreAt (upperOf s.cur)).map (·.2.width)).getD 1

/-- The uppers whose entries bind the soles that perform the current sequencer's words (R319; log 17). -/
def State.performers (s : State) : List Nat := (List.range s.solesOf).map (s.soleUpper (upperOf s.cur))

/-- The checking positions of those soles advance (R172, R319). -/
def State.advanceChecks (s : State) (i : Instr) : State :=
  if laneWord i || columnWord i then
    s.performers.foldl (fun s v => s.setPos v ((s.posAt v).advance (laneWord i) (columnWord i))) s
  else s

/-- One slot of a transfer has run. -/
def Delay.next (d : Delay) : Delay := { d with left := d.left - 1 }

/-- The PC, delay slots and loop stack after a completed word (R14, R92, R98). A word that `rft` still owes counts among its
n words whatever it is, and after the n-th of them control goes to the owed target (R99); a transfer among them has its own
two slots, which go on at that target. DEDUCED, log 61. -/
def Seq.advance (m : Seq) (f : Flow) : Seq × Bool :=
  match f with
  | .stay => (m, false)
  | .goto p =>
    match m.delay with
    | some ⟨left, some t⟩ =>
      if left ≤ 1 then ({ m with pc := t, delay := m.owed.map Delay.next, owed := none }, false)
      else ({ m with pc := p, delay := some ⟨left - 1, some t⟩ }, false)
    | _ => ({ m with pc := p }, false)
  | .branch t =>
    match m.delay with
    | some ⟨left, some o⟩ =>
      if left ≤ 1 then ({ m with pc := o, delay := some ⟨2, t⟩, owed := none }, false)
      else ({ m with pc := m.pc + 4, delay := some ⟨left - 1, some o⟩, owed := some ⟨2, t⟩ }, false)
    | _ => ({ m with pc := m.pc + 4, delay := some ⟨2, t⟩ }, false)
  | .seq =>
    match m.delay with
    | some ⟨left, some t⟩ =>
      if left ≤ 1 then ({ m with pc := t, delay := m.owed.map Delay.next, owed := none }, false)
      else ({ m with pc := m.pc + 4, delay := some ⟨left - 1, some t⟩ }, false)
    | d =>
      let (l, p, back) := loopStep 7 m.loops m.pc
      let d' := match d with
        | some ⟨left, none⟩ => if left ≤ 1 then none else some ⟨left - 1, none⟩
        | _ => none
      ({ m with pc := p, loops := l, delay := d' }, back)

/-- The node of a context's record has been cancelled (R217). -/
def State.workCancelled (s : State) (m : Seq) : Bool :=
  match m.work.bind (·.node) with
  | none => false
  | some (n, x) =>
    match SMap.find s.nests n with
    | none => false
    | some t => (t.nodes[x]?).any (·.cancel)

/-- The record of sequencer q has been cancelled. -/
def State.cancelledAt (s : State) (q : Nat) : Bool := s.workCancelled (s.seqAt q)

/-- The current sequencer is to stop at a pre-emption point: a request is pending for its core, or its record has been
cancelled; and no entry window keeps it from stopping (R217, R297, R300). -/
def State.stopPending (s : State) : Bool :=
  ((s.upperAt (upperOf s.cur)).preempt.isSome || s.workCancelled s.me) && !s.me.window

/-- A pre-emption point is reached (R297): the sequencer stops when its core has a request pending. The stop kinds
are those of R303; at a `strip` the vector registers are dead (R298), and a reservation is lost (R86). -/
def State.stopIfAsked (s : State) (kind : Nat) : State :=
  if s.stopPending then
    let m := s.me
    s.setMe { m with
      mode := .stopped kind, resv := none, replay := false, posted := none, late := [], vregs := if kind = 0 then Seq.reset.vregs else m.vregs }
  else s

/-- A word whose destination receives a token, at once or later (R209, R236, R267). -/
def givesToken (i : Instr) : Bool :=
  match i with
  | .capply _ | .scflush _ | .xcopy _ | .xcopyz _ | .xfill _ | .xcoll _ | .xnote _ | .xgrid _ | .xquery _ => true
  | _ => false

/-- What follows a completed word: PC, delay slots and loops; nominal distances, which a word that stops to issue again does not
count yet, and the clocks at which results are there (R57); the earliest next issue (R56); registers that hold no token's value any
more, for the word has written them (R258); the checking positions; what the word kept pinned outside a strip (R320); and a stop at an
iteration boundary outside a strip (R297). -/
def State.retire (i : Instr) (f : Flow) (s : State) : State :=
  let inf := instrInfo i
  let home := s.me.pc.toNat
  let (m, back) := s.me.advance f
  let s := s.setMe { m with
    dist := if f = .stay then m.dist else stepDist m.dist inf.w inf.dsts inf.lat
    avail := if f = .stay then m.avail else stepAvail m.avail s.clock inf.dsts inf.lat
    ready := s.clock + 1 + inf.w
    tokens := if givesToken i then m.tokens else m.tokens.filter (fun r => !inf.dsts.contains r) }
  let s := s.advanceChecks i
  let s := if s.me.strip = none then s.unpin home else s
  if back ∧ s.me.strip = none then s.stopIfAsked 2 else s

/-! ### The frame of an issuing word (R62) -/

/-- Registers whose token is pending hold a reader or a writer at issue (R213, R267). -/
def heldByToken (m : Seq) (inf : Info) : Bool :=
  inf.srcs.any (fun r => r != 0 && (SMap.find m.pend r).isSome) ||
  inf.dsts.any (fun r => r != 0 && (SMap.find m.pend r).isSome)

/-- A chunk mask of an outstanding command holds a writer of that mask (R269). -/
def heldByChunks (cmds : SMap Command) (q : Nat) (masks : List Nat) : Bool :=
  masks.any (fun k => cmds.any (fun (_, c) => c.seq == q && c.mask == k && k != 0))

/-- Step 6 of R62: a source whose fixed-latency result is still short (R57). -/
def waitShort (m : Seq) (srcs : List Nat) : Bool := srcs.any (fun r => r != 0 && (SMap.find m.dist r).isSome)

/-- The word after a transfer at offset `off`, read from memory, or the cause of its fetch fault (R90). The read sees the new
word where a store has changed it, while the slot itself may run a stale one (R63). DESIGN CHOICE, log 63. -/
def State.slotWord (s : State) (off : VAddr) : Except Miss Nat :=
  let va := s.me.pc + off
  match s.checkAccess s.ctx .fetch va.toNat 4 with
  | .error e => .error e
  | .ok loc => if s.poisoned loc then .error ⟨Cause.uncorrectable, none⟩ else .ok (cellsNat s.mem.cells loc 4)

/-- The address of the last word of the top loop level, when there is a level (R93). -/
def lastWord (l : Loops) : Option VAddr := if l.depth = 0 then none else some ((l.top.stop - 4).setWidth 57)

/-- The delay-slot checks of a transfer (R90) against a loop stack: the fetch of both words, the restricted set, and
the last word of the top level. The first slot is judged before the second is read: the manual does not order the delay-slot
cause of the first and the fetch cause of the second. DESIGN CHOICE, log 63. -/
def State.checkSlots (s : State) (l : Loops) : Except Trap Unit :=
  let one (off : VAddr) : Except Trap Unit :=
    match s.slotWord off with
    | .error e => .error (e.trap 0 (s.me.pc + off).toNat)
    | .ok x =>
      if restrictedWord x then .error (Trap.plain Cause.delaySlot)
      else if lastWord l = some (s.me.pc + off) then .error (Trap.plain Cause.delaySlot)
      else .ok ()
  match one 4 with
  | .error e => .error e
  | .ok () => one 8

/-- Loop end placement (R93): the last word of the top level belongs to the restricted set or stands in a delay slot. -/
def loopEndBad (m : Seq) (i : Instr) : Bool :=
  lastWord m.loops == some m.pc && (instrRestricted i || m.delay.isSome)

/-- Privilege of a word (R62 step 2, R95, R99, R100). -/
def needsPriv (i : Instr) : Bool :=
  match i with
  | .halt _ => true
  | .rft _ => true
  | .mfc f => (ctlRights f.num.val).map (·.1) == some .priv
  | .mtc f => (ctlRights f.num.val).map (·.2) == some .priv || (ctlRights f.num.val).map (·.1) == some .priv
  | .mcset f => (ctlRights f.num.val).map (·.2) == some .priv || (ctlRights f.num.val).map (·.1) == some .priv
  | .mcclr f => (ctlRights f.num.val).map (·.2) == some .priv || (ctlRights f.num.val).map (·.1) == some .priv
  | _ => false

/-- The value a control-register write would store (R96). -/
def ctlNew (i : Instr) (old a : Word) : Word :=
  match i with
  | .mcset _ => old ||| a
  | .mcclr _ => old &&& ~~~a
  | _ => a

/-- Illegal in strip (R62 step 3, R97, R111): the words that may not stand in an open strip. -/
def illegalInStrip (m : Seq) (i : Instr) : Bool :=
  m.strip.isSome &&
  (match i with
   | .halt _ | .ifence _ | .rft _ | .vtype _ | .zctw _ | .zcswap _ | .tmode _ => true
   | .mtc f | .mcset f | .mcclr f =>
     f.num.val != 0 ||
       (isPriv m.ctl.status && isPriv (ctlNew i m.ctl.status (m.sreg f.a)) != isPriv m.ctl.status)
   | _ => false)

/-- No open strip (R113): a vector store or `zst` outside a strip. -/
def needsStrip (i : Instr) : Bool :=
  match i with
  | .zst _ => true
  | i => instrMajor i == 0x25

/-- A control transfer, whose delay slots are checked at issue (R90). -/
def isTransfer (i : Instr) : Bool :=
  match i with
  | .beq _ | .bne _ | .blt _ | .bge _ | .bltn _ | .bgen _ | .bgs _ | .bgsn _ | .jal _ | .jalr _ | .lbrk _ => true
  | _ => false

/-- The loop stack that the delay-slot check of a transfer is made against: for `lbrk`, the stack after its pop. -/
def slotLoops (m : Seq) (i : Instr) : Loops :=
  match i with
  | .lbrk _ => if m.loops.depth = 0 then m.loops else m.loops.pop
  | _ => m.loops

/-- The delay-slot check of step 3 for a control transfer (R90); nothing for any other word. -/
def State.checkTransfer (s : State) (i : Instr) : Except Trap Unit :=
  if isTransfer i then s.checkSlots (slotLoops s.me i) else .ok ()

/-- Steps 4 and 5 of R62: a valid vt (R9), and the register groups of R59 with the description's own condition. -/
def checkType (m : Seq) (i : Instr) (group : VType → Bool) : Except Trap Unit :=
  if instrTyped i then
    match m.vt with
    | none => .error (Trap.plain Cause.illegalType)
    | some t =>
      if (instrInfo i).vregs.any (fun r => r % t.g != 0) || !group t then .error (Trap.plain Cause.registerGroup)
      else .ok ()
  else .ok ()

/-- Steps 1 to 6 of R62 in order; `group` is the register-group condition of the word's own description. Within step 3 loop
end placement (R93) comes before the delay-slot check of a transfer (R90), an order the manual leaves open. DESIGN CHOICE,
log 63. -/
def State.precheck (s : State) (i : Instr) (group : VType → Bool) : Except Trap Unit :=
  let m := s.me
  if !i.wf then .error (Trap.plain Cause.illegalInstruction)
  else if needsPriv i && !isPriv m.ctl.status then .error (Trap.plain Cause.privileged)
  else if illegalInStrip m i then .error (Trap.plain Cause.illegalInStrip)
  else if needsStrip i && m.strip.isNone then .error (Trap.plain Cause.noOpenStrip)
  else if loopEndBad m i then .error (Trap.plain Cause.loopEnd)
  else
    match s.checkTransfer i with
    | .error t => .error t
    | .ok () =>
      match checkType m i group with
      | .error t => .error t
      | .ok () =>
        if m.ctl.chk.getLsbD 0 && waitShort m (instrInfo i).srcs then .error (Trap.plain Cause.waitShort) else .ok ()

/-- The word issued with wait count `w`: the sequencer's next word issues `1 + w` clocks later at the earliest, the first word
of a handler among them (R56). -/
def State.holdIssue (s : State) (w : Nat) : State := s.setMe { s.me with ready := s.clock + 1 + w }

/-- A word traps, and its wait count holds the next issue (R56); one whose access is held waits at its place (R301). -/
def State.stopWord (s t : State) (x : Trap) (w : Nat) : State :=
  if x.cause = Cause.held then { s with waited := true } else (t.takeTrap x).holdIssue w

/-- The clock at which a word can issue: its sequencer's next one (R56), and with CHK clear not before the results that it reads
are there (R57). -/
def Seq.issueAt (m : Seq) (clock : Nat) (srcs : List Nat) : Nat :=
  let t := max clock m.ready
  if m.ctl.chk.getLsbD 0 then t else srcs.foldl (fun t r => if r = 0 then t else max t ((SMap.find m.avail r).getD 0)) t

/-- Issue a word: it waits for pending registers and masks and for its clock, takes the checks of R62, runs its meaning, and
retires. -/
def State.issue (s : State) (i : Instr) (group : VType → Bool) (body : State → Res) : State :=
  let m := s.me
  let inf := instrInfo i
  if i.wf && (heldByToken m inf || heldByChunks s.cmds s.cur inf.masks) then { s with waited := true }
  else
    let s := { s with clock := m.issueAt s.clock inf.srcs }
    match s.precheck i group with
    | .error t => s.stopWord s t inf.w
    | .ok () =>
      match body s with
      | .done f s' => s'.retire i f
      | .trap t s' => s.stopWord s' t inf.w
      | .wait s' => { s' with waited := true }

/-- No register-group condition beyond R59. -/
def noGroup : VType → Bool := fun _ => true

/-- Wrap a state as the outcome of a meaning. -/
def ok (s : State) : Host.Outcome State Fault Refusal := .next s

/-- Issue with the outcome type of `exec`. -/
def run (i : Instr) (body : State → Res) (s : State) : Host.Outcome State Fault Refusal :=
  .next (s.issue i noGroup body)

/-- Issue with a register-group condition of the description. -/
def runG (i : Instr) (group : VType → Bool) (body : State → Res) (s : State) : Host.Outcome State Fault Refusal :=
  .next (s.issue i group body)

/-- A strip-closing word (R111): its issue checks first, then the commit, then the rest. -/
def closing {α : Type} (chk : State → Except Trap α) (act : α → State → Res) (s : State) : Res :=
  match chk s with
  | .error t => .trap t s
  | .ok x => act x s.commitStrip

end Sys2Proof.Machine
end

