-- ==== Sys2Proof/Machine/ScalarArith.lean ====
section
/-!
DEFINITION. Majors 0x01 to 0x07: scalar integer arithmetic, logic, shifts, compares, multiply, divide, counts, bit
fields and immediates (R76 to R82). None of them sets a flag (R76).
-/

namespace Sys2Proof.Machine

/-- A word that writes sD from two scalar sources. -/
def write3 (i : Instr) (f : R3) (op : Word → Word → Word) (s : State) : Host.Outcome State Fault Refusal :=
  run i (fun s => .done .seq (s.setS f.d (op (s.sreg f.a) (s.sreg f.b)))) s

/-- A word that writes sD from one scalar source. -/
def write2 (i : Instr) (f : R2) (op : Word → Word) (s : State) : Host.Outcome State Fault Refusal :=
  run i (fun s => .done .seq (s.setS f.d (op (s.sreg f.a)))) s

/-- An immediate shift (R77). -/
def writeSh (i : Instr) (f : Shift) (op : Word → Nat → Word) (s : State) : Host.Outcome State Fault Refusal :=
  run i (fun s => .done .seq (s.setS f.d (op (s.sreg f.a) f.k.val))) s

/-- An immediate operation: imm13 is sign-extended (R81). -/
def writeI (i : Instr) (f : ImmI) (op : Word → Word → Word) (s : State) : Host.Outcome State Fault Refusal :=
  run i (fun s => .done .seq (s.setS f.d (op (s.sreg f.a) (f.imm.signExtend 64)))) s

/-! ### The operations -/

/-- A truth value as 1 or 0. -/
def boolWord (c : Bool) : Word := if c then 1 else 0
/-- The shift amount b[5:0] (R77). -/
def amount (b : Word) : Nat := b.toNat % 64
/-- SignExtend of the low 32 bits (R77). -/
def sext32 (x : Word) : Word := (x.setWidth 32).signExtend 64
/-- High 64 bits of the signed product (R78). -/
def mulHigh (a b : Word) : Word := BitVec.ofInt 64 ((a.toInt * b.toInt) / 2 ^ 64)
/-- High 64 bits of the unsigned product (R78). -/
def mulHighN (a b : Word) : Word := BitVec.ofNat 64 (a.toNat * b.toNat / 2 ^ 64)
/-- Signed quotient, truncated toward zero; all ones on a zero divisor; -2^63 / -1 wraps to -2^63 (R79). -/
def divS (a b : Word) : Word := if b = 0 then BitVec.allOnes 64 else BitVec.ofInt 64 (Int.tdiv a.toInt b.toInt)
/-- Unsigned quotient; all ones on a zero divisor (R79). -/
def divU (a b : Word) : Word := if b = 0 then BitVec.allOnes 64 else BitVec.ofNat 64 (a.toNat / b.toNat)
/-- Signed remainder with the sign of a; a on a zero divisor (R78, R79). -/
def remS (a b : Word) : Word := if b = 0 then a else BitVec.ofInt 64 (Int.tmod a.toInt b.toInt)
/-- Unsigned remainder; a on a zero divisor (R78, R79). -/
def remU (a b : Word) : Word := if b = 0 then a else BitVec.ofNat 64 (a.toNat % b.toNat)
/-- Leading zero bits, 0 to 64 (R78). -/
def leadingZeros (a : Word) : Word := if a = 0 then 64 else BitVec.ofNat 64 (63 - Nat.log2 a.toNat)
/-- Trailing zero bits from position k on, at most n of them. -/
def trailingFrom (x : Nat) : Nat → Nat
  | 0 => 0
  | n + 1 => if x % 2 = 1 then 0 else 1 + trailingFrom (x / 2) n
/-- Trailing zero bits, 0 to 64 (R78). -/
def trailingZeros (a : Word) : Word := BitVec.ofNat 64 (trailingFrom a.toNat 64)
/-- Number of one bits among the low n. -/
def onesIn (x : Nat) : Nat → Nat
  | 0 => 0
  | n + 1 => x % 2 + onesIn (x / 2) n
/-- Number of one bits (R78). -/
def popCount (a : Word) : Word := BitVec.ofNat 64 (onesIn a.toNat 64)
/-- Mask(k): the low k bits are ones (R80). -/
def maskOf (k : Nat) : Word := BitVec.ofNat 64 (2 ^ k - 1)
/-- Position and length of a bit field from sB (R80). -/
def fieldPos (b : Word) : Nat := b.toNat % 64
def fieldLen (b : Word) : Nat := min (b.toNat / 256 % 128) (64 - fieldPos b)
/-- `bext` (R80). -/
def bitExtract (a b : Word) : Word := (a >>> fieldPos b) &&& maskOf (fieldLen b)
/-- `bins` (R80): `d` is the old value of sD. -/
def bitInsert (d a b : Word) : Word :=
  let f := maskOf (fieldLen b) <<< fieldPos b
  (d &&& ~~~f) ||| ((a <<< fieldPos b) &&& f)
/-- Signed minimum and maximum, unsigned minimum and maximum (R77). -/
def minS (a b : Word) : Word := if b.slt a then b else a
def maxS (a b : Word) : Word := if a.slt b then b else a
def minU (a b : Word) : Word := if b.ult a then b else a
def maxU (a b : Word) : Word := if a.ult b then b else a

/-! ### Major 0x01 (R77) -/

def execAdd (f : R3) (s : State) : Host.Outcome State Fault Refusal := write3 (.add f) f (fun a b => a + b) s
def execSub (f : R3) (s : State) : Host.Outcome State Fault Refusal := write3 (.sub f) f (fun a b => a - b) s
def execAnd (f : R3) (s : State) : Host.Outcome State Fault Refusal := write3 (.and f) f (fun a b => a &&& b) s
def execOr (f : R3) (s : State) : Host.Outcome State Fault Refusal := write3 (.or f) f (fun a b => a ||| b) s
def execXor (f : R3) (s : State) : Host.Outcome State Fault Refusal := write3 (.xor f) f (fun a b => a ^^^ b) s
def execAndn (f : R3) (s : State) : Host.Outcome State Fault Refusal := write3 (.andn f) f (fun a b => a &&& ~~~b) s
def execSll (f : R3) (s : State) : Host.Outcome State Fault Refusal := write3 (.sll f) f (fun a b => a <<< amount b) s
def execSrl (f : R3) (s : State) : Host.Outcome State Fault Refusal := write3 (.srl f) f (fun a b => a >>> amount b) s
def execSra (f : R3) (s : State) : Host.Outcome State Fault Refusal :=
  write3 (.sra f) f (fun a b => a.sshiftRight (amount b)) s
def execRol (f : R3) (s : State) : Host.Outcome State Fault Refusal :=
  write3 (.rol f) f (fun a b => a.rotateLeft (amount b)) s
def execSlt (f : R3) (s : State) : Host.Outcome State Fault Refusal := write3 (.slt f) f (fun a b => boolWord (a.slt b)) s
def execSltn (f : R3) (s : State) : Host.Outcome State Fault Refusal :=
  write3 (.sltn f) f (fun a b => boolWord (a.ult b)) s
def execSeq (f : R3) (s : State) : Host.Outcome State Fault Refusal := write3 (.seq f) f (fun a b => boolWord (a == b)) s
def execMin (f : R3) (s : State) : Host.Outcome State Fault Refusal := write3 (.min f) f minS s
def execMax (f : R3) (s : State) : Host.Outcome State Fault Refusal := write3 (.max f) f maxS s
def execMinn (f : R3) (s : State) : Host.Outcome State Fault Refusal := write3 (.minn f) f minU s
def execMaxn (f : R3) (s : State) : Host.Outcome State Fault Refusal := write3 (.maxn f) f maxU s
def execAddw (f : R3) (s : State) : Host.Outcome State Fault Refusal := write3 (.addw f) f (fun a b => sext32 (a + b)) s
def execSubw (f : R3) (s : State) : Host.Outcome State Fault Refusal := write3 (.subw f) f (fun a b => sext32 (a - b)) s
def execAdds1 (f : R3) (s : State) : Host.Outcome State Fault Refusal := write3 (.adds1 f) f (fun a b => a + (b <<< 1)) s
def execAdds2 (f : R3) (s : State) : Host.Outcome State Fault Refusal := write3 (.adds2 f) f (fun a b => a + (b <<< 2)) s
def execAdds3 (f : R3) (s : State) : Host.Outcome State Fault Refusal := write3 (.adds3 f) f (fun a b => a + (b <<< 3)) s
def execSlli (f : Shift) (s : State) : Host.Outcome State Fault Refusal := writeSh (.slli f) f (fun a k => a <<< k) s
def execSrli (f : Shift) (s : State) : Host.Outcome State Fault Refusal := writeSh (.srli f) f (fun a k => a >>> k) s
def execSrai (f : Shift) (s : State) : Host.Outcome State Fault Refusal :=
  writeSh (.srai f) f (fun a k => a.sshiftRight k) s
def execRoli (f : Shift) (s : State) : Host.Outcome State Fault Refusal :=
  writeSh (.roli f) f (fun a k => a.rotateLeft k) s

/-! ### Major 0x02 (R78 to R80) -/

def execMul (f : R3) (s : State) : Host.Outcome State Fault Refusal := write3 (.mul f) f (fun a b => a * b) s
def execMulh (f : R3) (s : State) : Host.Outcome State Fault Refusal := write3 (.mulh f) f mulHigh s
def execMulhn (f : R3) (s : State) : Host.Outcome State Fault Refusal := write3 (.mulhn f) f mulHighN s
def execDiv (f : R3) (s : State) : Host.Outcome State Fault Refusal := write3 (.div f) f divS s
def execDivn (f : R3) (s : State) : Host.Outcome State Fault Refusal := write3 (.divn f) f divU s
def execRem (f : R3) (s : State) : Host.Outcome State Fault Refusal := write3 (.rem f) f remS s
def execRemn (f : R3) (s : State) : Host.Outcome State Fault Refusal := write3 (.remn f) f remU s
def execClz (f : R2) (s : State) : Host.Outcome State Fault Refusal := write2 (.clz f) f leadingZeros s
def execCtz (f : R2) (s : State) : Host.Outcome State Fault Refusal := write2 (.ctz f) f trailingZeros s
def execCpop (f : R2) (s : State) : Host.Outcome State Fault Refusal := write2 (.cpop f) f popCount s
def execBext (f : R3) (s : State) : Host.Outcome State Fault Refusal := write3 (.bext f) f bitExtract s
def execBins (f : R3) (s : State) : Host.Outcome State Fault Refusal :=
  run (.bins f) (fun s => .done .seq (s.setS f.d (bitInsert (s.sreg f.d) (s.sreg f.a) (s.sreg f.b)))) s

/-! ### Majors 0x03 to 0x07 (R81, R82) -/

def execAddi (f : ImmI) (s : State) : Host.Outcome State Fault Refusal := writeI (.addi f) f (fun a b => a + b) s
def execAndi (f : ImmI) (s : State) : Host.Outcome State Fault Refusal := writeI (.andi f) f (fun a b => a &&& b) s
def execOri (f : ImmI) (s : State) : Host.Outcome State Fault Refusal := writeI (.ori f) f (fun a b => a ||| b) s
def execXori (f : ImmI) (s : State) : Host.Outcome State Fault Refusal := writeI (.xori f) f (fun a b => a ^^^ b) s
/-- `lih`: sD shifted left by 18, with the zero-extended immediate below (R82). -/
def execLih (f : ImmJ) (s : State) : Host.Outcome State Fault Refusal :=
  run (.lih f) (fun s => .done .seq (s.setS f.d ((s.sreg f.d <<< 18) ||| f.imm.setWidth 64))) s

end Sys2Proof.Machine
end

