-- ==== Sys2Proof/Machine/ScalarMem.lean ====
section
/-!
DEFINITION. Majors 0x08 to 0x0F: scalar loads and stores, cache-line operations, and the reserved pair (R83 to R86).
-/

namespace Sys2Proof.Machine

/-- The address check of a scalar access (R83): range, alignment, translation; TRAPELEM 0, TRAPADDR 8 x EA. -/
def State.scalarCheck (s : State) (acc : Acc) (ea : Word) (size : Nat) : Except Trap Nat :=
  match s.checkAccess s.ctx acc ea.toNat size with
  | .error e => .error (e.trap 0 ea.toNat)
  | .ok loc => .ok loc

/-- Sign- or zero-extend the low 8 x size bits (R83). -/
def extendTo (signed : Bool) (size v : Nat) : Word :=
  if signed ∧ v / 2 ^ (8 * size - 1) % 2 = 1 then BitVec.ofNat 64 (v + (2 ^ 64 - 2 ^ (8 * size))) else BitVec.ofNat 64 v

/-- The trap of a load that reads marked data (R316). -/
def poisonTrap (elem va : Nat) : Trap := ⟨Cause.uncorrectable, elem, 8 * va, none⟩

/-- A scalar load: check, read, extend (R83). -/
def loadBody (d : Reg) (signed : Bool) (size : Nat) (ea : Word) (s : State) : Res :=
  match s.scalarCheck .load ea size with
  | .error t => .trap t s
  | .ok loc =>
    if s.loadBad loc size 0 then .trap (poisonTrap 0 ea.toNat) s
    else .done .seq ((s.setS d (extendTo signed size (s.loadNat loc size 0))).loaded [s.accessAt loc size])

/-- A scalar store: check, room in the store buffer (R109), write (R83). -/
def storeBody (size : Nat) (ea val : Word) (s : State) : Res :=
  match s.scalarCheck .store ea size with
  | .error t => .trap t s
  | .ok loc =>
    if s.bufferFull [] (loc / 32) then .trap ⟨Cause.stripOverflow, 0, 8 * ea.toNat, none⟩ s
    else .done .seq (s.store (bufNat [] ea.toNat loc size val.toNat))

def loadX (i : Instr) (f : R3) (signed : Bool) (size : Nat) (s : State) : Host.Outcome State Fault Refusal :=
  run i (fun s => loadBody f.d signed size (s.sreg f.a + s.sreg f.b) s) s
def storeX (i : Instr) (f : R3) (size : Nat) (s : State) : Host.Outcome State Fault Refusal :=
  run i (fun s => storeBody size (s.sreg f.a + s.sreg f.b) (s.sreg f.d) s) s
def loadI (i : Instr) (f : ImmI) (signed : Bool) (size : Nat) (s : State) : Host.Outcome State Fault Refusal :=
  run i (fun s => loadBody f.d signed size (s.sreg f.a + f.imm.signExtend 64) s) s
def storeI (i : Instr) (f : ImmB) (size : Nat) (s : State) : Host.Outcome State Fault Refusal :=
  run i (fun s => storeBody size (s.sreg f.a + f.imm.signExtend 64) (s.sreg f.b) s) s

/-! ### Register-indexed forms (R84) -/

def execLdxb (f : R3) (s : State) : Host.Outcome State Fault Refusal := loadX (.ldxb f) f true 1 s
def execLdxbn (f : R3) (s : State) : Host.Outcome State Fault Refusal := loadX (.ldxbn f) f false 1 s
def execLdxh (f : R3) (s : State) : Host.Outcome State Fault Refusal := loadX (.ldxh f) f true 2 s
def execLdxhn (f : R3) (s : State) : Host.Outcome State Fault Refusal := loadX (.ldxhn f) f false 2 s
def execLdxw (f : R3) (s : State) : Host.Outcome State Fault Refusal := loadX (.ldxw f) f true 4 s
def execLdxwn (f : R3) (s : State) : Host.Outcome State Fault Refusal := loadX (.ldxwn f) f false 4 s
def execLdxd (f : R3) (s : State) : Host.Outcome State Fault Refusal := loadX (.ldxd f) f false 8 s
def execStxb (f : R3) (s : State) : Host.Outcome State Fault Refusal := storeX (.stxb f) f 1 s
def execStxh (f : R3) (s : State) : Host.Outcome State Fault Refusal := storeX (.stxh f) f 2 s
def execStxw (f : R3) (s : State) : Host.Outcome State Fault Refusal := storeX (.stxw f) f 4 s
def execStxd (f : R3) (s : State) : Host.Outcome State Fault Refusal := storeX (.stxd f) f 8 s

/-- `cwb`: the range check alone; no value changes (R85, R247). -/
def execCwb (f : Pair) (s : State) : Host.Outcome State Fault Refusal :=
  run (.cwb f) (fun s =>
    let ea := s.sreg f.a + s.sreg f.b
    if 2 ^ 57 ≤ ea.toNat then .trap ⟨Cause.addressRange, 0, 8 * ea.toNat, none⟩ s else .done .seq s) s

/-- `czero`: 64 zero bytes at the address cleared to a multiple of 64 (R84). -/
def execCzero (f : Pair) (s : State) : Host.Outcome State Fault Refusal :=
  run (.czero f) (fun s =>
    let ea := (s.sreg f.a + s.sreg f.b) &&& ~~~63
    match s.scalarCheck .store ea 64 with
    | .error t => .trap t s
    | .ok loc =>
      let first := bufNat [] ea.toNat loc 32 0
      if s.bufferFull [] (loc / 32) || s.bufferFull first (loc / 32 + 1) then
        .trap ⟨Cause.stripOverflow, 0, 8 * ea.toNat, none⟩ s
      else .done .seq (s.store (bufNat [] ea.toNat loc 64 0))) s

/-! ### Base and displacement forms (R84) -/

def execLdd (f : ImmI) (s : State) : Host.Outcome State Fault Refusal := loadI (.ldd f) f false 8 s
def execLdw (f : ImmI) (s : State) : Host.Outcome State Fault Refusal := loadI (.ldw f) f true 4 s
def execLdwn (f : ImmI) (s : State) : Host.Outcome State Fault Refusal := loadI (.ldwn f) f false 4 s
def execStd (f : ImmB) (s : State) : Host.Outcome State Fault Refusal := storeI (.std f) f 8 s
def execStw (f : ImmB) (s : State) : Host.Outcome State Fault Refusal := storeI (.stw f) f 4 s

/-! ### The reserved pair (R86) and the prefetch hint (R85) -/

/-- `lr` and `lrw`: strip-closing; read, and reserve the 64-byte granule that holds EA. -/
def reserveBody (d : Reg) (signed : Bool) (size : Nat) (ea : Word) (s : State) : Res :=
  closing (fun s => s.scalarCheck .load ea size) (fun loc s =>
    if s.viewBad loc size then .trap (poisonTrap 0 ea.toNat) s
    else
      let s := s.setS d (extendTo signed size (s.viewNat loc size))
      .done .seq ((s.setMe { s.me with resv := some (loc / 64) }).loaded [inPlace loc size])) s

/-- `sc` and `scw`: strip-closing; store and write 0 when the reservation is held and covers EA, else write 1; the
reservation is cleared in both cases. -/
def conditionalBody (d : Reg) (size : Nat) (ea val : Word) (s : State) : Res :=
  closing (fun s => s.scalarCheck .store ea size) (fun loc s =>
    let held := s.me.resv == some (loc / 64)
    let s := s.setMe { s.me with resv := none }
    if held then .done .seq ((s.store (bufNat [] ea.toNat loc size val.toNat)).setS d 0)
    else .done .seq (s.setS d 1)) s

def execLr (f : R2) (s : State) : Host.Outcome State Fault Refusal :=
  run (.lr f) (fun s => reserveBody f.d false 8 (s.sreg f.a) s) s
def execLrw (f : R2) (s : State) : Host.Outcome State Fault Refusal :=
  run (.lrw f) (fun s => reserveBody f.d true 4 (s.sreg f.a) s) s
def execSc (f : R3) (s : State) : Host.Outcome State Fault Refusal :=
  run (.sc f) (fun s => conditionalBody f.d 8 (s.sreg f.a) (s.sreg f.b) s) s
def execScw (f : R3) (s : State) : Host.Outcome State Fault Refusal :=
  run (.scw f) (fun s => conditionalBody f.d 4 (s.sreg f.a) (s.sreg f.b) s) s
/-- `pref`: a hint that never traps (R85). -/
def execPref (f : Pair) (s : State) : Host.Outcome State Fault Refusal := run (.pref f) (fun s => .done .seq s) s

end Sys2Proof.Machine
end

