-- ==== Sys2Proof/Machine/Atomics.lean ====
section
/-!
DEFINITION. Major 0x36 and the fences of major 0x37: atomic read-modify-writes (R230) and scoped fences (R231).
-/

namespace Sys2Proof.Machine

/-- The ten operations of R230. -/
inductive AmoOp where
  | swap | add | and | or | xor | min | max | minn | maxn | cas
  deriving DecidableEq, Repr

/-- The new memory value of an operation on `bits`-wide m and x; none when `cas` with comparand e writes nothing. -/
def AmoOp.apply (o : AmoOp) (bits m x e : Nat) : Option Nat :=
  let i (v : Nat) : Int := if 2 ^ (bits - 1) ≤ v then (v : Int) - (2 ^ bits : Nat) else v
  match o with
  | .swap => some x
  | .add => some ((m + x) % 2 ^ bits)
  | .and => some (m &&& x)
  | .or => some (m ||| x)
  | .xor => some (m ^^^ x)
  | .min => some (if i x < i m then x else m)
  | .max => some (if i m < i x then x else m)
  | .minn => some (Nat.min m x)
  | .maxn => some (Nat.max m x)
  | .cas => if m = e then some x else none

/-- Operations whose 32-bit result is zero-extended (R230). -/
def AmoOp.unsigned (o : AmoOp) : Bool := o == .minn || o == .maxn

/-- The read-modify-write at its location: memory value to sD, the new value to memory. -/
def State.amoAt (s : State) (o : AmoOp) (f : Amo) (va loc size x e : Nat) : Res :=
  if s.viewBad loc size then .trap (poisonTrap 0 va) s
  else
    let m := cellsNat s.mem.cells loc size
    let s := match o.apply (8 * size) m x e with
      | none => s
      | some v => s.commitSectors (bufNat [] va loc size v)
    .done .seq ((s.setS f.d (extendTo (!o.unsigned) size m)).loaded [inPlace loc size])

/-- An atomic: address checks, commit, then the operation. Its order suffix says what comes before and after the word (R258), which
`State.before` sees to (log 2). -/
def amo (i : Instr) (o : AmoOp) (f : Amo) (s : State) : Host.Outcome State Fault Refusal :=
  run i (fun s =>
    let size := if f.narrow then 4 else 8
    let a := s.sreg f.a
    let x := (s.sreg f.b).toNat % 2 ^ (8 * size)
    let e := (s.sreg f.d).toNat % 2 ^ (8 * size)
    closing (fun s => s.scalarCheck .both a size) (fun loc s => s.amoAt o f a.toNat loc size x e) s) s

def execAmoSwap (f : Amo) (s : State) : Host.Outcome State Fault Refusal := amo (.amoSwap f) .swap f s
def execAmoAdd (f : Amo) (s : State) : Host.Outcome State Fault Refusal := amo (.amoAdd f) .add f s
def execAmoAnd (f : Amo) (s : State) : Host.Outcome State Fault Refusal := amo (.amoAnd f) .and f s
def execAmoOr (f : Amo) (s : State) : Host.Outcome State Fault Refusal := amo (.amoOr f) .or f s
def execAmoXor (f : Amo) (s : State) : Host.Outcome State Fault Refusal := amo (.amoXor f) .xor f s
def execAmoMin (f : Amo) (s : State) : Host.Outcome State Fault Refusal := amo (.amoMin f) .min f s
def execAmoMax (f : Amo) (s : State) : Host.Outcome State Fault Refusal := amo (.amoMax f) .max f s
def execAmoMinn (f : Amo) (s : State) : Host.Outcome State Fault Refusal := amo (.amoMinn f) .minn f s
def execAmoMaxn (f : Amo) (s : State) : Host.Outcome State Fault Refusal := amo (.amoMaxn f) .maxn f s
def execAmoCas (f : Amo) (s : State) : Host.Outcome State Fault Refusal := amo (.amoCas f) .cas f s

/-- A fence commits an open strip (R231); what it orders, `State.before` sees to (R258; log 2). -/
def fenceBody (s : State) : Res := .done .seq s.commitStrip

def execFence (f : FenceF) (s : State) : Host.Outcome State Fault Refusal := run (.fence f) fenceBody s
def execFenceAcq (f : FenceF) (s : State) : Host.Outcome State Fault Refusal := run (.fenceAcq f) fenceBody s
def execFenceRel (f : FenceF) (s : State) : Host.Outcome State Fault Refusal := run (.fenceRel f) fenceBody s

end Sys2Proof.Machine
end

