-- ==== Sys2Proof/Machine/Barrier.lean ====
section
/-!
DEFINITION. Barrier objects: `barv`, `bara`, `barw`, engine deliveries and the two events that end a waiting `barw`
(R225 to R229).
-/

namespace Sys2Proof.Machine

/-- The fields of a barrier object (R225). `count` is signed. -/
structure BarObj where
  phase    : Nat
  expected : Nat
  arrived  : Nat
  early    : Nat
  count    : Int
  next     : Nat
  reserved : Bool
  overrun  : Bool
  surplus  : Bool
  deriving DecidableEq, Repr

/-- Read an object from its 16 bytes. -/
def BarObj.of (v : Nat) : BarObj :=
  let c : Nat := v / 2 ^ 64 % 4294967296
  { phase := v % 65536, expected := v / 65536 % 65536, arrived := v / 2 ^ 32 % 65536, early := v / 2 ^ 48 % 65536
    count := if c < 2147483648 then (c : Int) else (c : Int) - 4294967296
    next := v / 2 ^ 96 % 536870912
    reserved := v / 2 ^ 125 % 2 == 1, overrun := v / 2 ^ 126 % 2 == 1, surplus := v / 2 ^ 127 % 2 == 1 }

/-- The 16 bytes of an object. -/
def BarObj.pack (b : BarObj) : Nat :=
  b.phase + b.expected * 65536 + b.arrived * 2 ^ 32 + b.early * 2 ^ 48 +
    (b.count % 4294967296).toNat * 2 ^ 64 + b.next * 2 ^ 96 +
    (if b.reserved then 2 ^ 125 else 0) + (if b.overrun then 2 ^ 126 else 0) + (if b.surplus then 2 ^ 127 else 0)

/-- An object that breaks R225: bad barrier. -/
def BarObj.bad (b : BarObj) : Bool :=
  b.expected == 0 || b.expected < b.arrived || b.expected < b.early || b.reserved

/-- One completed phase. -/
def BarObj.turn (b : BarObj) : BarObj :=
  { b with
    surplus := b.surplus || b.count < 0, phase := (b.phase + 1) % 65536, arrived := b.early, early := 0
    count := b.next, next := 0 }

/-- Advance(obj) (R226): at most two phases complete, since the early arrivals become 0 at the first. -/
def BarObj.advance (b : BarObj) : BarObj :=
  let go (b : BarObj) := if b.arrived = b.expected ∧ b.count ≤ 0 then b.turn else b
  go (go b)

/-- A phase difference read as a signed 16-bit value. -/
def phaseDiff (a b : Nat) : Int :=
  let d := (a + 65536 - b) % 65536
  if d < 32768 then (d : Int) else (d : Int) - 65536

/-- What an arrival does to an object (R227): a trap cause with the object as the trap leaves it, or the new object. -/
def BarObj.arrive (b : BarObj) (tag bytes : Nat) : Except (Nat × BarObj) BarObj :=
  let d := phaseDiff tag b.phase
  if d < 0 then .error (Cause.staleArrival, b)
  else if 2 ≤ d then .error (Cause.barrierOverrun, { b with overrun := true })
  else if d = 0 then
    if b.arrived = b.expected then .error (Cause.barrierOverrun, { b with overrun := true })
    else if 2147483647 < b.count + bytes then .error (Cause.barrierBytes, b)
    else .ok { b with arrived := b.arrived + 1, count := b.count + bytes }.advance
  else
    if b.early = b.expected then .error (Cause.barrierOverrun, { b with overrun := true })
    else if 536870911 < b.next + bytes then .error (Cause.barrierBytes, b)
    else .ok { b with early := b.early + 1, next := b.next + bytes }.advance

/-- A delivery of n bytes (R228). -/
def BarObj.deliver (b : BarObj) (n : Nat) : BarObj := { b with count := max (b.count - n) (-2147483648) }.advance

/-- ReachedPhase (R229). -/
def BarObj.reached (b : BarObj) (target : Nat) : Bool := 0 ≤ phaseDiff b.phase target

/-- The object at a location. -/
def State.barAt (s : State) (loc : Nat) : BarObj := BarObj.of (cellsNat s.mem.cells loc 16)

/-- The sectors of an object's write. -/
def State.putBar (s : State) (va loc : Nat) (b : BarObj) : State :=
  (bufNat [] va loc 16 b.pack).foldl (fun s (sec, e) => s.writeSector s.cur sec e.en e.data) s

/-! ### barv and bara (R227) -/

/-- The issue checks: the address of the object, then the zero bits of sB above bit `top`. -/
def State.barCheck (s : State) (a b : Word) (top : Nat) : Except Trap Nat :=
  match s.checkAccess s.ctx .both a.toNat 16 with
  | .error e => .error (e.trap 0 a.toNat)
  | .ok loc => if 2 ^ top ≤ b.toNat then .error (Trap.plain Cause.badBarrier) else .ok loc

/-- An arrival at its point in the location's order. -/
def State.arriveAt (s : State) (va loc : Nat) (d : Reg) (tag bytes : Nat) : Res :=
  let b := s.barAt loc
  if s.viewBad loc 16 then .trap (poisonTrap 0 va) s
  else if b.bad then .trap (Trap.plain Cause.badBarrier) s
  else
    match b.arrive tag bytes with
    | .error (c, b') => .trap (Trap.plain c) (if b' = b then s else s.putBar va loc b')
    | .ok b' => .done .seq ((s.putBar va loc b').setS d (BitVec.ofNat 64 b'.phase))

def execBarv (f : R3) (s : State) : Host.Outcome State Fault Refusal :=
  run (.barv f) (fun s =>
    let a := s.sreg f.a
    let b := s.sreg f.b
    closing (fun s => s.barCheck a b 16) (fun loc s => s.arriveAt a.toNat loc f.d (b.toNat % 65536) 0) s) s

def execBara (f : R3) (s : State) : Host.Outcome State Fault Refusal :=
  run (.bara f) (fun s =>
    let a := s.sreg f.a
    let b := s.sreg f.b
    closing (fun s => s.barCheck a b 45) (fun loc s =>
      s.arriveAt a.toNat loc f.d (b.toNat % 65536) (b.toNat / 65536 % 536870912)) s) s

/-! ### barw (R229) -/

/-- The value that `barw` writes. -/
def barwWord (b : BarObj) (status : Nat) : Word :=
  BitVec.ofNat 64 (b.phase * 65536 + (if b.overrun then 512 else 0) + (if b.surplus then 256 else 0) + status)

/-- The clock at which a wait times out; none for a timeout of 0. -/
def State.barwDeadline (s : State) (b : Word) : Option Nat :=
  let t := b.toNat / 65536 % 4294967296
  if t = 0 then none else some (s.clock + 1024 * t)

/-- The word waits: the sequencer issues nothing until one of the two events below, or a stop (R299). -/
def State.beginWait (s : State) (w : BarWait) : State := s.setMe { s.me with mode := .barw w }

def execBarw (f : R3) (s : State) : Host.Outcome State Fault Refusal :=
  run (.barw f) (fun s =>
    let a := s.sreg f.a
    let b := s.sreg f.b
    closing (fun s => s.barCheck a b 48) (fun loc s =>
      let o := s.barAt loc
      if s.viewBad loc 16 then .trap (poisonTrap 0 a.toNat) s
      else if o.bad then .trap (Trap.plain Cause.badBarrier) s
      else if o.reached (b.toNat % 65536) then .done .seq ((s.acquire sysScope).setS f.d (barwWord o 0))
      else .wait (s.beginWait ⟨f, a.toNat, b.toNat % 65536, s.barwDeadline b⟩)) s) s

/-- A waiting `barw` of sequencer q ends with a value; the sequencer goes on after the word. A reached phase, status 0, is an acquire
(R258, R259). -/
def State.endWait (s : State) (q : Nat) (w : BarWait) (v : Word) : State :=
  let c := s.cur
  let s := { s with cur := q }
  let s := s.setMe { s.me with mode := .running }
  let s := if v.toNat % 256 = 0 then s.acquire sysScope else s
  { (s.setS w.word.d v).retire (.barw w.word) .seq with cur := c }

/-- A waiting `barw` whose object can no longer be reached, breaks R225 or is marked traps, as at its issue; its wait count holds the
handler's first word (R56). -/
def State.trapWait (s : State) (q : Nat) (w : BarWait) (t : Trap) : State :=
  let c := s.cur
  let s := { s with cur := q }
  { ((s.setMe { s.me with mode := .running }).takeTrap t).holdIssue (instrInfo (.barw w.word)).w with cur := c }

/-- What the waiting `barw` of sequencer q finds at its address now: its object, or the trap it takes (R252, R316); nothing while
accesses to the object's core are held (R301). That an object that comes to break R225, or is marked, while the word waits traps it as at
its issue is not the manual's (R229). DESIGN CHOICE, log 77. -/
def State.barwLook (s : State) (q : Nat) (w : BarWait) : Option (Except Trap BarObj) :=
  match s.checkAccess (s.ctxOf q) .both w.addr 16 with
  | .error e => if e.cause = Cause.held then none else some (.error (e.trap 0 w.addr))
  | .ok loc =>
    if s.poisoned loc then some (.error (poisonTrap 0 w.addr))
    else if (s.barAt loc).bad then some (.error (Trap.plain Cause.badBarrier))
    else some (.ok (s.barAt loc))

/-- BARW_PHASE_REACHED (R229): the phase that a waiting `barw` waits for has been reached. -/
def execBarwPhaseReached (q : Nat) (s : State) : Host.Outcome State Fault Refusal :=
  match (s.seqAt q).mode with
  | .barw w =>
    match s.barwLook q w with
    | none => .next s
    | some (.error t) => .next (s.trapWait q w t)
    | some (.ok o) => if o.reached w.target then .next (s.endWait q w (barwWord o 0)) else .next s
  | _ => .next s

/-- The deadline of a wait has passed. -/
def BarWait.late (w : BarWait) (clock : Nat) : Bool :=
  match w.deadline with
  | none => false
  | some t => t ≤ clock

/-- BARW_TIMEOUT (R229): the deadline of a waiting `barw` has passed. A phase that has been reached by then ends the wait with
status 0, and an object that the word cannot use traps. -/
def execBarwTimeout (q : Nat) (s : State) : Host.Outcome State Fault Refusal :=
  match (s.seqAt q).mode with
  | .barw w =>
    if !w.late s.clock then .next s
    else
      match s.barwLook q w with
      | none => .next s
      | some (.error t) => .next (s.trapWait q w t)
      | some (.ok o) => .next (s.endWait q w (barwWord o (if o.reached w.target then 0 else 1)))
  | _ => .next s

end Sys2Proof.Machine
end

