-- ==== Sys2Proof/Machine/Branch.lean ====
section
/-!
DEFINITION. Majors 0x10 to 0x1B: branches, jumps and hardware loops (R87 to R94). Delay-slot and loop-end placement are
checked in `State.precheck`; the transfer and the loop step happen in `State.retire`.
-/

namespace Sys2Proof.Machine

/-- Target(pc, disp) (R55). -/
def target13 (pc : VAddr) (d : BitVec 13) : VAddr := pc + 4 * d.signExtend 57
def target18 (pc : VAddr) (d : BitVec 18) : VAddr := pc + 4 * d.signExtend 57

/-- A compare branch (R87). -/
def branchIf (i : Instr) (f : ImmB) (c : Word → Word → Bool) (s : State) : Host.Outcome State Fault Refusal :=
  run i (fun s =>
    .done (.branch (if c (s.sreg f.a) (s.sreg f.b) then some (target13 s.me.pc f.imm) else none)) s) s

def execBeq (f : ImmB) (s : State) : Host.Outcome State Fault Refusal := branchIf (.beq f) f (fun a b => a == b) s
def execBne (f : ImmB) (s : State) : Host.Outcome State Fault Refusal := branchIf (.bne f) f (fun a b => a != b) s
def execBlt (f : ImmB) (s : State) : Host.Outcome State Fault Refusal := branchIf (.blt f) f (fun a b => a.slt b) s
def execBge (f : ImmB) (s : State) : Host.Outcome State Fault Refusal := branchIf (.bge f) f (fun a b => !a.slt b) s
def execBltn (f : ImmB) (s : State) : Host.Outcome State Fault Refusal := branchIf (.bltn f) f (fun a b => a.ult b) s
def execBgen (f : ImmB) (s : State) : Host.Outcome State Fault Refusal := branchIf (.bgen f) f (fun a b => !a.ult b) s

/-- `bgs` and `bgsn` (R88). -/
def branchGs (i : Instr) (f : Grant) (eq : Bool) (s : State) : Host.Outcome State Fault Refusal :=
  run i (fun s =>
    .done (.branch (if (s.me.grant.gs.toNat == f.k.val) == eq then some (target13 s.me.pc f.imm) else none)) s) s

def execBgs (f : Grant) (s : State) : Host.Outcome State Fault Refusal := branchGs (.bgs f) f true s
def execBgsn (f : Grant) (s : State) : Host.Outcome State Fault Refusal := branchGs (.bgsn f) f false s

/-- `jal` (R89). -/
def execJal (f : ImmJ) (s : State) : Host.Outcome State Fault Refusal :=
  run (.jal f) (fun s =>
    .done (.branch (some (target18 s.me.pc f.imm))) (s.setS f.d ((s.me.pc + 12).setWidth 64))) s

/-- `jalr` (R89): bad target before sD is written. -/
def execJalr (f : R2) (s : State) : Host.Outcome State Fault Refusal :=
  run (.jalr f) (fun s =>
    let t := s.sreg f.a
    if t.toNat % 4 ≠ 0 ∨ 2 ^ 57 ≤ t.toNat then .trap (Trap.plain Cause.badTarget) s
    else .done (.branch (some (t.setWidth 57))) (s.setS f.d ((s.me.pc + 12).setWidth 64))) s

/-- `rdpc` (R89). -/
def execRdpc (f : Dst) (s : State) : Host.Outcome State Fault Refusal :=
  run (.rdpc f) (fun s => .done .seq (s.setS f.d (s.me.pc.setWidth 64))) s

/-! ### Hardware loops (R91 to R94) -/

/-- LoopPush (R91). -/
def loopPush (count : Word) (imm : BitVec 13) (s : State) : Res :=
  let m := s.me
  let e : VAddr := m.pc + 4 * imm.setWidth 57
  if count = 0 then .done (.goto e) s
  else if h : m.loops.depth < 6 then
    .done (.goto (m.pc + 4))
      (s.setMe { m with
        loops := ⟨m.loops.held.set m.loops.depth ⟨(m.pc + 4).setWidth 64, e.setWidth 64, count⟩ h, m.loops.depth + 1⟩ })
  else .trap (Trap.plain Cause.loopOverflow) s

def execLoop (f : LoopR) (s : State) : Host.Outcome State Fault Refusal :=
  run (.loop f) (fun s => loopPush (s.sreg f.a) f.imm s) s
def execLoopi (f : LoopI) (s : State) : Host.Outcome State Fault Refusal :=
  run (.loopi f) (fun s => loopPush (f.count.setWidth 64) f.imm s) s

/-- `lpop` (R94). -/
def execLpop (f : Bare) (s : State) : Host.Outcome State Fault Refusal :=
  run (.lpop f) (fun s =>
    if s.me.loops.depth = 0 then .trap (Trap.plain Cause.loopUnderflow) s
    else .done .seq (s.setMe { s.me with loops := s.me.loops.pop })) s

/-- `lbrk` (R94): pops when it issues, and transfers to the level's end after two delay slots. -/
def execLbrk (f : Bare) (s : State) : Host.Outcome State Fault Refusal :=
  run (.lbrk f) (fun s =>
    if s.me.loops.depth = 0 then .trap (Trap.plain Cause.loopUnderflow) s
    else
      .done (.branch (some (s.me.loops.top.stop.setWidth 57))) (s.setMe { s.me with loops := s.me.loops.pop })) s

/-- `lcnt` (R94). -/
def execLcnt (f : Dst) (s : State) : Host.Outcome State Fault Refusal :=
  run (.lcnt f) (fun s => .done .seq (s.setS f.d (if s.me.loops.depth = 0 then 0 else s.me.loops.top.count))) s
/-- `ldep` (R94). -/
def execLdep (f : Dst) (s : State) : Host.Outcome State Fault Refusal :=
  run (.ldep f) (fun s => .done .seq (s.setS f.d (BitVec.ofNat 64 s.me.loops.depth))) s

end Sys2Proof.Machine
end

