-- ==== Sys2Proof/Machine/Digest.lean ====
section
/-!
DEFINITION. SHA-256, which R324 and R356 name, and CRC-32C (R322). The manual names SHA-256 without its steps: they are
those of its standard. PRESUMED, log 14.
-/

namespace Sys2Proof.Machine

/-- The greatest number below r + 2^b whose k-th power does not pass x, found bit by bit from r on. -/
def rootBelow (k x r : Nat) : Nat → Nat
  | 0 => r
  | b + 1 => rootBelow k x (if (r + 2 ^ b) ^ k ≤ x then r + 2 ^ b else r) b

/-- The first 32 bits of the fraction of the k-th root of p: where the standard takes its constants from. -/
def rootFraction (k p : Nat) : BitVec 32 := BitVec.ofNat 32 (rootBelow k (p * 2 ^ (32 * k)) 0 36)

/-- The primes below 312, of which there are 64. -/
def shaPrimes : List Nat := (List.range 312).filter (fun p => 1 < p && (List.range 18).all (fun d => d < 2 || p ≤ d || p % d != 0))

/-- The xor of a word turned right by each of some amounts. -/
def turns (x : BitVec 32) (l : List Nat) : BitVec 32 := l.foldl (fun acc n => acc ^^^ x.rotateRight n) 0

/-- A hash in progress. The eight words of the standard are the last four of each of two sequences, newest first: `fast` gives
a to d, `slow` gives e to h. -/
structure Chain where
  fast : List (BitVec 32)
  slow : List (BitVec 32)
  deriving DecidableEq, Repr

/-- Word n of a short list. -/
def wordAt (l : List (BitVec 32)) (n : Nat) : BitVec 32 := l.getD n 0

/-- The chain before the first block. -/
def Chain.start : Chain :=
  let l := (shaPrimes.take 8).map (rootFraction 2)
  ⟨l.take 4, l.drop 4⟩

/-- One word more on each sequence: `x` is the sum of the round's constant and message word. -/
def Chain.grow (c : Chain) (x : BitVec 32) : Chain :=
  let e := wordAt c.slow 0
  let pick := wordAt c.slow 2 ^^^ (e &&& (wordAt c.slow 1 ^^^ wordAt c.slow 2))
  let mix := x + wordAt c.slow 3 + turns e [6, 11, 25] + pick
  let a := wordAt c.fast 0
  let most := (a &&& (wordAt c.fast 1 ||| wordAt c.fast 2)) ||| (wordAt c.fast 1 &&& wordAt c.fast 2)
  ⟨(mix + turns a [2, 13, 22] + most) :: c.fast.take 3, (wordAt c.fast 3 + mix) :: c.slow.take 3⟩

/-- The message word that follows a window of 16, oldest first. -/
def nextWord (w : List (BitVec 32)) : BitVec 32 :=
  let lo := wordAt w 1
  let hi := wordAt w 14
  wordAt w 0 + wordAt w 9 + (turns lo [7, 18] ^^^ lo >>> 3) + (turns hi [17, 19] ^^^ hi >>> 10)

/-- The rounds of a block, one for each constant: the window of message words moves on by one. -/
def Chain.rounds (c : Chain) (w : List (BitVec 32)) : List (BitVec 32) → Chain
  | [] => c
  | k :: ks => (c.grow (k + wordAt w 0)).rounds (w.drop 1 ++ [nextWord w]) ks

/-- A byte list as a big-endian number. -/
def beNat (l : List Byte) : Nat := l.foldl (fun n b => 256 * n + b.toNat) 0

/-- The message words of a block. -/
def blockWords (b : List Byte) : List (BitVec 32) :=
  (List.range 16).map (fun i => BitVec.ofNat 32 (beNat ((b.drop (4 * i)).take 4)))

/-- The chain after a block: what it was before is added word by word. -/
def Chain.absorb (ks : List (BitVec 32)) (c : Chain) (b : List Byte) : Chain :=
  let d := c.rounds (blockWords b) ks
  ⟨c.fast.zipWith (· + ·) d.fast, c.slow.zipWith (· + ·) d.slow⟩

/-- The chain after the n blocks of a padded message. -/
def Chain.absorbAll (ks : List (BitVec 32)) (c : Chain) (l : List Byte) : Nat → Chain
  | 0 => c
  | n + 1 => (c.absorb ks (l.take 64)).absorbAll ks (l.drop 64) n

/-- The n big-endian bytes of a number. -/
def beBytes (v : Nat) : Nat → List Byte
  | 0 => []
  | n + 1 => beBytes (v / 256) n ++ [BitVec.ofNat 8 v]

/-- A message padded to whole blocks: a set bit, zeros, and its length in bits. -/
def shaPad (l : List Byte) : List Byte :=
  l ++ [0x80] ++ List.replicate ((119 - l.length % 64) % 64) 0 ++ beBytes (8 * l.length) 8

/-- SHA-256 of a byte list, as 32 bytes. -/
def sha256 (l : List Byte) : List Byte :=
  let p := shaPad l
  let c := Chain.start.absorbAll (shaPrimes.map (rootFraction 3)) p (p.length / 64)
  (c.fast ++ c.slow).flatMap (fun w => beBytes w.toNat 4)

/-- A byte list as a little-endian number. -/
def leNat : List Byte → Nat
  | [] => 0
  | b :: t => b.toNat + 256 * leNat t

/-- A SHA-256 digest as the little-endian 256-bit integer of R324. -/
def sha256Int (l : List Byte) : BitVec 256 := BitVec.ofNat 256 (leNat (sha256 l))

/-! ### CRC-32C (R322) -/

/-- Eight reflected steps with polynomial 0x1EDC6F41. -/
def crcStep (c : BitVec 32) : Nat → BitVec 32
  | 0 => c
  | n + 1 => crcStep (if c.getLsbD 0 then (c >>> 1) ^^^ 0x82F63B78 else c >>> 1) n

/-- CRC-32C of a byte list. -/
def crc32c (l : List Byte) : BitVec 32 :=
  ~~~(l.foldl (fun c b => crcStep (c ^^^ b.setWidth 32) 8) 0xFFFFFFFF)

end Sys2Proof.Machine
end

