-- ==== Sys2Proof/Machine/Device.lean ====
section
/-!
DEFINITION. What the device does outside an instruction's own accesses: the error log (R361), the hardware's own
accesses (R309, R310), tokens (R213, R267), the streams and sums of the result digest (R323, R324), messages to hosts
(R342, R344), and the architectural reset of one sequencer.
-/

namespace Sys2Proof.Machine

/-! ### The error log (R361) -/

/-- A fault of a hardware access at upper `u` (R310, kind 11). -/
def State.logHw (s : State) (u part : Nat) (e : Miss) (va : Nat) : State :=
  (s.negate e.page).logErr 11 part 1 u false va e.cause

/-! ### The hardware's own accesses (R309, R310) -/

/-- The location of `n` bytes of a partition that the hardware itself accesses: translated, never checked for
permission. Frames, join words and launch tokens are general memory. -/
def State.hwLoc (s : State) (part va align : Nat) : Except Miss Nat :=
  if 2 ^ 57 ≤ va then .error ⟨Cause.addressRange, none⟩
  else if va % align ≠ 0 then .error ⟨Cause.misaligned, none⟩
  else if Config.globalWindow ≤ va then .error ⟨Cause.unbackedWindow, none⟩
  else s.translate part true .hw va

/-- Whether any sector of `n` bytes from a location is marked. -/
def State.anyMarked (s : State) (loc n : Nat) : Bool :=
  (List.range ((loc + n + 31) / 32 - loc / 32)).any (fun k => s.mem.poison.contains (loc / 32 + k))

/-- Read `n` bytes for the hardware; marked data are an uncorrectable fault (R316). -/
def State.hwRead (s : State) (part va align n : Nat) : Except Miss Nat :=
  match s.hwLoc part va align with
  | .error e => .error e
  | .ok loc => if s.anyMarked loc n then .error ⟨Cause.uncorrectable, none⟩ else .ok (cellsNat s.mem.cells loc n)

/-- Sectors that `n` bytes from a location cover whole. -/
def coveredSectors (loc n : Nat) : List Nat :=
  (List.range ((loc + n) / 32 - (loc + 31) / 32)).map (fun k => (loc + 31) / 32 + k)

/-- Sectors that `n` bytes from a location touch. -/
def touches (loc n sec : Nat) : Bool := loc / 32 ≤ sec && 32 * sec < loc + n

/-- What a write of `n` bytes from a location does to the sequencers, granule by granule (R86, R257). -/
def dropGranules (m : SMap Seq) (w : Nat × Nat) (loc n : Nat) : SMap Seq :=
  (List.range ((loc + n + 63) / 64 - loc / 64)).foldl
    (fun m k => loseReservations m w (loc / 64 + k) (fun a z => overlap a z loc n)) m

/-- Write `n` bytes at a location as sequencer `by_`, or as a party that is none: marks of wholly covered sectors clear
(R315), other parties' reservations are lost (R86). -/
def State.pokeAs (s : State) (by_ loc n v : Nat) : State :=
  { s with
    mem := { s.mem with
      cells := cellsPut s.mem.cells loc n v
      poison := s.mem.poison.filter (fun x => !(coveredSectors loc n).contains x)
      returned := s.mem.returned.filter (fun x => !touches loc n x) }
    seqs := dropGranules s.seqs (s.writerOf by_) loc n }

/-- Write `n` bytes as the party that the machine writes for: as a rule one that is no sequencer. -/
def State.poke (s : State) (loc n v : Nat) : State := s.pokeAs s.writer loc n v

/-- Write `n` bytes as the current sequencer, whose own reservation stands (R86, R253). -/
def State.pokeMine (s : State) (loc n v : Nat) : State := s.pokeAs s.cur loc n v

/-- The machine writes for the current sequencer: what follows are accesses of an instruction of its own (R253). -/
def State.mine (s : State) : State := { s with writer := s.cur }
/-- The machine writes for no sequencer. -/
def State.notMine (s : State) : State := { s with writer := otherParty }

/-- A change whose writes are the current sequencer's own accesses (R253): its own reservation stands (R86), and it has loaded
nothing ahead from the bytes (R257). -/
def State.asMine (s : State) (f : State → State) : State := (f s.mine).notMine

/-- Write `n` bytes for the hardware on behalf of upper `u`; a fault is logged and nothing is written (R310). -/
def State.hwWrite (s : State) (u part va align n v : Nat) : State :=
  match s.hwLoc part va align with
  | .error e => s.logHw u part e va
  | .ok loc => s.poke loc n v

/-! ### Tokens (R213, R267, R268) -/

/-- The registers a token leaves pending. -/
def tokRegs (p : SMap Tok) (t : Tok) : List Nat := (p.filter (fun x => x.2 = t)).map (·.1)

/-- Write a value into numbered registers; s0 discards it (R8). -/
def putRegs (regs : Vector Word 32) (rs : List Nat) (v : Word) : Vector Word 32 :=
  rs.foldl (fun x r => if h : r < 32 then (if r = 0 then x else x.set r v h) else x) regs

/-- A token's value arrives at a sequencer, and in the checkpoint of its open strip: a restore never undoes it
(R213, R268). The register holds a token's value from then on (R258). -/
def Seq.deliver (m : Seq) (t : Tok) (v : Word) : Seq :=
  { m with
    regs := putRegs m.regs (tokRegs m.pend t) v
    pend := m.pend.filter (fun x => x.2 ≠ t)
    tokens := tokRegs m.pend t ++ m.tokens
    strip := m.strip.map (fun st =>
      { st with ck := { st.ck with
          regs := putRegs st.ck.regs (tokRegs st.ck.pend t) v
          pend := st.ck.pend.filter (fun x => x.2 ≠ t) } }) }

/-- A token's value arrives wherever its register is pending: in sequencers and in saved contexts. -/
def State.deliver (s : State) (t : Tok) (v : Word) : State :=
  { s with
    seqs := s.seqs.map (fun (q, m) => (q, m.deliver t v))
    queue := s.queue.map (fun e => { e with saved := e.saved.map (·.deliver t v) })
    saves := s.saves.map (fun (k, x) => (k, { x with seqs := x.seqs.map (·.deliver t v) })) }

/-- A token value: status and detail (R181, R267). -/
def tokenWord (status detail : Nat) : Word := BitVec.ofNat 64 (status % 256 + detail * 65536)

/-! ### Launches and the result digest (R323, R324) -/

/-- Launch `n`; an absent one stands for an ordinary launch without identifier fields (log 6). -/
def State.launchAt (s : State) (n : Nat) : Launch :=
  (SMap.find s.launches n).getD
    ⟨16, false, 1, [], 0, 0, 0, 1024 * Config.agingDefault, 0, [], [], [], [], false, none, ⟨false, 0, 0, 0, 0, 0, 0, 1, true, 0⟩⟩

/-- The logical core whose sum a record's stream joins: 0 in an ordinary launch. -/
def Launch.sumCore (l : Launch) (wid : Word) : Nat := if l.det then logicalCore wid l.grid else 0

/-- Add one finished stream to a sum. -/
def Launch.addStream (l : Launch) (core : Nat) (bs : List Byte) : Launch :=
  { l with sums := SMap.put l.sums core ((SMap.find l.sums core).getD 0 + sha256Int bs) }

/-- Add the stream of a command or a round to its launch, when the launch is still there. -/
def State.addStream (s : State) (launch core : Nat) (bs : List Byte) : State :=
  match SMap.find s.launches launch with
  | none => s
  | some l => { s with launches := SMap.put s.launches launch (l.addStream core bs) }

/-- A record's first entry opens its stream; a later entry finds it open (R323). -/
def State.openStream (s : State) (launch serial : Nat) : State := s.hashInto launch serial []

/-- A record ends: its stream joins the sum of its logical core. A record never entered has no stream. -/
def State.endStream (s : State) (r : Rec) : State :=
  match SMap.find s.launches r.launch with
  | none => s
  | some l =>
    match SMap.find l.streams r.serial with
    | none => s
    | some bs =>
      let l := l.addStream (l.sumCore r.wid) bs
      { s with launches := SMap.put s.launches r.launch { l with streams := SMap.del l.streams r.serial } }

/-- The result digest of a launch (R324), over the streams that have ended (log 23). -/
def Launch.digest (l : Launch) : List Byte :=
  let n := if l.det then l.grid else 1
  sha256 ((List.range n).flatMap (fun k => bytesOf ((SMap.find l.sums k).getD 0).toNat 32))

/-! ### Messages (R342, R344) -/

/-- Send a message to the endpoint of a header. -/
def State.send (s : State) (h : Hdr) (type status : Nat) (body : List Byte) : State :=
  { s with dev := { s.dev with
      out := s.dev.out ++ [⟨h.mgmt, h.ep, type, status, h.sess, h.seq, h.tag, h.part.val, body⟩] } }

/-! ### Resetting one sequencer -/

/-- A sequencer after its record has ended, or after the architectural reset of R290 and R291: every item of R8 at its
reset value, idle; the trap-log ring and its sequence number stand (R286), and words fetched ahead stay (R63). -/
def Seq.cleared (m : Seq) : Seq :=
  { Seq.reset with trapSeq := m.trapSeq, ring := m.ring, fetched := m.fetched, ready := m.ready }

/-- Engine commands of sequencer `q` whose tokens are still to be written (R266). -/
def State.outstanding (s : State) (q : Nat) : Nat := (s.cmds.filter (fun x => x.2.seq == q)).length

/-- A sequencer waits until its pending tokens have arrived and its commands have ended (R215, R222). -/
def State.unsettled (s : State) (q : Nat) : Bool := !(s.seqAt q).pend.isEmpty || s.outstanding q != 0

end Sys2Proof.Machine
end

