-- ==== Sys2Proof/Machine/Launches.lean ====
section
/-!
DEFINITION. Resident launches and the soles they use: leaders, scrubs and moves of sole images (R251, R304), the tenants that
remap tables place on a core (R195, R366), and what happens once nothing of a launch is left (R239, R324, R344, R366).
-/

namespace Sys2Proof.Machine

/-- The leaders of all cores. -/
def State.leaders (s : State) : List Nat := s.parts.flatMap (fun p => p.2.cores.map (·.leader))

/-! ### Sole images (R251, R304) -/

/-- Whether a location lies in an image's scratchpad. -/
def inPad (image loc : Nat) : Bool := padLoc image 0 ≤ loc && loc < padLoc (image + 1) 0

/-- Scrub the soles of an image: every byte reads 0, sole state is reset, marks are gone. -/
def State.scrubSole (s : State) (image : Nat) : State :=
  let s := { s with mem := { s.mem with
      cells := s.mem.cells.filter (fun c => !inPad image c.1)
      poison := s.mem.poison.filter (fun x => !inPad image (32 * x)) } }
  { s with soles := SMap.del s.soles image }

/-- Image b becomes a copy of image a: scratchpad bytes, their marks and sole state. -/
def State.copyImage (s : State) (a b : Nat) : State :=
  let s := s.scrubSole b
  let mine := s.mem.cells.filter (fun c => inPad a c.1)
  let bad := s.mem.poison.filter (fun x => inPad a (32 * x))
  let d (loc : Nat) : Nat := padLoc b (loc - padLoc a 0)
  { s with
    mem := { s.mem with
      cells := mine.foldl (fun m c => cellPut m (d c.1) c.2) s.mem.cells
      poison := bad.foldl (fun m x => insertNat m (d (32 * x) / 32)) s.mem.poison }
    soles := SMap.put s.soles b (s.soleAt a) }

/-- Move one image to another; the first reads as scrubbed afterwards. -/
def State.moveImage (s : State) (a b : Nat) : State := if a = b then s else (s.copyImage a b).scrubSole a

/-- The logical cores of a launch that is accepted begin with what the soles hold that the remap table places them on, but for the live
lines, which belong to channels of those cores: the end state of a launch keeps every item that the launch has not changed (R239), and no
rule scrubs an image. DEDUCED, log 43. -/
def State.startImages (s : State) (k : Nat) (remap : List Nat) : State :=
  remap.zipIdx.foldl (fun s (u, c) =>
    let s := s.copyImage u (logicalImage k c)
    s.setSole (logicalImage k c) { s.soleAt (logicalImage k c) with live := [] }) s

/-! ### Tenants (R195, R196, R366) -/

/-- The logical cores that remap tables place on the core of upper u (R195). -/
def State.placed (s : State) (p u width : Nat) : List Tenant :=
  s.launches.flatMap (fun (k, l) =>
    if l.part = p ∧ l.det ∧ l.gang = width then
      ((List.range l.grid).filter (fun c => l.remap.getD c Config.allUppers == u)).map (fun c => .logical k c)
    else [])

/-- The tables of a tenant that is switched out: its saved ones, or the reset ones (R28, R302). -/
def State.tenantTables (s : State) (u : Nat) (t : Tenant) : Option (Nat × Saved) :=
  s.saves.find? (fun x => x.2.tenant == t && x.2.seqs.isEmpty && (t != .ordinary || x.2.upper == u))

/-- The core of upper u, whose running logical core c of launch k is over, is left to its ordinary tenant (R366): the tenant's class
tables come back. Where a launch of the partition is still resident, the tenant's own sole state comes back with them; where none is,
the sole stands as the logical core left it (R239, R282; log 43). -/
def State.backToOrdinary (s : State) (p u k c : Nat) : State :=
  let s := if s.launches.any (fun x => x.2.part == p) then s else s.moveImage (logicalImage k c) u
  let up := s.upperAt u
  let x : Upper := { up with tenant := .ordinary, since := s.clock, outAt := up.outAt.filter (fun x => x.1 ≠ .ordinary) }
  match s.tenantTables u .ordinary with
  | some (id, t) =>
    ({ s with saves := SMap.del s.saves id } : State).setUpper u { x with active := t.active, shadow := t.shadow, gen := t.gen }
  | none => s.setUpper u x

/-! ### Launches that are over -/

/-- The completion message of a launch: its token's final value and its digest (R344). -/
def State.complete (s : State) (l : Launch) (value : Word) : State :=
  s.send l.hdr 0x20 0 (bytesOf value.toNat 8 ++ l.digest)

/-- Whether anything of a launch is left: nests, records queued, yielded, running or saved, commands, scatter rounds. -/
def State.launchBusy (s : State) (k : Nat) : Bool :=
  s.nests.any (·.2.launch == k) || s.queue.any (·.work.launch == k) || s.yields.any (·.work.launch == k) ||
    s.seqs.any (fun e => (e.2.work.map (·.launch)) == some k) ||
    s.saves.any (fun e => e.2.seqs.any (fun m => (m.work.map (·.launch)) == some k)) ||
    s.cmds.any (·.2.launch == k) || s.rounds.any (·.2.launch == k)

/-- The upper's tenant is a logical core of launch k. -/
def Tenant.ofLaunch (t : Tenant) (k : Nat) : Option Nat :=
  match t with
  | .ordinary => none
  | .logical n c => if n = k then some c else none

/-- The cores whose running tenant is a logical core of launch k of partition p, which is over, are left to their ordinary tenants. -/
def State.leaveTenants (s : State) (p k : Nat) : State :=
  s.uppers.foldl (fun s (u, up) =>
    match up.tenant.ofLaunch k with
    | none => s
    | some c => s.backToOrdinary p u k c) s

/-- A launch of which nothing is left is resident no longer: every stream of its digest has ended, so its completion message
follows (R324, R344; log 23), its frame areas return to the pool (R209), and its logical cores are no tenants (R366). The images of
logical cores that were switched out stand as they are (R282). -/
def State.settle (s : State) (k : Nat) : State :=
  if s.launchBusy k then s
  else
    let l := s.launchAt k
    let s := match l.final with
      | some v => s.complete l v
      | none => s
    let s : State := { s with
      launches := SMap.del s.launches k
      saves := s.saves.filter (fun x => !(x.2.seqs.isEmpty && (x.2.tenant.ofLaunch k).isSome)) }
    s.leaveTenants l.part k

end Sys2Proof.Machine
end

