-- ==== Sys2Proof/Machine/Paging.lean ====
section
/-!
DEFINITION. The resident service's work on page tables: writing entries, mapping and unmapping ranges, and rebuilding a
poisoned table page (R251, R306 to R313). Where it places tables and pages is its own choice (log 10).
-/

namespace Sys2Proof.Machine

/-- Round up to a multiple. -/
def alignUp (x n : Nat) : Nat := (x + n - 1) / n * n

/-- A fresh table of a size, aligned to it (R307). -/
def State.newTable (s : State) (size : Nat) : Nat × State :=
  let a := alignUp s.nextTable size
  (a, { s with nextTable := a + size })

/-- Table pages are left in the pool. -/
def State.tablesFit (s : State) : Bool := s.nextTable ≤ Config.tableEnd

/-- Write an entry of a table page, in memory and in the service's shadow copy (R306). -/
def State.putEntry (s : State) (a v : Nat) : State :=
  let s := s.pokeAs otherParty a 8 v
  { s with mem := { s.mem with tables := cellsPut s.mem.tables a 8 v } }

/-- Physical pages are cleared before a partition sees them: every byte reads 0 and no mark is left (R251). -/
def State.clearPages (s : State) (pa n : Nat) : State :=
  let inside (a : Nat) : Bool := pa ≤ a && a < pa + n
  { s with mem := { s.mem with
      cells := s.mem.cells.filter (fun c => !inside c.1)
      poison := s.mem.poison.filter (fun x => !inside (32 * x))
      returned := s.mem.returned.filter (fun x => !inside (32 * x)) } }

/-- A fresh run of physical pages of one level's size. -/
def State.newPages (s : State) (lv n : Nat) : Nat × State :=
  let a := alignUp s.nextPage (levelPage lv)
  (a, { s with nextPage := a + n * levelPage lv })

/-- The size of the table whose entries stand at a level (R307). -/
def tableSize (lv : Nat) : Nat := if lv = 3 then 2097152 else if lv = 0 then 256 else 4096

/-- Follow or make the tables from level `lv` down to the table at `lv - n`. -/
def State.descend (s : State) (table va lv : Nat) : Nat → Nat × State
  | 0 => (table, s)
  | n + 1 =>
    let a := table + 8 * levelIndex va lv
    let e := cellsNat s.mem.tables a 8
    if e % 2 = 1 then s.descend (e % 2199023255552 / 256 * 256) va (lv - 1) n
    else
      let (t, s) := s.newTable (tableSize (lv - 1))
      (s.putEntry a (t + 1)).descend t va (lv - 1) n

/-- Write the leaf of one page: level `lv`, physical page, permission bits, key (R308). -/
def State.writeLeaf (s : State) (root va lv pa perm key : Nat) : State :=
  let (t, s) := s.descend root va 3 (3 - lv)
  s.putEntry (t + 8 * levelIndex va lv) (pa + perm / 4 * 4 + 3 + key * 36028797018963968)

/-- Write the leaves of `n` pages. -/
def State.writeLeaves (s : State) (root va lv pa perm key : Nat) : Nat → State
  | 0 => s
  | n + 1 =>
    (s.writeLeaf root va lv pa perm key).writeLeaves root (va + levelPage lv) lv (pa + levelPage lv) perm key n

/-- Remove the leaves of `n` pages. -/
def State.clearLeaves (s : State) (root va lv : Nat) : Nat → State
  | 0 => s
  | n + 1 =>
    let (t, s) := s.descend root va 3 (3 - lv)
    (s.putEntry (t + 8 * levelIndex va lv) 0).clearLeaves root (va + levelPage lv) lv n

/-- Drop the cached translations of a partition in a range of addresses (R311). -/
def State.dropCached (s : State) (part va size : Nat) : State :=
  { s with mem := { s.mem with
      tlb := s.mem.tlb.filter (fun e => !(e.1 == part && va / 65536 ≤ e.2.1 && e.2.1 * 65536 < va + size)) } }

/-- Map a range of a partition onto fresh pages, and note it; none when tier two or the pool of table pages is exhausted. -/
def State.mapRange (s : State) (part : Nat) (r : MapRange) : Option (Nat × State) :=
  match SMap.find s.parts part with
  | none => none
  | some p =>
    let n := (r.size + levelPage r.page - 1) / levelPage r.page
    let (pa, s) := s.newPages r.page n
    if Config.service < pa + n * levelPage r.page then none
    else
      let s := (s.clearPages pa (n * levelPage r.page)).writeLeaves p.root r.va r.page pa r.perm r.key n
      if !s.tablesFit then none
      else
      let s := s.dropCached part r.va r.size
      some (pa, { s with parts := SMap.put s.parts part { p with maps := p.maps ++ [r] } })

/-- The range that the host mapped around an address. -/
def State.mappable (s : State) (part va : Nat) : Option MapRange :=
  match SMap.find s.parts part with
  | none => none
  | some p => p.maps.find? (fun r => r.va ≤ va && va < r.va + r.size)

/-- The state in which the service has mapped the missing page of an address; none where it cannot: no range that the host mapped
holds the address, or tier two or the pool of table pages is exhausted (R204, R275, R292). -/
def State.mapMissing (s : State) (part va : Nat) : Option State :=
  match SMap.find s.parts part, s.mappable part va with
  | some p, some r =>
    let (pa, t) := s.newPages r.page 1
    let t := (t.clearPages pa (levelPage r.page)).writeLeaf p.root (va / levelPage r.page * levelPage r.page) r.page pa r.perm r.key
    if Config.service < pa + levelPage r.page || !t.tablesFit then none else some t
  | _, _ => none

/-- The service can map the page of an address. -/
def State.canMap (s : State) (part va : Nat) : Bool := (s.mapMissing part va).isSome

/-- The service maps the missing page of an address where it can. -/
def State.serviceMap (s : State) (part va : Nat) : State := (s.mapMissing part va).getD s

/-! ### Rebuilding a poisoned table page (R313) -/

/-- Write `n` bytes of a table from its shadow copy to a fresh place, which gets a shadow copy of its own. -/
def State.copyTable (s : State) (src dst n : Nat) : State :=
  let v := cellsNat s.mem.tables src n
  let s := s.pokeAs otherParty dst n v
  { s with mem := { s.mem with tables := cellsPut s.mem.tables dst n v } }

/-- Point an entry that names a table of the old page at the same place of the new page. The service reads its shadow copy. -/
def State.repointEntry (s : State) (a old new : Nat) : State :=
  let e := cellsNat s.mem.tables a 8
  let t := e % 2199023255552 / 256 * 256
  if e % 4 = 1 ∧ t / 4096 = old / 4096 then s.putEntry a (e - t + (new + (t - old))) else s

/-- Repoint `n` entries of a table from address `a` on. -/
def State.repointTable (s : State) (a old new : Nat) : Nat → State
  | 0 => s
  | n + 1 => (s.repointEntry a old new).repointTable (a + 8) old new n

/-- The root page of partition tables, when the page belongs to a root: the root's address. -/
def State.rootOf (s : State) (page : Nat) : Option Nat :=
  (s.parts.find? (fun x => x.2.root / 2097152 = page * 4096 / 2097152)).map (·.2.root)

/-- Every table page the service has handed out, as addresses from the pool's start. -/
def State.tablePages (s : State) : List Nat :=
  (List.range ((s.nextTable - Config.tablePool + 4095) / 4096)).map (fun k => Config.tablePool / 4096 + k)

/-- Steps 1 to 4 of R313 for a page that is no root page: a fresh copy, every parent entry pointed at it, the negative
entry and the cached translations derived from the page removed. -/
def State.rebuildPage (s : State) (page : Nat) : State :=
  let old := page * 4096
  let (new, s) := s.newTable 4096
  let s := s.copyTable old new 4096
  let s := s.tablePages.foldl (fun s p => s.repointTable (p * 4096) old new 512) s
  { s with mem := { s.mem with
      negative := s.mem.negative.filter (· != page)
      tlb := s.mem.tlb.filter (fun e => !e.2.2.2.2.contains page) } }

/-- The same for a page of a root: the whole root is copied, and every partition that uses it is pointed at the copy. -/
def State.rebuildRoot (s : State) (root page : Nat) : State :=
  let (new, s) := s.newTable 2097152
  let s := s.copyTable root new 2097152
  { s with
    parts := s.parts.map (fun (n, p) => (n, if p.root = root then { p with root := new } else p))
    mem := { s.mem with
      negative := s.mem.negative.filter (· != page)
      tlb := s.mem.tlb.filter (fun e => !e.2.2.2.2.contains page) } }

/-- TABLE_REBUILD (R313): the service rebuilds a table page that has a negative entry; nothing happens to any other, nor when the
pool has no page left. -/
def execTableRebuild (page : Nat) (s : State) : Host.Outcome State Fault Refusal :=
  if s.mem.negative.contains page then
    let t := match s.rootOf page with
      | some r => s.rebuildRoot r page
      | none => s.rebuildPage page
    .next (if t.tablesFit then t else s)
  else .next s

end Sys2Proof.Machine
end

