-- ==== Sys2Proof/Machine/Blocks.lean ====
section
/-!
DEFINITION. How sequencers, soles and core contexts are laid out in bytes: trap records, sequencer blocks, sole images and
save areas (R285, R302 to R304). Dumps and saves use the one layout.
-/

namespace Sys2Proof.Machine

/-! ### Trap records (R285) -/

/-- The third dword of a trap record. -/
def TrapRec.head (r : TrapRec) : Nat :=
  r.cause + r.seqid * 65536 + (if r.strip then 2 ^ 28 else 0) +
    (match r.second with
     | some c => 2 ^ 29 + c * 2 ^ 32
     | none => 0)

/-- The 64 bytes of a trap record. -/
def TrapRec.bytes (r : TrapRec) : List Byte :=
  [r.time, r.seq, r.head, r.pc.toNat, r.addr.toNat, r.elem.toNat, r.wid.toNat, r.other.toNat].flatMap (fun v => bytesOf v 8)

/-! ### Fields of a layout -/

/-- A field: its offset, its length and value in bytes, little-endian, and the offsets of its marked bytes (R315). Bytes in no
field are 0. -/
structure Field where
  off   : Nat
  len   : Nat
  val   : Nat
  marks : List Nat
  deriving DecidableEq, Repr

/-- Dwords from an offset on. -/
def dwordFields (off : Nat) (l : List Nat) : List Field := l.zipIdx.map (fun x => ⟨off + 8 * x.2, 8, x.1, []⟩)

/-- A byte of a layout. -/
def fieldByte (l : List Field) (k : Nat) : Byte :=
  match l.find? (fun f => f.off ≤ k && k < f.off + f.len) with
  | some f => BitVec.ofNat 8 (f.val / 256 ^ (k - f.off))
  | none => 0

/-- Write a field at a place in memory: a field of zeros has been cleared before; marked bytes poison their sectors (R315). -/
def State.putField (s : State) (base : Nat) (f : Field) : State :=
  let s := if f.val = 0 then s else s.poke (base + f.off) f.len f.val
  f.marks.foldl (fun s k => s.markSector ((base + f.off + k) / 32)) s

/-! ### Sequencer blocks (R303) -/

/-- What a strip checkpoint and the live state share: the dwords of offsets 0x0040 to 0x02C8. -/
structure BlockView where
  regs  : Vector Word 32
  ctl   : Ctl
  loops : Loops
  vt    : Option VType
  grant : GrantFile
  truss : Truss

/-- The control registers of a block in order. -/
def Ctl.list (c : Ctl) : List Word :=
  [c.status, c.det, c.chk, c.sdseed, c.sbase, c.cause, c.trappc, c.addr, c.elem, c.tstatus, c.resume, c.target, c.scratch,
    c.lsel]

/-- The truss words of a block in order. -/
def Truss.list (t : Truss) : List Nat :=
  let best := match t.tb with
    | some (i, v) => (2 ^ 63 + i * 65536, v.toNat)
    | none => (0, 0)
  [t.tm.toNat, t.tmc.toNat, best.1, best.2, t.tx.ov, t.tx.nv, t.tx.nx]

/-- The grant words of a block in order. -/
def GrantFile.list (g : GrantFile) : List Nat :=
  [g.gl.toNat, g.gk.toNat, g.gp.toNat, g.ga.toNat, g.gb.toNat, g.gd.toNat, g.gs.toNat]

/-- The loop words of a block in order. -/
def Loops.list (l : Loops) : List Nat := l.held.toList.flatMap (fun e => [e.start.toNat, e.stop.toNat, e.count.toNat])

/-- A view's fields, s0 stored as 0 at the given offset. -/
def BlockView.fields (v : BlockView) (off : Nat) : List Field :=
  dwordFields off (0 :: (v.regs.toList.drop 1).map BitVec.toNat) ++
  dwordFields (off + 0x100) (v.ctl.list.map BitVec.toNat) ++
  dwordFields (off + 0x170) [v.loops.depth] ++
  dwordFields (off + 0x180) v.loops.list ++
  dwordFields (off + 0x210) ((vtImage v.vt).toNat :: v.grant.list) ++
  dwordFields (off + 0x250) v.truss.list

/-- The live view of a sequencer, and that of its open strip's checkpoint (R17). -/
def Seq.view (m : Seq) : BlockView := ⟨m.regs, m.ctl, m.loops, m.vt, m.grant, m.truss⟩
def Seq.ckView (m : Seq) (c : Checkpoint) : BlockView :=
  ⟨c.regs, { m.ctl with status := withSticky m.ctl.status c.flags }, c.loops, m.vt, c.grant, { m.truss with tx := c.tx }⟩

/-- A pending transfer in the layout of TRAPTARGET. -/
def Seq.pendingWord (m : Seq) : Nat :=
  match m.delay with
  | some ⟨left, some t⟩ => t.toNat / 4 * 4 + left
  | _ => 0

/-- Pending token registers on `capply` or `scflush` as bits. -/
def Seq.pendBits (m : Seq) : Nat :=
  m.pend.foldl (fun k x => match x.2 with
    | .cmd _ => k
    | _ => k + 2 ^ x.1) 0

/-- The first dword of a block: valid, stop, vector registers present, strip open. -/
def Seq.blockHead (m : Seq) (vectors : Bool) : Nat :=
  (if m.work.isSome then 1 else 0) + (match m.mode with
    | .stopped k => 2 * k
    | _ => 0) + (if vectors then 16 else 0) + (if m.strip.isSome then 32 else 0)

/-- The fields of entry i of the store buffer: sector address, byte enables at 8, data at 32 (log 14). -/
def BufSector.fields (e : BufSector) (i : Nat) : List Field :=
  let off := 0x3000 + 64 * i
  [⟨off, 8, e.va, []⟩, ⟨off + 8, 4, e.en.toNat, []⟩, ⟨off + 32, 32, e.data.toNat, []⟩]

/-- The marked bytes of mask k, from its marked elements. -/
def Seq.maskBytes (m : Seq) (k : Nat) : List Nat :=
  ((m.mmarks.filter (fun n => n / 4096 == k)).map (fun n => n % 4096 / 8)).eraseDups

/-- A row's fields of columns c to c + n − 1, at an offset. -/
def Row.field (r : Row) (off c n : Nat) : Field :=
  ⟨off, 4 * n, r.cols.toNat / 2 ^ (32 * c) % 2 ^ (32 * n),
    (r.marks.filter (fun k => c ≤ k && k < c + n)).map (fun k => 4 * (k - c))⟩

/-- The vector registers' fields: the first 1,024 x G bytes of each are used. -/
def Seq.vectorFields (m : Seq) : List Field :=
  m.vregs.toList.zipIdx.map (fun (r, v) => ⟨0x1C000 + 4096 * v, 4096, r.bits.toNat, r.marks⟩)

/-- A sequencer's block, with its vector registers or without. `held` is the address of the round descriptor it holds, or 0. -/
def Seq.blockFields (m : Seq) (held : Nat) (vectors : Bool) : List Field :=
  let buf := (m.strip.map (·.buf)).getD []
  let rows := (m.strip.map (·.journal)).getD []
  let (wid, frame, join, depth) : Nat × Nat × Nat × Nat := match m.work with
    | some r => (r.wid.toNat, r.frame.toNat, r.join.toNat, r.depth)
    | none => (0, 0, 0, 0)
  dwordFields 0 [m.blockHead vectors, m.pc.toNat, m.pendingWord, wid, frame, join, m.level, held] ++
  m.view.fields 0x40 ++
  dwordFields 0x2C8 [m.pendBits, m.ctl.ptab.toNat, m.ctl.tvec.toNat, depth] ++
  (match m.strip with
   | some st => (m.ckView st.ck).fields 0x300
   | none => []) ++
  dwordFields 0x1000 (m.vregs.toList.map (fun r => r.count + r.len * 2 ^ 32)) ++
  m.masks.toList.zipIdx.map (fun (x, k) => ⟨0x2000 + 512 * k, 512, x.toNat, m.maskBytes k⟩) ++
  buf.zipIdx.flatMap (fun x => x.1.2.fields x.2) ++
  dwordFields 0xB000 (rows.map (fun x => x.1 + x.2.count * 2 ^ 32)) ++
  rows.zipIdx.map (fun x => x.1.2.field (0xC000 + 1024 * x.2) 0 256) ++
  (if vectors then m.vectorFields else [])

/-- The address of the round descriptor that a sequencer holds, or 0 (R303). -/
def heldAddress (rounds : SMap Round) (m : Seq) : Nat :=
  match m.held with
  | none => 0
  | some loc => ((SMap.find rounds loc).map (·.va)).getD 0

/-! ### Sole images (R304) -/

/-- The tag of a slot as it is saved. -/
def Slot.tagCode (x : Slot) : Nat := match x.tag with
  | some f => f.code
  | none => 0xFF

/-- Bytes that a slot's 64 columns of one sole take up (R154, R158). -/
def Slot.share (x : Slot) : Nat :=
  match x.tag with
  | some .eb => 10240
  | _ => 8192

/-- The fields of slot w in the image of sole j. -/
def Slot.fields (x : Slot) (w j : Nat) : List Field :=
  let n := x.share
  [⟨0x110400 + 8 * w, 8, x.tagCode, []⟩,
   ⟨0x111000 + 10240 * w, n, x.bits.toNat / 2 ^ (8 * n * j) % 2 ^ (8 * n),
     (x.marks.filter (fun k => n * j ≤ k && k < n * (j + 1))).map (· - n * j)⟩]

/-- The fields of sole j's image, the scratchpad apart. The count cells are sole 0's. -/
def Sole.fields (x : Sole) (j : Nat) : List Field :=
  x.rows.map (fun (r, y) => y.field (0x100000 + 256 * r) (64 * j) 64) ++
  (if j = 0 then x.rows.map (fun (r, y) => ⟨0x110000 + 4 * r, 4, y.count, []⟩) else []) ++
  x.slots.toList.zipIdx.flatMap (fun (y, w) => y.fields w j)

/-! ### Save areas (R301, R302) -/

/-- Bytes of the save area of a core of gang width G. -/
def saveBytes (g : Nat) : Nat := 0x200000 * (g + 1)

/-- The eight widths of each of four tables, one byte each. -/
def Tables.list (t : Tables) : List Nat := t.toList.map (fun w => leNat (w.toList.map (BitVec.ofNat 8)))

/-- The header. `slot` is the core's global slot, or the logical core under DET. -/
def Saved.header (x : Saved) (slot : Nat) : List Field :=
  let det : Nat := match x.tenant with
    | .ordinary => 0
    | .logical _ _ => 65536
  let held := x.seqs.zipIdx.foldl (fun k (m, i) => if m.work.isSome then k + 2 ^ i else k) 0
  dwordFields 0 [1 + 256 * x.gang + det, x.part, slot, x.upper, held, x.gen.toNat] ++
  dwordFields 0x40 (x.active.list ++ x.shadow.list) ++ dwordFields 0x80 [x.time]

/-- Where the block of sequencer i of a core stands in its save area, and the image of sole j. -/
def blockAt (area i : Nat) : Nat := area + 0x10000 + 0x40000 * i
def soleAreaAt (area j : Nat) : Nat := area + 0x200000 + 0x200000 * j

/-- Copy the scratchpad of one sole to a place in memory, marks with it. -/
def State.savePad (s : State) (image j base : Nat) : State :=
  let lo := padLoc image (1048576 * j)
  let inside (a : Nat) : Bool := lo ≤ a && a < lo + 1048576
  { s with mem := { s.mem with
      cells := (s.mem.cells.filter (fun c => inside c.1)).foldl (fun m c => cellPut m (base + (c.1 - lo)) c.2) s.mem.cells
      poison := (s.mem.poison.filter (fun x => inside (32 * x))).foldl
        (fun m x => insertNat m ((base + (32 * x - lo)) / 32)) s.mem.poison } }

/-- The image of sole j of a context whose sole state stands in `image`. -/
def State.saveSole (s : State) (image j base : Nat) : State :=
  ((s.soleAt image).fields j).foldl (fun s f => s.putField base f) (s.savePad image j base)

/-- Write a context into its save area: the header, the block of each sequencer with a record, and the sole images; under DET
all but sole 0's hold zeros (R336). A sequencer stopped at a `strip` has no vector registers to save (R298). -/
def State.writeSave (s : State) (x : Saved) (slot image area : Nat) : State :=
  let soles := match x.tenant with
    | .ordinary => x.gang
    | .logical _ _ => 1
  let s := (x.header slot).foldl (fun s f => s.putField area f) (s.clearPages area (saveBytes x.gang))
  let s := x.seqs.zipIdx.foldl (fun s (m, i) =>
    if m.work.isSome then
      (m.blockFields (heldAddress s.rounds m) (m.mode != .stopped 0)).foldl (fun s f => s.putField (blockAt area i) f) s
    else s) s
  (List.range soles).foldl (fun s j => s.saveSole image j (soleAreaAt area j)) s

/-- The four sequencers of an upper. -/
def seqsOf (u : Nat) : List Nat := [4 * u, 4 * u + 1, 4 * u + 2, 4 * u + 3]

/-- The save area of the contexts of a gang width whose sole state stands in `image`, set up when it is first needed; none when tier
two has no room (R301, R302). -/
def State.saveArea (s : State) (p image width : Nat) : Option (Nat × State) :=
  match SMap.find s.parts p with
  | none => none
  | some x =>
    match SMap.find x.saveAreas (8 * image + width) with
    | some a => some (a, s)
    | none =>
      let (a, t) := s.newPages 0 (32 * (width + 1))
      if Config.service < a + saveBytes width then none
      else some (a, { t with parts := SMap.put t.parts p { x with saveAreas := SMap.put x.saveAreas (8 * image + width) a } })

/-- The context of the running tenant of upper u as it is saved. -/
def State.contextOf (s : State) (p u width area : Nat) (why : Purpose) : Saved :=
  let up := s.upperAt u
  ⟨u, p, up.tenant, (seqsOf u).map s.seqAt, up.active, up.shadow, up.gen, Config.timeNs s.clock, why, width, up.since, some area⟩

/-- The slot field of a context's header and the image that holds its sole state: those of the logical core under DET. -/
def Tenant.site (t : Tenant) (u slot : Nat) : Nat × Nat :=
  match t with
  | .ordinary => (slot, u)
  | .logical k c => (c, logicalImage k c)

/-- Queued contexts whose blocks stood in an area that has been written anew stand in it no longer (log 57). -/
def State.leaveArea (s : State) (area n : Nat) : State :=
  { s with queue := s.queue.map (fun e => { e with block := e.block.filter (fun b => !(area ≤ b && b < area + n)) }) }

/-! ### A save area that loses data (R315) -/

/-- The vector bytes, mask elements or journalled columns that the sector at an offset of a block holds are marked. -/
def Seq.loseSector (m : Seq) (off : Nat) : Seq :=
  let more (l : List Nat) (a n : Nat) : List Nat := (List.range n).foldl (fun l k => insertNat l (a + k)) l
  if 0x2000 ≤ off ∧ off < 0x3000 then { m with mmarks := more m.mmarks (8 * (off - 0x2000)) 256 }
  else if 0xC000 ≤ off ∧ off < 0x1C000 then
    { m with strip := m.strip.map (fun st => { st with journal := st.journal.zipIdx.map (fun x =>
        if x.2 = (off - 0xC000) / 1024 then (x.1.1, { x.1.2 with marks := more x.1.2.marks (off % 1024 / 4) 8 }) else x.1) }) }
  else if 0x1C000 ≤ off ∧ off < 0x3C000 then
    let v := (off - 0x1C000) / 4096
    let r := m.vregs.toList.getD v VReg.reset
    { m with vregs := m.vregs.setIfInBounds v { r with marks := more r.marks (off % 4096) 32 } }
  else m

/-- What the sector at an offset of the saved image of sole j holds is marked: a sector of the scratchpad, columns of a row, bytes of a
weight slot. -/
def State.loseSoleSector (s : State) (image j off : Nat) : State :=
  let more (l : List Nat) (a n : Nat) : List Nat := (List.range n).foldl (fun l k => insertNat l (a + k)) l
  let x := s.soleAt image
  if off < 0x100000 then s.markSector (padLoc image (1048576 * j + off) / 32)
  else if off < 0x110000 then
    let r := (off - 0x100000) / 256
    let y := (SMap.find x.rows r).getD Row.zero
    s.setSole image { x with rows := SMap.put x.rows r { y with marks := more y.marks (64 * j + off % 256 / 4) 8 } }
  else if 0x111000 ≤ off ∧ off < 0x11B000 then
    let w := (off - 0x111000) / 10240
    let y := x.slots.toList.getD w Slot.reset
    let k := (off - 0x111000) % 10240
    if k < y.share then
      s.setSole image { x with slots := x.slots.setIfInBounds w { y with marks := more y.marks (y.share * j + k) 32 } }
    else s
  else s

/-- A sector of memory loses its data. Where it holds part of a saved context, the restore brings the mark back with what it held: the
context as the model keeps it is marked at once (R315; log 57). -/
def State.loseSector (s : State) (sec : Nat) : State :=
  let a := 32 * sec
  let inside (x : Saved) : Option Nat := x.area.bind (fun b => if b ≤ a ∧ a < b + saveBytes x.gang then some (a - b) else none)
  let s : State := { s.markSector sec with
    queue := s.queue.map (fun e => match e.block with
      | some b => if b ≤ a ∧ a < b + 0x40000 then { e with saved := e.saved.map (·.loseSector (a - b)) } else e
      | none => e)
    saves := s.saves.map (fun (k, x) => match inside x with
      | some off => (k, { x with seqs := x.seqs.zipIdx.map (fun (m, i) =>
          if 0x10000 + 0x40000 * i ≤ off ∧ off < 0x50000 + 0x40000 * i then m.loseSector (off - (0x10000 + 0x40000 * i)) else m) })
      | none => (k, x)) }
  s.saves.foldl (fun s (_, x) => match inside x with
    | some off =>
      if 0x200000 ≤ off then s.loseSoleSector (x.tenant.site x.upper 0).2 ((off - 0x200000) / 0x200000) (off % 0x200000) else s
    | none => s) s

/-- The context-save engine writes the context of the running tenant of core c into its save area (R301), where there is room for
one: the area. -/
def State.keepContext (s : State) (p : Nat) (c : CoreOf) (why : Purpose) : Option Nat × State :=
  let (slot, image) := (s.upperAt c.leader).tenant.site c.leader c.slot
  match s.saveArea p image c.width with
  | none => (none, s)
  | some (a, t) => (some a, (t.writeSave (t.contextOf p c.leader c.width a why) slot image a).leaveArea a (saveBytes c.width))

end Sys2Proof.Machine
end

