-- ==== Sys2Proof/Machine/Num.lean ====
section
/-!
DEFINITION. Float values, exact results and rounding (R37 to R41, R49, R50): decode, operate exactly, round once,
encode.
-/

namespace Sys2Proof.Machine

/-! ### Values -/

/-- A float value: a NaN with its sign, its mantissa left-aligned to 23 bits and whether it signals (R50); an infinity;
or the number (-1)^sign x m x 2^e. -/
inductive Num where
  | nan (sign : Bool) (pay : Nat) (sig : Bool)
  | inf (sign : Bool)
  | fin (sign : Bool) (m : Nat) (e : Int)
  deriving DecidableEq, Repr

/-- The canonical quiet NaN (R50). -/
def Num.qnan : Num := .nan false 0x400000 false

def Num.isNan : Num → Bool
  | .nan _ _ _ => true
  | _ => false

def Num.isSig : Num → Bool
  | .nan _ _ s => s
  | _ => false

/-- The sign bit (Sign of R51). -/
def Num.sign : Num → Bool
  | .nan s _ _ => s
  | .inf s => s
  | .fin s _ _ => s

def Num.isZero : Num → Bool
  | .fin _ m _ => m == 0
  | _ => false

/-- The value with its sign replaced. -/
def Num.setSign (s : Bool) : Num → Num
  | .nan _ p g => .nan s p g
  | .inf _ => .inf s
  | .fin _ m e => .fin s m e

/-- A float format (R37): mantissa bits, exponent bits, smallest normal exponent, largest finite value as m x 2^e, and
whether it has infinities. -/
structure FloatSpec where
  p    : Nat
  ebits : Nat
  emin : Int
  maxM : Nat
  maxE : Int
  inf  : Bool
  deriving DecidableEq, Repr

def specF16 : FloatSpec := ⟨10, 5, -14, 2047, 5, true⟩
def specFp32 : FloatSpec := ⟨23, 8, -126, 16777215, 104, true⟩
def specBf16 : FloatSpec := ⟨7, 8, -126, 255, 120, true⟩
def specE4m3 : FloatSpec := ⟨3, 4, -6, 14, 5, false⟩
def specE5m2 : FloatSpec := ⟨2, 5, -14, 7, 13, true⟩
/-- The grid of a PZF destination: P mantissa bits, the range of fp32 (R33, R39). -/
def specPzf (p : Nat) : FloatSpec := ⟨p, 8, -126, 2 ^ (p + 1) - 1, 127 - p, true⟩

/-- The float format of a plain format code. -/
def Fmt.spec : Fmt → FloatSpec
  | .f16 => specF16
  | .bf16 => specBf16
  | .e4m3 => specE4m3
  | .e5m2 => specE5m2
  | _ => specFp32

/-- Decode a plain float (R37, R38). -/
def decodeFloat (f : Fmt) (x : Nat) : Num :=
  let sp := f.spec
  let m := x % 2 ^ sp.p
  let e := x / 2 ^ sp.p % 2 ^ sp.ebits
  let s := x / 2 ^ (sp.p + sp.ebits) % 2 == 1
  if e = 0 then .fin s m (sp.emin - sp.p)
  else if e = 2 ^ sp.ebits - 1 ∧ f = .e4m3 then
    (if m = 7 then .nan s 0x700000 false else .fin s (8 + m) 5)
  else if e = 2 ^ sp.ebits - 1 then
    (if m = 0 then .inf s else .nan s (m * 2 ^ (23 - sp.p)) (m / 2 ^ (sp.p - 1) == 0))
  else .fin s (2 ^ sp.p + m) (sp.emin - sp.p + (e : Int) - 1)

/-! ### Powers of two with an integer exponent -/

/-- m x 2^e for e >= 0, or the floor of it for e < 0. -/
def shiftFloor (m : Nat) (e : Int) : Nat := if 0 ≤ e then m * 2 ^ e.toNat else m / 2 ^ (-e).toNat

/-- Whether m1 x 2^e1 < m2 x 2^e2. -/
def ltPow (m1 : Nat) (e1 : Int) (m2 : Nat) (e2 : Int) : Bool :=
  if e1 ≤ e2 then m1 < m2 * 2 ^ (e2 - e1).toNat else m1 * 2 ^ (e1 - e2).toNat < m2

/-- Encode a value that lies on the format's grid, or an infinity or NaN (R37, R38, R50). -/
def encodeFloat (f : Fmt) (n : Num) : Nat :=
  let sp := f.spec
  let sb (s : Bool) : Nat := if s then 2 ^ (sp.p + sp.ebits) else 0
  let top : Nat := (2 ^ sp.ebits - 1) * 2 ^ sp.p
  match n with
  | .nan s pay _ =>
    if f = .e4m3 then sb s + 0x7F
    else sb s + top + (pay / 2 ^ (23 - sp.p)) % 2 ^ (sp.p - 1) + 2 ^ (sp.p - 1)
  | .inf s => sb s + top
  | .fin s m e =>
    if m = 0 then sb s
    else
      let l : Int := (Nat.log2 m : Int) + e
      if l < sp.emin then sb s + shiftFloor m (e - (sp.emin - sp.p))
      else sb s + (l - sp.emin + 1).toNat * 2 ^ sp.p + (shiftFloor m (e - (l - sp.p)) - 2 ^ sp.p)

/-! ### Rounding (R39, R40, R49) -/

/-- An exact magnitude that lies in [q, q + 1) x 2^e, and is q x 2^e when `sticky` is clear. When it is set, q has at
least 60 bits, enough for every grid and for the 32 bits the stochastic rule looks at. -/
structure Mag where
  q : Nat
  e : Int
  sticky : Bool
  deriving DecidableEq, Repr

/-- An exact result: a NaN, an infinity, or a signed magnitude. -/
inductive Exact where
  | nan (n : Num)
  | inf (sign : Bool)
  | val (sign : Bool) (m : Mag)
  deriving DecidableEq, Repr

/-- Round a magnitude to a multiple of 2^g: the multiple, and whether it differs (R40). -/
def roundTo (rm : Rm) (rand : Nat) (sign : Bool) (x : Mag) (g : Int) : Nat × Bool :=
  if g ≤ x.e then (x.q * 2 ^ (x.e - g).toNat, x.sticky)
  else
    let sh := (g - x.e).toNat
    let lo := x.q / 2 ^ sh
    let rem := x.q % 2 ^ sh
    let inexact := rem != 0 || x.sticky
    let up : Bool :=
      match rm with
      | .ne => 2 ^ sh < 2 * rem || (2 * rem == 2 ^ sh && (x.sticky || lo % 2 == 1))
      | .tz => false
      | .dn => sign && inexact
      | .up => !sign && inexact
      | .sr => 2 ^ 32 ≤ rem * 2 ^ 32 / 2 ^ sh + rand
    (if up then lo + 1 else lo, inexact)

/-- Where a rounding happens: mode, saturation, DET, the element's random word. -/
structure RoundCtx where
  rm   : Rm
  sat  : Bool
  det  : Bool
  rand : Nat
  deriving DecidableEq, Repr

/-- The result beyond the largest finite value (R39). -/
def overflowNum (c : RoundCtx) (sp : FloatSpec) (s : Bool) : Num :=
  if c.sat then .fin s sp.maxM sp.maxE
  else if !sp.inf then Num.qnan
  else
    match c.rm with
    | .ne => .inf s
    | .sr => .inf s
    | .tz => .fin s sp.maxM sp.maxE
    | .dn => if s then .inf s else .fin s sp.maxM sp.maxE
    | .up => if s then .fin s sp.maxM sp.maxE else .inf s

/-- Round an exact result to a format (Round of R51): the value and the flags OF, UF, NX. -/
def roundNum (c : RoundCtx) (sp : FloatSpec) (x : Exact) : Num × FlagSet :=
  match x with
  | .nan n => (if c.det then Num.qnan else n, noFlags)
  | .inf s =>
    if sp.inf then (.inf s, noFlags)
    else (if c.sat then .fin s sp.maxM sp.maxE else Num.qnan, { noFlags with ovf := true, nx := true })
  | .val s m =>
    if m.q = 0 ∧ m.sticky = false then (.fin s 0 0, noFlags)
    else
      let l : Int := (Nat.log2 m.q : Int) + m.e
      let g : Int := (if l < sp.emin then sp.emin else l) - sp.p
      let (n, inexact) := roundTo c.rm c.rand s m g
      if ltPow sp.maxM sp.maxE n g then (overflowNum c sp s, { noFlags with ovf := true, nx := true })
      else
        let (n', _) := roundTo c.rm c.rand s m (l - sp.p)
        let tiny := ltPow n' (l - sp.p) 1 sp.emin
        (.fin s n g, { noFlags with uf := tiny && inexact, nx := inexact })

/-! ### Exact operations (R49, R50) -/

/-- The NaN result of an operation: the first NaN operand, quietened, or the canonical NaN (R50). DET is applied by
`roundNum`. -/
def nanOf (ops : List Num) : Exact :=
  match ops.find? Num.isNan with
  | some (.nan s p _) => .nan (.nan s (p % 0x400000 + 0x400000) false)
  | _ => .nan Num.qnan

/-- NV for a signalling operand. -/
def sigFlag (ops : List Num) : FlagSet := if ops.any Num.isSig then flagNV else noFlags

/-- The magnitude of an exact dyadic number. -/
def dyadic (m : Nat) (e : Int) : Mag := ⟨m, e, false⟩

/-- The exact sum of signed dyadic numbers. A zero sum of opposite signs is +0, or -0 toward minus infinity (R40). -/
def addFin (rm : Rm) (s1 : Bool) (m1 : Nat) (e1 : Int) (s2 : Bool) (m2 : Nat) (e2 : Int) : Exact :=
  let e := min e1 e2
  let a : Int := (m1 * 2 ^ (e1 - e).toNat : Nat)
  let b : Int := (m2 * 2 ^ (e2 - e).toNat : Nat)
  let sum : Int := (if s1 then -a else a) + (if s2 then -b else b)
  if sum = 0 then .val (if s1 = s2 then s1 else (rm == .dn)) (dyadic 0 0)
  else .val (sum < 0) (dyadic sum.natAbs e)

/-- x + y. -/
def addNum (rm : Rm) (x y : Num) : Exact × FlagSet :=
  match x, y with
  | .nan _ _ _, _ => (nanOf [x, y], sigFlag [x, y])
  | _, .nan _ _ _ => (nanOf [x, y], sigFlag [x, y])
  | .inf s, .inf t => if s = t then (.inf s, noFlags) else (.nan Num.qnan, flagNV)
  | .inf s, _ => (.inf s, noFlags)
  | _, .inf t => (.inf t, noFlags)
  | .fin s m e, .fin t n f => (addFin rm s m e t n f, noFlags)

/-- -x for a finite or infinite value; a NaN keeps its sign. -/
def negNum (x : Num) : Num :=
  match x with
  | .nan _ _ _ => x
  | _ => x.setSign (!x.sign)

/-- x - y. -/
def subNum (rm : Rm) (x y : Num) : Exact × FlagSet := addNum rm x (negNum y)

/-- x times y. -/
def mulNum (x y : Num) : Exact × FlagSet :=
  let s := x.sign != y.sign
  match x, y with
  | .nan _ _ _, _ => (nanOf [x, y], sigFlag [x, y])
  | _, .nan _ _ _ => (nanOf [x, y], sigFlag [x, y])
  | .inf _, .fin _ m _ => if m = 0 then (.nan Num.qnan, flagNV) else (.inf s, noFlags)
  | .fin _ m _, .inf _ => if m = 0 then (.nan Num.qnan, flagNV) else (.inf s, noFlags)
  | .inf _, .inf _ => (.inf s, noFlags)
  | .fin _ m e, .fin _ n f => (.val s (dyadic (m * n) (e + f)), noFlags)

/-- A quotient of naturals scaled by a power of two, with at least 100 bits when it is not exact. -/
def quotMag (a b : Nat) (e : Int) : Mag :=
  let k := 100 + Nat.log2 b
  let n := a * 2 ^ k
  ⟨n / b, e - k, n % b != 0⟩

/-- x / y (R49). -/
def divNum (x y : Num) : Exact × FlagSet :=
  let s := x.sign != y.sign
  match x, y with
  | .nan _ _ _, _ => (nanOf [x, y], sigFlag [x, y])
  | _, .nan _ _ _ => (nanOf [x, y], sigFlag [x, y])
  | .inf _, .inf _ => (.nan Num.qnan, flagNV)
  | .inf _, _ => (.inf s, noFlags)
  | .fin _ _ _, .inf _ => (.val s (dyadic 0 0), noFlags)
  | .fin _ m e, .fin _ n f =>
    if n = 0 then (if m = 0 then (.nan Num.qnan, flagNV) else (.inf s, flagDZ))
    else (.val s (quotMag m n (e - f)), noFlags)

/-- The floor of a square root, by bits from `k` down. -/
def isqrtFrom (n r : Nat) : Nat → Nat
  | 0 => r
  | k + 1 => let c := r + 2 ^ k; isqrtFrom n (if c * c ≤ n then c else r) k

/-- The square root (R134). -/
def sqrtNum (x : Num) : Exact × FlagSet :=
  match x with
  | .nan _ _ _ => (nanOf [x], sigFlag [x])
  | .inf s => if s then (.nan Num.qnan, flagNV) else (.inf false, noFlags)
  | .fin s m e =>
    if m = 0 then (.val s (dyadic 0 0), noFlags)
    else if s then (.nan Num.qnan, flagNV)
    else
      let k : Nat := 160 + (if (e - 160) % 2 = 0 then 0 else 1)
      let n := m * 2 ^ k
      let r := isqrtFrom n 0 (Nat.log2 n / 2 + 1)
      (.val false ⟨r, (e - k) / 2, r * r != n⟩, noFlags)

/-- The exact sum of the product a x b (negated when `np`) and c (negated when `nc`) (R137). -/
def fmaNum (rm : Rm) (a b c : Num) (np nc : Bool) : Exact × FlagSet :=
  let sp := (a.sign != b.sign) != np
  let sc := c.sign != nc
  let bad := match a, b with
    | .inf _, .fin _ m _ => m == 0
    | .fin _ m _, .inf _ => m == 0
    | _, _ => false
  if a.isNan || b.isNan || (c.isNan && !bad) then (nanOf [a, b, c], sigFlag [a, b, c])
  else if bad then ((if c.isNan then nanOf [a, b, c] else .nan Num.qnan), flagNV)
  else
    match a, b, c with
    | .inf _, _, .inf _ => if sp = sc then (.inf sp, noFlags) else (.nan Num.qnan, flagNV)
    | _, .inf _, .inf _ => if sp = sc then (.inf sp, noFlags) else (.nan Num.qnan, flagNV)
    | .inf _, _, _ => (.inf sp, noFlags)
    | _, .inf _, _ => (.inf sp, noFlags)
    | _, _, .inf _ => (.inf sc, noFlags)
    | .fin _ m e, .fin _ n f, .fin _ k g => (addFin rm sp (m * n) (e + f) sc k g, noFlags)
    | _, _, _ => (.nan Num.qnan, noFlags)

/-- |x - y| exactly (R132, R134). -/
def absdNum (rm : Rm) (x y : Num) : Exact × FlagSet :=
  match subNum rm x y with
  | (.val _ m, fl) => (.val false m, fl)
  | (.inf _, fl) => (.inf false, fl)
  | r => r

/-- Compare finite or infinite values: -1, 0 or 1; both zeros are equal. -/
def cmpNum (x y : Num) : Int :=
  let key (n : Num) : Int := match n with
    | .inf s => if s then -2 else 2
    | .fin s m _ => if m = 0 then 0 else if s then -1 else 1
    | .nan _ _ _ => 0
  match x, y with
  | .fin s m e, .fin t n f =>
    if m ≠ 0 ∧ n ≠ 0 ∧ s = t then
      (let lt := ltPow m e n f
       let gt := ltPow n f m e
       if lt then (if s then 1 else -1) else if gt then (if s then -1 else 1) else 0)
    else if key x < key y then -1 else if key y < key x then 1 else 0
  | _, _ => if key x < key y then -1 else if key y < key x then 1 else 0

/-- x is less than y with -0 less than +0 (R134, R151). -/
def lessNum (x y : Num) : Bool :=
  let c := cmpNum x y
  c < 0 || (c == 0 && x.isZero && y.isZero && x.sign && !y.sign)

/-- A value as an exact result. -/
def exactOf (x : Num) : Exact :=
  match x with
  | .nan _ _ _ => nanOf [x]
  | .inf s => .inf s
  | .fin s m e => .val s (dyadic m e)

/-- The lesser or the greater of two values: a NaN operand makes a NaN, otherwise one operand unchanged (R134). -/
def minNum (x y : Num) : Exact × FlagSet :=
  if x.isNan || y.isNan then (nanOf [x, y], sigFlag [x, y])
  else (exactOf (if lessNum y x then y else x), noFlags)
def maxNum (x y : Num) : Exact × FlagSet :=
  if x.isNan || y.isNan then (nanOf [x, y], sigFlag [x, y])
  else (exactOf (if lessNum x y then y else x), noFlags)

/-- Round a value to an integer by the rounding mode: the integer and whether it differs (R146). -/
def roundInt (rm : Rm) (rand : Nat) (s : Bool) (m : Nat) (e : Int) : Int × Bool :=
  let (n, inexact) := roundTo rm rand s (dyadic m e) 0
  (if s then -(n : Int) else n, inexact)

/-- RoundNE into fp32 (R51): nearest even, no saturation; a NaN is canonical. -/
def roundNE (x : Exact) : Num × FlagSet := roundNum ⟨.ne, false, true, 0⟩ specFp32 x

/-! ### Random words (R41) -/

/-- h(seed, idx) (R41). -/
def hashWord (seed idx : Word) : Word :=
  let z := seed + idx * 0x9E3779B97F4A7C15
  let z := (z ^^^ (z >>> 30)) * 0xBF58476D1CE4E5B9
  let z := (z ^^^ (z >>> 27)) * 0x94D049BB133111EB
  z ^^^ (z >>> 31)

/-- RandWord at index `idx` of a seed: the low 32 bits (R41). -/
def randWord (seed idx : Word) : Nat := (hashWord seed idx).toNat % 4294967296

/-! ### Integers (R32, R133) -/

/-- Bring an exact integer into the range of a W-bit type: wrap or saturate, and IOV (R133, R32). -/
def fitInt (signed sat : Bool) (w : Nat) (x : Int) : Nat × FlagSet :=
  let lo : Int := if signed then -(2 ^ (w - 1) : Nat) else 0
  let hi : Int := if signed then (2 ^ (w - 1) : Nat) - 1 else (2 ^ w : Nat) - 1
  if lo ≤ x ∧ x ≤ hi then ((x % (2 ^ w : Nat)).toNat, noFlags)
  else if sat then (((if x < lo then lo else hi) % (2 ^ w : Nat)).toNat, flagIOV)
  else ((x % (2 ^ w : Nat)).toNat, flagIOV)

/-- The integer of a W-bit pattern. -/
def intOf (signed : Bool) (w x : Nat) : Int := if signed ∧ 2 ^ (w - 1) ≤ x then (x : Int) - (2 ^ w : Nat) else x

/-- A float brought to an integer range after rounding: a NaN gives 0 and NV, out of range the nearer bound and NV
(R146). -/
def fitFloat (c : RoundCtx) (signed : Bool) (w : Nat) (x : Num) : Nat × FlagSet :=
  let lo : Int := if signed then -(2 ^ (w - 1) : Nat) else 0
  let hi : Int := if signed then (2 ^ (w - 1) : Nat) - 1 else (2 ^ w : Nat) - 1
  let clip (neg : Bool) : Nat := ((if neg then lo else hi) % (2 ^ w : Nat)).toNat
  match x with
  | .nan _ _ _ => (0, flagNV)
  | .inf s => (clip s, flagNV)
  | .fin s m e =>
    let (n, inexact) := roundInt c.rm c.rand s m e
    if n < lo then (clip true, flagNV)
    else if hi < n then (clip false, flagNV)
    else ((n % (2 ^ w : Nat)).toNat, { noFlags with nx := inexact })

end Sys2Proof.Machine
end

