-- ==== Sys2Proof/Machine/Ploez.lean ====
section
/-!
DEFINITION. Ploez codes (R23 to R36) and E2M1 blocks (R42 to R44). A code is a number whose bit i is the stream's bit i,
with its length.
-/

namespace Sys2Proof.Machine

/-- ZigZag(v) of a signed 64-bit value (R31). -/
def zigzag (v : Int) : Nat := if 0 ≤ v then (2 * v).toNat else (-2 * v - 1).toNat
/-- UnZigZag(z) (R31). -/
def unzigzag (z : Nat) : Int := if z % 2 = 0 then (z / 2 : Nat) else -((z / 2 : Nat) : Int) - 1

/-- The low w bits of x in reverse order: a field laid most-significant bit first (R23). -/
def revBits (x : Nat) : Nat → Nat
  | 0 => 0
  | w + 1 => (x % 2) * 2 ^ w + revBits (x / 2) w

/-- A width of a class table. -/
def widthAt (t : Widths) (c : Nat) : Nat := t.toList.getD c 0

/-- Offset(T, c) (R25). -/
def classOffset (t : Widths) : Nat → Nat
  | 0 => 0
  | c + 1 => classOffset t c + 2 ^ widthAt t c

/-- FOff(c) (R33): the sum starts at class 1. -/
def floatOffset (t : Widths) : Nat → Nat
  | 0 => 0
  | 1 => 0
  | c + 2 => floatOffset t (c + 1) + 2 ^ widthAt t (c + 1)

/-- The lowest class from c on that holds z under an offset function; 7 when none before does. -/
def classFrom (off : Nat → Nat) (t : Widths) (z c : Nat) : Nat → Nat
  | 0 => 7
  | n + 1 => if z < off c + 2 ^ widthAt t c then c else classFrom off t z (c + 1) n

/-- A code: its stream bits from bit 0 up, and its length. -/
structure Code where
  bits : Nat
  len  : Nat
  deriving DecidableEq, Repr

/-- The unary prefix of class c (R24). -/
def prefixCode (c : Nat) : Code := ⟨2 ^ c - 1, if c < 7 then c + 1 else 7⟩

/-- Append a w-bit field, most-significant bit first (R23). -/
def Code.field (k : Code) (x w : Nat) : Code := ⟨k.bits + revBits x w * 2 ^ k.len, k.len + w⟩

/-- EncodePZI(v) (R24, R25, R31). -/
def encodePZI (t : Widths) (v : Int) : Code :=
  let z := zigzag v
  let c := classFrom (classOffset t) t z 0 7
  (prefixCode c).field (z - classOffset t c) (widthAt t c)

/-- Escape(s, X, m) (R34). -/
def escapeCode (p : Nat) (s : Bool) (x m : Nat) : Code :=
  (((prefixCode 7).field (if s then 1 else 0) 1).field x 9).field m p

/-- EncodePZF(y) of a value rounded to P bits (R35). NaNs arrive quietened or canonical. -/
def encodePZF (t : Widths) (p : Nat) (eb : Int) (y : Num) : Code :=
  match y with
  | .nan s pay _ => escapeCode p s 255 ((pay / 2 ^ (23 - p)) % 2 ^ (p - 1) + 2 ^ (p - 1))
  | .inf s => escapeCode p s 255 0
  | .fin s m e =>
    if m = 0 then (if s then escapeCode p true 0 0 else ⟨0, 1⟩)
    else
      let l : Int := (Nat.log2 m : Int) + e
      if l < -126 then escapeCode p s 0 (shiftFloor m (e + 126 + p))
      else
        let mant := shiftFloor m (e - (l - p)) - 2 ^ p
        let zz := zigzag (l - eb)
        if zz < floatOffset t 7 then
          let c := classFrom (floatOffset t) t zz 1 6
          (((prefixCode c).field (if s then 1 else 0) 1).field (zz - floatOffset t c) (widthAt t c)).field mant p
        else escapeCode p s (l + 127).toNat mant

/-! ### Reading a stream -/

/-- Number of one-bits from bit b on, at most n. -/
def prefixOnes (bit : Nat → Bool) (b : Nat) : Nat → Nat
  | 0 => 0
  | n + 1 => if bit b then 1 + prefixOnes bit (b + 1) n else 0

/-- The w-bit field at bit b, most-significant bit first (R23). -/
def readField (bit : Nat → Bool) (b : Nat) : Nat → Nat
  | 0 => 0
  | w + 1 => (if bit b then 2 ^ w else 0) + readField bit (b + 1) w

/-- A coded family with what decodes it: PZI, or PZF with P and the base exponent. -/
structure Coding where
  pzf   : Bool
  p     : Nat
  eb    : Int
  table : Widths
  deriving DecidableEq, Repr

/-- The number of prefix bits of class c (R24). -/
def prefixLen (c : Nat) : Nat := if c < 7 then c + 1 else 7

/-- The length of a code of class c (R24, R33, R34). -/
def codeLen (k : Coding) (c : Nat) : Nat :=
  if k.pzf then (if c = 0 then 1 else if c = 7 then 17 + k.p else c + 2 + widthAt k.table c + k.p)
  else prefixLen c + widthAt k.table c

/-- The class and length of the code at bit b: its prefix alone is read (R129). -/
def delimit (k : Coding) (bit : Nat → Bool) (b : Nat) : Nat × Nat :=
  let c := prefixOnes bit b 7
  (c, codeLen k c)

/-- The value a code decodes to. -/
inductive CodeVal where
  | int (v : Int)
  | num (n : Num)
  | malformed
  deriving DecidableEq, Repr

/-- A PZF value of exponent e and mantissa field m (R33). -/
def pzfNormal (p : Nat) (s : Bool) (e : Int) (m : Nat) : Num := .fin s (2 ^ p + m) (e - p)

/-- Decode the code at bit b (R31, R33, R34, R36). -/
def decodeCode (k : Coding) (bit : Nat → Bool) (b : Nat) : CodeVal :=
  let (c, _) := delimit k bit b
  let at_ := b + prefixLen c
  if k.pzf then
    if c = 0 then .num (.fin false 0 0)
    else
      let s := bit at_
      if c = 7 then
        let x := readField bit (at_ + 1) 9
        let m := readField bit (at_ + 10) k.p
        if 256 ≤ x then .malformed
        else if x = 255 then
          (if m = 0 then .num (.inf s)
           else .num (.nan s (m * 2 ^ (23 - k.p)) (m / 2 ^ (k.p - 1) == 0)))
        else if x = 0 then .num (.fin s m (-126 - k.p))
        else .num (pzfNormal k.p s ((x : Int) - 127) m)
      else
        let w := widthAt k.table c
        let zz := floatOffset k.table c + readField bit (at_ + 1) w
        let m := readField bit (at_ + 1 + w) k.p
        let e := k.eb + unzigzag zz
        if e < -126 ∨ 127 < e then .malformed else .num (pzfNormal k.p s e m)
  else
    let z := classOffset k.table c + readField bit at_ (widthAt k.table c)
    if 2 ^ 64 ≤ z then .malformed else .int (unzigzag z)

/-! ### E2M1 blocks (R42 to R44) -/

/-- Twice the magnitudes of element codes 0 to 7 (R43). -/
def gridTwice : Nat → Nat
  | 0 => 0 | 1 => 1 | 2 => 2 | 3 => 3 | 4 => 4 | 5 => 6 | 6 => 8 | _ => 12

/-- Four times the spare magnitudes S (R43). -/
def spareFour : Nat → Nat
  | 0 => 1 | 1 => 3 | 2 => 20 | 3 => 32 | 4 => 40 | 5 => 48 | 6 => 64 | _ => 96

/-- The scale of a header with E from 0 to 254 as m x 2^e (R43). -/
def blockScale (e m : Nat) : Nat × Int := if e = 0 then (m, -130) else (16 + m, (e : Int) - 131)

/-- Element j of an 80-bit block, exactly (R43). -/
def blockElem (x : Nat) (j : Nat) : Num :=
  let e := x / 16 % 256
  let m := x % 16
  if e = 255 then Num.qnan
  else if e = 0 ∧ m = 0 then .fin false 0 0
  else
    let (sm, se) := blockScale e m
    let code := x / 2 ^ (16 + 4 * j) % 16
    if code = 0 then .fin false 0 0
    else if code = 8 then .fin (x / 32768 % 2 == 1) (spareFour (x / 4096 % 8) * sm) (se - 2)
    else .fin (code / 8 == 1) (gridTwice (code % 8) * sm) (se - 1)

/-- A decoded element limited to the fp32 range: beyond it an infinity and OF (R43). -/
def blockFp32 (n : Num) : Num × FlagSet :=
  match n with
  | .fin s m e => if ltPow specFp32.maxM specFp32.maxE m e then (.inf s, flagOF) else (n, noFlags)
  | _ => (n, noFlags)

/-- The smallest header (E, M) whose scale is at least num / den x 2^e, from a starting E; none when none is. -/
def scaleSearch (num den : Nat) (e : Int) (ee : Nat) : Nat → Option (Nat × Nat)
  | 0 => none
  | n + 1 =>
    let fits (mm : Nat) : Bool :=
      let (sm, se) := blockScale ee mm
      -- num / den x 2^e <= sm x 2^se
      !(ltPow (sm * den) se num e)
    match (List.range 16).find? (fun mm => !(ee = 0 && mm = 0) && fits mm) with
    | some mm => some (ee, mm)
    | none => scaleSearch num den e (ee + 1) n

/-- Where the search starts: the exponent of the value, with room below. -/
def scaleStart (num den : Nat) (e : Int) : Nat :=
  let l : Int := (Nat.log2 (num / den + 1) : Int) + e - (if num < den then (Nat.log2 den : Int) + 1 else 0)
  (l + 125).toNat

/-- RoundToGrid of a / b onto 0, 0.5, 1, 1.5, 2, 3, 4, 6 by R40: the code 0 to 7. A value above 6 becomes 6 (R44). -/
def gridRound (rm : Rm) (rand : Nat) (a b : Nat) : Nat :=
  -- a / b compared with gridTwice c / 2
  let le (c : Nat) : Bool := gridTwice c * b ≤ 2 * a
  let lo := (List.range 8).foldl (fun best c => if le c then c else best) 0
  if lo = 7 then 7
  else if gridTwice lo * b = 2 * a then lo
  else
    let lo2 := gridTwice lo
    let gap := gridTwice (lo + 1) - lo2
    let num := 2 * a - lo2 * b
    let den := gap * b
    let up : Bool :=
      match rm with
      | .ne => den < 2 * num || (2 * num == den && lo % 2 == 1)
      | .tz => false
      | .dn => false
      | .up => true
      | .sr => 2 ^ 32 ≤ num * 2 ^ 32 / den + rand
    if up then lo + 1 else lo

/-- A magnitude ratio |x| / scale as a fraction. -/
def ratio (m : Nat) (e : Int) (sm : Nat) (se : Int) : Nat × Nat :=
  if se ≤ e then (m * 2 ^ (e - se).toNat, sm) else (m, sm * 2 ^ (se - e).toNat)

/-- Index of the S entry nearest a / b, ties to the lower index (R44). -/
def spareNearest (a b : Nat) : Nat :=
  let dist (i : Nat) : Nat := let d : Int := (4 * a : Nat) - (spareFour i * b : Nat); d.natAbs
  (List.range 8).foldl (fun best i => if dist i < dist best then i else best) 0

/-- The magnitude of a finite value. -/
def magOf (n : Num) : Nat × Int := match n with
  | .fin _ m e => (m, e)
  | _ => (0, 0)

/-- Index of the greatest magnitude, lowest first (R44); `skip` is left out. -/
def maxMag (xs : List Num) (skip : Option Nat) : Nat :=
  ((List.range xs.length).foldl (fun (best : Option Nat) j =>
    if skip = some j then best
    else match best with
      | none => some j
      | some b =>
        let (mb, eb) := magOf (xs.getD b (.fin false 0 0))
        let (mj, ej) := magOf (xs.getD j (.fin false 0 0))
        if ltPow mb eb mj ej then some j else some b) none).getD 0

/-- Quantise(x, i0) (R44): the 80-bit block and its flags; `rand j` is the element's random word. A decoded element differs
from its input when their values do: +0 from an input of -0 sets no NX. DESIGN CHOICE, log 64. -/
def quantise (rm : Rm) (rand : Nat → Nat) (xs : List Num) : Nat × FlagSet :=
  let isBad (n : Num) : Bool := match n with
    | .fin _ _ _ => false
    | _ => true
  if xs.any isBad then (255 * 16, flagNV)
  else
    let at_ (j : Nat) : Num := xs.getD j (.fin false 0 0)
    let k := maxMag xs none
    let q0 := magOf (at_ (maxMag xs (some k)))
    let (qm, qe) := if q0.1 = 0 then magOf (at_ k) else q0
    if qm = 0 then (0, noFlags)
    else
      let found := scaleSearch qm 6 qe (scaleStart qm 6 qe) 256
      let (hdr, clamped) : (Nat × Nat) × Bool := match found with
        | some (e, m) => if 254 < e then ((254, 15), true) else ((e, m), false)
        | none => ((254, 15), true)
      let (sm, se) := blockScale hdr.1 hdr.2
      let (km, ke) := magOf (at_ k)
      let useSpare := ltPow (6 * sm) se km ke
      let (ka, kb) := ratio km ke sm se
      let spare : Nat := if useSpare then (if (at_ k).sign then 8 else 0) + spareNearest ka kb else 0
      let code (j : Nat) : Nat :=
        if useSpare && j == k then 8
        else
          let (m, e) := magOf (at_ j)
          let (a, b) := ratio m e sm se
          let c := gridRound rm (rand j) a b
          if c = 0 then 0 else (if (at_ j).sign then 8 else 0) + c
      let block := hdr.2 + hdr.1 * 16 + spare * 4096 +
        ((List.range 16).foldl (fun acc j => acc + code j * 2 ^ (16 + 4 * j)) 0)
      let same (j : Nat) : Bool := cmpNum (blockElem block j) (at_ j) == 0
      let nx := !((List.range 16).all same)
      (block, { noFlags with ovf := clamped, nx := nx })

end Sys2Proof.Machine
end

