-- ==== Sys2Proof/Machine/VecCore.lean ====
section
/-!
DEFINITION. What every vector instruction shares (R103, R106, R114, R115, R127 to R130): groups, element types, sources,
the element loop, results and their encoding, and what is written at the stop.
-/

namespace Sys2Proof.Machine

/-! ### Groups (R59, R106) -/

/-- Bits of one register of the current core (R8, R336). -/
def vregBits (gang : Nat) : Nat := 8192 * gang

/-- The bits of the group of `g` registers from `v` on. -/
def groupBits (m : Seq) (gang v : Nat) : Nat → Nat
  | 0 => 0
  | g + 1 => groupBits m gang v g +
      ((m.vregs.toList.getD (v + g) VReg.reset).bits.toNat % 2 ^ vregBits gang) * 2 ^ (vregBits gang * g)

/-- The marked bytes of a group, counted from its first byte (R315). -/
def groupMarks (m : Seq) (gang v : Nat) : Nat → List Nat
  | 0 => []
  | g + 1 => groupMarks m gang v g ++
      (m.vregs.toList.getD (v + g) VReg.reset).marks.map (· + 1024 * gang * g)

/-- Replace register `v`. -/
def Seq.setV (m : Seq) (v : Nat) (x : VReg) : Seq :=
  if h : v < 32 then { m with vregs := m.vregs.set v x h } else m

/-- Write a group: its bits, and the fill count and length of its lowest register (R8, R106). Every element is written,
so every mark is cleared (R315). -/
def writeGroup (m : Seq) (gang v : Nat) (bits count len : Nat) : Nat → Seq
  | 0 => m
  | g + 1 =>
    let m := writeGroup m gang v bits count len g
    let old := m.vregs.toList.getD (v + g) VReg.reset
    m.setV (v + g)
      ⟨BitVec.ofNat 32768 (bits / 2 ^ (vregBits gang * g) % 2 ^ vregBits gang),
       if g = 0 then count else old.count, if g = 0 then len else old.len, []⟩

/-- Fill count and length of the group at a register. -/
def fillCount (m : Seq) (v : Nat) : Nat := (m.vregs.toList.getD v VReg.reset).count
def fillLen (m : Seq) (v : Nat) : Nat := (m.vregs.toList.getD v VReg.reset).len

/-! ### How elements of a type are laid out and read (R103, R128) -/

/-- The layout of an element: a plain format, or a code. -/
inductive Layout where
  | plain (f : Fmt)
  | code (k : Coding)
  deriving DecidableEq, Repr

/-- The active class table of a family (R26, R28). -/
def State.tableOf (s : State) (n : Nat) : Widths :=
  (s.upperAt (upperOf s.cur)).active.toList.getD n (Vector.replicate 8 0)

/-- A coding of a family under a base exponent and table choice (R26). -/
def State.coding (s : State) (fam : Fam) (eb : Int) (ct : Bool) : Layout :=
  match fam with
  | .plain f => .plain f
  | .pzi => .code ⟨false, 0, 0, s.tableOf (if ct then 1 else 0)⟩
  | .pzf p => .code ⟨true, p, eb, s.tableOf (if ct then 3 else 2)⟩

/-- The layout that a type selects. -/
def State.layout (s : State) (t : VType) : Layout := s.coding t.fam t.eb t.ct

/-- A vector source: bits, bits that the group has, fill count, marked bytes, layout, and what names the free values
beyond the group's end. -/
structure Src where
  bits  : Nat
  cap   : Nat
  count : Nat
  marks : List Nat
  lay   : Layout
  stamp : Nat
  deriving DecidableEq, Repr

/-- The group of `g` registers at `v`, read under a layout. -/
def State.srcOf (s : State) (lay : Layout) (g v : Nat) : Src :=
  ⟨groupBits s.me s.gang v g, vregBits s.gang * g, fillCount s.me v, groupMarks s.me s.gang v g, lay,
    4096 * s.clock + s.cur⟩

/-- Bit i of the group. A fill count written under another type may reach past the group's end, where the manual gives
no bits: free values. Log 7. -/
def Src.bit (x : Src) (i : Nat) : Bool := if i < x.cap then x.bits.testBit i else Config.beyondGroup x.stamp i

/-- The `n` bits from bit b on. -/
def Src.bitsFrom (x : Src) (b : Nat) : Nat → Nat
  | 0 => 0
  | n + 1 => x.bitsFrom b n + (if x.bit (b + n) then 2 ^ n else 0)

/-- The `n` bits from bit b on, by a shift where all lie in the group. -/
def Src.span (x : Src) (b n : Nat) : Nat := if b + n ≤ x.cap then x.bits / 2 ^ b % 2 ^ n else x.bitsFrom b n

/-- The start of code n of a stream: its prefixes alone are read. -/
def codeStart (k : Coding) (bit : Nat → Bool) : Nat → Nat
  | 0 => 0
  | n + 1 => codeStart k bit n + (delimit k bit (codeStart k bit n)).2

/-- The first bit of element n. -/
def Src.start (x : Src) (n : Nat) : Nat :=
  match x.lay with
  | .plain f => f.width * n
  | .code k => codeStart k x.bit n

/-- The length of element n. -/
def Src.size (x : Src) (n : Nat) : Nat :=
  match x.lay with
  | .plain f => f.width
  | .code k => (delimit k x.bit (x.start n)).2

/-- The bits of element n, exactly. -/
def Src.raw (x : Src) (n : Nat) : Nat := x.span (x.start n) (x.size n)

/-- Whether element n has a marked byte (R315). -/
def Src.marked (x : Src) (n : Nat) : Bool :=
  x.marks.any (fun b => x.start n / 8 ≤ b && 8 * b < x.start n + x.size n)

/-- An element's value: an exact integer or a float. -/
inductive Val where
  | int (v : Int)
  | num (n : Num)
  deriving DecidableEq, Repr

/-- The value of a plain element's bits. -/
def plainVal (f : Fmt) (x : Nat) : Val :=
  if f.isInt then .int (intOf f.isSigned f.width x) else .num (decodeFloat f x)

/-- The value of element n, or a trap: uncorrectable data (R316) or a malformed code (R129). -/
def Src.val (x : Src) (n : Nat) : Except Trap Val :=
  match x.lay with
  | .plain f => .ok (plainVal f (x.raw n))
  | .code k =>
    match decodeCode k x.bit (x.start n) with
    | .int v => .ok (.int v)
    | .num v => .ok (.num v)
    | .malformed => .error ⟨Cause.malformed, n, x.start n, none⟩

/-- What forming an element answers: written, no room for it, or a trap. -/
inductive Formed (σ : Type) where
  | put (x : σ)
  | full
  | trap (t : Trap)

/-- What copying element j of a source into element n answers, given how its bits fit: a malformed code of an element before the
stop traps (R129), and one at the stop is never checked. -/
def Src.copied {σ : Type} (x : Src) (j n : Nat) (fit : Formed σ) : Formed σ :=
  match fit with
  | .put o =>
    match x.val j with
    | .ok _ => .put o
    | .error t => .trap { t with elem := n }
  | r => r

/-- The trap of a marked element: TRAPADDR 0 for register state (R316). -/
def regPoison (n : Nat) : Trap := ⟨Cause.uncorrectable, n, 0, none⟩

/-- Element n is read in any case (R128 step 1): a marked one traps. -/
def Src.check (x : Src) (n : Nat) : Except Trap Unit :=
  if x.marked n then .error (regPoison n) else .ok ()

/-! ### The element loop (R114) -/

/-- The mask of a mask3 field: none is unmasked (R58). -/
def State.maskOf (s : State) (m : Mask3) : Option (BitVec 4096) :=
  if m.val = 0 then none else some (s.me.masks.get m)

/-- Active(n) (R58). A masked element at or above 4,096 is inactive. DEDUCED, log 21. -/
def activeAt (mask : Option (BitVec 4096)) (n : Nat) : Bool :=
  match mask with
  | none => true
  | some b => b.getLsbD n

/-- One past the highest active element below a limit; 0 when there is none. -/
def lastActive (mask : Option (BitVec 4096)) : Nat → Nat
  | 0 => 0
  | n + 1 => if activeAt mask n then n + 1 else lastActive mask n

/-- Stop reasons (R114). -/
def gsComplete : Nat := 0
def gsFull : Nat := 1
def gsSource : Nat := 2
def gsGrant : Nat := 3
def gsMask : Nat := 4

/-- ElementLoop (R114) from element n: the final n, the stop reason and what was formed. `lims` are the source fill
counts and count limits; `last` is one past the last active element below the limit. -/
def loopFrom {σ : Type} (L : Nat) (lims : List Nat) (masked : Bool) (last : Nat) (form : Nat → σ → Formed σ) :
    Nat → Nat → σ → Except Trap (Nat × Nat × σ)
  | 0, n, x => .ok (n, gsGrant, x)
  | fuel + 1, n, x =>
    if n = L ∧ lims.all (· ≤ n) then .ok (n, gsComplete, x)
    else if n = L then .ok (n, gsGrant, x)
    else if lims.any (· ≤ n) then .ok (n, gsSource, x)
    else if masked && last ≤ n then .ok (n, gsMask, x)
    else
      match form n x with
      | .put y => loopFrom L lims masked last form fuel (n + 1) y
      | .full => .ok (n, gsFull, x)
      | .trap t => .error t

/-- ElementLoop (R114). -/
def elemLoop {σ : Type} (L : Nat) (lims : List Nat) (mask : Option (BitVec 4096)) (form : Nat → σ → Formed σ) (x : σ) :
    Except Trap (Nat × Nat × σ) :=
  loopFrom L lims mask.isSome (lastActive mask (lims.foldl min L)) form (L + 1) 0 x

/-- The lowest marked element of mask register k below a limit (R315). -/
def Seq.maskMark (m : Seq) (k lim : Nat) : Option Nat :=
  (m.mmarks.find? (fun x => x / 4096 == k && x % 4096 < lim)).map (· % 4096)

/-- A governing mask is read whole (R259): a marked element traps (R315, R316). -/
def State.maskCheck (s : State) (m : Mask3) : Except Trap Unit :=
  match s.me.maskMark m.val 4096 with
  | none => .ok ()
  | some n => if m.val = 0 then .ok () else .error (regPoison n)

/-! ### Results -/

/-- A destination group being formed: bits, bits used, flags raised. -/
structure Out where
  bits  : Nat
  used  : Nat
  flags : FlagSet
  deriving DecidableEq, Repr

/-- Nothing formed yet. -/
def Out.zero : Out := ⟨0, 0, noFlags⟩

/-- Append the `len` bits of an element. -/
def Out.push (o : Out) (x len : Nat) (fl : FlagSet) : Out :=
  ⟨o.bits + x % 2 ^ len * 2 ^ o.used, o.used + len, o.flags.join fl⟩

/-- Append an element unless the budget is exceeded (R128 step 4); plain groups are never full before L. -/
def Out.fit (o : Out) (lay : Layout) (budget x len : Nat) (fl : FlagSet) : Formed Out :=
  match lay with
  | .plain _ => .put (o.push x len fl)
  | .code _ => if budget < o.used + len then .full else .put (o.push x len fl)

/-- The exact result of an operation, before rounding: an integer, W-bit pattern bits that raise no flag, or a float. -/
inductive Result where
  | int (v : Int)
  | num (x : Exact) (fl : FlagSet)
  deriving DecidableEq, Repr

/-- The rounding of an element (R40, R41): type's mode, DET, RandWord(n). -/
def State.roundCtx (s : State) (t : VType) (n : Nat) : RoundCtx :=
  ⟨t.rm, t.sat, s.me.ctl.det.getLsbD 0, randWord s.me.ctl.sdseed (s.me.ctl.sbase + BitVec.ofNat 64 n)⟩

/-- Round a result to a layout and encode it (R128, R133, R32, R35): bits, length, flags. -/
def encodeResult (c : RoundCtx) (lay : Layout) (r : Result) : Nat × Nat × FlagSet :=
  match lay, r with
  | .plain f, .int v =>
    if f.isInt then let (x, fl) := fitInt f.isSigned c.sat f.width v; (x, f.width, fl)
    else
      let (n, fl) := roundNum c f.spec (.val (v < 0) (dyadic v.natAbs 0))
      (encodeFloat f n, f.width, fl)
  | .plain f, .num x fl =>
    if f.isInt then
      let (n, fl') := fitFloat c f.isSigned f.width (match x with
        | .nan n => n
        | .inf s => .inf s
        | .val s m => .fin s m.q m.e)
      (n, f.width, fl.join fl')
    else
      let (n, fl') := roundNum c f.spec x
      (encodeFloat f n, f.width, fl.join fl')
  | .code k, .int v =>
    if k.pzf then
      let (n, fl) := roundNum c (specPzf k.p) (.val (v < 0) (dyadic v.natAbs 0))
      let e := encodePZF k.table k.p k.eb n
      (e.bits, e.len, fl)
    else
      let (x, fl) := fitInt true c.sat 64 v
      let e := encodePZI k.table (intOf true 64 x)
      (e.bits, e.len, fl)
  | .code k, .num x fl =>
    if k.pzf then
      let (n, fl') := roundNum c (specPzf k.p) x
      let e := encodePZF k.table k.p k.eb n
      (e.bits, e.len, fl.join fl')
    else
      let (n, fl') := fitFloat c true 64 (match x with
        | .nan n => n
        | .inf s => .inf s
        | .val s m => .fin s m.q m.e)
      let e := encodePZI k.table (intOf true 64 n)
      (e.bits, e.len, fl.join fl')

/-- The +0 of a layout: zero bits of a plain element, the code of 0 otherwise (R128 step 3). Under a custom table whose T[0] is
not 2, EncodePZI(0) is no 3-bit code 0b000; the model writes the code of 0 under the sampled table. DESIGN CHOICE, log 64. -/
def zeroBits (lay : Layout) : Nat × Nat :=
  match lay with
  | .plain f => (0, f.width)
  | .code k => if k.pzf then (0, 1) else let e := encodePZI k.table 0; (e.bits, e.len)

/-- The +0 of a layout as an element's value. -/
def zeroVal (lay : Layout) : Val :=
  match lay with
  | .plain f => if f.isInt then .int 0 else .num (.fin false 0 0)
  | .code k => if k.pzf then .num (.fin false 0 0) else .int 0

/-! ### Type classes (R127) -/

/-- Classes of R127. -/
inductive Class where
  | arith | integer | float | movable | fp32 | block | mask
  deriving DecidableEq, Repr

/-- Whether a type belongs to a class. -/
def Class.has (c : Class) (t : VType) : Bool :=
  match c, t.fam with
  | .arith, .plain f => f != .eb
  | .arith, _ => true
  | .integer, .plain f => f.isInt
  | .integer, .pzi => true
  | .integer, .pzf _ => false
  | .float, .plain f => f.isFloat
  | .float, .pzi => false
  | .float, .pzf _ => true
  | .movable, .plain f => f != .eb
  | .movable, _ => true
  | .fp32, .plain f => f == .fp32
  | .fp32, _ => false
  | .block, .plain f => f == .eb
  | .block, _ => false
  | .mask, _ => true

/-- The sampled type; a word of majors 0x22 to 0x31 reaches its own checks with a valid one (R62 step 4). -/
def State.typeOr (s : State) : VType := s.me.vt.getD ⟨.plain .i8, 1, 0, 0, false, .ne, false⟩

/-- L of R114. -/
def State.grantLen (s : State) (t : VType) : Nat := min s.me.grant.gl.toNat (t.emax s.gang)

/-! ### What is written at the stop (R115, R130) -/

/-- The counts reported at a stop. -/
structure Report where
  gk : Nat
  gp : Nat
  ga : Nat
  gb : Nat
  gd : Nat
  gs : Nat
  deriving DecidableEq, Repr

/-- Write the grant file; `gl` is not written (R115). -/
def State.report (s : State) (r : Report) : State :=
  s.setGrant { s.me.grant with
    gk := BitVec.ofNat 64 r.gk, gp := BitVec.ofNat 64 r.gp, ga := BitVec.ofNat 64 r.ga,
    gb := BitVec.ofNat 64 r.gb, gd := BitVec.ofNat 64 r.gd, gs := BitVec.ofNat 3 r.gs }

/-- Write a destination group, flags and the grant file. -/
def State.finish (s : State) (g d : Nat) (o : Out) (count : Nat) (r : Report) : State :=
  ((s.setMe (writeGroup s.me s.gang d o.bits count o.used g)).raise o.flags).report r

/-- Write a mask register whole: its marks are cleared (R315), and none of its bits is an engine command's any more (R259). -/
def State.writeMask (s : State) (k : Nat) (b : BitVec 4096) : State :=
  if h : k < 8 then
    s.setMe { s.me with
      masks := s.me.masks.set k b h
      mmarks := s.me.mmarks.filter (· / 4096 != k)
      marked := s.me.marked.filter (· / 4096 != k) }
  else s

/-- A word of the vector chapter: its class is checked first of step 7 (R127), a marked governing mask next. -/
def classed (c : Class) (m : Mask3) (body : VType → State → Res) (s : State) : Res :=
  let t := s.typeOr
  if !c.has t then .trap (Trap.plain Cause.illegalType) s
  else
    match s.maskCheck m with
    | .error e => .trap e s
    | .ok () => body t s

end Sys2Proof.Machine
end

