-- ==== Sys2Proof/Machine/VecMem.lean ====
section
/-!
DEFINITION. Majors 0x23 to 0x25: plain vector loads and stores (R120 to R125).
-/

namespace Sys2Proof.Machine

/-! ### Types and addresses (R120, R121, R124) -/

/-- The plain format of a vector memory word, or illegal type: coded families have none; eb is apart (R121). -/
def plainFmt (t : VType) : Option Fmt :=
  match t.fam with
  | .plain f => if f = .eb then none else some f
  | _ => none

/-- IG (R124): registers of an index group. EMAX is that of gang width 1. DEDUCED, log 22. -/
def indexRegs (t : VType) : Nat :=
  let n := (t.emax 1 + 255) / 256
  if n ≤ 1 then 1 else if n ≤ 2 then 2 else if n ≤ 4 then 4 else if n ≤ 8 then 8 else 16

/-- The register-group condition of an indexed form (R124). -/
def indexOk (v : Reg) (t : VType) : Bool := v.val % indexRegs t == 0

/-- The index group as signed i32 elements (R124). -/
def State.indexSrc (s : State) (t : VType) (v : Reg) : Src := s.srcOf (.plain .i32) (indexRegs t) v.val

/-- Index(i): the sign-extended byte offset (R124). -/
def Src.index (x : Src) (i : Nat) : Word := BitVec.ofInt 64 (intOf true 32 (x.raw i))

/-- The trap of element i at an effective address (R122). -/
def elemTrap (e : Miss) (i : Nat) (ea : Word) : Trap := e.trap i ea.toNat

/-- How the address of an element is found: by element number, at one address, by position among active elements, or
by an index group (R120). -/
inductive Form where
  | stride (step : Word)
  | once
  | packed
  | index (x : Src)
  deriving DecidableEq, Repr

/-- The address of element i, the k-th active one, of size `sz` (R120). -/
def Form.addr (f : Form) (a : Word) (sz i k : Nat) : Word :=
  match f with
  | .stride st => a + BitVec.ofNat 64 i * st
  | .once => a
  | .packed => a + BitVec.ofNat 64 (k * sz)
  | .index x => a + x.index i

/-- A unit-stride load without a mask is single-copy atomic by sector (R256). -/
def Form.bySector (f : Form) (sz : Nat) (mask : Option (BitVec 4096)) : Bool :=
  f == .stride (BitVec.ofNat 64 sz) && mask.isNone

/-- The fill count that an index group adds as a limit, and whether its element n is marked. -/
def Form.lims (f : Form) : List Nat :=
  match f with
  | .index x => [x.count]
  | _ => []
def Form.check (f : Form) (n : Nat) : Except Trap Unit :=
  match f with
  | .index x => x.check n
  | _ => .ok ()
/-- The element that an early load serves: `vldb` makes one access for all its elements (R120, R123). -/
def Form.key (f : Form) (n : Nat) : Nat :=
  match f with
  | .once => 0
  | _ => n
/-- Index bits consumed (R123). -/
def Form.gb (f : Form) (n : Nat) : Nat :=
  match f with
  | .index _ => 32 * n
  | _ => 0

/-! ### Loads -/

/-- One element of a load: the access checks of R122, marked data (R316), the value; an inactive element is 0. `whole` says that
the load is single-copy atomic by sector. -/
def State.loadElem (s : State) (fm : Form) (a : Word) (f : Fmt) (whole : Bool) (mask : Option (BitVec 4096)) (n : Nat)
    (x : Out × Nat) : Formed (Out × Nat) :=
  let sz := f.width / 8
  if !activeAt mask n then .put (x.1.push 0 f.width noFlags, x.2)
  else
    match fm.check n with
    | .error e => .trap e
    | .ok () =>
      let ea := fm.addr a sz n x.2
      match s.checkAccess s.ctx .load ea.toNat sz with
      | .error e => .trap (elemTrap e n ea)
      | .ok loc =>
        if if whole then s.sectorBad loc sz else s.loadBad loc sz (fm.key n) then .trap ⟨Cause.uncorrectable, n, 8 * ea.toNat, none⟩
        else .put (x.1.push (if whole then s.sectorNat loc sz else s.loadNat loc sz (fm.key n)) f.width noFlags, x.2 + 1)

/-- The accesses of a load's active elements below n; `whole` says that it is single-copy atomic by sector. -/
def State.elemAccesses (s : State) (fm : Form) (a : Word) (sz : Nat) (whole : Bool) (mask : Option (BitVec 4096)) (n : Nat) :
    List Access :=
  (List.range n).filterMap (fun i =>
    if activeAt mask i then
      match s.resolve s.ctx .load (fm.addr a sz i 0).toNat with
      | .ok loc => some (if whole then s.sectorAccess loc sz else ⟨loc, sz, s.me.earlyAt loc sz (fm.key i)⟩)
      | .error _ => none
    else none)
/-- Of the loads performed ahead, those that the elements of an ordered form may take, from element n on: each of an element was
performed after the one of the element before it, and none follows an element that has none (R258). `rest` are those performed
since, the newest first. -/
def State.ascending (s : State) (fm : Form) (a : Word) (sz : Nat) (mask : Option (BitVec 4096)) (rest : List Early) (n : Nat) :
    Nat → List Early
  | 0 => []
  | k + 1 =>
    if activeAt mask n then
      match s.resolve s.ctx .load (fm.addr a sz n 0).toNat with
      | .error _ => []
      | .ok loc =>
        match rest.find? (fun e => e.loc == loc && e.size == sz && e.elem == n) with
        | none => []
        | some e => e :: s.ascending fm a sz mask (rest.takeWhile (· != e)) (n + 1) k
    else s.ascending fm a sz mask rest (n + 1) k

/-- The state in which an ordered form reads its `n` elements: it takes no other load performed ahead. -/
def State.inOrder (s : State) (fm : Form) (a : Word) (sz : Nat) (mask : Option (BitVec 4096)) (n : Nat) : State :=
  if s.me.early.isEmpty then s else s.setMe { s.me with early := s.ascending fm a sz mask s.me.early 0 n }

/-- A plain load of every form (R122, R123); `asc` tells the ordered ones (R120, R258). -/
def loadVec (asc : Bool) (fm : VType → State → Form) (d a : Reg) (m : Mask3) (s : State) : Res :=
  let t := s.typeOr
  match plainFmt t with
  | none => .trap (Trap.plain Cause.illegalType) s
  | some f =>
    match s.maskCheck m with
    | .error e => .trap e s
    | .ok () =>
      let fm := fm t s
      let v := if asc then s.inOrder fm (s.sreg a) (f.width / 8) (s.maskOf m) (s.grantLen t) else s
      let whole := !asc && fm.bySector (f.width / 8) (s.maskOf m)
      match elemLoop (s.grantLen t) fm.lims (s.maskOf m) (v.loadElem fm (s.sreg a) f whole (s.maskOf m)) (Out.zero, 0) with
      | .error e => .trap e s
      | .ok (n, gs, o, k) =>
        let ga := match fm with
          | .once => if k = 0 then 0 else f.width
          | _ => f.width * k
        .done .seq ((s.finish t.g d.val o n ⟨n, n, ga, fm.gb n, o.used, gs⟩).loaded
          (v.elemAccesses fm (s.sreg a) (f.width / 8) whole (s.maskOf m) n))

/-! ### eb blocks (R121) -/

/-- Blocks that hold `n` elements. -/
def blocksFor (n : Nat) : Nat := (n + 15) / 16

/-- Check the bytes of a 10-byte block: alignment 2, then both ends. -/
def State.blockCheck (s : State) (acc : Acc) (ea : Word) : Except Miss Unit :=
  match s.checkAccess s.ctx acc ea.toNat 2 with
  | .error e => .error e
  | .ok _ =>
    match s.checkAccess s.ctx acc (ea.toNat + 9) 1 with
    | .error e => .error e
    | .ok _ => .ok ()

/-- `n` bytes from an address, resolved byte by byte: their value, and whether one is marked. The load is single-copy atomic by
sector (R256). -/
def State.blockBytes (s : State) (va : Nat) : Nat → Nat × Bool
  | 0 => (0, false)
  | n + 1 =>
    let (v, bad) := s.blockBytes (va + 1) n
    match s.resolve s.ctx .load va with
    | .error _ => (256 * v, bad)
    | .ok loc => (s.sectorNat loc 1 + 256 * v, bad || s.sectorBad loc 1)

/-- Load `n` blocks from block j on. -/
def State.loadBlocks (s : State) (a : Word) (j : Nat) (o : Out) : Nat → Except Trap Out
  | 0 => .ok o
  | n + 1 =>
    let ea := a + BitVec.ofNat 64 (10 * j)
    match s.blockCheck .load ea with
    | .error e => .error (elemTrap e (16 * j) ea)
    | .ok () =>
      let (v, bad) := s.blockBytes ea.toNat 10
      if bad then .error ⟨Cause.uncorrectable, 16 * j, 8 * ea.toNat, none⟩
      else s.loadBlocks a (j + 1) (o.push v 80 noFlags) n

/-- `vld` under eb. -/
def loadEb (t : VType) (d a : Reg) (s : State) : Res :=
  match elemLoop (s.grantLen t) [] none (fun _ x => .put x) () with
  | .error e => .trap e s
  | .ok (n, gs, _) =>
    match s.loadBlocks (s.sreg a) 0 Out.zero (blocksFor n) with
    | .error e => .trap e s
    | .ok o =>
      .done .seq ((s.finish t.g d.val o n ⟨n, n, o.used, 0, o.used, gs⟩).loadedFrom (s.sectorAccess · 1) (s.sreg a).toNat (10 * blocksFor n))

/-! ### Stores -/

/-- Put `n` bytes from an address into a sector map, resolved byte by byte. -/
def State.putBytes (s : State) (buf : SMap BufSector) (va v : Nat) : Nat → SMap BufSector
  | 0 => buf
  | n + 1 =>
    let buf' := match s.resolve s.ctx .store va with
      | .error _ => buf
      | .ok loc => bufByte buf va loc (BitVec.ofNat 8 v)
    s.putBytes buf' (va + 1) (v / 256) n

/-- One element of a store: the access checks of R122, then room in the store buffer (R109), then the marks of its
bytes, an order that the manual leaves open. DESIGN CHOICE, log 69. -/
def State.storeElem (s : State) (fm : Form) (a : Word) (x : Src) (f : Fmt) (mask : Option (BitVec 4096)) (n : Nat)
    (st : SMap BufSector × Nat) : Formed (SMap BufSector × Nat) :=
  let sz := f.width / 8
  if !activeAt mask n then .put st
  else
    match fm.check n with
    | .error e => .trap e
    | .ok () =>
      let ea := fm.addr a sz n st.2
      match s.checkAccess s.ctx .store ea.toNat sz with
      | .error e => .trap (elemTrap e n ea)
      | .ok loc =>
        if s.bufferFull st.1 (loc / 32) then .trap ⟨Cause.stripOverflow, n, 8 * ea.toNat, none⟩
        else
          match x.check n with
          | .error e => .trap e
          | .ok () => .put (bufNat st.1 ea.toNat loc sz (x.raw n), st.2 + 1)

/-- The accesses of a store's active elements below n, in order of the elements (R255). -/
def State.elemParts (s : State) (fm : Form) (a : Word) (sz : Nat) (mask : Option (BitVec 4096)) (n : Nat) : List (Nat × BitVec 32) :=
  (((List.range n).filter (activeAt mask)).zipIdx).filterMap (fun x =>
    match s.resolve s.ctx .store (fm.addr a sz x.1 x.2).toNat with
    | .ok loc => some (loc / 32, BitVec.ofNat 32 (2 ^ sz - 1) <<< (loc % 32))
    | .error _ => none)

/-- Perform a vector store of n elements: a unit-stride `vst` without a mask is contiguous, any other store is one of its elements,
which `vsto`, `vstso` and `vstxo` order (`asc`, R256, R258). -/
def State.storeElems (s : State) (asc : Bool) (fm : Form) (a : Word) (sz : Nat) (mask : Option (BitVec 4096)) (n : Nat)
    (b : SMap BufSector) : State :=
  if !asc && fm.bySector sz mask then s.storeRow b else s.storeAs ⟨asc, s.elemParts fm a sz mask n⟩ b

/-- A plain store of every form (R122, R123): the highest-indexed element wins each byte (R110, R125); `asc` tells the ordered ones
(R120, R258). -/
def storeVec (asc : Bool) (fm : VType → State → Form) (d a : Reg) (m : Mask3) (s : State) : Res :=
  let t := s.typeOr
  match plainFmt t with
  | none => .trap (Trap.plain Cause.illegalType) s
  | some f =>
    match s.maskCheck m with
    | .error e => .trap e s
    | .ok () =>
      let fm := fm t s
      let x := s.srcOf (.plain f) t.g d.val
      match elemLoop (s.grantLen t) (x.count :: fm.lims) (s.maskOf m)
          (s.storeElem fm (s.sreg a) x f (s.maskOf m)) ([], 0) with
      | .error e => .trap e s
      | .ok (n, gs, buf, k) =>
        let gp := match fm with
          | .packed => k
          | _ => n
        .done .seq ((s.storeElems asc fm (s.sreg a) (f.width / 8) (s.maskOf m) n buf).report
          ⟨n, gp, f.width * n, fm.gb n, f.width * k, gs⟩)

/-- Store `n` blocks from block j on: checks in ascending order, then the bytes. -/
def State.storeBlocks (s : State) (a : Word) (x : Src) (j : Nat) (buf : SMap BufSector) : Nat →
    Except Trap (SMap BufSector)
  | 0 => .ok buf
  | n + 1 =>
    let ea := a + BitVec.ofNat 64 (10 * j)
    match s.blockCheck .store ea with
    | .error e => .error (elemTrap e (16 * j) ea)
    | .ok () =>
      let new := s.putBytes buf ea.toNat (x.bits / 2 ^ (80 * j) % 2 ^ 80) 10
      let tooMany := match s.me.strip with
        | none => false
        | some st => Config.bufferSectors < (bufMerge st.buf new).length
      if tooMany then .error ⟨Cause.stripOverflow, 16 * j, 8 * ea.toNat, none⟩
      else if x.marks.any (fun b => 10 * j ≤ b && b < 10 * j + 10) then .error (regPoison (16 * j))
      else s.storeBlocks a x (j + 1) new n

/-- `vst` under eb. -/
def storeEb (t : VType) (d a : Reg) (s : State) : Res :=
  let x := s.srcOf (.plain .eb) t.g d.val
  match elemLoop (s.grantLen t) [x.count] none (fun _ y => .put y) () with
  | .error e => .trap e s
  | .ok (n, gs, _) =>
    match s.storeBlocks (s.sreg a) x 0 [] (blocksFor n) with
    | .error e => .trap e s
    | .ok buf => .done .seq ((s.storeRow buf).report ⟨n, n, 80 * blocksFor n, 0, 80 * blocksFor n, gs⟩)

/-! ### The forms (R120) -/

/-- The step of a unit-stride form: the element size. -/
def unitForm (t : VType) (_ : State) : Form :=
  .stride (BitVec.ofNat 64 (match plainFmt t with
    | some f => f.width / 8
    | none => 0))
def strideForm (b : Reg) (_ : VType) (s : State) : Form := .stride (s.sreg b)
def indexForm (b : Reg) (t : VType) (s : State) : Form := .index (s.indexSrc t b)

/-- `vld`, with its eb form. -/
def execVld (f : V2) (s : State) : Host.Outcome State Fault Refusal :=
  run (.vld f) (fun s =>
    if s.typeOr.fam = .plain .eb ∧ f.m.val = 0 then loadEb s.typeOr f.d f.a s
    else loadVec false unitForm f.d f.a f.m s) s
def execVlds (f : V3) (s : State) : Host.Outcome State Fault Refusal :=
  run (.vlds f) (loadVec false (strideForm f.b) f.d f.a f.m) s
def execVldb (f : V2) (s : State) : Host.Outcome State Fault Refusal :=
  run (.vldb f) (loadVec false (fun _ _ => .once) f.d f.a f.m) s
def execVldo (f : V2) (s : State) : Host.Outcome State Fault Refusal :=
  run (.vldo f) (loadVec true unitForm f.d f.a f.m) s
def execVldso (f : V3) (s : State) : Host.Outcome State Fault Refusal :=
  run (.vldso f) (loadVec true (strideForm f.b) f.d f.a f.m) s
def execVldx (f : V3) (s : State) : Host.Outcome State Fault Refusal :=
  runG (.vldx f) (indexOk f.b) (loadVec false (indexForm f.b) f.d f.a f.m) s
def execVldxo (f : V3) (s : State) : Host.Outcome State Fault Refusal :=
  runG (.vldxo f) (indexOk f.b) (loadVec true (indexForm f.b) f.d f.a f.m) s

/-- `vst`, with its eb form. -/
def execVst (f : V2) (s : State) : Host.Outcome State Fault Refusal :=
  run (.vst f) (fun s =>
    if s.typeOr.fam = .plain .eb ∧ f.m.val = 0 then storeEb s.typeOr f.d f.a s
    else storeVec false unitForm f.d f.a f.m s) s
def execVsts (f : V3) (s : State) : Host.Outcome State Fault Refusal :=
  run (.vsts f) (storeVec false (strideForm f.b) f.d f.a f.m) s
def execVstc (f : V2) (s : State) : Host.Outcome State Fault Refusal :=
  run (.vstc f) (storeVec false (fun _ _ => .packed) f.d f.a f.m) s
def execVsto (f : V2) (s : State) : Host.Outcome State Fault Refusal :=
  run (.vsto f) (storeVec true unitForm f.d f.a f.m) s
def execVstso (f : V3) (s : State) : Host.Outcome State Fault Refusal :=
  run (.vstso f) (storeVec true (strideForm f.b) f.d f.a f.m) s
def execVstx (f : V3) (s : State) : Host.Outcome State Fault Refusal :=
  runG (.vstx f) (indexOk f.b) (storeVec false (indexForm f.b) f.d f.a f.m) s
def execVstxo (f : V3) (s : State) : Host.Outcome State Fault Refusal :=
  runG (.vstxo f) (indexOk f.b) (storeVec true (indexForm f.b) f.d f.a f.m) s

end Sys2Proof.Machine
end

