-- ==== Sys2Proof/Machine/Scatter.lean ====
section
/-!
DEFINITION. Ordered scatter-add: `scopen`, `scadd.o`, `scadd.u`, `scflush`, the arrival of an update at its combining unit
with its spills, and the close of a round (R232 to R236, R263, R264).
-/

namespace Sys2Proof.Machine

/-! ### Descriptors and rounds -/

/-- Element types of a round (R232). -/
def roundType (f : Fmt) : Bool := f == .i32 || f == .i64 || f == .n32 || f == .n64 || f == .fp32

/-- The plain round type of a valid `vt`. -/
def roundFmt (t : Option VType) : Option Fmt :=
  match t with
  | some ⟨.plain f, _, _, _, _, _, _⟩ => if roundType f then some f else none
  | _ => none

/-- The control dword of a round in a state (R232). -/
def Round.control (r : Round) (state : Nat) : Nat :=
  state + r.fmt.code * 4 + r.parts * 65536 + r.joined * 4294967296 + r.flushed * 281474976710656

/-- A number's 64-bit dword `k` of a 64-byte value. -/
def dword (v k : Nat) : Nat := v / 2 ^ (64 * k) % 18446744073709551616

/-- The dwords of a descriptor that the program alone writes keep R232: base, size, reserved. -/
def linesOk (v : Nat) : Bool :=
  dword v 1 < 2 ^ 57 && dword v 1 % 64 == 0 && dword v 2 % 512 == 0 && dword v 5 == 0 && dword v 6 == 0 && dword v 7 == 0

/-- The fields of an idle descriptor keep R232: state 0, reserved bits 0, base and size as stated. The type, participants and counts of
an idle descriptor, which the joining word sets anew, may hold any value. DESIGN CHOICE, log 71. -/
def descriptorOk (v : Nat) : Bool := dword v 0 % 4 == 0 && dword v 0 / 64 % 1024 == 0 && linesOk v

/-- Write the descriptor's control dword, and its counts when they change. -/
def State.putControl (s : State) (loc : Nat) (r : Round) (state : Nat) : State := s.poke loc 8 (r.control state)
def State.putCounts (s : State) (loc : Nat) (r : Round) : State :=
  (s.poke (loc + 24) 8 r.used).poke (loc + 32) 8 r.runs.length

/-- The serial of the current record, or 0. -/
def State.mySerial (s : State) : Nat := match s.me.work with | some r => r.serial | none => 0
/-- The launch number of the current record; 0 when there is none, which names no launch's record. -/
def State.myLaunch (s : State) : Nat := match s.me.work with | some r => r.launch | none => 0

/-! ### scopen (R233) -/

/-- The issue checks: no round held, a round type, the address, the participant count. A descriptor in a scratchpad window is
opened like any other. DESIGN CHOICE, log 71. -/
def State.scopenCheck (s : State) (va : Word) (n : Word) : Except Trap (Nat × Fmt) :=
  if s.me.held.isSome then .error (Trap.plain Cause.scatterRound)
  else
    match roundFmt s.me.vt with
    | none => .error (Trap.plain Cause.illegalType)
    | some f =>
      match s.checkAccess s.ctx .hw va.toNat 64 with
      | .error e => .error (e.trap 0 va.toNat)
      | .ok loc =>
        if n = 0 ∨ 65536 ≤ n.toNat then .error (Trap.plain Cause.scatterRound) else .ok (loc, f)

/-- Join a round or open one, at the descriptor's point. A round that stands runs on the slice's record, so its control and count
dwords in memory are not judged; the others are, before the round's state (R233). -/
def State.joinRound (s : State) (loc : Nat) (f : Fmt) (va n : Nat) : Except Trap State :=
  let v := cellsNat s.mem.cells loc 64
  if s.anyMarked loc 64 then .error (poisonTrap 0 va)
  else match SMap.find s.rounds loc with
  | some r =>
    if !linesOk v || r.closing || r.parts != n || r.fmt != f || r.joined == r.parts then .error (Trap.plain Cause.scatterRound)
    else
      let r := { r with joined := r.joined + 1 }
      let s := ({ s with rounds := SMap.put s.rounds loc r }).putControl loc r 1
      .ok (s.setMe { s.me with held := some loc })
  | none =>
    if !descriptorOk v then .error (Trap.plain Cause.scatterRound)
    else
      let r : Round := ⟨s.ctx, s.myLaunch, va, f, n, 1, 0, false, dword v 1, dword v 2, 0, false, [], []⟩
      let s := (({ s with rounds := SMap.put s.rounds loc r }).putControl loc r 1).putCounts loc r
      .ok (s.setMe { s.me with held := some loc })

def execScopen (f : Pair) (s : State) : Host.Outcome State Fault Refusal :=
  run (.scopen f) (fun s =>
    let va := s.sreg f.a
    let n := s.sreg f.b
    closing (fun s => s.scopenCheck va n) (fun x s =>
      match s.mine.joinRound x.1 x.2 va.toNat n.toNat with
      | .error t => .trap t s
      | .ok t => .done .seq t.notMine) s) s

/-! ### scadd (R234) -/

/-- One element: marks of both sources, the address, its window, an order of causes that the manual leaves open. DESIGN CHOICE,
log 69. -/
def State.scaddElem (s : State) (f : Fmt) (a : Word) (x idx : Src) (n : Nat) (l : List (Nat × Nat × Nat × Nat)) :
    Formed (List (Nat × Nat × Nat × Nat)) :=
  match x.check n with
  | .error e => .trap e
  | .ok () =>
    match idx.check n with
    | .error e => .trap e
    | .ok () =>
      let ea := a + idx.index n
      match s.checkAccess s.ctx .store ea.toNat (f.width / 8) with
      | .error e => .trap (elemTrap e n ea)
      | .ok loc =>
        if inWindow ea.toNat then .trap ⟨Cause.scatterTarget, n, 8 * ea.toNat, none⟩
        else .put (l ++ [(ea.toNat, loc, n, x.raw n)])

/-- Add in a round's type: integers wrap, fp32 rounds to nearest even, every NaN is 0x7FC0_0000 (R234). -/
def foldAdd (f : Fmt) (m x : Nat) : Nat :=
  if f.isInt then (m + x) % 2 ^ f.width
  else
    let c : RoundCtx := ⟨.ne, false, true, 0⟩
    encodeFloat .fp32 (roundNum c specFp32 (addNum .ne (decodeFloat .fp32 m) (decodeFloat .fp32 x)).1).1

/-- An unordered addition is made at its point in the location's order, as an access of the sequencer that issued it: its own
reservation stands (R86, R234). -/
def State.addAt (s : State) (u : Update) : State :=
  let n := u.fmt.width / 8
  ({ s with flights := s.flights.erase u } : State).pokeAs u.by_ u.loc n (foldAdd u.fmt (cellsNat s.mem.cells u.loc n) u.val)

/-- The additions of sequencer q that are still on their way are made, in issue order: a later access of q comes after them
(R258; log 7). -/
def State.landOwn (s : State) (q : Nat) : State :=
  (s.flights.filter (fun u => u.round.isNone && u.by_ == q)).foldl State.addAt s

/-- The issue checks and the element loop of both forms; `ordered` tells `scadd.o`. -/
def State.scaddCheck (s : State) (ordered : Bool) (f : R3) :
    Except Trap (Fmt × Nat × Nat × List (Nat × Nat × Nat × Nat)) :=
  if !ordered && s.me.ctl.det.getLsbD 0 then .error (Trap.plain Cause.unordered)
  else
    match roundFmt s.me.vt with
    | none => .error (Trap.plain Cause.illegalType)
    | some w =>
      let held := match s.me.held with
        | some loc => (SMap.find s.rounds loc).any (fun r => r.fmt == w)
        | none => false
      if ordered && !held then .error (Trap.plain Cause.scatterRound)
      else
        let t := s.typeOr
        let x := s.srcOf (.plain w) t.g f.d.val
        let idx := s.indexSrc t f.b
        match elemLoop (s.grantLen t) [x.count, idx.count] none (s.scaddElem w (s.sreg f.a) x idx) [] with
        | .error e => .error e
        | .ok (n, gs, l) => .ok (w, n, gs, l)

/-- Put the updates of an `scadd.o` on their way, with their tags. -/
def State.sendUpdates (s : State) (w : Fmt) (l : List (Nat × Nat × Nat × Nat)) : State :=
  match s.me.held with
  | none => s
  | some r =>
    { s with flights := s.flights ++ l.map (fun (va, loc, i, x) =>
        ⟨some r, s.cur, w, va, loc, s.widOr0, s.me.ctl.sbase + BitVec.ofNat 64 i, x, s.mySerial⟩) }

/-- Put the additions of an `scadd.u` on their way; each carries a number of its word in the place of the record's. -/
def State.sendAdds (s : State) (w : Fmt) (l : List (Nat × Nat × Nat × Nat)) : State :=
  { s with
    uid := s.uid + 1
    flights := s.flights ++ l.map (fun (va, loc, i, x) => ⟨none, s.cur, w, va, loc, 0, BitVec.ofNat 64 i, x, s.uid + 1⟩) }

/-- Both forms. -/
def scaddBody (ordered : Bool) (f : R3) (s : State) : Res :=
  closing (fun s => s.scaddCheck ordered f) (fun (w, n, gs, l) s =>
    let s := s.report ⟨n, n, w.width * n, 32 * n, 0, gs⟩
    .done .seq (if ordered then s.sendUpdates w l else s.sendAdds w l)) s

/-- The register groups of both forms: vS by `vt` (R59), the index group by R124. -/
def scaddGroup (f : R3) (t : VType) : Bool := f.d.val % t.g == 0 && indexOk f.b t

def execScaddO (f : R3) (s : State) : Host.Outcome State Fault Refusal :=
  runG (.scaddO f) (scaddGroup f) (scaddBody true f) s
def execScaddU (f : R3) (s : State) : Host.Outcome State Fault Refusal :=
  runG (.scaddU f) (scaddGroup f) (scaddBody false f) s

/-! ### scflush (R236) and the end of a record that holds a round (R233) -/

/-- An update that a record sent is still on its way to its combining unit. -/
def State.flying (s : State) (round serial : Nat) : Bool :=
  s.flights.any (fun u => u.round == some round && u.src == serial)

/-- One participant leaves the round: the last one makes it close. -/
def State.leaveRound (s : State) (loc : Nat) : State :=
  match SMap.find s.rounds loc with
  | none => s
  | some r =>
    let r := { r with flushed := r.flushed + 1, closing := r.parts ≤ r.flushed + 1 }
    ({ s with rounds := SMap.put s.rounds loc r }).putControl loc r (if r.closing then 2 else 1)

/-- The round named must be the one held (R236): the address reaches its descriptor, or, where it reaches nothing now, it is the
address by which the round was opened. A walk that meets an uncorrectable entry leaves its negative entry (R312). -/
def State.scflushCheck (s : State) (va : Word) : Except Trap Nat :=
  match s.me.held with
  | none => .error (Trap.plain Cause.scatterRound)
  | some h =>
    if s.heldAt s.ctx va.toNat then .error (Trap.plain Cause.held)
    else
      match s.resolve s.ctx .hw va.toNat with
      | .ok loc => if loc = h then .ok h else .error (Trap.plain Cause.scatterRound)
      | .error e =>
        if (SMap.find s.rounds h).any (fun r => r.va == va.toNat) then .ok h
        else .error { Trap.plain Cause.scatterRound with page := e.page }

def execScflush (f : R2) (s : State) : Host.Outcome State Fault Refusal :=
  run (.scflush f) (fun s =>
    let va := s.sreg f.a
    closing (fun s => s.scflushCheck va) (fun loc s =>
      let s := s.walked s.ctx .hw va.toNat
      if s.flying loc s.mySerial then .wait s
      else
        let m := s.me
        let s := s.setMe { m with
          held := none
          pend := if f.d.val = 0 then m.pend else SMap.put m.pend f.d.val (.round loc) }
        .done .seq (s.asMine (·.leaveRound loc))) s) s

/-! ### Arrival at a combining unit (R235) -/

/-- The home slice of a physical address (R248): a line of tier one has it on a slice of the stack whose DRAM holds it, any other on
one of all slices. Log 8. -/
def sliceOf (pa : Nat) : Nat :=
  if pa < Config.tierOneEnd then
    Config.slicesPerStack * (pa / Config.stackBytes) + Config.homeSlice (pa / 64) % Config.slicesPerStack
  else Config.homeSlice (pa / 64) % (4 * Config.slicesPerStack)

/-- Order of updates: address, work identifier, index (R236). -/
def updBefore (x y : Update) : Bool :=
  if x.va ≠ y.va then x.va < y.va
  else if x.wid ≠ y.wid then x.wid.toNat < y.wid.toNat
  else x.idx.toNat ≤ y.idx.toNat

/-- Insert an update after every one that stands before it or ties with it. -/
def updInsert (l : List Update) (u : Update) : List Update :=
  match l with
  | [] => [u]
  | x :: t => if updBefore x u then x :: updInsert t u else u :: x :: t

/-- Sort updates; ties keep their order. -/
def updSort (l : List Update) : List Update := l.foldl updInsert []

/-- A sector of a private format. Free value, log 7. -/
def privateSector (k : Nat) : Nat := (List.range 32).foldr (fun i acc => (Config.privateByte (k + i)).toNat + 256 * acc) 0

/-- Write n sectors of a private format at an address as the round's opener, each whole; the first fault is answered. -/
def State.spillSectors (s : State) (c : Ctx) (va : Nat) : Nat → Except (Miss × Nat) State
  | 0 => .ok s
  | n + 1 =>
    match s.resolve c .store va with
    | .error e => .error (e, va)
    | .ok loc => State.spillSectors { s.poke loc 32 (privateSector s.free) with free := s.free + 32 } c (va + 32) n

/-- Spill one round's entries as one run. -/
def State.spillRound (s : State) (slice loc : Nat) (es : List Update) : State :=
  match SMap.find s.rounds loc with
  | none => s
  | some r =>
    let need := 32 * (es.length + 1)
    if r.failed then s
    else if r.size < r.used + need then { s with rounds := SMap.put s.rounds loc { r with failed := true } }
    else
      match s.spillSectors r.ctx (r.base + r.used) (need / 32) with
      | .error (e, va) =>
        let s := { s with rounds := SMap.put s.rounds loc { r with failed := true } }
        (s.negate e.page).logErr 11 r.ctx.part 3 slice false va e.cause
      | .ok s =>
        let r := { r with used := r.used + need, runs := r.runs ++ [updSort es] }
        ({ s with rounds := SMap.put s.rounds loc r }).putCounts loc r

/-- The first page of a round's next run that is missing and that the service can map (R235). -/
def State.spillStall (s : State) (loc k : Nat) : Option (Nat × Nat) :=
  match SMap.find s.rounds loc with
  | none => none
  | some r =>
    if r.failed || r.size < r.used + 32 * (k + 1) then none
    else
      let first := r.base + r.used
      let pages := (List.range ((first + 32 * (k + 1) - 1) / 65536 - first / 65536 + 1)).map
        (fun j => max first ((first / 65536 + j) * 65536))
      (pages.find? (fun va =>
        match s.resolve r.ctx .store va with
        | .error e => e.cause == Cause.pageNotPresent && s.canMap r.ctx.part va
        | .ok _ => false)).map (fun va => (r.ctx.part, va))

/-- A round's next run would go to the scratchpad of a core that is saved (R301). -/
def State.spillHeld (s : State) (loc : Nat) : Bool :=
  (SMap.find s.rounds loc).any (fun r => !r.failed && s.heldAt r.ctx (r.base + r.used))

/-- The rounds that have entries in a buffer, each once, in order of first arrival. -/
def roundsIn (l : List Update) : List Nat := (l.filterMap (·.round)).eraseDups

/-- The entries of one round in a buffer. -/
def ofRound (l : List Update) (r : Nat) : List Update := l.filter (fun u => u.round == some r)

/-- Spill every round of a full buffer. -/
def State.spillAll (s : State) (slice : Nat) (buf : List Update) : State :=
  let s := (roundsIn buf).foldl (fun s r => s.spillRound slice r (ofRound buf r)) s
  { s with holds := SMap.put s.holds slice [] }

/-- The update arrives and takes an entry, whether its round has failed or not. -/
def State.holdUpdate (s : State) (slice : Nat) (u : Update) : State :=
  let buf := (SMap.find s.holds slice).getD []
  { s with flights := s.flights.erase u, holds := SMap.put s.holds slice (buf ++ [u]) }

/-- An update that must arrive before `v`: of a round, one with the same address and tag that left earlier (R236); of an unordered
addition, one of an earlier word of its sequencer to the same location (R258). -/
def Update.before (u v : Update) : Bool :=
  u.round == v.round &&
    (match v.round with
     | some _ => u.va == v.va && u.wid == v.wid && u.idx == v.idx
     | none => u.by_ == v.by_ && u.loc == v.loc && u.src < v.src)

/-- The last update of a participant that has ended has arrived: the participant leaves its round (R233, R236). -/
def State.leftLast (s : State) (u : Update) : State :=
  match u.round with
  | none => s
  | some loc =>
    match SMap.find s.rounds loc with
    | none => s
    | some r =>
      if r.leaving.contains u.src && !s.flying loc u.src then
        ({ s with rounds := SMap.put s.rounds loc { r with leaving := r.leaving.erase u.src } } : State).leaveRound loc
      else s

/-- SCADD_UPDATE_ARRIVAL (R234, R235): update `n` of those on their way reaches its unit, unless another must come first, which
then does. A spill that needs a page the service can map waits for it. -/
def execScaddUpdateArrival (n : Nat) (s : State) : Host.Outcome State Fault Refusal :=
  match s.flights[n]? with
  | none => .next s
  | some v =>
    let u := (s.flights.find? (fun u => u.before v)).getD v
    match u.round with
    | none => .next (s.addAt u)
    | some _ =>
      let slice := sliceOf u.loc
      let buf := (SMap.find s.holds slice).getD []
      if buf.length < Config.holdEntries then .next ((s.holdUpdate slice u).leftLast u)
      else if (roundsIn buf).any s.spillHeld then .next s
      else
        match (roundsIn buf).findSome? (fun r => s.spillStall r (ofRound buf r).length) with
        | some (part, va) => .next (s.serviceMap part va)
        | none => .next (((s.spillAll slice buf).holdUpdate slice u).leftLast u)

/-! ### The close of a round (R236, R263, R264) -/

/-- A run of the overflow area is poisoned (R316). -/
def State.runMarked (s : State) (r : Round) (off len : Nat) : Bool :=
  (List.range (len / 32)).any (fun k =>
    match s.resolve r.ctx .hw (r.base + off + 32 * k) with
    | .error _ => false
    | .ok loc => s.poisoned loc)

/-- The updates of the spilled runs with their marks; `off` is where the next run starts. -/
def State.runUpdates (s : State) (r : Round) (off : Nat) (runs : List (List Update)) : List (Update × Bool) :=
  match runs with
  | [] => []
  | x :: t =>
    let len := 32 * (x.length + 1)
    let bad := s.runMarked r off len
    x.map (fun u => (u, bad)) ++ s.runUpdates r (off + len) t

/-- The first sector of a round's spilled runs that its unit cannot reach. -/
def State.runFault (s : State) (r : Round) : Option (Miss × Nat) :=
  (List.range (r.used / 32)).findSome? (fun k =>
    match s.resolve r.ctx .hw (r.base + 32 * k) with
    | .error e => some (e, r.base + 32 * k)
    | .ok _ => none)

/-- A fault of the unit's reads of the runs is logged (R310). -/
def State.logRuns (s : State) (loc : Nat) (r : Round) : State :=
  match s.runFault r with
  | none => s
  | some (e, va) => (s.negate e.page).logErr 11 r.ctx.part 3 (sliceOf loc) false va e.cause

/-- Insert an update with its mark after every one that stands before it or ties with it. -/
def markedInsert (l : List (Update × Bool)) (u : Update × Bool) : List (Update × Bool) :=
  match l with
  | [] => [u]
  | x :: t => if updBefore x.1 u.1 then x :: markedInsert t u else u :: x :: t

/-- The updates of a round in the order in which its close folds them, each with the mark of the run that held it: those of the runs
in the order of the spills, then those of the buffers, sorted by address and tag (R236). -/
def State.roundUpdates (s : State) (loc : Nat) (r : Round) : List (Update × Bool) :=
  (s.runUpdates r 0 r.runs ++ (s.holds.flatMap (fun x => ofRound x.2 loc)).map (fun u => (u, false))).foldl markedInsert []

/-- Fold the updates of one address and write it once; its sector is marked when a poisoned run took part. -/
def State.foldAddress (s : State) (f : Fmt) (loc : Nat) (us : List (Update × Bool)) : State :=
  let n := f.width / 8
  let v := us.foldl (fun m u => foldAdd f m u.1.val) (cellsNat s.mem.cells loc n)
  let s := s.poke loc n v
  if us.any (·.2) then s.markSector (loc / 32) else s

/-- The digest entries of a close: one per sector written, in ascending address. -/
def State.roundEntries (s : State) (f : Fmt) (us : List (Update × Bool)) : List Byte :=
  let n := f.width / 8
  let b := us.foldl (fun (b : SMap (BufSector × Nat)) (u : Update × Bool) =>
    let x := bufNat [] u.1.va u.1.va n (cellsNat s.mem.cells u.1.loc n)
    match x with
    | (k, e) :: _ =>
      let o := ((SMap.find b k).map (·.1)).getD ⟨e.va, 0, 0⟩
      SMap.put b k (⟨o.va, o.en ||| e.en, (o.data &&& ~~~(enBits e.en)) ||| (e.data &&& enBits e.en)⟩, u.1.loc / 32)
    | [] => b) []
  b.flatMap (fun (x : Nat × BufSector × Nat) => digestEntry x.2.1.va x.2.1.en (s.mem.poison.contains x.2.2) x.2.1.data)

/-- Close a round: fold, write, free the descriptor with the counts it keeps (R263), send the tokens. The runs folded are those that
were spilled, whatever a program has stored to the overflow area since or where its pages are now, and all of it happens in one step.
DESIGN CHOICE, log 71. -/
def State.closeRound (s : State) (loc : Nat) (r : Round) : State :=
  let us := s.roundUpdates loc r
  let s := if r.failed then s else s.logRuns loc r
  let s := { s with
    holds := s.holds.map (fun (x : Nat × List Update) => (x.1, x.2.filter (fun u => u.round != some loc)))
    rounds := SMap.del s.rounds loc }
  let locs := (us.map (fun x => x.1.loc)).eraseDups
  let s := if r.failed then s else locs.foldl (fun s a => s.foldAddress r.fmt a (us.filter (·.1.loc == a))) s
  let s := s.addStream r.launch 0 (if r.failed then [] else s.roundEntries r.fmt us)
  let s := (s.poke loc 8 0).putCounts loc r
  s.deliver (.round loc) (tokenWord (if r.failed then 3 else 1) r.runs.length)

/-- SCATTER_ROUND_CLOSE (R236): a closing round whose updates have all arrived is closed; a launch of which it was the last thing
left is over (R323). -/
def execScatterRoundClose (r : Nat) (s : State) : Host.Outcome State Fault Refusal :=
  match SMap.find s.rounds r with
  | none => .next s
  | some x => if x.closing && !s.flights.any (·.round == some r) then .next ((s.closeRound r x).settle x.launch) else .next s

end Sys2Proof.Machine
end

