-- ==== Sys2Proof/Machine/Nests.lean ====
section
/-!
DEFINITION. Nests of patterns as the hardware keeps them: frames and start lines (R185, R209, R210), queuing a record
(R189), starting, stepping and ending nodes (R211, R212), fault routes (R216), cancellation (R217), join decrements (R186,
R365), and what a record's end does (R215).
-/

namespace Sys2Proof.Machine

/-! ### Nodes -/

/-- The kind field of an entry and of a node word (R200). -/
def Kind.code : Kind → Nat
  | .fn => 1
  | .cor => 2
  | .sq => 3
  | .par => 4
  | .pipe => 5
  | .farm => 6
  | .loop => 7

/-- A leaf is a function or a coroutine. -/
def Kind.leaf (k : Kind) : Bool := k == .fn || k == .cor

/-- Node x of nest n. -/
def State.nodeAt (s : State) (n x : Nat) : Option Node :=
  match SMap.find s.nests n with
  | none => none
  | some t => t.nodes[x]?

/-- Replace node x of nest n. -/
def State.setNode (s : State) (n x : Nat) (d : Node) : State :=
  match SMap.find s.nests n with
  | none => s
  | some t => { s with nests := SMap.put s.nests n { t with nodes := t.nodes.set x d } }

/-- The node word at 0x48 (R209). -/
def nodeWord (x : Nat) (d : Node) : Nat := d.entry + d.kind.code * 4096 + d.phase * 65536 + x * 4294967296

/-- The frame of a node of the nest; 0 for none. -/
def Nest.frameOf (t : Nest) (x : Option Nat) : Nat :=
  match x with
  | none => 0
  | some k => (t.nodes[k]?.map (·.frame)).getD 0

/-- The start-line dwords 0x50, 0x58 and 0x60 (R209). A farm without workers holds 0 at 0x50 and 0x58. DESIGN CHOICE, log 72. -/
def Nest.lineWords (t : Nest) (d : Node) : Nat × Nat × Nat :=
  let kid (k : Nat) := t.frameOf d.kids[k]?
  match d.kind with
  | .fn => (d.code.toNat, d.inCh, d.outCh)
  | .cor => (d.code.toNat, d.inCh, d.outCh)
  | .sq => (kid 0, kid 1, 0)
  | .par => (kid 0, kid 1, 0)
  | .pipe => (kid 0, kid 1, d.chan)
  | .loop => (kid 0, kid 1, d.iter)
  | .farm =>
    (kid 0, (match d.kids[0]? with | some k => (t.nodes[k]?.map (·.span)).getD 0 | none => 0), d.kids.length)

/-- Dwords as one little-endian number. -/
def packDwords (l : List Nat) : Nat := l.foldr (fun x acc => x % 18446744073709551616 + 18446744073709551616 * acc) 0

/-- The launch token address at 0x70 of the root of a host launch (R209). -/
def State.rootToken (s : State) (t : Nest) (x : Nat) : Nat :=
  match x, t.token with
  | 0, .memory l => (s.launchAt l).token
  | _, _ => 0

/-- The hardware can write the header and the start line of a frame. -/
def State.frameReached (s : State) (part frame : Nat) : Bool :=
  match s.hwLoc part frame 64, s.hwLoc part (frame + 64) 64 with
  | .ok _, .ok _ => true
  | _, _ => false

/-- Write `bytes` bytes of a frame's header, join word first, and its start line, with their `capply` values (R185, R209). Where a
write faults, the fault is logged and the record concerned is not entered (R310). -/
def State.writeHead (s : State) (u n x bytes : Nat) : State :=
  match SMap.find s.nests n with
  | none => s
  | some t =>
    match t.nodes[x]? with
    | none => s
    | some d =>
      let cont := if d.kind.leaf then [0, 0, 0, 0] else [0, d.frame, t.frameOf d.parent, d.wid.toNat]
      let (w0, w1, w2) := t.lineWords d
      let s := if s.frameReached t.part d.frame then s else s.setNode n x { d with lost := true }
      let s := s.hwWrite u t.part d.frame 64 bytes (packDwords ([t.level * 4294967296, 0] ++ cont))
      s.hwWrite u t.part (d.frame + 64) 64 64
        (packDwords [t.args.toNat, nodeWord x d, w0, w1, w2, t.frameOf d.handler, s.rootToken t x, 0])

/-- Write a frame as `capply` builds it: join word, status word, continuation and start line (R209). -/
def State.writeFrame (s : State) (u n x : Nat) : State := s.writeHead u n x 48

/-- Keep the memory line of a node in step with the hardware's copy: node word and iteration count. -/
def State.refreshLine (s : State) (u n x : Nat) : State :=
  match SMap.find s.nests n with
  | none => s
  | some t =>
    match t.nodes[x]? with
    | none => s
    | some d =>
      let s := s.hwWrite u t.part (d.frame + 0x48) 8 8 (nodeWord x d)
      if d.kind = .loop then s.hwWrite u t.part (d.frame + 0x60) 8 8 d.iter else s

/-- Set the count of a join word, keeping its level and reserved bits (R185, R186), and go on with what the join waits for;
nothing is started where the access faults (R310). -/
def State.setJoin {α : Type} (s : State) (u part frame count : Nat) (next : List α) : State × List α :=
  match s.hwRead part frame 64 8 with
  | .error e => (s.logHw u part e frame, [])
  | .ok w => (s.hwWrite u part frame 64 8 (w / 4294967296 * 4294967296 + count), next)

/-! ### Aging (R191) -/

/-- The aging threshold of a queued record, in clocks. -/
def State.theta (s : State) (e : QEntry) : Nat := (s.launchAt e.work.launch).theta

/-- The clock at which a record that stands in its queue has reached the threshold; none for one that is overdue already.
A pre-empted record whose age passed the threshold while it ran has reached it when it is queued again (R188). -/
def State.ageDue (s : State) (e : QEntry) : Option Nat := if e.overdue then none else some (max e.entered (e.age + s.theta e))

/-- The queued record that ages first, when that is due by now; ties go by queue order. -/
def State.nextAging (s : State) : List QEntry → Option (Nat × QEntry)
  | [] => none
  | e :: t =>
    match s.nextAging t, s.ageDue e with
    | r, none => r
    | none, some d => if d ≤ s.clock then some (d, e) else none
    | some (d', e'), some d => if d ≤ s.clock ∧ d ≤ d' then some (d, e) else some (d', e')

/-- The upper that a queue place stands for: a logical core's upper by the remap table (R195). -/
def State.placeUpper (s : State) (r : Rec) (place : Nat) : Nat :=
  let l := s.launchAt r.launch
  if l.det then l.remap.getD place 0 else place

/-- Where a partition's queue area begins: after the frame pool (log 10). -/
def Partition.queueBase (p : Partition) : Nat := p.pool.1 + alignUp p.pool.2 65536

/-- The ring of a core's queue at a level in the queue area, by slot and level (R188; log 14). -/
def Partition.ringAt (p : Partition) (slot lv : Nat) : Nat := p.queueBase + 32 * p.slotsPerUpper * (4 * slot + lv)

/-- The records that stand in the queue in which an entry belongs (R188). -/
def State.queueOf (s : State) (e : QEntry) : List QEntry :=
  s.queue.filter (fun x => x.work.part == e.work.part && x.level == e.level &&
    s.placeUpper x.work x.place == s.placeUpper e.work e.place)

/-- The place of a queue's youngest record in its ring, by the places of those that stand in it (R188; log 14). -/
def ringNext (base slots : Nat) (used : List Nat) : Nat :=
  match used.getLast? with
  | none => base
  | some a => base + (a + 32 - base) % (32 * max 1 slots)

/-- Where an entry comes to stand in its queue's ring; none where the head of 64 records has room for it. -/
def State.ringSlot (s : State) (e : QEntry) : Option Nat :=
  let l := s.queueOf e
  let used := l.filterMap (·.ring)
  if l.length < 64 ∧ used = [] then none
  else
    match SMap.find s.parts e.work.part, s.coreAt (s.placeUpper e.work e.place) with
    | some p, some (_, c) => some (ringNext (p.ringAt c.slot e.level) p.slotsPerUpper used)
    | _, _ => none

/-- A record comes to stand last in its queue, by the hardware's own write where its place is in the ring. Where that write faults, the
fault is logged, and the record stands nowhere and is not entered (R310). -/
def State.putLast (s : State) (e : QEntry) : State :=
  match s.ringSlot e with
  | none => { s with queue := s.queue ++ [{ e with ring := none }] }
  | some va =>
    match s.hwLoc e.work.part va 32 with
    | .error m => s.logHw (s.placeUpper e.work e.place) e.work.part m va
    | .ok loc =>
      let t := s.pokeAs otherParty loc 32 (privateSector s.free)
      { t with free := s.free + 32, queue := s.queue ++ [{ e with ring := some va }] }

/-- One record moves up a level, as the youngest there, or becomes overdue at level 3. -/
def State.ageOne (s : State) (d : Nat) (e : QEntry) : State :=
  if e.level < 3 then ({ s with queue := s.queue.erase e } : State).putLast { e with level := e.level + 1, age := d, entered := d }
  else { s with queue := s.queue.map (fun x => if x = e then { x with overdue := true } else x) }

/-- All aging that is due, in order of time. -/
def State.ageFuel (s : State) : Nat → State
  | 0 => s
  | n + 1 =>
    match s.nextAging s.queue with
    | none => s
    | some (d, e) => (s.ageOne d e).ageFuel n
def State.ageAll (s : State) : State := s.ageFuel (4 * s.queue.length)

/-! ### Queuing (R189) -/

/-- Queue a record as the youngest of its level, at an upper, or at its logical core in a deterministic launch. Aging that is
due comes first (R191). -/
def State.enqueue (s : State) (r : Rec) (u level : Nat) : State :=
  let s := s.ageAll
  let l := s.launchAt r.launch
  let place := if l.det then logicalCore r.wid l.grid else u
  s.putLast ⟨r, place, level, s.clock, s.clock, false, none, none, none⟩

/-- A fresh number for a record, launch, nest, command or save; numbers start at 1. -/
def State.fresh (s : State) : Nat × State := (s.uid + 1, { s with uid := s.uid + 1 })

/-! ### Channels of a nest (R219 to R221) -/

/-- The location of a channel address of a launch. -/
def State.chanLoc (s : State) (launch part va : Nat) : Option Nat :=
  let l := s.launchAt launch
  match s.resolve ⟨part, true, 0, 0, if l.det then some (launch, l.grid) else none⟩ .hw va with
  | .ok loc => some loc
  | .error _ => none

/-- Make a channel empty and open: counts 0, closed clear, depth and element size as they stand. Free value: the wait
state at 0x18, log 7. -/
def State.emptyChannel (s : State) (loc : Nat) : State :=
  let g := cellsNat s.mem.cells (loc + 16) 4
  let bytes := (List.range 40).foldr (fun k n => (Config.privateByte (s.free + k)).toNat + 256 * n) 0
  { s.poke loc 64 (g * 2 ^ 128 + bytes * 2 ^ 192) with free := s.free + 40 }

/-- Clear the live bits of a nest's channels (R221). -/
def State.freeChannels (s : State) (chans : List (Nat × Nat × Nat)) : State :=
  chans.foldl (fun s c =>
    let sl := s.soleAt c.1
    s.setSole c.1 { sl with live := sl.live.filter (· != c.2.1) }) s

/-! ### What is to be done next -/

/-- A piece of work on nests. `lv` is the level at which a started record is queued. -/
inductive Act where
  | start (n x lv : Nat)
  | step (n x lv : Nat)
  | finish (n x sw lv : Nat)
  | cancel (n x : Nat)
  | gone (n x : Nat) (r : Rec)
  | decr (part launch va : Nat) (wid : Word)
  | rootEnd (n : Nat) (value : Word)
  deriving DecidableEq, Repr

/-- A status word: valid, node number, cause (R216). -/
def statusWord (node cause : Nat) : Nat := 2 ^ 63 + node * 65536 + cause

/-- Record(P, s) into the frame at an address: the lowest-numbered faulting node stays (R216). -/
def State.recordFault (s : State) (u part frame sw : Nat) : State :=
  match s.hwRead part (frame + 8) 8 8 with
  | .error e => s.logHw u part e (frame + 8)
  | .ok old =>
    if old / 2 ^ 63 = 0 ∨ sw / 65536 % 4294967296 < old / 65536 % 4294967296 then s.hwWrite u part (frame + 8) 8 8 sw
    else s

/-- What follows from the status word of a frame, 0 where it is not valid. A word that cannot be read is logged, and nothing
follows (R310). -/
def State.onStatus (s : State) (u part frame : Nat) (next : State → Nat → State × List Act) : State × List Act :=
  match s.hwRead part (frame + 8) 8 8 with
  | .error e => (s.logHw u part e (frame + 8), [])
  | .ok v => next s (if v / 2 ^ 63 = 1 then v else 0)

/-- Start(X) (R212): a leaf's record is queued; a composite's join is set and its first parts start, in order. A leaf whose
code pointer is 0 gives a step record, which no sequencer enters: Step ends it at once (R211; log 65). -/
def State.startNode (s : State) (u n x lv : Nat) : State × List Act :=
  match SMap.find s.nests n with
  | none => (s, [])
  | some t =>
    match t.nodes[x]? with
    | none => (s, [])
    | some d =>
      if d.progress ≠ .waiting || d.lost then (s, [])
      else
        let s := s.setNode n x { d with progress := .started, phase := 0 }
        match d.kind with
        | .fn | .cor =>
          if d.code = 0 then s.onStatus u t.part d.frame (fun s st => (s, [.finish n x st lv]))
          else
            let (id, s) := s.fresh
            let r : Rec := ⟨d.code, BitVec.ofNat 64 d.frame, BitVec.ofNat 64 (t.frameOf d.parent), d.wid, t.part, t.launch,
              d.depth, some (n, x), d.kind == .cor, none, id⟩
            (s.enqueue r u lv, [])
        | .sq | .loop => s.setJoin u t.part d.frame 1 ((d.kids.take 1).map (fun k => .start n k lv))
        | .par | .pipe => s.setJoin u t.part d.frame 2 (d.kids.map (fun k => .start n k lv))
        | .farm =>
          if d.kids.isEmpty then s.onStatus u t.part d.frame (fun s st => (s, [.finish n x st lv]))
          else s.setJoin u t.part d.frame d.kids.length (d.kids.map (fun k => .start n k lv))

/-- A node back at its `capply` values (R212). -/
def Node.resetNode (d : Node) : Node := { d with phase := 0, iter := 0, result := 0, progress := .waiting, cancel := false, lost := false }

/-- Reset of one node's frame: join word, status word and start line, its channel, its save block's valid bit (R212). The
continuation at 0x10 keeps what stands there. A node whose save block cannot be reached is not entered again (R310). -/
def State.resetNode (s : State) (u n x : Nat) : State :=
  match SMap.find s.nests n with
  | none => s
  | some t =>
    match t.nodes[x]? with
    | none => s
    | some d =>
      let s := (s.setNode n x d.resetNode).writeHead u n x 16
      let s := match d.kind, s.chanLoc t.launch t.part d.chan with
        | .pipe, some loc => s.emptyChannel loc
        | _, _ => s
      if d.kind = .cor then
        match s.hwRead t.part (d.frame + 0x80) 8 8 with
        | .error e => (s.setNode n x { d.resetNode with lost := true }).logHw u t.part e (d.frame + 0x80)
        | .ok v => s.hwWrite u t.part (d.frame + 0x80) 8 8 (v / 2 * 2)
      else s

/-- Nodes of the subtree of a node. -/
def Node.subtree (d : Node) (x : Nat) : List Nat := (List.range d.count).map (fun k => x + k)

/-- Reset(body, cond) (R212). -/
def State.resetSubtrees (s : State) (u n : Nat) (kids : List Nat) : State :=
  kids.foldl (fun s k =>
    match s.nodeAt n k with
    | none => s
    | some d => (d.subtree k).foldl (fun s y => s.resetNode u n y) s) s

/-- Step(X) (R212) of a composite whose join has reached 0. -/
def State.stepNode (s : State) (u n x lv : Nat) : State × List Act :=
  match SMap.find s.nests n with
  | none => (s, [])
  | some t =>
    match t.nodes[x]? with
    | none => (s, [])
    | some d =>
      let cond : Option Word := (d.kids[1]?.bind (fun k => t.nodes[k]?)).map (·.result)
      s.onStatus u t.part d.frame (fun s st =>
        if d.cancel || st != 0 then (s, [.finish n x st lv])
        else if (d.kind = .sq ∨ d.kind = .loop) ∧ d.phase = 0 then
          let s := (s.setNode n x { d with phase := 1 }).refreshLine u n x
          s.setJoin u t.part d.frame 1 ((d.kids.drop 1).map (fun k => .start n k lv))
        else if d.kind = .loop ∧ cond = some 0 then
          let s := s.resetSubtrees u n d.kids
          let s := (s.setNode n x { d with phase := 0, iter := d.iter + 1 }).refreshLine u n x
          s.setJoin u t.part d.frame 1 ((d.kids.take 1).map (fun k => .start n k lv))
        else (s, [.finish n x 0 lv]))

/-- The child of the parent in whose place a node ends: a handler stands for the node it serves (R205, R216). -/
def Nest.standsFor (t : Nest) (x : Nat) : Nat → Nat
  | 0 => x
  | fuel + 1 =>
    match t.nodes[x]?.bind (·.serves) with
    | none => x
    | some y => t.standsFor y fuel

/-- The end of a node passes to its parent or to the nest's token (R212, R216). A cancelled composite root ends with
status 5 (R181, R217). -/
def State.passUp (s : State) (u n x sw : Nat) (t : Nest) (d : Node) : State × List Act :=
  match d.parent with
  | none =>
    let v := if d.cancel && !d.kind.leaf then tokenWord 5 0
      else if sw = 0 then tokenWord 1 0 else tokenWord 4 (sw % 65536)
    (s, [.rootEnd n v])
  | some p =>
    let sibs := match t.nodes[p]? with
      | none => []
      | some e => if sw ≠ 0 ∧ d.route = 2 then e.kids.filter (· != t.standsFor x 8) else []
    let s := if sw ≠ 0 then s.recordFault u t.part (t.frameOf (some p)) sw else s
    (s, sibs.map (fun k => .cancel n k) ++ [.decr t.part t.launch (t.frameOf (some p)) d.wid])

/-- End(X) (R212) with status word `sw`: a fault starts a handler that still waits (R216), else the end passes up. A handler
whose fault word cannot be written is not entered (R310). -/
def State.finishNode (s : State) (u n x sw lv : Nat) : State × List Act :=
  match SMap.find s.nests n with
  | none => (s, [])
  | some t =>
    match t.nodes[x]? with
    | none => (s, [])
    | some d =>
      let s := s.setNode n x { d with progress := .ended }
      match d.handler with
      | none => s.passUp u n x sw t d
      | some k =>
        match t.nodes[k]? with
        | none => s.passUp u n x sw t d
        | some e =>
          if sw ≠ 0 ∧ d.route = 1 ∧ e.progress = .waiting then
            match s.hwLoc t.part (e.frame + 0x70) 8 with
            | .error m => (s.logHw u t.part m (e.frame + 0x70), [])
            | .ok loc => (s.poke loc 8 sw, [.start n k lv])
          else s.passUp u n x sw t d

/-- A record that held a round has ended: it counts as flushed once the updates that it sent have arrived, as by `scflush` (R233,
R236). -/
def State.quitRound (s : State) (loc serial : Nat) : State :=
  if s.flying loc serial then
    match SMap.find s.rounds loc with
    | none => s
    | some r => { s with rounds := SMap.put s.rounds loc { r with leaving := r.leaving ++ [serial] } }
  else s.leaveRound loc

/-- A record that waits outside every sequencer ends: the round it holds counts as flushed (R233), its stream ends. -/
def State.dropWaiting (s : State) (r : Rec) (saved : Option Seq) : State :=
  let held := match saved with
    | some m => m.held
    | none => r.resume.bind (·.2)
  let s := match held with
    | some loc => s.quitRound loc r.serial
    | none => s
  s.endStream r

/-- A queued or yielded record of a node, the upper at which it waits, and the state in which it has ended. -/
def State.unqueue (s : State) (n x : Nat) : Option (Nat × Rec × State) :=
  match s.queue.find? (fun e => e.work.node = some (n, x)) with
  | some e => some (s.placeUpper e.work e.place, e.work, { s with queue := s.queue.erase e }.dropWaiting e.work e.saved)
  | none =>
    match s.yields.find? (fun y => y.work.node = some (n, x)) with
    | some y => some (y.place, y.work, { s with yields := s.yields.erase y }.dropWaiting y.work none)
    | none => none

/-- Request a pre-emption of the core of upper u (R297); a request that stands is not replaced. -/
def State.askStop (s : State) (u : Nat) (why : Purpose) : State :=
  let up := s.upperAt u
  match up.preempt with
  | some _ => s
  | none => s.setUpper u { up with preempt := some (why, s.clock) }

/-- The sequencers that run the record of a node. -/
def State.runners (s : State) (n x : Nat) : List Nat :=
  (s.seqs.filter (fun e => (e.2.work.bind (·.node)) == some (n, x))).map (·.1)

/-- Cancel one started leaf (R217): queued and yielded records are taken out and end, at the upper where they waited; a
running one is asked to stop at its next pre-emption point. -/
def State.cancelLeaf (s : State) (n x : Nat) : State × List (Act × Nat) :=
  match s.unqueue n x with
  | some (u, r, s) => (s, [(.gone n x r, u)])
  | none => ((s.runners n x).foldl (fun s q => s.askStop (upperOf q) .recordCancel) s, [])

/-- Cancel a node's whole subtree (R217). -/
def State.cancelNode (s : State) (n x : Nat) : State × List (Act × Nat) :=
  match s.nodeAt n x with
  | none => (s, [])
  | some d =>
    (d.subtree x).foldl (fun acc y =>
      match acc.1.nodeAt n y with
      | none => acc
      | some e =>
        match e.progress with
        | .ended => acc
        | .waiting => (acc.1.setNode n y { e with progress := .ended, cancel := true }, acc.2)
        | .started =>
          let s := acc.1.setNode n y { e with cancel := true }
          if e.kind.leaf && !e.cancel then
            let (s, more) := s.cancelLeaf n y
            (s, acc.2 ++ more)
          else (s, acc.2)) (s, [])

/-- What a record's end leads to where the node that it instantiates is there no more: the join at its parent join pointer is
decremented (R186). -/
def Rec.orphaned (r : Rec) : List Act := if r.join = 0 then [] else [.decr r.part r.launch r.join.toNat r.wid]

/-- A cancelled end (R217): the parent's join is decremented and no status is recorded. -/
def State.goneNode (s : State) (n x : Nat) (r : Rec) : State × List Act :=
  match SMap.find s.nests n with
  | none => (s, r.orphaned)
  | some t =>
    match t.nodes[x]? with
    | none => (s, r.orphaned)
    | some d =>
      let s := s.setNode n x { d with progress := .ended }
      match d.parent with
      | none => (s, [.rootEnd n (tokenWord 5 0)])
      | some p => (s, [.decr t.part t.launch (t.frameOf (some p)) d.wid])

/-- The composite of a live nest of a partition whose frame stands at an address (R210, R365). -/
def State.compositeAt (s : State) (part frame : Nat) : Option (Nat × Nat) :=
  s.nests.findSome? (fun (n, t) =>
    if t.part ≠ part then none
    else (t.nodes.findIdx? (fun d => d.frame == frame && !d.kind.leaf)).map (fun x => (n, x)))

/-- The depth of a node's record whose frame holds an address. -/
def State.nodeDepth (s : State) (part va : Nat) : Option Nat :=
  s.nests.findSome? (fun (_, t) =>
    if t.part ≠ part ∨ va < t.base ∨ t.base + t.size ≤ va then none
    else
      match t.nodes.reverse.find? (fun d => d.frame ≤ va) with
      | some d => if d.kind.leaf then some d.depth else none
      | none => none)

/-- The depth of a free record whose frame holds an address: of those that stand at or below it, the nearest. -/
def State.freeDepth (s : State) (part va : Nat) : Option Nat :=
  (SMap.find s.parts part).bind (fun p => (p.frames.filter (fun x => x.1 ≤ va)).getLast?.map (·.2))

/-- The depth of the record whose frame holds an address; 0 where no frame of a record does (R365; log 24). -/
def State.depthAt (s : State) (part va : Nat) : Nat := ((s.nodeDepth part va).or (s.freeDepth part va)).getD 0

/-- A free record's frame is noted with the record's depth (R365). -/
def State.noteFrame (s : State) (r : Rec) : State :=
  match SMap.find s.parts r.part with
  | none => s
  | some p =>
    if r.frame = 0 then s
    else { s with parts := SMap.put s.parts r.part { p with frames := SMap.put p.frames r.frame.toNat r.depth } }

/-- The record read from a frame without a hardware copy (R365): a step record runs Step, a stray one is logged, a free
record is queued. -/
def State.readCont (s : State) (u part launch va lv : Nat) : State × List Act :=
  match s.hwRead part (va + 16) 16 32 with
  | .error e => (s.logHw u part e (va + 16), [])
  | .ok v =>
    let frame := dword v 1
    if dword v 0 = 0 then
      match s.compositeAt part frame with
      | some (n, x) => (s, [.step n x lv])
      | none => (s.logErr 10 part 1 u false frame (dword v 3), [])
    else
      let (id, s) := s.fresh
      let r : Rec := ⟨BitVec.ofNat 64 (dword v 0), BitVec.ofNat 64 frame, BitVec.ofNat 64 (dword v 2),
        BitVec.ofNat 64 (dword v 3), part, launch, s.depthAt part va, none, false, none, id⟩
      ((s.noteFrame r).enqueue r u lv, [])

/-- An atomic decrement of the join word at an address (R186). -/
def State.decrJoin (s : State) (u part launch va : Nat) (wid : Word) : State × List Act :=
  match s.hwRead part va 64 8 with
  | .error e => (s.logHw u part e va, [])
  | .ok w =>
    let count := w % 4294967296
    let lv := w / 4294967296 % 4
    if count = 0 then (s.logErr 5 part 1 u false va wid.toNat, [])
    else
      let s := s.hwWrite u part va 64 8 (w - 1)
      if count ≠ 1 then (s, [])
      else
        match s.compositeAt part va with
        | some (n, x) => (s, [.step n x lv])
        | none => s.readCont u part launch va lv

/-- The location of an address that a launch names for the hardware: general memory, or a global slot of the partition (R180, R240).
The hardware's own access is not checked for permission (R309). -/
def State.slotLoc (s : State) (part va align : Nat) : Except Miss Nat :=
  if va % align ≠ 0 then .error ⟨Cause.misaligned, none⟩ else s.resolve ⟨part, true, 0, 0, none⟩ .hw va

/-- The location of a launch token. A token in the global window lies in the slot of the partition's core of that number, for a
deterministic launch too, where R242 would let the number name a logical core of the launch. DESIGN CHOICE, log 66. -/
def State.tokenLoc (s : State) (part va : Nat) : Except Miss Nat := s.slotLoc part va 8

/-- Write a launch token (R181). -/
def State.putToken (s : State) (u part va : Nat) (v : Word) : State :=
  match s.tokenLoc part va with
  | .error e => s.logHw u part e va
  | .ok loc => s.poke loc 8 v.toNat

/-- A launch's token receives its one final value (R181). -/
def State.finalToken (s : State) (u k : Nat) (v : Word) : State :=
  let l := s.launchAt k
  let s := s.putToken u l.part l.token v
  match SMap.find s.launches k with
  | none => s
  | some l => { s with launches := SMap.put s.launches k { l with final := some v } }

/-- The nest's root has ended (R208, R212, R213): its claims are released at once and its token gets the final value. -/
def State.endNest (s : State) (u n : Nat) (value : Word) : State :=
  match SMap.find s.nests n with
  | none => s
  | some t =>
    let s := ({ s with nests := SMap.del s.nests n }).freeChannels t.chans
    match t.token with
    | .register => s.deliver (.nest n) value
    | .memory k => s.finalToken u k value

/-- One piece of work, and what follows from it. -/
def State.act (s : State) (a : Act) (u : Nat) : State × List (Act × Nat) :=
  let at_ (r : State × List Act) : State × List (Act × Nat) := (r.1, r.2.map (fun b => (b, u)))
  match a with
  | .start n x lv => at_ (s.startNode u n x lv)
  | .step n x lv => at_ (s.stepNode u n x lv)
  | .finish n x sw lv => at_ (s.finishNode u n x sw lv)
  | .cancel n x => s.cancelNode n x
  | .gone n x r => at_ (s.goneNode n x r)
  | .decr part launch va wid => at_ (s.decrJoin u part launch va wid)
  | .rootEnd n v => (s.endNest u n v, [])

/-- Do the work of a list in order, what follows from a piece first. -/
def State.acts (s : State) (l : List (Act × Nat)) : Nat → State
  | 0 => s
  | fuel + 1 =>
    match l with
    | [] => s
    | (a, u) :: t =>
      let (s, more) := s.act a u
      s.acts (more ++ t) fuel

/-- Enough rounds for every node of every nest to start, step and end, and to cancel every other node. -/
def State.actFuel (s : State) : Nat :=
  let n := s.nests.foldl (fun k x => k + x.2.nodes.length) 0
  2 * n * n + 16 * n + 64

/-- Do a list of work to its end. -/
def State.doActs (s : State) (l : List (Act × Nat)) : State := s.acts l s.actFuel

/-! ### The end of a record (R215, R233, R365) -/

/-- A record that is to end waits for its tokens, its commands, and its updates on their way (R215, R233, R290, R291). -/
def State.endWaits (s : State) (q : Nat) : Bool :=
  let m := s.seqAt q
  s.unsettled q ||
    (match m.held, m.work with
     | some loc, some r => s.flying loc r.serial
     | _, _ => false)

/-- The result store at 0x78 of the record's frame, with its digest entry (R215, R323). -/
def State.storeResult (s : State) (u : Nat) (r : Rec) (v : Word) : State :=
  if r.frame = 0 then s
  else
    let va := (r.frame + 0x78).toNat
    let off := va % 32
    match s.hwLoc r.part va 8 with
    | .error e => s.logHw u r.part e va
    | .ok loc =>
      let s := s.poke loc 8 v.toNat
      s.hashInto r.launch r.serial (digestEntry (va - off) ((0xFF : BitVec 32) <<< off) (s.poisoned loc)
        ((v.setWidth 256) <<< (8 * off)))

/-- A sequencer leaves its record: the held round counts as flushed, the stream ends, the sequencer is idle. -/
def State.dropRecord (s : State) (q : Nat) (r : Rec) : State :=
  let m := s.seqAt q
  let s := match m.held with
    | some loc => s.quitRound loc r.serial
    | none => s
  ((s.endStream r).dropPins q).setSeq q m.cleared

/-- The running record of sequencer q ends as by `cret` with a result and a cause (R215, R216, R365). A catch handler that starts
is queued at the level of the nest's `capply`. DESIGN CHOICE, log 37. A record whose nest has ended decrements its join all the same
(R186). -/
def State.endRecord (s : State) (q cause : Nat) (result : Word) : State :=
  let s := (s.landOwn q).drainSeq q
  let m := s.seqAt q
  match m.work with
  | none => s.setSeq q m.cleared
  | some r =>
    let u := upperOf q
    let s := (s.storeResult u r result).dropRecord q r
    let s := match r.node with
      | some (n, x) =>
        let s := match s.nodeAt n x with
          | some d => s.setNode n x { d with result := result }
          | none => s
        match SMap.find s.nests n with
        | some t => s.doActs [(.finish n x (if cause = 0 then 0 else statusWord x cause) t.level, u)]
        | none => s.doActs (r.orphaned.map (fun a => (a, u)))
      | none =>
        if r.join = 0 then s
        else
          let s := if cause = 0 then s else s.recordFault u r.part r.join.toNat (statusWord 0xFFFFFFFF cause)
          s.doActs [(.decr r.part r.launch r.join.toNat r.wid, u)]
    s.settle r.launch

/-- The cancelled record of sequencer q ends (R217). -/
def State.endCancelled (s : State) (q : Nat) : State :=
  let s := (s.landOwn q).drainSeq q
  let m := s.seqAt q
  match m.work with
  | none => s
  | some r =>
    let s := s.dropRecord q r
    let s := match r.node with
      | some (n, x) => s.doActs [(.gone n x r, upperOf q)]
      | none => s
    s.settle r.launch

end Sys2Proof.Machine
end

