-- ==== Sys2Proof/Machine/Work.lean ====
section
/-!
DEFINITION. Run queues: aging, effective levels, Pop, entering and resuming a record, and the tenants of a core (R184,
R188 to R196, R222, R335, R366).
-/

namespace Sys2Proof.Machine

/-! ### Aging (R191) -/

/-- AGING (R191). -/
def execAging (s : State) : Host.Outcome State Fault Refusal := .next s.ageAll

/-! ### Effective levels (R190) -/

/-- The inherited level of a channel: the highest run level among the records yielded on it. -/
def State.inherited (s : State) (loc : Nat) : Nat :=
  (s.yields.filter (·.chan == loc)).foldl (fun k y => max k y.level) 0

/-- The channels that a record's start line names (R220). -/
def State.attached (s : State) (r : Rec) : List Nat :=
  match r.node with
  | none => []
  | some (n, x) =>
    match s.nodeAt n x with
    | none => []
    | some d => ([d.inCh, d.outCh].filter (· != 0)).filterMap (fun va => s.chanLoc r.launch r.part va)

/-- The effective level of a queued record. -/
def State.effective (s : State) (e : QEntry) : Nat :=
  (s.attached e.work).foldl (fun k c => max k (s.inherited c)) e.level

/-! ### Pop (R192, R196, R335, R366) -/

/-- Distance from upper u to upper v in ring order (R177): the order of distances is that of the ring of all uppers. -/
def ringDistance (u v : Nat) : Nat := (v + Config.allUppers - u) % Config.allUppers

/-- The first record of each level, in the order in which they came to stand there: at one upper, the oldest of its level (R188). -/
def fronts (l : List QEntry) : List QEntry := l.filter (fun e => l.find? (·.level == e.level) == some e)

/-- Of two records, the older; the first of the two on a tie. -/
def older (a b : QEntry) : QEntry := if b.age < a.age then b else a

/-- The oldest record of one upper's queues. -/
def oldestHere (l : List QEntry) : Option QEntry :=
  match fronts l with
  | [] => none
  | e :: t => some (t.foldl older e)

/-- The least distance from upper u to a record. -/
def leastDistance (u : Nat) (l : List QEntry) : Nat := l.foldl (fun d e => min d (ringDistance u e.place)) Config.allUppers

/-- The oldest record at the nearest upper that holds one. -/
def nearest (u : Nat) (l : List QEntry) : Option QEntry :=
  oldestHere (l.filter (fun e => ringDistance u e.place == leastDistance u l))

/-- The records of ordinary launches of a partition and a gang width. -/
def State.ordinaryQueue (s : State) (p width : Nat) : List QEntry :=
  s.queue.filter (fun e =>
    let l := s.launchAt e.work.launch
    e.work.part == p && !l.det && l.gang == width)

/-- Pop(U) of R192 from level `lv` down. -/
def State.popOrdinary (s : State) (u : Nat) (q : List QEntry) (lv : Nat) : Option QEntry :=
  let late := if lv = 3 then nearest u (q.filter (·.overdue)) else none
  match late with
  | some e => some e
  | none =>
    match nearest u (q.filter (fun e => s.effective e == lv)), lv with
    | some e, _ => some e
    | none, 0 => none
    | none, lv + 1 => s.popOrdinary u q lv

/-- The records of a logical core. -/
def State.logicalQueue (s : State) (k c : Nat) : List QEntry :=
  s.queue.filter (fun e => e.work.launch == k && e.place == c)

/-- Pop of R196 for one logical core: the oldest record of the highest effective level. -/
def State.popLogical (s : State) (k c : Nat) : Option QEntry :=
  let l := s.logicalQueue k c
  let top := l.foldl (fun m e => max m (s.effective e)) 0
  oldestHere (l.filter (fun e => s.effective e == top))

/-- The record a tenant of the core of upper u would run next. -/
def State.tenantNext (s : State) (p u width : Nat) (t : Tenant) : Option QEntry :=
  match t with
  | .ordinary => s.popOrdinary u (s.ordinaryQueue p width) 3
  | .logical k c => s.popLogical k c

/-- The tenant that runs on upper u: the ordinary one where no remap table names the core (R366). -/
def State.tenantOf (s : State) (p u width : Nat) : Tenant :=
  if (s.placed p u width).isEmpty then .ordinary else (s.upperAt u).tenant

/-- The record that an idle sequencer of upper u pops; none while a pre-emption is pending or the core is gated. -/
def State.popChoice (s : State) (u : Nat) : Option QEntry :=
  match s.coreAt u with
  | none => none
  | some (p, c) =>
    let up := s.upperAt u
    if up.preempt.isSome || up.power != .run then none else s.tenantNext p u c.width (s.tenantOf p u c.width)

/-! ### Entering a record (R184) and resuming a coroutine (R222) -/

/-- The control registers at entry. -/
def State.entryCtl (s : State) (r : Rec) : Ctl :=
  let p := SMap.find s.parts r.part
  { Ctl.reset with
    status := withPriv Ctl.reset.status false
    det := if (s.launchAt r.launch).det then 1 else 0
    ptab := (p.bind (·.ptab)).getD 0
    tvec := match p with
      | some p => p.handler.getD (BitVec.ofNat 64 p.stdVa)
      | none => 0 }

/-- A bad code pointer: the word at the code pointer traps bad target with TRAPPC the code pointer itself. -/
def State.badEntry (s : State) (code : Word) : State :=
  let s := s.takeTrap (Trap.plain Cause.badTarget)
  let m := s.me
  s.setMe { m with
    ctl := { m.ctl with trappc := code, resume := m.ctl.resume &&& 0x01FFFFFFFFFFFFFC }
    ring := m.ring.dropLast ++ (m.ring.getLast?.toList.map (fun t => { t with pc := code })) }

/-- Enter(record, level) on the current sequencer, whose next word still waits for the wait count of its last one (R56). -/
def State.enter (s : State) (r : Rec) (level age : Nat) : State :=
  let m := s.me.cleared
  let regs := ((m.regs.set 1 r.frame).set 2 r.wid).set 3 r.join
  let s := s.openStream r.launch r.serial
  let s := s.setMe { m with
    pc := r.code.setWidth 57, regs := regs, ctl := s.entryCtl r, mode := .running, work := some r, level := level,
    age := age, ready := max s.clock m.ready }
  if r.code.toNat < 2 ^ 57 ∧ r.code.toNat % 4 = 0 then s else s.badEntry r.code

/-- Dwords of a save block from an offset of the frame. -/
def blockDword (v off : Nat) : Word := BitVec.ofNat 64 (dword v ((off - 0x80) / 8))

/-- The loop level k of a save block; bits 1-0 of its addresses are always zero (R8, R95). -/
def blockLevel (v k : Nat) : LoopEntry :=
  ⟨blockDword v (0x180 + 24 * k) &&& ~~~3, blockDword v (0x188 + 24 * k) &&& ~~~3, blockDword v (0x190 + 24 * k)⟩

/-- Restore the state that `cyield` saved, and write 0 to its destination (R222). -/
def State.restoreBlock (s : State) (v : Nat) (d : Reg) : State :=
  let m := s.me
  let w := (blockDword v 0x88).toNat
  let m := { m with
    pc := (blockDword v 0x80 &&& ~~~3).setWidth 57
    loops := ⟨Vector.ofFn (fun k : Fin 6 => blockLevel v k.val), min 6 (w % 8)⟩
    vt := vtOfImage (blockDword v 0x90)
    regs := Vector.ofFn (fun k : Fin 32 =>
      if k.val < 4 then m.regs.get k else blockDword v (0xA0 + 8 * (k.val - 4)))
    ctl := { m.ctl with
      sdseed := blockDword v 0x98
      status := withSticky m.ctl.status (BitVec.ofNat 64 (w / 256 % 64 * 2)) } }
  s.setMe (m.setS d 0)

/-- A saved sequencer as it resumes on a sequencer of the core: at its resume address, its trap-log ring being the
sequencer's own (R286, R305). A cancelled record that stopped at a point stays stopped until its end. -/
def Seq.resumed (m old : Seq) (keep : Bool) : Seq :=
  { m with
    mode := (match m.mode with
      | .stopped k => if keep && k ≤ 2 then .stopped k else .running
      | x => x)
    resv := none, trapSeq := old.trapSeq, ring := old.ring, fetched := old.fetched, posted := none, early := []
    ready := max m.ready old.ready }

/-- A context whose local window is now that of an image: its buffered stores through that window go there (R305). -/
def Seq.rehomed (m : Seq) (image : Nat) : Seq :=
  { m with strip := m.strip.map (fun st => { st with buf := st.buf.foldl (fun b (k, e) =>
      SMap.put b (if Config.localWindow ≤ e.va then padLoc image (e.va - Config.localWindow) / 32 else k) e) [] }) }

/-- Run a popped record on the current sequencer: a saved context continues (R305), a resumed coroutine reads its save
block, any other record is entered. A save block that cannot be read keeps the record from being entered (R310). -/
def State.runEntry (s : State) (e : QEntry) : State :=
  match e.saved with
  | some m =>
    let s := s.setMe { m.resumed s.me (s.workCancelled m) with level := e.level, age := e.age }
    s.setMe (s.me.rehomed s.image)
  | none =>
    match e.work.resume with
    | none => s.enter e.work e.level e.age
    | some (d, held) =>
      match s.hwRead e.work.part (e.work.frame.toNat + 0x80) 64 512 with
      | .error x => s.logHw (upperOf s.cur) e.work.part x (e.work.frame.toNat + 0x80)
      | .ok v =>
        let s := s.enter { e.work with resume := none } e.level e.age
        let s := s.setMe { s.me with held := held }
        if v % 2 = 1 then s.restoreBlock v d else s

/-- The read of a record that stands in its queue's ring: why it cannot be made. One that fails is logged, and the record is not
entered (R310). -/
def State.ringFault (s : State) (e : QEntry) : Option (Miss × Nat) :=
  match e.ring with
  | none => none
  | some va =>
    match s.hwRead e.work.part va 32 32 with
    | .ok _ => none
    | .error m => some (m, va)

/-- Sequencer q takes a record that Pop gives its upper. -/
def State.popBy (s : State) (q : Nat) (e : QEntry) : State :=
  let c := s.cur
  let s := { s with queue := s.queue.erase e, cur := q }
  match s.ringFault e with
  | some (m, va) => { s.logHw (upperOf q) e.work.part m va with cur := c }
  | none => { s.runEntry e with cur := c }

/-- The lowest idle sequencer below q that reaches for a record in the same clock (R192). -/
def State.rival (s : State) (q : Nat) (e : QEntry) : Option Nat :=
  ((s.leaders.flatMap seqsOf).filter (fun r => r < q && (s.seqAt r).mode == .idle && s.popChoice (upperOf r) == some e)).foldl
    (fun b r => some (match b with
      | none => r
      | some x => min x r)) none

/-- Sequencer q pops; whoever wins the record that it reaches for goes first, and it goes on with the next (R192). -/
def State.popFor (s : State) (q : Nat) : Nat → State
  | 0 => s
  | n + 1 =>
    match s.popChoice (upperOf q) with
    | none => s
    | some e =>
      match s.rival q e with
      | none => s.popBy q e
      | some r => (s.popBy r e).popFor q n

/-- POP (R192): aging that is due comes first (R191); then idle sequencer q takes the record that Pop gives its upper. -/
def execPop (q : Nat) (s : State) : Host.Outcome State Fault Refusal :=
  let s := s.ageAll
  .next (if (s.seqAt q).mode = .idle then s.popFor q (4 * s.leaders.length + 1) else s)

/-! ### Stopped sequencers and tenants (R196, R297, R366) -/

/-- A sequencer counts as stopped (R297). -/
def Mode.still (m : Mode) : Bool :=
  match m with
  | .idle => true
  | .stopped _ => true
  | _ => false

/-- Every sequencer of the core has stopped, and the context-save engine has nothing left to wait for (R268, R301). -/
def State.allStill (s : State) (u : Nat) : Bool :=
  (seqsOf u).all (fun q => (s.seqAt q).mode.still && s.outstanding q == 0 &&
    (match (s.seqAt q).held, (s.seqAt q).work with
     | some loc, some r => !s.flying loc r.serial
     | _, _ => true))

/-- A stopped sequencer whose record was cancelled ends it, when the stop was a pre-emption point and its engine commands have ended
(R217). Tokens that are still to come are discarded with the record (R213), and updates on their way are waited for by the round alone
(R233). That it waits for the commands, as a save would (R268), is DEDUCED, log 50. -/
def State.endStopped (s : State) (q : Nat) : State :=
  match (s.seqAt q).mode with
  | .stopped k => if k ≤ 2 ∧ s.cancelledAt q = true ∧ s.outstanding q = 0 then s.endCancelled q else s
  | _ => s

/-- Every stopped sequencer of an upper whose record was cancelled ends it; what the others have committed is visible before they are
saved (R301). -/
def State.endStoppedAll (s : State) (u : Nat) : State := (seqsOf u).foldl State.drainSeq ((seqsOf u).foldl State.endStopped s)

/-- Put the context of a stopped sequencer back into the queues, first at its level, at an upper or its logical core (R188, R189); its
block stands at an address of a save area. It stands in the head of its queue. DESIGN CHOICE, log 14. -/
def State.requeueSeq (s : State) (m : Seq) (u : Nat) (block : Option Nat) : State :=
  match m.work with
  | none => s
  | some r =>
    let l := s.launchAt r.launch
    let place := if l.det then logicalCore r.wid l.grid else u
    let s := s.ageAll
    { s with queue := ⟨r, place, m.level, m.age, s.clock, false, some m, none, block⟩ :: s.queue }

/-- Put every stopped context of an upper back into the queues, the lowest sequencer's first; `area` holds what the context-save engine
has written of them. -/
def State.requeueAll (s : State) (u : Nat) (area : Option Nat) : State :=
  (seqsOf u).reverse.foldl (fun s q =>
    let m := s.seqAt q
    if m.work.isSome then ((s.requeueSeq m u (area.map (blockAt · (q % 4)))).dropPins q).setSeq q m.cleared else s) s

/-- The clock at which a tenant was switched out of upper u; 0 for one that never ran there. -/
def Upper.outOf (up : Upper) (t : Tenant) : Nat := ((up.outAt.find? (fun x => x.1 = t)).map (·.2)).getD 0

/-- A tenant's order among equal tenants: the ordinary one first, then by logical core (R196, R366); equal logical cores of
two launches go by launch (log 43). -/
def Tenant.rank (t : Tenant) : Nat × Nat :=
  match t with
  | .ordinary => (0, 0)
  | .logical k c => (c + 1, k)

/-- Of two tenants with their levels, the one that comes in (R196, R366). -/
def Upper.incoming (up : Upper) (a b : Tenant × Nat) : Tenant × Nat :=
  if a.2 < b.2 then b
  else if b.2 < a.2 then a
  else if up.outOf b.1 < up.outOf a.1 then b
  else if up.outOf a.1 < up.outOf b.1 then a
  else if b.1.rank.1 < a.1.rank.1 ∨ (b.1.rank.1 = a.1.rank.1 ∧ b.1.rank.2 < a.1.rank.2) then b
  else a

/-- The tenants of the core of upper u other than the running one that have a ready record, with its level. -/
def State.readyTenants (s : State) (p u width : Nat) : List (Tenant × Nat) :=
  let placed := s.placed p u width
  if placed.isEmpty then []
  else
    ((.ordinary :: placed).filter (· != (s.upperAt u).tenant)).filterMap (fun t =>
      (s.tenantNext p u width t).map (fun e => (t, s.effective e)))

/-- The tenant that would come in, when another tenant is ready. -/
def State.nextTenant (s : State) (p u width : Nat) : Option Tenant :=
  match s.readyTenants p u width with
  | [] => none
  | x :: t => some (t.foldl (s.upperAt u).incoming x).1

/-- A time slice is to be requested for the core of upper u: no request stands, the quantum has passed, and another tenant is
ready (R196). -/
def State.sliceDue (s : State) (u : Nat) : Bool :=
  let up := s.upperAt u
  up.preempt.isNone && up.since + Config.clocks100us ≤ s.clock &&
    (match s.coreAt u with
     | some (p, c) => (s.nextTenant p u c.width).isSome
     | none => false)

/-- TIME_SLICE_QUANTUM (R196): once the quantum has passed and another tenant is ready, pre-emption is requested. -/
def execTimeSliceQuantum (u : Nat) (s : State) : Host.Outcome State Fault Refusal :=
  let s := s.ageAll
  .next (if s.sliceDue u then s.askStop u .timeSlice else s)

/-- Whether a tenant switch may take place now: every sequencer stands still for a time slice, or the running tenant has
no record queued or running (R196). -/
def State.switchReady (s : State) (p u width : Nat) : Bool :=
  s.allStill u &&
    ((s.upperAt u).preempt.map (·.1) == some .timeSlice ||
      ((s.upperAt u).preempt.isNone && (seqsOf u).all (fun q => (s.seqAt q).work.isNone) &&
        (s.tenantNext p u width (s.upperAt u).tenant).isNone))

/-- The class tables of the running tenant of upper u wait for its next turn (R28, R302), its context standing in `area`; those of a
logical core whose launch is over are gone. -/
def State.putAside (s : State) (p u : Nat) (why : Purpose) (area : Option Nat) : State :=
  let up := s.upperAt u
  let alive := match up.tenant with
    | .ordinary => true
    | .logical k _ => (SMap.find s.launches k).isSome
  if alive then
    let (id, s) := s.fresh
    let x : Saved := ⟨u, p, up.tenant, [], up.active, up.shadow, up.gen, Config.timeNs s.clock, why,
      ((s.coreAt u).map (fun c => c.2.width)).getD 1, up.since, area⟩
    { s with saves := SMap.put s.saves id x }
  else s

/-- Switch the core c to a tenant (R196): cancelled records end, the context-save engine saves the outgoing tenant's context, whose
stopped sequencers go back to the queues, and class tables are exchanged. -/
def State.switchTenant (s : State) (p : Nat) (c : CoreOf) (t : Tenant) : State :=
  let u := c.leader
  let (area, s) : Option Nat × State := (s.endStoppedAll u).keepContext p c .timeSlice
  let s := s.requeueAll u area
  let (active, shadow, gen, s) : Tables × Tables × BitVec 16 × State :=
    match s.tenantTables u t with
    | some (k, x) => (x.active, x.shadow, x.gen, { s with saves := SMap.del s.saves k })
    | none => (Tables.reset, Tables.reset, 0, s)
  let s := s.putAside p u .timeSlice area
  let up := s.upperAt u
  s.setUpper u { up with
    active := active, shadow := shadow, gen := gen, tenant := t, since := s.clock, preempt := none
    outAt := (up.tenant, s.clock) :: up.outAt.filter (fun x => x.1 ≠ up.tenant) }

/-- A time slice whose other tenants are ready no longer: the context-save engine saves the stopped contexts (R301), and they go back to
the queues. -/
def State.dropSlice (s : State) (p : Nat) (c : CoreOf) : State :=
  let u := c.leader
  if (s.upperAt u).preempt.map (·.1) = some .timeSlice ∧ s.allStill u then
    let (area, s) : Option Nat × State := (s.endStoppedAll u).keepContext p c .timeSlice
    let s := s.requeueAll u area
    s.setUpper u { s.upperAt u with preempt := none }
  else s

/-- TENANT_SWITCH (R196, R366). -/
def execTenantSwitch (u : Nat) (s : State) : Host.Outcome State Fault Refusal :=
  let s := s.ageAll
  match s.coreAt u with
  | none => .next s
  | some (p, c) =>
    match s.nextTenant p u c.width with
    | none => .next (s.dropSlice p c)
    | some t => if s.switchReady p u c.width then .next (s.switchTenant p c t) else .next s

/-- A tenant switch of the core of upper u is due: it may take place now, and another tenant is ready (R196). -/
def State.switchDue (s : State) (u : Nat) : Bool :=
  match s.coreAt u with
  | some (p, c) => (s.nextTenant p u c.width).isSome && s.switchReady p u c.width
  | none => false

end Sys2Proof.Machine
end

