-- ==== Sys2Proof/Machine/Patterns.lean ====
section
/-!
DEFINITION. Majors 0x32 and 0x33: the construction instructions (R199 to R202), the walk of `capply` with its checks and
claims (R204 to R209), `capply`, `cret` and `wid` (R213, R215, R218).
-/

namespace Sys2Proof.Machine

/-! ### Entries (R199 to R201) -/

/-- A pattern-table entry as read: its head fields, operands and shape word, and whether it is a bad entry. -/
structure Entry where
  kind    : Option Kind
  route   : Nat
  handler : Nat
  a       : Nat
  b       : Nat
  shape   : Nat
  bad     : Bool
  deriving DecidableEq, Repr

/-- The kind of a code (R200). -/
def Kind.ofCode (k : Nat) : Option Kind :=
  match k with
  | 1 => some .fn
  | 2 => some .cor
  | 3 => some .sq
  | 4 => some .par
  | 5 => some .pipe
  | 6 => some .farm
  | 7 => some .loop
  | _ => none

/-- A claims word keeps R201. -/
def claimsOk (v : Nat) : Bool := v < 4294967296 && v / 4096 % 32768 ≤ 16384 && v / 134217728 % 8 ≤ 4

/-- A geometry word keeps R201. -/
def geometryOk (v : Nat) : Bool :=
  let e := v / 65536 % 65536
  v < 4294967296 && v % 65536 != 0 && e % 8 == 0 && 8 ≤ e && e ≤ 4096

/-- Operands A, B and the shape word keep the ranges of their kind (R199, R201). -/
def operandsOk (k : Kind) (a b shape : Nat) : Bool :=
  match k with
  | .fn => a < 2 ^ 57 && a % 4 == 0 && b == 0 && claimsOk shape
  | .cor => a < 2 ^ 57 && a % 4 == 0 && b == 0 && claimsOk shape
  | .farm => a < 4096 && b < 131072 && shape == 0
  | .pipe => a < 4096 && b < 4096 && geometryOk shape
  | .sq => a < 4096 && b < 4096 && shape == 0
  | .par => a < 4096 && b < 4096 && shape == 0
  | .loop => a < 4096 && b < 4096 && shape == 0

/-- The entry in 64 bytes. -/
def Entry.of (v : Nat) : Entry :=
  let head := dword v 0
  let k := Kind.ofCode (head % 16)
  let route := head / 16 % 16
  let h := head / 256 % 4096
  let ok := head < 1048576 && route ≤ 2 && (route == 1 || h == 0) &&
    dword v 4 == 0 && dword v 5 == 0 && dword v 6 == 0 && dword v 7 == 0 &&
    (match k with
     | none => false
     | some k => operandsOk k (dword v 1) (dword v 2) (dword v 3))
  ⟨k, route, h, dword v 1, dword v 2, dword v 3, !ok⟩

/-! ### Construction (R202) -/

/-- The operands of an entry of a kind from the registers x and y: A, B and shape; none when out of range. A farm's count
goes to 65,536 here. -/
def buildOperands (k : Kind) (x y : Nat) : Option (Nat × Nat × Nat) :=
  let r : Nat × Nat × Nat :=
    match k with
    | .fn => (x, 0, y)
    | .cor => (x, 0, y)
    | .pipe => (x % 65536, x / 65536, y)
    | .farm => (x, y, 0)
    | .sq => (x, y, 0)
    | .par => (x, y, 0)
    | .loop => (x, y, 0)
  if operandsOk k r.1 r.2.1 r.2.2 && (k != .farm || y ≤ 65536) then some r else none

/-- The checks of Construct: node word, operands, then the entry's address as a 64-byte store. -/
def State.constructCheck (s : State) (k : Kind) (nw x y : Word) : Except Trap (Nat × Nat × Nat) :=
  let n := nw.toNat
  let route := n / 4096 % 16
  let h := n / 65536 % 4096
  if 268435456 ≤ n ∨ 2 < route then .error (Trap.plain Cause.illegalPattern)
  else if route ≠ 1 ∧ h ≠ 0 then .error (Trap.plain Cause.illegalPattern)
  else
    match buildOperands k x.toNat y.toNat with
    | none => .error (Trap.plain Cause.illegalPattern)
    | some (a, b, sh) =>
      let ea := s.me.ctl.ptab + BitVec.ofNat 64 (64 * (n % 4096))
      match s.checkAccess s.ctx .store ea.toNat 1 with
      | .error e => .error (e.trap 0 ea.toNat)
      | .ok loc => .ok (ea.toNat, loc, packDwords [k.code + route * 16 + h * 256, a, b, sh, 0, 0, 0, 0])

/-- A construction instruction: one whole entry is written. -/
def construct (i : Instr) (k : Kind) (f : R3) (s : State) : Host.Outcome State Fault Refusal :=
  run i (fun s =>
    let nw := s.sreg f.d
    let x := s.sreg f.a
    let y := s.sreg f.b
    closing (fun s => s.constructCheck k nw x y) (fun (ea, loc, v) s =>
      .done .seq (s.store (bufNat [] ea loc 64 v))) s) s

def execCfun (f : R3) (s : State) : Host.Outcome State Fault Refusal := construct (.cfun f) .fn f s
def execCcor (f : R3) (s : State) : Host.Outcome State Fault Refusal := construct (.ccor f) .cor f s
def execCseq (f : R3) (s : State) : Host.Outcome State Fault Refusal := construct (.cseq f) .sq f s
def execCpar (f : R3) (s : State) : Host.Outcome State Fault Refusal := construct (.cpar f) .par f s
def execCpipe (f : R3) (s : State) : Host.Outcome State Fault Refusal := construct (.cpipe f) .pipe f s
def execCfarm (f : R3) (s : State) : Host.Outcome State Fault Refusal := construct (.cfarm f) .farm f s
def execCloop (f : R3) (s : State) : Host.Outcome State Fault Refusal := construct (.cloop f) .loop f s

/-! ### The walk (R205 to R207) -/

/-- What a walk works with: its reads' accesses, the table, and the launch's figures. -/
structure Walk where
  ctx    : Ctx
  ptab   : Nat
  widths : List Nat
  det    : Bool
  gang   : Nat
  deriving DecidableEq, Repr

/-- Why a walk stops: a read faults (R204), or a node fails a check (R207): reason and entry. -/
inductive Refused where
  | fault (t : Trap)
  | node (reason entry : Nat)
  deriving DecidableEq, Repr

/-- Read entry i as one 64-byte load of the walk's issuer (R198, R204). -/
def State.readEntry (s : State) (w : Walk) (i : Nat) : Except Refused Entry :=
  let va := (w.ptab + 64 * i) % 18446744073709551616
  match s.checkAccess w.ctx .load va 64 with
  | .error e => .error (.fault (e.trap 0 va))
  | .ok loc => if s.anyMarked loc 64 then .error (.fault (poisonTrap 0 va)) else .ok (Entry.of (cellsNat s.mem.cells loc 64))

/-- Fields in use: the leading non-zero widths (R178). -/
def fieldsUsed (ws : List Nat) : Nat := (ws.takeWhile (· != 0)).length

/-- The first bit of field j (R178). -/
def fieldStart (ws : List Nat) (j : Nat) : Nat := (ws.take j).foldl (· + ·) 0

/-- The claims of a subtree (R208): frame bytes, leaves, channel bytes, scratch bytes, slots. -/
structure Sums where
  frames  : Nat
  leaves  : Nat
  chans   : Nat
  scratch : Nat
  slots   : Nat
  deriving DecidableEq, Repr

/-- Add n times the claims of another subtree. -/
def Sums.plus (x : Sums) (n : Nat) (y : Sums) : Sums :=
  ⟨x.frames + n * y.frames, x.leaves + n * y.leaves, x.chans + n * y.chans, x.scratch + n * y.scratch,
    x.slots + n * y.slots⟩

/-- Bytes of a channel (R201). -/
def channelSize (shape : Nat) : Nat := alignUp (64 + shape % 65536 * (shape / 65536 % 65536)) 64

/-- Frame bytes of one instance (R208). -/
def frameSize (k : Kind) (shape : Nat) : Nat :=
  match k with
  | .fn => 128 + 64 * max (shape % 4096) 1
  | .cor => 640 + 64 * (shape % 4096)
  | _ => 128

/-- The claims of one instance (R208). -/
def ownSums (k : Kind) (shape : Nat) : Sums :=
  if k.leaf then ⟨frameSize k shape, 1, 0, 64 * (shape / 4096 % 32768), shape / 134217728 % 8⟩
  else ⟨128, 0, if k = .pipe then channelSize shape else 0, 0, 0⟩

/-- The reasons 2 to 5 that apply to a node that is no bad entry, the lowest first (R207). A child index that does not fit is judged at
the composite, whose entry index the refusal names. DESIGN CHOICE, log 76. -/
def nodeReason (w : Walk) (e : Entry) (k : Kind) (depth hl : Nat) : Option Nat :=
  let deep := (!k.leaf && (fieldsUsed w.widths ≤ depth || 6 ≤ depth)) || 6 < hl
  let top := if k = .farm then e.b - 1 else 1
  let wide := !k.leaf && 2 ^ (w.widths.getD depth 0) ≤ top
  let gang := e.shape / 1073741824 % 4
  if deep then some 2
  else if wide then some 3
  else if e.route = 2 ∧ w.det then some 4
  else if k.leaf && gang != 0 && 2 ^ (gang - 1) != w.gang then some 5
  else none

/-- A loop's cond is a function or a coroutine (R207 reason 1). -/
def State.condOk (s : State) (w : Walk) (e : Entry) (k : Kind) : Except Refused Bool :=
  if k ≠ .loop then .ok true
  else
    match s.readEntry w e.b with
    | .error x => .error x
    | .ok c => .ok (c.kind == some .fn || c.kind == some .cor)

/-- The checks of R207 on the instance of entry i and all below it, in walk order; the claims of the subtree. Depth and
handler level only rise, so `fuel` 16 reaches every node. -/
def State.survey (s : State) (w : Walk) (fuel i depth hl : Nat) : Except Refused Sums :=
  match fuel with
  | 0 => .error (.node 2 i)
  | fuel + 1 =>
    match s.readEntry w i with
    | .error x => .error x
    | .ok e =>
      match e.kind with
      | none => .error (.node 1 i)
      | some k =>
        if e.bad then .error (.node 1 i)
        else
          match s.condOk w e k with
          | .error x => .error x
          | .ok false => .error (.node 1 i)
          | .ok true =>
            match nodeReason w e k depth hl with
            | some r => .error (.node r i)
            | none =>
              let kids : List (Nat × Nat) :=
                if k.leaf then [] else if k = .farm then (if e.b = 0 then [] else [(e.b, e.a)]) else [(1, e.a), (1, e.b)]
              let below := kids.foldl (fun (acc : Except Refused Sums) (x : Nat × Nat) =>
                match acc with
                | .error x => .error x
                | .ok a =>
                  match s.survey w fuel x.2 (depth + 1) hl with
                  | .error y => .error y
                  | .ok b => .ok (a.plus x.1 b)) (.ok (ownSums k e.shape))
              match below with
              | .error x => .error x
              | .ok a =>
                if e.route ≠ 1 then .ok a
                else
                  match s.survey w fuel e.handler depth (hl + 1) with
                  | .error y => .error y
                  | .ok b => .ok (a.plus 1 b)

/-! ### Placing (R209, R246) -/

/-- Insert an interval by its start. -/
def spanInsert (l : List (Nat × Nat)) (x : Nat × Nat) : List (Nat × Nat) :=
  match l with
  | [] => [x]
  | y :: t => if x.1 ≤ y.1 then x :: y :: t else y :: spanInsert t x

/-- First fit: the lowest place from `lo` on, below `hi`, where `size` bytes are free of the taken intervals (start and
end), which rise by start. -/
def firstFit (taken : List (Nat × Nat)) (lo hi size : Nat) : Option Nat :=
  match taken with
  | [] => if lo + size ≤ hi then some lo else none
  | (a, b) :: t => if lo + size ≤ a ∧ lo + size ≤ hi then some lo else firstFit t (max lo b) hi size

/-- Where a nest is placed: its nodes' numbers and frames, and the channels placed so far (offset, size). -/
structure Build where
  num   : Nat
  frame : Nat
  chans : List (Nat × Nat)
  ok    : Bool
  deriving DecidableEq, Repr

/-- What placing works with: the walk, the intervals taken in the channel area, its bounds, the window address of the
area's sole. -/
structure Site where
  walk  : Walk
  taken : List (Nat × Nat)
  lo    : Nat
  hi    : Nat
  window : Nat
  deriving DecidableEq, Repr

/-- Place a pipe's channel. -/
def Build.channel (b : Build) (t : Site) (size : Nat) : Nat × Build :=
  let taken := (t.taken ++ b.chans.map (fun c => (c.1, c.1 + c.2))).foldl spanInsert []
  match firstFit taken t.lo t.hi size with
  | none => (0, { b with ok := false })
  | some off => (t.window + off, { b with chans := b.chans ++ [(off, size)] })

/-- The identifier of child `idx` of a composite at depth `depth` (R179). -/
def childWid (ws : List Nat) (wid depth idx : Nat) : Nat := wid % 2 ^ fieldStart ws depth + idx * 2 ^ fieldStart ws depth

/-- What an instance takes over from above: depth, identifier, parent, node it serves, channels (R205, R206, R220). -/
structure Heir where
  depth  : Nat
  wid    : Nat
  parent : Option Nat
  serves : Option Nat
  inCh   : Nat
  outCh  : Nat
  deriving DecidableEq, Repr

/-- The nodes of the subtree of entry i, in visiting order (R205), of a nest that passed every check. -/
def State.buildNodes (s : State) (t : Site) (fuel i : Nat) (h : Heir) (b : Build) : List Node × Build :=
  match fuel with
  | 0 => ([], b)
  | fuel + 1 =>
    match s.readEntry t.walk i with
    | .error _ => ([], b)
    | .ok e =>
      let k := e.kind.getD .fn
      let me := b.num
      let frame := b.frame
      let (chan, b) := if k = .pipe then b.channel t (channelSize e.shape) else (0, b)
      let b := { b with num := me + 1, frame := frame + frameSize k e.shape }
      let kid (idx : Nat) : Heir :=
        ⟨h.depth + 1, childWid t.walk.widths h.wid h.depth idx, some me, none,
          if k = .pipe ∧ idx = 1 then chan else h.inCh, if k = .pipe ∧ idx = 0 then chan else h.outCh⟩
      let parts : List (Nat × Nat) :=
        if k.leaf then [] else if k = .farm then (List.range e.b).map (fun j => (j, e.a)) else [(0, e.a), (1, e.b)]
      let (kids, nodes, b) := parts.foldl (fun (acc : List Nat × List Node × Build) (p : Nat × Nat) =>
        let (ns, b) := s.buildNodes t fuel p.2 (kid p.1) acc.2.2
        (acc.1 ++ [acc.2.2.num], acc.2.1 ++ ns, b)) ([], [], b)
      let hx := b.num
      let (hn, b) := if e.route = 1 then s.buildNodes t fuel e.handler { h with serves := some me } b else ([], b)
      let d : Node :=
        { entry := i, kind := k, route := e.route, parent := h.parent, kids := kids,
          handler := if e.route = 1 then some hx else none, serves := h.serves, frame := frame,
          wid := BitVec.ofNat 64 h.wid, depth := h.depth, code := if k.leaf then BitVec.ofNat 64 e.a else 0,
          inCh := h.inCh, outCh := h.outCh, chan := chan, phase := 0, iter := 0, result := 0, progress := .waiting,
          cancel := false, lost := false, count := b.num - me, span := b.frame - frame }
      (d :: nodes ++ hn, b)

/-! ### Pools (R207 reasons 6 to 10, R208) -/

/-- Cores of a partition of a gang width (R335). -/
def Partition.coresOf (p : Partition) (gang : Nat) : List CoreOf := p.cores.filter (·.width == gang)

/-- Nests of a partition whose launch has a gang width. -/
def State.nestsOf (s : State) (part gang : Nat) : List Nest :=
  (s.nests.map (·.2)).filter (fun t => t.part == part && (s.launchAt t.launch).gang == gang)

/-- Frame blocks taken in the pool of a partition: nests outside frame areas, and frame areas (R209). -/
def State.poolTaken (s : State) (part : Nat) : List (Nat × Nat) :=
  let nests := (s.nests.map (·.2)).filter (fun t => t.part == part && t.area.isNone)
  let areas := s.launches.flatMap (fun x => if x.2.part = part then x.2.areas else [])
  ((nests.map (fun t => (t.base, t.base + t.size))) ++ areas.map (fun a => (a.1, a.1 + a.2))).foldl spanInsert []

/-- Frame blocks taken in one frame area. -/
def State.areaTaken (s : State) (launch core : Nat) : List (Nat × Nat) :=
  (((s.nests.map (·.2)).filter (fun t => t.launch == launch && t.area == some core)).map
    (fun t => (t.base, t.base + t.size))).foldl spanInsert []

/-- Channel intervals taken in sole 0 of an image. -/
def State.chansTaken (s : State) (image : Nat) : List (Nat × Nat) :=
  s.nests.flatMap (fun x => (x.2.chans.filter (·.1 == image)).map (fun c => (c.2.1, c.2.1 + c.2.2)))

/-- A sum over nests. -/
def claimSum (l : List Nest) (g : Nest → Nat) : Nat := l.foldl (fun k t => k + g t) 0

/-- Who issues a `capply`: its walk, launch and root; the argument, depth, identifier, level and token of the nest; the
issuing upper; the logical core of a deterministic launch; image and slot of the channels' sole. -/
structure Issuer where
  walk   : Walk
  part   : Nat
  launch : Nat
  root   : Nat
  args   : Word
  depth  : Nat
  wid    : Word
  level  : Nat
  token  : NestTok
  upper  : Nat
  core   : Option Nat
  image  : Nat
  slot   : Nat
  deriving DecidableEq, Repr

/-- The frame block of a nest, first-fit in the pool or in the logical core's area (R209). -/
def State.placeBlock (s : State) (p : Partition) (q : Issuer) (size : Nat) : Option Nat :=
  match q.core with
  | none => firstFit (s.poolTaken q.part) p.pool.1 (p.pool.1 + p.pool.2) size
  | some c =>
    match (s.launchAt q.launch).areas[c]? with
    | none => none
    | some a => firstFit (s.areaTaken q.launch c) a.1 (a.1 + a.2) size

/-- The pools in order; the frame block's base, the nodes and the channels of a nest that fits. -/
def State.reserve (s : State) (q : Issuer) (x : Sums) : Except Nat (Nat × List Node × List (Nat × Nat)) :=
  match SMap.find s.parts q.part with
  | none => .error 6
  | some p =>
    let same := s.nestsOf q.part q.walk.gang
    let cores := p.coresOf q.walk.gang
    match s.placeBlock p q x.frames with
    | none => .error 6
    | some base =>
      if cores.length * p.slotsPerUpper < x.leaves + claimSum same (·.claims.queue) ∨ cores.isEmpty then .error 7
      else
        let site : Site := ⟨q.walk, s.chansTaken q.image, 1048576 - 65536 * p.share, 1048576,
          Config.globalWindow + q.slot * 4194304⟩
        if 65536 * p.share < x.chans then .error 8
        else
          let (nodes, b) := s.buildNodes site 16 q.root ⟨q.depth, q.wid.toNat, none, none, 0, 0⟩ ⟨0, base, [], true⟩
          if !b.ok then .error 8
          else if 1048576 - 65536 * p.share < x.scratch + claimSum same (·.claims.scratch) then .error 9
          else if 4 < x.slots + claimSum same (·.claims.slots) then .error 10
          else .ok (base, nodes, b.chans)

/-- Create the channels of a nest, empty and open, with their live bits (R219, R221). -/
def State.makeChannels (s : State) (image : Nat) (nodes : List Node) (w : Walk) : State :=
  nodes.foldl (fun s d =>
    if d.kind ≠ .pipe then s
    else
      match s.readEntry w d.entry with
      | .error _ => s
      | .ok e =>
        let off := d.chan % 4194304
        let loc := padLoc image off
        let sl := s.soleAt image
        (s.setSole image { sl with live := insertNat sl.live off }).poke (loc + 16) 8 e.shape |>.emptyChannel loc) s

/-- Check and reserve a nest; a refusal or fault changes nothing. A nest that fits has its channels and frames written
and stands in the table under a fresh number. -/
def State.makeNest (s : State) (q : Issuer) : Except Refused (Nat × State) :=
  match s.survey q.walk 16 q.root q.depth 0 with
  | .error x => .error x
  | .ok x =>
    match s.reserve q x with
    | .error r => .error (.node r q.root)
    | .ok (base, nodes, chans) =>
      let (n, s) := s.fresh
      let t : Nest := ⟨q.launch, q.part, q.token, q.level, q.args, base, x.frames, q.core,
        chans.map (fun c => (q.image, c.1, c.2)), ⟨x.frames, x.leaves, x.scratch, x.slots⟩, nodes⟩
      let s := { s with nests := SMap.put s.nests n t }.makeChannels q.image nodes q.walk
      .ok (n, (List.range nodes.length).foldl (fun s k => s.writeFrame q.upper n k) s)

/-- A refusal's token value (R207). -/
def refusalWord (reason entry : Nat) : Word := tokenWord 3 (reason + entry * 256)

/-! ### capply, cret, wid -/

/-- The current sequencer as the issuer of a `capply`. -/
def State.issuer (s : State) (root : Nat) (args : Word) : Issuer :=
  let m := s.me
  let c := s.ctx
  let l := s.launchAt s.myLaunch
  let u := upperOf s.cur
  let r := m.work
  let w : Walk := ⟨c, m.ctl.ptab.toNat, l.widths, l.det, l.gang⟩
  let core := if l.det then some (logicalCore s.widOr0 l.grid) else none
  let slot := match core with
    | some k => k
    | none => ((s.coreAt u).map (fun x => x.2.slot)).getD 0
  ⟨w, c.part, s.myLaunch, root, args, (r.map (·.depth)).getD 0, s.widOr0, m.level, .register, u, core, c.image, slot⟩

/-- `capply` (R204, R213). -/
def execCapply (f : R3) (s : State) : Host.Outcome State Fault Refusal :=
  run (.capply f) (fun s =>
    let root := (s.sreg f.a).toNat
    let args := s.sreg f.b
    closing (fun _ => if 4095 < root then .error (Trap.plain Cause.illegalPattern) else .ok ()) (fun _ s =>
      match s.mine.makeNest (s.issuer root args) with
      | .error (.fault t) => .trap t s
      | .error (.node r i) => .done .seq (s.setS f.d (refusalWord r i))
      | .ok (n, t) =>
        let m := t.me
        let t := t.setMe { m with pend := if f.d.val = 0 then m.pend else SMap.put m.pend f.d.val (.nest n) }
        .done .seq (t.doActs [(.start n 0 m.level, upperOf t.cur)]).notMine) s) s

/-- `cret` (R215): it waits for the record's tokens after the commit. -/
def execCret (f : Pair) (s : State) : Host.Outcome State Fault Refusal :=
  run (.cret f) (fun s =>
    let result := s.sreg f.a
    let cause := (s.sreg f.b).toNat
    closing (fun _ => if 65535 < cause then .error (Trap.plain Cause.illegalPattern) else .ok ()) (fun _ s =>
      if s.endWaits s.cur then .wait s else .done .stay (s.endRecord s.cur cause result)) s) s

/-- Field k of a work identifier; 0 when the field is not in use (R218). -/
def widField (ws : List Nat) (wid : Word) (k : Nat) : Word :=
  if k < fieldsUsed ws then BitVec.ofNat 64 (wid.toNat / 2 ^ fieldStart ws k % 2 ^ ws.getD k 0) else 0

/-- `wid` (R218). -/
def execWid (f : R2) (s : State) : Host.Outcome State Fault Refusal :=
  run (.wid f) (fun s =>
    let v : Word :=
      if f.a.val = 6 then s.widOr0
      else if f.a.val = 7 then BitVec.ofNat 64 ((s.me.work.map (·.depth)).getD 0)
      else widField (s.launchAt s.myLaunch).widths s.widOr0 f.a.val
    .done .seq (s.setS f.d v)) s

end Sys2Proof.Machine
end

