-- ==== Sys2Proof/Machine/Channels.lean ====
section
/-!
DEFINITION. Channels: `chput`, `chget` and `cyield` (R219 to R223).
-/

namespace Sys2Proof.Machine

/-! ### Control lines -/

/-- The counts and the control dword of a channel (R219). -/
def State.chTaken (s : State) (loc : Nat) : Nat := cellsNat s.mem.cells loc 8
def State.chPut (s : State) (loc : Nat) : Nat := cellsNat s.mem.cells (loc + 8) 8
def State.chDepth (s : State) (loc : Nat) : Nat := cellsNat s.mem.cells (loc + 16) 2
def State.chSize (s : State) (loc : Nat) : Nat := cellsNat s.mem.cells (loc + 18) 2
def State.chClosed (s : State) (loc : Nat) : Bool := cellsNat s.mem.cells (loc + 20) 4 % 2 == 1

/-- Elements in the channel; the counts wrap at 64 bits. -/
def State.chHeld (s : State) (loc : Nat) : Nat :=
  (s.chPut loc + 18446744073709551616 - s.chTaken loc) % 18446744073709551616

/-- Bytes from the control line to the slot of an element count. -/
def State.slotOff (s : State) (loc count : Nat) : Nat := 64 + count % max 1 (s.chDepth loc) * s.chSize loc

/-- A yield condition: 0 not full or closed, 1 not empty or closed (R222). -/
def State.condHolds (s : State) (loc cond : Nat) : Bool :=
  s.chClosed loc || (if cond = 0 then s.chHeld loc != s.chDepth loc else s.chHeld loc != 0)

/-- After an operation on a channel, every record yielded on it whose condition holds is queued again, in the order of
the yields, as the youngest of its run level (R189, R222). -/
def State.wakeYields (s : State) (loc : Nat) : State :=
  (s.yields.filter (fun y => y.chan == loc && s.condHolds loc y.cond)).foldl (fun s y =>
    { s with yields := s.yields.erase y }.enqueue y.work y.place y.level) s

/-! ### Checks (R111, R221) -/

/-- The issue checks of a channel address: alignment, then the windows; general memory has no channel. An access to a core that is
saved is held (R301). -/
def State.chanCheck (s : State) (va : Word) : Except Trap Nat :=
  if va.toNat % 64 ≠ 0 then .error ⟨Cause.misaligned, 0, 8 * va.toNat, none⟩
  else if 2 ^ 57 ≤ va.toNat then .error ⟨Cause.addressRange, 0, 8 * va.toNat, none⟩
  else if va.toNat < Config.globalWindow then .error (Trap.plain Cause.badChannel)
  else if s.heldAt s.ctx va.toNat then .error (Trap.plain Cause.held)
  else
    match s.resolve s.ctx .hw va.toNat with
    | .error e => .error (e.trap 0 va.toNat)
    | .ok loc => .ok loc

/-- The location check: the control line of a live channel. -/
def State.chanLive (s : State) (loc : Nat) : Bool := s.liveLine loc

/-- The check of a memory address at issue: alignment to 8, range, translation and permission. -/
def State.elemCheck (s : State) (acc : Acc) (va : Word) : Except Trap Unit :=
  match s.checkAccess s.ctx acc va.toNat 8 with
  | .error e => .error (e.trap 0 va.toNat)
  | .ok _ => .ok ()

/-- The whole element, whose size the channel holds: every dword can be accessed (R122 steps 1 to 3). -/
def State.elemWhole (s : State) (acc : Acc) (va : Nat) : Nat → Except Trap Unit
  | 0 => .ok ()
  | n + 1 =>
    match s.checkAccess s.ctx acc va 8 with
    | .error e => .error (e.trap 0 va)
    | .ok _ => s.elemWhole acc (va + 8) n

/-- The first marked dword of a source element traps (R316). -/
def State.elemMarked (s : State) (va : Nat) : Nat → Option Trap
  | 0 => none
  | n + 1 =>
    match s.resolve s.ctx .load va with
    | .error _ => none
    | .ok loc => if s.viewBad loc 8 then some (poisonTrap 0 va) else s.elemMarked (va + 8) n

/-- Read dwords from an address. -/
def State.elemRead (s : State) (va : Nat) : Nat → Nat
  | 0 => 0
  | n + 1 =>
    (match s.resolve s.ctx .hw va with
     | .error _ => 0
     | .ok loc => cellsNat s.mem.cells loc 8) + 18446744073709551616 * s.elemRead (va + 8) n

/-- Sectors of a write of dwords to an address. -/
def State.elemWrite (s : State) (b : SMap BufSector) (va v : Nat) : Nat → SMap BufSector
  | 0 => b
  | n + 1 =>
    let b := match s.resolve s.ctx .hw va with
      | .error _ => b
      | .ok loc => bufNat b va loc 8 v
    s.elemWrite b (va + 8) (v / 18446744073709551616) n

/-! ### chput and chget (R221) -/

/-- What `chput` does at its point in the channel's order: every check of sB comes before the channel's state is looked at. A control
line whose counts are marked traps (R316). -/
def State.chputAt (s : State) (va loc src : Nat) (d : Reg) : Res :=
  if !s.chanLive loc then .trap (Trap.plain Cause.badChannel) s
  else if s.anyMarked loc 24 then .trap (poisonTrap 0 va) s
  else if src = 0 then
    let g := cellsNat s.mem.cells (loc + 16) 4
    .done .seq (((s.pokeMine (loc + 16) 8 (g + 4294967296)).wakeYields loc).setS d 0)
  else
    let n := s.chSize loc / 8
    match s.elemWhole .load src n with
    | .error t => .trap t s
    | .ok () =>
      if s.chClosed loc then .done .seq (s.setS d 3)
      else if s.chHeld loc = s.chDepth loc then .done .seq (s.setS d 1)
      else
        match s.elemMarked src n with
        | some t => .trap t s
        | none =>
          let off := s.slotOff loc (s.chPut loc)
          let s := s.commitSectors (bufNat [] (va + off) (loc + off) (8 * n) (s.elemRead src n))
          .done .seq (((s.pokeMine (loc + 8) 8 (s.chPut loc + 1)).wakeYields loc).setS d 0)

/-- What `chget` does at its point in the channel's order. The removal of an element is an acquire (R258, R259). -/
def State.chgetAt (s : State) (va loc dst : Nat) (d : Reg) : Res :=
  if !s.chanLive loc then .trap (Trap.plain Cause.badChannel) s
  else if s.anyMarked loc 24 then .trap (poisonTrap 0 va) s
  else
    let n := s.chSize loc / 8
    match s.elemWhole .store dst n with
    | .error t => .trap t s
    | .ok () =>
      if s.chHeld loc = 0 then .done .seq (s.setS d (if s.chClosed loc then 2 else 1))
      else
        let off := s.slotOff loc (s.chTaken loc)
        if s.anyMarked (loc + off) (8 * n) then .trap (poisonTrap 0 (va + off)) s
        else
          let s := s.commitSectors (s.elemWrite [] dst (cellsNat s.mem.cells (loc + off) (8 * n)) n)
          .done .seq ((((s.pokeMine loc 8 (s.chTaken loc + 1)).wakeYields loc).acquire sysScope).setS d 0)

/-- The issue checks of `chput`; sB = 0 closes and is not checked. -/
def State.chputCheck (s : State) (a b : Word) : Except Trap Nat :=
  match s.chanCheck a with
  | .error t => .error t
  | .ok loc =>
    if b = 0 then .ok loc
    else
      match s.elemCheck .load b with
      | .error t => .error t
      | .ok () => .ok loc

/-- The issue checks of `chget`. -/
def State.chgetCheck (s : State) (a b : Word) : Except Trap Nat :=
  match s.chanCheck a with
  | .error t => .error t
  | .ok loc =>
    if b = 0 then .error (Trap.plain Cause.badChannel)
    else
      match s.elemCheck .store b with
      | .error t => .error t
      | .ok () => .ok loc

def execChput (f : R3) (s : State) : Host.Outcome State Fault Refusal :=
  run (.chput f) (fun s =>
    let a := s.sreg f.a
    let b := s.sreg f.b
    closing (fun s => s.chputCheck a b) (fun loc s => s.chputAt a.toNat loc b.toNat f.d) s) s

def execChget (f : R3) (s : State) : Host.Outcome State Fault Refusal :=
  run (.chget f) (fun s =>
    let a := s.sreg f.a
    let b := s.sreg f.b
    closing (fun s => s.chgetCheck a b) (fun loc s => s.chgetAt a.toNat loc b.toNat f.d) s) s

/-! ### cyield (R222) -/

/-- The dwords of a save block from 0x80 on (R222); `pc` is the resume address. The flags stand in the order of STATUS,
NV at bit 8 (log 26). -/
def saveBlock (m : Seq) (pc : VAddr) : List Nat :=
  let sticky := (m.ctl.status &&& stickyMask).toNat
  [pc.toNat / 4 * 4 + 1, m.loops.depth % 8 + sticky * 128, (vtImage m.vt).toNat, m.ctl.sdseed.toNat] ++
    (m.regs.toList.drop 4).map BitVec.toNat ++
    m.loops.held.toList.flatMap (fun e => [e.start.toNat, e.stop.toNat, e.count.toNat])

/-- Save the record's state into its frame; bytes 0x210 to 0x27F are reserved and keep their contents. -/
def State.saveCoro (s : State) (r : Rec) : State :=
  s.hwWrite (upperOf s.cur) r.part (r.frame.toNat + 0x80) 64 400 (packDwords (saveBlock s.me (s.me.pc + 4)))

/-- Location of no channel, on which a record waits that is not to be entered again (R310): a channel lies in a scratchpad. -/
def noChannel : Nat := 0

/-- The record yields: its state is saved and the sequencer is idle; it waits on a channel, or is queued at once when it
names none (log 25). Where its save block cannot be written, which is logged, the record is entered no more (R310): it is neither queued
nor woken, and only its cancellation ends it. -/
def State.yieldOn (s : State) (r : Rec) (d : Reg) (chan : Option (Nat × Nat)) : State :=
  let m := s.me
  let u := upperOf s.cur
  let r' : Rec := { r with resume := some (d, m.held) }
  let wait (t : State) (loc cond : Nat) : State := { t with yields := t.yields ++ [⟨r', loc, cond, u, m.level⟩] }
  let t := (s.saveCoro r).setMe m.cleared
  match s.hwLoc r.part (r.frame.toNat + 0x80) 64, chan with
  | .error _, _ => wait t noChannel 0
  | .ok _, none => t.enqueue r' u m.level
  | .ok _, some (loc, cond) => wait t loc cond

/-- The issue checks: a coroutine, the condition, the channel address. -/
def State.cyieldCheck (s : State) (a b : Word) : Except Trap (Rec × Option Nat) :=
  match s.me.work with
  | none => .error (Trap.plain Cause.notCoroutine)
  | some r =>
    if !r.coro then .error (Trap.plain Cause.notCoroutine)
    else if 1 < b.toNat ∨ (a = 0 ∧ b ≠ 0) then .error (Trap.plain Cause.badChannel)
    else if a = 0 then .ok (r, none)
    else
      match s.chanCheck a with
      | .error t => .error t
      | .ok loc => .ok (r, some loc)

def execCyield (f : R3) (s : State) : Host.Outcome State Fault Refusal :=
  run (.cyield f) (fun s =>
    let a := s.sreg f.a
    let b := s.sreg f.b
    closing (fun s => s.cyieldCheck a b) (fun x s =>
      if s.unsettled s.cur then .wait s
      else if (x.2.map (fun loc => !s.chanLive loc)).getD false then .trap (Trap.plain Cause.badChannel) s
      else
        match x.2 with
        | none => .done .stay (s.yieldOn x.1 f.d none)
        | some loc =>
          if s.anyMarked loc 24 then .trap (poisonTrap 0 a.toNat) s
          else if s.condHolds loc b.toNat then .done .seq (s.setS f.d 1)
          else .done .stay (s.yieldOn x.1 f.d (some (loc, b.toNat)))) s) s

end Sys2Proof.Machine
end

