-- ==== Sys2Proof/Machine/Strip.lean ====
section
/-!
DEFINITION. Majors 0x21 and 0x22: `strip`, `sclose`, and the stream instructions (R108 to R119).
-/

namespace Sys2Proof.Machine

/-! ### Opening and closing (R108, R112) -/

/-- Checkpoint() (R17, R108). -/
def Seq.checkpoint (m : Seq) : Checkpoint :=
  ⟨m.regs, m.loops, m.grant, m.ctl.status &&& stickyMask, m.truss.tx, m.pend⟩

/-- The grant and the checkpoint of a `strip` (R108); the best register becomes invalid (R164). -/
def State.openStrip (s : State) (d : Reg) (gl : Nat) (base : Word) : State :=
  let s := s.setGrant ⟨BitVec.ofNat 64 gl, 0, 0, 0, 0, 0, 0⟩
  let s := (s.setCtl { s.me.ctl with sbase := base }).setS d (BitVec.ofNat 64 gl)
  s.setMe { s.me with
    strip := some ⟨s.me.pc, s.me.checkpoint, [], []⟩
    replay := false
    truss := { s.me.truss with tb := none }
    ctl := { s.me.ctl with status := withInstrip s.me.ctl.status true } }

/-- A `zcswap` of the upper waits for its swap (R30): no strip may open before it, but for one that the hardware restarts,
which counts as open already (R293). -/
def State.swapHolds (s : State) : Bool :=
  let up := s.upperAt (upperOf s.cur)
  !s.me.replay &&
    (!up.swapQueue.isEmpty ||
      (match up.swapWait with
       | some (_, false, _) => true
       | _ => false))

/-- `strip` (R108): a pending pre-emption is taken after the commit and before anything is granted. -/
def execStrip (f : R3) (s : State) : Host.Outcome State Fault Refusal :=
  run (.strip f) (fun s =>
    match s.me.vt with
    | none => .trap (Trap.plain Cause.illegalType) s
    | some t =>
      let req := s.sreg f.a
      let base := s.sreg f.b
      let s := s.commitStrip
      if s.stopPending then .done .stay (s.stopIfAsked 0)
      else if s.swapHolds then .wait s
      else .done .seq (s.openStrip f.d (min req.toNat (t.emax s.gang)) base)) s

/-- `sclose` (R112): commit, then a pre-emption point that resumes at the next word. -/
def execSclose (f : Bare) (s : State) : Host.Outcome State Fault Refusal :=
  run (.sclose f) (fun s => .done .seq (s.commitStrip.stopIfAsked 1)) s

/-- `sclose.rel` (R112): `sclose` whose commit is a release at `.sys`: all that came before is visible first, which `State.before`
sees to (R258; log 2). -/
def execScloseRel (f : Bare) (s : State) : Host.Outcome State Fault Refusal :=
  run (.scloseRel f) (fun s => .done .seq (s.commitStrip.stopIfAsked 1)) s

/-! ### Streams in memory (R116) -/

/-- The location of the byte that holds stream bit `b`, checked as a load (R116, R316). The bytes of a stream are accesses of
their own (R256). -/
def State.streamLoc (s : State) (b : Nat) : Except Miss Nat :=
  match s.checkAccess s.ctx .load (b / 8) 1 with
  | .error e => .error e
  | .ok loc => if s.loadBad loc 1 0 then .error ⟨Cause.uncorrectable, none⟩ else .ok loc

/-- Stream bit `b`; 0 where the byte cannot be read. -/
def State.streamBit (s : State) (b : Nat) : Bool :=
  match s.streamLoc b with
  | .error _ => false
  | .ok loc => (s.loadNat loc 1 0).testBit (b % 8)

/-- The prefix at bit `b`: the class, or the fault of a byte that holds a prefix bit. -/
def State.streamPrefix (s : State) (b : Nat) : Nat → Except Miss Nat
  | 0 => .ok 0
  | n + 1 =>
    match s.streamLoc b with
    | .error e => .error e
    | .ok loc =>
      if (s.loadNat loc 1 0).testBit (b % 8) then
        (match s.streamPrefix (b + 1) n with
         | .error e => .error e
         | .ok c => .ok (c + 1))
      else .ok 0

/-- The bytes that hold bits `b` to `b + n - 1` can be read. -/
def State.streamCheck (s : State) (b : Nat) : Nat → Except Miss Unit
  | 0 => .ok ()
  | n + 1 =>
    match s.streamCheck b n with
    | .error e => .error e
    | .ok () =>
      match s.streamLoc (b + n) with
      | .error e => .error e
      | .ok _ => .ok ()

/-- The `n` stream bits from `b` on, bit i of the result being stream bit b + i. -/
def State.streamBits (s : State) (b : Nat) : Nat → Nat
  | 0 => 0
  | n + 1 => s.streamBits b n + (if s.streamBit (b + n) then 2 ^ n else 0)

/-- The trap of a fault at the code of element n whose first bit is `b` (R116). -/
def codeFault (e : Miss) (n b : Nat) : Trap := ⟨e.cause, n, b, e.page⟩

/-- A length is over a budget, when there is one. -/
def overBudget (budget : Option Nat) (len : Nat) : Bool :=
  match budget with
  | some b => b < len
  | none => false

/-- Read the code at stream bit `b` as element n into a destination of `budget` bits (R116); without a budget the code
is only walked (R119). -/
def State.takeCode (s : State) (k : Coding) (a : Nat) (budget : Option Nat) (n : Nat) (o : Out) : Formed Out :=
  let b := a + o.used
  match s.streamPrefix b 7 with
  | .error e => .trap (codeFault e n b)
  | .ok c =>
    let len := codeLen k c
    if overBudget budget (o.used + len) then .full
    else
      match s.streamCheck b len with
      | .error e => .trap (codeFault e n b)
      | .ok () =>
        match decodeCode k s.streamBit b with
        | .malformed => .trap ⟨Cause.malformed, n, b, none⟩
        | _ => .put (o.push (s.streamBits b len) len noFlags)

/-- The bytes that hold bits a to a + n − 1 of a stream have been read. -/
def State.loadedStream (s : State) (a n : Nat) : State := s.loadedFrom (s.accessAt · 1) (a / 8) ((a + n + 7) / 8 - a / 8)

/-- A stream instruction needs a coded type (R116 to R119). -/
def coded (body : VType → Coding → State → Res) (s : State) : Res :=
  let t := s.typeOr
  match s.layout t with
  | .plain _ => .trap (Trap.plain Cause.illegalType) s
  | .code k => body t k s

/-- `zld` (R116). -/
def execZld (f : R3) (s : State) : Host.Outcome State Fault Refusal :=
  run (.zld f) (coded (fun t k s =>
    let a := (s.sreg f.a).toNat
    if 2 ^ 60 ≤ a then .trap ⟨Cause.addressRange, 0, a, none⟩ s
    else
      match elemLoop (s.grantLen t) [(s.sreg f.b).toNat] none (s.takeCode k a (some (t.budget s.gang))) Out.zero with
      | .error e => .trap e s
      | .ok (n, gs, o) => 
        .done .seq ((s.finish t.g f.d.val o n ⟨n, n, o.used, 0, o.used, gs⟩).loadedStream a o.used))) s

/-- `zskip` (R119). -/
def execZskip (f : R3) (s : State) : Host.Outcome State Fault Refusal :=
  run (.zskip f) (coded (fun t k s =>
    let a := (s.sreg f.a).toNat
    if 2 ^ 60 ≤ a then .trap ⟨Cause.addressRange, 0, a, none⟩ s
    else
      match elemLoop (s.grantLen t) [(s.sreg f.b).toNat] none (s.takeCode k a none) Out.zero with
      | .error e => .trap e s
      | .ok (n, gs, o) =>
        .done .seq (((s.setS f.d (BitVec.ofNat 64 (a + o.used))).report ⟨n, 0, o.used, 0, 0, gs⟩).loadedStream a o.used))) s

/-- Element n of `zfind`: the offset of code n as an n16 element (R118). -/
def Src.offset (x : Src) (n : Nat) (o : Out) : Formed Out :=
  match x.check n with
  | .error e => .trap e
  | .ok () => .put (o.push (x.start n % 65536) 16 noFlags)

/-- `zfind` (R118): offsets of the codes of group vA, as n16 elements. -/
def execZfind (f : R2) (s : State) : Host.Outcome State Fault Refusal :=
  run (.zfind f) (coded (fun t k s =>
    let x := s.srcOf (.code k) t.g f.a.val
    match elemLoop (s.grantLen t) [x.count] none x.offset Out.zero with
    | .error e => .trap e s
    | .ok (n, gs, o) => .done .seq (s.finish t.g f.d.val o n ⟨n, n, x.start n, 0, 16 * n, gs⟩))) s

/-! ### `zst` (R117) -/

/-- Examine the sectors of byte addresses from sector `sec` on, in ascending address: range, translation, permission,
then room in the store buffer. `first` is the first byte stored and `a` the bit address. -/
def State.zstCheck (s : State) (a first : Nat) (sec : Nat) (got : SMap BufSector) : Nat → Except Trap Unit
  | 0 => .ok ()
  | n + 1 =>
    let va := max first (sec * 32)
    match s.checkAccess s.ctx .store va 1 with
    | .error e => .error ⟨e.cause, 0, if va / 65536 = first / 65536 then a else 8 * (va / 65536 * 65536), e.page⟩
    | .ok loc =>
      if s.bufferFull got (loc / 32) then
        .error ⟨Cause.stripOverflow, 0, if va / 32 = first / 32 then a else 8 * va, none⟩
      else s.zstCheck a first (sec + 1) (SMap.put got (loc / 32) ⟨va / 32 * 32, 0, 0⟩) n

/-- The bytes stored: `n` bytes from address `va`, with the bits of `mask` from `v` and the others as they stand. -/
def State.zstBytes (s : State) (buf : SMap BufSector) (va v mask : Nat) : Nat → SMap BufSector
  | 0 => buf
  | n + 1 =>
    let buf' := match s.resolve s.ctx .store va with
      | .error _ => buf
      | .ok loc =>
        let m := BitVec.ofNat 8 mask
        bufByte buf va loc ((s.viewByte loc &&& ~~~m) ||| (BitVec.ofNat 8 v &&& m))
    s.zstBytes buf' (va + 1) (v / 256) (mask / 256) n

/-- `zst` (R117). A group of fill length 0 stores nothing and takes no fault. -/
def execZst (f : R2) (s : State) : Host.Outcome State Fault Refusal :=
  run (.zst f) (coded (fun t k s =>
    let a := (s.sreg f.a).toNat
    let len := fillLen s.me f.d.val
    let n := fillCount s.me f.d.val
    let x := s.srcOf (.code k) t.g f.d.val
    let rep : Report := ⟨n, n, len, 0, len, gsComplete⟩
    if len = 0 then .done .seq (s.report rep)
    else if 2 ^ 60 ≤ a then .trap ⟨Cause.addressRange, 0, a, none⟩ s
    else
      let first := a / 8
      let last := (a + len - 1) / 8
      match s.zstCheck a first (first / 32) [] (last / 32 - first / 32 + 1) with
      | .error e => .trap e s
      | .ok () =>
        if x.marks.any (fun b => 8 * b < len) then .trap (regPoison 0) s
        else
          let v := x.span 0 len * 2 ^ (a % 8)
          let mask := (2 ^ len - 1) * 2 ^ (a % 8)
          .done .seq ((s.storeRow (s.zstBytes [] first v mask (last - first + 1))).report rep))) s

end Sys2Proof.Machine
end

