-- ==== Sys2Proof/Machine/Engines.lean ====
section
/-!
DEFINITION. Majors 0x38 and 0x39: engine commands at issue, their transfers, chunks, deliveries, completion and failure,
and work queries (R266 to R280).
-/

namespace Sys2Proof.Machine

/-! ### Issue (R266, R267, R269) -/

/-- A bad engine command with the address it reports. -/
def badCommand (va : Nat) : Trap := ⟨Cause.badCommand, 0, 8 * va % 2 ^ 64, none⟩

/-- R122 steps 1 and 2 with a size; a window address is also checked by R241 and R242 when `win` says so. -/
def State.rangeCheck (s : State) (va size : Nat) (win : Bool) : Except Trap Unit :=
  if 2 ^ 57 ≤ va then .error ⟨Cause.addressRange, 0, 8 * va % 2 ^ 64, none⟩
  else if va % size ≠ 0 then .error ⟨Cause.misaligned, 0, 8 * va, none⟩
  else if win && inWindow va then
    match s.resolve s.ctx .hw va with
    | .error e => .error (e.trap 0 va)
    | .ok _ => .ok ()
  else .ok ()

/-- The interlocks of R266 and R269: 16 commands outstanding, or one that names the same mask. -/
def State.cmdWaits (s : State) (mask : Nat) : Bool :=
  Config.maxCommands ≤ s.outstanding s.cur || heldByChunks s.cmds s.cur [mask]

/-- Chunks of a length (R269). -/
def chunkCount (len : Nat) : Nat := (len + 4095) / 4096

/-- Clear bits 0 to n − 1 of a chunk mask (R269). -/
def Seq.clearChunks (m : Seq) (k n : Nat) : Seq :=
  if h : k < 8 then
    if k = 0 then m
    else
      { m with
        masks := m.masks.set k (m.masks[k] &&& ~~~(BitVec.ofNat 4096 (2 ^ min n 4096 - 1))) h
        mmarks := m.mmarks.filter (fun x => !(x / 4096 == k && x % 4096 < n))
        marked := m.marked.filter (fun x => !(x / 4096 == k && x % 4096 < n)) }
  else m

/-- Set bit j of a chunk mask (R269); a governing read of the mask acquires it (R259). -/
def Seq.setChunk (m : Seq) (k j : Nat) : Seq :=
  if h : k < 8 then
    if k = 0 then m
    else
      { m with
        masks := m.masks.set k (m.masks[k] ||| ((1 : BitVec 4096) <<< j)) h
        mmarks := m.mmarks.filter (· != 4096 * k + j)
        marked := insertNat m.marked (4096 * k + j) }
  else m

/-- A command of the current sequencer as it is at issue. -/
def State.newCommand (s : State) (kind : CmdKind) (dst len bar mask : Nat) : Command where
  seq := s.cur
  kind := kind
  dst := dst
  len := len
  bar := bar
  mask := mask
  ctx := s.ctx
  det := s.me.ctl.det.getLsbD 0
  launch := s.myLaunch
  core := (s.launchAt s.myLaunch).sumCore s.widOr0
  wid := s.widOr0
  tiles := 0
  cursor := (match kind with
    | .expand src _ _ _ _ _ _ _ _ => src
    | _ => 0)
  chunks := []
  held := []
  wrote := []
  tile := none
  stalled := false
  formed := []

/-- Issue a command: chunk bits clear, sD is pending, the command is outstanding. -/
def State.issueCommand (s : State) (d : Reg) (c : Command) : State :=
  let (id, s) := s.fresh
  let m := s.me.clearChunks c.mask (chunkCount c.len)
  let s := s.setMe { m with pend := if d.val = 0 then m.pend else SMap.put m.pend d.val (.cmd id) }
  { s with cmds := SMap.put s.cmds id c }

/-- A word that issues a command (R266). Its checks and the strip's commit come once; the command that they give waits at its place
for the interlocks of R266 and R269, with no further check. -/
def command (chk : State → Except Trap Command) (go : Command → State → State) (s : State) : Res :=
  match s.me.posted with
  | some c => if s.cmdWaits c.mask then .wait s else .done .seq (go c (s.setMe { s.me with posted := none }))
  | none =>
    closing chk (fun c s =>
      if s.cmdWaits c.mask then .wait (s.setMe { s.me with posted := some c }) else .done .seq (go c s)) s

/-- A command of length 0 writes its token at once (R273), whose read acquires (R258); it had a stream of no entries. -/
def State.emptyCommand (s : State) (d : Reg) (c : Command) : State :=
  let s := (s.addStream c.launch c.core []).setS d (tokenWord 1 0)
  if d.val = 0 then s else s.setMe { s.me with tokens := d.val :: s.me.tokens }

/-! ### The copy descriptor (R271) and the issue checks (R273) -/

/-- Fields of the control dword. -/
structure CopyCtl where
  len  : Nat
  fam  : Nat
  p    : Nat
  eb   : Nat
  ct   : Nat
  w    : Nat
  rm   : Nat
  sat  : Nat
  top  : Nat
  deriving DecidableEq, Repr

/-- The control dword's fields. -/
def CopyCtl.of (v : Nat) : CopyCtl :=
  ⟨v % 2 ^ 40, v / 2 ^ 40 % 4, v / 2 ^ 42 % 4, v / 2 ^ 44 % 256, v / 2 ^ 52 % 2, v / 2 ^ 53 % 16, v / 2 ^ 57 % 4,
    v / 2 ^ 59 % 2, v / 2 ^ 60⟩

/-- The result format of an expansion (R271): PZI takes i8 to n64, PZF f16, fp32 or bf16. -/
def CopyCtl.fmt (c : CopyCtl) : Option Fmt :=
  match Fmt.ofCode c.w with
  | none => none
  | some f =>
    if c.fam = 1 then (if c.w < 8 then some f else none)
    else if c.fam = 2 then (if 8 ≤ c.w ∧ c.w ≤ 10 then some f else none)
    else none

/-- The control dword keeps R271 for a plain copy or a fill. -/
def CopyCtl.plainOk (c : CopyCtl) (v : Nat) : Bool := v < 2 ^ 40 && c.len % 32 == 0

/-- The control dword keeps R271 for an expansion. -/
def CopyCtl.expandOk (c : CopyCtl) : Bool :=
  match c.fmt with
  | none => false
  | some f => c.top == 0 && c.len % 32 == 0 && c.len % (f.width / 8) == 0 && (c.fam == 2 || (c.p == 0 && c.eb == 0))

/-- The kind of an expansion with the class table and generation current at issue (R276). -/
def State.expandKind (s : State) (c : CopyCtl) (src : Nat) : CmdKind :=
  let f := c.fmt.getD .i8
  let fam := if c.fam = 1 then Fam.pzi else Fam.pzf (pOf c.p)
  let table := s.tableOf ((if c.fam = 1 then 0 else 2) + c.ct)
  .expand src fam (signed8 c.eb) f ((Rm.ofCode c.rm).getD .ne) (c.sat == 1) (c.ct == 1) table
    (s.upperAt (upperOf s.cur)).gen

/-- Which of the three commands of major 0x38. -/
inductive CopyOp where
  | copy | expand | fill
  deriving DecidableEq, Repr

/-- A result of checks followed by another check. -/
def andThen {α β : Type} (x : Except Trap α) (k : α → Except Trap β) : Except Trap β :=
  match x with
  | .error t => .error t
  | .ok a => k a

/-- A condition that must hold. -/
def must (b : Bool) (t : Trap) : Except Trap Unit := if b then .ok () else .error t

/-- IssueCopy's checks in order (R273); the command to issue. Where both the control dword and the reserved dword break R271, the
control dword's address is reported. DESIGN CHOICE, log 70. -/
def State.copyCheck (s : State) (op : CopyOp) (a b : Word) (mask : Nat) : Except Trap Command :=
  let va := a.toNat
  match s.checkAccess s.ctx .load va 32 with
  | .error e => .error (e.trap 0 va)
  | .ok loc =>
    if s.viewBad loc 32 then .error (poisonTrap 0 va)
    else
      let v := s.viewNat loc 32
      let dst := dword v 0
      let src := dword v 1
      let c := CopyCtl.of (dword v 2)
      let okCtl := match op with
        | .expand => c.expandOk
        | _ => c.plainOk (dword v 2)
      let kind : CmdKind := match op with
        | .copy => .copy src
        | .fill => .fill (BitVec.ofNat 64 src)
        | .expand => s.expandKind c src
      andThen (must okCtl (badCommand (va + 16))) (fun _ =>
      andThen (must (dword v 3 == 0) (badCommand (va + 24))) (fun _ =>
      andThen (s.rangeCheck dst 32 true) (fun _ =>
      andThen (if op = .copy then s.rangeCheck src 32 true else .ok ()) (fun _ =>
      andThen (must (op != .expand || src < 2 ^ 60) ⟨Cause.addressRange, 0, 8 * src % 2 ^ 64, none⟩) (fun _ =>
      andThen (if b = 0 then .ok () else s.rangeCheck b.toNat 16 false) (fun _ =>
      andThen (must (mask == 0 || chunkCount c.len ≤ 4096) (badCommand (va + 16))) (fun _ =>
      andThen (must (op != .copy || !(src < dst + c.len && dst < src + c.len)) (badCommand (va + 8))) (fun _ =>
        .ok (s.newCommand kind dst c.len b.toNat mask)))))))))

/-- The class table and generation of an expansion are those current at its issue (R276). -/
def State.freshTable (s : State) (c : Command) : Command :=
  match c.kind with
  | .expand src fam eb f rm sat ct _ _ =>
    let table := s.tableOf ((match fam with
      | .pzf _ => 2
      | _ => 0) + (if ct then 1 else 0))
    { c with kind := .expand src fam eb f rm sat ct table (s.upperAt (upperOf s.cur)).gen }
  | _ => c

/-- A command of major 0x38. -/
def copyBody (op : CopyOp) (f : Eng) (s : State) : Res :=
  let a := s.sreg f.a
  let b := s.sreg f.b
  command (fun s => s.copyCheck op a b f.c.val)
    (fun c s =>
      let s := s.loadedFrom (inPlace · 1) a.toNat 32
      if c.len = 0 then s.emptyCommand f.d c else s.issueCommand f.d (s.freshTable c)) s

def execXcopy (f : Eng) (s : State) : Host.Outcome State Fault Refusal := run (.xcopy f) (copyBody .copy f) s
def execXcopyz (f : Eng) (s : State) : Host.Outcome State Fault Refusal := run (.xcopyz f) (copyBody .expand f) s
def execXfill (f : Eng) (s : State) : Host.Outcome State Fault Refusal := run (.xfill f) (copyBody .fill f) s

/-! ### Transfers -/

/-- Why a command cannot go on: a page the service can map; a core that is saved, or a turn that is another chunk's; or a failure
with its status, for a decode error its detail, and for a table page that the walk found uncorrectable that page. -/
inductive CmdStop where
  | stall (part va : Nat)
  | hold
  | fail (status : Nat) (detail : Option Nat) (page : Option Nat)
  deriving DecidableEq, Repr

/-- What a miss means for a command (R275, R301, R310, R312). -/
def State.cmdStop (s : State) (c : Ctx) (va : Nat) (e : Miss) : CmdStop :=
  if e.cause = Cause.held then .hold
  else if e.cause = Cause.pageNotPresent ∧ s.canMap c.part va then .stall c.part va
  else .fail (if e.cause = Cause.tablePoisoned then 4 else 3) none e.page

/-- The location that an access of an engine reaches: held while the core of its slot is saved (R301). -/
def State.engineLoc (s : State) (c : Ctx) (acc : Acc) (va : Nat) : Except Miss Nat :=
  if s.heldAt c va then .error ⟨Cause.held, none⟩ else s.resolve c acc va

/-- Read one source sector: data and mark. -/
def State.readSector (s : State) (c : Ctx) (va : Nat) : Except CmdStop (BitVec 256 × Bool) :=
  match s.engineLoc c .load va with
  | .error e => .error (s.cmdStop c va e)
  | .ok loc => .ok (BitVec.ofNat 256 (cellsNat s.mem.cells loc 32), s.poisoned loc)

/-- Write the enabled bytes of one destination sector, marked when its data are. A live control line takes nothing: R219 says so of
a program's stores, and an engine's are treated alike. DESIGN CHOICE, log 70. The command notes what it wrote, and whether the data
were marked. -/
def State.writeDest (s : State) (c : Command) (va : Nat) (en : BitVec 32) (data : BitVec 256) (marked : Bool) :
    Except CmdStop (State × Command) :=
  match s.engineLoc c.ctx .store va with
  | .error e => .error (s.cmdStop c.ctx va e)
  | .ok loc =>
    let live := s.liveLine loc
    let s := s.writeSector (engineParty c.seq) (loc / 32) en data
    let s := if marked && !live then s.markSector (loc / 32) else s
    let old := (SMap.find c.wrote (va / 32)).getD (0, 0, false)
    let put : BitVec 32 := if live then 0 else en
    let sector := (old.1 ||| put, (old.2.1 &&& ~~~(enBits put)) ||| (data &&& enBits put), if live then marked else s.poisoned loc)
    .ok (s, { c with wrote := SMap.put c.wrote (va / 32) sector })

/-- The sector of a fill pattern. -/
def fillSector (p : Word) : BitVec 256 := p ++ p ++ p ++ p

/-- Write destination sector k of a copy or a fill (R273). A sector read ahead is written from what was read. -/
def State.moveSector (s : State) (c : Command) (k : Nat) : Except CmdStop (State × Command) :=
  match c.kind with
  | .copy src =>
    match SMap.find c.held k with
    | some (x, m) => s.writeDest { c with held := SMap.del c.held k } (c.dst + 32 * k) (BitVec.allOnes 32) x m
    | none =>
      match s.readSector c.ctx (src + 32 * k) with
      | .error e => .error e
      | .ok (x, m) => s.writeDest c (c.dst + 32 * k) (BitVec.allOnes 32) x m
  | .fill p => s.writeDest c (c.dst + 32 * k) (BitVec.allOnes 32) (fillSector p) false
  | _ => .ok (s, c)

/-- What became of a piece of a transfer: the state and command so far, and why it stopped. -/
structure Moved where
  s : State
  c : Command
  stop : Option CmdStop

/-- Move sectors k to k + n − 1, those not yet written; a marked one fails the command with status 5 (R277, R316). -/
def State.moveSectors (s : State) (c : Command) (k : Nat) : Nat → Moved
  | 0 => ⟨s, c, none⟩
  | n + 1 =>
    match SMap.find c.wrote ((c.dst + 32 * k) / 32) with
    | some (_, _, m) => if m then ⟨s, c, some (.fail 5 none none)⟩ else s.moveSectors c (k + 1) n
    | none =>
      match s.moveSector c k with
      | .error e => ⟨s, c, some e⟩
      | .ok (s, c) =>
        match SMap.find c.wrote ((c.dst + 32 * k) / 32) with
        | some (_, _, true) => ⟨s, c, some (.fail 5 none none)⟩
        | _ => s.moveSectors c (k + 1) n

/-! ### Expansion (R276) -/

/-- A source byte of a stream: its value and mark. -/
def State.streamByte (s : State) (c : Ctx) (b : Nat) : Except CmdStop (Byte × Bool) :=
  match s.engineLoc c .load (b / 8) with
  | .error e => .error (s.cmdStop c (b / 8) e)
  | .ok loc => .ok (s.byte loc, s.poisoned loc)

/-- Source bit b; 0 where the byte cannot be read. -/
def State.cmdBit (s : State) (c : Ctx) (b : Nat) : Bool :=
  match s.streamByte c b with
  | .error _ => false
  | .ok (x, _) => x.getLsbD (b % 8)

/-- Read the bytes that hold bits b to b + n − 1: whether one is marked. -/
def State.cmdBits (s : State) (c : Ctx) (b : Nat) : Nat → Except CmdStop Bool
  | 0 => .ok false
  | n + 1 =>
    match s.cmdBits c b n with
    | .error e => .error e
    | .ok m =>
      match s.streamByte c (b + n) with
      | .error e => .error e
      | .ok (_, x) => .ok (m || x)

/-- The class at bit b, reading prefix bits only as far as they go; whether a byte read was marked. -/
def State.cmdPrefix (s : State) (c : Ctx) (b : Nat) : Nat → Except CmdStop (Nat × Bool)
  | 0 => .ok (0, false)
  | n + 1 =>
    match s.streamByte c b with
    | .error e => .error e
    | .ok (x, m) =>
      if x.getLsbD (b % 8) then
        match s.cmdPrefix c (b + 1) n with
        | .error e => .error e
        | .ok (k, m') => .ok (k + 1, m || m')
      else .ok (0, m)

/-- The element of one code in a plain format (R133, R39, R40, R50): bits, or none for a malformed code. -/
def expandElem (k : Coding) (bit : Nat → Bool) (b : Nat) (r : RoundCtx) (f : Fmt) : Option Nat :=
  match decodeCode k bit b with
  | .malformed => none
  | .int v => some (encodeResult r (.plain f) (.int v)).1
  | .num v => some (encodeResult r (.plain f) (.num (exactOf v) noFlags)).1

/-- Decode elements i to i + n − 1 of a tile that starts at stream bit `start`; more than 1,280 bits or a malformed code
is a decode error. An element is derived from marked data when its own code holds a marked byte, or when its place follows
from a marked prefix before it (R277). -/
def State.tileFrom (s : State) (c : Ctx) (k : Coding) (r : RoundCtx) (f : Fmt) (start i : Nat) (t : Tile) :
    Nat → Except CmdStop Tile
  | 0 => .ok t
  | n + 1 =>
    match s.cmdPrefix c t.cursor 7 with
    | .error e => .error e
    | .ok (cl, m) =>
      let len := codeLen k cl
      if 1280 < t.cursor + len - start then .error (.fail 2 none none)
      else
        match s.cmdBits c t.cursor len with
        | .error e => .error e
        | .ok m' =>
          match expandElem k (s.cmdBit c) t.cursor r f with
          | none => .error (.fail 2 none none)
          | some x =>
            s.tileFrom c k r f start (i + 1)
              ⟨t.bits + x * 2 ^ (f.width * i), t.cursor + len,
                if t.tainted || m || m' then i :: t.marked else t.marked, t.tainted || m⟩ n

/-- Write sectors j to j + n − 1 of a tile, those not yet written; a sector one of whose elements is marked is written marked. -/
def State.writeTile (s : State) (c : Command) (va : Nat) (f : Fmt) (t : Tile) (j : Nat) : Nat → Moved
  | 0 => ⟨s, c, none⟩
  | n + 1 =>
    if (SMap.find c.wrote ((va + 32 * j) / 32)).isSome then s.writeTile c va f t (j + 1) n
    else
      let marked := t.marked.any (fun i => f.width * i / 256 == j)
      match s.writeDest c (va + 32 * j) (BitVec.allOnes 32) (BitVec.ofNat 256 (t.bits / 2 ^ (256 * j))) marked with
      | .error e => ⟨s, c, some e⟩
      | .ok (s, c) => s.writeTile c va f t (j + 1) n

/-- Bytes of tile t of a command. -/
def Command.tileBytes (c : Command) (t : Nat) : Nat := min 256 (c.len - 256 * t)

/-- Write the first `n` sectors of the next tile of an expansion, decoded once before its first sector is written: a tile that is
written whole moves the cursor on. A tile that
cannot be decoded is a decode error, whatever marks its bytes carry, and writes nothing. DESIGN CHOICE, log 70. -/
def State.expandTile (s : State) (c : Command) (n : Nat) : Moved :=
  let t := c.tiles
  match c.kind with
  | .expand _ fam eb f rm sat _ table _ =>
    let k : Coding := match fam with
      | .pzf p => ⟨true, p, eb, table⟩
      | _ => ⟨false, 0, 0, table⟩
    let decoded : Except CmdStop Tile := match c.tile with
      | some x => .ok x
      | none => s.tileFrom c.ctx k ⟨rm, sat, c.det, 0⟩ f c.cursor 0 ⟨0, c.cursor, [], false⟩ (8 * c.tileBytes t / f.width)
    match decoded with
    | .error (.fail 2 _ _) => ⟨s, c, some (.fail 2 (some (256 * t)) none)⟩
    | .error e => ⟨s, c, some e⟩
    | .ok tile =>
      let r := s.writeTile { c with tile := some tile } (c.dst + 256 * t) f tile 0 n
      if r.stop.isSome || n < c.tileBytes t / 32 then r
      else if tile.marked.isEmpty then { r with c := { r.c with cursor := tile.cursor, tiles := t + 1, tile := none } }
      else { r with stop := some (.fail 5 none none) }
  | _ => ⟨s, c, none⟩

/-- Expand the next `n` tiles of a command. -/
def State.expandTiles (s : State) (c : Command) : Nat → Moved
  | 0 => ⟨s, c, none⟩
  | n + 1 =>
    let r := s.expandTile c (c.tileBytes c.tiles / 32)
    if r.stop.isSome then r else r.s.expandTiles r.c n

/-! ### Chunks, deliveries, completion, failure -/

/-- Bytes of chunk j (R269). -/
def Command.chunkBytes (c : Command) (j : Nat) : Nat := min 4096 (c.len - 4096 * j)

/-- Do what is left of chunk j; an expansion takes its chunks in order. -/
def State.chunkWork (s : State) (c : Command) (j : Nat) : Moved :=
  match c.kind with
  | .expand _ _ _ _ _ _ _ _ _ =>
    if j = c.chunks.length then s.expandTiles c (16 * j + (c.chunkBytes j + 255) / 256 - c.tiles) else ⟨s, c, some .hold⟩
  | _ => s.moveSectors c (128 * j) (c.chunkBytes j / 32)

/-- The lowest chunk not completed, as a destination byte offset (R267). -/
def Command.failOffset (c : Command) : Nat :=
  4096 * (((List.range (chunkCount c.len)).find? (fun j => !c.chunks.contains j)).getD (chunkCount c.len))

/-- The digest entries of what a command wrote, in ascending address (R323). -/
def Command.entries (c : Command) : List Byte :=
  c.wrote.flatMap (fun (a, en, data, m) => if en = 0 then [] else digestEntry (32 * a) en m data)

/-- A command ends: its token is written, its stream joins the digest (R267, R277, R323). -/
def State.endCommand (s : State) (id : Nat) (c : Command) (status detail : Nat) : State :=
  let s := ({ s with cmds := SMap.del s.cmds id }.addStream c.launch c.core c.entries)
  (s.deliver (.cmd id) (tokenWord status detail)).settle c.launch

/-- Why an access of a command cannot be made: the status it fails with, and the table page that its walk found uncorrectable
(R275, R312). -/
structure Denied where
  status : Nat
  page   : Option Nat
  deriving DecidableEq, Repr

/-- What a miss that cannot be mended means for a command (R275). -/
def Miss.denied (e : Miss) : Denied := ⟨if e.cause = Cause.tablePoisoned then 4 else 3, e.page⟩

/-- A page that the service can map is mapped before an access of a command is made (R275). -/
def State.mapFirst (s : State) (c : Ctx) (acc : Acc) (va : Nat) : State :=
  match s.resolve c acc va with
  | .error e => if e.cause = Cause.pageNotPresent then s.serviceMap c.part va else s
  | .ok _ => s

/-- A delivery to the barrier of a command (R228, R270): the new state, or how it fails. -/
def State.deliverBar (s : State) (c : Command) (bytes : Nat) : Except Denied State :=
  if c.bar = 0 then .ok s
  else
    let s := s.mapFirst c.ctx .both c.bar
    match s.resolve c.ctx .both c.bar with
    | .error e => .error e.denied
    | .ok loc =>
      if s.poisoned loc then .error ⟨5, none⟩
      else
        let b := s.barAt loc
        if b.bad then .error ⟨6, none⟩
        else .ok ((bufNat [] c.bar loc 16 (b.deliver bytes).pack).foldl
          (fun s (sec, e) => s.writeSector (engineParty c.seq) sec e.en e.data) s)

/-- The barrier of a command stands in the scratchpad of a core that is saved: its deliveries are held (R301). -/
def State.barHeld (s : State) (c : Command) : Bool := c.bar != 0 && s.heldAt c.ctx c.bar

/-- Chunk j is complete: its bit is set, then its bytes are delivered (R269, R270). -/
def State.finishChunk (s : State) (id : Nat) (c : Command) (j : Nat) : State :=
  let c := { c with chunks := c.chunks ++ [j], stalled := false }
  let s := s.setSeq c.seq ((s.seqAt c.seq).setChunk c.mask j)
  match s.deliverBar c (c.chunkBytes j) with
  | .error e => (s.negate e.page).endCommand id c e.status c.failOffset
  | .ok s => { s with cmds := SMap.put s.cmds id c }

/-- Whether a command has chunks that an engine moves. -/
def CmdKind.moves (k : CmdKind) : Bool :=
  match k with
  | .copy _ => true
  | .fill _ => true
  | .expand _ _ _ _ _ _ _ _ _ => true
  | _ => false

/-- ENGINE_CHUNK_COMPLETE (R269): what is left of chunk j is moved. When a page is missing that the service can map, the
command stalls (R275); when the chunk cannot be completed, the event does nothing and ENGINE_COMMAND_FAIL follows. -/
def execEngineChunkComplete (id j : Nat) (s : State) : Host.Outcome State Fault Refusal :=
  match SMap.find s.cmds id with
  | none => .next s
  | some c =>
    if !c.kind.moves || chunkCount c.len ≤ j || c.chunks.contains j || s.barHeld c then .next s
    else
      let r := s.chunkWork c j
      match r.stop with
      | none => .next (r.s.finishChunk id r.c j)
      | some (.stall part va) =>
        if part < 16 ∧ s.canMap part va then
          .next { s with cmds := SMap.put s.cmds id { c with stalled := true } }
        else .next s
      | some _ => .next s

/-- The page that a stalled command waits for. -/
def State.stallPage (s : State) (c : Command) : Option (Nat × Nat) :=
  ((List.range (chunkCount c.len)).filter (fun j => !c.chunks.contains j)).findSome? (fun j =>
    match (s.chunkWork c j).stop with
    | some (.stall part va) => if s.canMap part va then some (part, va) else none
    | _ => none)

/-- TRANSLATION_STALL_RESOLVED (R275): the service maps the page that a stalled command waits for. -/
def execTranslationStallResolved (id : Nat) (s : State) : Host.Outcome State Fault Refusal :=
  match SMap.find s.cmds id with
  | none => .next s
  | some c =>
    if !c.stalled then .next s
    else
      let s := match s.stallPage c with
        | some (part, va) => s.serviceMap part va
        | none => s
      .next { s with cmds := SMap.put s.cmds id { c with stalled := false } }

/-- The detail of a completed command (R267). -/
def Command.detail (c : Command) : Nat :=
  match c.kind with
  | .expand src _ _ _ _ _ _ _ _ => c.cursor - src
  | _ => c.len

/-! ### Grid objects (R278) -/

/-- A dimension word keeps R278. -/
def dimsOk (v : Nat) : Bool := v < 2 ^ 48 && v % 65536 != 0 && v / 65536 % 65536 != 0 && v / 2 ^ 32 != 0

/-- The grid's total. -/
def gridTotal (v : Nat) : Nat := v % 65536 * (v / 65536 % 65536) * (v / 2 ^ 32 % 65536)

/-- Coordinate(i) as a dword (R278). -/
def coordinate (v i : Nat) : Nat :=
  let n0 := v % 65536
  let n1 := v / 65536 % 65536
  i % n0 + i / n0 % n1 * 65536 + i / (n0 * n1) * 2 ^ 32

/-- A grid object keeps R278. -/
def gridOk (v : Nat) : Bool := dimsOk (dword v 1) && v / 2 ^ 128 == 0

/-! ### Failure and completion -/

/-- The object of a grid command, or why it cannot be reached (R278, R279, R280). -/
def State.gridAt (s : State) (c : Command) (grid : Nat) : Except CmdStop (Nat × Nat) :=
  match s.engineLoc c.ctx .both grid with
  | .error e => .error (s.cmdStop c.ctx grid e)
  | .ok loc => if s.anyMarked loc 64 then .error (.fail 5 none none) else .ok (loc, cellsNat s.mem.cells loc 64)

/-- Why a command can only fail now: the state and command as the failure leaves them, its status, and a detail of its own. The
object of a query is judged before the address of its answer (R280). -/
def State.failing (s : State) (c : Command) : Option (State × Command × Nat × Option Nat) :=
  let refuse (e : CmdStop) : Option (State × Command × Nat × Option Nat) := match e with
    | .fail st d page => some (s.negate page, c, st, d)
    | _ => none
  match c.kind with
  | .query grid ans =>
    match s.gridAt c grid with
    | .error e => refuse e
    | .ok (_, v) =>
      if !gridOk v then some (s, c, 7, none)
      else
        match s.engineLoc c.ctx .hw ans with
        | .error e => refuse (s.cmdStop c.ctx ans e)
        | .ok _ => none
  | .gridDecl grid _ =>
    match s.gridAt c grid with
    | .error (.fail 5 _ _) => none
    | .error e => refuse e
    | .ok _ => none
  | _ =>
    if !c.kind.moves then none
    else
      ((List.range (chunkCount c.len)).filter (fun j => !c.chunks.contains j)).findSome? (fun j =>
        let r := s.chunkWork c j
        match r.stop with
        | some (.fail st d page) => some (r.s.negate page, r.c, st, d)
        | _ => none)

/-- ENGINE_COMMAND_FAIL (R277): a command that can only fail ends with its status; what the failing chunk wrote before the
failure stands. The detail of a command without chunks is 0, which R267 leaves open. DESIGN CHOICE, log 70. -/
def execEngineCommandFail (id : Nat) (s : State) : Host.Outcome State Fault Refusal :=
  match SMap.find s.cmds id with
  | none => .next s
  | some c =>
    match s.failing c with
    | none => .next s
    | some (s, c, status, d) =>
      let off := if c.kind.moves then c.failOffset else 0
      .next (s.endCommand id c status (d.getD off))

/-- An older note of the same sequencer has not left yet (R353). -/
def State.olderNote (s : State) (id : Nat) (c : Command) : Bool :=
  s.cmds.any (fun (k, x) => k < id && x.seq == c.seq &&
    (match x.kind with
     | .note _ => true
     | _ => false))

/-- ENGINE_COMMAND_COMPLETE (R267, R353): a transfer whose every chunk is complete writes its token; a note leaves the
device, in issue order, to the endpoint that sent its launch. -/
def execEngineCommandComplete (id : Nat) (s : State) : Host.Outcome State Fault Refusal :=
  match SMap.find s.cmds id with
  | none => .next s
  | some c =>
    match c.kind with
    | .note v =>
      if s.olderNote id c then .next s
      else
        let h := (s.launchAt c.launch).hdr
        let m : Msg := ⟨h.mgmt, h.ep, 0x50, 0, h.sess, h.seq, h.tag, c.ctx.part,
          bytesOf v.toNat 8 ++ bytesOf c.wid.toNat 8⟩
        let s := { s with dev := { s.dev with out := s.dev.out ++ [m] } }
        .next (s.endCommand id c 1 0)
    | _ => if c.kind.moves && c.chunks.length == chunkCount c.len then .next (s.endCommand id c 1 c.detail) else .next s

/-- Move one sector ahead of its chunk (R273): the next of its chunk in ascending order (R258); of an expansion, the next of its
next tile, in the chunk that is under way (R276). -/
def State.engineStep (s : State) (id k : Nat) : State :=
  match SMap.find s.cmds id with
  | none => s
  | some c =>
    let first := k / 128 * 128
    let before := (List.range (k - first)).all (fun i => (SMap.find c.wrote ((c.dst + 32 * (first + i)) / 32)).isSome)
    match c.kind with
    | .expand _ _ _ _ _ _ _ _ _ =>
      if k / 8 ≠ c.tiles || k / 128 ≠ c.chunks.length || c.len ≤ 32 * k || !before then s
      else
        let r := s.expandTile c (k % 8 + 1)
        if r.stop.isSome then s else { r.s with cmds := SMap.put r.s.cmds id r.c }
    | _ =>
      if !c.kind.moves || c.len ≤ 32 * k || !before || (SMap.find c.wrote ((c.dst + 32 * k) / 32)).isSome then s
      else
        match s.moveSector c k with
        | .error _ => s
        | .ok (s, c) => { s with cmds := SMap.put s.cmds id c }

/-- Read source sector k of a copy ahead of its write (R273). -/
def State.engineRead (s : State) (id k : Nat) : State :=
  match SMap.find s.cmds id with
  | none => s
  | some c =>
    match c.kind with
    | .copy src =>
      if c.len ≤ 32 * k || (SMap.find c.wrote ((c.dst + 32 * k) / 32)).isSome then s
      else
        match s.readSector c.ctx (src + 32 * k) with
        | .error _ => s
        | .ok x => { s with cmds := SMap.put s.cmds id { c with held := SMap.put c.held k x } }
    | _ => s

/-! ### Work queries (R278 to R280) -/

/-- The check of a grid address: range, alignment, translation and permission; then no window (R279). -/
def State.gridCheck (s : State) (a : Word) : Except Trap Unit :=
  match s.checkAccess s.ctx .both a.toNat 64 with
  | .error e => .error ⟨e.cause, 0, 8 * a.toNat % 2 ^ 64, e.page⟩
  | .ok _ => must (!inWindow a.toNat) (badCommand a.toNat)

/-- `xgrid` (R279). -/
def execXgrid (f : R3) (s : State) : Host.Outcome State Fault Refusal :=
  run (.xgrid f) (fun s =>
    let a := s.sreg f.a
    let b := s.sreg f.b
    command (fun s => andThen (s.gridCheck a) (fun _ => andThen (must (dimsOk b.toNat) (badCommand 0)) (fun _ =>
      .ok (s.newCommand (.gridDecl a.toNat b) 0 0 0 0)))) (fun c s => s.issueCommand f.d c) s) s

/-- The answer address of `xquery`: 8-byte aligned, in the local window or a backed global slot (R280). -/
def State.answerOk (s : State) (b : Word) : Bool :=
  b.toNat % 8 == 0 && inWindow b.toNat &&
    (match s.resolve s.ctx .hw b.toNat with
     | .ok _ => true
     | .error _ => false)

/-- `xquery` (R280). -/
def execXquery (f : R3) (s : State) : Host.Outcome State Fault Refusal :=
  run (.xquery f) (fun s =>
    let a := s.sreg f.a
    let b := s.sreg f.b
    command (fun s => andThen (s.gridCheck a) (fun _ => andThen (must (s.answerOk b) (badCommand b.toNat)) (fun _ =>
      .ok (s.newCommand (.query a.toNat b.toNat) 0 0 0 0)))) (fun c s => s.issueCommand f.d c) s) s

/-- XGRID_DECLARE (R279): the object's point. -/
def execXgridDeclare (id : Nat) (s : State) : Host.Outcome State Fault Refusal :=
  match SMap.find s.cmds id with
  | none => .next s
  | some c =>
    match c.kind with
    | .gridDecl grid dims =>
      match s.engineLoc c.ctx .both grid with
      | .error _ => .next s
      | .ok loc => .next ((s.pokeAs (engineParty c.seq) loc 64 (dims.toNat * 2 ^ 64)).endCommand id c 1 0)
    | _ => .next s

/-- The store of an answer, noted for the digest. -/
def State.storeAnswer (s : State) (c : Command) (ans loc v : Nat) : State × Command :=
  match bufNat [] ans loc 8 v with
  | (sec, e) :: _ =>
    let s := s.writeSector (engineParty c.seq) sec e.en e.data
    let en := if s.liveLine loc then 0 else e.en
    (s, { c with wrote := SMap.put c.wrote (ans / 32) (en, e.data, s.mem.poison.contains sec) })
  | [] => (s, c)

/-- XQUERY_ANSWER (R280): the object's point. -/
def execXqueryAnswer (id : Nat) (s : State) : Host.Outcome State Fault Refusal :=
  match SMap.find s.cmds id with
  | none => .next s
  | some c =>
    match c.kind with
    | .query grid ans =>
      match s.gridAt c grid, s.engineLoc c.ctx .hw ans with
      | .ok (loc, v), .ok aloc =>
        if !gridOk v then .next (s.endCommand id c 7 0)
        else
          let i := dword v 0
          let total := gridTotal (dword v 1)
          let hand := i < total
          let s := if hand then s.pokeAs (engineParty c.seq) loc 8 (i + 1) else s
          let (s, c) := s.storeAnswer c ans aloc (if hand then coordinate (dword v 1) i else 18446744073709551615)
          .next (s.endCommand id c 1 (if hand then i else total))
      | _, _ => .next s
    | _ => .next s

end Sys2Proof.Machine
end

