-- ==== Sys2Proof/Machine/Viaduct.lean ====
section
/-!
DEFINITION. Major 0x3A and the fabric: `xcoll`, `xnote`, the reductions of a group with compression, their completion and
failure, frames, link keys, poison notices, link lanes and CRC failures (R318, R322, R329, R339, R340, R348 to R353).
-/

namespace Sys2Proof.Machine

/-! ### Groups (R348) -/

end Sys2Proof.Machine

namespace Sys2Proof
open Machine

/-- Ranks of a group. -/
def GroupBody.size (g : GroupBody) : Nat := g.n0 * g.n1 * g.n2

/-- The coordinates (l, d, c) of a rank. -/
def GroupBody.coords (g : GroupBody) (k : Nat) : Nat × Nat × Nat := (k % g.n0, k / g.n0 % g.n1, k / (g.n0 * g.n1))

/-- The rank at coordinates. -/
def GroupBody.rankAt (g : GroupBody) (l d c : Nat) : Nat := l + g.n0 * (d + g.n1 * c)

end Sys2Proof

namespace Sys2Proof.Machine

/-- A registered group of a partition. -/
def State.groupOf (s : State) (part n : Nat) : Option GroupBody :=
  (SMap.find s.parts part).bind (fun p => p.groups.find? (fun g => g.num == n))

/-! ### The plan (R350) and xcoll at issue (R352) -/

/-- Bytes of an element of a plan's type. -/
def Plan.width (p : Plan) : Nat := if p.type = 9 then 4 else 2

/-- The format of a plan's type. -/
def Plan.fmt (p : Plan) : Fmt := if p.type = 9 then .fp32 else .bf16

/-- Elements of the destination among n ranks (R350). -/
def Plan.dstCount (p : Plan) (n : Nat) : Nat := if p.op = 1 then p.count / n else p.count

/-- Elements of the source among n ranks (R350). -/
def Plan.srcCount (p : Plan) (n : Nat) : Nat := if p.op = 2 then p.count / n else p.count

/-- The plan in 128 bytes. -/
def Plan.of (v : Nat) : Plan :=
  let c := dword v 0
  { op := c % 16, type := c / 16 % 16, comp1 := c / 256 % 2 == 1, comp2 := c / 512 % 2 == 1, count := dword v 1 % 2 ^ 40
    src := dword v 2, dst := dword v 3, res := dword v 4, ident := BitVec.ofNat 64 (dword v 5), group := dword v 6 % 64
    rank := dword v 6 / 2 ^ 32, seed := BitVec.ofNat 64 (dword v 7) }

/-- The offset of the first plan dword that breaks R350, among ranks of a group when it is registered. Alignment is left
to the address checks. -/
def planFault (v : Nat) (g : Option GroupBody) : Option Nat :=
  let p := Plan.of v
  let c := dword v 0
  let x := dword v 1
  let y := dword v 6
  let grouped (ok : GroupBody → Bool) : Bool := match g with
    | none => true
    | some g => ok g
  if 3 < p.op || !(p.type == 9 || p.type == 10) || 1024 ≤ c || ((p.comp1 || p.comp2) && 1 < p.op) then some 0
  else if 2 ^ 40 ≤ x || ((p.op == 1 || p.op == 2) && !grouped (fun g => p.count % (16 * g.size) == 0)) then some 8
  else if !p.comp1 && !p.comp2 && p.res != 0 then some 0x20
  else if y % 2 ^ 32 / 64 != 0 || g.isNone || !grouped (fun g => p.rank < g.size) then some 0x30
  else ((List.range 8).find? (fun k => dword v (8 + k) != 0)).map (fun k => 0x40 + 8 * k)

/-- Read the plan as a 128-byte load at a 64-byte-aligned address; its second half is checked after its first. -/
def State.readPlan (s : State) (va : Nat) : Except Trap Nat :=
  match s.checkAccess s.ctx .load va 64 with
  | .error e => .error (e.trap 0 va)
  | .ok loc =>
    match s.checkAccess s.ctx .load (va + 64) 64 with
    | .error e => .error (e.trap 0 (va + 64))
    | .ok loc' =>
      if s.viewBad loc 64 then .error (poisonTrap 0 va)
      else if s.viewBad loc' 64 then .error (poisonTrap 0 (va + 64))
      else .ok (s.viewNat loc 64 + 2 ^ 512 * s.viewNat loc' 64)

/-- The checks of R352 in order; the command to issue. -/
def State.collCheck (s : State) (a b : Word) (mask : Nat) : Except Trap Command :=
  let va := a.toNat
  andThen (s.readPlan va) (fun v =>
    let p := Plan.of v
    let g := s.groupOf s.ctx.part p.group
    match planFault v g with
    | some off => .error (badCommand (va + off))
    | none =>
      let len := p.width * p.dstCount ((g.map GroupBody.size).getD 1)
      andThen (s.rangeCheck p.src 32 false) (fun _ =>
      andThen (s.rangeCheck p.dst 32 false) (fun _ =>
      andThen (s.rangeCheck p.res 32 false) (fun _ =>
      andThen (if b = 0 then .ok () else s.rangeCheck b.toNat 16 false) (fun _ =>
      andThen (must (mask == 0 || chunkCount len ≤ 4096) (badCommand (va + 8))) (fun _ =>
        .ok (s.newCommand (.coll p) p.dst len b.toNat mask)))))))

/-- `xcoll` (R352). -/
def execXcoll (f : Eng) (s : State) : Host.Outcome State Fault Refusal :=
  run (.xcoll f) (fun s =>
    let a := s.sreg f.a
    let b := s.sreg f.b
    command (fun s => s.collCheck a b f.c.val) (fun c s => s.issueCommand f.d c) s) s

/-- `xnote` (R353): an engine command that ENGINE_COMMAND_COMPLETE completes. -/
def execXnote (f : R2) (s : State) : Host.Outcome State Fault Refusal :=
  run (.xnote f) (fun s =>
    let v := s.sreg f.a
    command (fun s => .ok (s.newCommand (.note v) 0 0 0 0)) (fun c s => s.issueCommand f.d c) s) s

/-! ### Folds (R349) -/

/-- An element on its way: its value, and whether it comes from poisoned data (R318). -/
abbrev Elem := Num × Bool

/-- One step of a fold, in fp32 to nearest even. -/
def foldStep (a b : Elem) : Elem := ((roundNE (addNum .ne a.1 b.1).1).1, a.2 || b.2)

/-- The strict left fold of vectors in ascending index. -/
def foldVectors (l : List (List Elem)) : List Elem :=
  match l with
  | [] => []
  | x :: t => t.foldl (List.zipWith foldStep) x

/-- An element in a plan's type: rounded once; every NaN is canonical. -/
def Plan.finish (p : Plan) (x : Elem) : Nat × Bool :=
  (encodeFloat p.fmt (roundNum ⟨.ne, false, true, 0⟩ p.fmt.spec (exactOf x.1)).1, x.2)

/-- Raw bits of the plan's type as an element. -/
def Plan.element (p : Plan) (x : Nat × Bool) : Elem := (decodeFloat p.fmt x.1, x.2)

/-- An fp32 value of a frame. -/
def frameElem (x : BitVec 32) (bad : Bool) : Elem := (decodeFloat .fp32 x.toNat, bad)

/-! ### Compression with error feedback (R351) -/

/-- One block from element j0 on: the decoded contribution and the new residuals. A block with a poisoned element is
poisoned whole (R317). -/
def compressBlock (seed : Word) (j0 : Nat) (xs rs : List Elem) : List Elem × List Elem :=
  let v := List.zipWith (fun a b => (roundNE (addNum .ne a.1 b.1).1).1) xs rs
  let bad := xs.any (·.2) || rs.any (·.2)
  let pad := v ++ List.replicate (16 - v.length) (.fin false 0 0)
  let q := (quantise .sr (fun k => randWord seed (BitVec.ofNat 64 (j0 + k))) pad).1
  let d := (List.range v.length).map (fun k => (blockFp32 (blockElem q k)).1)
  (d.map (·, bad), (List.zipWith (fun a b => ((roundNE (subNum .ne a b).1).1, bad)) v d))

/-- A whole contribution, block by block. -/
def compressFrom (seed : Word) (j0 : Nat) (xs rs : List Elem) : Nat → List Elem × List Elem
  | 0 => ([], [])
  | n + 1 =>
    let (d, r) := compressBlock seed j0 (xs.take 16) (rs.take 16)
    let (ds, rr) := compressFrom seed (j0 + 16) (xs.drop 16) (rs.drop 16) n
    (d ++ ds, r ++ rr)

/-- The contribution p of level `lv` (1 or 2) of a plan, and the residuals to store. -/
def Plan.compress (p : Plan) (lv : Nat) (xs rs : List Elem) : List Elem × List Elem :=
  compressFrom (p.seed + BitVec.ofNat 64 lv) 0 xs rs ((xs.length + 15) / 16)

/-! ### Memory of a rank -/

/-- Read n elements of w bytes. A page that the service can map is mapped first (R275). -/
def State.readElems (s : State) (c : Ctx) (va w : Nat) : Nat → Except Denied (List (Nat × Bool) × State)
  | 0 => .ok ([], s)
  | n + 1 =>
    let s := s.mapFirst c .load va
    match s.resolve c .load va with
    | .error e => .error e.denied
    | .ok loc =>
      match s.readElems c (va + w) w n with
      | .error e => .error e
      | .ok (l, t) => .ok ((cellsNat s.mem.cells loc w, s.poisoned loc) :: l, t)

/-- A sector's byte enables, data and mark from elements of w bytes that begin at byte `off` of it. -/
def packSector (w off : Nat) (l : List (Nat × Bool)) : BitVec 32 × BitVec 256 × Bool :=
  (BitVec.ofNat 32 (2 ^ (w * l.length) - 1) <<< off,
    BitVec.ofNat 256 (l.foldr (fun x acc => x.1 + 2 ^ (8 * w) * acc) 0) <<< (8 * off), l.any (·.2))

/-- Write elements of w bytes into sectors from an address on, which need not begin one. -/
def State.collSectors (s : State) (c : Command) (va w : Nat) (l : List (Nat × Bool)) : Nat → Moved
  | 0 => ⟨s, c, none⟩
  | n + 1 =>
    if l.isEmpty then ⟨s, c, none⟩
    else
      let off := va % 32
      let k := (32 - off) / w
      let (en, data, m) := packSector w off (l.take k)
      let s := s.mapFirst c.ctx .store va
      match s.writeDest c va en data m with
      | .error e => ⟨s, c, some e⟩
      | .ok (s, c) => s.collSectors c (va + 32 - off) w (l.drop k) n

/-- A stop of a command that nothing mends (R275). -/
def CmdStop.denied (e : CmdStop) : Denied :=
  match e with
  | .fail st _ page => ⟨st, page⟩
  | _ => ⟨3, none⟩

/-- Write a command's destination chunk by chunk with bits and deliveries, then its token (R269, R270, R352). -/
def State.collChunks (s : State) (id count w j : Nat) (l : List (Nat × Bool)) : Nat → State
  | 0 =>
    match SMap.find s.cmds id with
    | none => s
    | some c => s.endCommand id c 1 count
  | n + 1 =>
    match SMap.find s.cmds id with
    | none => s
    | some c =>
      let r := s.collSectors c (c.dst + 4096 * j) w (l.take (4096 / w)) 128
      match r.stop with
      | some e => (r.s.negate e.denied.page).endCommand id r.c e.denied.status r.c.failOffset
      | none => (r.s.finishChunk id r.c j).collChunks id count w (j + 1) (l.drop (4096 / w)) n

/-- Store residuals, or how that fails. They are stores of the command, noted for its stream (R323). -/
def State.storeResiduals (s : State) (id va : Nat) (l : List Elem) : Except Denied State :=
  match SMap.find s.cmds id with
  | none => .ok s
  | some c =>
    let raw := l.map (fun x => (encodeFloat .fp32 x.1, x.2))
    let r := s.collSectors c va 4 raw ((raw.length + 7) / 8 + 1)
    match r.stop with
    | some e => .error e.denied
    | none => .ok { r.s with cmds := SMap.put r.s.cmds id r.c }

/-! ### Matching (R352) -/

/-- A rank of this device: its command's number, the command, its plan. -/
abbrev Member := Nat × Command × Plan

/-- The outstanding commands of a partition that name a group and an identifier. -/
def State.members (s : State) (part : Nat) (p : Plan) : List Member :=
  s.cmds.filterMap (fun (id, c) =>
    match c.kind with
    | .coll q => if c.ctx.part = part ∧ q.group = p.group ∧ q.ident = p.ident then some (id, c, q) else none
    | _ => none)

/-- The frames that belong to a collective of a partition. -/
def State.framesOf (s : State) (part : Nat) (p : Plan) : List Frame :=
  s.dev.frames.filter (fun f => f.part == part && f.group == p.group && f.ident == p.ident)

/-- The common fields of two plans agree. -/
def Plan.agrees (p q : Plan) : Bool :=
  p.op == q.op && p.type == q.type && p.count == q.count && p.comp1 == q.comp1 && p.comp2 == q.comp2 && p.seed == q.seed

end Sys2Proof.Machine

namespace Sys2Proof
open Machine

/-- A frame agrees with a plan, and its sender has registered the same group (R348, R352). -/
def Frame.agrees (f : Frame) (p : Plan) (g : GroupBody) : Bool :=
  f.op == p.op && f.type == p.type && f.count == p.count && f.comp1 == p.comp1 && f.comp2 == p.comp2 && f.seed == p.seed &&
    f.sizes == (g.n0, g.n1, g.n2) && f.map == g.map

end Sys2Proof

namespace Sys2Proof.Machine

/-- Plans or groups differ among ranks, or one rank has two commands with one identifier: status 8. -/
def mismatched (p : Plan) (g : GroupBody) (l : List Member) (fs : List Frame) : Bool :=
  l.any (fun m => !m.2.2.agrees p) || fs.any (fun f => !f.agrees p g) ||
    !(l.map (fun m => m.2.2.rank)).Nodup

/-- A frame of a rank and level. -/
def frameFrom (fs : List Frame) (rank level : Nat) : Option Frame := fs.find? (fun f => f.rank == rank && f.level == level)

end Sys2Proof.Machine

namespace Sys2Proof
open Machine

/-- The elements of a frame of w-byte elements with their marks, which stand per sector. -/
def Frame.elems (f : Frame) (w : Nat) : List (Nat × Bool) :=
  f.data.zipIdx.map (fun x => (x.1.toNat, f.marked.contains (w * x.2 / 32)))

/-- The values of a contribution frame. -/
def Frame.values (f : Frame) : List Elem := (f.elems 4).map (fun x => frameElem (BitVec.ofNat 32 x.1) x.2)

end Sys2Proof

namespace Sys2Proof.Machine

/-- All of a list of optional values, or none. -/
def allSome {α : Type} (l : List (Option α)) : Option (List α) :=
  match l with
  | [] => some []
  | none :: _ => none
  | some x :: t => (allSome t).map (x :: ·)

/-! ### Ports (R339, R340) -/

/-- A port on its next installed key, whose packet numbers start at 0 (R340). -/
def Port.switched (p : Port) : Port :=
  match p.next with
  | [] => p
  | k :: t => { p with key := some k, next := t, pn := 0 }

/-- A port goes on to its next key by itself: its packet number is about to reach 2^63 (R340). -/
def Port.switches (p : Port) : Bool := !p.next.isEmpty && 2 ^ 63 ≤ p.pn + 1

/-- A port as it sends its next frame. -/
def Port.ready (p : Port) : Port := if p.switches then p.switched else p

/-- A port may send: it has the role and a usable key whose packet number has not run out. -/
def Port.usable (p : Port) (role : Nat) : Bool := p.role == role && p.ready.key.isSome && p.ready.pn < 2 ^ 63

/-- Some port may send for a role. -/
def State.canSend (s : State) (role : Nat) : Bool := s.dev.ports.any (fun p => p.2.usable role)

/-- A frame leaves the lowest port that may send for a role: its packet number advances. -/
def State.sendOn (s : State) (role : Nat) : State :=
  match s.dev.ports.find? (fun p => p.2.usable role) with
  | none => s
  | some (n, p) => { s with dev := { s.dev with ports := SMap.put s.dev.ports n { p.ready with pn := p.ready.pn + 1 } } }

end Sys2Proof.Machine

namespace Sys2Proof
open Machine

/-- The leaders of devices other than (d, c). -/
def GroupBody.peers (g : GroupBody) (d c : Nat) : List (Nat × Nat) :=
  ((List.range g.n2).flatMap (fun y => (List.range g.n1).map (fun x => (x, y)))).filter (· != (d, c))

end Sys2Proof

namespace Sys2Proof.Machine

/-- Send one frame to a list of devices, its marks with it (R318). -/
def State.sendFrame (s : State) (f : Frame) (c : Nat) (dests : List (Nat × Nat)) : State :=
  if dests.isEmpty then s
  else
    let s := if dests.any (fun x => x.2 == c) then s.sendOn 1 else s
    let s := if dests.any (fun x => x.2 != c) then s.sendOn 2 else s
    { s with dev := { s.dev with sent := s.dev.sent ++ [f] } }

/-- The frame of a rank's own elements (level 0), or of a contribution (levels 1 and 2). -/
def Plan.frame (p : Plan) (g : GroupBody) (part rank level w : Nat) (l : List (Nat × Bool)) : Frame :=
  { authentic := true, part := part, group := p.group, ident := p.ident, rank := rank, level := level, op := p.op
    type := p.type, count := p.count, comp1 := p.comp1, comp2 := p.comp2, seed := p.seed, sizes := (g.n0, g.n1, g.n2)
    map := g.map, data := l.map (fun x => BitVec.ofNat 32 x.1)
    marked := ((l.zipIdx.filter (fun x => x.1.2)).map (fun x => w * x.2 / 32)).eraseDups }

/-! ### What a device has formed, sends and still waits for (R349 to R352) -/

/-- What a collective works with on this device: its partition, plan and group, the device's coordinates, the members there. -/
structure Coll where
  part : Nat
  plan : Plan
  g    : GroupBody
  d    : Nat
  c    : Nat
  mine : List Member
  fs   : List Frame

/-- A collective as it stands: the members of the device at (d, c) and the frames received. -/
def State.collAt (s : State) (part : Nat) (p : Plan) (g : GroupBody) (d c : Nat) : Coll :=
  ⟨part, p, g, d, c, (s.members part p).filter (fun m => (g.coords m.2.2.rank).2 == (d, c)), s.framesOf part p⟩

/-- The same collective in another state. -/
def Coll.now (x : Coll) (s : State) : Coll := s.collAt x.part x.plan x.g x.d x.c

/-- The member of rank (l, d, c) of this device. -/
def Coll.local (x : Coll) (l : Nat) : Option Member := x.mine.find? (fun m => m.2.2.rank == x.g.rankAt l x.d x.c)

/-- What the member of rank (l, d, c) has formed at a level. -/
def Coll.own (x : Coll) (l level : Nat) : Option (List (Nat × Bool)) :=
  (x.local l).bind (fun m => SMap.find m.2.1.formed level)

/-- Keep what a member has formed at a level. -/
def State.keepFormed (s : State) (id level : Nat) (l : List (Nat × Bool)) : State :=
  match SMap.find s.cmds id with
  | none => s
  | some c => { s with cmds := SMap.put s.cmds id { c with formed := SMap.put c.formed level l } }

/-- A member that fails, and how. -/
abbrev Failed := Member × Denied

/-- The devices that receive what this device forms at a level: everyone's own elements in an all-gather and rank 0's in a
broadcast go to all others; a contribution of level 1 to the leader of its domain, one of level 2 to all others, and so does the plan
alone (level 3), by which devices match (R348, R352). -/
def Coll.dests (x : Coll) (l level : Nat) : List (Nat × Nat) :=
  if level = 0 then (if x.plan.op = 2 ∨ (x.plan.op = 3 ∧ x.g.rankAt l x.d x.c = 0) then x.g.peers x.d x.c else [])
  else if level = 1 then (if x.d = 0 then [] else [(0, x.c)])
  else x.g.peers x.d x.c

/-- What the rank (l, d, c) forms at a level can be sent now: the ports that it needs have usable keys (R340). Until then it is not
formed. -/
def State.reaches (s : State) (x : Coll) (l level : Nat) : Bool :=
  ((x.dests l level).all (fun y => y.2 != x.c) || s.canSend 1) && ((x.dests l level).all (fun y => y.2 == x.c) || s.canSend 2)

/-- The member of rank (l, d, c) has formed its elements of a level: they are kept, and sent to whoever needs them. -/
def State.form (s : State) (x : Coll) (l level w : Nat) (m : Member) (v : List (Nat × Bool)) : State :=
  (s.keepFormed m.1 level v).sendFrame (x.plan.frame x.g x.part (x.g.rankAt l x.d x.c) level w v) x.c (x.dests l level)

/-- This device has told the others its plan. -/
def Coll.told (x : Coll) : Bool := x.mine.any (fun m => (SMap.find m.2.1.formed 3).isSome)

/-- This device has heard every other one, and so compared its plan and its registration (R348, R352). -/
def Coll.hears (x : Coll) : Bool := (x.g.peers x.d x.c).all (fun y => x.fs.any (fun f => (x.g.coords f.rank).2 == y))

/-- This device tells every other one its plan, once the ports that it needs have usable keys. -/
def State.announce (s : State) (x : Coll) : State :=
  match x.mine with
  | [] => s
  | m :: _ =>
    let l := (x.g.coords m.2.2.rank).1
    if x.told || !s.reaches x l 3 then s else s.form x l 3 4 m []

/-- A rank whose source the operation takes: rank 0 alone in a broadcast (R350). -/
def Plan.takes (p : Plan) (rank : Nat) : Bool := p.op != 3 || rank == 0

/-- The sources of this device's ranks 0 to n − 1 are read, those not read yet. -/
def State.readSources (s : State) (x : Coll) : Nat → Except Failed State
  | 0 => .ok s
  | n + 1 =>
    match s.readSources x n with
    | .error e => .error e
    | .ok s =>
      match (x.now s).local n with
      | none => .ok s
      | some m =>
        if (SMap.find m.2.1.formed 0).isSome || !m.2.2.takes m.2.2.rank || !s.reaches x n 0 then .ok s
        else
          let p := m.2.2
          match s.readElems m.2.1.ctx p.src p.width (p.srcCount x.g.size) with
          | .error e => .error (m, e)
          | .ok (v, s) => .ok (s.form x n 0 p.width m v)

/-- The residuals of the leader for a level, and where they stand. -/
def State.residuals (s : State) (m : Member) (lv : Nat) : Except Failed (Nat × List Elem × State) :=
  let p := m.2.2
  let va := p.res + (if lv = 2 ∧ p.comp1 then 4 * p.count else 0)
  match s.readElems m.2.1.ctx va 4 p.count with
  | .error e => .error (m, e)
  | .ok (l, s) => .ok (va, l.map (fun y => (decodeFloat .fp32 y.1, y.2)), s)

/-- A level's contribution of the leader m: compressed when the plan says so, its residuals stored. -/
def State.contribute (s : State) (m : Member) (lv : Nat) (v : List Elem) : Except Failed (List Elem × State) :=
  let p := m.2.2
  if (lv = 1 ∧ p.comp1) ∨ (lv = 2 ∧ p.comp2) then
    match s.residuals m lv with
    | .error e => .error e
    | .ok (va, rs, s) =>
      let (d, r) := p.compress lv v rs
      match s.storeResiduals m.1 va r with
      | .error e => .error (m, e)
      | .ok s => .ok (d, s)
  else .ok (v, s)

/-- The encoded fp32 form of a contribution, and its values. -/
def wireElems (l : List Elem) : List (Nat × Bool) := l.map (fun x => (encodeFloat .fp32 x.1, x.2))
def wireValues (l : List (Nat × Bool)) : List Elem := l.map (fun x => frameElem (BitVec.ofNat 32 x.1) x.2)

/-- The values of rank k's elements at a level: this device's own, or those of a frame. -/
def Coll.heard (x : Coll) (l d c level : Nat) : Option (List Elem) :=
  if d = x.d ∧ c = x.c then (x.own l level).map wireValues else (frameFrom x.fs (x.g.rankAt l d c) level).map Frame.values

/-- The contributions of level 1 in this domain, in order of device. -/
def Coll.near (x : Coll) : Option (List (List Elem)) := allSome ((List.range x.g.n1).map (fun y => x.heard 0 y x.c 1))

/-- The contributions of level 2, in order of domain. -/
def Coll.far (x : Coll) : Option (List (List Elem)) := allSome ((List.range x.g.n2).map (fun y => x.heard 0 0 y 2))

/-- The leader forms its contribution of a level from vectors in order, once they are all there and unless it has. -/
def State.formLevel (s : State) (x : Coll) (lv : Nat) (vs : Option (List (List Elem))) : Except Failed State :=
  match x.local 0, x.own 0 lv, vs with
  | some m, none, some l =>
    if !s.reaches x 0 lv then .ok s
    else
      match s.contribute m lv (foldVectors l) with
      | .error e => .error e
      | .ok (v, s) => .ok (s.form x 0 lv 4 m (wireElems v))
  | _, _, _ => .ok s

/-- The own elements of this device's ranks, in order of l, as values. -/
def Coll.sources (x : Coll) : Option (List (List Elem)) :=
  allSome ((List.range x.g.n0).map (fun l => (x.own l 0).map (fun v => v.map x.plan.element)))

/-- The two levels of a reduction, as far as they go (R349): a leader forms and sends its contribution of level 1 whatever else is
missing; the leader of a domain forms and sends that of level 2 once it has the domain's. -/
def State.reduceOn (s : State) (x : Coll) : Except Failed State :=
  match s.formLevel x 1 x.sources with
  | .error e => .error e
  | .ok s =>
    let x := x.now s
    if x.d = 0 then s.formLevel x 2 x.near else .ok s

/-- What this device does for a collective before it completes: its plan told, sources read, contributions formed and sent. -/
def State.advance (s : State) (x : Coll) : Except Failed State :=
  match (s.announce x).readSources x x.g.n0 with
  | .error e => .error e
  | .ok s => if 1 < x.plan.op then .ok s else s.reduceOn (x.now s)

/-- The elements of every rank in order, for all-gather; none while a frame is missing. -/
def Coll.gather (x : Coll) : Option (List (Nat × Bool)) :=
  (allSome ((List.range x.g.size).map (fun k =>
    let (l, d, c) := x.g.coords k
    if d = x.d ∧ c = x.c then x.own l 0 else (frameFrom x.fs k 0).map (fun f => f.elems x.plan.width)))).map List.flatten

/-- What every rank receives, before it is cut into segments; none while something is missing, or a device whose plan may differ has
not been heard (R352). -/
def Coll.result (x : Coll) : Option (List (Nat × Bool)) :=
  if !(x.told && x.hears) then none
  else if x.plan.op = 2 then x.gather
  else if x.plan.op = 3 then
    (if x.d = 0 ∧ x.c = 0 then x.own 0 0 else (frameFrom x.fs 0 0).map (fun f => f.elems x.plan.width))
  else x.far.map (fun l => (foldVectors l).map x.plan.finish)

/-! ### Notices (R318) -/

/-- The destination ranges of marked elements of a rank at a level: the 32-byte sectors of the result, as byte offset and length
(log 49). -/
def Coll.ranges (x : Coll) (l : Nat) (v : List (Nat × Bool)) : List (Nat × Nat) :=
  let first := if x.plan.op = 2 then x.g.rankAt l x.d x.c * v.length else 0
  (((v.zipIdx.filter (fun y => y.1.2)).map (fun y => x.plan.width * (first + y.2) / 32)).eraseDups).map (fun k => (32 * k, 32))

/-- What this device has sent for a collective with marks: receivers and destination ranges. -/
def Coll.tainted (x : Coll) : List ((Nat × Nat) × List (Nat × Nat)) :=
  (List.range x.g.n0).flatMap (fun l => [0, 1, 2].flatMap (fun lv =>
    match x.own l lv with
    | none => []
    | some v => if v.any (·.2) then (x.dests l lv).map (fun y => (y, x.ranges l v)) else []))

/-- One notice to each peer that has received marked data of the collective. -/
def State.tellPeers (s : State) (x : Coll) : State :=
  let l := x.tainted
  let peers := (l.map (·.1)).eraseDups
  { s with dev := { s.dev with noticed := s.dev.noticed ++ peers.map (fun y =>
      ⟨BitVec.ofNat 64 (x.g.map.getD (x.g.rankAt 0 y.1 y.2) (0, 0)).2, Config.deviceId, x.plan.ident,
        ((l.filter (fun z => z.1 == y)).flatMap (·.2)).eraseDups⟩) } }

/-- The device's coordinates in a collective: those of its members. -/
def State.collHere (s : State) (part : Nat) (p : Plan) (g : GroupBody) : Coll :=
  let (_, d, c) := g.coords p.rank
  s.collAt part p g d c

/-- The same for the collective that a plan names. -/
def State.tellPlan (s : State) (part : Nat) (p : Plan) : State :=
  match s.groupOf part p.group with
  | none => s
  | some g => s.tellPeers (s.collHere part p g)

/-! ### Completion (R349 to R352) -/

/-- The frames of a collective are used up. -/
def State.dropFrames (s : State) (part : Nat) (p : Plan) : State :=
  { s with dev := { s.dev with
      frames := s.dev.frames.filter (fun f => !(f.part == part && f.group == p.group && f.ident == p.ident)) } }

/-- End every member with a status; peers are told of marked data that has been sent. -/
def State.endMembers (s : State) (part : Nat) (p : Plan) (status : Nat) : State :=
  let s := s.tellPlan part p
  ((s.members part p).foldl (fun s m => s.endCommand m.1 m.2.1 status 0) s).dropFrames part p

/-- Every rank of this device receives its part, and its token. -/
def State.distribute (s : State) (x : Coll) (l : List (Nat × Bool)) : State :=
  (x.mine.foldl (fun s m =>
    let p := m.2.2
    let n := p.dstCount x.g.size
    let part := if p.op = 1 then (l.drop (p.rank * n)).take n else l.take n
    s.collChunks m.1 p.count p.width 0 part (chunkCount m.2.1.len)) (s.tellPeers x)).dropFrames x.part x.plan

/-- A member fails with a status; to the other ranks its rank has become unreachable. -/
def State.failMember (s : State) (x : Coll) (m : Member) (e : Denied) : State :=
  let s := (s.negate e.page).tellPeers x
  let s := match SMap.find s.cmds m.1 with
    | some c => s.endCommand m.1 c e.status 0
    | none => s
  s.endMembers x.part x.plan 9

/-- An address of a member stands in the scratchpad of a core that is saved: the collective waits (R301). -/
def State.collHeld (s : State) (m : Member) : Bool :=
  s.barHeld m.2.1 || [m.2.2.src, m.2.2.dst, m.2.2.res].any (s.heldAt m.2.1.ctx)

/-- COLLECTIVE_COMPLETE (R352): a mismatch ends the collective with status 8 here, and at the other devices, which hear of the plan.
Otherwise the collective of command `id` goes on as far as it can: once every rank of this device has
issued it, sources are read and contributions sent, each as soon as the ports that it needs have usable keys (R340); when nothing is
missing any more, it completes at every rank of this device. -/
def execCollectiveComplete (id : Nat) (s : State) : Host.Outcome State Fault Refusal :=
  match SMap.find s.cmds id with
  | none => .next s
  | some c =>
    match c.kind with
    | .coll p =>
      let part := c.ctx.part
      match s.groupOf part p.group with
      | none => .next (s.endMembers part p 8)
      | some g =>
        let x := s.collHere part p g
        if mismatched p g (s.members part p) x.fs then
          let t := s.announce x
          .next (if (x.now t).told then t.endMembers part p 8 else t)
        else if x.mine.length < g.n0 || (x.local 0).isNone || x.mine.any s.collHeld then .next s
        else
          match s.advance x with
          | .error (m, e) => .next (s.failMember x m e)
          | .ok t =>
            match (x.now t).result with
            | none => .next t
            | some l => .next (t.distribute (x.now t) l)
    | _ => .next s

/-- RANK_UNREACHABLE (R352): the collective of command `id` ends with status 9 at every rank of this device. -/
def execRankUnreachable (id : Nat) (s : State) : Host.Outcome State Fault Refusal :=
  match SMap.find s.cmds id with
  | none => .next s
  | some c =>
    match c.kind with
    | .coll p => .next (s.endMembers c.ctx.part p 9)
    | _ => .next s

/-! ### Power states end (R362) -/

/-- Upper v is power-gated with its core, or unbound. -/
def State.gatedUpper (s : State) (v : Nat) : Bool :=
  2 ≤ weltState (s.weltAt v) || (s.upperAt (weltLeader (s.weltAt v))).power == .upperGated

/-- A stack's tier one is in self-refresh while every upper of the stack is gated or unbound. -/
def State.refreshed (s : State) : State :=
  { s with dev := { s.dev with refresh := (List.range 4).filter (fun k =>
      (List.range 128).all (fun i => s.gatedUpper (128 * k + i))) } }

/-- A wake event for a partition: its cores run again. -/
def State.wake (s : State) (part : Nat) : State :=
  match SMap.find s.parts part with
  | none => s
  | some p => (p.cores.foldl (fun s c => s.setUpper c.leader { s.upperAt c.leader with power := .run }) s).refreshed

/-! ### Frames, keys, notices, links -/

/-- A frame comes in at a port whose role carries it (R339): a contribution of level 1, which stays in its domain, on scale-up ports;
one of level 2, and a rank's own elements, on scale-up ports within the domain and on long-haul ports from another (R349; log 45). -/
def levelFits (level role : Nat) : Bool := role == 1 || (role == 2 && level != 1)

/-- FABRIC_FRAME_RECEIVE (R339, R340): a frame that authenticates on a port of its level with a key is kept for its
collective; any other is dropped, for link-level retry. A repeated frame adds nothing. -/
def execFabricFrameReceive (port : Nat) (f : Frame) (s : State) : Host.Outcome State Fault Refusal :=
  match SMap.find s.dev.ports port with
  | none => .next s
  | some p =>
    if !f.authentic || !levelFits f.level p.role || p.key.isNone || s.dev.running != .up then .next s
    else if s.dev.frames.any (fun x => x.part == f.part && x.group == f.group && x.ident == f.ident && x.rank == f.rank &&
      x.level == f.level) then .next s
    else .next ({ s with dev := { s.dev with frames := s.dev.frames ++ [f] } }.wake f.part)

/-- KEY_SWITCH (R340): the port goes on to its next installed key, whose packet numbers start at 0. A port whose key has
run out and that has no next key is left without a usable one. -/
def execKeySwitch (port : Nat) (s : State) : Host.Outcome State Fault Refusal :=
  match SMap.find s.dev.ports port with
  | none => .next s
  | some p =>
    if p.next.isEmpty then .next s
    else .next { s with dev := { s.dev with ports := SMap.put s.dev.ports port p.switched } }

/-- POISON_NOTICE (R318, R361 kind 6): logged, kept, and reported to the host. -/
def execPoisonNotice (port : Nat) (device : Word) (n : NoticeBody) (s : State) : Host.Outcome State Fault Refusal :=
  let s := s.logErr 6 255 6 (16 + port) false device.toNat n.ident.toNat
  let n : Notice := ⟨Config.deviceId, device, n.ident, n.ranges⟩
  .next { s with dev := { s.dev with
    notices := s.dev.notices ++ [n], reports := s.dev.reports ++ [(false, .poison n)] } }

/-- LINK_LANE_RETRAIN (R329, R361 kind 8): only the log shows it. -/
def execLinkLaneRetrain (link lane : Nat) (s : State) : Host.Outcome State Fault Refusal :=
  .next (s.logErr 8 255 6 link false lane 0)

/-! ### The CRC of a transaction (R322) -/

end Sys2Proof.Machine

namespace Sys2Proof
open Machine

/-- The CRC that a transaction carries: over the 8-byte physical address, the byte enables and the data. -/
def Transfer.crc (t : Transfer) : BitVec 32 := crc32c (bytesOf t.pa 8 ++ bytesOf t.en.toNat 4 ++ bytesOf t.data.toNat 32)

end Sys2Proof

namespace Sys2Proof.Machine

/-- Failures of a transaction so far. -/
def State.crcFailures (s : State) (t : Transfer) : Nat := ((s.dev.crc.find? (fun x => x.1 = t)).map (·.2)).getD 0

/-- Note the failures of a transaction; 0 when it is over. -/
def State.setCrc (s : State) (t : Transfer) (n : Nat) : State :=
  let l := s.dev.crc.filter (fun x => x.1 ≠ t)
  { s with dev := { s.dev with crc := if n = 0 then l else (t, n) :: l } }

/-- A transaction's data count as uncorrectable: a write lands with its sector marked; a read returns it marked, while the memory
below still holds it sound. -/
def State.crcBad (s : State) (t : Transfer) : State :=
  let sec := t.pa / 32
  if t.write then s.markSector sec
  else if s.mem.poison.contains sec then s
  else
    let s := s.markSector sec
    { s with mem := { s.mem with returned := insertNat s.mem.returned sec } }

/-- CRC_FAILURE (R322, R361 kind 7): a transaction arrives with a CRC. One that does not match is logged and the transaction is
sent again, three times at most; at the fourth failure its data are treated as uncorrectable. One that matches ends it. -/
def execCrcFailure (t : Transfer) (crc : BitVec 32) (s : State) : Host.Outcome State Fault Refusal :=
  if crc = t.crc then .next (s.setCrc t 0)
  else
    let n := s.crcFailures t + 1
    let s := s.logErr 7 255 3 (sliceOf t.pa) false t.pa (n + if n = 4 then 256 else 0)
    if n < 4 then .next (s.setCrc t n) else .next ((s.crcBad t).setCrc t 0)

end Sys2Proof.Machine
end

