-- ==== Sys2Proof/Machine/Welt.lean ====
section
/-!
DEFINITION. The welt: windows and bindings, the repair record's base map, gangs as they are formed and dissolved, and the
chains of a rebinding (R328 to R334, R337).
-/

namespace Sys2Proof.Machine

/-! ### Half-soles and windows (R328, R330, R331) -/

/-- Half `h` of a sole as a number: 2 x (136 x stack + sole) + half. -/
def halfNumber (stack sole half : Nat) : Nat := 2 * (136 * stack + sole) + half

/-- The half-soles of an entry of stack `stack`: positions A and B (R331). -/
def weltHalves (stack : Nat) (e : Word) : Nat × Nat :=
  let n := e.toNat
  (halfNumber stack (n % 256) (n / 256 % 2), halfNumber stack (n / 65536 % 256) (n / 16777216 % 2))

/-- The low half of an entry, which binds the half-soles a and b. -/
def halfFields (a b : Nat) : Nat :=
  let f (h : Nat) : Nat := h / 2 % 136 + 256 * (h % 2)
  f a + 65536 * f b

/-- An entry that binds half-soles a and b: its state, gang, position and leader fields. -/
def weltEntry (st gang pos leader a b : Nat) : Word :=
  BitVec.ofNat 64 (st * 2 ^ 62 + gang * 2 ^ 60 + pos * 2 ^ 44 + leader * 2 ^ 32 + halfFields a b)

/-- An entry of state 2 or 3, zero in every other field. -/
def bareEntry (st : Nat) : Word := BitVec.ofNat 64 (st * 2 ^ 62)

/-- The gang field of an entry. -/
def weltGang (e : Word) : Nat := e.toNat / 2 ^ 60 % 4

/-- The gang field of a width (R331). -/
def gangField (g : Nat) : Nat := if g = 2 then 1 else if g = 4 then 2 else 0

/-- The soles of an upper's window (R330). -/
def windowSoles (u : Nat) : List Nat :=
  let r := u % 128 / 16
  let c := u % 16
  [17 * r + c, 17 * r + c + 1] ++ (if r < 7 then [17 * (r + 1) + c, 17 * (r + 1) + c + 1] else [])

/-- The half-soles of an upper's window. -/
def windowHalves (u : Nat) : List Nat :=
  (windowSoles u).flatMap (fun i => [halfNumber (u / 128) i 0, halfNumber (u / 128) i 1])

/-- The uppers of a stack. -/
def stackUppers (k : Nat) : List Nat := (List.range 128).map (fun i => 128 * k + i)

/-- Set an upper's entry of the welt map. -/
def State.setWelt (s : State) (v : Nat) (e : Word) : State := { s with dev := { s.dev with welt := SMap.put s.dev.welt v e } }

/-- The half-soles that upper v's entry binds. -/
def State.boundHalves (s : State) (v : Nat) : List Nat :=
  let e := s.weltAt v
  if weltState e < 2 then let (a, b) := weltHalves (v / 128) e; [a, b] else []

/-- The status of a half-sole (R332). -/
def State.halfStatus (s : State) (h : Nat) : Nat := (SMap.find s.dev.halves h).getD 0

/-- A half-sole may be bound. -/
def State.halfGood (s : State) (h : Nat) : Bool := s.halfStatus h == 0

/-- The upper that binds a half-sole. -/
def State.holderOf (s : State) (h : Nat) : Option Nat :=
  (stackUppers (h / 2 / 136)).find? (fun v => (s.boundHalves v).contains h)

/-- A half-sole is good and bound by no upper. -/
def State.halfFree (s : State) (h : Nat) : Bool := s.halfGood h && (s.holderOf h).isNone

/-- The uppers of the core that upper u leads. -/
def State.lentTo (s : State) (u : Nat) : List Nat :=
  (List.range Config.uppers).filter (fun v => weltState (s.weltAt v) < 2 && weltLeader (s.weltAt v) == u)

/-- A core is bound to good half-soles only. -/
def State.coreGood (s : State) (u : Nat) : Bool := (s.lentTo u).all (fun v => (s.boundHalves v).all s.halfGood)

/-! ### The base map of the repair record (R332, R333) -/

/-- The base entry of an upper in a record. -/
def Repair.entry (r : Repair) (v : Nat) : Word := (SMap.find r.welt v).getD (plainWelt v)

/-- A base entry keeps R330 to R332: state 0 binds two good half-soles of the upper's window, gang field 0, reserved bits 0;
states 2 and 3 are zero elsewhere. -/
def Repair.entryOk (r : Repair) (v : Nat) : Bool :=
  let e := r.entry v
  let st := weltState e
  if st = 0 then
    let (a, b) := weltHalves (v / 128) e
    e.toNat / 2 ^ 25 % 128 == 0 && e.toNat / 2 ^ 9 % 128 == 0 && e.toNat / 2 ^ 32 == v && a != b &&
      (windowHalves v).contains a && (windowHalves v).contains b &&
      (SMap.find r.status a).getD 0 == 0 && (SMap.find r.status b).getD 0 == 0
  else (st == 2 || st == 3) && e.toNat % 2 ^ 62 == 0

/-- The half-soles that a base map binds. -/
def Repair.bound (r : Repair) : List Nat :=
  (List.range Config.uppers).flatMap (fun v =>
    if weltState (r.entry v) = 0 then let (a, b) := weltHalves (v / 128) (r.entry v); [a, b] else [])

/-- A copy qualifies (R333). -/
def Repair.qualifies (r : Repair) : Bool :=
  r.valid && r.device == Config.deviceId && r.format == 1 && (List.range Config.uppers).all r.entryOk && r.bound.Nodup

/-- The copy that boot takes (R333). -/
def Flash.record (f : Flash) : Option Repair :=
  let a := f.repair.get 0
  let b := f.repair.get 1
  if a.qualifies && (!b.qualifies || b.count ≤ a.count) then some a else if b.qualifies then some b else none

/-- The welt map when no copy qualifies: no compute upper is bound (R333). -/
def unboundWelt : SMap Word := (List.range Config.uppers).map (fun v => (v, bareEntry 2))

/-- The older of the two flash copies of the repair record. -/
def Flash.older (f : Flash) : Fin 2 := if (f.repair.get 0).count ≤ (f.repair.get 1).count then 0 else 1

/-! ### Gangs are dissolved (R334) -/

/-- Two free half-soles of an upper's own window, its own sole's first. -/
def State.freePair (s : State) (v : Nat) : Option (Nat × Nat) :=
  match (windowHalves v).filter s.halfFree with
  | a :: b :: _ => some (a, b)
  | _ => none

/-- Upper v, which is unbound, becomes a core of its own where its window has a pair left. -/
def State.pairUp (s : State) (v : Nat) : State :=
  match s.freePair v with
  | some (a, b) => s.setWelt v (weltEntry 0 0 0 v a b)
  | none => s

/-- Upper v runs nothing now and is bound in the base map. -/
def State.unpaired (s : State) (v : Nat) : Bool :=
  weltState (s.weltAt v) == 2 && s.dev.flash.record.any (fun r => weltState (r.entry v) == 0)

/-- The gang led by u is dissolved: its uppers are unbound, and every upper of the stack that has lost its pair takes one of its
own window again, the lowest first (R331; log 10). -/
def State.dissolve (s : State) (u : Nat) : State :=
  let s := (s.lentTo u).foldl (fun s v => s.setWelt v (bareEntry 2)) s
  (stackUppers (u / 128)).foldl (fun s v => if s.unpaired v then s.pairUp v else s) s

/-- The leaders of all gangs. -/
def State.gangLeaders (s : State) : List Nat :=
  (List.range Config.uppers).filter (fun v => weltState (s.weltAt v) == 0 && weltGang (s.weltAt v) != 0)

/-- The map in force as a base map: what it would be without its gangs (R332). -/
def State.baseWelt (s : State) : SMap Word := (s.gangLeaders.foldl State.dissolve s).dev.welt

/-- Write the repair record anew over the older copy: update count raised, signed with the device key (R333). -/
def State.writeRepair (s : State) : State :=
  let f := s.dev.flash
  let top := max (f.repair.get 0).count (f.repair.get 1).count
  let r : Repair := ⟨1, top + 1, 1, Config.deviceId, true, s.dev.halves, s.baseWelt⟩
  { s with dev := { s.dev with flash := { f with repair := f.repair.set f.older.val r f.older.isLt } } }

/-! ### Gangs are formed (R334) -/

/-- Upper v leads or lends to no core of a partition and to no gang of one. -/
def State.unowned (s : State) (v : Nat) : Bool :=
  let u := weltLeader (s.weltAt v)
  weltState (s.weltAt v) < 2 && (s.coreAt u).isNone && !s.parts.any (fun p => p.2.gangs.contains u)

/-- The service can give upper v up: a core of width 1 that no partition holds. -/
def State.spare (s : State) (v : Nat) : Bool :=
  weltState (s.weltAt v) == 0 && weltGang (s.weltAt v) == 0 && s.unowned v

/-- A gang of width g led by u fits its stack (R334). -/
def gangFits (u g : Nat) : Bool := u < Config.uppers && (g != 4 || u % 128 / 16 ≤ 6)

/-- How a gang is to be bound: its 2G half-soles in order of position, and the uppers that take positions 1 and on. -/
structure GangPlan where
  halves : List Nat
  lent   : List Nat
  deriving DecidableEq, Repr

/-- The good half-soles of upper u's window that upper v binds. -/
def State.lendable (s : State) (u v : Nat) : List Nat :=
  (s.boundHalves v).filter (fun h => s.halfGood h && (windowHalves u).contains h)

/-- A gang of width g led by upper u, which the service holds spare: its own half-soles, then those that g - 1 spare uppers at most
lend of its window, whole pairs first, then free ones. The lenders take the further positions, then unbound uppers of the stack; an
upper that lends nothing keeps its pair (log 10). -/
def State.gangPlan (s : State) (u g : Nat) : Option GangPlan :=
  if !gangFits u g || !s.spare u then none
  else
    let window := windowHalves u
    let near := (((window.filter s.halfGood).filterMap s.holderOf).eraseDups).filter (fun v => v != u && s.spare v)
    let pairs (v : Nat) : Bool := (s.lendable u v).length == 2
    let givers := (near.filter pairs ++ near.filter (fun v => !pairs v)).take (g - 1)
    let halves := (s.boundHalves u ++ givers.flatMap (s.lendable u) ++ window.filter s.halfFree).take (2 * g)
    let others := (stackUppers (u / 128)).filter (fun v => weltState (s.weltAt v) == 2)
    let lent := (givers ++ others).take (g - 1)
    if halves.length = 2 * g ∧ lent.length = g - 1 ∧ halves.all (fun h => s.halfGood h && window.contains h) = true then
      some ⟨halves, lent⟩
    else none

/-- Bind a gang: the entry of position j takes half-soles 2j and 2j + 1 (R331, R334). -/
def State.bindGang (s : State) (u g : Nat) (x : GangPlan) : State :=
  (u :: x.lent).zipIdx.foldl (fun s (v, j) =>
    s.setWelt v (weltEntry (if j = 0 then 0 else 1) (gangField g) j u (x.halves.getD (2 * j) 0) (x.halves.getD (2 * j + 1) 0))) s

/-- A core of width g led by u is to be had: a spare upper, or a gang. The state with it formed. -/
def State.formCore (s : State) (u g : Nat) : Option State :=
  if g = 1 then (if s.spare u && s.coreGood u then some s else none) else (s.gangPlan u g).map (s.bindGang u g)

/-- A gang that partition n has left behind by a resize, of width g: it stands until the partition is destroyed. -/
def State.leftGang (s : State) (p : Partition) (g : Nat) : Option Nat :=
  p.gangs.find? (fun u => weltGang (s.weltAt u) == gangField g && (s.coreAt u).isNone && s.coreGood u)

/-- The lowest upper from u on at which a core of width g can be formed, and the state with it. -/
def State.lowestCore (s : State) (g u : Nat) : Nat → Option (Nat × State)
  | 0 => none
  | n + 1 =>
    match s.formCore u g with
    | some t => some (u, t)
    | none => s.lowestCore g (u + 1) n

/-! ### Chains (R337) -/

/-- Half-soles that can be had, each with the number of uppers that must change before it is free: the good free ones at 0,
then, cost by cost, the good ones of every upper whose leader's window holds one that can be had. -/
def State.spread (s : State) (known : List (Nat × Nat)) (cost : Nat) (left : List Nat) : Nat → List (Nat × Nat)
  | 0 => known
  | n + 1 =>
    let now := left.filter (fun w => (windowHalves (weltLeader (s.weltAt w))).any (fun z => known.any (fun k => k.1 == z)))
    if now.isEmpty then known
    else
      let more := now.flatMap (fun w => ((s.boundHalves w).filter s.halfGood).map (fun y => (y, cost + 1)))
      s.spread (known ++ more) (cost + 1) (left.filter (fun w => !now.contains w)) n

/-- The half-soles of a stack that can be had, with their costs. -/
def State.supply (s : State) (stack : Nat) : List (Nat × Nat) :=
  let free := ((List.range 272).map (fun i => 272 * stack + i)).filter s.halfFree
  s.spread (free.map (fun y => (y, 0))) 0 ((stackUppers stack).filter (fun w => weltState (s.weltAt w) < 2)) 128

/-- A chain that changes the fewest uppers: upper v gives up half x and takes a half of its leader's window that costs
least; the upper that held it goes on in the same way. Each link is the upper, the half it gives up, the half it takes.
Where several halves cost the same, which is taken is open (free value, log 4). Empty when there is none. -/
def State.chain (s : State) (known : List (Nat × Nat)) (v x : Nat) : Nat → List (Nat × Nat × Nat)
  | 0 => []
  | n + 1 =>
    let opts := (windowHalves (weltLeader (s.weltAt v))).filterMap (fun z =>
      if z = x then none else known.find? (fun k => k.1 == z))
    let least := opts.foldl (fun m k => min m k.2) 1088
    let best := opts.filter (fun k => k.2 == least)
    match best[Config.bindingPick (s.uid + n) % max best.length 1]? with
    | none => []
    | some (z, _) =>
      match s.holderOf z with
      | none => [(v, x, z)]
      | some w => (v, x, z) :: s.chain known w z n

/-- The chain around half-sole x; empty when there is none. -/
def State.chainFor (s : State) (v x : Nat) : List (Nat × Nat × Nat) := s.chain (s.supply (v / 128)) v x 128

/-- Replace one half of an entry. -/
def weltReplace (stack : Nat) (e : Word) (x y : Nat) : Word :=
  let (a, b) := weltHalves stack e
  BitVec.ofNat 64 (e.toNat / 2 ^ 32 * 2 ^ 32 + halfFields (if a = x then y else a) (if b = x then y else b))

/-- The welt after a chain. -/
def State.bindChain (s : State) (l : List (Nat × Nat × Nat)) : State :=
  l.foldl (fun s (v, x, y) => s.setWelt v (weltReplace (v / 128) (s.weltAt v) x y)) s

/-- The leaders whose cores a chain changes, and that belong to a partition. -/
def State.chainCores (s : State) (l : List (Nat × Nat × Nat)) : List Nat :=
  ((l.map (fun x => weltLeader (s.weltAt x.1))).eraseDups).filter (fun u => (s.coreAt u).isSome)

/-- Every link takes a half-sole that is still good. -/
def State.chainStands (s : State) (l : List (Nat × Nat × Nat)) : Bool := l.all (fun x => s.halfGood x.2.2)

end Sys2Proof.Machine
end

