-- ==== Sys2Proof/Machine/Preempt.lean ====
section
/-!
DEFINITION. Pre-emption, the context-save engine, the ends of halted sequencers, check mismatches, the welt and its
rebinding, and cores that leave a partition (R251, R290, R291, R297 to R305, R319 to R321, R328 to R338).
-/

namespace Sys2Proof.Machine

/-! ### Requests and stops (R297, R299) -/

/-- The core of upper u is asked to leave its partition (R338), from the time of a request that stands already. -/
def State.askRemoval (s : State) (u : Nat) : State :=
  let up := s.upperAt u
  let t := match up.preempt with
    | some (_, t) => t
    | none => s.clock
  s.setUpper u { up with preempt := some (.resize, t) }

/-- The change that is first is over. -/
def State.dropChange (s : State) : State := { s with dev := { s.dev with changes := s.dev.changes.drop 1 } }

/-- The removal of the core of upper u, once its turn among the changes has come (R337): it is asked to leave; once it has left, the
change is over. -/
def State.removalStep (s : State) (u : Nat) : State :=
  match s.dev.changes with
  | .removal v :: _ =>
    if v ≠ u then s
    else if (s.coreAt u).isSome then (if (s.upperAt u).preempt.map (·.1) = some .resize then s else s.askRemoval u)
    else s.dropChange
  | _ => s

/-- PREEMPTION_REQUEST (R297): the resident service requests the pre-emption of the core of upper u. One that removes the core takes
its turn among the changes, which take effect one at a time (R337). -/
def execPreemptionRequest (u : Nat) (why : Purpose) (s : State) : Host.Outcome State Fault Refusal :=
  match s.coreAt u with
  | none => .next s
  | some _ =>
    if why = .resize then
      .next (({ s with dev := { s.dev with changes := s.dev.changes ++ [.removal u] } } : State).removalStep u)
    else .next (s.askStop u why)

/-- The sequencer's `zcswap` has swapped and waits for older generations: the word has issued and completes (R30, R299). -/
def State.swapping (s : State) (q : Nat) : Bool :=
  match (s.upperAt (upperOf q)).swapWait with
  | some (k, true, _) => k == q
  | _ => false

/-- A `zcswap` of the sequencer that has not swapped yet is abandoned; it issues again at its word. -/
def State.dropSwap (s : State) (q : Nat) : State :=
  let up := s.upperAt (upperOf q)
  s.setUpper (upperOf q) { up with
    swapQueue := up.behind q
    swapWait := up.swapWait.filter (fun w => w.1 != q || w.2.1) }

/-- An escalation stops sequencer q: it runs or waits at a `barw`, its entry window is closed, and no issued word of its must
complete first (R299). -/
def State.escalates (s : State) (q : Nat) : Bool :=
  let m := s.seqAt q
  match m.mode with
  | .running => !m.window && !s.swapping q
  | .barw _ => !m.window
  | _ => false

/-- Stop one sequencer at its instruction boundary when escalation stops it. A waiting `barw` is abandoned: PC still holds its
word. -/
def State.escalate (s : State) (q : Nat) : State :=
  if s.escalates q then
    (s.setSeq q { s.seqAt q with mode := .stopped 3, resv := none, posted := none, early := [], late := [] }).dropSwap q
  else s

/-- PREEMPT_ESCALATION (R299): 100 µs after the request, every sequencer of the core that has not stopped is stopped. -/
def execPreemptEscalation (u : Nat) (s : State) : Host.Outcome State Fault Refusal :=
  match (s.upperAt u).preempt with
  | none => .next s
  | some (_, t) => if s.clock < t + Config.clocks100us then .next s else .next ((seqsOf u).foldl State.escalate s)

/-! ### Scrubs (R251) -/

/-- Clear an upper: reset tables, generation 0, no request; CYCLE goes on (R28, R95). Its ordinary tenant counts as switched in from now
on, whenever a remap table comes to name the core later, so that its first quantum may have passed by then (R196, R366). DESIGN CHOICE,
log 75. -/
def State.scrubUpper (s : State) (u : Nat) : State :=
  s.setUpper u { Upper.reset with origin := (s.upperAt u).origin, since := s.clock }

/-- The checking positions of the pairs of some uppers start anew (log 17). -/
def State.clearChecks (s : State) (us : List Nat) : State :=
  { s with checks := s.checks.filter (fun x => !us.contains x.1) }

/-- An upper and the soles of its core as they enter a partition; no word fetched before is left in its instruction cache. -/
def State.enterCore (s : State) (u : Nat) : State :=
  (((seqsOf u).foldl (fun s q => s.setSeq q { (s.seqAt q).cleared with fetched := [] }) (s.scrubUpper u)).scrubSole u).clearChecks
    (s.lentTo u)

/-! ### A core that leaves (R195, R252, R338) -/

/-- The entry of a list that a remap table names least often, the first of several. -/
def leastLoaded (remap : List Nat) (us : List Nat) : Option Nat :=
  us.foldl (fun best v =>
    match best with
    | none => some v
    | some b => if remap.count v < remap.count b then some v else some b) none

/-- A remap table without upper u: its logical cores are spread over the others. -/
def rehome (remap us : List Nat) (u : Nat) : List Nat :=
  (List.range remap.length).foldl (fun r i =>
    if r[i]? = some u then
      match leastLoaded r us with
      | some v => r.set i v
      | none => r
    else r) remap

/-- The nearest remaining upper of a gang width in ring order (log 10). -/
def Partition.refuge (p : Partition) (u width : Nat) : Option Nat :=
  ((p.coresOf width).map (·.leader)).foldl (fun best v =>
    if v = u then best
    else
      match best with
      | none => some v
      | some b => if ringDistance u v < ringDistance u b then some v else some b) none

/-- Queued and yielded records of ordinary launches move from upper u to upper v. -/
def State.moveWork (s : State) (u v : Nat) : State :=
  { s with
    queue := s.queue.map (fun e => if e.place = u ∧ (s.launchAt e.work.launch).det = false then { e with place := v } else e)
    yields := s.yields.map (fun y => if y.place = u then { y with place := v } else y) }

/-! #### Channels of a core that leaves (R338) -/

/-- The virtual address of an offset in a global slot (R242). -/
def slotAddress (slot off : Nat) : Nat := Config.globalWindow + slot * 4194304 + off

/-- A node that names a channel at `new` where it named one at `old`. -/
def Node.renamed (d : Node) (old new : Nat) : Node :=
  let f (x : Nat) : Nat := if x = old then new else x
  { d with inCh := f d.inCh, outCh := f d.outCh, chan := f d.chan }

/-- The addresses of a node's start line in memory, from 0x50 on, as the hardware's copy has them (R209). -/
def State.rewriteLine (s : State) (u n x : Nat) : State :=
  match SMap.find s.nests n with
  | none => s
  | some t =>
    match t.nodes[x]? with
    | none => s
    | some d =>
      let (w0, w1, w2) := t.lineWords d
      s.hwWrite u t.part (d.frame + 0x50) 8 24 (packDwords [w0, w1, w2])

/-- A channel of nest n has a new place: nodes, their frames and the records yielded on it name that one. -/
def State.renameChannel (s : State) (u n old new oldLoc newLoc : Nat) : State :=
  match SMap.find s.nests n with
  | none => s
  | some t =>
    let nodes := t.nodes.map (fun d => d.renamed old new)
    let hit := (List.range nodes.length).filter (fun x => nodes[x]? != t.nodes[x]?)
    let s : State := { s with
      nests := SMap.put s.nests n { t with nodes := nodes }
      yields := s.yields.map (fun y => if y.chan = oldLoc then { y with chan := newLoc } else y) }
    hit.foldl (fun s x => s.rewriteLine u n x) s

/-- Bytes and marks of a run of locations move to another, whatever stood there; the first reads 0 afterwards. -/
def State.moveBytes (s : State) (a b n : Nat) : State :=
  let inside (x : Nat) : Bool := a ≤ x && x < a + n
  let rest := (s.clearPages a n).clearPages b n
  { rest with mem := { rest.mem with
      cells := (s.mem.cells.filter (fun c => inside c.1)).foldl (fun m c => cellPut m (b + (c.1 - a)) c.2) rest.mem.cells
      poison := (s.mem.poison.filter (fun x => inside (32 * x))).foldl (fun m x => insertNat m ((b + (32 * x - a)) / 32))
        rest.mem.poison } }

/-- The live bit of a channel's line moves from one sole to another. -/
def State.moveLive (s : State) (u v off new : Nat) : State :=
  let s := s.setSole u { s.soleAt u with live := (s.soleAt u).live.filter (· != off) }
  s.setSole v { s.soleAt v with live := insertNat (s.soleAt v).live new }

/-- Room for a channel in the highest units of a sole of one of the cores `ds` from offset `lo` on: in its channel area, else in as few
units below it as take the channel. -/
def State.roomAbove (s : State) (share lo : Nat) (ds : List CoreOf) (size : Nat) : Option (CoreOf × Nat) :=
  (List.range 17).findSome? (fun j => ds.findSome? (fun d =>
    (firstFit ((s.chansTaken d.leader).foldl spanInsert []) (max lo (1048576 - 65536 * (share + j))) 1048576 size).map
      (fun new => (d, new))))

/-- Where a channel of a core that leaves goes: the channel area of the first of the cores `ds` that has room, else bytes of a claimed
area that no nest claims, of which `claimed` are claimed; only where no sole has such bytes, claimed ones. DESIGN CHOICE, log 42. -/
def State.channelRoom (s : State) (share claimed : Nat) (ds : List CoreOf) (size : Nat) : Option (CoreOf × Nat) :=
  (s.roomAbove share (alignUp claimed 64) ds size).or (s.roomAbove share 0 ds size)

/-- The channel of nest n at an offset of the sole of core c moves to the sole of one of the cores `ds` (R338). -/
def State.moveChannel (s : State) (share claimed : Nat) (c : CoreOf) (ds : List CoreOf) (n off size : Nat) : State :=
  match s.channelRoom share claimed ds size with
  | none => s
  | some (d, new) =>
    let a := padLoc c.leader off
    let b := padLoc d.leader new
    let s := (s.moveBytes a b size).moveLive c.leader d.leader off new
    let s : State := { s with nests := s.nests.map (fun x =>
      (x.1, if x.1 = n then { x.2 with chans := x.2.chans.map (fun y =>
        if y = (c.leader, off, size) then (d.leader, new, size) else y) } else x.2)) }
    s.renameChannel c.leader n (slotAddress c.slot off) (slotAddress d.slot new) a b

/-- The channels that ordinary nests of a partition hold in a core's sole: nest, offset, size. -/
def State.channelsAt (s : State) (p u : Nat) : List (Nat × Nat × Nat) :=
  s.nests.flatMap (fun (n, t) =>
    if t.part = p ∧ (s.launchAt t.launch).det = false then
      (t.chans.filter (fun y => y.1 == u)).map (fun y => (n, y.2.1, y.2.2))
    else [])

/-- The channels of the core c of partition p move to the cores `ds`. -/
def State.moveChannels (s : State) (p share : Nat) (c : CoreOf) (ds : List CoreOf) : State :=
  let claimed := claimSum (s.nestsOf p c.width) (·.claims.scratch)
  (s.channelsAt p c.leader).foldl (fun s (n, off, size) => s.moveChannel share claimed c ds n off size) s

/-! #### Accesses under way that perform at another location -/

/-- A token that names its round by the descriptor's location. -/
def Tok.redirect (f : Nat → Nat) (t : Tok) : Tok :=
  match t with
  | .round loc => .round (f loc)
  | .cmd k => .cmd k
  | .nest k => .nest k

/-- The round that a yielded coroutine holds. -/
def Rec.redirect (f : Nat → Nat) (r : Rec) : Rec := { r with resume := r.resume.map (fun x => (x.1, x.2.map f)) }

/-- The buffered stores of a strip, the locations its checkpoint names. -/
def Strip.redirect (f : Nat → Nat) (st : Strip) : Strip :=
  { st with
    buf := st.buf.foldl (fun b (k, e) => SMap.put b (f (32 * k) / 32) e) []
    ck := { st.ck with pend := st.ck.pend.map (fun x => (x.1, x.2.redirect f)) } }

/-- What a sequencer holds of a location: its strip, the loads around it, its reservation, its round and that round's token. -/
def Seq.redirect (f : Nat → Nat) (m : Seq) : Seq :=
  { m with
    strip := m.strip.map (Strip.redirect f)
    early := m.early.map (fun e => { e with loc := f e.loc })
    late := m.late.map (fun e => { e with loc := f e.loc })
    unseen := m.unseen.map (fun p => { p with sec := f (32 * p.sec) / 32 })
    resv := m.resv.map (fun g => f (64 * g) / 64)
    held := m.held.map f
    pend := m.pend.map (fun x => (x.1, x.2.redirect f)) }

/-- An update on its way or held. -/
def Update.redirect (f : Nat → Nat) (x : Update) : Update := { x with loc := f x.loc, round := x.round.map f }

/-- Every access under way, and every name of a location in the device, goes to the location that f gives. -/
def State.redirect (s : State) (f : Nat → Nat) : State :=
  { s with
    seqs := s.seqs.map (fun x => (x.1, x.2.redirect f))
    saves := s.saves.map (fun x => (x.1, { x.2 with seqs := x.2.seqs.map (Seq.redirect f) }))
    queue := s.queue.map (fun e => { e with saved := e.saved.map (Seq.redirect f), work := e.work.redirect f })
    yields := s.yields.map (fun y => { y with work := y.work.redirect f, chan := f y.chan })
    rounds := s.rounds.foldl (fun r x => SMap.put r (f x.1) x.2) []
    flights := s.flights.map (Update.redirect f)
    holds := s.holds.map (fun x => (x.1, x.2.map (Update.redirect f))) }

/-! #### Accesses under way to a core that leaves (R242, R252) -/

/-- The image that receives what is still under way to the sole that upper u has left. DESIGN CHOICE, log 9. -/
def ghostImage (u : Nat) : Nat := Config.uppers + u

/-- The location of such an access. -/
def ghostLoc (u loc : Nat) : Nat := if inPad u loc then padLoc (ghostImage u) (loc - padLoc u 0) else loc

/-- A sequencer has performed its loads from the scratchpad of upper u: they take what they have taken. -/
def Seq.settlePad (m : Seq) (u : Nat) : Seq := { m with late := m.late.filter (fun e => !inPad u e.loc) }

/-- Every access under way to the sole that upper u leaves performs on what it leaves. -/
def State.ghost (s : State) (u : Nat) : State :=
  ({ s with seqs := s.seqs.map (fun x => (x.1, x.2.settlePad u)) } : State).redirect (ghostLoc u)

/-- Sequencers that wait at a `barw` for an object in the sole of upper u. -/
def State.waitersAt (s : State) (u : Nat) : List Nat :=
  (s.seqs.filter (fun x => match x.2.mode with
    | .barw w =>
      (match s.resolve (s.ctxOf x.1) .both w.addr with
       | .ok loc => inPad u loc
       | .error _ => false)
    | _ => false)).map (·.1)

/-- A waiting `barw` whose object is out of reach traps. -/
def State.trapWaiter (s : State) (q : Nat) : State :=
  match (s.seqAt q).mode with
  | .barw w =>
    (match s.barwLook q w with
     | some (.error t) => s.trapWait q w t
     | _ => s)
  | _ => s

/-! #### The removal -/

/-- A saved context of upper u stands on its sequencers again, stopped as it was. -/
def State.unsave (s : State) (u : Nat) : State :=
  s.saves.foldl (fun s (k, x) =>
    if x.core && x.upper == u then
      let s := x.seqs.zipIdx.foldl (fun s (m, i) =>
        let old := s.seqAt (4 * u + i)
        s.setSeq (4 * u + i) { m with trapSeq := old.trapSeq, ring := old.ring }) s
      let s := s.setUpper u { s.upperAt u with active := x.active, shadow := x.shadow, gen := x.gen, tenant := x.tenant }
      { s with saves := SMap.del s.saves k }
    else s) s

/-- The save area in which the context of the core of upper u has been written. -/
def State.areaOf (s : State) (p u width : Nat) : Option Nat :=
  (SMap.find s.parts p).bind (fun x => SMap.find x.saveAreas (8 * ((s.upperAt u).tenant.site u 0).2 + width))

/-- The class tables of the running logical core of upper u are kept for its next core; those of the ordinary tenant are gone with
the core. -/
def State.partTables (s : State) (p u : Nat) : State :=
  let s := if (s.upperAt u).tenant = .ordinary then s else s.putAside p u .resize none
  { s with saves := s.saves.filter (fun x => x.2.core || x.2.tenant != .ordinary || x.2.upper != u) }

/-- The core of upper u leaves partition p (R338): its contexts go back to the queues, its work and channels move, the remap tables
change. -/
def State.leaveCore (s : State) (p u width : Nat) : State :=
  let s := s.unsave u
  let s := (s.requeueAll u (s.areaOf p u width)).partTables p u
  match SMap.find s.parts p with
  | none => s
  | some x =>
    let rest := ((x.coresOf width).map (·.leader)).filter (· != u)
    let s : State := match x.refuge u width with
      | some v =>
        let s := s.moveWork u v
        let others := (x.coresOf width).filter (fun c => c.leader != u)
        (match x.cores.find? (fun c => c.leader == u) with
         | some c => s.moveChannels p x.share c (others.filter (·.leader == v) ++ others.filter (·.leader != v))
         | none => s)
      | none => s
    let waiters := s.waitersAt u
    let launches : SMap Launch := s.launches.map (fun y =>
      (y.1, if y.2.part = p ∧ y.2.det = true ∧ y.2.gang = width then { y.2 with remap := rehome y.2.remap rest u } else y.2))
    let s : State := { s with
      launches := launches
      parts := SMap.put s.parts p { x with cores := x.cores.filter (fun c => c.leader != u) } }
    (waiters.foldl State.trapWaiter (s.ghost u)).scrubUpper u

/-! ### The context-save engine (R301 to R305) -/

/-- A context of the core of upper u is saved. -/
def State.savedCore (s : State) (u : Nat) : Bool := s.saves.any (fun x => x.2.core && x.2.upper == u)

/-- The core c of partition p, whose context stands in an area, is saved: its sequencers hold nothing any more. -/
def State.saveCore (s : State) (p area : Nat) (c : CoreOf) (why : Purpose) : State :=
  let (id, s) := s.fresh
  let x := s.contextOf p c.leader c.width area why
  let s := (seqsOf c.leader).foldl (fun s q => (s.dropPins q).setSeq q (s.seqAt q).cleared) s
  { s with saves := SMap.put s.saves id x }

/-- CONTEXT_SAVE (R301): once every sequencer of the core stands still and its commands have ended, cancelled records end
and the context is saved. A core that leaves its partition leaves at its save (R268, R338); a time slice is saved by
TENANT_SWITCH. -/
def execContextSave (u : Nat) (s : State) : Host.Outcome State Fault Refusal :=
  match (s.upperAt u).preempt, s.coreAt u with
  | some (why, _), some (p, c) =>
    if why = .timeSlice || !s.allStill u then .next s
    else
      let s := s.endStoppedAll u
      if s.savedCore u then .next (if why = .resize then s.leaveCore p u c.width else s)
      else
        match s.keepContext p c why with
        | (none, s) => .next (if why = .resize then s.leaveCore p u c.width else s)
        | (some a, s) => .next (if why = .resize then s.leaveCore p u c.width else s.saveCore p a c why)
  | _, _ => .next s

/-- The upper that a context was saved from is free for other work once it is restored elsewhere. -/
def State.freeUpper (s : State) (u : Nat) (x : Saved) : State :=
  let up := s.upperAt x.upper
  if x.upper = u ∨ up.preempt.map (·.1) ≠ some x.purpose then s else s.setUpper x.upper { up with preempt := none }

/-- A tenant whose launch was over while its context was saved leaves its core to the ordinary tenant. -/
def State.leaveIfOver (s : State) (p u : Nat) (t : Tenant) : State :=
  match t with
  | .ordinary => s
  | .logical k c => if (SMap.find s.launches k).isSome then s else s.backToOrdinary p u k c

/-- The service may name the core of upper u for a context (R305): a logical core goes to any; the context of an ordinary tenant, whose
sole's slot keeps its number (R242, R338) and to which accesses are held (R301), goes back to its own. DESIGN CHOICE, log 57. -/
def Saved.fits (x : Saved) (u : Nat) : Bool := x.tenant != .ordinary || x.upper == u

/-- Restore save k onto the core of upper u (R305). The tenant counts as switched in since it was (R196). -/
def State.restore (s : State) (u k : Nat) (x : Saved) : State :=
  let s := s.freeUpper u x
  let image := (x.tenant.site u 0).2
  let s := x.seqs.zipIdx.foldl (fun s (m, i) =>
    let old := s.seqAt (4 * u + i)
    if m.work.isSome then s.setSeq (4 * u + i) ((m.resumed old (s.workCancelled m)).rehomed image) else s) s
  let s := s.setUpper u { s.upperAt u with
    active := x.active, shadow := x.shadow, gen := x.gen, tenant := x.tenant, since := x.since, preempt := none }
  ({ s with saves := SMap.del s.saves k } : State).leaveIfOver x.part u x.tenant

/-- Every sequencer of an upper is idle. -/
def State.allIdle (s : State) (u : Nat) : Bool := (seqsOf u).all (fun q => (s.seqAt q).mode == .idle)

/-- Rebindings are under way or to come (R337). -/
def Dev.rebinding (d : Dev) : Bool :=
  d.changes.any (fun x => match x with
    | .rebind _ _ => true
    | .resize _ | .removal _ => false)

/-- CONTEXT_RESTORE (R305): save k resumes on the core of upper u, which has the same gang width. A context saved for a
rebinding is restored by that rebinding (R337). -/
def execContextRestore (u k : Nat) (s : State) : Host.Outcome State Fault Refusal :=
  match SMap.find s.saves k, s.coreAt u with
  | some x, some (p, c) =>
    if !x.core || !x.fits u || x.part != p || x.gang != c.width || !s.allIdle u || (x.purpose == .rebinding && s.dev.rebinding) then .next s
    else .next (s.restore u k x)
  | _, _ => .next s

/-! ### Halted sequencers (R290, R291) -/

/-- Copy the shadow registers into the error log, once (R290, R361 kind 4). -/
def State.logDouble (s : State) (q : Nat) : State :=
  let m := s.seqAt q
  match m.shadow with
  | none => s
  | some (a, b) =>
    let u := upperOf q
    let p := s.logPart u
    let s := s.logErr 4 p 1 u false m.trapSeq (a.cause + b.cause * 65536 + q % 4 * 4294967296)
    let s := s.logErr 4 p 1 u true b.addr.toNat b.elem.toNat
    s.setSeq q { m with shadow := none }

/-- DOUBLE_FAULT_RECOVERY (R290): the log entries; then, when the record's commands and tokens have arrived, its end with
cause 0x0F00 and the reset of the sequencer. The result of that end is 0. DESIGN CHOICE, log 78. -/
def execDoubleFaultRecovery (q : Nat) (s : State) : Host.Outcome State Fault Refusal :=
  if (s.seqAt q).mode ≠ .doubleFault then .next s
  else
    let s := s.logDouble q
    if s.endWaits q then .next s else .next (s.endRecord q Cause.doubleFault 0)

/-- HALTED_RECORD_END (R291): the same for `halt`, with cause 0x0F01. -/
def execHaltedRecordEnd (q : Nat) (s : State) : Host.Outcome State Fault Refusal :=
  if (s.seqAt q).mode ≠ .halted then .next s
  else if s.endWaits q then .next s
  else .next (s.endRecord q Cause.halted 0)

/-! ### Check mismatches (R320, R321) -/

/-- The hardware restarts the strip of the current sequencer (R293): no handler, no trap register. Whether such a restart is a trap in
the sense of R86, which would lose the reservation, is open (R320 names R284, R288 and R289); the reservation stays. DESIGN CHOICE,
log 74. -/
def State.restartStrip (s : State) : State :=
  match s.me.strip with
  | none => s
  | some st =>
    let s := s.abandonStrip
    s.setMe { s.me with pc := st.pc, delay := none, owed := none, dist := [], avail := [], replay := true }

/-- The cobbler receives a rebinding around half-sole h, once (R337). -/
def State.toRebind (s : State) (h : Nat) : State :=
  if s.dev.changes.any (fun x => match x with
    | .rebind y _ => y == h
    | .resize _ | .removal _ => false)
  then s
  else { s with dev := { s.dev with changes := s.dev.changes ++ [.rebind h none] } }

/-- The half-sole that holds lane or column n of the pair of upper v, which serves the core of upper u, is marked failing:
logged, and the core is to be rebound (R321, R337). -/
def State.markFailing (s : State) (u v n : Nat) : State :=
  let (a, b) := weltHalves (v / 128) (s.weltAt v)
  let h := if n % 64 < 32 then a else b
  let s := { s with dev := { s.dev with halves := SMap.put s.dev.halves h 1 } }
  ((s.logErr 3 (s.logPart u) 2 (h / 2) false (h % 2) 0).askStop u .rebinding).toRebind h

/-- The checking lane or column of sole j finds a mismatch on the word at PC of the current sequencer. The lowest element of
lane n's group in the share of sole j, and column n of that sole, are number 64 j + n, and n under DET, where a core has the elements
and columns of width 1 (R153, R320, R336; log 17). -/
def State.mismatch (s : State) (j : Nat) (column : Bool) : State :=
  let u := upperOf s.cur
  let v := s.soleUpper u j
  let x := s.posAt v
  let n := if column then x.col else x.lane
  let old := if column then x.colPin else x.lanePin
  let pc : Word := s.me.pc.setWidth 64
  let home := match s.me.strip with
    | some st => st.pc.toNat
    | none => pc.toNat
  let open_ := s.me.strip.isSome
  let s := s.record (fun k => ⟨Config.timeNs s.clock, k, Cause.checkMismatch, s.cur, open_, none, pc, 0,
    BitVec.ofNat 64 (if j < s.gang then 64 * j + n else n), s.widOr0, 0⟩)
  let pin : Option Pin := some ⟨s.cur, pc.toNat, home, old.isSome⟩
  let s := s.setPos v (if column then { x with colPin := pin } else { x with lanePin := pin })
  let s := if old.isSome then s.markFailing u v n else s
  s.restartStrip

/-! ### Rebinding (R337) -/

/-- Upper u's context has been saved for a rebinding. -/
def State.savedFor (s : State) (u : Nat) : Bool :=
  s.saves.any (fun x => x.2.core && x.2.upper == u && x.2.purpose == .rebinding)

/-- The contexts that were saved for a rebinding of some cores are restored onto their uppers. -/
def State.restoreBound (s : State) (us : List Nat) : State :=
  s.saves.foldl (fun s (k, x) =>
    if x.core && x.purpose == .rebinding && us.contains x.upper then s.restore x.upper k x else s) s

/-- The core of upper u belongs to no partition any more: it takes state 3, uppers that lent to it are unbound, and its gang
stands no longer (R337, R338). -/
def State.strike (s : State) (u : Nat) : State :=
  let s := (s.lentTo u).foldl (fun s v => s.setWelt v (bareEntry (if v = u then 3 else 2))) s
  let s : State := { s with parts := s.parts.map (fun x => (x.1, { x.2 with gangs := x.2.gangs.filter (· != u) })) }
  s.writeRepair

/-- No binding exists: the core of upper u is asked to leave its partition, from the time of a request that stands already; once it
has left, it is struck. -/
def State.removeFailed (s : State) (u : Nat) : State :=
  match s.coreAt u with
  | some _ => s.askRemoval u
  | none => (s.strike u).dropChange

/-- The pairs that a chain changes are scrubbed (R251, R337 step 3): their checking positions start anew. What else their soles hold
is written back by the restore of the contexts, whose sole images are those that were saved (R304, R305). -/
def State.scrubBound (s : State) (l : List (Nat × Nat × Nat)) : State := s.clearChecks (l.map (·.1))

/-- One step of the rebinding around half-sole x of upper v, whose turn it is: a chain is chosen, once; the cores whose entries
change are pre-empted; once their contexts are saved, the welt is rebound, the soles are scrubbed, the contexts are restored and the
repair record is written. Without a binding the core is removed. -/
def State.rebindStep (s : State) (v x : Nat) (links : Option (List (Nat × Nat × Nat))) : State :=
  let l := match links with
    | some l => if s.chainStands l then l else s.chainFor v x
    | none => s.chainFor v x
  let s : State := { s with dev := { s.dev with changes := .rebind x (some l) :: s.dev.changes.drop 1 } }
  if l.isEmpty then s.removeFailed (weltLeader (s.weltAt v))
  else
    let us := s.chainCores l
    if us.all s.savedFor then (((s.bindChain l).scrubBound l).restoreBound us).writeRepair.dropChange
    else (us.filter (fun u => !s.savedFor u)).foldl (fun s u => s.askStop u .rebinding) s

/-- WELT_REBIND (R337): a binding around a half-sole that is failing and still bound, when its turn among the changes has come. -/
def execWeltRebind (sole half : Nat) (s : State) : Host.Outcome State Fault Refusal :=
  let x := 2 * sole + half
  let s := if s.halfStatus x = 1 ∧ (s.holderOf x).isSome = true then s.toRebind x else s
  match s.dev.changes with
  | .rebind y links :: _ =>
    if y ≠ x then .next s
    else
      match s.holderOf x with
      | none => .next s.dropChange
      | some v => .next (s.rebindStep v x links)
  | _ => .next s

end Sys2Proof.Machine
end

