-- ==== Sys2Proof/Machine/Cobbler.lean ====
section
/-!
DEFINITION. The cobbler: dumps, attestation, firmware, sensors and throttling, the error log's replies, boot, reset and power
off, fatal errors, power states (R315, R332, R333, R354 to R364).
-/

namespace Sys2Proof.Machine

/-! ### The dump (R364) -/

/-- Sequencers of the device. -/
def allSeqs : Nat := Config.allUppers * Config.seqsPerUpper
/-- Bytes of the error registers: one line for each stack, slice and link (log 14). -/
def errorBytes : Nat := 64 * (4 + 1536 + 22)
/-- Bytes of a sequencer's ring, and of its block up to the vector registers. -/
def ringBytes : Nat := 64 * Config.trapRing
def blockBytes : Nat := 0x1C000

/-- A queued record as R183 lays it out. -/
def Rec.bytes (r : Rec) : List Byte := [r.code, r.frame, r.join, r.wid].flatMap (fun w => bytesOf w.toNat 8)

/-- The queue of one core and level: its on-chip head of 64 records, then the ring's pointers, to the oldest record beyond the head
and behind the youngest (R188; log 14). -/
def Dump.queueBytes (d : Dump) (p : Partition) (c : CoreOf) (lv : Nat) : List Byte :=
  let l := d.queue.filter (fun e => e.place == c.leader && e.level == lv)
  let head := ((l.filter (·.ring.isNone)).take 64).flatMap (fun e => e.work.bytes)
  let ring := p.ringAt c.slot lv
  let used := l.filterMap (·.ring)
  head ++ List.replicate (2048 - head.length) 0 ++ bytesOf (used.head?.getD ring) 8 ++
    bytesOf ((used.getLast?.map (· + 32)).getD ring) 8

/-- Run-queue heads and ring pointers of every partition, by core and level from 3 down. -/
def Dump.queues (d : Dump) : List Byte :=
  d.parts.flatMap (fun p => p.2.cores.flatMap (fun c => [3, 2, 1, 0].flatMap (fun lv => d.queueBytes p.2 c lv)))

/-- The welt map's 512 dwords. -/
def weltBytes (w : SMap Word) : List Byte :=
  (List.range Config.uppers).flatMap (fun u => bytesOf ((SMap.find w u).getD (plainWelt u)).toNat 8)

/-- Where the parts of a dump begin: rings, blocks, queues, welt map, signature. -/
def Dump.ringsAt : Nat := 0x1000 + errorBytes
def Dump.blocksAt : Nat := Dump.ringsAt + allSeqs * ringBytes
def Dump.queuesAt : Nat := Dump.blocksAt + allSeqs * blockBytes
def Dump.weltStart (d : Dump) : Nat := Dump.queuesAt + d.queues.length
def Dump.signStart (d : Dump) : Nat := d.weltStart + 4096
/-- Total length of a dump. -/
def Dump.length (d : Dump) : Nat := d.signStart + 384

/-- A byte of the head of a dump. -/
def Dump.headByte (d : Dump) (k : Nat) : Byte :=
  let w : Nat := match k / 8 with
    | 0 => 1
    | 1 => Config.deviceId.toNat
    | 2 => d.time
    | 3 => d.cause
    | 8 => d.length
    | _ => 0
  BitVec.ofNat 8 (w / 256 ^ (k % 8))

/-- A byte before the signature. -/
def Dump.plainByte (d : Dump) (k : Nat) : Byte :=
  if k < 0x1000 then d.headByte k
  else if k < Dump.ringsAt then Config.errorRegisters (k - 0x1000)
  else if k < Dump.blocksAt then
    let j := k - Dump.ringsAt
    let ring := (((SMap.find d.seqs (j / ringBytes)).getD Seq.reset).ring.flatMap TrapRec.bytes)
    ring.getD (j % ringBytes) 0
  else if k < Dump.queuesAt then
    let j := k - Dump.blocksAt
    let m := (SMap.find d.seqs (j / blockBytes)).getD Seq.reset
    fieldByte (m.blockFields (heldAddress d.rounds m) false) (j % blockBytes)
  else if k < d.weltStart then d.queues.getD (k - Dump.queuesAt) 0
  else (weltBytes d.welt).getD (k - d.weltStart) 0

/-- A byte of a dump; the last 384 are the signature by the device key over all before. -/
def Dump.byte (d : Dump) (k : Nat) : Byte :=
  if k < d.signStart then d.plainByte k
  else BitVec.ofNat 8 ((Config.sign 1 ((List.range d.signStart).map d.plainByte)).toNat / 256 ^ (k - d.signStart))

/-- Status and bytes of a fetch (R364): status 3 beyond the dump's end, or without a dump. -/
def State.dumpReply (s : State) (off len : Nat) : Nat × List Byte :=
  match s.dev.dump with
  | none => (3, [])
  | some d => if d.length < off + len then (3, []) else (0, (List.range len).map (fun k => d.byte (off + k)))

/-! ### Measurements, records and boot (R332, R333, R355, R356) -/

/-- Extend a measurement register with a thing (R356). -/
def extendMeas (m : BitVec 256) (thing : List Byte) : BitVec 256 :=
  sha256Int (bytesOf m.toNat 32 ++ sha256 thing)

/-- Half-sole status bytes of a record (R332). -/
def Repair.statusBytes (r : Repair) : List Byte :=
  (List.range 544).map (fun i =>
    BitVec.ofNat 8 (((SMap.find r.status (2 * i)).getD 0) + 4 * ((SMap.find r.status (2 * i + 1)).getD 0)))

/-- The signed bytes 0x0000 to 0x127F of a record. -/
def Repair.signed (r : Repair) : List Byte :=
  [r.format, r.device.toNat, r.count, r.signer].flatMap (fun v => bytesOf v 8) ++ List.replicate 32 0 ++ r.statusBytes ++
    List.replicate 32 0 ++ weltBytes r.welt

/-- A record's 5 KiB; the signature's bytes are free where the record is not validly signed (log 14). -/
def Repair.bytes (r : Repair) : List Byte := r.signed ++ bytesOf (Config.sign r.signer r.signed).toNat 384

/-- The image of a slot. -/
def Flash.image (f : Flash) (k : Nat) : List Byte := f.slots.toList.getD k []

/-- A slot passes the check of R355 step 1. -/
def Flash.slotOk (f : Flash) (k : Nat) : Bool :=
  Config.imageSigned (f.image k) && f.rollback ≤ Config.imageVersion (f.image k)

/-- A boot reaches ready with an image: its firmware does, and the service image verifies (R355). -/
def reachesReady (image : List Byte) (tries : Nat) : Bool := Config.imageReady image tries && Config.imageSigned Config.serviceImage

/-- The boots of a pending image (R359): it becomes active once it reaches ready; after three failures the ROM reverts. -/
def Flash.tryPending (f : Flash) : Nat → Flash
  | 0 => { f with pending := false, tries := 0 }
  | n + 1 =>
    let k := 1 - f.active
    if f.slotOk k && reachesReady (f.image k) f.tries then
      { f with active := k, pending := false, tries := 0, rollback := max f.rollback (Config.imageVersion (f.image k)) }
    else { f with tries := f.tries + 1 }.tryPending n

/-- The slot that boots, when one passes; and the flash afterwards. -/
def Flash.choose (f : Flash) : Option Nat × Flash :=
  let f := if f.pending then f.tryPending (3 - f.tries) else f
  if f.slotOk f.active then (some f.active, f)
  else if f.slotOk (1 - f.active) then (some (1 - f.active), f)
  else (none, f)

/-- The measurement registers after boot; `updates` is register 4, which only a power-up clears (R355, R356). -/
def bootMeas (image : List Byte) (r : Option Repair) (welt : SMap Word) (updates : BitVec 256) : Vector (BitVec 256) 8 :=
  #v[extendMeas (extendMeas 0 (bytesOf Config.romVersion.toNat 8)) image,
     match r with
     | some r => extendMeas 0 r.bytes
     | none => 0,
     extendMeas 0 (weltBytes welt), extendMeas 0 Config.serviceImage, updates, 0, 0, 0]

/-- Memory that a reset keeps: tier two in self-refresh (R363). -/
def keptCells (m : List Host.Cell) : List Host.Cell := m.filter (fun c => Config.tierTwo ≤ c.1 && c.1 < Config.physEnd)

/-- A device with nothing but its clock, its inputs and outputs, its flash, error log and sensors (R361). -/
def State.bare (s : State) : State :=
  { State.reset with
    clock := s.clock, agenda := s.agenda, cur := s.cur, free := s.free, uid := s.uid
    dev := { Dev.reset with
      flash := s.dev.flash, log := s.dev.log, lost := s.dev.lost, sensors := s.dev.sensors, hot := s.dev.hot
      out := s.dev.out, sent := s.dev.sent, noticed := s.dev.noticed, notices := s.dev.notices
      reports := s.dev.reports } }

/-- What a boot reports: a repair record that is missing to the hosts (R333), then that the device is ready, on both ports; or that
the service image does not verify. -/
def bootReports (record service : Bool) : List (Bool × PortReport) :=
  if service then (if record then [] else [(false, .noRepair)]) ++ [(false, .ready), (true, .ready)] else [(true, .noService)]

/-- Boot (R355): the firmware slot, the measurements, the repair record and the welt; every sequencer reset, every sole and
upper scrubbed; the service image. Without a valid firmware or service image the device stays off its host ports (log 68). -/
def State.boot (s : State) (updates : BitVec 256) : State :=
  let (slot, f) := s.dev.flash.choose
  match slot with
  | none =>
    { s with dev := { s.dev with
        flash := f, running := .unbooted, meas := s.dev.meas.set 4 updates
        reports := s.dev.reports ++ [(true, .noFirmware)] } }
  | some k =>
    let r := f.record
    let welt := (r.map (·.welt)).getD unboundWelt
    let service := Config.imageSigned Config.serviceImage
    { s with
      uppers := (List.range Config.allUppers).map (fun u => (u, { Upper.reset with origin := s.clock }))
      dev := { s.dev with
        flash := f, running := if service then .up else .unbooted, bound := r.isSome, welt := welt
        halves := (r.map (·.status)).getD [], image := f.image k
        meas := bootMeas (f.image k) r welt updates, reports := s.dev.reports ++ bootReports r.isSome service } }

/-- A port's role holds until the next request that sets it (R339); keys do not. -/
def Port.kept (p : Port) : Port := ⟨p.role, none, [], 0⟩

/-- Reset device (R363): tier two, with the dump, stands, and ports keep their roles; everything else starts anew. -/
def State.resetDevice (s : State) : State :=
  let t := s.bare
  { t with
    mem := { Mem.reset with
      cells := keptCells s.mem.cells
      poison := s.mem.poison.filter (fun x =>
        Config.tierTwo ≤ 32 * x && 32 * x < Config.physEnd && !s.mem.returned.contains x)
      tables := s.mem.tables }
    nextTable := s.nextTable, nextPage := s.nextPage
    dev := { t.dev with dump := s.dev.dump, ports := s.dev.ports.map (fun (x : Nat × Port) => (x.1, x.2.kept)) } }.boot (s.dev.meas.get 4)

/-- Power off (R362): all state but flash is lost, the dump included. -/
def State.powerDown (s : State) : State := { s.bare with dev := { s.bare.dev with running := .off } }

/-- POWER_UP (R355): a cold boot of a device that is off. -/
def execPowerUp (s : State) : Host.Outcome State Fault Refusal :=
  if s.dev.running = .off ∨ s.dev.running = .unbooted then .next (s.bare.boot 0) else .next s

/-- POWER_LOSS (R333, R362): all state but flash is lost; a repair record being written is left without a valid signature. -/
def execPowerLoss (writing : Bool) (s : State) : Host.Outcome State Fault Refusal :=
  let t := s.powerDown
  if writing then
    let f := t.dev.flash
    let r := { f.repair.get f.older with valid := false }
    .next { t with dev := { t.dev with flash := { f with repair := f.repair.set f.older.val r f.older.isLt } } }
  else .next t

/-! ### Attestation and firmware (R357 to R359) -/

/-- Half-soles of a status. -/
def State.halfCount (s : State) (st : Nat) : Nat := ((List.range 1088).filter (fun h => s.halfStatus h == st)).length

/-- The report's bytes before the signature. -/
def State.reportBytes (s : State) (nonce : BitVec 256) : List Byte :=
  let f := s.dev.flash
  let head := [1, Config.deviceId.toNat, Config.imageVersion s.dev.image, f.rollback].flatMap (fun v => bytesOf v 8)
  let regs := s.dev.meas.toList.flatMap (fun m => bytesOf m.toNat 32)
  let tail := [Config.timeNs s.clock, s.halfCount 0, s.halfCount 1, s.halfCount 2 + s.halfCount 3].flatMap
    (fun v => bytesOf v 8)
  let l := head ++ bytesOf nonce.toNat 32 ++ regs ++ tail
  l ++ List.replicate (0x180 - l.length) 0

/-- The attestation reply: report, signature, certificate. -/
def State.attestation (s : State) (nonce : BitVec 256) : List Byte :=
  let r := s.reportBytes nonce
  r ++ bytesOf (Config.sign 1 r).toNat 384 ++ Config.certificate

/-- Put a piece of bytes into a list at an offset, with zeros before it where the list is shorter. -/
def patch (l : List Byte) (off : Nat) (piece : List Byte) : List Byte :=
  l.take off ++ List.replicate (off - l.length) 0 ++ piece ++ l.drop (off + piece.length)

/-- Write image (R359): the inactive slot alone, in pieces of up to 1 MiB (R354); status 5 while an activation is under way. -/
def State.writePiece (s : State) (off : Nat) (piece : List Byte) : Nat × State :=
  let f := s.dev.flash
  if 1048576 < piece.length then (3, s)
  else if f.pending then (5, s)
  else
    let k : Fin 2 := if f.active = 0 then 1 else 0
    (0, { s with dev := { s.dev with flash := { f with
      slots := f.slots.set k.val (patch (f.slots.get k) off piece) k.isLt } } })

/-- Activate image (R359): status 3 when the check fails; else the slot is pending, and register 4 measures it (R356). -/
def State.activate (s : State) : Nat × State :=
  let f := s.dev.flash
  let k := 1 - f.active
  if !f.slotOk k then (3, s)
  else
    (0, { s with dev := { s.dev with
      flash := { f with pending := true, tries := 0 }
      meas := s.dev.meas.set 4 (extendMeas (s.dev.meas.get 4) (f.image k)) } })

/-! ### Sensors (R360)

Sensor numbers of the model (log 19): 2 x stack for a sole die and 2 x stack + 1 for an upper die, 8 + stack for tier one,
12 for tier two, 13 for module power, 14 and above for the supply rails. -/

/-- A sensor's reading; 0 for one that has not been read yet (log 19). -/
def State.sensor (s : State) (n : Nat) : Nat := (SMap.find s.dev.sensors n).getD 0

/-- Throttle limits in units of 1/16. -/
def throttleLimit (n : Nat) : Option Nat :=
  if n < 8 then some 1600 else if n < 12 then some 1440 else if n = 12 then some 1360 else if n = 13 then some 38400 else none

/-- Critical limits in units of 1/16. -/
def criticalLimit (n : Nat) : Option Nat :=
  if n < 8 then some 1840 else if n < 12 then some 1680 else if n = 12 then some 1600 else none

/-- A sensor reads above its throttle limit. -/
def State.over (s : State) (n : Nat) : Bool := (throttleLimit n).any (fun l => l < s.sensor n)

/-- Upper u is to be throttled. -/
def State.hotUpper (s : State) (u : Nat) : Bool :=
  let k := u / 128
  s.over (2 * k) || s.over (2 * k + 1) || s.over (8 + k) || s.over 12 || s.over 13

/-- A sensor takes a value; the clock since which it stands above its critical limit. -/
def State.readSensor (s : State) (n v : Nat) : State :=
  let hot := if (criticalLimit n).any (fun l => l < v) then
      (match SMap.find s.dev.hot n with
       | some _ => s.dev.hot
       | none => SMap.put s.dev.hot n s.clock)
    else SMap.del s.dev.hot n
  { s with dev := { s.dev with sensors := SMap.put s.dev.sensors n v, hot := hot } }

/-- THROTTLE (R360): issue is delayed on the uppers concerned. -/
def execThrottle (s : State) : Host.Outcome State Fault Refusal :=
  .next ((s.leaders.filter s.hotUpper).foldl (fun s u => s.setUpper u { s.upperAt u with throttled := true }) s)

/-- The delay may end: module power below 2,400 W, every temperature at least 3 °C below its throttle limit. -/
def State.cooled (s : State) : Bool :=
  s.sensor 13 < 38400 && (List.range 13).all (fun n => (throttleLimit n).all (fun l => s.sensor n + 48 ≤ l))

/-- THROTTLE_RELEASE (R360). -/
def execThrottleRelease (s : State) : Host.Outcome State Fault Refusal :=
  if s.cooled then
    .next { s with uppers := s.uppers.map (fun (u, x) => (u, { x with throttled := false })) }
  else .next s

/-- The bytes of a sensor reply: sensors 0 to 13, then the rails. -/
def State.sensorBytes (s : State) : List Byte :=
  (List.range 14).flatMap (fun n => bytesOf (s.sensor n) 8) ++
    (s.dev.sensors.filter (fun x => 14 ≤ x.1)).flatMap (fun x => bytesOf x.2 8)

/-! ### Corrected errors and the log's replies (R315, R361) -/

/-- A sole of the core of upper u by number, as its sole j holds lane or column n. -/
def State.soleOf (s : State) (u j n : Nat) : Nat := s.soleNumber (s.soleUpper u j) n

/-- Where a byte of a sequencer's block stands (R303): mask and vector registers stand in the sole (R3), element or byte share by
share, the rest in the upper. DESIGN CHOICE, log 19. The truss context stands in the sole (R153): mode, best register and counters
in sole 0, the journal's rows column by column. -/
def State.blockPlace (s : State) (u off : Nat) : Nat × Nat :=
  if 0x2000 ≤ off ∧ off < 0x3000 then
    let n := 8 * (off % 512)
    (2, s.soleOf u (n / 1024) (n % 64))
  else if (0x290 ≤ off ∧ off < 0x2C8) ∨ (0xB000 ≤ off ∧ off < 0xC000) then (2, s.soleOf u 0 0)
  else if 0xC000 ≤ off ∧ off < 0x1C000 then (2, s.soleOf u (off % 1024 / 256) (off % 256 / 4))
  else if 0x1C000 ≤ off then (2, s.soleOf u (off % 4096 / 1024) (off % 1024 / 512 * 32))
  else (1, u)

/-- The column of a byte of a sole image (R154, R158, R304): four bytes a column in a row, a column's bytes in a slot; 0 for the rest. -/
def Sole.columnAt (x : Sole) (off : Nat) : Nat :=
  if 0x100000 ≤ off ∧ off < 0x110000 then off % 256 / 4
  else if 0x111000 ≤ off ∧ off < 0x11B000 then
    let o := off - 0x111000
    o % 10240 / ((x.slots.toList.getD (o / 10240) Slot.reset).share / 64)
  else 0

/-- The leader of the core that upper u's sole works for (R331, R334). -/
def State.soleLeader (s : State) (u : Nat) : Nat := if weltState (s.weltAt u) = 1 then weltLeader (s.weltAt u) else u

/-- Where a corrected error is logged: class and number of the unit that holds the data, and the structure. -/
def State.softPlace (s : State) (x : Soft) : Nat × Nat × Nat :=
  match x with
  | .tierOne pa => (4, pa / Config.stackBytes % 4, 0)
  | .tierTwo _ c => (5, c % 4, 1)
  | .slice pa => (3, sliceOf pa, 2)
  | .pad u loc => (2, s.soleNumber (s.soleUpper u (loc % Config.padSize / 1048576)) (loc / 32 % 32 / 16 * 32), 3)
  | .block q off => ((s.blockPlace (upperOf q) off).1, (s.blockPlace (upperOf q) off).2, 4)
  | .sole u off => (2, s.soleNumber u ((s.soleAt (s.soleLeader u)).columnAt off), 4)
  | .flash _ => (0, 0, 5)

/-- The partition of a corrected error's upper or sole; 0xFF where it belongs to none. -/
def State.softPart (s : State) (x : Soft) : Nat :=
  match x with
  | .pad u _ => s.logPart u
  | .block q _ => s.logPart (upperOf q)
  | .sole u _ => s.logPart (s.soleLeader u)
  | _ => 255

/-- Detail 1: the sector's physical address; for a scratchpad the sector's offset in it (log 19); the offset in its layout. -/
def Soft.detail (x : Soft) : Nat :=
  match x with
  | .tierOne pa => pa / 32 * 32
  | .tierTwo pa _ => pa / 32 * 32
  | .slice pa => pa / 32 * 32
  | .pad _ loc => loc % Config.padSize / 32 * 32
  | .block _ off => off
  | .sole _ off => off
  | .flash off => off

/-- A soft error is corrected (R315): only the log shows it (R361 kind 1). -/
def State.corrected (s : State) (x : Soft) : State :=
  let (cls, num, what) := s.softPlace x
  s.logErr 1 (s.softPart x) cls num false x.detail what

/-- The 32 bytes of an entry. -/
def LogEntry.bytes (e : LogEntry) : List Byte :=
  bytesOf e.time 8 ++
    bytesOf (e.kind + e.part * 256 + e.num * 65536 + e.cls * 2 ^ 28 + (if e.cont then 2 ^ 32 else 0)) 8 ++
    bytesOf e.d1.toNat 8 ++ bytesOf e.d2.toNat 8

/-- Entries from an index on; status 3 beyond the log's end. -/
def State.logReply (s : State) (first count : Nat) : Nat × List Byte :=
  if s.dev.log.length < first + count then (3, []) else (0, ((s.dev.log.drop first).take count).flatMap LogEntry.bytes)

/-! ### Fatal errors (R363) -/

/-- A fatal error: everything stops, the dump is taken, kind 9 is logged. -/
def State.fatal (s : State) (cause cls num : Nat) (detail : Nat) : State :=
  let d : Dump :=
    { time := Config.timeNs s.clock, cause := cause, seqs := s.seqs, parts := s.parts
      queue := s.queue.map (fun e => { e with place := s.placeUpper e.work e.place }), welt := s.dev.welt, rounds := s.rounds }
  let s := s.logErr 9 255 cls num false cause detail
  { s with dev := { s.dev with running := .fatal, dump := some d, fatal := some (cause, BitVec.ofNat 64 detail) } }

/-- The unit that a fatal error of a cause names: link, service core, tier-two controller; or class 0 (R361 kind 9). -/
def fatalPlace (cause cls num : Nat) : Bool :=
  match cause with
  | 1 => (cls == 6 && num ≤ 5) || (cls == 0 && num == 0)
  | 2 => (cls == 1 && 512 ≤ num && num ≤ 519) || (cls == 0 && num == 0)
  | 4 => (cls == 5 && num ≤ 3) || (cls == 0 && num == 0)
  | 5 => cls == 0 && num == 0
  | _ => false

/-- FATAL_ERROR (R363): loss of a link, service-core state, a tier-two controller, the watchdog; a critical temperature has its own
event. Detail 2 is the physical address for cause 2, else 0 (R361). -/
def execFatalError (cause cls num : Nat) (detail : Word) (s : State) : Host.Outcome State Fault Refusal :=
  if (s.dev.running = .up ∨ s.dev.running = .fatal) ∧ fatalPlace cause cls num = true then
    .next (s.fatal cause cls num (if cause = 2 then detail.toNat else 0))
  else .next s

/-- The location of a temperature sensor (R361): class and number. -/
def sensorPlace (n : Nat) : Nat × Nat := if n < 8 then (7, n) else if n < 12 then (4, n - 8) else (5, 0)

/-- CRITICAL_TEMPERATURE (R360, R363): above the critical limit for 1 ms. On a device stopped by a fatal error it is a new one. -/
def execCriticalTemperature (sensor : Nat) (s : State) : Host.Outcome State Fault Refusal :=
  match SMap.find s.dev.hot sensor with
  | none => .next s
  | some t =>
    if s.clock < t + 2250000 ∨ (s.dev.running ≠ .up ∧ s.dev.running ≠ .fatal) then .next s
    else .next (s.fatal 3 (sensorPlace sensor).1 (sensorPlace sensor).2 (s.sensor sensor))

/-- WATCHDOG_EXPIRY (R363). -/
def execWatchdogExpiry (s : State) : Host.Outcome State Fault Refusal :=
  if s.dev.running = .up then .next (s.fatal 5 0 0 0) else .next s

/-! ### Power states (R362) -/

/-- A partition has nothing queued, nothing running and no command outstanding. -/
def State.quiet (s : State) (n : Nat) : Bool :=
  !s.queue.any (fun e => e.work.part == n) && !s.seqs.any (fun x => (x.2.work.map (·.part)) == some n) &&
    !s.cmds.any (fun x => x.2.ctx.part == n)

/-- The state that a tolerance in nanoseconds allows. -/
def powerFor (ns : Nat) : Power :=
  if 500000 ≤ ns then .upperGated else if 20000 ≤ ns then .soleGated else if 1000 ≤ ns then .clockGated else .run

/-- POWER_STATE_ENTRY (R362): time only; the cores pop nothing until a wake event. A stack's tier one refreshes itself when every
upper of the stack is gated or unbound. -/
def execPowerStateEntry (n : Nat) (s : State) : Host.Outcome State Fault Refusal :=
  match SMap.find s.parts n with
  | none => .next s
  | some p =>
    if !s.quiet n then .next s
    else
      .next (p.cores.foldl (fun s c =>
        s.setUpper c.leader { s.upperAt c.leader with power := powerFor p.tolerance }) s).refreshed

/-- WAKE_EVENT (R362). -/
def execWakeEvent (n : Nat) (s : State) : Host.Outcome State Fault Refusal := .next (s.wake n)

end Sys2Proof.Machine
end

