-- ==== Sys2Proof/Machine/Fetch.lean ====
section
/-!
DEFINITION. Fetching the word at PC (R52, R63, R310), the two events of a word that cannot be executed, and placing a
word where the next step fetches it.
-/

namespace Sys2Proof.Machine

/-- The word at PC, or the cause of its fetch fault (R310, R316): a word fetched ahead and not discarded by `ifence`
first (R63; log 13). -/
def State.fetchWord (s : State) : Except Miss Nat :=
  let m := s.me
  match SMap.find m.fetched m.pc.toNat with
  | some w => .ok w.toNat
  | none =>
    match s.checkAccess s.ctx .fetch m.pc.toNat 4 with
    | .error e => .error e
    | .ok loc => if s.poisoned loc then .error ⟨Cause.uncorrectable, none⟩ else .ok (cellsNat s.mem.cells loc 4)

/-- The instruction at PC, when the word there is one. -/
def State.fetchInstr (s : State) : Option Instr :=
  match s.fetchWord with
  | .error _ => none
  | .ok x => match decode (wordBytes x) with
    | .ok (i, _) => some i
    | .error _ => none

/-- A sequencer that runs meets a word that no description assigns: it traps illegal instruction (R22, R54, R60, R61); its wait
count is bits 31-29 of the word (R52, R56). Nothing happens to one that does not fetch (R21), or whose word is an instruction. -/
def execIllegalInstruction (s : State) : Host.Outcome State Fault Refusal :=
  match s.me.mode, s.fetchWord with
  | .running, .ok x =>
    match decodeWord x with
    | .ok _ => .next s
    | .error _ =>
      .next (({ s with clock := max s.clock s.me.ready }.takeTrap (Trap.plain Cause.illegalInstruction)).holdIssue (x / 536870912))
  | _, _ => .next s

/-- The fetching word traps with the cause of its fetch; TRAPADDR is the word's bit address (R310). A fetch from the scratchpad
of a core that is saved waits (R301), and a sequencer that does not run fetches nothing (R21). -/
def execInstructionFetchFault (s : State) : Host.Outcome State Fault Refusal :=
  match s.me.mode, s.fetchWord with
  | .running, .error e =>
    if e.cause = Cause.held then .next { s with waited := true }
    else .next ({ s with clock := max s.clock s.me.ready }.takeTrap (e.trap 0 s.me.pc.toNat))
  | _, _ => .next s

/-! ### Placing a word (for the host; log 6) -/

/-- The partition that holds the upper of sequencer `q`, made when there is none: number 0 with one core of width 1 in
slot 0, a memory key in slot 0, and an empty root table. -/
def State.ensureCore (s : State) : State :=
  match s.coreAt (upperOf s.cur) with
  | some _ => s
  | none =>
    let p : Partition := ⟨[⟨upperOf s.cur, 1, 0⟩], Config.tablePool, none, none, Config.stdHandlerVa,
      (Config.framePoolVa, 0), 0, 0, 0, 1000, [], [], [], [], []⟩
    { s with
      parts := SMap.put s.parts 0 p
      dev := { s.dev with keys := SMap.put s.dev.keys 0 ⟨0, 0, 0⟩ } }

/-- Map the 64 KiB page of a virtual address, readable, writable, executable and open to both modes, as a cached
translation (R311) to the first physical page of the pool. -/
def State.ensureMapped (s : State) (va : Nat) : State :=
  { s with mem := { s.mem with
      tlb := (s.ctx.part, va / 65536, Config.pagePool / 65536, 63, []) :: s.mem.tlb } }

/-- Make the next step fetch and run the word `x` as the current sequencer's next instruction. -/
def State.placeWord (s : State) (x : Nat) : State :=
  let s := { s with agenda := [], waited := false, polled := s.clock, dev := { s.dev with running := .up } }
  let s := s.setMe { s.me with mode := .running, fetched := [] }
  let s := s.ensureCore
  let va := s.me.pc.toNat
  let s := match s.resolve s.ctx .fetch va with
    | .ok _ => s
    | .error _ => s.ensureMapped va
  match s.resolve s.ctx .fetch va with
  | .ok loc => (s.unmarkSector (loc / 32)).setCells (cellsPut s.mem.cells loc 4 x)
  | .error _ => s

end Sys2Proof.Machine
end

