-- ==== Sys2Proof/Machine/Host.lean ====
section
/-!
DEFINITION. The resident service's requests, and the sessions in whose order every request of both ports is served
(R176, R180, R181, R338, R341 to R348, R362, R364).
-/

namespace Sys2Proof.Machine

/-! ### What a request does -/

/-- The longest body: 1 MiB (R342). -/
def bodyLimit : Nat := 1048576

/-- What serving a request answers: a reply (status, body), a reply already sent and only to be kept, or that the request
must wait, with its turn among the changes and the uppers still to leave where it is a resize. -/
inductive Served where
  | reply (status : Nat) (body : List Byte) (s : State)
  | sent (m : Msg) (s : State)
  | later (turn : Option (Nat × Option (List Nat))) (s : State)

/-- A reply without a body. -/
def answer (status : Nat) (s : State) : Served := .reply status [] s

/-- Serve a request that names an existing partition; status 3 where there is none. -/
def State.inPart (s : State) (n : Nat) (act : Partition → Served) : Served :=
  match SMap.find s.parts n with
  | none => answer 3 s
  | some p => act p

/-- Replace a partition. -/
def State.setPart (s : State) (n : Nat) (p : Partition) : State := { s with parts := SMap.put s.parts n p }

/-- A launch is resident in a partition. -/
def State.resident (s : State) (n : Nat) : Bool := s.launches.any (fun x => x.2.part == n)

/-- The highest free key slot, which the service takes for its own pages of a partition (log 10). -/
def State.freeKey (s : State) : Option Nat :=
  (List.range 512).reverse.find? (fun k => (SMap.find s.dev.keys k).isNone)

/-- Put key material into a slot. -/
def State.setKey (s : State) (slot : Nat) (k : KeySlot) : State :=
  { s with dev := { s.dev with keys := SMap.put s.dev.keys slot k } }

/-- Permission bits of a leaf from bit 0: V, L, R, W, X, U (R308). -/
def permBits (r w x u : Bool) : Nat :=
  3 + (if r then 4 else 0) + (if w then 8 else 0) + (if x then 16 else 0) + (if u then 32 else 0)

/-- The ranges that the service maps at creation: frame pool, queue area, standard handler (R188, R209, R346). -/
def serviceRanges (b : CreateBody) (key : Nat) : List MapRange :=
  let pool := alignUp (b.framePool / 64 * 64) 65536
  let queue := alignUp (32 * 4 * b.queueSlots * b.uppers) 65536
  [⟨Config.framePoolVa, pool, 0, key, permBits true true false true, true⟩,
   ⟨Config.framePoolVa + pool, queue, 0, key, permBits false false false false, true⟩,
   ⟨Config.stdHandlerVa, 65536, 0, key, permBits true false true false, true⟩].filter (fun r => r.size != 0)

/-- Map ranges in order; none when memory runs out. -/
def State.mapRanges (s : State) (n : Nat) : List MapRange → Option State
  | [] => some s
  | r :: t =>
    match s.mapRange n r with
    | none => none
    | some (_, s) => s.mapRanges n t

/-- CREATE_PARTITION's body is well formed (R334, R245, R342). The frame pool ends below the handler's page. -/
def createOk (b : CreateBody) : Bool :=
  b.number < 16 && (b.gang == 1 || b.gang == 2 || b.gang == 4) && b.share ≤ 8 && b.uppers != 0 && b.uppers % b.gang == 0 &&
    Config.framePoolVa + alignUp b.framePool 65536 + alignUp (32 * 4 * b.queueSlots * b.uppers) 65536 ≤ Config.stdHandlerVa

/-- The lowest slot number that no core of a partition holds (R338). -/
def Partition.freeSlot (p : Partition) : Nat :=
  ((List.range 512).find? (fun k => !p.cores.any (fun c => c.slot == k))).getD 512

/-- Insert a core by its leader. -/
def coreInsert (l : List CoreOf) (c : CoreOf) : List CoreOf :=
  match l with
  | [] => [c]
  | x :: t => if c.leader < x.leader then c :: x :: t else x :: coreInsert t c

/-- The core of width g led by u enters partition n, cleared (R251, R338). -/
def State.joinCore (s : State) (n g u : Nat) (gang : Bool) : State :=
  match SMap.find s.parts n with
  | none => s
  | some p =>
    (s.setPart n { p with
      cores := coreInsert p.cores ⟨u, g, p.freeSlot⟩
      gangs := if gang then p.gangs ++ [u] else p.gangs }).enterCore u

/-- One more core of width g for partition n: a gang that it has left behind, or the lowest that can be formed (R334; log 10). -/
def State.addCore (s : State) (n g : Nat) : Option State :=
  match SMap.find s.parts n with
  | none => none
  | some p =>
    match (if g = 1 then none else s.leftGang p g) with
    | some u => some (s.joinCore n g u false)
    | none =>
      match s.lowestCore g 0 Config.uppers with
      | none => none
      | some (u, t) => some (t.joinCore n g u (g != 1))

/-- More cores of width g, when that many are to be had. -/
def State.addCores (s : State) (n g : Nat) : Nat → Option State
  | 0 => some s
  | k + 1 =>
    match s.addCore n g with
    | none => none
    | some s => s.addCores n g k

/-- At creation a core's slot number is its position in ring order (R242). -/
def State.numberSlots (s : State) (n : Nat) : State :=
  match SMap.find s.parts n with
  | none => s
  | some p => s.setPart n { p with cores := p.cores.zipIdx.map (fun x => { x.1 with slot := x.2 }) }

/-- Create a partition (R343): cores cleared, pool, queue area and handler mapped; the reply carries the sizes granted, the
pool's address and the handler's. It waits for changes that were received before (R337). -/
def State.actCreate (s : State) (b : CreateBody) : Served :=
  if !createOk b then answer 3 s
  else if (SMap.find s.parts b.number).isSome then answer 5 s
  else if !s.dev.changes.isEmpty then .later none s
  else
    match s.freeKey with
    | none => answer 4 s
    | some key =>
      let (root, t) := (s.setKey key ⟨b.number, 0, 0⟩).newTable 2097152
      let p : Partition :=
        { cores := [], root := root, ptab := none, handler := none, stdVa := Config.stdHandlerVa
          pool := (Config.framePoolVa, b.framePool / 64 * 64), slotsPerUpper := b.queueSlots, area := b.frameArea
          share := b.share, tolerance := 1000, maps := [], groups := [], gangs := [], saveAreas := [], frames := [] }
      match (t.setPart b.number p).addCores b.number b.gang (b.uppers / b.gang) with
      | none => answer 4 s
      | some t =>
        match (t.numberSlots b.number).mapRanges b.number (serviceRanges b key) with
        | none => answer 4 s
        | some t =>
          if !t.tablesFit then answer 4 s
          else
            .reply 0 ([b.uppers, b.framePool / 64 * 64, b.queueSlots, Config.framePoolVa, Config.stdHandlerVa].flatMap
              (fun v => bytesOf v 8)) t

/-- The outstanding collectives of a launch, one member of each. -/
def State.collsOf (s : State) (k : Nat) : List (Nat × Plan) :=
  s.cmds.foldl (fun l (_, c) =>
    match c.kind with
    | .coll p =>
      if c.launch = k && !l.any (fun y => y.1 == c.ctx.part && y.2.group == p.group && y.2.ident == p.ident) then
        l ++ [(c.ctx.part, p)]
      else l
    | _ => l) []

/-- Cancel the root of every nest of a launch, and its outstanding collectives with status 10 (R181, R217, R352); a peer that has
received marked data of one is told (R318). -/
def State.cancelLaunch (s : State) (k : Nat) : State :=
  match SMap.find s.launches k with
  | none => s
  | some l =>
    if l.cancelled then s
    else
      let s := { s with launches := SMap.put s.launches k { l with cancelled := true } }
      let s := (s.collsOf k).foldl (fun s x => s.tellPlan x.1 x.2) s
      let s := s.cmds.foldl (fun s (id, c) =>
        match c.kind with
        | .coll _ => if c.launch = k then s.endCommand id c 10 0 else s
        | _ => s) s
      let roots := s.nests.filter (fun x => x.2.launch == k && x.2.token == .memory k)
      roots.foldl (fun s x =>
        let (s, more) := s.cancelNode x.1 0
        s.doActs more) s

/-- Drop what a partition held: contexts, queue entries, translations. -/
def State.dropPart (s : State) (n : Nat) : State :=
  { s with
    parts := SMap.del s.parts n
    saves := s.saves.filter (fun x => x.2.part != n)
    queue := s.queue.filter (fun e => e.work.part != n)
    yields := s.yields.filter (fun y => y.work.part != n)
    mem := { s.mem with tlb := s.mem.tlb.filter (fun e => e.1 != n) }
    dev := { s.dev with keys := s.dev.keys.filter (fun k => k.2.part != n) } }

/-- Destroy a partition (R343): its launches are cancelled first; when none is left, pages are unmapped, keys zeroed, cores freed
and its gangs dissolved (R334). -/
def State.actDestroy (s : State) (n : Nat) : Served :=
  s.inPart n (fun p =>
    let s := (s.launches.filter (fun x => x.2.part == n)).foldl (fun s x => s.cancelLaunch x.1) s
    if s.resident n || !s.dev.changes.isEmpty then .later none s
    else
      let s := p.cores.foldl (fun s c => s.enterCore c.leader) s
      answer 0 (p.gangs.foldl State.dissolve (s.dropPart n)))

/-- The last cores of a list that hold n uppers together; none when no number of whole cores does. -/
def lastCores (l : List CoreOf) (n : Nat) : Option (List Nat) :=
  match l, n with
  | _, 0 => some []
  | [], _ => none
  | c :: t, n => if n < c.width then none else (lastCores t (n - c.width)).map (c.leader :: ·)

/-- Ask every upper of a list that still leads a core of partition n to leave it. -/
def State.askLeave (s : State) (us : List Nat) : State :=
  us.foldl (fun s u => if (s.coreAt u).isSome then s.askStop u .resize else s) s

/-- Addresses that an engine command works with, as spans; an expansion's stream begins at a bit address, and a tile takes 1,280 bits of it at
most (R276). -/
def Command.spans (c : Command) : List (Nat × Nat) :=
  let own : List (Nat × Nat) := match c.kind with
    | .copy src => [(src, c.len)]
    | .fill _ => []
    | .expand src _ _ _ _ _ _ _ _ => [(src / 8, 160 * ((c.len + 255) / 256) + 10)]
    | .query grid ans => [(grid, 64), (ans, 16)]
    | .gridDecl grid _ => [(grid, 64)]
    | .coll p => [(p.src, p.width * p.count), (p.dst, p.width * p.count), (p.res, 8 * p.count)]
    | .note _ => []
  (c.dst, c.len) :: (c.bar, 16) :: own

/-- Two ranges meet. -/
def meets (a n b m : Nat) : Bool := a < b + m && b < a + n

/-- An access to slot k of partition n is under way that has yet to perform on the core that left it, or to trap (R242). -/
def State.slotBusy (s : State) (n k : Nat) : Bool :=
  let hit (a : Nat × Nat) : Bool := meets a.1 a.2 (slotAddress k 0) 4194304
  s.cmds.any (fun x => x.2.ctx.part == n && x.2.ctx.det.isNone && x.2.spans.any hit) ||
    s.rounds.any (fun x => x.2.ctx.part == n && x.2.ctx.det.isNone && (hit (x.2.base, x.2.size) || hit (x.2.va, 64)))

/-- The slot numbers that the next k cores of a partition receive. -/
def Partition.nextSlots (p : Partition) (k : Nat) : List Nat :=
  ((List.range 512).filter (fun j => !p.cores.any (fun c => c.slot == j))).take k

/-- The width of a partition's widest core. -/
def Partition.width (p : Partition) : Nat := p.cores.foldl (fun w c => max w c.width) 1

/-- Add n uppers to a partition: cores of its widest width, then of width 2, then of width 1, as many as are whole (R334; log 10). -/
def State.addUppers (s : State) (n g k : Nat) : Option State :=
  let two := if g = 1 then 0 else k % g / 2
  match s.addCores n g (k / g) with
  | none => none
  | some s =>
    match s.addCores n 2 two with
    | none => none
    | some s => s.addCores n 1 (k % g - 2 * two)

/-- A resize begins when its turn among the changes has come (R337): cores join at once, unless a slot number is still in use;
leaving cores are asked to leave. -/
def State.startResize (s : State) (n : Nat) (delta : Int) (id : Nat) : Served :=
  match SMap.find s.parts n with
  | none => answer 3 s.dropChange
  | some p =>
    if 0 < delta then
      if (p.nextSlots delta.toNat).any (s.slotBusy n) then .later (some (id, none)) s
      else
        match s.addUppers n p.width delta.toNat with
        | none => answer 4 s.dropChange
        | some t => answer 0 t.dropChange
    else
      match lastCores p.cores.reverse delta.natAbs with
      | none => answer 3 s.dropChange
      | some us => .later (some (id, some us)) (s.askLeave us)

/-- A resize is first among the changes. -/
def Dev.resizing (d : Dev) (id : Nat) : Bool :=
  match d.changes with
  | .resize k :: _ => k == id
  | _ => false

/-- Resize (R338): it takes its place among the changes, begins when its turn has come, and is over when the last leaving core has
left. -/
def State.actResize (s : State) (n : Nat) (delta : Int) (turn : Option (Nat × Option (List Nat))) : Served :=
  match turn with
  | some (id, some us) =>
    let us := us.filter (fun u => ((s.coreAt u).map (·.1)) == some n)
    if us.isEmpty then answer 0 s.dropChange else .later (some (id, some us)) (s.askLeave us)
  | some (id, none) => if s.dev.resizing id then s.startResize n delta id else .later (some (id, none)) s
  | none =>
    s.inPart n (fun _ =>
      if delta = 0 then answer 3 s
      else
        let (id, s) := s.fresh
        let s : State := { s with dev := { s.dev with changes := s.dev.changes ++ [.resize id] } }
        if s.dev.resizing id then s.startResize n delta id else .later (some (id, none)) s)

/-! ### Keys (R341) -/

/-- Install keys at a port: the first becomes the key in use when there is none. -/
def Port.install (p : Port) (ks : List (BitVec 256)) : Port :=
  match p.key, ks with
  | none, k :: t => { p with key := some k, next := p.next ++ t, pn := 0 }
  | _, ks => { p with next := p.next ++ ks }

/-- A port that no request has set up: role 0, no key (log 18). -/
def Port.initial : Port := ⟨0, none, [], 0⟩

/-- A page of a partition names a key slot. -/
def Partition.usesKey (p : Partition) (slot : Nat) : Bool := p.maps.any (fun r => r.key == slot)

/-- Install key: a memory slot, or both link keys of port `slot` − 0xFFFF. -/
def State.actInstall (s : State) (n slot : Nat) (k1 k2 : BitVec 256) : Served :=
  if 0xFFFF ≤ slot ∧ slot < 0xFFFF + 16 then
    let port := slot - 0xFFFF
    let p := (SMap.find s.dev.ports port).getD Port.initial
    answer 0 { s with dev := { s.dev with ports := SMap.put s.dev.ports port (p.install [k1, k2]) } }
  else if 512 ≤ slot then answer 3 s
  else
    s.inPart n (fun p =>
      match SMap.find s.dev.keys slot with
      | none => answer 0 (s.setKey slot ⟨n, k1, k2⟩)
      | some k => if k.part ≠ n ∨ p.usesKey slot = true then answer 5 s else answer 0 (s.setKey slot ⟨n, k1, k2⟩))

/-- Release key: refused while a page names the slot. -/
def State.actRelease (s : State) (n slot : Nat) : Served :=
  if 512 ≤ slot then answer 3 s
  else
    s.inPart n (fun p =>
      match SMap.find s.dev.keys slot with
      | none => answer 3 s
      | some k =>
        if k.part ≠ n ∨ p.usesKey slot = true then answer 5 s
        else answer 0 { s with dev := { s.dev with keys := SMap.del s.dev.keys slot } })

/-! ### Pattern table and handler (R346) -/

/-- Set pattern table. -/
def State.actPattern (s : State) (n : Nat) (a : Word) : Served :=
  s.inPart n (fun p =>
    if 2 ^ 57 ≤ a.toNat ∨ a.toNat % 64 ≠ 0 then answer 3 s
    else if s.resident n then answer 5 s
    else answer 0 (s.setPart n { p with ptab := some a }))

/-- Set handler; 0 selects the standard handler. -/
def State.actHandler (s : State) (n : Nat) (a : Word) : Served :=
  s.inPart n (fun p =>
    if 2 ^ 57 ≤ a.toNat ∨ a.toNat % 4 ≠ 0 then answer 3 s
    else if s.resident n then answer 5 s
    else answer 0 (s.setPart n { p with handler := if a = 0 then none else some a }))

/-! ### Mapping and copies (R251, R311, R343) -/

/-- The level of a page size code (R307). -/
def pageLevel (code : Nat) : Nat := code

/-- A map request's fields (R307, R308, R346). -/
def mapOk (b : MapBody) (p : Partition) (keys : SMap KeySlot) (n : Nat) : Bool :=
  b.page ≤ 2 && b.size != 0 && b.addr % levelPage (pageLevel b.page) == 0 && b.size % levelPage (pageLevel b.page) == 0 &&
    b.addr + b.size ≤ Config.globalWindow && !p.maps.any (fun r => meets r.va r.size b.addr b.size) &&
    ((SMap.find keys b.key).map (·.part)) == some n && (b.data.map List.length).getD 0 ≤ b.size

/-- Write a list of bytes at a location. -/
def State.pokeBytes (s : State) (loc : Nat) (l : List Byte) : State := s.poke loc l.length (leNat l)

/-- Map (R251): fresh pages, which read 0, or the source data. -/
def State.actMap (s : State) (n : Nat) (b : MapBody) : Served :=
  s.inPart n (fun p =>
    if !mapOk b p s.dev.keys n then answer 3 s
    else
      match s.mapRange n ⟨b.addr, b.size, pageLevel b.page, b.key, permBits b.r b.w b.x b.u, false⟩ with
      | none => answer 4 s
      | some (pa, s) => answer 0 (s.pokeBytes pa (b.data.getD [])))

/-- What is left of a mapped range without the bytes from a to e. -/
def MapRange.cut (r : MapRange) (a e : Nat) : List MapRange :=
  [{ r with size := a - r.va }, { r with va := e, size := r.va + r.size - e }].filter (fun x => x.size != 0)

/-- Words that the sequencers of a partition have fetched from addresses lo to hi are void (R251). -/
def State.dropFetched (s : State) (part lo hi : Nat) : State :=
  { s with seqs := s.seqs.map (fun x =>
      (x.1, if ((s.coreAt (upperOf x.1)).map (·.1)) = some part then
        { x.2 with fetched := x.2.fetched.filter (fun w => !(lo ≤ w.1 && w.1 < hi)) } else x.2)) }

/-- What the sequencers of a partition have written is visible, and no load of theirs is performed ahead or may be performed later: what
an address names is about to change. -/
def State.settlePart (s : State) (part : Nat) : State :=
  s.seqs.foldl (fun s x =>
    if ((s.coreAt (upperOf x.1)).map (·.1)) = some part then
      let s := s.drainSeq x.1
      s.setSeq x.1 { s.seqAt x.1 with early := [], late := [] }
    else s) s

/-- Unmap one range's share of the bytes from a to a + n. -/
def State.unmapRange (s : State) (part root : Nat) (r : MapRange) (a n : Nat) : State :=
  let lo := max r.va a
  let hi := min (r.va + r.size) (a + n)
  ((s.clearLeaves root lo r.page ((hi - lo) / levelPage r.page)).dropCached part lo (hi - lo)).dropFetched part lo hi

/-- Unmap (R251): whole pages of ranges that the host mapped. -/
def State.actUnmap (s : State) (n a len : Nat) : Served :=
  s.inPart n (fun p =>
    let hit := p.maps.filter (fun r => meets r.va r.size a len)
    if len = 0 ∨ hit.isEmpty = true ∨ hit.any (fun r => r.service || max r.va a % levelPage r.page != 0 ||
      min (r.va + r.size) (a + len) % levelPage r.page != 0) = true then answer 3 s
    else
      let s := hit.foldl (fun s r => s.unmapRange n p.root r a len) (s.settlePart n)
      let maps := p.maps.flatMap (fun r =>
        if meets r.va r.size a len then r.cut (max r.va a) (min (r.va + r.size) (a + len)) else [r])
      answer 0 (s.setPart n { p with maps := maps }))

/-- The service's own accesses to a partition's memory: translated, without a local window. -/
def serviceCtx (n : Nat) : Ctx := ⟨n, true, 0, 0, none⟩

/-- Accesses of the service to some of n bytes from an address are held: a core is saved (R301). -/
def State.spanHeld (s : State) (n a len : Nat) : Bool :=
  !s.saves.isEmpty && (List.range 512).any (fun k => meets a len (slotAddress k 0) 4194304 && s.slotHeld (serviceCtx n) k)

/-- Write bytes for the host sector by sector, so that a sector covered whole loses its mark (R315): the state so far, and whether
every address could be reached. A walk that reads a poisoned table page leaves a negative entry (R312). -/
def State.copySectors (s : State) (n va : Nat) (l : List Byte) : Nat → State × Bool
  | 0 => (s, true)
  | k + 1 =>
    if l.isEmpty then (s, true)
    else
      let w := 32 - va % 32
      match s.resolve (serviceCtx n) .hw va with
      | .error e => (s.negate e.page, false)
      | .ok loc =>
        let s := (bufNat [] va loc (l.take w).length (leNat (l.take w))).foldl
          (fun s (sec, e) => s.writeSector otherParty sec e.en e.data) s
        s.copySectors n (va + w) (l.drop w) k

/-- Write bytes for the host (R343). -/
def State.copyIn (s : State) (n va : Nat) (l : List Byte) : State × Bool := s.copySectors n va l (l.length / 32 + 2)

/-- Read bytes for the host; when an address faults or the data are poisoned, the state with what the walk leaves. -/
def State.copyOut (s : State) (n va : Nat) : Nat → Except State (List Byte)
  | 0 => .ok []
  | k + 1 =>
    match s.resolve (serviceCtx n) .hw va with
    | .error e => .error (s.negate e.page)
    | .ok loc =>
      if s.poisoned loc then .error s
      else
        match s.copyOut n (va + 1) k with
        | .error e => .error e
        | .ok l => .ok (s.byte loc :: l)

/-- Copy (R343): status 6 on an address fault. -/
def State.actCopy (s : State) (n a len : Nat) (data : Option (List Byte)) : Served :=
  s.inPart n (fun _ =>
    if s.spanHeld n a len then .later none s
    else
      match data with
      | some l =>
        if l.length ≠ len then answer 3 s
        else
          let (s, ok) := s.copyIn n a l
          answer (if ok then 0 else 6) s
      | none =>
        if bodyLimit < len then answer 3 s
        else
          match s.copyOut n a len with
          | .error s => answer 6 s
          | .ok l => .reply 0 l s)

/-- Signal (R345): a store of 64 bits. -/
def State.actSignal (s : State) (n : Nat) (a v : Word) : Served :=
  s.inPart n (fun _ =>
    if a.toNat % 8 ≠ 0 then answer 3 s
    else if s.heldAt (serviceCtx n) a.toNat then .later none s
    else
      match s.resolve (serviceCtx n) .store a.toNat with
      | .error e => answer 3 (s.negate e.page)
      | .ok loc =>
        answer 0 ((bufNat [] a.toNat loc 8 v.toNat).foldl (fun s (sec, e) => s.writeSector otherParty sec e.en e.data) s))

/-! ### Launches (R180, R181, R204) -/

/-- The field widths of dword 1. -/
def headerWidths (v : Nat) : List Nat := (List.range 6).map (fun k => v / 2 ^ (7 * k) % 128)

/-- The widths keep R178. -/
def widthsOk (ws : List Nat) : Bool :=
  ws.all (· ≤ 64) && (ws.drop (fieldsUsed ws)).all (· == 0) && ws.foldl (· + ·) 0 ≤ 64

/-- The token dword keeps R180 step 1, its translation apart. -/
def tokenOk (v : Nat) : Bool := v < 2 ^ 57 && v % 8 == 0

/-- The offset of the first dword of a header that fails (R180). -/
def headerFault (h : Nat) : Option Nat :=
  let c := dword h 0
  let det := c % 2
  if 2 ^ 28 ≤ c ∨ c / 32 % 2048 ≠ 0 ∨ c / 2 % 4 = 3 then some 0
  else if 2 ^ 42 ≤ dword h 1 ∨ widthsOk (headerWidths (dword h 1)) = false then some 8
  else if 2 ^ 13 ≤ dword h 2 ∨ (det = 1 ∧ (dword h 2 = 0 ∨ 4096 < dword h 2)) ∨ (det = 0 ∧ dword h 2 ≠ 0) then some 0x10
  else if 2 ^ 57 ≤ dword h 3 ∨ dword h 3 % 64 ≠ 0 then some 0x18
  else if tokenOk (dword h 4) = false then some 0x20
  else if 2 ^ 16 ≤ dword h 5 then some 0x28
  else if 2 ^ 32 ≤ dword h 6 ∨ (det = 0 ∧ dword h 6 ≠ 0) then some 0x30
  else if dword h 7 ≠ 0 then some 0x38
  else none

/-- The launch of an accepted header, before its frame areas and remap table. -/
def launchOfHeader (h part : Nat) (hdr : Hdr) : Launch :=
  let c := dword h 0
  let aging := dword h 5
  { part := part, det := c % 2 == 1, gang := 2 ^ (c / 2 % 4), widths := headerWidths (dword h 1), grid := dword h 2
    prio := c / 8 % 4, token := dword h 4, theta := 1024 * (if aging = 0 then Config.agingDefault else aging)
    frame := BitVec.ofNat 64 (dword h 3), areas := [], remap := [], sums := [], streams := [], cancelled := false
    final := none, hdr := hdr }

/-- Carve n frame areas of a size first-fit from the pool; none when the pool is short (R209). -/
def carveAreas (taken : List (Nat × Nat)) (lo hi size : Nat) : Nat → Option (List (Nat × Nat))
  | 0 => some []
  | n + 1 =>
    match firstFit taken lo hi size with
    | none => none
    | some a => (carveAreas (spanInsert taken (a, a + size)) lo hi size n).map ((a, size) :: ·)

/-- The remap table of a launch: its logical cores in turn over the cores of its gang width (R195). -/
def remapTable (us : List Nat) (grid : Nat) : List Nat :=
  (List.range grid).map (fun k => us.getD (k % max us.length 1) Config.allUppers)

/-- The root's issuer for a host launch (R189, R204, R246). -/
def State.hostIssuer (p : Partition) (k n root : Nat) (l : Launch) : Issuer :=
  let us := (p.coresOf l.gang).map (·.leader)
  let low := us.foldl min Config.allUppers
  let first := (p.coresOf l.gang).foldl (fun (best : Option CoreOf) c =>
    match best with
    | none => some c
    | some b => if c.slot < b.slot then some c else some b) none
  let ctx : Ctx := ⟨n, true, 0, 0, if l.det then some (k, l.grid) else none⟩
  { walk := ⟨ctx, ((p.ptab.map BitVec.toNat).getD 0), l.widths, l.det, l.gang⟩, part := n, launch := k, root := root
    args := l.frame, depth := 0, wid := 0, level := l.prio, token := .memory k, upper := low
    core := if l.det then some 0 else none
    image := if l.det then logicalImage k 0 else (first.map (·.leader)).getD 0
    slot := if l.det then 0 else (first.map (·.slot)).getD 0 }

/-- A launch ends before its root started: the token's final value, then the completion message. -/
def State.failLaunch (s : State) (k : Nat) (v : Word) : State :=
  (s.finalToken 0 k v).settle k

/-- Apply the root pattern of an accepted launch (R204). A missing page that the service can map is mapped, and the walk starts
again; none where a read of the walk is held by the save of a core (R301). -/
def State.applyRoot (s : State) (p : Partition) (k n root : Nat) : Nat → Option State
  | 0 => none
  | fuel + 1 =>
    let q := State.hostIssuer p k n root (s.launchAt k)
    match s.makeNest q with
    | .ok (x, s) => some (s.doActs [(.start x 0 q.level, q.upper)])
    | .error (.node r i) => some (s.failLaunch k (refusalWord r i))
    | .error (.fault t) =>
      if t.cause = Cause.held then none
      else
        match (if t.cause = Cause.pageNotPresent then s.mapMissing n (t.addr / 8) else none) with
        | some s => s.applyRoot p k n root fuel
        | none => some ((s.negate t.page).failLaunch k (tokenWord 4 t.cause))

/-- Frame areas and remap table of a deterministic launch (R195, R209). Where the free pool cannot hold the areas the launch has
none, and its root is refused with reason 6 once its nodes have passed (R207). -/
def State.fitLaunch (s : State) (p : Partition) (n area : Nat) (l : Launch) : Launch :=
  if !l.det then l
  else
    let size := 64 * (if area = 0 then p.area else area)
    { l with
      areas := (carveAreas (s.poolTaken n) p.pool.1 (p.pool.1 + p.pool.2) size l.grid).getD []
      remap := remapTable ((p.coresOf l.gang).map (·.leader)) l.grid }

/-- The reply to a request, as a message. -/
def replyTo (h : Hdr) (type status : Nat) (body : List Byte) : Msg :=
  ⟨h.mgmt, h.ep, type, status, h.sess, h.seq, h.tag, h.part.val, body⟩

/-- Send a message that stands ready. -/
def State.post (s : State) (m : Msg) : State := { s with dev := { s.dev with out := s.dev.out ++ [m] } }

/-- Accept a launch (R180 step 3): the token is pending and the reply sent; then the root is applied. A launch whose walk is held
by the save of a core is accepted once it is held no longer (log 66). -/
def State.acceptLaunch (s : State) (h : Hdr) (p : Partition) (v : Nat) : Served :=
  let n := h.part.val
  let l := launchOfHeader v n h
  let root := dword v 0 / 65536 % 4096
  let (k, t) := s.fresh
  let m := replyTo h 0x20 1 []
  let t := (t.putToken 0 n l.token 0).post m
  let l := t.fitLaunch p n (dword v 6) l
  match (({ t with launches := SMap.put t.launches k l } : State).startImages k l.remap).applyRoot p k n root 4098 with
  | none => .later none s
  | some t => .sent m t

/-- Launch (R180, R346). Header and token may lie in a global slot of the partition (R240), and wait while that core is saved
(R301). The token is one that the partition's unprivileged stores could write: the manual names no privilege. DESIGN CHOICE,
log 66. -/
def State.actLaunch (s : State) (h : Hdr) (addr : Word) : Served :=
  let n := h.part.val
  s.inPart n (fun p =>
    if p.ptab.isNone then answer 5 s
    else if s.heldAt (serviceCtx n) addr.toNat then .later none s
    else
      match s.slotLoc n addr.toNat 64 with
      | .error e => answer 3 (s.negate e.page)
      | .ok loc =>
        let v := cellsNat s.mem.cells loc 64
        let tok := dword v 4
        if s.anyMarked loc 64 then answer 3 s
        else if s.heldAt (serviceCtx n) tok then .later none s
        else if !tokenOk tok then answer 3 s
        else
          match s.resolve ⟨n, false, 0, 0, none⟩ .store tok with
          | .error e => answer 3 (s.negate e.page)
          | .ok _ =>
            match headerFault v with
            | some off => answer 3 (s.putToken 0 n tok (tokenWord 2 off))
            | none => s.acceptLaunch h p v)

/-- Cancel (R343): the launch whose token stands at an address. -/
def State.actCancel (s : State) (n : Nat) (tok : Word) : Served :=
  s.inPart n (fun _ =>
    match s.launches.find? (fun x => x.2.part == n && x.2.token == tok.toNat) with
    | none => answer 3 s
    | some (k, _) => answer 0 (s.cancelLaunch k))

/-! ### Tolerance, groups, ports, logs -/

/-- Latency tolerance (R362). -/
def State.actTolerance (s : State) (n : Nat) (ns : Word) : Served :=
  s.inPart n (fun p => answer 0 (s.setPart n { p with tolerance := ns.toNat }))

/-- Collectives of a partition's group are outstanding. -/
def State.groupBusy (s : State) (n g : Nat) : Bool :=
  s.cmds.any (fun x => x.2.ctx.part == n && (match x.2.kind with
    | .coll p => p.group == g
    | _ => false))

/-- Register group (R348); a group that collectives use is not replaced. -/
def State.actGroup (s : State) (n : Nat) (g : GroupBody) : Served :=
  s.inPart n (fun p =>
    let ok (k : Nat) : Bool := 1 ≤ k && k ≤ 65535
    if 64 ≤ g.num ∨ !(ok g.n0 && ok g.n1 && ok g.n2) ∨ g.map.length ≠ g.size ∨ g.map.any (fun x => 1024 ≤ x.1) = true then
      answer 3 s
    else if s.groupBusy n g.num then answer 5 s
    else answer 0 (s.setPart n { p with groups := p.groups.filter (fun x => x.num != g.num) ++ [g] }))

/-- A collective uses the ports of a role: level 1 the scale-up ports, level 2 the long-haul ports (R339). -/
def State.roleBusy (s : State) (role : Nat) : Bool :=
  s.cmds.any (fun x => match x.2.kind with
    | .coll p =>
      (match s.groupOf x.2.ctx.part p.group with
       | some g => (role == 1 && g.n1 != 1) || (role == 2 && g.n2 != 1)
       | none => false)
    | _ => false)

/-- Configure port (R339): a change of role waits until no collective uses the port. -/
def State.actPort (s : State) (port role : Nat) : Served :=
  if 16 ≤ port ∨ 4 ≤ role then answer 3 s
  else
    let p := (SMap.find s.dev.ports port).getD Port.initial
    if p.role ≠ role ∧ s.roleBusy p.role = true then .later none s
    else answer 0 { s with dev := { s.dev with ports := SMap.put s.dev.ports port { p with role := role } } }

/-- The newest records of a sequencer's ring, oldest first (R285, R343). -/
def State.actTrapLog (s : State) (q count : Nat) : Served :=
  if Config.allUppers * Config.seqsPerUpper ≤ q then answer 3 s
  else
    let ring := (s.seqAt q).ring
    .reply 0 ((ring.drop (ring.length - count)).flatMap TrapRec.bytes) s

/-! ### Serving (R345, R347, R354) -/

/-- The type of a request (R343, R354); an unknown one has none of these, and its reply carries 0. -/
def reqType (i : Req) : Nat :=
  match i with
  | .createPartition _ => 0x01
  | .destroyPartition _ => 0x02
  | .resize _ _ => 0x03
  | .installKey _ _ _ => 0x04
  | .releaseKey _ => 0x05
  | .setPatternTable _ => 0x06
  | .setHandler _ => 0x07
  | .openSession => 0x08
  | .closeSession => 0x09
  | .map _ => 0x10
  | .unmap _ _ => 0x11
  | .copy _ _ _ => 0x12
  | .launch _ => 0x20
  | .cancel _ => 0x21
  | .signal _ _ => 0x22
  | .latencyTolerance _ => 0x23
  | .registerGroup _ => 0x30
  | .configurePort _ _ => 0x31
  | .fetchDump _ _ => 0x40
  | .readTrapLog _ _ => 0x41
  | .attest _ => 0x60
  | .writeImage _ _ => 0x61
  | .activateImage => 0x62
  | .readSensors => 0x63
  | .readErrorLog _ _ => 0x64
  | .mgmtFetchDump _ _ => 0x65
  | .resetDevice => 0x66
  | .powerOff => 0x67
  | _ => 0

/-- Bytes of data that a request's body carries, at least. -/
def reqBytes (i : Req) : Nat :=
  match i with
  | .map b => (b.data.map List.length).getD 0
  | .copy _ _ d => (d.map List.length).getD 0
  | .writeImage _ l => l.length
  | _ => 0

/-- What a header alone answers (R342, R344): an unknown version; reserved bits set; a body longer than 1 MiB, or data longer than
the body. -/
def headerStatus (h : Hdr) (i : Req) : Option Nat :=
  if h.version ≠ 1 then some 2
  else if !h.zeros || bodyLimit < h.len || h.len < reqBytes i then some 3
  else none

/-- The partition that a host request names, which wakes (R343, R362). -/
def wakes (h : Hdr) (i : Req) : Option Nat :=
  match i with
  | .createPartition _ => none
  | .destroyPartition n => some n
  | .resize n _ => some n
  | .openSession => none
  | .closeSession => none
  | .configurePort _ _ => none
  | _ => some h.part.val

/-- A request of the host port that the resident service serves. -/
def State.serveHost (s : State) (h : Hdr) (i : Req) (turn : Option (Nat × Option (List Nat))) : Served :=
  let n := h.part.val
  match i with
  | .createPartition b => s.actCreate b
  | .destroyPartition k => s.actDestroy k
  | .resize k d => s.actResize k d turn
  | .installKey slot k1 k2 => s.actInstall n slot k1 k2
  | .releaseKey slot => s.actRelease n slot
  | .setPatternTable a => s.actPattern n a
  | .setHandler a => s.actHandler n a
  | .map b => s.actMap n b
  | .unmap a len => s.actUnmap n a len
  | .copy a len d => s.actCopy n a len d
  | .launch a => s.actLaunch h a
  | .cancel t => s.actCancel n t
  | .signal a v => s.actSignal n a v
  | .latencyTolerance ns => s.actTolerance n ns
  | .registerGroup g => s.actGroup n g
  | .configurePort port role => s.actPort port role
  | .fetchDump off len => let (st, b) := s.dumpReply off len; .reply st b s
  | .readTrapLog q count => s.actTrapLog q count
  | _ => answer 2 s

/-- A request of the management port (R354). Resetting and powering off reply before they act. -/
def State.serveMgmt (s : State) (h : Hdr) (i : Req) : Served :=
  match i with
  | .attest nonce => .reply 0 (s.attestation nonce) s
  | .writeImage off piece => let (st, s) := s.writePiece off piece; answer st s
  | .activateImage => let (st, s) := s.activate; answer st s
  | .readSensors => .reply 0 s.sensorBytes s
  | .readErrorLog first count => let (st, b) := s.logReply first count; .reply st b s
  | .mgmtFetchDump off len => let (st, b) := s.dumpReply off len; .reply st b s
  | .resetDevice => let m := replyTo h 0x66 0 []; .sent m (s.post m).resetDevice
  | .powerOff =>
    if s.parts.isEmpty then let m := replyTo h 0x67 0 []; .sent m (s.post m).powerDown else answer 5 s
  | _ => answer 2 s

/-- What the cobbler answers on a host port after a fatal error: the dump and the trap log alone (R363). -/
def State.serveFatal (s : State) (i : Req) : Served :=
  match i with
  | .fetchDump off len => let (st, b) := s.dumpReply off len; .reply st b s
  | .readTrapLog q count => s.actTrapLog q count
  | _ => answer 5 s

/-- Serve a request; a reply whose body would be longer than 1 MiB is status 3 instead (R342; log 18). -/
def State.serve (s : State) (h : Hdr) (i : Req) (turn : Option (Nat × Option (List Nat))) : Served :=
  match headerStatus h i with
  | some st => answer st s
  | none =>
    let r := if h.mgmt then s.serveMgmt h i else if s.dev.running = .up then s.serveHost h i turn else s.serveFatal i
    match r with
    | .reply st body t => if bodyLimit < body.length then answer 3 s else .reply st body t
    | r => r

/-- A session matches a header. -/
def Session.is (x : Session) (mgmt : Bool) (ep : Nat) (sess : BitVec 16) : Bool :=
  x.mgmt == mgmt && x.ep == ep && x.sess == sess

/-- The session of a header. -/
def State.session (s : State) (h : Hdr) : Option Session := s.dev.sessions.find? (fun x => x.is h.mgmt h.ep h.sess)

/-- Replace a session. -/
def State.setSession (s : State) (x : Session) : State :=
  { s with dev := { s.dev with
      sessions := s.dev.sessions.map (fun y => if y.is x.mgmt x.ep x.sess then x else y) } }

/-- Remove a session; every request that waits in it receives status 5 (R347). -/
def State.dropSession (s : State) (x : Session) : State :=
  let s := { s with dev := { s.dev with sessions := s.dev.sessions.filter (fun y => !y.is x.mgmt x.ep x.sess) } }
  x.held.foldl (fun s r => s.post (replyTo r.hdr (reqType r.req) 5 [])) s

/-- The first number that is missing: the one after the requests that wait in order (R347). -/
def missingFrom (n : Nat) (l : List Held) : Nat := l.foldl (fun k r => if r.num = k then k + 1 else k) n

/-- The requests that a session holds ahead of a gap; those in order wait only for the request before them (R347). -/
def Session.ahead (x : Session) : List Held := x.held.filter (fun r => missingFrom x.next x.held < r.num)

/-- A session holds its waiting requests: its first gap stands since the first request beyond it came (R347). -/
def Session.holding (x : Session) (l : List Held) : Session :=
  let y : Session := { x with held := l }
  { y with gapSince := leastOf (y.ahead.map (·.since)) }

/-- Note in a session that a request has been answered: the next number, the reply kept among the last 64 (R347). -/
def State.answered (s : State) (h : Hdr) (num : Nat) (m : Msg) : State :=
  match s.session h with
  | none => s
  | some x =>
    let kept := x.kept ++ [(num, m)]
    let x : Session := { x with next := num + 1, kept := kept.drop (kept.length - 64) }
    s.setSession (x.holding (x.held.filter (fun r => r.num != num)))

/-- The resident service, or the management port, opens and closes sessions (R347, R363). -/
def State.sessions (s : State) (h : Hdr) : Bool := h.mgmt || s.dev.running == .up

/-- A close-session request takes effect: its header is in order. -/
def State.closes (s : State) (h : Hdr) : Bool := s.sessions h && (headerStatus h .closeSession).isNone

/-- Serve the request whose number a session expects; a second value says whether the next may be tried. -/
def State.serveNext (s : State) (h : Hdr) : State × Bool :=
  match s.session h with
  | none => (s, false)
  | some x =>
    match x.held with
    | [] => (s, false)
    | r :: _ =>
      if r.num ≠ x.next then (s, false)
      else
        let rh := r.hdr
        if r.req = .closeSession ∧ s.closes rh = true then
          ((s.dropSession { x with held := x.held.drop 1 }).post (replyTo rh 0x09 0 []), false)
        else
          match s.serve rh r.req r.turn with
          | .reply st body s =>
            let m := replyTo rh (reqType r.req) st body
            ((s.post m).answered h r.num m, true)
          | .sent m s => (s.answered h r.num m, true)
          | .later turn s =>
            match s.session h with
            | none => (s, false)
            | some x => (s.setSession { x with held := { r with turn := turn } :: x.held.drop 1 }, false)

/-- Serve what a session can serve, in order. -/
def State.drain (s : State) (h : Hdr) : Nat → State
  | 0 => s
  | n + 1 =>
    match s.serveNext h with
    | (s, true) => s.drain h n
    | (s, false) => s

/-- Insert a waiting request by number; a second one of a number is not held. -/
def heldInsert (l : List Held) (r : Held) : List Held :=
  match l with
  | [] => [r]
  | x :: t => if r.num < x.num then r :: x :: t else if r.num = x.num then x :: t else x :: heldInsert t r

/-- Open session (R347): number 0 and an empty body. After a fatal error no host session opens (R363). -/
def State.openFor (s : State) (h : Hdr) : State :=
  let reply (st : Nat) (s : State) : State := s.post (replyTo h 0x08 st [])
  match headerStatus h .openSession, s.session h with
  | some st, _ => reply st s
  | none, some _ => reply 5 s
  | none, none =>
    if !s.sessions h then reply 5 s
    else if h.seq ≠ 0 ∨ h.len ≠ 0 then reply 3 s
    else if 256 ≤ (s.dev.sessions.filter (fun x => x.mgmt == h.mgmt)).length then reply 4 s
    else
      let x : Session := ⟨h.mgmt, h.ep, h.sess, 1, [], [(0, replyTo h 0x08 0 [])], none⟩
      reply 0 { s with dev := { s.dev with sessions := s.dev.sessions ++ [x] } }

/-- A request arrives in its session: repeated, held, or served with what follows it (R345, R347). -/
def State.inSession (s : State) (h : Hdr) (i : Req) : State :=
  let reply (st : Nat) : State := s.post (replyTo h (reqType i) st [])
  match s.session h with
  | none => reply 5
  | some x =>
    let num := h.seq.toNat
    if num < x.next then
      match x.kept.find? (fun k => k.1 == num) with
      | some (_, m) => s.post m
      | none => reply 5
    else if missingFrom x.next x.held < num ∧ (64 ≤ x.ahead.length ∨
      16777216 < x.ahead.foldl (fun k r => k + r.hdr.len) h.len) then reply 4
    else
      let held := heldInsert x.held ⟨num, h, i, s.clock, none⟩
      (s.setSession (x.holding held)).drain h (held.length + 1)

/-- A request comes in where it is served: on the management port, or on a port of role 0 (R339). A device that is off answers
nothing, and one that found no firmware only its management port (R355). -/
def State.receives (s : State) (h : Hdr) : Bool :=
  match s.dev.running with
  | .off => false
  | .unbooted => h.mgmt
  | _ => h.mgmt || (h.port < 16 && ((SMap.find s.dev.ports h.port).getD Port.initial).role == 0)

/-- A request arrives at the device. A host request is a wake event of the partition it names (R362). -/
def State.arrive (s : State) (h : Hdr) (i : Req) : Host.Outcome State Fault Refusal :=
  if !s.receives h then .next s
  else
    let s := match (if h.mgmt then none else wakes h i) with
      | some n => s.wake n
      | none => s
    match i with
    | .openSession => .next (s.openFor h)
    | _ => .next (s.inSession h i)

/-- SESSION_GAP_TIMEOUT (R347): a gap that has stood for 10 s closes its session. -/
def execSessionGapTimeout (mgmt : Bool) (ep : Nat) (sess : BitVec 16) (s : State) : Host.Outcome State Fault Refusal :=
  let h : Hdr := ⟨mgmt, ep, sess, 0, 0, 0, 0, 1, true, 0⟩
  match s.session h with
  | none => .next s
  | some x =>
    match x.gapSince with
    | none => .next s
    | some t => if s.clock < t + Config.clocks10s then .next s else .next (s.dropSession x)

/-! ### The requests -/

def execCreatePartition (h : Hdr) (b : CreateBody) (s : State) : Host.Outcome State Fault Refusal :=
  s.arrive h (.createPartition b)
def execDestroyPartition (h : Hdr) (number : Nat) (s : State) : Host.Outcome State Fault Refusal :=
  s.arrive h (.destroyPartition number)
def execResize (h : Hdr) (number : Nat) (delta : Int) (s : State) : Host.Outcome State Fault Refusal :=
  s.arrive h (.resize number delta)
def execInstallKey (h : Hdr) (slot : Nat) (k1 k2 : BitVec 256) (s : State) : Host.Outcome State Fault Refusal :=
  s.arrive h (.installKey slot k1 k2)
def execReleaseKey (h : Hdr) (slot : Nat) (s : State) : Host.Outcome State Fault Refusal := s.arrive h (.releaseKey slot)
def execSetPatternTable (h : Hdr) (addr : Word) (s : State) : Host.Outcome State Fault Refusal :=
  s.arrive h (.setPatternTable addr)
def execSetHandler (h : Hdr) (addr : Word) (s : State) : Host.Outcome State Fault Refusal := s.arrive h (.setHandler addr)
def execOpenSession (h : Hdr) (s : State) : Host.Outcome State Fault Refusal := s.arrive h .openSession
def execCloseSession (h : Hdr) (s : State) : Host.Outcome State Fault Refusal := s.arrive h .closeSession
def execMap (h : Hdr) (b : MapBody) (s : State) : Host.Outcome State Fault Refusal := s.arrive h (.map b)
def execUnmap (h : Hdr) (addr size : Nat) (s : State) : Host.Outcome State Fault Refusal := s.arrive h (.unmap addr size)
def execCopy (h : Hdr) (addr len : Nat) (toDevice : Option (List Byte)) (s : State) : Host.Outcome State Fault Refusal :=
  s.arrive h (.copy addr len toDevice)
def execLaunch (h : Hdr) (addr : Word) (s : State) : Host.Outcome State Fault Refusal := s.arrive h (.launch addr)
def execCancel (h : Hdr) (token : Word) (s : State) : Host.Outcome State Fault Refusal := s.arrive h (.cancel token)
def execSignal (h : Hdr) (addr val : Word) (s : State) : Host.Outcome State Fault Refusal := s.arrive h (.signal addr val)
def execLatencyTolerance (h : Hdr) (ns : Word) (s : State) : Host.Outcome State Fault Refusal :=
  s.arrive h (.latencyTolerance ns)
def execRegisterGroup (h : Hdr) (g : GroupBody) (s : State) : Host.Outcome State Fault Refusal :=
  s.arrive h (.registerGroup g)
def execConfigurePort (h : Hdr) (port role : Nat) (s : State) : Host.Outcome State Fault Refusal :=
  s.arrive h (.configurePort port role)
def execFetchDump (h : Hdr) (off len : Nat) (s : State) : Host.Outcome State Fault Refusal := s.arrive h (.fetchDump off len)
def execReadTrapLog (h : Hdr) (q count : Nat) (s : State) : Host.Outcome State Fault Refusal :=
  s.arrive h (.readTrapLog q count)
def execUnknownRequestType (h : Hdr) (s : State) : Host.Outcome State Fault Refusal := s.arrive h .unknown
def execAttest (h : Hdr) (nonce : BitVec 256) (s : State) : Host.Outcome State Fault Refusal := s.arrive h (.attest nonce)
def execWriteImage (h : Hdr) (off : Nat) (piece : List Byte) (s : State) : Host.Outcome State Fault Refusal :=
  s.arrive h (.writeImage off piece)
def execActivateImage (h : Hdr) (s : State) : Host.Outcome State Fault Refusal := s.arrive h .activateImage
def execReadSensors (h : Hdr) (s : State) : Host.Outcome State Fault Refusal := s.arrive h .readSensors
def execReadErrorLog (h : Hdr) (first count : Nat) (s : State) : Host.Outcome State Fault Refusal :=
  s.arrive h (.readErrorLog first count)
def execMgmtFetchDump (h : Hdr) (off len : Nat) (s : State) : Host.Outcome State Fault Refusal :=
  s.arrive h (.mgmtFetchDump off len)
def execResetDevice (h : Hdr) (s : State) : Host.Outcome State Fault Refusal := s.arrive h .resetDevice
def execPowerOff (h : Hdr) (s : State) : Host.Outcome State Fault Refusal := s.arrive h .powerOff

end Sys2Proof.Machine
end

