-- ==== Sys2Proof/Machine/System.lean ====
section
/-!
DEFINITION. Majors 0x1C to 0x1F: control registers, `trap`, `rft`, `ifence`, `pause`, `sdrain` and `halt` (R63, R95 to
R100, R288, R291).
-/

namespace Sys2Proof.Machine

/-- The held entry that LSEL selects; 0 while LSEL holds 6 or 7 (R95). -/
def selEntry (m : Seq) : LoopEntry := m.loops.held.toList.getD m.ctl.lsel.toNat LoopEntry.zero

/-- Replace the held entry that LSEL selects; ignored while LSEL holds 6 or 7 (R95). -/
def setSelEntry (m : Seq) (e : LoopEntry) : Seq :=
  if h : m.ctl.lsel.toNat < 6 then { m with loops := { m.loops with held := m.loops.held.set m.ctl.lsel.toNat e h } }
  else m

/-- The value of a control register (R95). -/
def State.readCtl (s : State) (n : Nat) : Word :=
  let m := s.me
  let c := m.ctl
  match n with
  | 0x000 => c.status
  | 0x001 => c.det
  | 0x002 => c.chk
  | 0x003 => c.sdseed
  | 0x004 => c.sbase
  | 0x005 => c.ptab
  | 0x006 => c.tvec
  | 0x010 => c.cause
  | 0x011 => c.trappc
  | 0x012 => c.addr
  | 0x013 => c.elem
  | 0x014 => c.tstatus
  | 0x015 => c.resume
  | 0x016 => c.target
  | 0x017 => c.scratch
  | 0x020 => c.lsel
  | 0x021 => BitVec.ofNat 64 m.loops.depth
  | 0x022 => (selEntry m).start
  | 0x023 => (selEntry m).stop
  | 0x024 => (selEntry m).count
  | 0x030 => BitVec.ofNat 64 (s.clock - (s.upperAt (upperOf s.cur)).origin)
  | 0x031 => BitVec.ofNat 64 (Config.timeNs s.clock)
  | 0x032 => BitVec.ofNat 64 s.cur
  | _ => 0

/-- Set the loop depth: 7 is ignored; a smaller depth discards the active levels above it, whose held entries become 0;
a larger one activates held entries (R95). DEDUCED, log 20. -/
def setDepth (l : Loops) (n : Nat) : Loops :=
  if 6 < n then l
  else
    ⟨Vector.ofFn (fun i : Fin 6 => if n ≤ i.val ∧ i.val < l.depth then LoopEntry.zero else l.held.get i), n⟩

/-- The STATUS value a write stores: reserved bits and INSTRIP ignore it, PRIV follows it only in privileged mode
(R10, R11, R95). -/
def statusWrite (old v : Word) : Word :=
  let x := withInstrip (v &&& statusMask) (old.getLsbD 7)
  if isPriv old then x else withPriv x false

/-- Write a control register (R95). -/
def State.writeCtl (s : State) (n : Nat) (v : Word) : State :=
  let m := s.me
  let c := m.ctl
  match n with
  | 0x000 => s.setCtl { c with status := statusWrite c.status v }
  | 0x001 => s.setCtl { c with det := v &&& 1 }
  | 0x002 => s.setCtl { c with chk := v &&& 1 }
  | 0x003 => s.setCtl { c with sdseed := v }
  | 0x004 => s.setCtl { c with sbase := v }
  | 0x005 => s.setCtl { c with ptab := v &&& ~~~63 }
  | 0x006 => s.setCtl { c with tvec := v &&& ~~~3 }
  | 0x010 => s.setCtl { c with cause := v &&& 0xFFFFFFFF0000FFFF }
  | 0x011 => s.setCtl { c with trappc := v }
  | 0x012 => s.setCtl { c with addr := v }
  | 0x013 => s.setCtl { c with elem := v }
  | 0x014 => s.setCtl { c with tstatus := v &&& statusMask }
  | 0x015 => s.setCtl { c with resume := v &&& 0x01FFFFFFFFFFFFFC }
  | 0x016 =>
    s.setCtl { c with target :=
      if v.toNat % 4 = 3 then v &&& 0x01FFFFFFFFFFFFFC else v &&& 0x01FFFFFFFFFFFFFF }
  | 0x017 => s.setCtl { c with scratch := v }
  | 0x020 => s.setCtl { c with lsel := v &&& 7 }
  | 0x021 => s.setMe { m with loops := setDepth m.loops (v.toNat % 8) }
  | 0x022 => s.setMe (setSelEntry m { selEntry m with start := v &&& ~~~3 })
  | 0x023 => s.setMe (setSelEntry m { selEntry m with stop := v &&& ~~~3 })
  | 0x024 => s.setMe (setSelEntry m { selEntry m with count := v })
  | _ => s

/-- A control-register word that names TRAPCAUSE closes the entry window (R288). -/
def State.closeWindow (s : State) (n : Nat) : State :=
  if n = 0x010 then s.setMe { s.me with window := false } else s

def execMfc (f : CtlR) (s : State) : Host.Outcome State Fault Refusal :=
  run (.mfc f) (fun s => .done .seq ((s.closeWindow f.num.val).setS f.d (s.readCtl f.num.val))) s

/-- A write form (R96): sA is read first, sD receives the old value. -/
def ctlWrite (i : Instr) (f : CtlW) (s : State) : Host.Outcome State Fault Refusal :=
  run i (fun s =>
    let old := s.readCtl f.num.val
    .done .seq (((s.closeWindow f.num.val).writeCtl f.num.val (ctlNew i old (s.sreg f.a))).setS f.d old)) s

def execMtc (f : CtlW) (s : State) : Host.Outcome State Fault Refusal := ctlWrite (.mtc f) f s
def execMcset (f : CtlW) (s : State) : Host.Outcome State Fault Refusal := ctlWrite (.mcset f) f s
def execMcclr (f : CtlW) (s : State) : Host.Outcome State Fault Refusal := ctlWrite (.mcclr f) f s

/-- `trap k` takes software trap with TRAPELEM k (R99). -/
def execTrap (f : TrapK) (s : State) : Host.Outcome State Fault Refusal :=
  run (.trap f) (fun s => .trap ⟨Cause.softwareTrap, f.k.val, 0, none⟩ s) s

/-- `rft` (R99). -/
def execRft (f : Bare) (s : State) : Host.Outcome State Fault Refusal :=
  run (.rft f) (fun s => .done .stay s.returnFromTrap) s

/-- `ifence` discards every word fetched ahead (R63). -/
def execIfence (f : Bare) (s : State) : Host.Outcome State Fault Refusal :=
  run (.ifence f) (fun s => .done .seq (s.setMe { s.me with fetched := [] })) s

/-- `pause`: a hint; no state changes (R100). -/
def execPause (f : Bare) (s : State) : Host.Outcome State Fault Refusal := run (.pause f) (fun s => .done .seq s) s

/-- `sdrain`: every earlier instruction has completed, since each completes in its own step (R100). -/
def execSdrain (f : Bare) (s : State) : Host.Outcome State Fault Refusal := run (.sdrain f) (fun s => .done .seq s) s

/-- `halt`: the sequencer stops fetching; HALTED_RECORD_END does what follows (R100, R291). -/
def execHalt (f : Bare) (s : State) : Host.Outcome State Fault Refusal :=
  run (.halt f) (fun s => .done .stay (s.setMe { s.me with mode := .halted })) s

end Sys2Proof.Machine
end

