-- ==== Sys2Proof/Machine/VecArith.lean ====
section
/-!
DEFINITION. Majors 0x26 to 0x29: elementwise arithmetic, fused and error-free operations, and compares (R126 to R140).
-/

namespace Sys2Proof.Machine

/-! ### The elementwise frame (R128) -/

/-- The values of element n of each source, or the first trap. -/
def valsAt (n : Nat) : List Src → Except Trap (List Val)
  | [] => .ok []
  | x :: t =>
    match x.val n with
    | .error e => .error e
    | .ok v =>
      match valsAt n t with
      | .error e => .error e
      | .ok vs => .ok (v :: vs)

/-- The marks of element n of each source (R128 step 1, R316). -/
def checksAt (n : Nat) : List Src → Except Trap Unit
  | [] => .ok ()
  | x :: t =>
    match x.check n with
    | .error e => .error e
    | .ok () => checksAt n t

/-- Steps 1 to 4 of R128 for element n: read, compute and round once, or the +0 of an inactive element, and encode. A malformed code
at an element for which no budget is left traps here, since the element's length follows from its value; the moves, which need no
value, stop there instead. The manual leaves it open (R129). DESIGN CHOICE, log 69. -/
def State.elemOp (s : State) (t : VType) (mask : Option (BitVec 4096)) (srcs : List Src)
    (op : Nat → List Val → Result) (n : Nat) (o : Out) : Formed Out :=
  let lay := s.layout t
  match checksAt n srcs with
  | .error e => .trap e
  | .ok () =>
    if !activeAt mask n then
      let (x, len) := zeroBits lay
      o.fit lay (t.budget s.gang) x len noFlags
    else
      match valsAt n srcs with
      | .error e => .trap e
      | .ok vs =>
        let (x, len, fl) := encodeResult (s.roundCtx t n) lay (op n vs)
        o.fit lay (t.budget s.gang) x len fl

/-- Bits of source `k` spent on elements 0 to n - 1 (R130). -/
def spent (srcs : List Src) (k n : Nat) : Nat :=
  match srcs[k]? with
  | some x => x.start n
  | none => 0

/-- The result of an elementwise word: the final n, the stop reason and the destination, or a trap. -/
def State.mapRun (s : State) (t : VType) (m : Mask3) (srcs : List Src) (op : Nat → List Val → Result) :
    Except Trap (Nat × Nat × Out) :=
  elemLoop (s.grantLen t) (srcs.map (·.count)) (s.maskOf m) (s.elemOp t (s.maskOf m) srcs op) Out.zero

/-- An elementwise word over groups: `regs` are the source groups in operand order, of which the first two are
reported. -/
def mapVec (c : Class) (d : Reg) (regs : List Reg) (m : Mask3) (op : VType → State → Nat → List Val → Result)
    (s : State) : Res :=
  classed c m (fun t s =>
    let srcs := regs.map (fun v => s.srcOf (s.layout t) t.g v.val)
    match s.mapRun t m srcs (op t s) with
    | .error e => .trap e s
    | .ok (n, gs, o) =>
      .done .seq (s.finish t.g d.val o n ⟨n, n, spent srcs 0 n, spent srcs 1 n, o.used, gs⟩)) s

/-! ### Operations on values (R132 to R134) -/

/-- Width and signedness of integers under a layout: 64 bits signed for PZI. -/
def intShape (lay : Layout) : Nat × Bool :=
  match lay with
  | .plain f => (f.width, f.isSigned)
  | .code _ => (64, true)

/-- An operation of two integers or two floats. Values of one type never mix. -/
def bin (onInt : Int → Int → Int) (onNum : Num → Num → Exact × FlagSet) (vs : List Val) : Result :=
  match vs with
  | .int x :: .int y :: _ => .int (onInt x y)
  | .num x :: .num y :: _ => let (r, fl) := onNum x y; .num r fl
  | _ => .int 0

/-- An operation of one integer or one float. -/
def un (onInt : Int → Int) (onNum : Num → Exact × FlagSet) (vs : List Val) : Result :=
  match vs with
  | .int x :: _ => .int (onInt x)
  | .num x :: _ => let (r, fl) := onNum x; .num r fl
  | _ => .int 0

/-- `vdiv` of integers (R133): truncation toward zero, all ones on a zero divisor. -/
def divInt (lay : Layout) (x y : Int) : Int :=
  if y = 0 then (if (intShape lay).2 then -1 else 2 ^ (intShape lay).1 - 1) else Int.tdiv x y

/-- A bitwise operation on W-bit patterns: its value lies in range (R133). -/
def onBits (lay : Layout) (op : Nat → Nat → Nat) (x y : Int) : Int :=
  let (w, sg) := intShape lay
  intOf sg w (op (x % 2 ^ w).toNat (y % 2 ^ w).toNat % 2 ^ w)

/-- Arithmetic shift right of a W-bit pattern. -/
def sraBits (w x k : Nat) : Nat := (intOf true w x / 2 ^ k % 2 ^ w).toNat

/-- No float form. -/
def noNum (_ _ : Num) : Exact × FlagSet := (.nan Num.qnan, noFlags)

/-- The layout under which a word's operations run. -/
def State.layOf (s : State) (t : VType) : Layout := s.layout t

/-- A word of major 0x26 over vA and vB. -/
def vec2 (i : Instr) (c : Class) (f : V3) (op : VType → Layout → List Val → Result) (s : State) :
    Host.Outcome State Fault Refusal :=
  run i (mapVec c f.d [f.a, f.b] f.m (fun t s _ vs => op t (s.layout t) vs)) s

def execVadd (f : V3) (s : State) : Host.Outcome State Fault Refusal :=
  vec2 (.vadd f) .arith f (fun t _ => bin (· + ·) (addNum t.rm)) s
def execVsub (f : V3) (s : State) : Host.Outcome State Fault Refusal :=
  vec2 (.vsub f) .arith f (fun t _ => bin (· - ·) (subNum t.rm)) s
def execVmul (f : V3) (s : State) : Host.Outcome State Fault Refusal :=
  vec2 (.vmul f) .arith f (fun _ _ => bin (· * ·) mulNum) s
def execVdiv (f : V3) (s : State) : Host.Outcome State Fault Refusal :=
  vec2 (.vdiv f) .arith f (fun _ l => bin (divInt l) divNum) s
def execVmin (f : V3) (s : State) : Host.Outcome State Fault Refusal :=
  vec2 (.vmin f) .arith f (fun _ _ => bin min minNum) s
def execVmax (f : V3) (s : State) : Host.Outcome State Fault Refusal :=
  vec2 (.vmax f) .arith f (fun _ _ => bin max maxNum) s
def execVabsd (f : V3) (s : State) : Host.Outcome State Fault Refusal :=
  vec2 (.vabsd f) .arith f (fun t _ => bin (fun x y => (x - y).natAbs) (absdNum t.rm)) s
def execVand (f : V3) (s : State) : Host.Outcome State Fault Refusal :=
  vec2 (.vand f) .integer f (fun _ l => bin (onBits l (· &&& ·)) noNum) s
def execVor (f : V3) (s : State) : Host.Outcome State Fault Refusal :=
  vec2 (.vor f) .integer f (fun _ l => bin (onBits l (· ||| ·)) noNum) s
def execVxor (f : V3) (s : State) : Host.Outcome State Fault Refusal :=
  vec2 (.vxor f) .integer f (fun _ l => bin (onBits l (· ^^^ ·)) noNum) s
def execVsll (f : V3) (s : State) : Host.Outcome State Fault Refusal :=
  vec2 (.vsll f) .integer f (fun _ l => bin (onBits l (fun x y => x * 2 ^ (y % (intShape l).1))) noNum) s
def execVsrl (f : V3) (s : State) : Host.Outcome State Fault Refusal :=
  vec2 (.vsrl f) .integer f (fun _ l => bin (onBits l (fun x y => x / 2 ^ (y % (intShape l).1))) noNum) s
def execVsra (f : V3) (s : State) : Host.Outcome State Fault Refusal :=
  vec2 (.vsra f) .integer f
    (fun _ l => bin (onBits l (fun x y => sraBits (intShape l).1 x (y % (intShape l).1))) noNum) s

/-! ### One source, and a scalar operand (R134 to R136) -/

/-- A word of major 0x27 over vA. -/
def vec1 (i : Instr) (c : Class) (f : V2) (op : List Val → Result) (s : State) : Host.Outcome State Fault Refusal :=
  run i (mapVec c f.d [f.a] f.m (fun _ _ _ vs => op vs)) s

/-- A sign operation on a float: a NaN becomes a NaN by R50 (R134). -/
def signOp (op : Bool → Bool) (x : Num) : Exact × FlagSet :=
  if x.isNan then (nanOf [x], sigFlag [x]) else (exactOf (x.setSign (op x.sign)), noFlags)

def execVneg (f : V2) (s : State) : Host.Outcome State Fault Refusal :=
  vec1 (.vneg f) .arith f (un (fun x => -x) (signOp (!·))) s
def execVabs (f : V2) (s : State) : Host.Outcome State Fault Refusal :=
  vec1 (.vabs f) .arith f (un (fun x => x.natAbs) (signOp (fun _ => false))) s
def execVsqrt (f : V2) (s : State) : Host.Outcome State Fault Refusal :=
  vec1 (.vsqrt f) .float f (un id sqrtNum) s

/-- The value that sB gives (R135). -/
def scalarVal (t : VType) (w : Word) : Val :=
  match t.fam with
  | .plain f => plainVal f (w.toNat % 2 ^ f.width)
  | .pzi => .int w.toInt
  | .pzf _ => .num (decodeFloat .fp32 (w.toNat % 4294967296))

/-- `vadds` and `vmuls` (R135): the second operand comes from sB. -/
def vecS (i : Instr) (f : V3) (op : VType → List Val → Result) (s : State) : Host.Outcome State Fault Refusal :=
  run i (mapVec .arith f.d [f.a] f.m (fun t s _ vs => op t (vs ++ [scalarVal t (s.sreg f.b)]))) s

def execVadds (f : V3) (s : State) : Host.Outcome State Fault Refusal :=
  vecS (.vadds f) f (fun t => bin (· + ·) (addNum t.rm)) s
def execVmuls (f : V3) (s : State) : Host.Outcome State Fault Refusal :=
  vecS (.vmuls f) f (fun _ => bin (· * ·) mulNum) s

/-- A value rounded to the type: a signalling NaN is quietened and sets NV (R135, R146). -/
def roundVal (v : Val) : Result :=
  match v with
  | .int x => .int x
  | .num x => .num (exactOf x) (sigFlag [x])

/-- `vbcast` (R135): an inactive element is +0, and the mask never ends the word. -/
def execVbcast (f : VB) (s : State) : Host.Outcome State Fault Refusal :=
  run (.vbcast f) (classed .movable f.m (fun t s =>
    let v := roundVal (scalarVal t (s.sreg f.b))
    match elemLoop (s.grantLen t) [] none (s.elemOp t (s.maskOf f.m) [] (fun _ _ => v)) Out.zero with
    | .error e => .trap e s
    | .ok (n, gs, o) => .done .seq (s.finish t.g f.d.val o n ⟨n, n, 0, 0, o.used, gs⟩))) s

/-- `vid` (R136). -/
def execVid (f : V1) (s : State) : Host.Outcome State Fault Refusal :=
  run (.vid f) (mapVec .arith f.d [] f.m (fun _ s n _ => .int (s.me.ctl.sbase + BitVec.ofNat 64 n).toNat)) s

/-- `vmov` (R136): exact bits; an inactive element gets the zero code. -/
def State.moveElem (s : State) (t : VType) (mask : Option (BitVec 4096)) (x : Src) (n : Nat) (o : Out) : Formed Out :=
  match x.check n with
  | .error e => .trap e
  | .ok () =>
    if activeAt mask n then x.copied n n (o.fit x.lay (t.budget s.gang) (x.raw n) (x.size n) noFlags)
    else
      let (b, len) := zeroBits x.lay
      o.fit x.lay (t.budget s.gang) b len noFlags

def execVmov (f : V2) (s : State) : Host.Outcome State Fault Refusal :=
  run (.vmov f) (classed .movable f.m (fun t s =>
    let x := s.srcOf (s.layout t) t.g f.a.val
    match elemLoop (s.grantLen t) [x.count] (s.maskOf f.m) (s.moveElem t (s.maskOf f.m) x) Out.zero with
    | .error e => .trap e s
    | .ok (n, gs, o) => .done .seq (s.finish t.g f.d.val o n ⟨n, n, x.start n, 0, o.used, gs⟩))) s

/-! ### Fused (R137) -/

/-- The operands a, b, c, the product and the addend negated when asked. -/
def fused (rm : Rm) (np nc : Bool) (vs : List Val) : Result :=
  match vs with
  | [.int a, .int b, .int c] => .int ((if np then -(a * b) else a * b) + (if nc then -c else c))
  | [.num a, .num b, .num c] => let (r, fl) := fmaNum rm a b c np nc; .num r fl
  | _ => .int 0

def vec3 (i : Instr) (f : V3) (np nc : Bool) (s : State) : Host.Outcome State Fault Refusal :=
  run i (mapVec .arith f.d [f.a, f.b, f.d] f.m (fun t _ _ vs => fused t.rm np nc vs)) s

def execVfma (f : V3) (s : State) : Host.Outcome State Fault Refusal := vec3 (.vfma f) f false false s
def execVfms (f : V3) (s : State) : Host.Outcome State Fault Refusal := vec3 (.vfms f) f false true s
def execVfnma (f : V3) (s : State) : Host.Outcome State Fault Refusal := vec3 (.vfnma f) f true false s

/-! ### Error-free pairs (R138, R139) -/

/-- The fp32 pair of an exact result: hi rounded to nearest even, lo the rest. -/
def splitPair (det : Bool) (r : Exact) (fl : FlagSet) : Nat × Nat × FlagSet :=
  let c : RoundCtx := ⟨.ne, false, det, 0⟩
  let (hi, fl1) := roundNum c specFp32 r
  match r, hi with
  | .val s m, .fin hs hm he =>
    let (lo, fl2) := roundNum c specFp32 (addFin .ne s m.q m.e (!hs) hm he)
    (encodeFloat .fp32 hi, encodeFloat .fp32 lo, (fl.join fl1).join fl2)
  | _, _ => (encodeFloat .fp32 hi, 0, fl.join fl1)

/-- Element n of both groups. -/
def State.pairElem (s : State) (mask : Option (BitVec 4096)) (srcs : List Src) (op : Num → Num → Exact × FlagSet)
    (n : Nat) (o : Out × Out) : Formed (Out × Out) :=
  match checksAt n srcs with
  | .error e => .trap e
  | .ok () =>
    if !activeAt mask n then .put (o.1.push 0 32 noFlags, o.2.push 0 32 noFlags)
    else
      match valsAt n srcs with
      | .error e => .trap e
      | .ok vs =>
        let (hi, lo, fl) := match vs with
          | [.num x, .num y] => let (r, fl) := op x y; splitPair (s.me.ctl.det.getLsbD 0) r fl
          | _ => (0, 0, noFlags)
        .put (o.1.push hi 32 fl, o.2.push lo 32 noFlags)

/-- `vtsum` and `vtprod`: hi in group vD, lo in group v(D + g). -/
def vecPair (i : Instr) (f : V3) (op : Num → Num → Exact × FlagSet) (s : State) : Host.Outcome State Fault Refusal :=
  runG i (fun t => f.d.val % (2 * t.g) == 0) (classed .fp32 f.m (fun t s =>
    let srcs := [f.a, f.b].map (fun v => s.srcOf (s.layout t) t.g v.val)
    match elemLoop (s.grantLen t) (srcs.map (·.count)) (s.maskOf f.m) (s.pairElem (s.maskOf f.m) srcs op)
        (Out.zero, Out.zero) with
    | .error e => .trap e s
    | .ok (n, gs, hi, lo) =>
      let s := s.finish t.g f.d.val hi n ⟨n, n, spent srcs 0 n, spent srcs 1 n, 64 * n, gs⟩
      .done .seq (s.setMe (writeGroup s.me s.gang (f.d.val + t.g) lo.bits n lo.used t.g)))) s

def execVtsum (f : V3) (s : State) : Host.Outcome State Fault Refusal := vecPair (.vtsum f) f (addNum .ne) s
def execVtprod (f : V3) (s : State) : Host.Outcome State Fault Refusal := vecPair (.vtprod f) f mulNum s

/-! ### Compares (R140) -/

/-- A condition on two values, and its flags: `quiet` conditions set NV on a signalling NaN only. -/
structure Cond where
  onInt : Int → Int → Bool
  onNum : Num → Num → Bool
  quiet : Bool

/-- Whether the condition holds, and the flags. -/
def Cond.eval (c : Cond) (vs : List Val) : Bool × FlagSet :=
  match vs with
  | [.int x, .int y] => (c.onInt x y, noFlags)
  | [.num x, .num y] =>
    (c.onNum x y, if c.quiet then sigFlag [x, y] else if x.isNan || y.isNan then flagNV else noFlags)
  | _ => (false, noFlags)

/-- A condition on ordered floats, with its value when an operand is a NaN. -/
def onOrdered (c : Num → Num → Bool) (unordered : Bool) (x y : Num) : Bool :=
  if x.isNan || y.isNan then unordered else c x y

/-- Element n of a compare. -/
def Cond.elem (c : Cond) (mask : Option (BitVec 4096)) (srcs : List Src) (n : Nat) (o : BitVec 4096 × FlagSet) :
    Formed (BitVec 4096 × FlagSet) :=
  match checksAt n srcs with
  | .error e => .trap e
  | .ok () =>
    if !activeAt mask n then .put o
    else
      match valsAt n srcs with
      | .error e => .trap e
      | .ok vs =>
        let (b, fl) := c.eval vs
        .put (if b then o.1 ||| ((1 : BitVec 4096) <<< n) else o.1, o.2.join fl)

/-- A compare: bits from the final n up are cleared. -/
def compareVec (i : Instr) (cl : Class) (f : V3) (c : Cond) (s : State) : Host.Outcome State Fault Refusal :=
  run i (classed cl f.m (fun t s =>
    let srcs := [f.a, f.b].map (fun v => s.srcOf (s.layout t) t.g v.val)
    match elemLoop (s.grantLen t) (srcs.map (·.count)) (s.maskOf f.m) (c.elem (s.maskOf f.m) srcs) (0, noFlags) with
    | .error e => .trap e s
    | .ok (n, gs, b, fl) =>
      .done .seq (((s.writeMask f.d.val b).raise fl).report ⟨n, n, spent srcs 0 n, spent srcs 1 n, n, gs⟩))) s

def execVceq (f : V3) (s : State) : Host.Outcome State Fault Refusal :=
  compareVec (.vceq f) .arith f ⟨(· == ·), onOrdered (fun x y => cmpNum x y == 0) false, true⟩ s
def execVcne (f : V3) (s : State) : Host.Outcome State Fault Refusal :=
  compareVec (.vcne f) .arith f ⟨(· != ·), onOrdered (fun x y => cmpNum x y != 0) true, true⟩ s
def execVclt (f : V3) (s : State) : Host.Outcome State Fault Refusal :=
  compareVec (.vclt f) .arith f ⟨(· < ·), onOrdered (fun x y => cmpNum x y < 0) false, false⟩ s
def execVcle (f : V3) (s : State) : Host.Outcome State Fault Refusal :=
  compareVec (.vcle f) .arith f ⟨(· ≤ ·), onOrdered (fun x y => cmpNum x y ≤ 0) false, false⟩ s
def execVcnan (f : V3) (s : State) : Host.Outcome State Fault Refusal :=
  compareVec (.vcnan f) .float f ⟨fun _ _ => false, fun x y => x.isNan || y.isNan, true⟩ s

end Sys2Proof.Machine
end

