-- ==== Sys2Proof/Machine/VecMove.lean ====
section
/-!
DEFINITION. Majors 0x2A and 0x2B: conversion, quantising, select, slides, permute and compress (R141 to R148).
-/

namespace Sys2Proof.Machine

/-! ### Conversion (R145, R146) -/

/-- The source layout of a `vcvt` format code under the type in force (R145). -/
def State.cvtLayout (s : State) (t : VType) (b : Nat) : Layout :=
  if b = 16 then s.coding .pzi 0 (t.fam == .pzi && t.ct)
  else if 20 ≤ b then
    match t.fam with
    | .pzf _ => s.coding (.pzf (pOf (b - 20))) t.eb t.ct
    | _ => s.coding (.pzf (pOf (b - 20))) 0 false
  else .plain ((Fmt.ofCode b).getD .i8)

/-- `vcvt` (R145, R146). -/
def execVcvt (f : V3) (s : State) : Host.Outcome State Fault Refusal :=
  run (.vcvt f) (classed .movable f.m (fun t s =>
    let srcs := [s.srcOf (s.cvtLayout t f.b.val) t.g f.a.val]
    match s.mapRun t f.m srcs (fun _ vs =>
        match vs with
        | v :: _ => roundVal v
        | [] => .int 0) with
    | .error e => .trap e s
    | .ok (n, gs, o) => .done .seq (s.finish t.g f.d.val o n ⟨n, n, spent srcs 0 n, 0, o.used, gs⟩))) s

/-! ### Quantising (R147, R148) -/

/-- The register-group condition of `vqnt` and `vdqnt` on the fp32 group. -/
def wideOk (v : Reg) (t : VType) : Bool := v.val % (8 * t.g) == 0

/-- A word under eb alone. -/
def blockTyped (body : VType → State → Res) (s : State) : Res := classed .block 0 body s

/-- Quantise blocks from j on: `limit` elements are real, the rest of the last block is +0. -/
def State.quantBlocks (s : State) (t : VType) (x : Src) (limit j : Nat) (o : Out) : Nat → Out
  | 0 => o
  | n + 1 =>
    let at_ (k : Nat) : Num :=
      if 16 * j + k < limit then decodeFloat .fp32 (x.raw (16 * j + k)) else .fin false 0 0
    let (b, fl) := quantise t.rm (fun k => (s.roundCtx t (16 * j + k)).rand) ((List.range 16).map at_)
    s.quantBlocks t x limit (j + 1) (o.push b 80 fl) n

/-- Element n of a word that only reads its source: a marked one traps (R316). -/
def Src.pass (x : Src) (n : Nat) (y : Unit) : Formed Unit :=
  match x.check n with
  | .error e => .trap e
  | .ok () => .put y

/-- `vqnt` (R147). -/
def execVqnt (f : R2) (s : State) : Host.Outcome State Fault Refusal :=
  runG (.vqnt f) (wideOk f.a) (blockTyped (fun t s =>
    let x := s.srcOf (.plain .fp32) (8 * t.g) f.a.val
    match elemLoop (s.grantLen t) [x.count] none x.pass () with
    | .error e => .trap e s
    | .ok (n, gs, _) =>
      let o := s.quantBlocks t x n 0 Out.zero (blocksFor n)
      .done .seq (s.finish t.g f.d.val o n ⟨n, n, 32 * n, 0, o.used, gs⟩))) s

/-- The marks of the block that holds element n. -/
def Src.blockMarked (x : Src) (n : Nat) : Bool := x.marks.any (fun b => 10 * (n / 16) ≤ b && b < 10 * (n / 16) + 10)

/-- Element n of a dequantisation, as fp32 (R148). -/
def Src.dequant (x : Src) (n : Nat) (o : Out) : Formed Out :=
  if x.blockMarked n then .trap (regPoison n)
  else
    let (v, fl) := blockFp32 (blockElem (x.span (80 * (n / 16)) 80) (n % 16))
    .put (o.push (encodeFloat .fp32 v) 32 fl)

/-- `vdqnt` (R148). -/
def execVdqnt (f : R2) (s : State) : Host.Outcome State Fault Refusal :=
  runG (.vdqnt f) (wideOk f.d) (blockTyped (fun t s =>
    let x := s.srcOf (.plain .eb) t.g f.a.val
    match elemLoop (s.grantLen t) [x.count] none x.dequant Out.zero with
    | .error e => .trap e s
    | .ok (n, gs, o) =>
      .done .seq (s.finish (8 * t.g) f.d.val o n ⟨n, n, 80 * blocksFor n, 0, o.used, gs⟩))) s

/-! ### Movement (R141 to R144) -/

/-- Element n of a select: mK chooses the source; no element is inactive, and both sources are read (R141).
Where the codes of both are malformed, the trap names that of vA, as an arithmetic word's does. DESIGN CHOICE, log 69. -/
def State.selElem (s : State) (t : VType) (mask : Option (BitVec 4096)) (x y : Src) (n : Nat) (o : Out) : Formed Out :=
  match checksAt n [x, y] with
  | .error e => .trap e
  | .ok () =>
    let z := if activeAt mask n then x else y
    y.copied n n (x.copied n n (o.fit (s.layout t) (t.budget s.gang) (z.raw n) (z.size n) noFlags))

/-- `vsel` (R141). -/
def execVsel (f : V3) (s : State) : Host.Outcome State Fault Refusal :=
  run (.vsel f) (classed .movable f.m (fun t s =>
    let x := s.srcOf (s.layout t) t.g f.a.val
    let y := s.srcOf (s.layout t) t.g f.b.val
    match elemLoop (s.grantLen t) [x.count, y.count] none (s.selElem t (s.maskOf f.m) x y) Out.zero with
    | .error e => .trap e s
    | .ok (n, gs, o) => .done .seq (s.finish t.g f.d.val o n ⟨n, n, x.start n, y.start n, o.used, gs⟩))) s

/-- Element n of a movement: element j of the source copied exactly, or +0. The bits copied are counted. -/
def State.copyElem (s : State) (t : VType) (x : Src) (mask : Option (BitVec 4096)) (from_ : Nat → Option Nat) (n : Nat)
    (o : Out × Nat) : Formed (Out × Nat) :=
  let put (b len k : Nat) : Formed (Out × Nat) :=
    match o.1.fit x.lay (t.budget s.gang) b len noFlags with
    | .put o' => .put (o', o.2 + k)
    | .full => .full
    | .trap e => .trap e
  if !activeAt mask n then let (b, len) := zeroBits x.lay; put b len 0
  else
    match from_ n with
    | none => let (b, len) := zeroBits x.lay; put b len 0
    | some j =>
      match x.check j with
      | .error e => .trap e
      | .ok () => x.copied j n (put (x.raw j) (x.size j) (x.size j))

/-- `vslup` and `vsldn` (R142): `lim` is where the source is exhausted and `from_` the element that n takes. The masked end of
R114 looks no further than that shifted limit. DESIGN CHOICE, log 64. -/
def slide (i : Instr) (f : V3) (lim : Nat → Nat → Nat) (from_ : Nat → Nat → Option Nat) (s : State) :
    Host.Outcome State Fault Refusal :=
  run i (classed .movable f.m (fun t s =>
    let k := (s.sreg f.b).toNat
    let x := s.srcOf (s.layout t) t.g f.a.val
    match elemLoop (s.grantLen t) [lim x.count k] (s.maskOf f.m) (s.copyElem t x (s.maskOf f.m) (from_ k))
        (Out.zero, 0) with
    | .error e => .trap e s
    | .ok (n, gs, o, ga) => .done .seq (s.finish t.g f.d.val o n ⟨n, n, ga, 0, o.used, gs⟩))) s

def execVslup (f : V3) (s : State) : Host.Outcome State Fault Refusal :=
  slide (.vslup f) f (fun c k => c + k) (fun k n => if n < k then none else some (n - k)) s
def execVsldn (f : V3) (s : State) : Host.Outcome State Fault Refusal :=
  slide (.vsldn f) f (fun c k => c - k) (fun k n => some (n + k)) s

/-- Element n of a permutation: the element that index n names, or +0 from the fill count on (R143). -/
def State.permElem (s : State) (t : VType) (x ix : Src) (mask : Option (BitVec 4096)) (n : Nat) (o : Out × Nat) :
    Formed (Out × Nat) :=
  match ix.check n with
  | .error e => .trap e
  | .ok () => s.copyElem t x mask (fun n => if x.count ≤ ix.raw n then none else some (ix.raw n)) n o

/-- `vperm` (R143). -/
def execVperm (f : V3) (s : State) : Host.Outcome State Fault Refusal :=
  runG (.vperm f) (indexOk f.b) (classed .movable f.m (fun t s =>
    let x := s.srcOf (s.layout t) t.g f.a.val
    let ix := s.srcOf (.plain .n32) (indexRegs t) f.b.val
    match elemLoop (s.grantLen t) [ix.count] (s.maskOf f.m) (s.permElem t x ix (s.maskOf f.m)) (Out.zero, 0) with
    | .error e => .trap e s
    | .ok (n, gs, o, ga) => .done .seq (s.finish t.g f.d.val o n ⟨n, n, ga, 32 * n, o.used, gs⟩))) s

/-- Element n of a compression: an active one is appended (R144). -/
def State.compElem (s : State) (t : VType) (x : Src) (mask : Option (BitVec 4096)) (n : Nat) (o : Out × Nat) :
    Formed (Out × Nat) :=
  match x.check n with
  | .error e => .trap e
  | .ok () =>
    if !activeAt mask n then .put o
    else
      match x.copied n n (o.1.fit x.lay (t.budget s.gang) (x.raw n) (x.size n) noFlags) with
      | .put o' => .put (o', o.2 + 1)
      | .full => .full
      | .trap e => .trap e

/-- `vcomp` (R144): active elements move to the next free position. -/
def execVcomp (f : V2) (s : State) : Host.Outcome State Fault Refusal :=
  run (.vcomp f) (classed .movable f.m (fun t s =>
    let x := s.srcOf (s.layout t) t.g f.a.val
    match elemLoop (s.grantLen t) [x.count] (s.maskOf f.m) (s.compElem t x (s.maskOf f.m)) (Out.zero, 0) with
    | .error e => .trap e s
    | .ok (n, gs, o, k) => .done .seq (s.finish t.g f.d.val o k ⟨n, k, x.start n, 0, o.used, gs⟩))) s

end Sys2Proof.Machine
end

