-- ==== Sys2Proof/Machine/Truss.lean ====
section
/-!
DEFINITION. Majors 0x2E to 0x31: the truss (R153 to R173).
-/

namespace Sys2Proof.Machine

/-! ### Rows and the journal (R153, R157, R165) -/

/-- NC (R336). -/
def State.columns (s : State) : Nat := 64 * s.gang

/-- A row; one never written since the scrub reads +0 (R153). -/
def State.rowAt (s : State) (r : Nat) : Row := (SMap.find s.sole.rows r).getD Row.zero
def State.setRow (s : State) (r : Nat) (x : Row) : State :=
  s.setSole s.image { s.sole with rows := SMap.put s.sole.rows r x }

/-- The bits of column n of a row, and its value. -/
def Row.bitsAt (x : Row) (n : Nat) : Nat := (x.cols.extractLsb' (32 * n) 32).toNat
def Row.numAt (x : Row) (n : Nat) : Num := decodeFloat .fp32 (x.bitsAt n)

/-- A row from the bits of its columns, lowest first. -/
def colsOf (l : List Nat) : BitVec 8192 := BitVec.ofNat 8192 (l.foldr (fun x acc => x + acc * 2 ^ 32) 0)

/-- The rows of a list that the journal does not hold. -/
def newRows (j : SMap Row) (rs : List Nat) : List Nat := rs.filter (fun r => (SMap.find j r).isNone)

/-- Journal(rows) (R157): outside a strip nothing; else the rows not yet held, or a journal overflow with the first row
that does not fit. -/
def State.journalRows (s : State) (rs : List Nat) : Except Trap State :=
  match s.me.strip with
  | none => .ok s
  | some st =>
    let new := newRows st.journal rs
    match new[Config.journalRows - st.journal.length]? with
    | some r => .error ⟨Cause.journalOverflow, r, 0, none⟩
    | none =>
      .ok (s.setMe { s.me with
        strip := some { st with journal := new.foldl (fun j r => SMap.put j r (s.rowAt r)) st.journal } })

/-! ### Events (R162, R171) -/

/-- The events of one instruction. -/
structure Events where
  ov : Bool
  nv : Bool
  nx : Bool
  deriving DecidableEq, Repr

def noEvents : Events := ⟨false, false, false⟩
def Events.join (a b : Events) : Events := ⟨a.ov || b.ov, a.nv || b.nv, a.nx || b.nx⟩

/-- Advance a counter, saturating at 2^32 - 1 (R162). -/
def bump (x : Nat) (b : Bool) : Nat := if b then min (x + 1) 4294967295 else x

/-- Count the events of an instruction. -/
def State.countEvents (s : State) (e : Events) : State :=
  let t := s.me.truss
  s.setMe { s.me with truss := { t with tx := ⟨bump t.tx.ov e.ov, bump t.tx.nv e.nv, bump t.tx.nx e.nx⟩ } }

/-- RoundNE of an exact result into a row, with its events: `anyNan` and `anySig` say which operands it had (R162).
Every NaN is canonical. -/
def rowRound (x : Exact) (finiteIn anyNan anySig : Bool) : Nat × Events :=
  let (n, fl) := roundNE x
  (encodeFloat .fp32 n,
   ⟨finiteIn && (match n with
      | .inf _ => true
      | _ => false), n.isNan && (anySig || !anyNan), fl.nx⟩)

/-! ### Exact sums (R47, R162) -/

/-- A sum of terms in progress: a NaN seen, infinities seen, and the finite part m x 2^e. -/
structure Sum where
  nan : Bool
  pos : Bool
  neg : Bool
  m   : Int
  e   : Int
  deriving DecidableEq, Repr

def Sum.zero : Sum := ⟨false, false, false, 0, 0⟩

/-- Add an exact term. -/
def Sum.add (a : Sum) (x : Exact) : Sum :=
  match x with
  | .nan _ => { a with nan := true }
  | .inf s => if s then { a with neg := true } else { a with pos := true }
  | .val s g =>
    let e := min a.e g.e
    let v : Int := g.q * 2 ^ (g.e - e).toNat
    { a with m := a.m * 2 ^ (a.e - e).toNat + (if s then -v else v), e := e }

/-- The sum as a value: S of R162. -/
def Sum.num (a : Sum) : Num :=
  if a.nan || (a.pos && a.neg) then Num.qnan
  else if a.pos then .inf false
  else if a.neg then .inf true
  else .fin (a.m < 0) a.m.natAbs a.e

/-- The exact square of an exact difference. -/
def squareExact (x : Exact) : Exact :=
  match x with
  | .nan n => .nan n
  | .inf _ => .inf false
  | .val _ g => .val false ⟨g.q * g.q, 2 * g.e, g.sticky⟩

/-- The term of a word (R161): product, absolute difference or squared difference. -/
inductive Metric where
  | product | absolute | squared
  deriving DecidableEq, Repr

def term (k : Metric) (x w : Num) : Exact :=
  match k with
  | .product => (mulNum x w).1
  | .absolute => (absdNum .ne x w).1
  | .squared => squareExact (subNum .ne x w).1

/-! ### Types and slots (R154, R158) -/

/-- K and CB of a truss type (R154). -/
def trussShape (t : VType) : Option (Nat × Nat) :=
  match t.fam with
  | .plain .eb => some (256, 160)
  | .plain .e4m3 => some (128, 128)
  | .plain .e5m2 => some (128, 128)
  | .plain .bf16 => some (64, 128)
  | .plain .f16 => some (64, 128)
  | _ => none

/-- The plain format of a truss type. -/
def VType.fmt (t : VType) : Fmt :=
  match t.fam with
  | .plain f => f
  | _ => .i8

/-- The value of element k of a run of elements in memory layout, held as bits (R42, R158). -/
def packedElem (f : Fmt) (bits k : Nat) : Num :=
  if f = .eb then blockElem (bits / 2 ^ (80 * (k / 16)) % 2 ^ 80) (k % 16)
  else decodeFloat f (bits / 2 ^ (f.width * k) % 2 ^ f.width)

/-- The first byte and length in bytes of element k of such a run. -/
def packedBytes (f : Fmt) (k : Nat) : Nat × Nat :=
  if f = .eb then (10 * (k / 16), 10) else (f.width / 8 * k, f.width / 8)

/-- Column n of a slot as bits. -/
def Slot.column (x : Slot) (cb n : Nat) : Nat := x.bits.toNat / 2 ^ (8 * cb * n) % 2 ^ (8 * cb)

/-- Whether weight k of column n has a marked byte. -/
def Slot.marked (x : Slot) (f : Fmt) (cb n k : Nat) : Bool :=
  let (b, len) := packedBytes f k
  x.marks.any (fun m => cb * n + b ≤ m && m < cb * n + b + len)

def State.slotAt (s : State) (k : Fin 4) : Slot := s.sole.slots.get k

/-- A truss word that streams or loads weights needs a truss type (R154). -/
def trussTyped (body : VType → Nat → Nat → State → Res) (s : State) : Res :=
  let t := s.typeOr
  match trussShape t with
  | none => .trap (Trap.plain Cause.illegalType) s
  | some (k, cb) => body t k cb s

/-! ### `tld` (R158) -/

/-- Check `n` sectors from sector j on: the address of each, or a trap. -/
def State.tileCheck (s : State) (base : Word) (j : Nat) : Nat → Except Trap (List Nat)
  | 0 => .ok []
  | n + 1 =>
    let ea := base + BitVec.ofNat 64 (32 * j)
    match s.checkAccess s.ctx .load ea.toNat 32 with
    | .error e => .error (e.trap j ea.toNat)
    | .ok loc =>
      match s.tileCheck base (j + 1) n with
      | .error e => .error e
      | .ok l => .ok (loc :: l)

/-- Read sectors, each in one access (R256): their bytes as a number, or the first marked one. -/
def State.tileRead (s : State) (base : Word) (j : Nat) : List Nat → Except Trap Nat
  | [] => .ok 0
  | loc :: t =>
    if s.sectorBad loc 32 then
      .error ⟨Cause.uncorrectable, j, 8 * (base + BitVec.ofNat 64 (32 * j)).toNat, none⟩
    else
      match s.tileRead base (j + 1) t with
      | .error e => .error e
      | .ok v => .ok (s.sectorNat loc 32 + v * 2 ^ 256)

/-- `tld` (R158). -/
def execTld (f : TLd) (s : State) : Host.Outcome State Fault Refusal :=
  run (.tld f) (trussTyped (fun t _ cb s =>
    let base := s.sreg f.a
    if base.toNat % 32 ≠ 0 then .trap ⟨Cause.misaligned, 0, 8 * base.toNat, none⟩ s
    else
      match s.tileCheck base 0 (s.columns * cb / 32) with
      | .error e => .trap e s
      | .ok locs =>
        match s.tileRead base 0 locs with
        | .error e => .trap e s
        | .ok v =>
          .done .seq ((s.setSole s.image { s.sole with
            slots := s.sole.slots.set f.slot.val ⟨some t.fmt, BitVec.ofNat 327680 v, []⟩ f.slot.isLt }).loadedFrom
              (s.sectorAccess · 1) base.toNat (s.columns * cb)))) s

/-! ### The mode (R159, R160) -/

/-- Fields of the control image (R159). -/
def tmMetric (tm : Word) : Nat := tm.toNat % 4
def tmTie (tm : Word) : Bool := tm.getLsbD 2
def tmTri (tm : Word) : Bool := tm.getLsbD 3
def tmDiag (tm : Word) : Int := (tm.extractLsb' 8 16).toInt
def tmRowbase (tm : Word) : Int := (tm.extractLsb' 24 16).toInt

/-- A written image keeps R159. -/
def modeOk (tm : Word) : Bool := tmMetric tm < 2 && tm.toNat / 16 % 16 == 0 && tm.toNat / 2 ^ 40 == 0

/-- `tmode` (R160). -/
def execTmode (f : Pair) (s : State) : Host.Outcome State Fault Refusal :=
  run (.tmode f) (fun s =>
    let x := s.sreg f.a
    let c := s.sreg f.b
    if !modeOk x || c.toNat / 2 ^ 32 != 0 then .trap (Trap.plain Cause.trussMode) s
    else .done .seq (s.setMe { s.me with truss := { s.me.truss with tm := x, tmc := c.setWidth 32, tb := none } })) s
def execTmodr (f : Dst) (s : State) : Host.Outcome State Fault Refusal :=
  run (.tmodr f) (fun s => .done .seq (s.setS f.d s.me.truss.tm)) s
def execTmodc (f : Dst) (s : State) : Host.Outcome State Fault Refusal :=
  run (.tmodc f) (fun s => .done .seq (s.setS f.d (s.me.truss.tmc.setWidth 64))) s

/-- `tbest` (R164). -/
def execTbest (f : DstB) (s : State) : Host.Outcome State Fault Refusal :=
  run (.tbest f) (fun s =>
    match s.me.truss.tb with
    | some (i, v) => .done .seq ((s.setS f.d (BitVec.ofNat 64 i)).setS f.b (v.setWidth 64))
    | none => .done .seq ((s.setS f.d (BitVec.allOnes 64)).setS f.b 0x7FC00000)) s

/-- A counter clamped to 21 bits (R171). -/
def clamp21 (n : Nat) : Nat := min n 2097151

/-- `tcnt` (R171): k = 3 reads and clears. -/
def execTcnt (f : R2) (s : State) : Host.Outcome State Fault Refusal :=
  run (.tcnt f) (fun s =>
    let x := s.me.truss.tx
    match f.a.val with
    | 0 => .done .seq (s.setS f.d (BitVec.ofNat 64 x.ov))
    | 1 => .done .seq (s.setS f.d (BitVec.ofNat 64 x.nv))
    | 2 => .done .seq (s.setS f.d (BitVec.ofNat 64 x.nx))
    | _ =>
      .done .seq ((s.setMe { s.me with truss := { s.me.truss with tx := ⟨0, 0, 0⟩ } }).setS f.d
        (BitVec.ofNat 64 (clamp21 x.ov + clamp21 x.nv * 2 ^ 21 + clamp21 x.nx * 2 ^ 42)))) s

/-! ### Products and distances (R161 to R163) -/

/-- What a row's computation reads: the streamed values by element (inactive ones absent), the slot, the mode. -/
structure Stream where
  xs   : List (Nat × Num)
  slot : Slot
  fmt  : Fmt
  cb   : Nat
  kind : Metric
  deriving DecidableEq, Repr

/-- Column n of a row after the word (R161): its bits, and the events; a marked weight or column traps, with TRAPELEM 0, for it is no
element of the word's. DESIGN CHOICE, log 73. -/
def Stream.column (x : Stream) (old : Row) (n : Nat) : Except Trap (Nat × Events) :=
  if old.marks.contains n || x.xs.any (fun (k, _) => x.slot.marked x.fmt x.cb n k) then .error (regPoison 0)
  else
    let col := x.slot.column x.cb n
    let ws := x.xs.map (fun (k, _) => if x.slot.tag = none then Num.fin false 0 0 else packedElem x.fmt col k)
    let terms := (x.xs.zip ws).map (fun (p, w) => term x.kind p.2 w)
    let sum := (terms.foldl Sum.add Sum.zero).num
    let a := old.numAt n
    let ops := a :: x.xs.map (·.2) ++ ws
    let finite := match a, sum with
      | .fin _ _ _, .fin _ _ _ => true
      | _, _ => false
    .ok (rowRound (addNum .ne a sum).1 finite (ops.any Num.isNan) (ops.any Num.isSig))

/-- The columns n to n + k - 1 of the row. -/
def rowCols (col : Nat → Except Trap (Nat × Events)) (n : Nat) : Nat → Except Trap (List Nat × Events)
  | 0 => .ok ([], noEvents)
  | k + 1 =>
    match col n with
    | .error e => .error e
    | .ok (b, ev) =>
      match rowCols col (n + 1) k with
      | .error e => .error e
      | .ok (l, ev') => .ok (b :: l, ev.join ev')

/-- The comparator chain (R163): the best column and its bits. -/
def chain (greatest tie : Bool) (cols : List Nat) : Nat × Nat :=
  let better (x y : Num) : Bool :=
    let c := if greatest then cmpNum x y else cmpNum y x
    0 < c || (c == 0 && tie)
  let go := (List.range cols.length).foldl (fun (best : Option Nat) n =>
    let x := decodeFloat .fp32 (cols.getD n 0)
    if x.isNan then best
    else match best with
      | none => some n
      | some b => if better x (decodeFloat .fp32 (cols.getD b 0)) then some n else some b) none
  match go with
  | some n => (n, cols.getD n 0)
  | none => (if tie then cols.length - 1 else 0, 0x7FC00000)

/-- The best register receives a winner (R164). -/
def State.setBest (s : State) (b : Nat × Nat) : State :=
  s.setMe { s.me with truss := { s.me.truss with tb := some (b.1, BitVec.ofNat 32 b.2) } }

/-- The elements streamed: below kn and active, in order (R161); a marked one traps. -/
def streamed (x : Src) (f : Fmt) (mask : Option (BitVec 4096)) (k : Nat) : Nat → Except Trap (List (Nat × Num))
  | 0 => .ok []
  | n + 1 =>
    match streamed x f mask (k + 1) n with
    | .error e => if activeAt mask k && (if f = .eb then x.blockMarked k else x.marked k) then .error (regPoison k)
                  else .error e
    | .ok l =>
      if !activeAt mask k then .ok l
      else if (if f = .eb then x.blockMarked k else x.marked k) then .error (regPoison k)
      else
        let v := if f = .eb then blockElem (x.span (80 * (k / 16)) 80) (k % 16) else decodeFloat f (x.raw k)
        .ok ((k, v) :: l)

/-- The bits of `n` elements of a truss type (R163). -/
def streamBitsOf (f : Fmt) (n : Nat) : Nat := if f = .eb then 80 * blocksFor n else f.width * n

/-- gs of R163 and R168: source exhausted below the limit, grant reached above it. -/
def rowGs (count limit done : Nat) : Nat := if count < limit then gsSource else if done < count then gsGrant else gsComplete

/-- TrussRow (R161) and the chain (R163). A marked governing mask comes before the truss's own causes of the journal and the row, a
marked source, weight or column after them, an order that the manual leaves open. DESIGN CHOICE, log 69. -/
def trussRow (i : Instr) (f : TMac) (dist : Bool) (s : State) : Host.Outcome State Fault Refusal :=
  run i (trussTyped (fun t depth cb s =>
    let slot := s.slotAt f.slot
    if slot.tag.isSome && slot.tag != some t.fmt then .trap (Trap.plain Cause.trussFormat) s
    else
      match s.maskCheck f.m with
      | .error e => .trap e s
      | .ok () =>
      match s.journalRows [f.row.val] with
      | .error e => .trap e s
      | .ok s' =>
        let x := s.srcOf (.plain t.fmt) t.g f.a.val
        let l := s.grantLen t
        let kn := min (min l depth) x.count
        let tm := s.me.truss.tm
        let kind := if !dist then Metric.product else if tmMetric tm = 1 then .squared else .absolute
        match streamed x t.fmt (s.maskOf f.m) 0 kn with
        | .error e => .trap e s
        | .ok xs =>
          let st : Stream := ⟨xs, slot, t.fmt, cb, kind⟩
          let old := s.rowAt f.row.val
          let edge := tmRowbase tm + f.row.val + tmDiag tm
          let col (n : Nat) : Except Trap (Nat × Events) :=
            if tmTri tm && edge < n then .ok (s.me.truss.tmc.toNat, noEvents) else st.column old n
          match rowCols col 0 s.columns with
          | .error e => .trap e s
          | .ok (cols, ev) =>
            let best := chain (!dist) (tmTie tm) cols
            let s' := s'.setRow f.row.val ⟨colsOf cols, old.count, []⟩
            let s' := s'.countEvents ev
            .done .seq ((s'.setBest best).report
              ⟨kn, 1, streamBitsOf t.fmt kn, 0, 32 * s.columns, rowGs x.count (min l depth) kn⟩))) s

def execTmac (f : TMac) (s : State) : Host.Outcome State Fault Refusal := trussRow (.tmac f) f false s
def execTdist (f : TMac) (s : State) : Host.Outcome State Fault Refusal := trussRow (.tdist f) f true s

/-! ### Row ranges (R165, R166, R170) -/

/-- Rows aN to aN + c - 1; a range past row 255 traps (R165). -/
def rowRange (row : Fin 256) (c : Word) : Except Trap (List Nat) :=
  if c = 0 then .ok []
  else if 256 < row.val + c.toNat then .error ⟨Cause.rowRange, 256, 0, none⟩
  else .ok ((List.range c.toNat).map (· + row.val))

/-- A range form: the range, the journal, then a change of every row with its events. -/
def rangeForm (i : Instr) (f : TRng) (op : State → Row → Except Trap (Row × Events)) (s : State) :
    Host.Outcome State Fault Refusal :=
  run i (fun s =>
    match rowRange f.row (s.sreg f.a) with
    | .error e => .trap e s
    | .ok rs =>
      match s.journalRows rs with
      | .error e => .trap e s
      | .ok s' =>
        match rs.foldl (fun (acc : Except Trap (State × Events)) r =>
            match acc with
            | .error e => .error e
            | .ok (st, ev) =>
              match op st (st.rowAt r) with
              | .error e => .error e
              | .ok (row, ev') => .ok (st.setRow r row, ev.join ev')) (.ok (s', noEvents)) with
        | .error e => .trap e s
        | .ok (st, ev) => .done .seq (st.countEvents ev)) s

/-- `tzero` (R166). -/
def execTzero (f : TRng) (s : State) : Host.Outcome State Fault Refusal :=
  rangeForm (.tzero f) f (fun _ _ => .ok (Row.zero, noEvents)) s

/-- A row divided by its count cell (R170); a row whose count is 0 stands. A marked column traps with TRAPELEM 0. DESIGN CHOICE, log 73. -/
def divRow (nc : Nat) (x : Row) : Except Trap (Row × Events) :=
  if x.count = 0 then .ok (x, noEvents)
  else
    let col (n : Nat) : Except Trap (Nat × Events) :=
      if x.marks.contains n then .error (regPoison 0)
      else
        let a := x.numAt n
        .ok (rowRound (divNum a (.fin false x.count 0)).1 (match a with
          | .fin _ _ _ => true
          | _ => false) a.isNan a.isSig)
    match rowCols col 0 nc with
    | .error e => .error e
    | .ok (l, ev) => .ok (⟨colsOf l, x.count, []⟩, ev)

/-- `tcdiv` (R170). -/
def execTcdiv (f : TRng) (s : State) : Host.Outcome State Fault Refusal :=
  rangeForm (.tcdiv f) f (fun s x => divRow s.columns x) s

/-- `tcget` (R166). -/
def execTcget (f : TRng) (s : State) : Host.Outcome State Fault Refusal :=
  run (.tcget f) (fun s => .done .seq (s.setS f.a (BitVec.ofNat 64 (s.rowAt f.row.val).count))) s

/-! ### Drain, fill and add (R167 to R169) -/

/-- Element n of a drained row: column n converted from fp32, or +0 (R167). -/
def State.drainElem (s : State) (t : VType) (row : Row) (mask : Option (BitVec 4096)) (n : Nat) (o : Out) : Formed Out :=
  let lay := s.layout t
  if !activeAt mask n then
    let (b, len) := zeroBits lay
    o.fit lay (t.budget s.gang) b len noFlags
  else if row.marks.contains n then .trap (regPoison n)
  else
    let (b, len, fl) := encodeResult (s.roundCtx t n) lay (roundVal (.num (row.numAt n)))
    o.fit lay (t.budget s.gang) b len fl

/-- `tdrain` (R167). -/
def execTdrain (f : TRow) (s : State) : Host.Outcome State Fault Refusal :=
  run (.tdrain f) (classed .movable f.m (fun t s =>
    match elemLoop (min (s.grantLen t) s.columns) [] (s.maskOf f.m) (s.drainElem t (s.rowAt f.row.val) (s.maskOf f.m))
        Out.zero with
    | .error e => .trap e s
    | .ok (n, gs, o) => .done .seq (s.finish t.g f.a.val o n ⟨n, n, 32 * n, 0, o.used, gs⟩))) s

/-- The exact value of a source element, as a float. -/
def numOfVal (v : Val) : Num :=
  match v with
  | .int x => .fin (x < 0) x.natAbs 0
  | .num n => n

/-- The columns of a row after the active elements below m act on them: the others stand. A marked column that `tfill` overwrites does
not trap (`needOld`): its bits still count among the operands of the nv event (R162), and its mark is cleared. DESIGN CHOICE, log 73. -/
def rowWith (x : Src) (mask : Option (BitVec 4096)) (m : Nat) (old : Row) (op : Num → Num → Nat × Events)
    (needOld : Bool) (n : Nat) : Except Trap (Nat × Events) :=
  if m ≤ n || !activeAt mask n then .ok (old.bitsAt n, noEvents)
  else
    match x.check n with
    | .error e => .error e
    | .ok () =>
      match x.val n with
      | .error e => .error e
      | .ok v =>
        if needOld && old.marks.contains n then .error (regPoison n)
        else .ok (op (old.numAt n) (numOfVal v))

/-- A word that writes row r from vA: journal, columns, count, events, grant file (R168, R169). -/
def rowFrom (t : VType) (a : Reg) (mk : Mask3) (r : Nat) (op : Num → Num → Nat × Events) (needOld countUp : Bool)
    (s : State) : Res :=
  if 255 < r then .trap ⟨Cause.rowRange, r, 0, none⟩ s
  else
    match s.journalRows [r] with
    | .error e => .trap e s
    | .ok s' =>
      let x := s.srcOf (s.layout t) t.g a.val
      let l := s.grantLen t
      let m := min (min l s.columns) x.count
      let mask := s.maskOf mk
      let old := s.rowAt r
      match rowCols (rowWith x mask m old op needOld) 0 s.columns with
      | .error e => .trap e s
      | .ok (cols, ev) =>
        let full := countUp && old.count == 4294967295
        let count := if countUp then min (old.count + 1) 4294967295 else old.count
        let marks := old.marks.filter (fun n => m ≤ n || !activeAt mask n)
        let s' := s'.setRow r ⟨colsOf cols, count, marks⟩
        let s' := s'.countEvents { ev with ov := ev.ov || full }
        .done .seq (s'.report ⟨m, m, x.start m, 0, 32 * m, rowGs x.count (min l s.columns) m⟩)

/-- The value rounded to fp32 (R168). The column's old value is an operand too (R162): a signalling NaN there counts where the
column becomes NaN; an infinite element rounds to its infinity without an overflow. -/
def fillCol (a v : Num) : Nat × Events :=
  rowRound (exactOf v) (match v with
    | .fin _ _ _ => true
    | _ => false) v.isNan (v.isSig || a.isSig)

/-- The value added to the column (R169). -/
def addCol (a v : Num) : Nat × Events :=
  rowRound (addNum .ne a v).1 (match a, v with
    | .fin _ _ _, .fin _ _ _ => true
    | _, _ => false) (a.isNan || v.isNan) (a.isSig || v.isSig)

/-- `tfill` (R168): gs compares the fill count with min(L, NC) and with m. -/
def execTfill (f : TRow) (s : State) : Host.Outcome State Fault Refusal :=
  run (.tfill f) (classed .movable f.m (fun t s => rowFrom t f.a f.m f.row.val fillCol false false s)) s

/-- `tcupd` (R169). The illegal type of eb comes before no best index, row range and journal overflow, an order that the manual leaves
open. DESIGN CHOICE, log 69. -/
def execTcupd (f : TRow) (s : State) : Host.Outcome State Fault Refusal :=
  run (.tcupd f) (classed .movable f.m (fun t s =>
    match s.me.truss.tb with
    | none => .trap (Trap.plain Cause.noBest) s
    | some (i, _) => rowFrom t f.a f.m (f.row.val + i) addCol true true s)) s

/-- `tacc` (R169). -/
def execTacc (f : TRow) (s : State) : Host.Outcome State Fault Refusal :=
  run (.tacc f) (classed .movable f.m (fun t s => rowFrom t f.a f.m f.row.val addCol true false s)) s

end Sys2Proof.Machine
end

