-- ==== Sys2Proof/Machine/VecMask.lean ====
section
/-!
DEFINITION. Major 0x2D: operations on mask registers (R152). They write no grant register and raise no flag.
-/

namespace Sys2Proof.Machine

/-- Mask register k. -/
def State.maskReg (s : State) (k : Reg) : BitVec 4096 := s.me.masks.toList.getD k.val 0

/-- A marked element below a limit in an operand traps (R315, R316). -/
def State.masksOk (s : State) (ks : List Reg) (lim : Nat) : Except Trap Unit :=
  match ks.findSome? (fun k => s.me.maskMark k.val lim) with
  | none => .ok ()
  | some n => .error (regPoison n)

/-- A word that writes mD from mask registers. -/
def maskOp (i : Instr) (d : Reg) (ks : List Reg) (op : State → BitVec 4096) (s : State) :
    Host.Outcome State Fault Refusal :=
  run i (fun s =>
    match s.masksOk ks 4096 with
    | .error e => .trap e s
    | .ok () => .done .seq (s.writeMask d.val (op s))) s

def execMand (f : R3) (s : State) : Host.Outcome State Fault Refusal :=
  maskOp (.mand f) f.d [f.a, f.b] (fun s => s.maskReg f.a &&& s.maskReg f.b) s
def execMor (f : R3) (s : State) : Host.Outcome State Fault Refusal :=
  maskOp (.mor f) f.d [f.a, f.b] (fun s => s.maskReg f.a ||| s.maskReg f.b) s
def execMxor (f : R3) (s : State) : Host.Outcome State Fault Refusal :=
  maskOp (.mxor f) f.d [f.a, f.b] (fun s => s.maskReg f.a ^^^ s.maskReg f.b) s
def execMandn (f : R3) (s : State) : Host.Outcome State Fault Refusal :=
  maskOp (.mandn f) f.d [f.a, f.b] (fun s => s.maskReg f.a &&& ~~~(s.maskReg f.b)) s
def execMnot (f : R2) (s : State) : Host.Outcome State Fault Refusal :=
  maskOp (.mnot f) f.d [f.a] (fun s => ~~~(s.maskReg f.a)) s

/-- `mlen`: ones below min(sA, 4,096). -/
def execMlen (f : R2) (s : State) : Host.Outcome State Fault Refusal :=
  maskOp (.mlen f) f.d [] (fun s => BitVec.ofNat 4096 (2 ^ min (s.sreg f.a).toNat 4096 - 1)) s

/-- The number of set bits below L. -/
def setBelow (b : BitVec 4096) : Nat → Nat
  | 0 => 0
  | n + 1 => setBelow b n + (if b.getLsbD n then 1 else 0)

/-- The lowest set bit from i on among n bits, or where the search ends. -/
def firstSet (b : BitVec 4096) (i : Nat) : Nat → Nat
  | 0 => i
  | n + 1 => if b.getLsbD i then i else firstSet b (i + 1) n

/-- A word that writes sD from a mask register and L = min(gl, EMAX). -/
def maskRead (i : Instr) (f : R2) (op : BitVec 4096 → Nat → Nat) (s : State) : Host.Outcome State Fault Refusal :=
  run i (fun s =>
    match s.masksOk [f.a] (s.grantLen s.typeOr) with
    | .error e => .trap e s
    | .ok () => .done .seq (s.setS f.d (BitVec.ofNat 64 (op (s.maskReg f.a) (s.grantLen s.typeOr))))) s

def execMpop (f : R2) (s : State) : Host.Outcome State Fault Refusal := maskRead (.mpop f) f setBelow s
def execMfirst (f : R2) (s : State) : Host.Outcome State Fault Refusal :=
  maskRead (.mfirst f) f (fun b l => firstSet b 0 l) s

end Sys2Proof.Machine
end

