-- ==== Sys2Proof/Machine/VecReduce.lean ====
section
/-!
DEFINITION. Major 0x2C: reductions and scans (R45, R46, R149 to R151).
-/

namespace Sys2Proof.Machine

/-- A result rounded to a layout, as a value. -/
def roundToVal (c : RoundCtx) (lay : Layout) (r : Result) : Val × FlagSet :=
  match r with
  | .int v =>
    let (w, sg) := intShape lay
    let (x, fl) := fitInt sg c.sat w v
    (.int (intOf sg w x), fl)
  | .num x fl =>
    let sp := match lay with
      | .plain f => f.spec
      | .code k => specPzf k.p
    let (n, fl') := roundNum c sp x
    (.num n, fl.join fl')

/-- A value written as it stands: a plain NaN keeps its bits, a code is canonical (R35). -/
def encodeVal (c : RoundCtx) (lay : Layout) (v : Val) : Nat × Nat :=
  match lay, v with
  | .plain f, .num (.nan sg p true) =>
    (encodeFloat f (.inf sg) + p / 2 ^ (23 - f.spec.p), f.width)
  | _, .int x => let (b, len, _) := encodeResult c lay (.int x); (b, len)
  | _, .num n => let (b, len, _) := encodeResult { c with det := false } lay (.num (exactOf n) noFlags); (b, len)

/-- One rounded addition of a fold, with the random word of element i (R45, R149). -/
def State.addStep (s : State) (t : VType) (i : Nat) (acc x : Val) : Val × FlagSet :=
  roundToVal (s.roundCtx t i) (s.layout t) (bin (· + ·) (addNum t.rm) [acc, x])

/-- A fold in progress: its value, the source bits of the result written so far, flags. -/
structure Fold where
  acc : Val
  out : Out
  deriving DecidableEq, Repr

/-- The operands of a reduction: vA, and the initial value with its length (R149). -/
def State.foldInit (s : State) (t : VType) (b : Reg) : Except Trap (Val × Nat) :=
  let y := s.srcOf (s.layout t) t.g b.val
  if y.count = 0 then .ok (zeroVal (s.layout t), 0)
  else
    match y.check 0 with
    | .error e => .error e
    | .ok () =>
      match y.val 0 with
      | .error e => .error e
      | .ok v => .ok (v, y.size 0)

/-- What a reduction reports: the result as element 0, or nothing consumed when it exceeds the budget (R149). -/
def State.reduceDone (s : State) (t : VType) (d : Reg) (x : Src) (gb n gs : Nat) (v : Val) (fl : FlagSet) : State :=
  let lay := s.layout t
  let (b, len) := encodeVal (s.roundCtx t 0) lay v
  match (Out.zero).fit lay (t.budget s.gang) b len fl with
  | .put o => s.finish t.g d.val o 1 ⟨n, 1, x.start n, gb, o.used, gs⟩
  | _ => s.finish t.g d.val Out.zero 0 ⟨0, 0, 0, 0, 0, gsFull⟩

/-- Element i of a reduction: the step of an active one. -/
def foldElem (x : Src) (mask : Option (BitVec 4096)) (step : Nat → Val → Val → Val × FlagSet) (i : Nat)
    (a : Val × FlagSet) : Formed (Val × FlagSet) :=
  match x.check i with
  | .error e => .trap e
  | .ok () =>
    if !activeAt mask i then .put a
    else
      match x.val i with
      | .error e => .trap e
      | .ok v => let (r, fl) := step i a.1 v; .put (r, a.2.join fl)

/-- A reduction by a left fold. -/
def reduce (i : Instr) (f : V3) (step : State → VType → Nat → Val → Val → Val × FlagSet) (s : State) :
    Host.Outcome State Fault Refusal :=
  run i (classed .arith f.m (fun t s =>
    match s.foldInit t f.b with
    | .error e => .trap e s
    | .ok (v, gb) =>
      let x := s.srcOf (s.layout t) t.g f.a.val
      match elemLoop (s.grantLen t) [x.count] (s.maskOf f.m) (foldElem x (s.maskOf f.m) (step s t)) (v, noFlags) with
      | .error e => .trap e s
      | .ok (n, gs, r, fl) => .done .seq (s.reduceDone t f.d x gb n gs r fl))) s

/-- `vredo` (R149). -/
def execVredo (f : V3) (s : State) : Host.Outcome State Fault Refusal :=
  reduce (.vredo f) f (fun s t i a x => s.addStep t i a x) s

/-- Element i of an ordered scan: the accumulator after it, written as element i. -/
def State.scanElem (s : State) (t : VType) (x : Src) (mask : Option (BitVec 4096)) (i : Nat) (a : Fold) : Formed Fold :=
  match x.check i with
  | .error e => .trap e
  | .ok () =>
    let step : Except Trap (Val × FlagSet) :=
      if !activeAt mask i then .ok (a.acc, noFlags)
      else
        match x.val i with
        | .error e => .error e
        | .ok v => .ok (s.addStep t i a.acc v)
    match step with
    | .error e => .trap e
    | .ok (r, fl) =>
      let (b, len) := encodeVal (s.roundCtx t i) (s.layout t) r
      match a.out.fit (s.layout t) (t.budget s.gang) b len fl with
      | .put o => .put ⟨r, o⟩
      | .full => .full
      | .trap e => .trap e

/-- `vscano` (R149). Its gb is that of `vredo`: the bits of element 0 of vB, at a stop at element 0 too. DESIGN CHOICE, log 64. -/
def execVscano (f : V3) (s : State) : Host.Outcome State Fault Refusal :=
  run (.vscano f) (classed .arith f.m (fun t s =>
    match s.foldInit t f.b with
    | .error e => .trap e s
    | .ok (v, gb) =>
      let x := s.srcOf (s.layout t) t.g f.a.val
      match elemLoop (s.grantLen t) [x.count] (s.maskOf f.m) (s.scanElem t x (s.maskOf f.m)) ⟨v, Out.zero⟩ with
      | .error e => .trap e s
      | .ok (n, gs, r) =>
        .done .seq (s.finish t.g f.d.val r.out n ⟨n, n, x.start n, gb, r.out.used, gs⟩))) s

/-! ### Unordered folds (R46, R150) -/

/-- Remove entry k of a list, with the entry. -/
def takeAt {α : Type} (l : List α) (k : Nat) : Option (α × List α) :=
  match l, k with
  | [], _ => none
  | x :: t, 0 => some (x, t)
  | x :: t, k + 1 =>
    match takeAt t k with
    | none => none
    | some (y, r) => some (y, x :: r)

/-- Some binary fold of values with their highest element positions: two entries picked freely are joined by a rounded
addition until one is left. Free value: the picks, log 7. -/
def State.anyFold (s : State) (t : VType) (free : Nat) (l : List (Val × Nat)) (fl : FlagSet) : Nat → Val × FlagSet × Nat
  | 0 => ((l.head?.map (·.1)).getD (.int 0), fl, free)
  | n + 1 =>
    match takeAt l (Config.freePick free % max 1 l.length) with
    | none => ((l.head?.map (·.1)).getD (.int 0), fl, free)
    | some (x, rest) =>
      match takeAt rest (Config.freePick (free + 1) % max 1 rest.length) with
      | none => (x.1, fl, free)
      | some (y, rest) =>
        let i := max x.2 y.2
        let (r, fl') := s.addStep t i x.1 y.1
        s.anyFold t (free + 2) ((r, i) :: rest) (fl.join fl') n

/-- Element i of an unordered reduction: the active ones are collected. -/
def collectElem (x : Src) (mask : Option (BitVec 4096)) (i : Nat) (l : List (Val × Nat)) : Formed (List (Val × Nat)) :=
  match x.check i with
  | .error e => .trap e
  | .ok () =>
    if !activeAt mask i then .put l
    else
      match x.val i with
      | .error e => .trap e
      | .ok v => .put (l ++ [(v, i)])

/-- Under DET an unordered word traps, first of step 7 (R150). -/
def unordered (body : State → Res) (s : State) : Res :=
  if s.me.ctl.det.getLsbD 0 then .trap (Trap.plain Cause.unordered) s else body s

/-- `vredt` (R150). -/
def execVredt (f : V3) (s : State) : Host.Outcome State Fault Refusal :=
  run (.vredt f) (unordered (classed .arith f.m (fun t s =>
    match s.foldInit t f.b with
    | .error e => .trap e s
    | .ok (v, gb) =>
      let x := s.srcOf (s.layout t) t.g f.a.val
      match elemLoop (s.grantLen t) [x.count] (s.maskOf f.m) (collectElem x (s.maskOf f.m)) [(v, 0)] with
      | .error e => .trap e s
      | .ok (n, gs, l) =>
        let (r, fl, free) := s.anyFold t s.free l noFlags l.length
        .done .seq (({ s with free := free }).reduceDone t f.d x gb n gs r fl)))) s

/-- An unordered scan in progress: the values so far, the fold last written, the result, the counter of picks. -/
structure Scanf where
  vals : List (Val × Nat)
  acc  : Val
  out  : Out
  free : Nat
  deriving DecidableEq, Repr

/-- Element i of an unordered scan: some fold of the values up to it, written as element i; an inactive element repeats
the fold before it. -/
def State.scanfElem (s : State) (t : VType) (x : Src) (mask : Option (BitVec 4096)) (i : Nat) (a : Scanf) :
    Formed Scanf :=
  match collectElem x mask i a.vals with
  | .trap e => .trap e
  | .full => .full
  | .put l =>
    let (r, fl, free) := if activeAt mask i then s.anyFold t a.free l noFlags l.length else (a.acc, noFlags, a.free)
    let (b, len) := encodeVal (s.roundCtx t i) (s.layout t) r
    match a.out.fit (s.layout t) (t.budget s.gang) b len fl with
    | .put o => .put ⟨l, r, o, free⟩
    | .full => .full
    | .trap e => .trap e

/-- `vscanf` (R150), with the reporting of `vscano`. DESIGN CHOICE for gb, log 64. -/
def execVscanf (f : V3) (s : State) : Host.Outcome State Fault Refusal :=
  run (.vscanf f) (unordered (classed .arith f.m (fun t s =>
    match s.foldInit t f.b with
    | .error e => .trap e s
    | .ok (v, gb) =>
      let x := s.srcOf (s.layout t) t.g f.a.val
      match elemLoop (s.grantLen t) [x.count] (s.maskOf f.m) (s.scanfElem t x (s.maskOf f.m))
          ⟨[(v, 0)], v, Out.zero, s.free⟩ with
      | .error e => .trap e s
      | .ok (n, gs, r) =>
        .done .seq (({ s with free := r.free }).finish t.g f.d.val r.out n
          ⟨n, n, x.start n, gb, r.out.used, gs⟩)))) s

/-! ### Least and greatest (R151) -/

/-- One step: the first NaN in operand order stands, quietened; a signalling one sets NV. -/
def State.extremeStep (s : State) (t : VType) (onInt : Int → Int → Int) (onNum : Num → Num → Exact × FlagSet) (i : Nat)
    (acc x : Val) : Val × FlagSet :=
  roundToVal { s.roundCtx t i with det := false } (s.layout t) (bin onInt onNum [acc, x])

/-- The value written: a NaN is quietened, or canonical under DET, and a signalling initial value sets NV. -/
def State.extremeDone (s : State) (v : Val) (fl : FlagSet) : Val × FlagSet :=
  match v with
  | .int _ => (v, fl)
  | .num n =>
    if n.isNan then
      (.num (if s.me.ctl.det.getLsbD 0 then Num.qnan else (match nanOf [n] with
        | .nan q => q
        | _ => Num.qnan)), fl.join (sigFlag [n]))
    else (v, fl)

/-- `vredmin` and `vredmax`. -/
def extreme (i : Instr) (f : V3) (onInt : Int → Int → Int) (onNum : Num → Num → Exact × FlagSet) (s : State) :
    Host.Outcome State Fault Refusal :=
  run i (classed .arith f.m (fun t s =>
    match s.foldInit t f.b with
    | .error e => .trap e s
    | .ok (v, gb) =>
      let x := s.srcOf (s.layout t) t.g f.a.val
      match elemLoop (s.grantLen t) [x.count] (s.maskOf f.m)
          (foldElem x (s.maskOf f.m) (s.extremeStep t onInt onNum)) (v, noFlags) with
      | .error e => .trap e s
      | .ok (n, gs, r, fl) =>
        let (r, fl) := s.extremeDone r fl
        .done .seq (s.reduceDone t f.d x gb n gs r fl))) s

def execVredmin (f : V3) (s : State) : Host.Outcome State Fault Refusal := extreme (.vredmin f) f min minNum s
def execVredmax (f : V3) (s : State) : Host.Outcome State Fault Refusal := extreme (.vredmax f) f max maxNum s

end Sys2Proof.Machine
end

