-- ==== Sys2Proof/Machine/VectorConfig.lean ====
section
/-!
DEFINITION. Major 0x20: `vtype`, `mfg`, `zctw`, `zcswap`, and the events of a class-table swap (R28 to R30, R104, R107).
-/

namespace Sys2Proof.Machine

/-- `vtype` (R104): the type and its EMAX, or invalid and 0. -/
def execVtype (f : R2) (s : State) : Host.Outcome State Fault Refusal :=
  run (.vtype f) (fun s =>
    let t := vtOfImage (s.sreg f.a)
    let cap := match t with | some t => BitVec.ofNat 64 (t.emax s.gang) | none => 0
    .done .seq ((s.setMe { s.me with vt := t }).setS f.d cap)) s

/-- The item that `mfg` reads (R107). -/
def grantItem (m : Seq) (sel : Nat) (a : Reg) : Word :=
  match sel with
  | 0 => m.grant.gl
  | 1 => m.grant.gk
  | 2 => m.grant.gp
  | 3 => m.grant.ga
  | 4 => m.grant.gb
  | 5 => m.grant.gd
  | 6 => m.grant.gs.setWidth 64
  | 7 => vtImage m.vt
  | 8 => BitVec.ofNat 64 (m.vregs.get a).count
  | _ => BitVec.ofNat 64 (m.vregs.get a).len

def execMfg (f : R3) (s : State) : Host.Outcome State Fault Refusal :=
  run (.mfg f) (fun s => .done .seq (s.setS f.d (grantItem s.me f.b.val f.a))) s

/-! ### Class tables -/

/-- The widths that bits 7c+6 to 7c of sA give (R29). -/
def widthsOf (x : Word) : Widths := Vector.ofFn (fun c : Fin 8 => x.toNat / 2 ^ (7 * c.val) % 128)

/-- WellFormed(T, t) (R27): tables 0 and 1 are integer tables, 2 and 3 float tables. -/
def wellFormedTable (t : Widths) (n : Nat) : Bool :=
  if n < 2 then
    t.toList.all (fun w => w ≤ 64) && 2 ^ 64 ≤ (t.toList.foldl (fun a w => a + 2 ^ w) 0)
  else
    t[0] == 0 && t[7] == 0 && t.toList.all (fun w => w ≤ 8)

/-- `zctw` (R29). -/
def execZctw (f : R2) (s : State) : Host.Outcome State Fault Refusal :=
  run (.zctw f) (fun s =>
    let x := s.sreg f.a
    let t := widthsOf x
    if x.toNat / 2 ^ 56 ≠ 0 ∨ wellFormedTable t f.d.val = false then .trap (Trap.plain Cause.illegalTable) s
    else
      let u := upperOf s.cur
      let up := s.upperAt u
      if h : f.d.val < 4 then
        .done .seq (s.setUpper u { up with shadow := up.shadow.set f.d.val t h })
      else .trap (Trap.plain Cause.illegalInstruction) s) s

/-- Some sequencer of the upper has a strip open (R30); a strip that the hardware restarts counts as open (R293). -/
def State.stripOpenOn (s : State) (u : Nat) : Bool :=
  (List.range 4).any (fun k => (s.seqAt (4 * u + k)).strip.isSome || (s.seqAt (4 * u + k)).replay)

/-- An engine command of the upper still decodes under an older generation (R30, R276). -/
def State.olderHeld (s : State) (u : Nat) : Bool :=
  s.cmds.any (fun (_, c) => upperOf c.seq == u &&
    (match c.kind with
     | .expand _ _ _ _ _ _ _ _ g => g != (s.upperAt u).gen
     | _ => false))

/-- The swap takes effect: active copies become the shadow copies, and the generation advances (R30). -/
def State.swapTables (s : State) (u : Nat) : State :=
  let up := s.upperAt u
  s.setUpper u { up with active := up.shadow, gen := up.gen + 1 }

/-- The swap may take effect now: no strip of the upper is open and no older generation is held (R30). -/
def State.swapReady (s : State) (u : Nat) : Bool := !s.stripOpenOn u && !s.olderHeld u

/-- CLASS_TABLE_SWAP (R30): once a `zcswap` of the upper waits and nothing keeps it waiting, the swap takes effect. Before
that the event does nothing. -/
def execClassTableSwap (u : Nat) (s : State) : Host.Outcome State Fault Refusal :=
  match (s.upperAt u).swapWait with
  | some (q, false, w) =>
    if s.swapReady u then
      let s := s.swapTables u
      .next (s.setUpper u { s.upperAt u with swapWait := some (q, true, w) })
    else .next s
  | _ => .next s

/-- GENERATION_DRAIN (R30): the last instruction of the old generation has finished, so the `zcswap` that made the swap
completes. While a command still holds the old generation the event does nothing. -/
def execGenerationDrain (u : Nat) (s : State) : Host.Outcome State Fault Refusal :=
  match (s.upperAt u).swapWait with
  | some (q, true, w) =>
    if s.olderHeld u then .next s
    else
      let c := s.cur
      let s := { s.setUpper u { s.upperAt u with swapWait := none } with cur := q }
      .next { s.retire (.zcswap ⟨w⟩) .seq with cur := c }
  | _ => .next s

/-- `zcswap` (R30): it waits at issue until no strip of the upper is open and no older generation is held; then the swap
takes effect; it passes when no instruction holds the old generation. One that finds another's swap under way waits behind
it. -/
def execZcswap (f : Bare) (s : State) : Host.Outcome State Fault Refusal :=
  run (.zcswap f) (fun s =>
    let u := upperOf s.cur
    let up := s.upperAt u
    match up.swapWait with
    | none =>
      let s := s.setUpper u { up with swapQueue := up.behind s.cur }
      if s.swapReady u then
        let s := s.swapTables u
        if s.olderHeld u then .wait (s.setUpper u { s.upperAt u with swapWait := some (s.cur, true, f.w) })
        else .done .seq s
      else .wait (s.setUpper u { s.upperAt u with swapWait := some (s.cur, false, f.w) })
    | some (q, swapped, _) =>
      if q ≠ s.cur then .wait (s.setUpper u { up with swapQueue := up.behind s.cur ++ [s.cur] })
      else if swapped then
        (if s.olderHeld u then .wait s else .done .seq (s.setUpper u { up with swapWait := none }))
      else .wait s) s

end Sys2Proof.Machine
end

