-- ==== Sys2Proof/Machine/Dispatch.lean ====
section
/-!
DEFINITION. One arm per constructor of `Instr`, each a direct call of its meaning.
-/

namespace Sys2Proof.Machine

def exec (i : Instr) (s : State) : Host.Outcome State Fault Refusal :=
  match i with
  | .add f => Sys2Proof.Machine.execAdd f s
  | .sub f => Sys2Proof.Machine.execSub f s
  | .and f => Sys2Proof.Machine.execAnd f s
  | .or f => Sys2Proof.Machine.execOr f s
  | .xor f => Sys2Proof.Machine.execXor f s
  | .andn f => Sys2Proof.Machine.execAndn f s
  | .sll f => Sys2Proof.Machine.execSll f s
  | .srl f => Sys2Proof.Machine.execSrl f s
  | .sra f => Sys2Proof.Machine.execSra f s
  | .rol f => Sys2Proof.Machine.execRol f s
  | .slt f => Sys2Proof.Machine.execSlt f s
  | .sltn f => Sys2Proof.Machine.execSltn f s
  | .seq f => Sys2Proof.Machine.execSeq f s
  | .min f => Sys2Proof.Machine.execMin f s
  | .max f => Sys2Proof.Machine.execMax f s
  | .minn f => Sys2Proof.Machine.execMinn f s
  | .maxn f => Sys2Proof.Machine.execMaxn f s
  | .addw f => Sys2Proof.Machine.execAddw f s
  | .subw f => Sys2Proof.Machine.execSubw f s
  | .adds1 f => Sys2Proof.Machine.execAdds1 f s
  | .adds2 f => Sys2Proof.Machine.execAdds2 f s
  | .adds3 f => Sys2Proof.Machine.execAdds3 f s
  | .slli f => Sys2Proof.Machine.execSlli f s
  | .srli f => Sys2Proof.Machine.execSrli f s
  | .srai f => Sys2Proof.Machine.execSrai f s
  | .roli f => Sys2Proof.Machine.execRoli f s
  | .mul f => Sys2Proof.Machine.execMul f s
  | .mulh f => Sys2Proof.Machine.execMulh f s
  | .mulhn f => Sys2Proof.Machine.execMulhn f s
  | .div f => Sys2Proof.Machine.execDiv f s
  | .divn f => Sys2Proof.Machine.execDivn f s
  | .rem f => Sys2Proof.Machine.execRem f s
  | .remn f => Sys2Proof.Machine.execRemn f s
  | .clz f => Sys2Proof.Machine.execClz f s
  | .ctz f => Sys2Proof.Machine.execCtz f s
  | .cpop f => Sys2Proof.Machine.execCpop f s
  | .bext f => Sys2Proof.Machine.execBext f s
  | .bins f => Sys2Proof.Machine.execBins f s
  | .addi f => Sys2Proof.Machine.execAddi f s
  | .andi f => Sys2Proof.Machine.execAndi f s
  | .ori f => Sys2Proof.Machine.execOri f s
  | .xori f => Sys2Proof.Machine.execXori f s
  | .lih f => Sys2Proof.Machine.execLih f s
  | .ldxb f => Sys2Proof.Machine.execLdxb f s
  | .ldxbn f => Sys2Proof.Machine.execLdxbn f s
  | .ldxh f => Sys2Proof.Machine.execLdxh f s
  | .ldxhn f => Sys2Proof.Machine.execLdxhn f s
  | .ldxw f => Sys2Proof.Machine.execLdxw f s
  | .ldxwn f => Sys2Proof.Machine.execLdxwn f s
  | .ldxd f => Sys2Proof.Machine.execLdxd f s
  | .stxb f => Sys2Proof.Machine.execStxb f s
  | .stxh f => Sys2Proof.Machine.execStxh f s
  | .stxw f => Sys2Proof.Machine.execStxw f s
  | .stxd f => Sys2Proof.Machine.execStxd f s
  | .cwb f => Sys2Proof.Machine.execCwb f s
  | .czero f => Sys2Proof.Machine.execCzero f s
  | .ldd f => Sys2Proof.Machine.execLdd f s
  | .ldw f => Sys2Proof.Machine.execLdw f s
  | .ldwn f => Sys2Proof.Machine.execLdwn f s
  | .std f => Sys2Proof.Machine.execStd f s
  | .stw f => Sys2Proof.Machine.execStw f s
  | .lr f => Sys2Proof.Machine.execLr f s
  | .lrw f => Sys2Proof.Machine.execLrw f s
  | .sc f => Sys2Proof.Machine.execSc f s
  | .scw f => Sys2Proof.Machine.execScw f s
  | .pref f => Sys2Proof.Machine.execPref f s
  | .beq f => Sys2Proof.Machine.execBeq f s
  | .bne f => Sys2Proof.Machine.execBne f s
  | .blt f => Sys2Proof.Machine.execBlt f s
  | .bge f => Sys2Proof.Machine.execBge f s
  | .bltn f => Sys2Proof.Machine.execBltn f s
  | .bgen f => Sys2Proof.Machine.execBgen f s
  | .jal f => Sys2Proof.Machine.execJal f s
  | .jalr f => Sys2Proof.Machine.execJalr f s
  | .rdpc f => Sys2Proof.Machine.execRdpc f s
  | .loop f => Sys2Proof.Machine.execLoop f s
  | .loopi f => Sys2Proof.Machine.execLoopi f s
  | .lpop f => Sys2Proof.Machine.execLpop f s
  | .lbrk f => Sys2Proof.Machine.execLbrk f s
  | .lcnt f => Sys2Proof.Machine.execLcnt f s
  | .ldep f => Sys2Proof.Machine.execLdep f s
  | .bgs f => Sys2Proof.Machine.execBgs f s
  | .bgsn f => Sys2Proof.Machine.execBgsn f s
  | .mfc f => Sys2Proof.Machine.execMfc f s
  | .mtc f => Sys2Proof.Machine.execMtc f s
  | .mcset f => Sys2Proof.Machine.execMcset f s
  | .mcclr f => Sys2Proof.Machine.execMcclr f s
  | .rft f => Sys2Proof.Machine.execRft f s
  | .trap f => Sys2Proof.Machine.execTrap f s
  | .ifence f => Sys2Proof.Machine.execIfence f s
  | .pause f => Sys2Proof.Machine.execPause f s
  | .sdrain f => Sys2Proof.Machine.execSdrain f s
  | .halt f => Sys2Proof.Machine.execHalt f s
  | .vtype f => Sys2Proof.Machine.execVtype f s
  | .mfg f => Sys2Proof.Machine.execMfg f s
  | .zctw f => Sys2Proof.Machine.execZctw f s
  | .zcswap f => Sys2Proof.Machine.execZcswap f s
  | .strip f => Sys2Proof.Machine.execStrip f s
  | .sclose f => Sys2Proof.Machine.execSclose f s
  | .scloseRel f => Sys2Proof.Machine.execScloseRel f s
  | .zld f => Sys2Proof.Machine.execZld f s
  | .zst f => Sys2Proof.Machine.execZst f s
  | .zfind f => Sys2Proof.Machine.execZfind f s
  | .zskip f => Sys2Proof.Machine.execZskip f s
  | .vld f => Sys2Proof.Machine.execVld f s
  | .vlds f => Sys2Proof.Machine.execVlds f s
  | .vldb f => Sys2Proof.Machine.execVldb f s
  | .vldo f => Sys2Proof.Machine.execVldo f s
  | .vldso f => Sys2Proof.Machine.execVldso f s
  | .vldx f => Sys2Proof.Machine.execVldx f s
  | .vldxo f => Sys2Proof.Machine.execVldxo f s
  | .vst f => Sys2Proof.Machine.execVst f s
  | .vsts f => Sys2Proof.Machine.execVsts f s
  | .vstc f => Sys2Proof.Machine.execVstc f s
  | .vsto f => Sys2Proof.Machine.execVsto f s
  | .vstso f => Sys2Proof.Machine.execVstso f s
  | .vstx f => Sys2Proof.Machine.execVstx f s
  | .vstxo f => Sys2Proof.Machine.execVstxo f s
  | .vadd f => Sys2Proof.Machine.execVadd f s
  | .vsub f => Sys2Proof.Machine.execVsub f s
  | .vmul f => Sys2Proof.Machine.execVmul f s
  | .vdiv f => Sys2Proof.Machine.execVdiv f s
  | .vmin f => Sys2Proof.Machine.execVmin f s
  | .vmax f => Sys2Proof.Machine.execVmax f s
  | .vabsd f => Sys2Proof.Machine.execVabsd f s
  | .vand f => Sys2Proof.Machine.execVand f s
  | .vor f => Sys2Proof.Machine.execVor f s
  | .vxor f => Sys2Proof.Machine.execVxor f s
  | .vsll f => Sys2Proof.Machine.execVsll f s
  | .vsrl f => Sys2Proof.Machine.execVsrl f s
  | .vsra f => Sys2Proof.Machine.execVsra f s
  | .vneg f => Sys2Proof.Machine.execVneg f s
  | .vabs f => Sys2Proof.Machine.execVabs f s
  | .vsqrt f => Sys2Proof.Machine.execVsqrt f s
  | .vmov f => Sys2Proof.Machine.execVmov f s
  | .vadds f => Sys2Proof.Machine.execVadds f s
  | .vmuls f => Sys2Proof.Machine.execVmuls f s
  | .vbcast f => Sys2Proof.Machine.execVbcast f s
  | .vid f => Sys2Proof.Machine.execVid f s
  | .vfma f => Sys2Proof.Machine.execVfma f s
  | .vfms f => Sys2Proof.Machine.execVfms f s
  | .vfnma f => Sys2Proof.Machine.execVfnma f s
  | .vtsum f => Sys2Proof.Machine.execVtsum f s
  | .vtprod f => Sys2Proof.Machine.execVtprod f s
  | .vceq f => Sys2Proof.Machine.execVceq f s
  | .vcne f => Sys2Proof.Machine.execVcne f s
  | .vclt f => Sys2Proof.Machine.execVclt f s
  | .vcle f => Sys2Proof.Machine.execVcle f s
  | .vcnan f => Sys2Proof.Machine.execVcnan f s
  | .vcvt f => Sys2Proof.Machine.execVcvt f s
  | .vqnt f => Sys2Proof.Machine.execVqnt f s
  | .vdqnt f => Sys2Proof.Machine.execVdqnt f s
  | .vsel f => Sys2Proof.Machine.execVsel f s
  | .vslup f => Sys2Proof.Machine.execVslup f s
  | .vsldn f => Sys2Proof.Machine.execVsldn f s
  | .vperm f => Sys2Proof.Machine.execVperm f s
  | .vcomp f => Sys2Proof.Machine.execVcomp f s
  | .vredo f => Sys2Proof.Machine.execVredo f s
  | .vredt f => Sys2Proof.Machine.execVredt f s
  | .vscano f => Sys2Proof.Machine.execVscano f s
  | .vscanf f => Sys2Proof.Machine.execVscanf f s
  | .vredmin f => Sys2Proof.Machine.execVredmin f s
  | .vredmax f => Sys2Proof.Machine.execVredmax f s
  | .mand f => Sys2Proof.Machine.execMand f s
  | .mor f => Sys2Proof.Machine.execMor f s
  | .mxor f => Sys2Proof.Machine.execMxor f s
  | .mandn f => Sys2Proof.Machine.execMandn f s
  | .mnot f => Sys2Proof.Machine.execMnot f s
  | .mlen f => Sys2Proof.Machine.execMlen f s
  | .mpop f => Sys2Proof.Machine.execMpop f s
  | .mfirst f => Sys2Proof.Machine.execMfirst f s
  | .tmac f => Sys2Proof.Machine.execTmac f s
  | .tdist f => Sys2Proof.Machine.execTdist f s
  | .tcupd f => Sys2Proof.Machine.execTcupd f s
  | .tacc f => Sys2Proof.Machine.execTacc f s
  | .tdrain f => Sys2Proof.Machine.execTdrain f s
  | .tfill f => Sys2Proof.Machine.execTfill f s
  | .tzero f => Sys2Proof.Machine.execTzero f s
  | .tcdiv f => Sys2Proof.Machine.execTcdiv f s
  | .tcget f => Sys2Proof.Machine.execTcget f s
  | .tld f => Sys2Proof.Machine.execTld f s
  | .tmode f => Sys2Proof.Machine.execTmode f s
  | .tmodr f => Sys2Proof.Machine.execTmodr f s
  | .tmodc f => Sys2Proof.Machine.execTmodc f s
  | .tbest f => Sys2Proof.Machine.execTbest f s
  | .tcnt f => Sys2Proof.Machine.execTcnt f s
  | .cfun f => Sys2Proof.Machine.execCfun f s
  | .ccor f => Sys2Proof.Machine.execCcor f s
  | .cseq f => Sys2Proof.Machine.execCseq f s
  | .cpar f => Sys2Proof.Machine.execCpar f s
  | .cpipe f => Sys2Proof.Machine.execCpipe f s
  | .cfarm f => Sys2Proof.Machine.execCfarm f s
  | .cloop f => Sys2Proof.Machine.execCloop f s
  | .capply f => Sys2Proof.Machine.execCapply f s
  | .cret f => Sys2Proof.Machine.execCret f s
  | .cyield f => Sys2Proof.Machine.execCyield f s
  | .wid f => Sys2Proof.Machine.execWid f s
  | .chput f => Sys2Proof.Machine.execChput f s
  | .chget f => Sys2Proof.Machine.execChget f s
  | .barv f => Sys2Proof.Machine.execBarv f s
  | .barw f => Sys2Proof.Machine.execBarw f s
  | .bara f => Sys2Proof.Machine.execBara f s
  | .amoSwap f => Sys2Proof.Machine.execAmoSwap f s
  | .amoAdd f => Sys2Proof.Machine.execAmoAdd f s
  | .amoAnd f => Sys2Proof.Machine.execAmoAnd f s
  | .amoOr f => Sys2Proof.Machine.execAmoOr f s
  | .amoXor f => Sys2Proof.Machine.execAmoXor f s
  | .amoMin f => Sys2Proof.Machine.execAmoMin f s
  | .amoMax f => Sys2Proof.Machine.execAmoMax f s
  | .amoMinn f => Sys2Proof.Machine.execAmoMinn f s
  | .amoMaxn f => Sys2Proof.Machine.execAmoMaxn f s
  | .amoCas f => Sys2Proof.Machine.execAmoCas f s
  | .scopen f => Sys2Proof.Machine.execScopen f s
  | .scaddO f => Sys2Proof.Machine.execScaddO f s
  | .scaddU f => Sys2Proof.Machine.execScaddU f s
  | .scflush f => Sys2Proof.Machine.execScflush f s
  | .fence f => Sys2Proof.Machine.execFence f s
  | .fenceAcq f => Sys2Proof.Machine.execFenceAcq f s
  | .fenceRel f => Sys2Proof.Machine.execFenceRel f s
  | .xcopy f => Sys2Proof.Machine.execXcopy f s
  | .xcopyz f => Sys2Proof.Machine.execXcopyz f s
  | .xfill f => Sys2Proof.Machine.execXfill f s
  | .xquery f => Sys2Proof.Machine.execXquery f s
  | .xgrid f => Sys2Proof.Machine.execXgrid f s
  | .xcoll f => Sys2Proof.Machine.execXcoll f s
  | .xnote f => Sys2Proof.Machine.execXnote f s
  | .pop q => Sys2Proof.Machine.execPop q s
  | .aging => Sys2Proof.Machine.execAging s
  | .timeSliceQuantum u => Sys2Proof.Machine.execTimeSliceQuantum u s
  | .tenantSwitch u => Sys2Proof.Machine.execTenantSwitch u s
  | .classTableSwap u => Sys2Proof.Machine.execClassTableSwap u s
  | .generationDrain u => Sys2Proof.Machine.execGenerationDrain u s
  | .barwPhaseReached q => Sys2Proof.Machine.execBarwPhaseReached q s
  | .barwTimeout q => Sys2Proof.Machine.execBarwTimeout q s
  | .engineChunkComplete c j => Sys2Proof.Machine.execEngineChunkComplete c j s
  | .engineCommandComplete c => Sys2Proof.Machine.execEngineCommandComplete c s
  | .engineCommandFail c => Sys2Proof.Machine.execEngineCommandFail c s
  | .translationStallResolved c => Sys2Proof.Machine.execTranslationStallResolved c s
  | .xqueryAnswer c => Sys2Proof.Machine.execXqueryAnswer c s
  | .xgridDeclare c => Sys2Proof.Machine.execXgridDeclare c s
  | .scaddUpdateArrival n => Sys2Proof.Machine.execScaddUpdateArrival n s
  | .scatterRoundClose r => Sys2Proof.Machine.execScatterRoundClose r s
  | .collectiveComplete c => Sys2Proof.Machine.execCollectiveComplete c s
  | .preemptionRequest u why => Sys2Proof.Machine.execPreemptionRequest u why s
  | .preemptEscalation u => Sys2Proof.Machine.execPreemptEscalation u s
  | .contextSave u => Sys2Proof.Machine.execContextSave u s
  | .contextRestore u k => Sys2Proof.Machine.execContextRestore u k s
  | .doubleFaultRecovery q => Sys2Proof.Machine.execDoubleFaultRecovery q s
  | .haltedRecordEnd q => Sys2Proof.Machine.execHaltedRecordEnd q s
  | .tableRebuild page => Sys2Proof.Machine.execTableRebuild page s
  | .weltRebind sole half => Sys2Proof.Machine.execWeltRebind sole half s
  | .crcFailure t crc => Sys2Proof.Machine.execCrcFailure t crc s
  | .linkLaneRetrain link lane => Sys2Proof.Machine.execLinkLaneRetrain link lane s
  | .fabricFrameReceive port f => Sys2Proof.Machine.execFabricFrameReceive port f s
  | .keySwitch port => Sys2Proof.Machine.execKeySwitch port s
  | .poisonNotice port device n => Sys2Proof.Machine.execPoisonNotice port device n s
  | .sessionGapTimeout mgmt ep sess => Sys2Proof.Machine.execSessionGapTimeout mgmt ep sess s
  | .createPartition h b => Sys2Proof.Machine.execCreatePartition h b s
  | .destroyPartition h number => Sys2Proof.Machine.execDestroyPartition h number s
  | .resize h number delta => Sys2Proof.Machine.execResize h number delta s
  | .installKey h slot k1 k2 => Sys2Proof.Machine.execInstallKey h slot k1 k2 s
  | .releaseKey h slot => Sys2Proof.Machine.execReleaseKey h slot s
  | .setPatternTable h addr => Sys2Proof.Machine.execSetPatternTable h addr s
  | .setHandler h addr => Sys2Proof.Machine.execSetHandler h addr s
  | .openSession h => Sys2Proof.Machine.execOpenSession h s
  | .closeSession h => Sys2Proof.Machine.execCloseSession h s
  | .map h b => Sys2Proof.Machine.execMap h b s
  | .unmap h addr size => Sys2Proof.Machine.execUnmap h addr size s
  | .copy h addr len toDevice => Sys2Proof.Machine.execCopy h addr len toDevice s
  | .launch h addr => Sys2Proof.Machine.execLaunch h addr s
  | .cancel h token => Sys2Proof.Machine.execCancel h token s
  | .signal h addr val => Sys2Proof.Machine.execSignal h addr val s
  | .latencyTolerance h ns => Sys2Proof.Machine.execLatencyTolerance h ns s
  | .registerGroup h g => Sys2Proof.Machine.execRegisterGroup h g s
  | .configurePort h port role => Sys2Proof.Machine.execConfigurePort h port role s
  | .fetchDump h off len => Sys2Proof.Machine.execFetchDump h off len s
  | .readTrapLog h q count => Sys2Proof.Machine.execReadTrapLog h q count s
  | .unknownRequestType h => Sys2Proof.Machine.execUnknownRequestType h s
  | .attest h nonce => Sys2Proof.Machine.execAttest h nonce s
  | .writeImage h off piece => Sys2Proof.Machine.execWriteImage h off piece s
  | .activateImage h => Sys2Proof.Machine.execActivateImage h s
  | .readSensors h => Sys2Proof.Machine.execReadSensors h s
  | .readErrorLog h first count => Sys2Proof.Machine.execReadErrorLog h first count s
  | .mgmtFetchDump h off len => Sys2Proof.Machine.execMgmtFetchDump h off len s
  | .resetDevice h => Sys2Proof.Machine.execResetDevice h s
  | .powerOff h => Sys2Proof.Machine.execPowerOff h s
  | .powerUp => Sys2Proof.Machine.execPowerUp s
  | .throttle => Sys2Proof.Machine.execThrottle s
  | .criticalTemperature sensor => Sys2Proof.Machine.execCriticalTemperature sensor s
  | .watchdogExpiry => Sys2Proof.Machine.execWatchdogExpiry s
  | .fatalError cause cls num detail => Sys2Proof.Machine.execFatalError cause cls num detail s
  | .powerStateEntry p => Sys2Proof.Machine.execPowerStateEntry p s
  | .wakeEvent p => Sys2Proof.Machine.execWakeEvent p s
  | .illegalInstruction => Sys2Proof.Machine.execIllegalInstruction s
  | .instructionFetchFault => Sys2Proof.Machine.execInstructionFetchFault s
  | .powerLoss writing => Sys2Proof.Machine.execPowerLoss writing s
  | .throttleRelease => Sys2Proof.Machine.execThrottleRelease s
  | .rankUnreachable c => Sys2Proof.Machine.execRankUnreachable c s

end Sys2Proof.Machine
end

