-- ==== Sys2Proof/Machine/Ordering.lean ====
section
/-!
DEFINITION. What comes before a word, and how its accesses may be performed out of its place (R253 to R260; log 2): loads performed
ahead or again later, and stores and commits whose accesses other parties see one by one.
-/

namespace Sys2Proof.Machine

/-! ### What a word accesses -/

/-- The number of the mask register that governs a word by its mask3; 0 for none, for a word without the field (R114), and for
`vsel`, which reads its mask as an operand (R258). -/
def instrMask (i : Instr) : Nat :=
  match i with
  | .vlds f | .vldso f | .vldx f | .vldxo f | .vsts f | .vstso f | .vstx f | .vstxo f | .vadd f | .vsub f | .vmul f | .vdiv f
    | .vmin f | .vmax f | .vabsd f | .vand f | .vor f | .vxor f | .vsll f | .vsrl f | .vsra f | .vadds f | .vmuls f | .vfma f
    | .vfms f | .vfnma f | .vtsum f | .vtprod f | .vceq f | .vcne f | .vclt f | .vcle f | .vcnan f | .vcvt f | .vslup f | .vsldn f | .vperm f | .vredo f | .vredt f | .vscano f | .vscanf f | .vredmin f | .vredmax f => f.m.val
  | .vld f | .vldb f | .vldo f | .vst f | .vstc f | .vsto f | .vneg f | .vabs f | .vsqrt f | .vmov f | .vcomp f => f.m.val
  | .vbcast f => f.m.val
  | .vid f => f.m.val
  | .tmac f | .tdist f => f.m.val
  | .tcupd f | .tacc f | .tdrain f | .tfill f => f.m.val
  | _ => 0

/-- The suffixes of an atomic: whether it acquires, and whether it releases (R230). -/
def amoOrder (i : Instr) : Option (Bool × Bool) :=
  match i with
  | .amoSwap f | .amoAdd f | .amoAnd f | .amoOr f | .amoXor f | .amoMin f | .amoMax f | .amoMinn f | .amoMaxn f | .amoCas f =>
    some (f.ord.val % 2 == 1, f.ord.val / 2 == 1)
  | _ => none

/-- Where a scalar load reads: base and index or displacement, whether it extends the sign, its size and its register (R84). -/
def State.scalarLoad (s : State) (i : Instr) : Option (Word × Bool × Nat × Reg) :=
  let x (f : R3) (signed : Bool) (size : Nat) : Option (Word × Bool × Nat × Reg) := some (s.sreg f.a + s.sreg f.b, signed, size, f.d)
  let d (f : ImmI) (signed : Bool) (size : Nat) : Option (Word × Bool × Nat × Reg) :=
    some (s.sreg f.a + f.imm.signExtend 64, signed, size, f.d)
  match i with
  | .ldxb f => x f true 1
  | .ldxbn f => x f false 1
  | .ldxh f => x f true 2
  | .ldxhn f => x f false 2
  | .ldxw f => x f true 4
  | .ldxwn f => x f false 4
  | .ldxd f => x f false 8
  | .ldd f => d f false 8
  | .ldw f => d f true 4
  | .ldwn f => d f false 4
  | _ => none

/-- Where a scalar store writes: its address, size and value (R84). -/
def State.scalarStore (s : State) (i : Instr) : Option (Word × Nat × Word) :=
  match i with
  | .stxb f => some (s.sreg f.a + s.sreg f.b, 1, s.sreg f.d)
  | .stxh f => some (s.sreg f.a + s.sreg f.b, 2, s.sreg f.d)
  | .stxw f => some (s.sreg f.a + s.sreg f.b, 4, s.sreg f.d)
  | .stxd f => some (s.sreg f.a + s.sreg f.b, 8, s.sreg f.d)
  | .std f => some (s.sreg f.a + f.imm.signExtend 64, 8, s.sreg f.b)
  | .stw f => some (s.sreg f.a + f.imm.signExtend 64, 4, s.sreg f.b)
  | _ => none

/-- The form of a plain vector load, its registers and its mask (R120); the ordered forms apart, whose elements are performed in
order. -/
def vectorLoad (i : Instr) : Option ((VType → State → Form) × Reg × Reg × Mask3) :=
  match i with
  | .vld f => some (unitForm, f.d, f.a, f.m)
  | .vlds f => some (strideForm f.b, f.d, f.a, f.m)
  | .vldb f => some (fun _ _ => .once, f.d, f.a, f.m)
  | .vldx f => some (indexForm f.b, f.d, f.a, f.m)
  | _ => none

/-- The forms of all plain vector loads. -/
def anyVectorLoad (i : Instr) : Option ((VType → State → Form) × Reg × Reg × Mask3) :=
  match i with
  | .vldo f => some (unitForm, f.d, f.a, f.m)
  | .vldso f => some (strideForm f.b, f.d, f.a, f.m)
  | .vldxo f => some (indexForm f.b, f.d, f.a, f.m)
  | i => vectorLoad i

/-- The bytes of a channel's element, and where the oldest one stands in the channel: addresses from the channel's own (R221). -/
def State.elementSpan (s : State) (va : Nat) : Nat × Nat :=
  match s.resolve s.ctx .hw va with
  | .error _ => (va, 0)
  | .ok loc => (va + s.slotOff loc (s.chTaken loc), s.chSize loc)

/-- The pattern entries that a `capply` walks (R198): those of the nest that it makes. -/
def State.walkSpans (s : State) (root : Nat) (args : Word) : List (Nat × Nat) :=
  match s.makeNest (s.issuer root args) with
  | .error _ => []
  | .ok (n, t) => ((SMap.find t.nests n).map (·.nodes)).getD [] |>.map (fun d => (s.me.ctl.ptab.toNat + 64 * d.entry, 64))

/-- The objects that a word reads in its place, as addresses and lengths: barrier objects, channels, descriptors, plans, pattern
entries. -/
def State.objectSpans (s : State) (i : Instr) : List (Nat × Nat) :=
  let r (x : Reg) : Nat := (s.sreg x).toNat
  match i with
  | .barv f | .barw f | .bara f => [(r f.a, 16)]
  | .chget f => [(r f.a, 64), s.elementSpan (r f.a)]
  | .chput f => [(r f.a, 64), (r f.b, (s.elementSpan (r f.a)).2)]
  | .cyield f => if r f.a = 0 then [] else [(r f.a, 64)]
  | .scopen f => [(r f.a, 64)]
  | .scflush f => [(r f.a, 64)]
  | .xcoll f => [(r f.a, 128)]
  | .capply f => s.walkSpans (r f.a) (s.sreg f.b)
  | _ => []

/-- The bytes that a word accesses in memory at once, its objects and its strip's buffer apart, as addresses and lengths. -/
def State.wordSpans (s : State) (i : Instr) : List (Nat × Nat) :=
  let r (x : Reg) : Nat := (s.sreg x).toNat
  match i with
  | .lr f => [(r f.a, 8)]
  | .lrw f => [(r f.a, 4)]
  | .sc f => [(r f.a, 8)]
  | .scw f => [(r f.a, 4)]
  | .czero f => [(((s.sreg f.a + s.sreg f.b) &&& ~~~63).toNat, 64)]
  | .amoSwap f | .amoAdd f | .amoAnd f | .amoOr f | .amoXor f | .amoMin f | .amoMax f | .amoMinn f | .amoMaxn f | .amoCas f =>
    [(r f.a, if f.narrow then 4 else 8)]
  | .cfun f | .ccor f | .cseq f | .cpar f | .cpipe f | .cfarm f | .cloop f =>
    [((s.me.ctl.ptab + BitVec.ofNat 64 (64 * (r f.d % 4096))).toNat, 64)]
  | .chget f => [(r f.b, (s.elementSpan (r f.a)).2)]
  | .tld f => [(r f.a, 32768)]
  | i =>
    match s.scalarLoad i, s.scalarStore i with
    | some (ea, _, size, _), _ => [(ea.toNat, size)]
    | none, some (ea, size, _) => if s.me.strip.isSome then [] else [(ea.toNat, size)]
    | none, none => []

/-- The state after an event; the state itself where the event stops, which none does. -/
def after (f : State → Host.Outcome State Fault Refusal) (s : State) : State :=
  match f s with
  | .next t => t
  | .fault _ => s
  | .refused _ => s

/-- The bytes of a stream that a word reads: as far as its reports say once it has run (R116, R119). -/
def State.streamSpans (s : State) (i : Instr) : List (Nat × Nat) :=
  let span (a : Word) : List (Nat × Nat) :=
    [(a.toNat / 8, (a.toNat % 8 + (after (exec i) { s with waited := false }).me.grant.ga.toNat + 7) / 8)]
  match i with
  | .zld f => span (s.sreg f.a)
  | .zskip f => span (s.sreg f.a)
  | _ => []

/-- The locations of the bytes of some spans, each as an access made in its place. -/
def State.spanAccesses (s : State) (l : List (Nat × Nat)) : List Access :=
  l.flatMap (fun x => (List.range x.2).filterMap (fun k =>
    match s.resolve s.ctx .hw (x.1 + k) with
    | .ok loc => some (inPlace loc 1)
    | .error _ => none))

/-- The accesses of a vector load's elements, as many as its grant lets it have. -/
def State.vectorAccesses (s : State) (i : Instr) : List Access :=
  match anyVectorLoad i with
  | none => []
  | some (fm, _, a, m) =>
    let t := s.typeOr
    match plainFmt t with
    | none => s.spanAccesses [((s.sreg a).toNat, 10 * blocksFor (s.grantLen t))]
    | some f => s.elemAccesses (fm t s) (s.sreg a) (f.width / 8) false (s.maskOf m) (s.grantLen t)

/-- The bytes of memory that a word accesses now. -/
def State.wordAccesses (s : State) (i : Instr) : List Access :=
  s.spanAccesses (s.objectSpans i ++ s.wordSpans i ++ s.streamSpans i) ++ s.vectorAccesses i

/-! ### Before a word: loads performed ahead (R254, R258, R259) -/

/-- The scope in which a word acquires before its own accesses: every acquire but a fence's is at `.sys` (R254, R258). What a `barw` and
a `chget` acquire comes with what they read. -/
def State.acquires (s : State) (i : Instr) : Option Nat :=
  let token := s.me.tokens.any (fun r => (instrInfo i).srcs.contains r)
  let bits := instrMask i != 0 && s.me.marked.any (fun b => b / 4096 == instrMask i)
  if token || bits || ((amoOrder i).map (·.1)).getD false then some sysScope
  else
    match i with
    | .fence f | .fenceAcq f => some f.scope.val
    | _ => none

/-- The word acquires: also at the first read of a token's value, and at a governing read of mask bits that an engine command has
set. -/
def State.voidEarly (s : State) (i : Instr) : State :=
  match s.acquires i with
  | none => s
  | some sc =>
    if s.me.early.isEmpty && s.me.tokens.isEmpty && s.me.marked.isEmpty then s
    else
      let s := s.acquire sc
      s.setMe { s.me with
        tokens := s.me.tokens.filter (fun r => !(instrInfo i).srcs.contains r)
        marked := s.me.marked.filter (fun b => b / 4096 != instrMask i) }

/-- A word's own reads of an object come in their place: what was performed ahead from there is void (R258). -/
def State.readObjects (s : State) (i : Instr) : State :=
  if s.me.early.isEmpty then s else s.loaded (s.spanAccesses (s.objectSpans i))

/-! ### Before a word: loads that may still be performed (R258, R260) -/

/-- A word past which a load can still be performed: it issues, orders and completes nothing else (R258). -/
def passable (i : Instr) : Bool :=
  match i with
  | .scloseRel _ => false
  | _ =>
    match amoOrder i with
    | some (acq, rel) => !acq && !rel
    | none => instrMajor i ≤ 0x1B || instrMajor i == 0x21 || instrMajor i == 0x25 || instrMajor i == 0x22 || instrMajor i == 0x23

/-- The vector registers of a store's or load's group at v, and those of a stream's, by the type that stands. -/
def State.meetsGroup (s : State) (v : Nat) (reg span : Nat) : Bool := v < reg + span && reg < v + s.typeOr.g

/-- A word reads or writes the register of a load that may still be performed. An indexed store reads a second group. -/
def State.uses (s : State) (i : Instr) (e : Late) : Bool :=
  match e.pos with
  | none => ((instrInfo i).srcs ++ (instrInfo i).dsts).contains e.reg.val
  | some _ =>
    match i with
    | .vstx _ | .vstxo _ => true
    | _ => (instrInfo i).vregs.any (fun v => s.meetsGroup v e.reg.val e.span)

/-- Loads that may be performed late are settled where a word reads or writes their register or accesses their bytes, and before any
word that they cannot be performed past. -/
def State.settleLate (s : State) (i : Instr) : State :=
  if s.me.late.isEmpty then s
  else
    let l := s.wordAccesses i
    let kept := s.me.late.filter (fun e => passable i && !s.uses i e && !l.any (fun x => overlap x.loc x.size e.loc e.size))
    s.setMe { s.me with late := kept }

/-! ### Before a word: writes that are not seen yet (R258) -/

/-- A word before which all that its sequencer has written must be visible: a release at a scope that holds another party, an engine's
issue, the end of a record or its yield, an addition, a fetch fence. A release at a scope within `.sys` is as strong as one at `.sys`. -/
def releases (i : Instr) : Bool :=
  match i with
  | .fence f | .fenceRel f => f.scope.val != 0
  | .scloseRel _ | .barv _ | .bara _ | .chput _ | .capply _ | .cret _ | .cyield _ | .scaddO _ | .scaddU _ | .ifence _ | .halt _ => true
  | .xcopy _ | .xcopyz _ | .xfill _ | .xcoll _ | .xquery _ | .xgrid _ | .xnote _ => true
  | _ => ((amoOrder i).map (·.2)).getD false

/-- A write not seen yet has bytes that a word accesses, or that the open strip's buffer will write. -/
def State.awaits (s : State) (l : List Access) (p : Unseen) : Bool :=
  l.any (fun x => enabledIn p.sec p.en x.loc x.size) ||
    (match s.me.strip with
     | none => false
     | some st => st.buf.any (fun x => x.1 == p.sec && x.2.en &&& p.en != 0))

/-- What must be visible before a word is. -/
def State.landBefore (s : State) (i : Instr) : State :=
  if s.me.unseen.isEmpty then s
  else if releases i then s.drainSeq s.cur
  else
    let l := s.wordAccesses i
    s.landHit s.cur (s.awaits l)

/-! ### Before a word: additions on their way (R234, R258) -/

/-- A word whose accesses come after the sequencer's additions that are still on their way: every word that touches memory but
another `scadd.u`. -/
def touchesMemory (i : Instr) : Bool :=
  let k := instrMajor i
  match i with
  | .scaddU _ => false
  | .wid _ => false
  | .tld _ => true
  | _ => (0x08 ≤ k && k ≤ 0x0F) || (0x21 ≤ k && k ≤ 0x25) || (0x33 ≤ k && k ≤ 0x3A)

/-- The sequencer's additions on their way land first. -/
def State.landFirst (s : State) (i : Instr) : State :=
  if touchesMemory i && s.flights.any (fun u => u.round.isNone && u.by_ == s.cur) then s.landOwn s.cur else s

/-- The state in which the current sequencer's next word runs. -/
def State.before (s : State) (i : Instr) : State :=
  ((((s.settleLate i).landBefore i).voidEarly i).readObjects i).landFirst i

/-- The word at PC of the current sequencer would be performed: it neither waits nor traps. -/
def State.performs (s : State) (i : Instr) : Bool :=
  match exec i { s.before i with waited := false } with
  | .next t => !t.waited && t.me.trapSeq == s.me.trapSeq
  | .fault _ => false
  | .refused _ => false

/-! ### A load performed ahead (R258) -/

/-- Sequencer q performs a load ahead of its place, for element `elem` of a later word (R258): the bytes as q sees them now. A load of
the same bytes performed ahead for that element before is void. -/
def State.loadAhead (s : State) (q loc size elem : Nat) : State :=
  let c := s.cur
  let t : State := { s with cur := q }
  let m := t.me
  if m.mode ≠ .running ∨ size = 0 ∨ 32 < size ∨ loc % size ≠ 0 then s
  else
    let e : Early := ⟨loc, size, elem, t.viewNat loc size, t.viewBad loc size, []⟩
    { t.setMe { m with early := e :: m.early.filter (fun x => !(x.elem == elem && overlap x.loc x.size loc size)) } with cur := c }

/-! ### A load performed again later (R258, R260) -/

/-- The runs of n bytes from an address, one in each sector, as offset, location and length (R256). -/
def State.sectorRuns (s : State) (va off : Nat) : Nat → List (Nat × Nat × Nat)
  | 0 => []
  | n + 1 =>
    let rest := s.sectorRuns (va + 1) (off + 1) n
    match s.resolve s.ctx .load va, rest with
    | .error _, l => l
    | .ok loc, (o, l, k) :: t =>
      if o = off + 1 ∧ l = loc + 1 ∧ l / 32 = loc / 32 then (off, loc, k + 1) :: t else (off, loc, 1) :: (o, l, k) :: t
    | .ok loc, [] => [(off, loc, 1)]

/-- The accesses of a load as loads that may still be performed, by what the word has done. -/
def State.deferred (s : State) (i : Instr) (t : State) : List Late :=
  match s.scalarLoad i, vectorLoad i with
  | some (ea, signed, size, d), _ =>
    match s.checkAccess s.ctx .load ea.toNat size with
    | .error _ => []
    | .ok loc => [⟨d, none, 1, loc, size, signed⟩]
  | none, some (fm, d, a, m) =>
    let v := s.typeOr
    let n := t.me.grant.gk.toNat
    let runs (bytes : Nat) : List Late :=
      (s.sectorRuns (s.sreg a).toNat 0 bytes).map (fun x => ⟨d, some (8 * x.1), v.g, x.2.1, x.2.2, false⟩)
    match plainFmt v with
    | none => runs (10 * blocksFor n)
    | some f =>
      let sz := f.width / 8
      let fm := fm v s
      if fm.bySector sz (s.maskOf m) then runs (sz * n)
      else
        (List.range n).filterMap (fun k =>
          if activeAt (s.maskOf m) k then
            match s.resolve s.ctx .load (fm.addr (s.sreg a) sz k 0).toNat with
            | .ok loc => some ⟨d, some (f.width * k), v.g, loc, sz, false⟩
            | .error _ => none
          else none)
  | none, none => []

/-- The load at PC of the current sequencer is performed, and may be performed again later (R258, R260). -/
def State.deferTurn (s : State) : State :=
  match s.me.mode, s.fetchInstr with
  | .running, some i =>
    let u := s.before i
    if !s.performs i then s
    else
      let t := after (exec i) u
      t.setMe { t.me with late := u.deferred i t ++ t.me.late }
  | _, _ => s

/-- Put one byte into the group of registers at v; it is marked no more. -/
def Seq.putByte (m : Seq) (gang v p : Nat) (b : Byte) : Seq :=
  let r := v + p / (1024 * gang)
  let k := p % (1024 * gang)
  let old := m.vregs.toList.getD r VReg.reset
  m.setV r { old with
    bits := (old.bits &&& ~~~((255 : BitVec 32768) <<< (8 * k))) ||| (b.setWidth 32768 <<< (8 * k))
    marks := old.marks.filter (· != k) }

/-- A load that may still be performed is performed now; one whose bytes are marked stands. -/
def State.performLate (s : State) (e : Late) : State :=
  if s.viewBad e.loc e.size then s
  else
    match e.pos with
    | none => s.setS e.reg (extendTo e.signed e.size (s.viewNat e.loc e.size))
    | some pos =>
      s.setMe ((List.range e.size).foldl (fun m k => m.putByte s.gang e.reg.val (pos / 8 + k) (s.viewByte (e.loc + k))) s.me)

/-- The loads of the current sequencer that may still be performed are performed now. What was performed ahead from their bytes for
later words came too early (R258). -/
def State.loadAgain (s : State) : State :=
  if s.me.mode ≠ .running then s
  else
    let l := s.me.late
    let s := s.setMe { s.me with early := s.me.early.filter (fun e => !l.any (fun x => overlap x.loc x.size e.loc e.size)) }
    l.reverse.foldl State.performLate s

/-! ### Writes that are seen later (R255, R256, R258) -/

/-- The accesses of a strip's stores in program order, each with the number of its store, its rank, and whether its store is ordered. -/
def shapeParts (l : List StoreShape) : List (Nat × Nat × Bool × Nat × BitVec 32) :=
  l.zipIdx.flatMap (fun x => x.1.parts.zipIdx.map (fun p => (x.2, p.2, x.1.ordered, p.1.1, p.1.2)))

/-- The pieces of a commit, the newest access first: each access has the bytes of the buffer that no later one has written. `left` are
the enables of each sector that no access has yet. -/
def cutPieces (clock : Nat) (buf : SMap BufSector) (left : SMap (BitVec 32)) : List (Nat × Nat × Bool × Nat × BitVec 32) →
    List Unseen × SMap (BitVec 32)
  | [] => ([], left)
  | (store, rank, ordered, sec, en) :: t =>
    let mine := (SMap.find left sec).getD 0 &&& en
    let (l, rest) := cutPieces clock buf (if mine = 0 then left else SMap.put left sec ((SMap.find left sec).getD 0 &&& ~~~mine)) t
    match SMap.find buf sec with
    | none => (l, rest)
    | some e => (if mine = 0 then l else ⟨sec, mine, e.data, e.en, clock, store, rank, ordered⟩ :: l, rest)

/-- The accesses of a commit as writes that are not seen yet, the oldest first. -/
def pieces (clock : Nat) (buf : SMap BufSector) (shapes : List StoreShape) : List Unseen :=
  let (l, left) := cutPieces clock buf (buf.map (fun x => (x.1, x.2.en))) (shapeParts shapes).reverse
  let rest := buf.filterMap (fun x =>
    let en := (SMap.find left x.1).getD 0
    if en = 0 then none else some (⟨x.1, en, x.2.data, x.2.en, clock, shapes.length, 0, false⟩ : Unseen))
  l.reverse ++ rest

/-- A state in which the current sequencer has written, without what the others see of it; the writes stand among those not seen
yet. -/
def State.unseeing (t s : State) (l : List Unseen) : State :=
  { t with mem := s.mem, seqs := SMap.put s.seqs s.cur { t.me with unseen := t.me.unseen ++ l } }

/-- A word that commits an open strip and orders nothing. -/
def commits (i : Instr) : Bool :=
  match i with
  | .strip _ | .sclose _ | .lr _ | .lrw _ | .sc _ | .scw _ => true
  | _ => ((amoOrder i).map (fun x => !x.2)).getD false

/-- The next word of the current sequencer runs, and what it commits, or stores outside a strip, is not seen yet (R258). -/
def State.holdTurn (s : State) : State :=
  match s.me.mode, s.fetchInstr with
  | .running, some i =>
    if !s.performs i then s
    else
      let u := s.before i
      match u.me.strip, s.scalarStore i with
      | some st, _ =>
        if !commits i then s
        else
          let v := u.commitStrip.unseeing u (pieces u.clock st.buf u.me.shapes)
          after (exec i) (v.landBefore i)
      | none, some (ea, size, val) =>
        match u.checkAccess u.ctx .store ea.toNat size with
        | .error _ => s
        | .ok loc =>
          if u.liveLine loc then s
          else
            (after (exec i) u).unseeing u (pieces u.clock (bufNat [] ea.toNat loc size val.toNat) [])
      | none, none => s
  | _, _ => s

end Sys2Proof.Machine
end

