-- ==== Sys2Proof/Machine/Schedule.lean ====
section
/-!
DEFINITION. Whose turn a step is (log 1). The agenda's entries come first; they stand for what the manual leaves to chance
or to the outside. With an empty agenda the current sequencer goes on, and the device's other parties act whenever it
waits and after every 64 clocks at the latest.
-/

namespace Sys2Proof.Machine

/-- What a step does: run an instruction or event, or only change the state. -/
inductive Turn where
  | run (i : Instr) (s : State)
  | become (s : State)

/-- A fetched word runs as the instruction it is; one that is none is illegal (R60, R61). -/
def State.wordTurn (s : State) (x : Nat) : Turn :=
  match decode (wordBytes x) with
  | .ok (i, _) => .run i (s.before i)
  | .error _ => .run .illegalInstruction s

/-- The current sequencer's next word (R61, R310). -/
def State.fetchTurn (s : State) : Turn :=
  match s.fetchWord with
  | .error _ => .run .instructionFetchFault s
  | .ok x => s.wordTurn x

/-- The turn passes to the other parties. -/
def State.yieldTurn (s : State) : State := { s with waited := true }

/-! ### The standard handler (R292), which stands at the service's address and has no code of the program's -/

/-- The current sequencer runs its partition's standard handler, which stands at one word of the service's. -/
def State.atStandard (s : State) : Bool :=
  s.me.ctl.status.getLsbD 0 &&
    (match SMap.find s.parts s.ctx.part with
     | some p => s.me.pc.toNat == p.stdVa
     | none => false)

/-- The cause of a new walk for an address. -/
def State.walkCause (s : State) (va : Nat) : Option Nat :=
  match s.resolve s.ctx .load va with
  | .error e => some e.cause
  | .ok _ => none

/-- The page after that of an address. -/
def nextPageOf (va : Nat) : Nat := va / 65536 * 65536 + 65536

/-- The address whose walk failed in the last trap: that of TRAPADDR, or, where its page is there, the next page's, which
a code of a stream ran into (R117, R122). -/
def State.trapVa (s : State) : Nat :=
  let va := s.me.ctl.addr.toNat / 8
  match s.walkCause va with
  | some _ => va
  | none => nextPageOf va

/-- The handler's walks leave a negative entry where they find a table page's entry uncorrectable, which calls for its rebuild (R312,
R313). -/
def State.walkTrap (s : State) : State :=
  let va := s.me.ctl.addr.toNat / 8
  let t := s.walked s.ctx .load va
  match s.walkCause va with
  | some _ => t
  | none => t.walked s.ctx .load (nextPageOf va)

/-- The handler resumes by `rft`. -/
def State.standardResume (s : State) : State := { s with clock := s.clock + 1 }.returnFromTrap

/-- The handler ends the record with a cause and the result 0, once `cret` would not wait. -/
def State.standardEnd (s : State) (cause : Nat) : State :=
  if s.endWaits s.cur then s.yieldTurn else { s.endRecord s.cur cause 0 with clock := s.clock + 1 }

/-- The standard handler (R292). It reads TRAPCAUSE first, which closes its entry window (R288): from then on it can be stopped
while it waits (R299). -/
def State.standard (s : State) : State :=
  let s := s.setMe { s.me with window := false }
  let cause := s.me.ctl.cause.toNat % 65536
  let s := if cause = Cause.tablePoisoned then s.walkTrap else s
  let va := s.trapVa
  let now := s.walkCause va
  if cause = Cause.pageNotPresent then
    if now ≠ some Cause.pageNotPresent then s.standardResume
    else if s.canMap s.ctx.part va then (s.serviceMap s.ctx.part va).standardResume
    else s.standardEnd cause
  else if cause = Cause.tablePoisoned then
    if now = some Cause.tablePoisoned then s.yieldTurn else s.standardResume
  else s.standardEnd cause

/-! ### The current sequencer's turn -/

/-- A waiting `barw` of sequencer q ends at the next of its two events. -/
def State.barwDue (s : State) (q : Nat) : State := after (execBarwTimeout q) (after (execBarwPhaseReached q) s)

/-- The turn of the current sequencer. -/
def State.ownTurn (s : State) : Turn :=
  match s.me.mode with
  | .running =>
    if (s.upperAt (upperOf s.cur)).throttled then .become s.yieldTurn
    else if s.atStandard then .become s.standard
    else s.fetchTurn
  | .idle => .become (if (s.popChoice (upperOf s.cur)).isSome then after (execPop s.cur) s else s.yieldTurn)
  | .barw _ => .become (let t := s.barwDue s.cur; if t.me.mode = s.me.mode then s.yieldTurn else t)
  | .halted => .become (after (execHaltedRecordEnd s.cur) s).yieldTurn
  | .doubleFault => .become (after (execDoubleFaultRecovery s.cur) s).yieldTurn
  | .stopped _ => .become s.yieldTurn

/-! ### The other parties' turn -/

/-- What may happen on an upper that leads a core. -/
def State.upperParties (s : State) (u : Nat) : List (State → State) :=
  [after (execClassTableSwap u), after (execGenerationDrain u), after (execPreemptEscalation u), after (execContextSave u),
    after (execTimeSliceQuantum u), after (execTenantSwitch u)] ++
  (s.saves.map (fun x => after (execContextRestore u x.1))) ++ (seqsOf u).map (fun q s => s.endStopped q)

/-- The first chunk of a command that is not complete. -/
def Command.nextChunk (c : Command) : Nat :=
  ((List.range (c.chunks.length + 1)).find? (fun j => !c.chunks.contains j)).getD c.chunks.length

/-- What may happen to a command. -/
def commandParties (c : Nat) (x : Command) : List (State → State) :=
  [after (execTranslationStallResolved c), after (execEngineChunkComplete c x.nextChunk), after (execEngineCommandComplete c),
    after (execXqueryAnswer c), after (execXgridDeclare c), after (execCollectiveComplete c), after (execEngineCommandFail c)]

/-- What may happen to a partition's power (R362): its cores are gated when nothing is to be done, and wake for work. -/
def State.powerParties (s : State) (n : Nat) : List (State → State) :=
  if s.quiet n then [after (execPowerStateEntry n)] else [after (execWakeEvent n)]

/-- What may happen in a session: its gap times out, or a waiting request can be served. -/
def sessionParties (x : Session) : List (State → State) :=
  [after (execSessionGapTimeout x.mgmt x.ep x.sess)] ++
    (match x.held with
     | r :: _ => [fun s => s.drain r.hdr (x.held.length + 1)]
     | [] => [])

/-- The change that is first, when it is a rebinding or a removal (R337). A resize is served with the requests of its session. -/
def Dev.changeParties (d : Dev) : List (State → State) :=
  match d.changes with
  | .rebind h _ :: _ => [after (execWeltRebind (h / 2) (h % 2))]
  | .removal u :: _ => [fun s => s.removalStep u]
  | _ => []

/-- Ports whose key has run out of packet numbers (R340). -/
def Dev.portParties (d : Dev) : List (State → State) :=
  (d.ports.filter (fun x => x.2.switches)).map (fun x => after (execKeySwitch x.1))

/-- Everything the device may do by itself, in the model's order (log 1). -/
def State.parties (s : State) : List (State → State) :=
  [after execAging, after (execScaddUpdateArrival 0)] ++
  (s.seqs.filter (fun x => !x.2.unseen.isEmpty)).map (fun x s => s.drainSeq x.1) ++
  s.rounds.map (fun x => after (execScatterRoundClose x.1)) ++
  s.cmds.flatMap (fun x => commandParties x.1 x.2) ++
  s.leaders.flatMap s.upperParties ++
  s.mem.negative.map (fun p => after (execTableRebuild p)) ++
  s.dev.changeParties ++ s.dev.portParties ++
  s.dev.sessions.flatMap sessionParties ++
  s.parts.flatMap (fun x => s.powerParties x.1) ++
  [after execThrottle, after execThrottleRelease] ++
  s.dev.hot.map (fun x => after (execCriticalTemperature x.1))

/-- The first of some happenings that changes the state. -/
def State.firstChange (s : State) : List (State → State) → Option State
  | [] => none
  | f :: t => if f s = s then s.firstChange t else some (f s)

/-- Sequencer q could use a turn. -/
def State.canAct (s : State) (q : Nat) : Bool :=
  match (s.seqAt q).mode with
  | .running => !(s.upperAt (upperOf q)).throttled
  | .idle => (s.popChoice (upperOf q)).isSome
  | .barw _ => (s.barwDue q).seqAt q != s.seqAt q
  | .stopped _ => false
  | .halted => true
  | .doubleFault => true

/-- The next sequencer that could use a turn, in cyclic order of number; the current one when there is none. Where that
is an idle one, the lowest idle sequencer that could pop goes first (R192). -/
def State.nextActor (s : State) : Nat :=
  let l := (s.seqs.map (·.1) ++ s.leaders.flatMap seqsOf).filter s.canAct
  let q := ((leastOf (l.filter (s.cur < ·))).orElse (fun _ => leastOf l)).getD s.cur
  if (s.seqAt q).mode = .idle then (leastOf (l.filter (fun x => (s.seqAt x).mode = .idle))).getD q else q

/-- One clock passes, and the turn passes to the next sequencer. -/
def State.rotate (s : State) : State :=
  { s with clock := s.clock + 1, waited := false, polled := s.clock + 1, cur := s.nextActor }

/-- A sequencer of upper u that an escalation would stop stands at an instruction boundary (R299). -/
def State.escalationDue (s : State) (u : Nat) : Bool :=
  match (s.upperAt u).preempt with
  | none => false
  | some (_, t) => t + Config.clocks100us ≤ s.clock && (seqsOf u).any s.escalates

/-- Something that the manual ties to a clock is due on upper u: a tenant switch, a time slice's request (R196), an escalated stop
(R299). -/
def State.promptOn (s : State) (u : Nat) : Bool := s.escalationDue u || s.switchDue u || s.sliceDue u

/-- Something of that kind is due. -/
def State.prompt (s : State) : Bool := s.leaders.any s.promptOn

/-- What is due on upper u happens. -/
def State.promptTurn (s : State) (u : Nat) : State :=
  if s.escalationDue u then after (execPreemptEscalation u) s
  else if s.switchDue u then after (execTenantSwitch u) s
  else if s.sliceDue u then after (execTimeSliceQuantum u) s
  else s

/-- The other parties' turn is due. -/
def State.othersDue (s : State) : Bool := s.waited || s.polled + 64 ≤ s.clock

/-- The turn of the other parties: the first that has something to do; when none has, the turn passes on. -/
def State.othersTurn (s : State) : State := (s.firstChange s.parties).getD s.rotate

/-! ### The agenda -/

/-- What a device that serves nothing still takes: requests of its ports (R354, R355, R363), power (R355, R362), fatal errors. -/
def takenDown (i : Instr) : Bool :=
  match i with
  | .createPartition _ _ | .destroyPartition _ _ | .resize _ _ _ | .installKey _ _ _ _ | .releaseKey _ _ | .setPatternTable _ _
    | .setHandler _ _ | .openSession _ | .closeSession _ | .map _ _ | .unmap _ _ _ | .copy _ _ _ _ | .launch _ _ | .cancel _ _
    | .signal _ _ _ | .latencyTolerance _ _ | .registerGroup _ _ | .configurePort _ _ _ | .fetchDump _ _ _
    | .readTrapLog _ _ _ | .unknownRequestType _ => true
  | .attest _ _ | .writeImage _ _ _ | .activateImage _ | .readSensors _ | .readErrorLog _ _ _ | .mgmtFetchDump _ _ _
    | .resetDevice _ | .powerOff _ => true
  | .sessionGapTimeout _ _ _ | .powerUp | .powerLoss _ | .fatalError _ _ _ _ | .criticalTemperature _ => true
  | _ => false

/-- A word of the current sequencer that the checking lane or column replays: a vector word, or a row word of the truss. -/
def checkedWord (i : Instr) (column : Bool) : Bool := if column then columnWord i else laneWord i

/-- A mismatch in sole j on the next word of the current sequencer, when that word is one the checker replays and it would be
performed (R319, R320). -/
def State.mismatchTurn (s : State) (j : Nat) (column : Bool) : State :=
  match s.me.mode, s.fetchInstr with
  | .running, some i => if j < s.solesOf && checkedWord i column && s.performs i then s.mismatch j column else s
  | _, _ => s

/-- Sequencer q, which runs, fetches a word ahead (R63); nothing happens where the fetch faults. An idle sequencer fetches
nothing (R21). -/
def State.prefetch (s : State) (q va : Nat) : State :=
  let c := s.cur
  let t : State := { s with cur := q }
  if t.me.mode ≠ .running then s
  else match t.checkAccess t.ctx .fetch va 4 with
  | .error _ => s
  | .ok loc =>
    if t.poisoned loc then s
    else
      let m := t.me
      { t.setMe { m with fetched := SMap.put m.fetched va (BitVec.ofNat 32 (cellsNat t.mem.cells loc 4)) } with cur := c }

/-- A walk leaves a cached translation (R311). -/
def State.cacheWalk (s : State) (part va : Nat) : State :=
  match SMap.find s.parts part with
  | none => s
  | some p =>
    match walkFrom s part va p.root [] [3, 2, 1, 0] with
    | .error _ => s
    | .ok w =>
      { s with mem := { s.mem with tlb := (part, va / 65536, w.pa / 65536, w.entry % 64, w.pages) :: s.mem.tlb } }

/-! #### Data are lost and found (R315, R322) -/

/-- Byte n of a vector register loses its data. -/
def State.markReg (s : State) (q v n : Nat) : State :=
  let m := s.seqAt q
  let r := m.vregs.toList.getD v VReg.reset
  s.setSeq q { m with vregs := m.vregs.setIfInBounds v { r with marks := insertNat r.marks n } }

/-- Element n of mask k loses its data. -/
def State.markMask (s : State) (q k n : Nat) : State :=
  if k < 8 ∧ n < 4096 then
    let m := s.seqAt q
    s.setSeq q { m with mmarks := insertNat m.mmarks (4096 * k + n) }
  else s

/-- Column n of row r of an image loses its data. -/
def State.markRow (s : State) (image r n : Nat) : State :=
  if r < 256 ∧ n < 256 then
    let x := s.soleAt image
    let y := (SMap.find x.rows r).getD Row.zero
    s.setSole image { x with rows := SMap.put x.rows r { y with marks := insertNat y.marks n } }
  else s

/-- Byte n of weight slot w of an image loses its data. -/
def State.markSlot (s : State) (image w n : Nat) : State :=
  let x := s.soleAt image
  let y := x.slots.toList.getD w Slot.reset
  if w < 4 ∧ n < 40960 then
    s.setSole image { x with slots := x.slots.setIfInBounds w { y with marks := insertNat y.marks n } }
  else s

/-- A sector whose mark came with a read is read again: the memory holds it sound. -/
def State.refetch (s : State) (sec : Nat) : State :=
  if s.mem.returned.contains sec then
    { s with mem := { s.mem with
        poison := s.mem.poison.filter (· != sec), returned := s.mem.returned.filter (· != sec) } }
  else s

/-- An entry of the agenda that is no event of the opcode table. -/
def State.happen (s : State) (a : Agent) : State :=
  match a with
  | .event _ => s
  | .select q => if q < Config.allUppers * Config.seqsPerUpper then { s with cur := q } else s
  | .tick n => { s with clock := s.clock + n }
  | .prefetch q va => s.prefetch q va
  | .poisonSector sec => s.loseSector sec
  | .poisonReg q v n => s.markReg q v n
  | .poisonMask q k n => s.markMask q k n
  | .poisonRow image r n => s.markRow image r n
  | .poisonSlot image w n => s.markSlot image w n
  | .corrected x => s.corrected x
  | .refetch sec => s.refetch sec
  | .early q loc size elem => s.loadAhead q loc size elem
  | .defer q => { ({ s with cur := q } : State).deferTurn with cur := s.cur }
  | .again q => { ({ s with cur := q } : State).loadAgain with cur := s.cur }
  | .hold q => { ({ s with cur := q } : State).holdTurn with cur := s.cur }
  | .land q n => s.landNth q n
  | .cache part va => s.cacheWalk part va
  | .uncache n => { s with mem := { s.mem with tlb := s.mem.tlb.eraseIdx n } }
  | .engineRead c k => s.engineRead c k
  | .engineWrite c k => s.engineStep c k
  | .sensor n v => s.readSensor n v
  | .mismatch q j column => { ({ s with cur := q } : State).mismatchTurn j column with cur := s.cur }

/-- What happens to a device that serves nothing: clocks pass, sensors go on reading (R360), and errors are corrected. -/
def Agent.always (a : Agent) : Bool :=
  match a with
  | .sensor _ _ => true
  | .corrected _ => true
  | .tick _ => true
  | _ => false

/-- The turn of an agenda entry. A word of the program is no event: the entry is passed over. -/
def State.agendaTurn (s : State) (a : Agent) : Turn :=
  match a with
  | .event i =>
    if (encodeWord i).isSome || !(s.dev.running == .up || takenDown i) then .become s else .run i s
  | a => .become (if s.dev.running = .up ∨ (s.dev.running ≠ .off ∧ a.always = true) then s.happen a else s)

/-- Whose turn it is and what it does. What is tied to a clock comes first. -/
def State.turn (s : State) : Turn :=
  if s.dev.running = .up ∧ s.prompt = true then .become (s.leaders.foldl State.promptTurn s)
  else
    match s.agenda with
    | a :: t => ({ s with agenda := t } : State).agendaTurn a
    | [] =>
      if s.dev.running ≠ .up then .become { s with clock := s.clock + 1 }
      else if s.othersDue then .become s.othersTurn
      else s.ownTurn

end Sys2Proof.Machine
end

