-- ==== Sys2Proof/Machine/Step.lean ====
section
/-!
DEFINITION. One step of the device: the turn that Schedule chooses, performed.
-/

namespace Sys2Proof.Machine

/-- One step. -/
def step (s : State) : Host.Outcome State Fault Refusal :=
  if Config.allUppers * Config.seqsPerUpper ≤ s.cur then .fault (.noSequencer s.cur)
  else
    match s.turn with
    | .run i s' => exec i s'
    | .become s' => .next s'

/-- `s` with a word of the opcode table placed where the next step fetches it. -/
def State.withFetchWord (s : State) (nbits w : Nat) : State :=
  if nbits = 32 then s.placeWord (w % 4294967296) else s

end Sys2Proof.Machine
end

