-- ==== Sys2Proof/Safety.lean ====
section
/-!
DEFINITION. The terms in which statements about the machine are written: when a word issues and completes, what a step
leaves alone, and the invariants of a state.
-/

namespace Sys2Proof.Machine

/-! ### When a word completes -/

/-- The state in which a word is performed: the clock has reached the earliest issue (R56). -/
def State.due (s : State) : State := { s with clock := max s.clock s.me.ready }

/-- The state in which word `i` is checked and performed: the clock at which it issues, in its pace and with the results it reads
(R56, R57). -/
def State.atIssue (s : State) (i : Instr) : State := { s with clock := s.me.issueAt s.clock (instrInfo i).srcs }

/-- Word `i` passes the checks of R62, steps 1 to 6, and waits for no token or chunk (R213, R267, R269): a condition on
the state and the operands alone. `group` is the register-group condition of the word's own description. -/
structure State.Ready (s : State) (i : Instr) (group : VType → Bool := noGroup) : Prop where
  /-- step 1: the operands are well formed (R54, R60) -/
  wf : i.wf = true
  /-- no register it names waits for a token (R213, R267) -/
  tokens : heldByToken s.me (instrInfo i) = false
  /-- no mask it writes waits for chunks (R269) -/
  chunks : heldByChunks s.cmds s.cur (instrInfo i).masks = false
  /-- step 2: privilege (R95, R99, R100) -/
  priv : needsPriv i = true → isPriv s.me.ctl.status = true
  /-- step 3: the word may stand in the strip (R97, R111) -/
  legal : illegalInStrip s.me i = false
  /-- step 3: a vector store stands in an open strip (R113) -/
  opened : needsStrip i = true → s.me.strip.isSome = true
  /-- step 3: loop end placement (R93) -/
  loopEnd : loopEndBad s.me i = false
  /-- step 3: the delay slots of a transfer (R90) -/
  slots : isTransfer i = true → s.due.checkSlots (slotLoops s.me i) = .ok ()
  /-- steps 4 and 5: a valid type and its register groups (R9, R59) -/
  typed : instrTyped i = true →
    ∃ t, s.me.vt = some t ∧ (∀ r ∈ (instrInfo i).vregs, r % t.g = 0) ∧ group t = true
  /-- step 6: no source is still short while CHK is set (R57) -/
  waits : s.me.ctl.chk.getLsbD 0 = true → waitShort s.me (instrInfo i).srcs = false
  /-- with CHK clear the results it reads are there; a word that comes earlier is held until they are, and then is as one that comes
  at that clock (R57; `Obligations.IssueRefusals`) -/
  pace : s.me.issueAt s.clock (instrInfo i).srcs = max s.clock s.me.ready

/-- What the answer of a meaning in state s becomes: the word retires, traps, or waits (R62). -/
def conclude (s : State) (i : Instr) : Res → State
  | .done f t => t.retire i f
  | .trap x t => s.stopWord t x (instrInfo i).w
  | .wait t => { t with waited := true }

/-- Word `i` traps in state `s`: the trap is taken (R98), and the word's wait count holds the next issue (R56). -/
def State.trapped (s : State) (i : Instr) (x : Trap) : State := (s.takeTrap x).holdIssue (instrInfo i).w

/-- The word x is no instruction: the turn of a sequencer that runs and has fetched it takes illegal instruction (R54, R60). -/
def IllegalWord (x : Nat) : Prop :=
  ∀ s : State, s.me.mode = .running → s.fetchWord = .ok x → s.wordTurn x = .run .illegalInstruction s ∧
    exec .illegalInstruction s =
      .next ((s.due.takeTrap (Trap.plain Cause.illegalInstruction)).holdIssue (x / 536870912))

/-! ### Vector words -/

/-- No element of mask register k is marked uncorrectable (R315). -/
def Seq.MaskSound (m : Seq) (k : Reg) : Prop := ∀ n, n < 4096 → 4096 * k.val + n ∉ m.mmarks

/-- A word of a vector class passes its checks up to its elements: the frame of R62, the type class (R127), an unmarked
governing mask (R315). -/
structure State.VecReady (s : State) (i : Instr) (c : Class) (m : Mask3) (t : VType) (group : VType → Bool := noGroup) :
    Prop where
  ready : s.Ready i group
  typed : s.me.vt = some t
  cls : c.has t = true
  mask : s.maskCheck m = .ok ()

/-- `limit` of R114: the least of L, the source fill counts and the count limits. -/
def loopLimit (L : Nat) (lims : List Nat) : Nat := lims.foldl min L

/-- No element below `n` of a source is marked (R315). -/
def Src.Clean (x : Src) (n : Nat) : Prop := ∀ k, k < n → x.marked k = false

/-- Every active element below `n` of a source decodes (R36, R129). -/
def Src.Decodes (x : Src) (mask : Option (BitVec 4096)) (n : Nat) : Prop :=
  ∀ k, k < n → activeAt mask k = true → ∃ v, x.val k = .ok v

/-- Every active element below `n` takes an unmarked element of the source that decodes, or none (R129, R142, R143). -/
def Src.Copies (x : Src) (mask : Option (BitVec 4096)) (n : Nat) (from_ : Nat → Option Nat) : Prop :=
  ∀ k, k < n → activeAt mask k = true → ∀ j, from_ k = some j → x.marked j = false ∧ ∃ v, x.val j = .ok v

/-- The sources of an elementwise word can be read as far as its loop may go (R128, R129). -/
def State.Readable (s : State) (t : VType) (m : Mask3) (srcs : List Src) : Prop :=
  ∀ x, x ∈ srcs → x.Clean (loopLimit (s.grantLen t) (srcs.map (·.count))) ∧
    x.Decodes (s.maskOf m) (loopLimit (s.grantLen t) (srcs.map (·.count)))

/-- The active elements below `n`. -/
def activeBelow (mask : Option (BitVec 4096)) : Nat → Nat
  | 0 => 0
  | n + 1 => activeBelow mask n + (if activeAt mask n then 1 else 0)

/-- The address of element n of a vector load or store (R120). -/
def Form.elemAddr (fm : Form) (a : Word) (f : Fmt) (mask : Option (BitVec 4096)) (n : Nat) : Word :=
  fm.addr a (f.width / 8) n (activeBelow mask n)

/-- Element k of a load of a form takes marked bytes at a location (R316); `whole` says that the load is single-copy atomic by
sector (R256). -/
def State.elemBad (s : State) (fm : Form) (f : Fmt) (whole : Bool) (loc k : Nat) : Bool :=
  if whole then s.sectorBad loc (f.width / 8) else s.loadBad loc (f.width / 8) (fm.key k)

/-- The bytes that element k of a load of a form takes at a location. -/
def State.elemNat (s : State) (fm : Form) (f : Fmt) (whole : Bool) (loc k : Nat) : Nat :=
  if whole then s.sectorNat loc (f.width / 8) else s.loadNat loc (f.width / 8) (fm.key k)

/-- Every active element below `n` can be loaded (R122, R316), its index among them. -/
def State.Loadable (s : State) (fm : Form) (a : Word) (f : Fmt) (whole : Bool) (mask : Option (BitVec 4096)) (n : Nat) : Prop :=
  ∀ k, k < n → activeAt mask k = true → fm.check k = .ok () ∧
    ∃ loc, s.checkAccess s.ctx .load (fm.elemAddr a f mask k).toNat (f.width / 8) = .ok loc ∧
      s.elemBad fm f whole loc k = false

/-- The sectors that the active elements below `n` store: the highest element wins each byte (R125). -/
def State.stored (s : State) (fm : Form) (a : Word) (x : Src) (f : Fmt) (mask : Option (BitVec 4096)) :
    Nat → SMap BufSector
  | 0 => []
  | n + 1 =>
    let b := s.stored fm a x f mask n
    let ea := fm.elemAddr a f mask n
    match activeAt mask n, s.checkAccess s.ctx .store ea.toNat (f.width / 8) with
    | true, .ok loc => bufNat b ea.toNat loc (f.width / 8) (x.raw n)
    | _, _ => b

/-- Every active element below `n` can be stored: access checks, room in the store buffer (R109), unmarked data. -/
def State.Storable (s : State) (fm : Form) (a : Word) (x : Src) (f : Fmt) (mask : Option (BitVec 4096)) (n : Nat) : Prop :=
  ∀ k, k < n → activeAt mask k = true → fm.check k = .ok () ∧
    ∃ loc, s.checkAccess s.ctx .store (fm.elemAddr a f mask k).toNat (f.width / 8) = .ok loc ∧
      s.bufferFull (s.stored fm a x f mask k) (loc / 32) = false ∧ x.marked k = false

/-- Where code `n` of the stream at bit `a` begins: the codes before it are delimited by their prefixes (R25, R116). -/
def State.streamPos (s : State) (k : Coding) (a : Nat) : Nat → Nat
  | 0 => a
  | n + 1 =>
    let b := s.streamPos k a n
    match s.streamPrefix b 7 with
    | .ok c => b + codeLen k c
    | .error _ => b

/-- The first `n` codes of the stream at bit `a` can be read and are well formed (R36, R116). -/
def State.Codes (s : State) (k : Coding) (a n : Nat) : Prop :=
  ∀ j, j < n → (∃ c, s.streamPrefix (s.streamPos k a j) 7 = .ok c ∧
    s.streamCheck (s.streamPos k a j) (codeLen k c) = .ok ()) ∧
    decodeCode k s.streamBit (s.streamPos k a j) ≠ .malformed

/-! ### What a step leaves alone -/

/-- A sole keeps its weight slots, accumulator rows and live channel lines (R153, R221). -/
def SameSole (a b : Sole) : Prop := b.slots = a.slots ∧ b.rows = a.rows ∧ b.live = a.live

/-- The device outside cores and memory is unchanged, its error log apart. -/
def SameDev (a b : Dev) : Prop := { b with log := a.log, lost := a.lost } = a

/-- Everything outside the current sequencer's own registers is unchanged: every byte of memory and its marks, every
other sequencer, every front end, every sole's architectural state, partitions, launches, nests, queues, engines, scatter
rounds, saved contexts and the rest of the device. The clock and the error log may move. -/
structure SameMachine (s t : State) : Prop where
  cur      : t.cur = s.cur
  agenda   : t.agenda = s.agenda
  mem      : t.mem = s.mem
  others   : ∀ q, q ≠ s.cur → t.seqAt q = s.seqAt q
  uppers   : t.uppers = s.uppers
  soles    : ∀ n, SameSole (s.soleAt n) (t.soleAt n)
  parts    : t.parts = s.parts
  launches : t.launches = s.launches
  nests    : t.nests = s.nests
  queue    : t.queue = s.queue
  yields   : t.yields = s.yields
  cmds     : t.cmds = s.cmds
  rounds   : t.rounds = s.rounds
  flights  : t.flights = s.flights
  holds    : t.holds = s.holds
  saves    : t.saves = s.saves
  dev      : SameDev s.dev t.dev
  free     : t.free = s.free
  uid      : t.uid = s.uid
  tables   : t.nextTable = s.nextTable
  pages    : t.nextPage = s.nextPage

/-- The sequencer's state beside its scalar registers, PC, loop stack, delay slots, pace and mode: vector and mask
registers, type, grants, every control register and flag, strip, truss, pending tokens, record, fetched words, entry
window, double-fault latches and trap ring. Loads performed ahead or late and writes not seen yet are no state of the manual's (log 2). -/
structure SameContext (m n : Seq) : Prop where
  vregs   : n.vregs = m.vregs
  masks   : n.masks = m.masks
  vt      : n.vt = m.vt
  grant   : n.grant = m.grant
  ctl     : n.ctl = m.ctl
  strip   : n.strip = m.strip
  truss   : n.truss = m.truss
  pend    : n.pend = m.pend
  mmarks  : n.mmarks = m.mmarks
  work    : n.work = m.work
  level   : n.level = m.level
  age     : n.age = m.age
  held    : n.held = m.held
  fetched : n.fetched = m.fetched
  window  : n.window = m.window
  openAt  : n.openAt = m.openAt
  tokens  : ∀ r, r ∈ n.tokens → r ∈ m.tokens
  marked  : n.marked = m.marked
  shadow  : n.shadow = m.shadow
  trapSeq : n.trapSeq = m.trapSeq
  ring    : n.ring = m.ring

/-- The loop stack and delay slots change only by the advance past the word (R14, R92), and the mode and the reservation only
by a stop at an iteration boundary with a pre-emption pending (R297, R86). -/
structure Advanced (s : State) (m n : Seq) : Prop where
  loops : n.loops = m.loops ∨ (m.loops.depth ≠ 0 ∧ m.pc = (m.loops.top.stop - 4).setWidth 57)
  mode  : (n.mode = m.mode ∧ n.resv = m.resv) ∨ (n.mode = .stopped 2 ∧ n.resv = none ∧ s.stopPending = true)

/-- Every scalar register but `d` is unchanged; s0 is no destination (R8). -/
def SameRegsBut (d : Reg) (m n : Seq) : Prop := ∀ r : Reg, r ≠ d → n.sreg r = m.sreg r

/-- Every byte of memory reads as before, for any reader. -/
def SameBytes (s t : State) : Prop := ∀ a, t.byte a = s.byte a

/-- Every byte outside `n` locations from `a` reads as before. -/
def SameBytesBut (a n : Nat) (s t : State) : Prop := ∀ b, b < a ∨ a + n ≤ b → t.byte b = s.byte b

/-- The one scalar register that a word writes when all it does is to write a scalar register; s0, which no write changes,
for a word that writes none. Nothing for every other word. -/
def scalarDest : Instr → Option Reg
  | .add f | .sub f | .and f | .or f | .xor f | .andn f | .sll f | .srl f | .sra f | .rol f | .slt f | .sltn f | .seq f
    | .min f | .max f | .minn f | .maxn f | .addw f | .subw f | .adds1 f | .adds2 f | .adds3 f
    | .mul f | .mulh f | .mulhn f | .div f | .divn f | .rem f | .remn f | .bext f | .bins f
    | .ldxb f | .ldxbn f | .ldxh f | .ldxhn f | .ldxw f | .ldxwn f | .ldxd f | .mfg f => some f.d
  | .slli f | .srli f | .srai f | .roli f => some f.d
  | .clz f | .ctz f | .cpop f | .jalr f | .mpop f | .mfirst f | .wid f => some f.d
  | .addi f | .andi f | .ori f | .xori f | .ldd f | .ldw f | .ldwn f => some f.d
  | .lih f | .jal f => some f.d
  | .rdpc f | .lcnt f | .ldep f | .tmodr f | .tmodc f => some f.d
  | .tcget f => some f.a
  | .beq _ | .bne _ | .blt _ | .bge _ | .bltn _ | .bgen _ | .bgs _ | .bgsn _ | .pref _ | .cwb _ | .pause _ | .sdrain _ =>
    some 0
  | _ => none

/-- What a vector word may change when it takes no trap: vector registers `d` to `d + n - 1`, the grant file but `gl`, sticky
flags, which are only set, the store buffer of the open strip, and the counter of free values; beside what `Advanced`
says. -/
structure VectorChange (d n : Nat) (s t : State) : Prop where
  machine : SameMachine { s with free := t.free } t
  regs    : t.me.regs = s.me.regs
  vregs   : ∀ r : Reg, r.val < d ∨ d + n ≤ r.val → t.me.vregs.get r = s.me.vregs.get r
  masks   : t.me.masks = s.me.masks ∧ t.me.mmarks = s.me.mmarks
  vt      : t.me.vt = s.me.vt
  gl      : t.me.grant.gl = s.me.grant.gl
  ctl     : t.me.ctl = { s.me.ctl with status := t.me.ctl.status }
  flags   : t.me.ctl.status &&& ~~~stickyMask = s.me.ctl.status &&& ~~~stickyMask ∧
              s.me.ctl.status ||| t.me.ctl.status = t.me.ctl.status
  strip   : t.me.strip.map (fun x => { x with buf := [] }) = s.me.strip.map (fun x => { x with buf := [] })
  rest    : t.me.truss = s.me.truss ∧ t.me.pend = s.me.pend ∧ t.me.work = s.me.work ∧ t.me.level = s.me.level ∧
              t.me.held = s.me.held ∧ t.me.window = s.me.window ∧ t.me.ring = s.me.ring
  advance : Advanced s s.me t.me

/-- The vector registers that a vector word may write: the first one, and how many. Nothing for another word. A store
writes none. -/
def vectorDest (s : State) : Instr → Option (Nat × Nat)
  | .vadd f | .vsub f | .vmul f | .vdiv f | .vmin f | .vmax f | .vabsd f | .vand f | .vor f | .vxor f | .vsll f | .vsrl f
    | .vsra f | .vadds f | .vmuls f | .vfma f | .vfms f | .vfnma f | .vcvt f | .vsel f | .vslup f | .vsldn f | .vperm f
    | .vredo f | .vredt f | .vredmin f | .vredmax f | .vscano f | .vscanf f | .vlds f | .vldso f | .vldx f | .vldxo f =>
    some (f.d.val, s.typeOr.g)
  | .vneg f | .vabs f | .vsqrt f | .vmov f | .vcomp f | .vld f | .vldb f | .vldo f => some (f.d.val, s.typeOr.g)
  | .vbcast f => some (f.d.val, s.typeOr.g)
  | .vid f => some (f.d.val, s.typeOr.g)
  | .vtsum f | .vtprod f => some (f.d.val, 2 * s.typeOr.g)
  | .vqnt f | .zfind f => some (f.d.val, s.typeOr.g)
  | .vdqnt f => some (f.d.val, 8 * s.typeOr.g)
  | .zld f => some (f.d.val, s.typeOr.g)
  | .tdrain f => some (f.a.val, s.typeOr.g)
  | .vst _ | .vstc _ | .vsto _ | .vsts _ | .vstso _ | .vstx _ | .vstxo _ | .zst _ => some (0, 0)
  | _ => none

/-- What a truss word may change when it takes no trap: rows, the truss context, the grant file but `gl`, and the journal of
the open strip. -/
structure TrussChange (s t : State) : Prop where
  mem    : t.mem = s.mem
  others : ∀ q, q ≠ s.cur → t.seqAt q = s.seqAt q
  soles  : ∀ n, n ≠ s.image → t.soleAt n = s.soleAt n
  slots  : t.sole.slots = s.sole.slots
  rest   : t.uppers = s.uppers ∧ t.parts = s.parts ∧ t.launches = s.launches ∧ t.nests = s.nests ∧ t.queue = s.queue ∧
             t.cmds = s.cmds ∧ t.rounds = s.rounds ∧ t.flights = s.flights ∧ t.free = s.free ∧ SameDev s.dev t.dev
  regs   : t.me.regs = s.me.regs
  vregs  : t.me.vregs = s.me.vregs
  masks  : t.me.masks = s.me.masks
  vt     : t.me.vt = s.me.vt
  gl     : t.me.grant.gl = s.me.grant.gl
  ctl    : t.me.ctl = s.me.ctl
  mode   : t.me.truss.tm = s.me.truss.tm ∧ t.me.truss.tmc = s.me.truss.tmc

/-- The rows that a truss word may write. -/
def trussRows (s : State) : Instr → Option (List Nat)
  | .tmac f | .tdist f => some [f.row.val]
  | .tacc f | .tfill f => some [f.row.val]
  | .tcupd f => some [f.row.val + (s.me.truss.tb.map (·.1)).getD 0]
  | .tzero f | .tcdiv f => some ((List.range (s.sreg f.a).toNat).map (· + f.row.val))
  | _ => none

/-! ### Invariants -/

/-- The memory is in its canonical form. -/
def State.MemoryOk (s : State) : Prop := Memory.wf s.mem.cells = true

/-- The keys of a sparse map rise, so that each stands once. -/
def SMap.Rising {α : Type} (m : SMap α) : Prop := m.Pairwise (fun x y => x.1 < y.1)

/-! ### Requests -/

/-- The header and body of an event that is a request of a port (R343, R354). -/
def requestOf : Instr → Option (Hdr × Req)
  | .createPartition h b => some (h, .createPartition b)
  | .destroyPartition h number => some (h, .destroyPartition number)
  | .resize h number delta => some (h, .resize number delta)
  | .installKey h slot k1 k2 => some (h, .installKey slot k1 k2)
  | .releaseKey h slot => some (h, .releaseKey slot)
  | .setPatternTable h addr => some (h, .setPatternTable addr)
  | .setHandler h addr => some (h, .setHandler addr)
  | .openSession h => some (h, .openSession)
  | .closeSession h => some (h, .closeSession)
  | .map h b => some (h, .map b)
  | .unmap h addr size => some (h, .unmap addr size)
  | .copy h addr len toDevice => some (h, .copy addr len toDevice)
  | .launch h addr => some (h, .launch addr)
  | .cancel h token => some (h, .cancel token)
  | .signal h addr val => some (h, .signal addr val)
  | .latencyTolerance h ns => some (h, .latencyTolerance ns)
  | .registerGroup h g => some (h, .registerGroup g)
  | .configurePort h port role => some (h, .configurePort port role)
  | .fetchDump h off len => some (h, .fetchDump off len)
  | .readTrapLog h q count => some (h, .readTrapLog q count)
  | .unknownRequestType h => some (h, .unknown)
  | .attest h nonce => some (h, .attest nonce)
  | .writeImage h off piece => some (h, .writeImage off piece)
  | .activateImage h => some (h, .activateImage)
  | .readSensors h => some (h, .readSensors)
  | .readErrorLog h first count => some (h, .readErrorLog first count)
  | .mgmtFetchDump h off len => some (h, .mgmtFetchDump off len)
  | .resetDevice h => some (h, .resetDevice)
  | .powerOff h => some (h, .powerOff)
  | _ => none

/-- The state in which a request is served: a host request wakes the partition it names (R343, R362). -/
def State.arrived (s : State) (h : Hdr) (r : Req) : State :=
  match (if h.mgmt then none else wakes h r) with
  | some n => s.wake n
  | none => s

/-- A request of header h is the next of session x, which holds no other, on a device that serves; `mgmt` names the port. A host
port has role 0 (R339), and the header is one that R342 allows. -/
structure State.InTurn (s : State) (h : Hdr) (x : Session) (mgmt : Bool) : Prop where
  up : s.dev.running = .up
  port : h.mgmt = mgmt
  role : mgmt = false → h.port < 16 ∧ ((SMap.find s.dev.ports h.port).getD Port.initial).role = 0
  header : h.version = 1 ∧ h.zeros = true ∧ h.len ≤ bodyLimit
  found : s.session h = some x
  next : h.seq.toNat = x.next
  alone : x.held = []

/-- The state in which such a request is served: it waits alone in its session. -/
def State.serving (s : State) (h : Hdr) (r : Req) (x : Session) : State :=
  (s.arrived h r).setSession { x with held := [⟨x.next, h, r, s.clock, none⟩], gapSince := none }

/-- The request `i` takes effect and is answered: `effect` holds of the state in which it has been served; then its reply
leaves and is kept in the session, which goes on to its next number (R347). -/
def State.Replies (s : State) (i : Instr) (h : Hdr) (x : Session) (status : Nat) (body : List Byte)
    (effect : State → Prop) : Prop :=
  ∃ (r : Req) (v : State), requestOf i = some (h, r) ∧ effect v ∧
    exec i s = .next ((v.post (replyTo h (reqType r) status body)).answered h x.next (replyTo h (reqType r) status body))

end Sys2Proof.Machine
end

