-- ==== Sys2Proof/Certificates/Slice0/Obligations.lean ====
section
/-!
DEFINITION. Statements about the machine, for the provers. Each docstring names the rules it formalises.
-/

open Sys2Proof Sys2Proof.Machine

/-- Major 0x01 writes the results of R77's table to sD (R76: everything wraps); `lih` shifts its immediate in (R82). -/
def Obligations.ScalarResults : Prop :=
  (∀ (s : State) (f : R3),
    let A : Word := s.sreg f.a
    let B : Word := s.sreg f.b
    (s.Ready (.add f) →
      exec (.add f) s = .next ((s.due.setS f.d (A + B)).retire (.add f) .seq)) ∧
    (s.Ready (.sub f) →
      exec (.sub f) s = .next ((s.due.setS f.d (A - B)).retire (.sub f) .seq)) ∧
    (s.Ready (.and f) →
      exec (.and f) s = .next ((s.due.setS f.d (A &&& B)).retire (.and f) .seq)) ∧
    (s.Ready (.or f) →
      exec (.or f) s = .next ((s.due.setS f.d (A ||| B)).retire (.or f) .seq)) ∧
    (s.Ready (.xor f) →
      exec (.xor f) s = .next ((s.due.setS f.d (A ^^^ B)).retire (.xor f) .seq)) ∧
    (s.Ready (.andn f) →
      exec (.andn f) s = .next ((s.due.setS f.d (A &&& ~~~B)).retire (.andn f) .seq)) ∧
    (s.Ready (.sll f) →
      exec (.sll f) s = .next ((s.due.setS f.d (A <<< (B.toNat % 64))).retire (.sll f) .seq)) ∧
    (s.Ready (.srl f) →
      exec (.srl f) s = .next ((s.due.setS f.d (A >>> (B.toNat % 64))).retire (.srl f) .seq)) ∧
    (s.Ready (.sra f) →
      exec (.sra f) s = .next ((s.due.setS f.d (A.sshiftRight (B.toNat % 64))).retire (.sra f) .seq)) ∧
    (s.Ready (.rol f) →
      exec (.rol f) s = .next ((s.due.setS f.d (A.rotateLeft (B.toNat % 64))).retire (.rol f) .seq)) ∧
    (s.Ready (.slt f) →
      exec (.slt f) s = .next ((s.due.setS f.d (if A.toInt < B.toInt then 1 else 0)).retire (.slt f) .seq)) ∧
    (s.Ready (.sltn f) →
      exec (.sltn f) s = .next ((s.due.setS f.d (if A.toNat < B.toNat then 1 else 0)).retire (.sltn f) .seq)) ∧
    (s.Ready (.seq f) →
      exec (.seq f) s = .next ((s.due.setS f.d (if A = B then 1 else 0)).retire (.seq f) .seq)) ∧
    (s.Ready (.min f) →
      exec (.min f) s = .next ((s.due.setS f.d (BitVec.ofInt 64 (min A.toInt B.toInt))).retire (.min f) .seq)) ∧
    (s.Ready (.max f) →
      exec (.max f) s = .next ((s.due.setS f.d (BitVec.ofInt 64 (max A.toInt B.toInt))).retire (.max f) .seq)) ∧
    (s.Ready (.minn f) →
      exec (.minn f) s = .next ((s.due.setS f.d (BitVec.ofNat 64 (min A.toNat B.toNat))).retire (.minn f) .seq)) ∧
    (s.Ready (.maxn f) →
      exec (.maxn f) s = .next ((s.due.setS f.d (BitVec.ofNat 64 (max A.toNat B.toNat))).retire (.maxn f) .seq)) ∧
    (s.Ready (.addw f) →
      exec (.addw f) s = .next ((s.due.setS f.d (((A + B).setWidth 32).signExtend 64)).retire (.addw f) .seq)) ∧
    (s.Ready (.subw f) →
      exec (.subw f) s = .next ((s.due.setS f.d (((A - B).setWidth 32).signExtend 64)).retire (.subw f) .seq)) ∧
    (s.Ready (.adds1 f) →
      exec (.adds1 f) s = .next ((s.due.setS f.d (A + (B <<< 1))).retire (.adds1 f) .seq)) ∧
    (s.Ready (.adds2 f) →
      exec (.adds2 f) s = .next ((s.due.setS f.d (A + (B <<< 2))).retire (.adds2 f) .seq)) ∧
    (s.Ready (.adds3 f) →
      exec (.adds3 f) s = .next ((s.due.setS f.d (A + (B <<< 3))).retire (.adds3 f) .seq))) ∧
  (∀ (s : State) (f : Shift),
    let A : Word := s.sreg f.a
    (s.Ready (.slli f) →
      exec (.slli f) s = .next ((s.due.setS f.d (A <<< f.k.val)).retire (.slli f) .seq)) ∧
    (s.Ready (.srli f) →
      exec (.srli f) s = .next ((s.due.setS f.d (A >>> f.k.val)).retire (.srli f) .seq)) ∧
    (s.Ready (.srai f) →
      exec (.srai f) s = .next ((s.due.setS f.d (A.sshiftRight f.k.val)).retire (.srai f) .seq)) ∧
    (s.Ready (.roli f) →
      exec (.roli f) s = .next ((s.due.setS f.d (A.rotateLeft f.k.val)).retire (.roli f) .seq))) ∧
  (∀ (s : State) (f : ImmJ),
    (s.Ready (.lih f) →
      exec (.lih f) s = .next ((s.due.setS f.d ((s.sreg f.d <<< 18) ||| f.imm.setWidth 64)).retire (.lih f) .seq)))

/-- The products, quotients and remainders of major 0x02 (R78, R79). -/
def Obligations.MultiplyDivide : Prop :=
  ∀ (s : State) (f : R3),
    let A : Word := s.sreg f.a
    let B : Word := s.sreg f.b
    (s.Ready (.mul f) →
      exec (.mul f) s = .next ((s.due.setS f.d (A * B)).retire (.mul f) .seq)) ∧
    (s.Ready (.mulh f) →
      exec (.mulh f) s = .next ((s.due.setS f.d (BitVec.ofInt 64 (A.toInt * B.toInt / 2 ^ 64))).retire (.mulh f) .seq)) ∧
    (s.Ready (.mulhn f) →
      exec (.mulhn f) s = .next ((s.due.setS f.d (BitVec.ofNat 64 (A.toNat * B.toNat / 2 ^ 64))).retire (.mulhn f) .seq)) ∧
    (s.Ready (.div f) →
      exec (.div f) s = .next ((s.due.setS f.d (if B = 0 then BitVec.allOnes 64 else BitVec.ofInt 64 (A.toInt.tdiv B.toInt))).retire (.div f) .seq)) ∧
    (s.Ready (.divn f) →
      exec (.divn f) s = .next ((s.due.setS f.d (if B = 0 then BitVec.allOnes 64 else BitVec.ofNat 64 (A.toNat / B.toNat))).retire (.divn f) .seq)) ∧
    (s.Ready (.rem f) →
      exec (.rem f) s = .next ((s.due.setS f.d (if B = 0 then A else BitVec.ofInt 64 (A.toInt.tmod B.toInt))).retire (.rem f) .seq)) ∧
    (s.Ready (.remn f) →
      exec (.remn f) s = .next ((s.due.setS f.d (if B = 0 then A else BitVec.ofNat 64 (A.toNat % B.toNat))).retire (.remn f) .seq))

/-- The corners of division (R79), for every form: none of them traps. -/
def Obligations.DivisionCorners : Prop :=
  ∀ (s : State) (f : R3),
    (s.sreg f.b = 0 →
      (s.Ready (.div f) → exec (.div f) s = .next ((s.due.setS f.d (-1)).retire (.div f) .seq)) ∧
      (s.Ready (.divn f) → exec (.divn f) s = .next ((s.due.setS f.d 18446744073709551615).retire (.divn f) .seq)) ∧
      (s.Ready (.rem f) → exec (.rem f) s = .next ((s.due.setS f.d (s.sreg f.a)).retire (.rem f) .seq)) ∧
      (s.Ready (.remn f) → exec (.remn f) s = .next ((s.due.setS f.d (s.sreg f.a)).retire (.remn f) .seq))) ∧
    (s.sreg f.a = 0x8000000000000000 ∧ s.sreg f.b = -1 →
      (s.Ready (.div f) → exec (.div f) s = .next ((s.due.setS f.d 0x8000000000000000).retire (.div f) .seq)) ∧
      (s.Ready (.rem f) → exec (.rem f) s = .next ((s.due.setS f.d 0).retire (.rem f) .seq)))

/-- `clz`, `ctz` and `cpop` write the counts of R78, and `bext` and `bins` move the field that b selects (R80), all described bit
by bit. -/
def Obligations.BitWords : Prop :=
  (∀ (s : State) (f : R2),
    let A : Word := s.sreg f.a
    (s.Ready (.clz f) → ∃ n : Nat, n ≤ 64 ∧ (∀ k, 64 - n ≤ k → k < 64 → A.getLsbD k = false) ∧
      (n < 64 → A.getLsbD (63 - n) = true) ∧
      exec (.clz f) s = .next ((s.due.setS f.d (BitVec.ofNat 64 n)).retire (.clz f) .seq)) ∧
    (s.Ready (.ctz f) → ∃ n : Nat, n ≤ 64 ∧ (∀ k, k < n → A.getLsbD k = false) ∧
      (n < 64 → A.getLsbD n = true) ∧
      exec (.ctz f) s = .next ((s.due.setS f.d (BitVec.ofNat 64 n)).retire (.ctz f) .seq)) ∧
    (s.Ready (.cpop f) →
      exec (.cpop f) s = .next ((s.due.setS f.d
        (BitVec.ofNat 64 ((List.range 64).filter (fun k => A.getLsbD k)).length)).retire (.cpop f) .seq))) ∧
  (∀ (s : State) (f : R3),
    let A : Word := s.sreg f.a
    let p := (s.sreg f.b).toNat % 64
    let n := (s.sreg f.b).toNat / 256 % 128
    (s.Ready (.bext f) → ∃ x : Word,
      (∀ k, k < 64 → x.getLsbD k = (decide (k < n) && A.getLsbD (p + k))) ∧
      exec (.bext f) s = .next ((s.due.setS f.d x).retire (.bext f) .seq)) ∧
    (s.Ready (.bins f) → ∃ x : Word,
      (∀ k, k < 64 → x.getLsbD k = if p ≤ k ∧ k < p + n then A.getLsbD (k - p) else (s.sreg f.d).getLsbD k) ∧
      exec (.bins f) s = .next ((s.due.setS f.d x).retire (.bins f) .seq)))

/-- The I-format arithmetic (R81). -/
def Obligations.Immediates : Prop :=
  ∀ (s : State) (f : ImmI),
    let A : Word := s.sreg f.a
    (s.Ready (.addi f) →
      exec (.addi f) s = .next ((s.due.setS f.d (A + f.imm.signExtend 64)).retire (.addi f) .seq)) ∧
    (s.Ready (.andi f) →
      exec (.andi f) s = .next ((s.due.setS f.d (A &&& f.imm.signExtend 64)).retire (.andi f) .seq)) ∧
    (s.Ready (.ori f) →
      exec (.ori f) s = .next ((s.due.setS f.d (A ||| f.imm.signExtend 64)).retire (.ori f) .seq)) ∧
    (s.Ready (.xori f) →
      exec (.xori f) s = .next ((s.due.setS f.d (A ^^^ f.imm.signExtend 64)).retire (.xori f) .seq))

/-- The frame of the words of `scalarDest` (R64, R76, R83, R87, R89): what they leave alone, in any state, unless they trap. A trap writes
a trap record (R285), which `trapSeq` counts. -/
def Obligations.ScalarFrame : Prop :=
  ∀ (i : Instr) (d : Reg) (s t : State), scalarDest i = some d → exec i s = .next t → t.me.trapSeq = s.me.trapSeq →
    SameMachine s t ∧ SameContext s.me t.me ∧ SameRegsBut d s.me t.me ∧ Advanced s s.me t.me ∧ SameBytes s t

/-- The scalar loads of R84, by R83: `u` is the state in which the word is performed, `loc` the location of its bytes. A load that
was performed ahead of its place (R258; the model's choice, log 2) gives the bytes it took; a load of some of the bytes that was
performed ahead before it is void, and one performed ahead after it stands. -/
def Obligations.LoadResults : Prop :=
  (∀ (s : State) (f : R3) (loc : Nat),
    let u := s.due
    let ea : Word := s.sreg f.a + s.sreg f.b
    (s.Ready (.ldxb f) → u.checkAccess u.ctx .load ea.toNat 1 = .ok loc → u.loadBad loc 1 0 = false →
      exec (.ldxb f) s = .next (((u.setS f.d ((BitVec.ofNat 8 (u.loadNat loc 1 0)).signExtend 64)).loaded [u.accessAt loc 1]).retire (.ldxb f) .seq)) ∧
    (s.Ready (.ldxbn f) → u.checkAccess u.ctx .load ea.toNat 1 = .ok loc → u.loadBad loc 1 0 = false →
      exec (.ldxbn f) s = .next (((u.setS f.d ((BitVec.ofNat 8 (u.loadNat loc 1 0)).setWidth 64)).loaded [u.accessAt loc 1]).retire (.ldxbn f) .seq)) ∧
    (s.Ready (.ldxh f) → u.checkAccess u.ctx .load ea.toNat 2 = .ok loc → u.loadBad loc 2 0 = false →
      exec (.ldxh f) s = .next (((u.setS f.d ((BitVec.ofNat 16 (u.loadNat loc 2 0)).signExtend 64)).loaded [u.accessAt loc 2]).retire (.ldxh f) .seq)) ∧
    (s.Ready (.ldxhn f) → u.checkAccess u.ctx .load ea.toNat 2 = .ok loc → u.loadBad loc 2 0 = false →
      exec (.ldxhn f) s = .next (((u.setS f.d ((BitVec.ofNat 16 (u.loadNat loc 2 0)).setWidth 64)).loaded [u.accessAt loc 2]).retire (.ldxhn f) .seq)) ∧
    (s.Ready (.ldxw f) → u.checkAccess u.ctx .load ea.toNat 4 = .ok loc → u.loadBad loc 4 0 = false →
      exec (.ldxw f) s = .next (((u.setS f.d ((BitVec.ofNat 32 (u.loadNat loc 4 0)).signExtend 64)).loaded [u.accessAt loc 4]).retire (.ldxw f) .seq)) ∧
    (s.Ready (.ldxwn f) → u.checkAccess u.ctx .load ea.toNat 4 = .ok loc → u.loadBad loc 4 0 = false →
      exec (.ldxwn f) s = .next (((u.setS f.d ((BitVec.ofNat 32 (u.loadNat loc 4 0)).setWidth 64)).loaded [u.accessAt loc 4]).retire (.ldxwn f) .seq)) ∧
    (s.Ready (.ldxd f) → u.checkAccess u.ctx .load ea.toNat 8 = .ok loc → u.loadBad loc 8 0 = false →
      exec (.ldxd f) s = .next (((u.setS f.d ((BitVec.ofNat 64 (u.loadNat loc 8 0)).setWidth 64)).loaded [u.accessAt loc 8]).retire (.ldxd f) .seq))) ∧
  (∀ (s : State) (f : ImmI) (loc : Nat),
    let u := s.due
    let ea : Word := s.sreg f.a + f.imm.signExtend 64
    (s.Ready (.ldd f) → u.checkAccess u.ctx .load ea.toNat 8 = .ok loc → u.loadBad loc 8 0 = false →
      exec (.ldd f) s = .next (((u.setS f.d ((BitVec.ofNat 64 (u.loadNat loc 8 0)).setWidth 64)).loaded [u.accessAt loc 8]).retire (.ldd f) .seq)) ∧
    (s.Ready (.ldw f) → u.checkAccess u.ctx .load ea.toNat 4 = .ok loc → u.loadBad loc 4 0 = false →
      exec (.ldw f) s = .next (((u.setS f.d ((BitVec.ofNat 32 (u.loadNat loc 4 0)).signExtend 64)).loaded [u.accessAt loc 4]).retire (.ldw f) .seq)) ∧
    (s.Ready (.ldwn f) → u.checkAccess u.ctx .load ea.toNat 4 = .ok loc → u.loadBad loc 4 0 = false →
      exec (.ldwn f) s = .next (((u.setS f.d ((BitVec.ofNat 32 (u.loadNat loc 4 0)).setWidth 64)).loaded [u.accessAt loc 4]).retire (.ldwn f) .seq))) ∧
  (∀ (u : State) (loc n : Nat),
    let t := u.loaded [u.accessAt loc n]
    (u.me.earlyAt loc n 0 = none → u.loadNat loc n 0 = u.viewNat loc n ∧ u.loadBad loc n 0 = u.viewBad loc n ∧
      (∀ e, e ∈ t.me.early ↔ e ∈ u.me.early ∧ (e.loc + e.size ≤ loc ∨ loc + n ≤ e.loc))) ∧
    (∀ x newer older, 0 < n → u.me.early = newer ++ x :: older → x ∉ newer → u.me.earlyAt loc n 0 = some x →
      u.loadNat loc n 0 = x.data % 256 ^ n ∧ u.loadBad loc n 0 = x.bad ∧
      (∀ e, e ∈ t.me.early ↔ e ∈ newer ∨ (e ∈ older ∧ (e.loc + e.size ≤ loc ∨ loc + n ≤ e.loc)))))

/-- The scalar stores of R84, by R83 and R109: the sectors stored are those of the bytes at the effective address. -/
def Obligations.StoreResults : Prop :=
  (∀ (s : State) (f : R3) (loc : Nat),
    let u := s.due
    let ea : Word := s.sreg f.a + s.sreg f.b
    (s.Ready (.stxb f) → u.checkAccess u.ctx .store ea.toNat 1 = .ok loc → u.bufferFull [] (loc / 32) = false →
      exec (.stxb f) s = .next ((u.store (bufNat [] ea.toNat loc 1 (s.sreg f.d).toNat)).retire (.stxb f) .seq)) ∧
    (s.Ready (.stxh f) → u.checkAccess u.ctx .store ea.toNat 2 = .ok loc → u.bufferFull [] (loc / 32) = false →
      exec (.stxh f) s = .next ((u.store (bufNat [] ea.toNat loc 2 (s.sreg f.d).toNat)).retire (.stxh f) .seq)) ∧
    (s.Ready (.stxw f) → u.checkAccess u.ctx .store ea.toNat 4 = .ok loc → u.bufferFull [] (loc / 32) = false →
      exec (.stxw f) s = .next ((u.store (bufNat [] ea.toNat loc 4 (s.sreg f.d).toNat)).retire (.stxw f) .seq)) ∧
    (s.Ready (.stxd f) → u.checkAccess u.ctx .store ea.toNat 8 = .ok loc → u.bufferFull [] (loc / 32) = false →
      exec (.stxd f) s = .next ((u.store (bufNat [] ea.toNat loc 8 (s.sreg f.d).toNat)).retire (.stxd f) .seq))) ∧
  (∀ (s : State) (f : ImmB) (loc : Nat),
    let u := s.due
    let ea : Word := s.sreg f.a + f.imm.signExtend 64
    (s.Ready (.std f) → u.checkAccess u.ctx .store ea.toNat 8 = .ok loc → u.bufferFull [] (loc / 32) = false →
      exec (.std f) s = .next ((u.store (bufNat [] ea.toNat loc 8 (s.sreg f.b).toNat)).retire (.std f) .seq)) ∧
    (s.Ready (.stw f) → u.checkAccess u.ctx .store ea.toNat 4 = .ok loc → u.bufferFull [] (loc / 32) = false →
      exec (.stw f) s = .next ((u.store (bufNat [] ea.toNat loc 4 (s.sreg f.b).toNat)).retire (.stw f) .seq))) ∧
  (∀ (s : State) (f : Pair) (loc : Nat),
    let u := s.due
    let ea : Word := (s.sreg f.a + s.sreg f.b) &&& ~~~63
    s.Ready (.czero f) → u.checkAccess u.ctx .store ea.toNat 64 = .ok loc → u.bufferFull [] (loc / 32) = false →
      u.bufferFull (bufNat [] ea.toNat loc 32 0) (loc / 32 + 1) = false →
      exec (.czero f) s = .next ((u.store (bufNat [] ea.toNat loc 64 0)).retire (.czero f) .seq))

/-- Where a store's bytes go (R12, R16, R18, R83). -/
def Obligations.StoreBytes : Prop :=
  ∀ (s : State) (va loc n v : Nat), s.MemoryOk → (n = 1 ∨ n = 2 ∨ n = 4 ∨ n = 8) → loc % n = 0 → s.liveLine (loc / 32 * 32) = false →
    let t := s.store (bufNat [] va loc n v)
    (s.me.strip = none →
      (∀ k, k < n → t.byte (loc + k) = BitVec.ofNat 8 (v / 256 ^ k)) ∧ SameBytesBut loc n s t) ∧
    (s.me.strip.isSome = true →
      SameBytes s t ∧ (∀ k, k < n → t.viewByte (loc + k) = BitVec.ofNat 8 (v / 256 ^ k)) ∧
      (∀ b, b < loc ∨ loc + n ≤ b → t.viewByte b = s.viewByte b))

/-- The two address checks of R83, made before any state changes, for every scalar access of R84 and R86. -/
def Obligations.ScalarAddressTraps : Prop :=
  ∀ (s : State) (i : Instr) (ea : Word) (n : Nat),
    ((∃ f : R3, ea = s.sreg f.a + s.sreg f.b ∧
        (i, n) ∈ [(Instr.ldxb f, 1), (.ldxbn f, 1), (.ldxh f, 2), (.ldxhn f, 2), (.ldxw f, 4), (.ldxwn f, 4), (.ldxd f, 8),
          (.stxb f, 1), (.stxh f, 2), (.stxw f, 4), (.stxd f, 8)]) ∨
      (∃ f : ImmI, ea = s.sreg f.a + f.imm.signExtend 64 ∧ (i, n) ∈ [(Instr.ldd f, 8), (.ldw f, 4), (.ldwn f, 4)]) ∨
      (∃ f : ImmB, ea = s.sreg f.a + f.imm.signExtend 64 ∧ (i, n) ∈ [(Instr.std f, 8), (.stw f, 4)]) ∨
      (∃ f : Pair, ea = (s.sreg f.a + s.sreg f.b) &&& ~~~63 ∧ (i, n) = (Instr.czero f, 64)) ∨
      (∃ f : R2, ea = s.sreg f.a ∧ (i, n) ∈ [(Instr.lr f, 8), (.lrw f, 4)]) ∨
      (∃ f : R3, ea = s.sreg f.a ∧ (i, n) ∈ [(Instr.sc f, 8), (.scw f, 4)])) → s.Ready i →
    (2 ^ 57 ≤ ea.toNat → exec i s = .next (s.due.trapped i ⟨Cause.addressRange, 0, 8 * ea.toNat, none⟩)) ∧
    (ea.toNat < 2 ^ 57 → ea.toNat % n ≠ 0 → exec i s = .next (s.due.trapped i ⟨Cause.misaligned, 0, 8 * ea.toNat, none⟩))

/-- The reserved pair (R86): `u` is the state after the commit of an open strip. `loaded` voids what was loaded ahead of its place from
the bytes (log 2). -/
def Obligations.ReservedPair : Prop :=
  (∀ (s : State) (f : R2) (loc : Nat),
    let u := s.due.commitStrip
    let ea := (s.sreg f.a).toNat
    (s.Ready (.lr f) → s.due.checkAccess s.due.ctx .load ea 8 = .ok loc → u.viewBad loc 8 = false →
      ∃ t, t = u.setS f.d (BitVec.ofNat 64 (u.viewNat loc 8)) ∧
        exec (.lr f) s = .next (((t.setMe { t.me with resv := some (loc / 64) }).loaded [inPlace loc 8]).retire (.lr f) .seq)) ∧
    (s.Ready (.lrw f) → s.due.checkAccess s.due.ctx .load ea 4 = .ok loc → u.viewBad loc 4 = false →
      ∃ t, t = u.setS f.d ((BitVec.ofNat 32 (u.viewNat loc 4)).signExtend 64) ∧
        exec (.lrw f) s = .next (((t.setMe { t.me with resv := some (loc / 64) }).loaded [inPlace loc 4]).retire (.lrw f) .seq))) ∧
  (∀ (s : State) (f : R3) (loc n : Nat) (i : Instr), (i, n) ∈ [(Instr.sc f, 8), (.scw f, 4)] →
    s.Ready i → s.due.checkAccess s.due.ctx .store (s.sreg f.a).toNat n = .ok loc →
    let u := s.due.commitStrip
    let t := u.setMe { u.me with resv := none }
    exec i s = .next (State.retire i .seq
      (if u.me.resv = some (loc / 64) then
        (t.store (bufNat [] (s.sreg f.a).toNat loc n (s.sreg f.b).toNat)).setS f.d 0
      else t.setS f.d 1)))

/-- The cache-line hints (R85): they change no value; only `cwb` checks its address, with access size 1 (R83). -/
def Obligations.CacheHints : Prop :=
  ∀ (s : State) (f : Pair),
    let ea := (s.sreg f.a + s.sreg f.b).toNat
    (s.Ready (.pref f) → exec (.pref f) s = .next (s.due.retire (.pref f) .seq)) ∧
    (s.Ready (.cwb f) → ea < 2 ^ 57 → exec (.cwb f) s = .next (s.due.retire (.cwb f) .seq)) ∧
    (s.Ready (.cwb f) → 2 ^ 57 ≤ ea →
      exec (.cwb f) s = .next (s.due.trapped (.cwb f) ⟨Cause.addressRange, 0, 8 * ea, none⟩)) ∧
    (∀ i f', SameBytes s.due (s.due.retire i f'))

/-- The branches (R87, R88) and the two delay slots of a transfer (R14): the words at pc + 4 and pc + 8 run before the target. -/
def Obligations.Branches : Prop :=
  (∀ (s : State) (f : ImmB),
    let A : Word := s.sreg f.a
    let B : Word := s.sreg f.b
    let target : VAddr := s.me.pc + 4 * f.imm.signExtend 57
    (s.Ready (.beq f) →
      exec (.beq f) s = .next (s.due.retire (.beq f) (.branch (if A = B then some target else none)))) ∧
    (s.Ready (.bne f) →
      exec (.bne f) s = .next (s.due.retire (.bne f) (.branch (if A ≠ B then some target else none)))) ∧
    (s.Ready (.blt f) →
      exec (.blt f) s = .next (s.due.retire (.blt f) (.branch (if A.toInt < B.toInt then some target else none)))) ∧
    (s.Ready (.bge f) →
      exec (.bge f) s = .next (s.due.retire (.bge f) (.branch (if B.toInt ≤ A.toInt then some target else none)))) ∧
    (s.Ready (.bltn f) →
      exec (.bltn f) s = .next (s.due.retire (.bltn f) (.branch (if A.toNat < B.toNat then some target else none)))) ∧
    (s.Ready (.bgen f) →
      exec (.bgen f) s = .next (s.due.retire (.bgen f) (.branch (if B.toNat ≤ A.toNat then some target else none))))) ∧
  (∀ (s : State) (f : Grant),
    let target : VAddr := s.me.pc + 4 * f.imm.signExtend 57
    (s.Ready (.bgs f) → exec (.bgs f) s =
      .next (s.due.retire (.bgs f) (.branch (if s.me.grant.gs.toNat = f.k.val then some target else none)))) ∧
    (s.Ready (.bgsn f) → exec (.bgsn f) s =
      .next (s.due.retire (.bgsn f) (.branch (if s.me.grant.gs.toNat ≠ f.k.val then some target else none))))) ∧
  (∀ (s : State) (i : Instr) (t : Option VAddr), (∀ n o, s.me.delay ≠ some ⟨n, some o⟩) →
    (s.retire i (.branch t)).me.pc = s.me.pc + 4 ∧ (s.retire i (.branch t)).me.delay = some ⟨2, t⟩) ∧
  (∀ (s : State) (i : Instr) (t : VAddr), s.me.owed = none →
    (s.me.delay = some ⟨2, some t⟩ →
      (s.retire i .seq).me.pc = s.me.pc + 4 ∧ (s.retire i .seq).me.delay = some ⟨1, some t⟩) ∧
    (s.me.delay = some ⟨1, some t⟩ → (s.retire i .seq).me.pc = t ∧ (s.retire i .seq).me.delay = none)) ∧
  (∀ (s : State) (i : Instr), lastWord s.me.loops ≠ some s.me.pc →
    (s.me.delay = some ⟨2, none⟩ →
      (s.retire i .seq).me.pc = s.me.pc + 4 ∧ (s.retire i .seq).me.delay = some ⟨1, none⟩) ∧
    (s.me.delay = some ⟨1, none⟩ → (s.retire i .seq).me.pc = s.me.pc + 4 ∧ (s.retire i .seq).me.delay = none))

/-- The jumps (R89). -/
def Obligations.Jumps : Prop :=
  (∀ (s : State) (f : ImmJ), s.Ready (.jal f) →
    exec (.jal f) s = .next ((s.due.setS f.d ((s.me.pc + 12).setWidth 64)).retire (.jal f)
      (.branch (some (s.me.pc + 4 * f.imm.signExtend 57))))) ∧
  (∀ (s : State) (f : R2), s.Ready (.jalr f) →
    let a := s.sreg f.a
    (a.toNat % 4 = 0 → a.toNat < 2 ^ 57 →
      exec (.jalr f) s = .next ((s.due.setS f.d ((s.me.pc + 12).setWidth 64)).retire (.jalr f)
        (.branch (some (a.setWidth 57))))) ∧
    (a.toNat % 4 ≠ 0 ∨ 2 ^ 57 ≤ a.toNat →
      exec (.jalr f) s = .next (s.due.trapped (.jalr f) (Trap.plain Cause.badTarget)))) ∧
  (∀ (s : State) (f : Dst), s.Ready (.rdpc f) →
    exec (.rdpc f) s = .next ((s.due.setS f.d (s.me.pc.setWidth 64)).retire (.rdpc f) .seq))

/-- The loop instructions (R91): `loop` takes its count from sA, `loopi` from its 10-bit field. -/
def Obligations.LoopEntry : Prop :=
  (∀ (s : State) (i : Instr) (count : Word) (imm : BitVec 13),
    ((∃ f : LoopR, i = .loop f ∧ count = s.sreg f.a ∧ imm = f.imm) ∨
      (∃ f : LoopI, i = .loopi f ∧ count = f.count.setWidth 64 ∧ imm = f.imm)) →
    let label : VAddr := s.me.pc + 4 * imm.setWidth 57
    (s.Ready i → count = 0 → exec i s = .next (s.due.retire i (.goto label))) ∧
    (s.Ready i → count ≠ 0 → ∀ h : s.me.loops.depth < 6,
      exec i s = .next (State.retire i (.goto (s.me.pc + 4))
        (s.due.setMe { s.me with loops :=
          ⟨s.me.loops.held.set s.me.loops.depth ⟨(s.me.pc + 4).setWidth 64, label.setWidth 64, count⟩ h,
            s.me.loops.depth + 1⟩ }))) ∧
    (s.Ready i → count ≠ 0 → 6 ≤ s.me.loops.depth →
      exec i s = .next (s.due.trapped i (Trap.plain Cause.loopOverflow))) ∧
    (imm.toNat < 2 → exec i s = .next ((s.atIssue i).trapped i (Trap.plain Cause.illegalInstruction)))) ∧
  (∀ (s : State) (i : Instr) (p : VAddr), (∀ n o, s.me.delay ≠ some ⟨n, some o⟩) → (s.retire i (.goto p)).me.pc = p)

/-- Loop-stack control (R94). The target of `lbrk` is the low 57 bits of the level's end, the model's reading where the held end is
no 57-bit address (log 31). -/
def Obligations.LoopControl : Prop :=
  (∀ (s : State) (f : Bare),
    (s.Ready (.lpop f) → s.me.loops.depth ≠ 0 →
      exec (.lpop f) s = .next ((s.due.setMe { s.me with loops := s.me.loops.pop }).retire (.lpop f) .seq)) ∧
    (s.Ready (.lbrk f) → s.me.loops.depth ≠ 0 →
      exec (.lbrk f) s = .next ((s.due.setMe { s.me with loops := s.me.loops.pop }).retire (.lbrk f)
        (.branch (some (s.me.loops.top.stop.setWidth 57))))) ∧
    (s.Ready (.lpop f) → s.me.loops.depth = 0 →
      exec (.lpop f) s = .next (s.due.trapped (.lpop f) (Trap.plain Cause.loopUnderflow))) ∧
    (s.Ready (.lbrk f) → s.me.loops.depth = 0 →
      exec (.lbrk f) s = .next (s.due.trapped (.lbrk f) (Trap.plain Cause.loopUnderflow)))) ∧
  (∀ (s : State) (f : Dst),
    (s.Ready (.lcnt f) → exec (.lcnt f) s = .next ((s.due.setS f.d
      (if s.me.loops.depth = 0 then 0 else s.me.loops.top.count)).retire (.lcnt f) .seq)) ∧
    (s.Ready (.ldep f) → exec (.ldep f) s = .next ((s.due.setS f.d
      (BitVec.ofNat 64 s.me.loops.depth)).retire (.ldep f) .seq))) ∧
  (∀ l : Loops, l.depth ≠ 0 → l.depth ≤ 6 → l.pop.depth = l.depth - 1 ∧
    (∀ k : Fin 6, l.pop.held.get k = if k.val + 1 = l.depth then ⟨0, 0, 0⟩ else l.held.get k)) ∧
  (∀ x : Nat, x < 4294967296 → fMajor x = 0x1A →
    3 < fn8 x ∨ x / 8192 % 32 ≠ 0 ∨ x / 256 % 32 ≠ 0 ∨ (fn8 x < 2 ∧ x / 262144 % 32 ≠ 0) → IllegalWord x)

/-- LoopStep (R92), as the retirement of a word performs it; nested levels that end at one word step together. The last word is found
by the low 57 bits of the level's end, which is the model's reading (log 31). -/
def Obligations.LoopStep : Prop :=
  ∀ (s : State) (i : Instr), s.me.delay = none → s.me.loops.depth ≤ 6 →
    let t := s.retire i .seq
    let top := s.me.loops.top
    (s.me.loops.depth = 0 ∨ s.me.pc ≠ (top.stop - 4).setWidth 57 →
      t.me.pc = s.me.pc + 4 ∧ t.me.loops = s.me.loops) ∧
    (s.me.loops.depth ≠ 0 → s.me.pc = (top.stop - 4).setWidth 57 → top.count ≠ 1 →
      t.me.pc = top.start.setWidth 57 ∧ t.me.loops.depth = s.me.loops.depth ∧
      t.me.loops.top = { top with count := top.count - 1 } ∧
      (∀ k : Fin 6, k.val + 1 ≠ s.me.loops.depth → t.me.loops.held.get k = s.me.loops.held.get k)) ∧
    (s.me.loops.depth ≠ 0 → s.me.pc = (top.stop - 4).setWidth 57 → top.count = 1 →
      let u := (s.setMe { s.me with loops := s.me.loops.pop }).retire i .seq
      t.me.pc = u.me.pc ∧ t.me.loops = u.me.loops)

/-- The control-register instructions (R95, R96, R288). What TIME counts is the model's choice (log 11). -/
def Obligations.ControlRegisters : Prop :=
  (∀ (s : State) (f : CtlR), s.Ready (.mfc f) →
    exec (.mfc f) s = .next (((s.due.closeWindow f.num.val).setS f.d (s.due.readCtl f.num.val)).retire (.mfc f) .seq)) ∧
  (∀ (s : State) (f : CtlW),
    let old := s.due.readCtl f.num.val
    let a := s.sreg f.a
    let put (v : Word) : State := ((s.due.closeWindow f.num.val).writeCtl f.num.val v).setS f.d old
    (s.Ready (.mtc f) → exec (.mtc f) s = .next ((put a).retire (.mtc f) .seq)) ∧
    (s.Ready (.mcset f) → exec (.mcset f) s = .next ((put (old ||| a)).retire (.mcset f) .seq)) ∧
    (s.Ready (.mcclr f) → exec (.mcclr f) s = .next ((put (old &&& ~~~a)).retire (.mcclr f) .seq))) ∧
  (∀ s : State,
    let m := s.me
    s.readCtl 0x000 = m.ctl.status ∧
    s.readCtl 0x001 = m.ctl.det ∧
    s.readCtl 0x002 = m.ctl.chk ∧
    s.readCtl 0x003 = m.ctl.sdseed ∧
    s.readCtl 0x004 = m.ctl.sbase ∧
    s.readCtl 0x005 = m.ctl.ptab ∧
    s.readCtl 0x006 = m.ctl.tvec ∧
    s.readCtl 0x010 = m.ctl.cause ∧
    s.readCtl 0x011 = m.ctl.trappc ∧
    s.readCtl 0x012 = m.ctl.addr ∧
    s.readCtl 0x013 = m.ctl.elem ∧
    s.readCtl 0x014 = m.ctl.tstatus ∧
    s.readCtl 0x015 = m.ctl.resume ∧
    s.readCtl 0x016 = m.ctl.target ∧
    s.readCtl 0x017 = m.ctl.scratch ∧
    s.readCtl 0x020 = m.ctl.lsel ∧
    s.readCtl 0x021 = BitVec.ofNat 64 m.loops.depth ∧
    s.readCtl 0x030 = BitVec.ofNat 64 (s.clock - (s.upperAt (upperOf s.cur)).origin) ∧
    s.readCtl 0x031 = BitVec.ofNat 64 (Config.timeNs s.clock) ∧
    s.readCtl 0x032 = BitVec.ofNat 64 s.cur ∧
    (∀ h : m.ctl.lsel.toNat < 6,
      s.readCtl 0x022 = (m.loops.held[m.ctl.lsel.toNat]).start ∧
      s.readCtl 0x023 = (m.loops.held[m.ctl.lsel.toNat]).stop ∧
      s.readCtl 0x024 = (m.loops.held[m.ctl.lsel.toNat]).count) ∧
    (6 ≤ m.ctl.lsel.toNat → s.readCtl 0x022 = 0 ∧ s.readCtl 0x023 = 0 ∧ s.readCtl 0x024 = 0) ∧
    (s.closeWindow 0x010).me = { m with window := false } ∧ (∀ n, n ≠ 0x010 → s.closeWindow n = s))

/-- The write rules of R95 and R11: what a register reads after a write of v. -/
def Obligations.ControlWriteRules : Prop :=
  ∀ (s : State) (v : Word),
    let m := s.me
    let old := m.ctl.status
    let after (n : Nat) : Word := (s.writeCtl n v).readCtl n
    after 0x001 = v &&& 1 ∧
    after 0x002 = v &&& 1 ∧
    after 0x003 = v ∧
    after 0x004 = v ∧
    after 0x005 = v &&& ~~~63 ∧
    after 0x006 = v &&& ~~~3 ∧
    after 0x010 = v &&& 0xFFFFFFFF0000FFFF ∧
    after 0x011 = v ∧
    after 0x012 = v ∧
    after 0x013 = v ∧
    after 0x014 = v &&& 0xFF ∧
    after 0x015 = v &&& 0x01FFFFFFFFFFFFFC ∧
    after 0x017 = v ∧
    after 0x020 = v &&& 7 ∧
    (v.toNat % 4 ≠ 3 → after 0x016 = v &&& 0x01FFFFFFFFFFFFFF) ∧
    (v.toNat % 4 = 3 → after 0x016 = v &&& 0x01FFFFFFFFFFFFFC) ∧
    (m.ctl.lsel.toNat < 6 → after 0x022 = v &&& ~~~3 ∧ after 0x023 = v &&& ~~~3 ∧ after 0x024 = v) ∧
    (6 ≤ m.ctl.lsel.toNat → (s.writeCtl 0x022 v).me = m ∧ (s.writeCtl 0x023 v).me = m ∧ (s.writeCtl 0x024 v).me = m) ∧
    (v.toNat % 8 = 7 → (s.writeCtl 0x021 v).me = m) ∧
    (v.toNat % 8 < 7 →
      (s.writeCtl 0x021 v).me.loops.depth = v.toNat % 8 ∧
      ∀ k : Fin 6, (s.writeCtl 0x021 v).me.loops.held.get k =
        if v.toNat % 8 ≤ k.val ∧ k.val < m.loops.depth then ⟨0, 0, 0⟩ else m.loops.held.get k) ∧
    (∀ k, k < 64 → (after 0x000).getLsbD k =
      if 8 ≤ k then false
      else if k = 7 then old.getLsbD 7
      else if k = 0 then (old.getLsbD 0 && v.getLsbD 0)
      else v.getLsbD k) ∧
    (∀ n, SameMachine s (s.writeCtl n v))

/-- The first causes of R62 (steps 1 to 3), and which control-register words they meet (R95, R97). An ill-formed word traps whatever
it would wait for. A word is performed at the clock of its issue: with CHK clear, not before the results that it reads are there
(R56, R57). -/
def Obligations.IssueRefusals : Prop :=
  (∀ (s : State) (i : Instr), (encodeWord i).isSome = true →
    let trap (c : Nat) : Prop := exec i s = .next ((s.atIssue i).trapped i (Trap.plain c))
    (i.wf = false → trap Cause.illegalInstruction) ∧
    (heldByToken s.me (instrInfo i) = false → heldByChunks s.cmds s.cur (instrInfo i).masks = false → i.wf = true →
      exec i s = exec i (s.atIssue i) ∧
      (needsPriv i = true ∧ s.me.ctl.status.getLsbD 0 = false → trap Cause.privileged) ∧
      ((needsPriv i = true → s.me.ctl.status.getLsbD 0 = true) →
        (illegalInStrip s.me i = true → trap Cause.illegalInStrip) ∧
        (illegalInStrip s.me i = false → needsStrip i = true ∧ s.me.strip = none → trap Cause.noOpenStrip)))) ∧
  (∀ (w : Wait) (d a : Reg) (n : Fin 2048),
    ((Instr.mfc ⟨w, d, n⟩).wf = false ↔
      n.val ∉ [0, 1, 2, 3, 4, 5, 6, 0x10, 0x11, 0x12, 0x13, 0x14, 0x15, 0x16, 0x17, 0x20, 0x21, 0x22, 0x23, 0x24, 0x30,
        0x31, 0x32]) ∧
    (needsPriv (.mfc ⟨w, d, n⟩) = true ↔ n.val ∈ [6, 0x10, 0x11, 0x12, 0x13, 0x14, 0x15, 0x16, 0x17]) ∧
    ∀ i, i ∈ [Instr.mtc ⟨w, d, a, n⟩, .mcset ⟨w, d, a, n⟩, .mcclr ⟨w, d, a, n⟩] →
      (i.wf = false ↔
        n.val ∉ [0, 1, 2, 3, 4, 5, 6, 0x10, 0x11, 0x12, 0x13, 0x14, 0x15, 0x16, 0x17, 0x20, 0x21, 0x22, 0x23, 0x24]) ∧
      (needsPriv i = true ↔
        n.val ∈ [1, 5, 6, 0x10, 0x11, 0x12, 0x13, 0x14, 0x15, 0x16, 0x17, 0x21, 0x22, 0x23, 0x24]))

/-- Trap entry (R98, R285, R286, R288, R293, R19): `m` is the sequencer before, `n` after; `c` is the state of an abandoned strip.
What was loaded ahead from bytes of the discarded
stores goes with them (R16; log 2). The delay slot n of a taken transfer has 3 - n words left. TRAPADDR takes the low 64 bits of 8 x EA (the model's reading, log 29). -/
def Obligations.TrapEntry : Prop :=
  ∀ (s : State) (t : Trap), s.me.window = false →
    let m := s.me
    let n := (s.takeTrap t).me
    let status : Word := match m.strip with
      | some st => (m.ctl.status &&& ~~~0x7E) ||| (st.ck.flags &&& 0x7E)
      | none => m.ctl.status
    n.pc = m.ctl.tvec.setWidth 57 ∧
    n.ctl.trappc = m.pc.setWidth 64 ∧ n.ctl.addr = BitVec.ofNat 64 t.addr ∧ n.ctl.elem = BitVec.ofNat 64 t.elem ∧
    n.ctl.cause = BitVec.ofNat 64 (t.cause + (m.trapSeq + 1) % 4294967296 * 4294967296) ∧
    (∀ k, k < 64 → n.ctl.tstatus.getLsbD k = if k = 7 then m.strip.isSome else status.getLsbD k) ∧
    (∀ k, k < 64 → n.ctl.status.getLsbD k =
      if k = 0 then true else if k = 7 then (m.strip.isNone && status.getLsbD 7) else status.getLsbD k) ∧
    (∀ st, m.strip = some st → n.ctl.resume = st.pc.setWidth 64 ∧ n.ctl.target = 0 ∧
      (∀ e, e ∈ n.early → st.holds e.loc e.size = false) ∧ n.late = [] ∧
      n.regs = st.ck.regs ∧ n.loops = st.ck.loops ∧ n.grant = st.ck.grant ∧ n.truss.tx = st.ck.tx ∧
      (SMap.Rising st.journal → ∀ r, SMap.find ((s.takeTrap t).soleAt s.image).rows r =
        (SMap.find st.journal r).or (SMap.find (s.soleAt s.image).rows r))) ∧
    n.ring = (m.ring ++ [(⟨Config.timeNs s.clock, m.trapSeq + 1, t.cause, s.cur, m.strip.isSome, none, m.pc.setWidth 64,
      BitVec.ofNat 64 t.addr, BitVec.ofNat 64 t.elem, (m.work.map (·.wid)).getD 0, 0⟩ : TrapRec)]).drop
        (m.ring.length + 1 - Config.trapRing) ∧
    (m.strip = none → n.regs = m.regs ∧ n.loops = m.loops ∧ n.grant = m.grant ∧ n.truss = m.truss ∧
      (t.cause = Cause.softwareTrap → n.ctl.resume = (m.pc + 4).setWidth 64 ∧ n.ctl.target = 0) ∧
      (t.cause ≠ Cause.softwareTrap → n.ctl.resume = m.pc.setWidth 64 ∧
        n.ctl.target = match m.delay with
          | some ⟨left, some tgt⟩ => (tgt.setWidth 64 &&& ~~~3) ||| BitVec.ofNat 64 left
          | _ => 0)) ∧
    n.strip = none ∧ n.delay = none ∧ n.resv = none ∧ n.window = true ∧ n.trapSeq = m.trapSeq + 1 ∧
    n.vregs = m.vregs ∧ n.masks = m.masks ∧ n.vt = m.vt ∧ n.pend = m.pend ∧ n.mode = m.mode ∧ n.work = m.work ∧
    SameBytes s (s.takeTrap t) ∧ (∀ q, q ≠ s.cur → (s.takeTrap t).seqAt q = s.seqAt q)

/-- `trap k` and `rft` (R99). After `rft` the n-th word completes and then control is at the target (R14); a transfer among those n
words has its own two slots, the rest of the n among them, and the owed transfer comes first (the model's reading, log 61). -/
def Obligations.SoftwareTrapAndReturn : Prop :=
  (∀ (s : State) (f : TrapK), s.Ready (.trap f) →
    exec (.trap f) s = .next (s.due.trapped (.trap f) ⟨Cause.softwareTrap, f.k.val, 0, none⟩)) ∧
  (∀ (s : State) (f : Bare),
    let m := s.me
    (s.Ready (.rft f) → ∃ t, exec (.rft f) s = .next t ∧
      t.me.pc = m.ctl.resume.setWidth 57 ∧
      (∀ k, k < 64 → t.me.ctl.status.getLsbD k = if k = 7 then false else m.ctl.tstatus.getLsbD k) ∧
      (m.ctl.target.toNat % 4 = 0 → t.me.delay = none) ∧
      (m.ctl.target.toNat % 4 ≠ 0 →
        t.me.delay = some ⟨m.ctl.target.toNat % 4, some ((m.ctl.target &&& ~~~3).setWidth 57)⟩) ∧
      t.me.regs = m.regs ∧ t.me.loops = m.loops ∧ t.me.grant = m.grant ∧ SameMachine s t) ∧
    (m.ctl.status.getLsbD 0 = false →
      exec (.rft f) s = .next (s.due.trapped (.rft f) (Trap.plain Cause.privileged))) ∧
    (m.ctl.status.getLsbD 0 = true → m.strip.isSome = true →
      exec (.rft f) s = .next (s.due.trapped (.rft f) (Trap.plain Cause.illegalInStrip)))) ∧
  (∀ (s : State) (i : Instr) (left : Nat) (t : VAddr), s.me.delay = some ⟨left, some t⟩ →
    (2 ≤ left →
      ((s.retire i .seq).me.delay = some ⟨left - 1, some t⟩ ∧ (s.retire i .seq).me.pc = s.me.pc + 4) ∧
      (∀ p, (s.retire i (.goto p)).me.delay = some ⟨left - 1, some t⟩ ∧ (s.retire i (.goto p)).me.pc = p) ∧
      (∀ o, (s.retire i (.branch o)).me.delay = some ⟨left - 1, some t⟩ ∧ (s.retire i (.branch o)).me.owed = some ⟨2, o⟩ ∧
        (s.retire i (.branch o)).me.pc = s.me.pc + 4)) ∧
    (left ≤ 1 →
      ((s.retire i .seq).me.pc = t ∧ (s.me.owed = none → (s.retire i .seq).me.delay = none) ∧
        (∀ k o, s.me.owed = some ⟨k, o⟩ → (s.retire i .seq).me.delay = some ⟨k - 1, o⟩)) ∧
      (∀ p, (s.retire i (.goto p)).me.pc = t) ∧
      (∀ o, (s.retire i (.branch o)).me.pc = t ∧ (s.retire i (.branch o)).me.delay = some ⟨2, o⟩))) ∧
  (∀ x : Nat, x < 4294967296 → fMajor x = 0x1D →
    (fSel x ≠ 0 ∧ (fSel x < 0x100 ∨ 0x1FF < fSel x)) ∨ x / 262144 % 32 ≠ 0 ∨ x / 8192 % 32 ≠ 0 → IllegalWord x)

/-- The double fault (R289): what the hardware does in place of entering a handler. -/
def Obligations.DoubleFault : Prop :=
  ∀ (s : State) (t : Trap), s.me.window = true →
    let m := s.me
    let u := s.takeTrap t
    u.me.mode = .doubleFault ∧
    u.me.shadow = some (⟨m.ctl.cause.toNat % 65536, m.ctl.trappc, m.ctl.addr, m.ctl.elem⟩,
      ⟨t.cause, m.pc.setWidth 64, BitVec.ofNat 64 t.addr, BitVec.ofNat 64 t.elem⟩) ∧
    (∃ r, u.me.ring = (m.ring ++ [r]).drop (m.ring.length + 1 - Config.trapRing) ∧
      r.second = some t.cause ∧ r.cause = m.ctl.cause.toNat % 65536 ∧ r.pc = m.ctl.trappc ∧ r.addr = m.ctl.addr ∧
      r.elem = m.ctl.elem ∧ r.other = m.pc.setWidth 64 ∧ r.seq = m.trapSeq + 1 ∧ r.strip = m.openAt) ∧
    u.me.pc = m.pc ∧ u.me.strip = none ∧ (∃ st, u.me.ctl = { m.ctl with status := st }) ∧
    (m.strip = none → u.me.ctl = m.ctl ∧ u.me.regs = m.regs ∧ u.me.loops = m.loops ∧ u.me.grant = m.grant) ∧
    (∀ st, m.strip = some st → (∀ e, e ∈ u.me.early → st.holds e.loc e.size = false) ∧ u.me.regs = st.ck.regs ∧ u.me.loops = st.ck.loops ∧ u.me.grant = st.ck.grant ∧
      (SMap.Rising st.journal → ∀ r, SMap.find (u.soleAt s.image).rows r =
        (SMap.find st.journal r).or (SMap.find (s.soleAt s.image).rows r))) ∧
    SameBytes s u ∧ (∀ q, q ≠ s.cur → u.seqAt q = s.seqAt q)

/-- Majors 0x1E and 0x1F (R63, R100, R291), and the two events of a word that cannot be executed (R60, R61, R310). -/
def Obligations.SystemWords : Prop :=
  (∀ (s : State) (f : Bare),
    (s.Ready (.ifence f) →
      exec (.ifence f) s = .next ((s.due.setMe { s.me with fetched := [] }).retire (.ifence f) .seq)) ∧
    (s.Ready (.pause f) → exec (.pause f) s = .next (s.due.retire (.pause f) .seq)) ∧
    (s.Ready (.sdrain f) → exec (.sdrain f) s = .next (s.due.retire (.sdrain f) .seq)) ∧
    (s.Ready (.halt f) → ∃ t, exec (.halt f) s = .next t ∧ t.me.mode = .halted ∧ t.me.pc = s.me.pc ∧
      t.me.regs = s.me.regs ∧ t.me.loops = s.me.loops ∧ t.me.ctl = s.me.ctl ∧ SameMachine s t)) ∧
  (∀ s : State,
    (s.me.mode = .running →
      (∀ x, s.fetchWord = .ok x →
        (∀ e, decodeWord x = .error e → exec .illegalInstruction s =
          .next ((s.due.takeTrap (Trap.plain Cause.illegalInstruction)).holdIssue (x / 536870912))) ∧
        (∀ i, decodeWord x = .ok i → exec .illegalInstruction s = .next s) ∧
        exec .instructionFetchFault s = .next s) ∧
      (∀ e, s.fetchWord = .error e → exec .illegalInstruction s = .next s ∧
        (e.cause ≠ Cause.held →
          exec .instructionFetchFault s = .next (s.due.takeTrap ⟨e.cause, 0, 8 * s.me.pc.toNat, e.page⟩)) ∧
        (e.cause = Cause.held → exec .instructionFetchFault s = .next { s with waited := true }))) ∧
    (s.me.mode ≠ .running → exec .illegalInstruction s = .next s ∧ exec .instructionFetchFault s = .next s))

/-- ElementLoop (R114), as every vector word runs it: `form n` makes element n, or has no room for it, or traps. -/
def Obligations.ElementLoop : Prop :=
  ∀ (σ : Type) (L : Nat) (lims : List Nat) (mask : Option (BitVec 4096)) (form : Nat → σ → Formed σ) (x : σ),
    let exhausted (n : Nat) : Prop := ∃ l, l ∈ lims ∧ l ≤ n
    let ended (n : Nat) : Prop := mask.isSome = true ∧
      ∀ k, n ≤ k → k < L → ¬ exhausted k → activeAt mask k = false
    let formed (n : Nat) (f : Nat → σ) : Prop := f 0 = x ∧
      ∀ k, k < n → form k (f k) = .put (f (k + 1)) ∧ ¬ exhausted k ∧ ¬ ended k
    (∀ n gs y, elemLoop L lims mask form x = .ok (n, gs, y) →
      n ≤ L ∧ (∃ f, formed n f ∧ f n = y) ∧
      ((gs = 0 ∧ n = L ∧ ∀ l, l ∈ lims → l ≤ n) ∨
       (gs = 3 ∧ n = L ∧ ∃ l, l ∈ lims ∧ n < l) ∨
       (gs = 2 ∧ n < L ∧ exhausted n) ∨
       (gs = 4 ∧ n < L ∧ ¬ exhausted n ∧ ended n) ∨
       (gs = 1 ∧ n < L ∧ ¬ exhausted n ∧ ¬ ended n ∧ form n y = .full))) ∧
    (∀ t, elemLoop L lims mask form x = .error t →
      ∃ (n : Nat) (f : Nat → σ), n < L ∧ ¬ exhausted n ∧ formed n f ∧ form n (f n) = .trap t)

/-- The elementwise words (R128, R130, R132 to R137). What the loop forms is said by `ElementLoop` and `IntegerElements`; the last
two clauses say what every vector word that writes a group leaves there (R106), in the grant file (R115) and in the sticky flags
(R11, R49). -/
def Obligations.ElementwiseWords : Prop :=
  let result (s : State) (t : VType) (i : Instr) (c : Machine.Class) (d : Reg) (regs : List Reg) (m : Mask3)
      (op : Nat → List Val → Result) : Prop :=
    let u := s.due
    let srcs := regs.map (fun r => u.srcOf (u.layout t) t.g r.val)
    s.VecReady i c m t → u.Readable t m srcs →
      ∃ n gs o, u.mapRun t m srcs op = .ok (n, gs, o) ∧ o.bits < 2 ^ o.used ∧
        exec i s = .next ((u.finish t.g d.val o n ⟨n, n, spent srcs 0 n, spent srcs 1 n, o.used, gs⟩).retire i .seq)
  (∀ (s : State) (t : VType) (f : V3),
    let lay := s.layout t
    let goal (i : Instr) (c : Machine.Class) (regs : List Reg) (op : Nat → List Val → Result) : Prop :=
      result s t i c f.d regs f.m op
    goal (.vadd f) .arith [f.a, f.b] (fun _ => bin (· + ·) (addNum t.rm)) ∧
    goal (.vsub f) .arith [f.a, f.b] (fun _ => bin (· - ·) (subNum t.rm)) ∧
    goal (.vmul f) .arith [f.a, f.b] (fun _ => bin (· * ·) mulNum) ∧
    goal (.vdiv f) .arith [f.a, f.b] (fun _ => bin (divInt lay) divNum) ∧
    goal (.vmin f) .arith [f.a, f.b] (fun _ => bin min minNum) ∧
    goal (.vmax f) .arith [f.a, f.b] (fun _ => bin max maxNum) ∧
    goal (.vabsd f) .arith [f.a, f.b] (fun _ => bin (fun x y => (x - y).natAbs) (absdNum t.rm)) ∧
    goal (.vand f) .integer [f.a, f.b] (fun _ => bin (onBits lay (· &&& ·)) noNum) ∧
    goal (.vor f) .integer [f.a, f.b] (fun _ => bin (onBits lay (· ||| ·)) noNum) ∧
    goal (.vxor f) .integer [f.a, f.b] (fun _ => bin (onBits lay (· ^^^ ·)) noNum) ∧
    goal (.vsll f) .integer [f.a, f.b] (fun _ => bin (onBits lay (fun x y => x * 2 ^ (y % (intShape lay).1))) noNum) ∧
    goal (.vsrl f) .integer [f.a, f.b] (fun _ => bin (onBits lay (fun x y => x / 2 ^ (y % (intShape lay).1))) noNum) ∧
    goal (.vsra f) .integer [f.a, f.b] (fun _ => bin (onBits lay (fun x y => sraBits (intShape lay).1 x (y % (intShape lay).1))) noNum) ∧
    goal (.vadds f) .arith [f.a] (fun _ vs => bin (· + ·) (addNum t.rm) (vs ++ [scalarVal t (s.sreg f.b)])) ∧
    goal (.vmuls f) .arith [f.a] (fun _ vs => bin (· * ·) mulNum (vs ++ [scalarVal t (s.sreg f.b)])) ∧
    goal (.vfma f) .arith [f.a, f.b, f.d] (fun _ => fused t.rm false false) ∧
    goal (.vfms f) .arith [f.a, f.b, f.d] (fun _ => fused t.rm false true) ∧
    goal (.vfnma f) .arith [f.a, f.b, f.d] (fun _ => fused t.rm true false)) ∧
  (∀ (s : State) (t : VType) (f : V2),
    let goal (i : Instr) (c : Machine.Class) (op : Nat → List Val → Result) : Prop := result s t i c f.d [f.a] f.m op
    goal (.vneg f) .arith (fun _ => un (fun x => -x) (signOp (!·))) ∧
    goal (.vabs f) .arith (fun _ => un (fun x => x.natAbs) (signOp (fun _ => false))) ∧
    goal (.vsqrt f) .float (fun _ => un id sqrtNum)) ∧
  (∀ (s : State) (t : VType) (f : VB),
    let u := s.due
    s.VecReady (.vbcast f) .movable f.m t →
      ∃ n gs o, elemLoop (u.grantLen t) [] none
          (u.elemOp t (u.maskOf f.m) [] (fun _ _ => roundVal (scalarVal t (s.sreg f.b)))) Out.zero = .ok (n, gs, o) ∧ o.bits < 2 ^ o.used ∧
        exec (.vbcast f) s = .next ((u.finish t.g f.d.val o n ⟨n, n, 0, 0, o.used, gs⟩).retire (.vbcast f) .seq)) ∧
  (∀ (s : State) (t : VType) (f : V1),
    result s t (.vid f) .arith f.d [] f.m (fun n _ => .int (s.me.ctl.sbase + BitVec.ofNat 64 n).toNat)) ∧
  (∀ (s : State) (g d n : Nat) (o : Out) (r : Report), 0 < g → d + g ≤ 32 → s.gang ≤ 4 →
    let m := s.me
    let x := (s.finish g d o n r).me
    groupBits x s.gang d g = o.bits % 2 ^ (vregBits s.gang * g) ∧ fillCount x d = n ∧ fillLen x d = o.used ∧
    groupMarks x s.gang d g = [] ∧ (∀ v : Reg, v.val < d ∨ d + g ≤ v.val → x.vregs.get v = m.vregs.get v) ∧
    x.grant = ⟨m.grant.gl, BitVec.ofNat 64 r.gk, BitVec.ofNat 64 r.gp, BitVec.ofNat 64 r.ga, BitVec.ofNat 64 r.gb,
      BitVec.ofNat 64 r.gd, BitVec.ofNat 3 r.gs⟩ ∧
    x = { m with vregs := x.vregs, grant := x.grant, ctl := { m.ctl with status := raiseFlags m.ctl.status o.flags } } ∧
    (s.report r).me = { m with grant := x.grant } ∧
    (s.raise o.flags).me = { m with ctl := { m.ctl with status := raiseFlags m.ctl.status o.flags } }) ∧
  (∀ (st : Word) (fl : FlagSet) (k : Nat), k < 64 → (raiseFlags st fl).getLsbD k = (st.getLsbD k ||
    (k == 1 && fl.nv || k == 2 && fl.dz || k == 3 && fl.ovf || k == 4 && fl.uf || k == 5 && fl.nx || k == 6 && fl.iov)))

/-- Plain integer results (R128, R133). -/
def Obligations.IntegerElements : Prop :=
  ∀ (s : State) (t : VType) (fm : Fmt) (m : Mask3) (x y : Src) (g : Int → Int → Int) (h : Machine.Num → Machine.Num → Exact × FlagSet)
    (n gs : Nat) (o : Out),
    t.fam = .plain fm → fm.isInt = true → x.lay = .plain fm → y.lay = .plain fm →
    s.mapRun t m [x, y] (fun _ => bin g h) = .ok (n, gs, o) →
    let W := fm.width
    let lo : Int := if fm.isSigned then -(2 ^ (W - 1)) else 0
    let hi : Int := if fm.isSigned then 2 ^ (W - 1) - 1 else 2 ^ W - 1
    let exact (k : Nat) : Int := g (intOf fm.isSigned W (x.raw k)) (intOf fm.isSigned W (y.raw k))
    o.used = W * n ∧
    (∀ k, k < n → o.bits / 2 ^ (W * k) % 2 ^ W =
      if activeAt (s.maskOf m) k then
        ((if t.sat then max lo (min hi (exact k)) else exact k) % 2 ^ W).toNat
      else 0) ∧
    (o.flags.iov = true ↔ ∃ k, k < n ∧ activeAt (s.maskOf m) k = true ∧ (exact k < lo ∨ hi < exact k)) ∧
    o.flags.nv = false ∧ o.flags.dz = false ∧ o.flags.ovf = false ∧ o.flags.uf = false ∧ o.flags.nx = false

/-- The compares of major 0x29 (R140). -/
def Obligations.Compares : Prop :=
  ∀ (s : State) (t : VType) (f : V3),
    let u := s.due
    let srcs := [f.a, f.b].map (fun r => u.srcOf (u.layout t) t.g r.val)
    let result (i : Instr) (cl : Machine.Class) (c : Machine.Cond) : Prop :=
      s.VecReady i cl f.m t → u.Readable t f.m srcs →
        ∃ n gs b fl,
          elemLoop (u.grantLen t) (srcs.map (·.count)) (u.maskOf f.m) (c.elem (u.maskOf f.m) srcs) (0, noFlags) =
            .ok (n, gs, b, fl) ∧
          exec i s = .next ((((u.writeMask f.d.val b).raise fl).report
            ⟨n, n, spent srcs 0 n, spent srcs 1 n, n, gs⟩).retire i .seq) ∧
          (∀ k, k < 4096 → (b.getLsbD k = true ↔
            k < n ∧ activeAt (u.maskOf f.m) k = true ∧ ∃ vs, valsAt k srcs = .ok vs ∧ (c.eval vs).1 = true))
    result (.vceq f) .arith ⟨(· == ·), onOrdered (fun x y => cmpNum x y == 0) false, true⟩ ∧
    result (.vcne f) .arith ⟨(· != ·), onOrdered (fun x y => cmpNum x y != 0) true, true⟩ ∧
    result (.vclt f) .arith ⟨(· < ·), onOrdered (fun x y => cmpNum x y < 0) false, false⟩ ∧
    result (.vcle f) .arith ⟨(· ≤ ·), onOrdered (fun x y => cmpNum x y ≤ 0) false, false⟩ ∧
    result (.vcnan f) .float ⟨fun _ _ => false, fun x y => x.isNan || y.isNan, true⟩

/-- The movements (R136, R141 to R144): every active code that is copied must be well formed (R129). `PlainMoves` says what the elements
are. That a slide's limit, the fill count plus or minus the amount, also decides its masked end is the model's choice (log 64), and so
is which source bits count as spent (log 33). -/
def Obligations.VectorMoves : Prop :=
  (∀ (s : State) (t : VType) (f : V2),
    let u := s.due
    let x := u.srcOf (u.layout t) t.g f.a.val
    let lim := loopLimit (u.grantLen t) [x.count]
    (s.VecReady (.vmov f) .movable f.m t → x.Clean lim → x.Decodes (u.maskOf f.m) lim →
      ∃ n gs o,
        elemLoop (u.grantLen t) [x.count] (u.maskOf f.m) (u.moveElem t (u.maskOf f.m) x) Out.zero = .ok (n, gs, o) ∧
        exec (.vmov f) s =
          .next ((u.finish t.g f.d.val o n ⟨n, n, x.start n, 0, o.used, gs⟩).retire (.vmov f) .seq)) ∧
    (s.VecReady (.vcomp f) .movable f.m t → x.Clean lim → x.Decodes (u.maskOf f.m) lim →
      ∃ n gs o k,
        elemLoop (u.grantLen t) [x.count] (u.maskOf f.m) (u.compElem t x (u.maskOf f.m)) (Out.zero, 0) = .ok (n, gs, o, k) ∧
        k = activeBelow (u.maskOf f.m) n ∧
        exec (.vcomp f) s =
          .next ((u.finish t.g f.d.val o k ⟨n, k, x.start n, 0, o.used, gs⟩).retire (.vcomp f) .seq))) ∧
  (∀ (s : State) (t : VType) (f : V3),
    let u := s.due
    let x := u.srcOf (u.layout t) t.g f.a.val
    let y := u.srcOf (u.layout t) t.g f.b.val
    let ix := u.srcOf (.plain .n32) (indexRegs t) f.b.val
    let k := (s.sreg f.b).toNat
    let both := loopLimit (u.grantLen t) [x.count, y.count]
    (s.VecReady (.vsel f) .movable f.m t → x.Clean both → y.Clean both → x.Decodes none both → y.Decodes none both →
      ∃ n gs o,
        elemLoop (u.grantLen t) [x.count, y.count] none (u.selElem t (u.maskOf f.m) x y) Out.zero = .ok (n, gs, o) ∧
        exec (.vsel f) s =
        .next ((u.finish t.g f.d.val o n ⟨n, n, x.start n, y.start n, o.used, gs⟩).retire (.vsel f) .seq)) ∧
    (s.VecReady (.vslup f) .movable f.m t →
      x.Copies (u.maskOf f.m) (loopLimit (u.grantLen t) [x.count + k]) (fun n => if n < k then none else some (n - k)) →
      ∃ n gs o ga, elemLoop (u.grantLen t) [x.count + k] (u.maskOf f.m)
          (u.copyElem t x (u.maskOf f.m) (fun n => if n < k then none else some (n - k))) (Out.zero, 0) =
          .ok (n, gs, o, ga) ∧
        exec (.vslup f) s =
          .next ((u.finish t.g f.d.val o n ⟨n, n, ga, 0, o.used, gs⟩).retire (.vslup f) .seq)) ∧
    (s.VecReady (.vsldn f) .movable f.m t →
      x.Copies (u.maskOf f.m) (loopLimit (u.grantLen t) [x.count - k]) (fun n => some (n + k)) →
      ∃ n gs o ga, elemLoop (u.grantLen t) [x.count - k] (u.maskOf f.m)
          (u.copyElem t x (u.maskOf f.m) (fun n => some (n + k))) (Out.zero, 0) = .ok (n, gs, o, ga) ∧
        exec (.vsldn f) s =
          .next ((u.finish t.g f.d.val o n ⟨n, n, ga, 0, o.used, gs⟩).retire (.vsldn f) .seq)) ∧
    (s.VecReady (.vperm f) .movable f.m t (indexOk f.b) → ix.Clean (loopLimit (u.grantLen t) [ix.count]) →
      x.Copies (u.maskOf f.m) (loopLimit (u.grantLen t) [ix.count])
        (fun n => if x.count ≤ ix.raw n then none else some (ix.raw n)) →
      ∃ n gs o ga,
        elemLoop (u.grantLen t) [ix.count] (u.maskOf f.m) (u.permElem t x ix (u.maskOf f.m)) (Out.zero, 0) = .ok (n, gs, o, ga) ∧
        exec (.vperm f) s =
        .next ((u.finish t.g f.d.val o n ⟨n, n, ga, 32 * n, o.used, gs⟩).retire (.vperm f) .seq)))

/-- What the movements copy (R136, R142), element by element. -/
def Obligations.PlainMoves : Prop :=
  ∀ (s : State) (t : VType) (fm : Fmt) (mask : Option (BitVec 4096)) (x : Src) (a L n gs : Nat) (lims : List Nat),
    x.lay = .plain fm →
    let W := fm.width
    let elem (o : Out) (k : Nat) : Nat := o.bits / 2 ^ (W * k) % 2 ^ W
    (∀ o, elemLoop L lims mask (s.moveElem t mask x) Out.zero = .ok (n, gs, o) →
      o.used = W * n ∧ ∀ k, k < n → elem o k = if activeAt mask k then x.raw k else 0) ∧
    (∀ o ga, elemLoop L lims mask (s.copyElem t x mask (fun n => if n < a then none else some (n - a))) (Out.zero, 0) =
        .ok (n, gs, o, ga) →
      o.used = W * n ∧ ∀ k, k < n → elem o k = if activeAt mask k ∧ a ≤ k then x.raw (k - a) else 0) ∧
    (∀ o ga, elemLoop L lims mask (s.copyElem t x mask (fun n => some (n + a))) (Out.zero, 0) = .ok (n, gs, o, ga) →
      o.used = W * n ∧ ∀ k, k < n → elem o k = if activeAt mask k then x.raw (k + a) else 0)

/-- The conversions and the error-free pairs (R138, R139, R145 to R148). -/
def Obligations.VectorConversions : Prop :=
  (∀ (s : State) (t : VType) (f : V3),
    let u := s.due
    let srcs := [u.srcOf (u.cvtLayout t f.b.val) t.g f.a.val]
    s.VecReady (.vcvt f) .movable f.m t → u.Readable t f.m srcs →
      ∃ n gs o, u.mapRun t f.m srcs (fun _ vs => roundVal (vs.headD (.int 0))) = .ok (n, gs, o) ∧
        exec (.vcvt f) s =
          .next ((u.finish t.g f.d.val o n ⟨n, n, spent srcs 0 n, 0, o.used, gs⟩).retire (.vcvt f) .seq)) ∧
  (∀ (s : State) (t : VType) (f : R2),
    let u := s.due
    let x := u.srcOf (.plain .fp32) (8 * t.g) f.a.val
    let y := u.srcOf (.plain .eb) t.g f.a.val
    (s.VecReady (.vqnt f) .block 0 t (wideOk f.a) → x.Clean (loopLimit (u.grantLen t) [x.count]) →
      ∃ n gs, n = loopLimit (u.grantLen t) [x.count] ∧
        gs = (if x.count < u.grantLen t then 2 else if u.grantLen t < x.count then 3 else 0) ∧
        let o := u.quantBlocks t x n 0 Out.zero (blocksFor n)
        exec (.vqnt f) s =
          .next ((u.finish t.g f.d.val o n ⟨n, n, 32 * n, 0, o.used, gs⟩).retire (.vqnt f) .seq)) ∧
    (s.VecReady (.vdqnt f) .block 0 t (wideOk f.d) → y.marks = [] →
      ∃ n gs o, elemLoop (u.grantLen t) [y.count] none y.dequant Out.zero = .ok (n, gs, o) ∧
        n = loopLimit (u.grantLen t) [y.count] ∧ o.used = 32 * n ∧
        exec (.vdqnt f) s =
          .next ((u.finish (8 * t.g) f.d.val o n ⟨n, n, 80 * blocksFor n, 0, o.used, gs⟩).retire (.vdqnt f) .seq))) ∧
  (∀ (s : State) (t : VType) (f : V3) (i : Instr) (op : Machine.Num → Machine.Num → Exact × FlagSet),
    (i, op) ∈ [(Instr.vtsum f, addNum .ne), (.vtprod f, mulNum)] →
    let u := s.due
    let srcs := [f.a, f.b].map (fun r => u.srcOf (u.layout t) t.g r.val)
    s.VecReady i .fp32 f.m t (fun t => f.d.val % (2 * t.g) == 0) → u.Readable t f.m srcs →
      ∃ n gs hi lo,
        elemLoop (u.grantLen t) (srcs.map (·.count)) (u.maskOf f.m) (u.pairElem (u.maskOf f.m) srcs op)
          (Out.zero, Out.zero) = .ok (n, gs, hi, lo) ∧
        let v := u.finish t.g f.d.val hi n ⟨n, n, spent srcs 0 n, spent srcs 1 n, 64 * n, gs⟩
        exec i s =
          .next (State.retire i .seq (v.setMe (writeGroup v.me v.gang (f.d.val + t.g) lo.bits n lo.used t.g))))

/-- Reductions and scans (R149 to R151). The order in which `vredt` and `vscanf` fold is a free value (log 7); what a fold with no
active element gives, and what a scan writes at inactive elements, is log 33, and the bits granted by a scan that stops at element 0
are log 64: the model's choices. -/
def Obligations.Reductions : Prop :=
  (∀ (s : State) (t : VType) (f : V3) (v : Val) (gb : Nat),
    let u := s.due
    let x := u.srcOf (u.layout t) t.g f.a.val
    let lim := loopLimit (u.grantLen t) [x.count]
    u.foldInit t f.b = .ok (v, gb) → x.Clean lim → x.Decodes (u.maskOf f.m) lim →
    (s.VecReady (.vredo f) .arith f.m t →
      ∃ n gs r fl, elemLoop (u.grantLen t) [x.count] (u.maskOf f.m) (foldElem x (u.maskOf f.m) (u.addStep t)) (v, noFlags) =
          .ok (n, gs, r, fl) ∧
        exec (.vredo f) s = .next ((u.reduceDone t f.d x gb n gs r fl).retire (.vredo f) .seq)) ∧
    (s.VecReady (.vredmin f) .arith f.m t →
      ∃ n gs r fl, elemLoop (u.grantLen t) [x.count] (u.maskOf f.m)
          (foldElem x (u.maskOf f.m) (u.extremeStep t min minNum)) (v, noFlags) = .ok (n, gs, r, fl) ∧
        exec (.vredmin f) s = .next ((u.reduceDone t f.d x gb n gs (u.extremeDone r fl).1 (u.extremeDone r fl).2).retire
          (.vredmin f) .seq)) ∧
    (s.VecReady (.vredmax f) .arith f.m t →
      ∃ n gs r fl, elemLoop (u.grantLen t) [x.count] (u.maskOf f.m)
          (foldElem x (u.maskOf f.m) (u.extremeStep t max maxNum)) (v, noFlags) = .ok (n, gs, r, fl) ∧
        exec (.vredmax f) s = .next ((u.reduceDone t f.d x gb n gs (u.extremeDone r fl).1 (u.extremeDone r fl).2).retire
          (.vredmax f) .seq)) ∧
    (s.VecReady (.vscano f) .arith f.m t →
      ∃ n gs r, elemLoop (u.grantLen t) [x.count] (u.maskOf f.m) (u.scanElem t x (u.maskOf f.m)) ⟨v, Out.zero⟩ =
          .ok (n, gs, r) ∧
        exec (.vscano f) s =
          .next ((u.finish t.g f.d.val r.out n ⟨n, n, x.start n, gb, r.out.used, gs⟩).retire (.vscano f) .seq)) ∧
    (s.VecReady (.vredt f) .arith f.m t → s.me.ctl.det.getLsbD 0 = false →
      ∃ n gs l, elemLoop (u.grantLen t) [x.count] (u.maskOf f.m) (collectElem x (u.maskOf f.m)) [(v, 0)] = .ok (n, gs, l) ∧
        l.length = 1 + activeBelow (u.maskOf f.m) n ∧
        let r := u.anyFold t u.free l noFlags l.length
        exec (.vredt f) s =
          .next ((({ u with free := r.2.2 }).reduceDone t f.d x gb n gs r.1 r.2.1).retire (.vredt f) .seq)) ∧
    (s.VecReady (.vscanf f) .arith f.m t → s.me.ctl.det.getLsbD 0 = false →
      ∃ n gs r, elemLoop (u.grantLen t) [x.count] (u.maskOf f.m) (u.scanfElem t x (u.maskOf f.m))
          ⟨[(v, 0)], v, Out.zero, u.free⟩ = .ok (n, gs, r) ∧
        exec (.vscanf f) s = .next ((({ u with free := r.free }).finish t.g f.d.val r.out n
          ⟨n, n, x.start n, gb, r.out.used, gs⟩).retire (.vscanf f) .seq))) ∧
  (∀ (s : State) (f : V3) (i : Instr), i ∈ [Instr.vredt f, .vscanf f] → s.Ready i → s.me.ctl.det.getLsbD 0 = true →
    exec i s = .next (s.due.trapped i (Trap.plain Cause.unordered)))

/-- The mask words (R152). An element marked uncorrectable traps when it is an operand (R315); a mark anywhere else does not matter. -/
def Obligations.MaskWords : Prop :=
  (∀ (s : State) (f : R3), s.me.MaskSound f.a → s.me.MaskSound f.b →
    let u := s.due
    let A := s.maskReg f.a
    let B := s.maskReg f.b
    let result (i : Instr) (b : BitVec 4096) : Prop :=
      s.Ready i → exec i s = .next ((u.writeMask f.d.val b).retire i .seq)
    result (.mand f) (A &&& B) ∧ result (.mor f) (A ||| B) ∧ result (.mxor f) (A ^^^ B) ∧
    result (.mandn f) (A &&& ~~~B)) ∧
  (∀ (s : State) (f : R2),
    let u := s.due
    let A := s.maskReg f.a
    let L := s.grantLen s.typeOr
    let sound : Prop := ∀ k, k < L → 4096 * f.a.val + k ∉ s.me.mmarks
    (s.Ready (.mnot f) → s.me.MaskSound f.a → exec (.mnot f) s = .next ((u.writeMask f.d.val (~~~A)).retire (.mnot f) .seq)) ∧
    (s.Ready (.mlen f) → ∃ b, exec (.mlen f) s = .next ((u.writeMask f.d.val b).retire (.mlen f) .seq) ∧
      ∀ k, k < 4096 → b.getLsbD k = decide (k < (s.sreg f.a).toNat)) ∧
    (s.Ready (.mpop f) → sound → exec (.mpop f) s = .next ((u.setS f.d (BitVec.ofNat 64
      (((List.range L).filter (fun k => A.getLsbD k)).length))).retire (.mpop f) .seq)) ∧
    (s.Ready (.mfirst f) → sound → ∃ r, exec (.mfirst f) s = .next ((u.setS f.d (BitVec.ofNat 64 r)).retire (.mfirst f) .seq) ∧
      r ≤ L ∧ (∀ k, k < r → A.getLsbD k = false) ∧ (r < L → A.getLsbD r = true))) ∧
  (∀ (s : State) (k : Fin 8) (b : BitVec 4096),
    (s.writeMask k.val b).me.masks.get k = b ∧ (∀ x, x ∈ (s.writeMask k.val b).me.mmarks ↔ x ∈ s.me.mmarks ∧ x / 4096 ≠ k.val) ∧
    ∀ j : Fin 8, j ≠ k → (s.writeMask k.val b).me.masks.get j = s.me.masks.get j)

/-- The vector loads (R120 to R124). An element takes the bytes as they stand, or as the sequencer took them ahead of their place
(R258; the model's choice, log 2): an ordered form (`asc`) only such as were taken in order; a broadcast one access for all its
elements. `loaded` and `loadedFrom` void what was taken ahead of the bytes before them (`LoadResults`). -/
def Obligations.VectorLoads : Prop :=
  let result (s : State) (t : VType) (fmt : Fmt) (i : Instr) (asc : Bool) (group : VType → Bool) (d a : Reg)
      (m : Mask3) (fm : Form) : Prop :=
    let u := s.due
    let W := fmt.width
    let mask := u.maskOf m
    s.Ready i group → s.me.vt = some t → plainFmt t = some fmt → u.maskCheck m = .ok () →
    let v := if asc then u.inOrder fm (s.sreg a) (W / 8) mask (u.grantLen t) else u
    let whole := !asc && fm.bySector (W / 8) mask
    v.Loadable fm (s.sreg a) fmt whole mask (loopLimit (u.grantLen t) fm.lims) →
      ∃ n gs o,
        elemLoop (u.grantLen t) fm.lims mask (v.loadElem fm (s.sreg a) fmt whole mask) (Out.zero, 0) =
          .ok (n, gs, o, activeBelow mask n) ∧
        exec i s = .next (((u.finish t.g d.val o n
          ⟨n, n, if fm = .once then (if activeBelow mask n = 0 then 0 else W) else W * activeBelow mask n, fm.gb n,
            o.used, gs⟩).loaded (v.elemAccesses fm (s.sreg a) (W / 8) whole mask n)).retire i .seq) ∧
        o.used = W * n ∧
        ∀ k, k < n → (activeAt mask k = false → o.bits / 2 ^ (W * k) % 2 ^ W = 0) ∧
          (activeAt mask k = true → ∀ loc,
            v.checkAccess v.ctx .load (fm.elemAddr (s.sreg a) fmt mask k).toNat (W / 8) = .ok loc →
            o.bits / 2 ^ (W * k) % 2 ^ W = v.elemNat fm fmt whole loc k ∧
            (v.me.early = [] → v.elemNat fm fmt whole loc k = u.viewNat loc (W / 8)))
  (∀ (s : State) (t : VType) (fm : Fmt) (f : V2),
    let unit : Form := .stride (BitVec.ofNat 64 (fm.width / 8))
    result s t fm (.vld f) false noGroup f.d f.a f.m unit ∧ result s t fm (.vldo f) true noGroup f.d f.a f.m unit ∧
    result s t fm (.vldb f) false noGroup f.d f.a f.m .once) ∧
  (∀ (s : State) (t : VType) (fm : Fmt) (f : V3),
    let strided : Form := .stride (s.sreg f.b)
    let indexed : Form := .index (s.due.indexSrc t f.b)
    result s t fm (.vlds f) false noGroup f.d f.a f.m strided ∧ result s t fm (.vldso f) true noGroup f.d f.a f.m strided ∧
    result s t fm (.vldx f) false (indexOk f.b) f.d f.a f.m indexed ∧ result s t fm (.vldxo f) true (indexOk f.b) f.d f.a f.m indexed) ∧
  (∀ (s : State) (t : VType) (f : V2) (o : Out),
    let u := s.due
    let n := u.grantLen t
    s.Ready (.vld f) → s.me.vt = some t → t.fam = .plain .eb → f.m = 0 →
    u.loadBlocks (s.sreg f.a) 0 Out.zero (blocksFor n) = .ok o →
      exec (.vld f) s = .next (((u.finish t.g f.d.val o n ⟨n, n, o.used, 0, o.used, 0⟩).loadedFrom (u.sectorAccess · 1) (s.sreg f.a).toNat
        (10 * blocksFor n)).retire (.vld f) .seq))

/-- The vector stores (R110, R113, R120 to R125). What `stored` puts where is said by `StoredBytes`. How a store is noted
for other parties, which may see its accesses apart (log 2), changes nothing else: the last clause. -/
def Obligations.VectorStores : Prop :=
  let result (s : State) (t : VType) (fmt : Fmt) (i : Instr) (asc : Bool) (group : VType → Bool) (d a : Reg) (m : Mask3) (fm : Form) : Prop :=
    let u := s.due
    let W := fmt.width
    let mask := u.maskOf m
    let x := u.srcOf (.plain fmt) t.g d.val
    let lims := x.count :: fm.lims
    s.Ready i group → s.me.vt = some t → plainFmt t = some fmt → u.maskCheck m = .ok () →
    u.Storable fm (s.sreg a) x fmt mask (loopLimit (u.grantLen t) lims) →
      ∃ n gs,
        elemLoop (u.grantLen t) lims mask (u.storeElem fm (s.sreg a) x fmt mask) ([], 0) =
          .ok (n, gs, u.stored fm (s.sreg a) x fmt mask n, activeBelow mask n) ∧
        exec i s = .next (((u.storeElems asc fm (s.sreg a) (W / 8) mask n (u.stored fm (s.sreg a) x fmt mask n)).report
          ⟨n, if fm = .packed then activeBelow mask n else n, W * n, fm.gb n, W * activeBelow mask n, gs⟩).retire i .seq)
  (∀ (s : State) (t : VType) (fm : Fmt) (f : V2),
    let unit : Form := .stride (BitVec.ofNat 64 (fm.width / 8))
    result s t fm (.vst f) false noGroup f.d f.a f.m unit ∧ result s t fm (.vsto f) true noGroup f.d f.a f.m unit ∧
    result s t fm (.vstc f) false noGroup f.d f.a f.m .packed) ∧
  (∀ (s : State) (t : VType) (fm : Fmt) (f : V3),
    let strided : Form := .stride (s.sreg f.b)
    let indexed : Form := .index (s.due.indexSrc t f.b)
    result s t fm (.vsts f) false noGroup f.d f.a f.m strided ∧ result s t fm (.vstso f) true noGroup f.d f.a f.m strided ∧
    result s t fm (.vstx f) false (indexOk f.b) f.d f.a f.m indexed ∧ result s t fm (.vstxo f) true (indexOk f.b) f.d f.a f.m indexed) ∧
  (∀ (s : State) (t : VType) (f : V2) (buf : SMap BufSector),
    let u := s.due
    let x := u.srcOf (.plain .eb) t.g f.d.val
    let n := min (u.grantLen t) x.count
    s.Ready (.vst f) → s.me.vt = some t → t.fam = .plain .eb → f.m = 0 →
    u.storeBlocks (s.sreg f.a) x 0 [] (blocksFor n) = .ok buf →
      ∃ gs, gs = (if x.count < u.grantLen t then 2 else if u.grantLen t < x.count then 3 else 0) ∧
        exec (.vst f) s = .next (((u.storeRow buf).report ⟨n, n, 80 * blocksFor n, 0, 80 * blocksFor n, gs⟩).retire (.vst f) .seq)) ∧
  (∀ (s : State) (b : SMap BufSector) (shape : StoreShape) (asc : Bool) (fm : Form) (a : Word) (sz : Nat)
      (mask : Option (BitVec 4096)) (n : Nat),
    let plain (t : State) : State := t.setMe { t.me with shapes := [] }
    plain (s.storeAs shape b) = plain (s.store b) ∧ plain (s.storeRow b) = plain (s.store b) ∧
    plain (s.storeElems asc fm a sz mask n b) = plain (s.store b))

/-- Which bytes stores put where (R110, R125), and what a commit leaves in memory (R112). -/
def Obligations.StoredBytes : Prop :=
  (∀ (s : State) (fm : Form) (a : Word) (x : Src) (f : Fmt) (mask : Option (BitVec 4096)) (n c : Nat),
    let sz := f.width / 8
    let at_ (k loc : Nat) : Prop := k < n ∧ activeAt mask k = true ∧
      s.checkAccess s.ctx .store (fm.elemAddr a f mask k).toNat sz = .ok loc ∧ loc ≤ c ∧ c < loc + sz
    (∀ k loc, at_ k loc → (∀ j l, at_ j l → j ≤ k) →
      bufGet (s.stored fm a x f mask n) c = some (BitVec.ofNat 8 (x.raw k / 256 ^ (c - loc)))) ∧
    ((∀ k loc, ¬ at_ k loc) → bufGet (s.stored fm a x f mask n) c = none)) ∧
  (∀ (s : State) (b : SMap BufSector) (c : Nat), s.MemoryOk → b.Pairwise (fun x y => x.1 < y.1) →
    (s.commitSectors b).byte c =
      if s.liveLine (c / 32 * 32) then s.byte c else (bufGet b c).getD (s.byte c)) ∧
  (∀ (s : State) (st : Strip), s.me.strip = some st →
    s.commitStrip.mem = (s.commitSectors st.buf).mem ∧ s.commitStrip.me.strip = none ∧
    s.commitStrip.me.ctl.status.getLsbD 7 = false ∧ s.commitStrip.me.regs = s.me.regs ∧
    s.commitStrip.me.vregs = s.me.vregs ∧ s.commitStrip.me.grant = s.me.grant)

/-- The stream instructions (R116 to R119). `streamPos` is where code n of the stream at bit `a` begins. That `zld` and `zskip` from a bit
address of 2^60 or more trap as `zst` does is the model's reading (log 28); `loadedStream` voids what was loaded ahead (log 2). A `zld` stops as
full only where the next code would not fit the group. -/
def Obligations.StreamWords : Prop :=
  (∀ (s : State) (t : VType) (k : Coding) (f : R3),
    let u := s.due
    let a := (s.sreg f.a).toNat
    let lim := loopLimit (u.grantLen t) [(s.sreg f.b).toNat]
    let ends (count : Nat) : Nat := if count < u.grantLen t then 2 else if u.grantLen t < count then 3 else 0
    s.me.vt = some t → u.layout t = .code k →
    (s.Ready (.zld f) → a < 2 ^ 60 → u.Codes k a lim →
      ∃ n gs o, o.used = u.streamPos k a n - a ∧ o.bits = u.streamBits a o.used ∧ o.used ≤ t.budget u.gang ∧
        exec (.zld f) s = .next (((u.finish t.g f.d.val o n ⟨n, n, o.used, 0, o.used, gs⟩).loadedStream a o.used).retire (.zld f) .seq) ∧
        (gs = gsFull → n < lim ∧ t.budget u.gang < u.streamPos k a (n + 1) - a) ∧
        (gs ≠ gsFull → n = lim ∧ gs = ends (s.sreg f.b).toNat)) ∧
    (s.Ready (.zskip f) → a < 2 ^ 60 → u.Codes k a lim →
      exec (.zskip f) s = .next ((((u.setS f.d (BitVec.ofNat 64 (u.streamPos k a lim))).report
        ⟨lim, 0, u.streamPos k a lim - a, 0, 0, ends (s.sreg f.b).toNat⟩).loadedStream a (u.streamPos k a lim - a)).retire (.zskip f) .seq)) ∧
    (∀ i, i ∈ [Instr.zld f, .zskip f] → s.Ready i → 2 ^ 60 ≤ a →
      exec i s = .next (u.trapped i ⟨Cause.addressRange, 0, a, none⟩))) ∧
  (∀ (s : State) (t : VType) (k : Coding) (f : R2),
    let u := s.due
    let a := (s.sreg f.a).toNat
    let x := u.srcOf (.code k) t.g f.a.val
    let y := u.srcOf (.code k) t.g f.d.val
    let lim := loopLimit (u.grantLen t) [x.count]
    let len := fillLen s.me f.d.val
    let n := fillCount s.me f.d.val
    s.me.vt = some t → u.layout t = .code k →
    (s.Ready (.zfind f) → x.Clean lim →
      ∃ gs o, gs = (if x.count < u.grantLen t then 2 else if u.grantLen t < x.count then 3 else 0) ∧ o.used = 16 * lim ∧ (∀ j, j < lim → o.bits / 2 ^ (16 * j) % 2 ^ 16 = x.start j % 65536) ∧
        exec (.zfind f) s =
          .next ((u.finish t.g f.d.val o lim ⟨lim, lim, x.start lim, 0, 16 * lim, gs⟩).retire (.zfind f) .seq)) ∧
    (s.Ready (.zst f) → len = 0 →
      exec (.zst f) s = .next ((u.report ⟨n, n, 0, 0, 0, 0⟩).retire (.zst f) .seq)) ∧
    (s.Ready (.zst f) → 0 < len → a < 2 ^ 60 →
      u.zstCheck a (a / 8) (a / 8 / 32) [] ((a + len - 1) / 8 / 32 - a / 8 / 32 + 1) = .ok () → y.marks = [] →
      exec (.zst f) s = .next (((u.storeRow (u.zstBytes [] (a / 8) (y.span 0 len * 2 ^ (a % 8)) ((2 ^ len - 1) * 2 ^ (a % 8))
        ((a + len - 1) / 8 - a / 8 + 1))).report ⟨n, n, len, 0, len, 0⟩).retire (.zst f) .seq)) ∧
    (s.Ready (.zst f) → 0 < len → 2 ^ 60 ≤ a →
      exec (.zst f) s = .next (u.trapped (.zst f) ⟨Cause.addressRange, 0, a, none⟩))) ∧
  (∀ (s : State) (t : VType) (p : Fmt) (i : Instr),
    ((∃ f : R3, i = .zld f ∨ i = .zskip f) ∨ ∃ f : R2, i = .zfind f ∨ i = .zst f) →
    s.Ready i → s.me.vt = some t → t.fam = .plain p →
      exec i s = .next (s.due.trapped i (Trap.plain Cause.illegalType)))

/-- `strip`, `sclose` and `sclose.rel` (R108, R112, R297, R298, R30). That `sclose.rel` does what `sclose` does, its release having come
before the word (`State.before`), rests on log 2, and that a strip stopped for pre-emption keeps its best register on log 34: both are the model's choices. -/
def Obligations.Strips : Prop :=
  (∀ (s : State) (f : R3) (t : VType), s.Ready (.strip f) → s.me.vt = some t →
    let u := s.due.commitStrip
    let gl := BitVec.ofNat 64 (min (s.sreg f.a).toNat (t.emax u.gang))
    (u.stopPending = false → u.swapHolds = false →
      exec (.strip f) s = .next ((u.openStrip f.d (min (s.sreg f.a).toNat (t.emax u.gang)) (s.sreg f.b)).retire (.strip f) .seq)) ∧
    (u.stopPending = true →
      exec (.strip f) s = .next ((u.setMe { u.me with
        mode := .stopped 0, resv := none, replay := false, posted := none, late := [], vregs := Seq.reset.vregs }).retire (.strip f) .stay)) ∧
    (u.stopPending = false → u.swapHolds = true → exec (.strip f) s = .next { u with waited := true }) ∧
    (let v := u.openStrip f.d (min (s.sreg f.a).toNat (t.emax u.gang)) (s.sreg f.b)
     v.me.grant = ⟨gl, 0, 0, 0, 0, 0, 0⟩ ∧ (f.d ≠ 0 → v.sreg f.d = gl) ∧ v.me.ctl.sbase = s.sreg f.b ∧
     v.me.ctl.status.getLsbD 7 = true ∧ v.me.truss.tb = none ∧ v.me.vregs = u.me.vregs ∧
     ∃ st, v.me.strip = some st ∧ st.pc = u.me.pc ∧ st.buf = [] ∧ st.journal = [] ∧
       st.ck = ⟨v.me.regs, v.me.loops, v.me.grant, u.me.ctl.status &&& stickyMask, u.me.truss.tx, u.me.pend⟩)) ∧
  (∀ (s : State) (f : R3), s.Ready (.strip f) → s.me.vt = none →
    exec (.strip f) s = .next (s.due.trapped (.strip f) (Trap.plain Cause.illegalType))) ∧
  (∀ (s : State) (f : Bare) (i : Instr), i ∈ [Instr.sclose f, .scloseRel f] → s.Ready i →
    let u := s.due.commitStrip
    (u.stopPending = false → exec i s = .next (u.retire i .seq)) ∧
    (u.stopPending = true →
      exec i s = .next ((u.setMe { u.me with
        mode := .stopped 1, resv := none, replay := false, posted := none, late := [] }).retire i .seq)))

/-- Major 0x20 and its events (R28 to R30, R104, R107). -/
def Obligations.VectorSetup : Prop :=
  (∀ (s : State) (f : R2),
    let u := s.due
    let x := s.sreg f.a
    (s.Ready (.vtype f) → ∀ t, vtOfImage x = some t →
      exec (.vtype f) s =
        .next (((u.setMe { s.me with vt := some t }).setS f.d (BitVec.ofNat 64 (t.emax s.gang))).retire (.vtype f) .seq)) ∧
    (s.Ready (.vtype f) → vtOfImage x = none →
      exec (.vtype f) s = .next (((u.setMe { s.me with vt := none }).setS f.d 0).retire (.vtype f) .seq)) ∧
    (s.Ready (.zctw f) → ∀ h : f.d.val < 4, x.toNat < 2 ^ 56 → wellFormedTable (widthsOf x) f.d.val = true →
      exec (.zctw f) s = .next (State.retire (.zctw f) .seq (u.setUpper (upperOf s.cur) { s.upperAt (upperOf s.cur) with
        shadow := (s.upperAt (upperOf s.cur)).shadow.set f.d.val (widthsOf x) h }))) ∧
    (s.Ready (.zctw f) → 2 ^ 56 ≤ x.toNat ∨ wellFormedTable (widthsOf x) f.d.val = false →
      exec (.zctw f) s = .next (u.trapped (.zctw f) (Trap.plain Cause.illegalTable))) ∧
    (∀ c : Fin 8, (widthsOf x).get c = x.toNat / 2 ^ (7 * c.val) % 128)) ∧
  (∀ (s : State) (f : R3), s.Ready (.mfg f) → ∃ v, exec (.mfg f) s = .next ((s.due.setS f.d v).retire (.mfg f) .seq) ∧
    (f.b = 0 → v = s.me.grant.gl) ∧ (f.b = 1 → v = s.me.grant.gk) ∧ (f.b = 2 → v = s.me.grant.gp) ∧
    (f.b = 3 → v = s.me.grant.ga) ∧ (f.b = 4 → v = s.me.grant.gb) ∧ (f.b = 5 → v = s.me.grant.gd) ∧
    (f.b = 6 → v = s.me.grant.gs.setWidth 64) ∧ (f.b = 7 → v = vtImage s.me.vt) ∧
    (f.b = 8 → v = BitVec.ofNat 64 (s.me.vregs.get f.a).count) ∧
    (f.b = 9 → v = BitVec.ofNat 64 (s.me.vregs.get f.a).len)) ∧
  (∀ (s : State) (f : Bare), s.Ready (.zcswap f) →
    let u := upperOf s.cur
    let up := s.upperAt u
    let v := (s.due.setUpper u { up with swapQueue := up.behind s.cur }).swapTables u
    up.swapWait = none → s.swapReady u = true → v.olderHeld u = false →
      exec (.zcswap f) s = .next (v.retire (.zcswap f) .seq) ∧ (v.upperAt u).active = up.shadow ∧
        (v.upperAt u).gen = up.gen + 1) ∧
  (∀ (s : State) (u : Nat),
    let up := s.upperAt u
    (∀ q w, up.swapWait = some (q, false, w) → s.swapReady u = true →
      exec (.classTableSwap u) s = .next (s.setUpper u
        { up with active := up.shadow, gen := up.gen + 1, swapWait := some (q, true, w) })) ∧
    ((∀ q w, up.swapWait ≠ some (q, false, w)) ∨ s.swapReady u = false → exec (.classTableSwap u) s = .next s) ∧
    (∀ q w, up.swapWait = some (q, true, w) → s.olderHeld u = false →
      exec (.generationDrain u) s = .next ({ State.retire (.zcswap ⟨w⟩) .seq
        { s.setUpper u { up with swapWait := none } with cur := q } with cur := s.cur })) ∧
    ((∀ q w, up.swapWait ≠ some (q, true, w)) ∨ s.olderHeld u = true → exec (.generationDrain u) s = .next s))

/-- The truss rows (R153 to R158, R161 to R170). That `tcupd` counts each kind of event once, its count's overflow among them, is the
model's reading (log 34), that a journal overflow comes before a marked source, weight or column is its choice (log 69), and so is
that `tld` voids what was loaded ahead from its bytes (`loadedFrom`, log 2). A row word whose row the journal cannot take traps journal
overflow with TRAPELEM the row. -/
def Obligations.TrussWords : Prop :=
  (∀ (s : State) (t : VType) (K cb : Nat) (f : TMac) (i : Instr) (dist : Bool) (j : State),
    (i, dist) ∈ [(Instr.tmac f, false), (.tdist f, true)] →
    let u := s.due
    let x := u.srcOf (.plain t.fmt) t.g f.a.val
    let kn := min (min (u.grantLen t) K) x.count
    let slot := u.slotAt f.slot
    s.Ready i → s.me.vt = some t → trussShape t = some (K, cb) → u.maskCheck f.m = .ok () →
    ((slot.tag = none ∨ slot.tag = some t.fmt) → u.journalRows [f.row.val] = .ok j →
      x.marks = [] → slot.marks = [] → (u.rowAt f.row.val).marks = [] →
      ∃ xs cols ev, streamed x t.fmt (u.maskOf f.m) 0 kn = .ok xs ∧ cols.length = u.columns ∧
        rowCols (fun n => if tmTri s.me.truss.tm ∧
            tmRowbase s.me.truss.tm + f.row.val + tmDiag s.me.truss.tm < n then .ok (s.me.truss.tmc.toNat, noEvents)
          else Stream.column ⟨xs, slot, t.fmt, cb, if dist = false then .product
            else if tmMetric s.me.truss.tm = 1 then .squared else .absolute⟩ (u.rowAt f.row.val) n) 0 u.columns =
          Except.ok (cols, ev) ∧
        exec i s = .next (State.retire i .seq (State.report
          (((j.setRow f.row.val ⟨colsOf cols, (u.rowAt f.row.val).count, []⟩).countEvents ev).setBest
            (chain (!dist) (tmTie s.me.truss.tm) cols))
          ⟨kn, 1, streamBitsOf t.fmt kn, 0, 32 * u.columns, rowGs x.count (min (u.grantLen t) K) kn⟩))) ∧
    (slot.tag ≠ none → slot.tag ≠ some t.fmt →
      exec i s = .next (u.trapped i (Trap.plain Cause.trussFormat))) ∧
    (slot.tag = none ∨ slot.tag = some t.fmt → ∀ e, u.journalRows [f.row.val] = .error e → exec i s = .next (u.trapped i e))) ∧
  (∀ (s : State) (t : VType) (f : TRow) (i : Instr) (r : Nat) (op : Machine.Num → Machine.Num → Nat × Events)
      (needOld countUp : Bool) (j : State),
    ((i = .tacc f ∧ r = f.row.val ∧ op = addCol ∧ needOld = true ∧ countUp = false) ∨
     (i = .tfill f ∧ r = f.row.val ∧ op = fillCol ∧ needOld = false ∧ countUp = false) ∨
     (i = .tcupd f ∧ (∃ v, s.me.truss.tb = some (r - f.row.val, v)) ∧ f.row.val ≤ r ∧ op = addCol ∧ needOld = true ∧
       countUp = true)) →
    let u := s.due
    let x := u.srcOf (u.layout t) t.g f.a.val
    let m := min (min (u.grantLen t) u.columns) x.count
    let mask := u.maskOf f.m
    let old := u.rowAt r
    s.VecReady i .movable f.m t →
    (r < 256 → u.journalRows [r] = .ok j → x.Clean m → x.Decodes mask m →
      (needOld = true → ∀ n, n < m → activeAt mask n = true → old.marks.contains n = false) →
      ∃ cols ev, rowCols (rowWith x mask m old op needOld) 0 u.columns = .ok (cols, ev) ∧
        cols.length = u.columns ∧
        exec i s = .next (State.retire i .seq (State.report
          ((j.setRow r ⟨colsOf cols, if countUp then min (old.count + 1) 4294967295 else old.count,
            old.marks.filter (fun n => decide (m ≤ n) || !activeAt mask n)⟩).countEvents
            { ev with ov := ev.ov || (countUp && old.count == 4294967295) })
          ⟨m, m, x.start m, 0, 32 * m, rowGs x.count (min (u.grantLen t) u.columns) m⟩))) ∧
    (256 ≤ r → exec i s = .next (u.trapped i ⟨Cause.rowRange, r, 0, none⟩)) ∧
    (r < 256 → ∀ e, u.journalRows [r] = .error e → exec i s = .next (u.trapped i e))) ∧
  (∀ (s : State) (t : VType) (f : TRow), s.VecReady (.tcupd f) .movable f.m t → s.me.truss.tb = none →
    exec (.tcupd f) s = .next (s.due.trapped (.tcupd f) (Trap.plain Cause.noBest))) ∧
  (∀ (s : State) (t : VType) (f : TRow), s.VecReady (.tdrain f) .movable f.m t →
    (∀ n, n < min (s.due.grantLen t) s.due.columns → activeAt (s.due.maskOf f.m) n = true →
      (s.due.rowAt f.row.val).marks.contains n = false) →
    ∃ n gs o, elemLoop (min (s.due.grantLen t) s.due.columns) [] (s.due.maskOf f.m)
        (s.due.drainElem t (s.due.rowAt f.row.val) (s.due.maskOf f.m)) Out.zero = .ok (n, gs, o) ∧
      exec (.tdrain f) s =
        .next ((s.due.finish t.g f.a.val o n ⟨n, n, 32 * n, 0, o.used, gs⟩).retire (.tdrain f) .seq)) ∧
  (∀ (s : State) (t : VType) (K cb v : Nat) (f : TLd) (locs : List Nat),
    let u := s.due
    s.Ready (.tld f) → s.me.vt = some t → trussShape t = some (K, cb) →
    ((s.sreg f.a).toNat % 32 = 0 → u.tileCheck (s.sreg f.a) 0 (u.columns * cb / 32) = .ok locs →
      u.tileRead (s.sreg f.a) 0 locs = .ok v →
      exec (.tld f) s = .next (State.retire (.tld f) .seq (State.loadedFrom (u.setSole u.image { u.sole with
        slots := u.sole.slots.set f.slot.val ⟨some t.fmt, BitVec.ofNat 327680 v, []⟩ f.slot.isLt })
          (u.sectorAccess · 1) (s.sreg f.a).toNat (u.columns * cb)))) ∧
    ((s.sreg f.a).toNat % 32 ≠ 0 →
      exec (.tld f) s = .next (u.trapped (.tld f) ⟨Cause.misaligned, 0, 8 * (s.sreg f.a).toNat, none⟩))) ∧
  (∀ (s : State) (r : Nat),
    (s.me.strip = none → s.journalRows [r] = .ok s) ∧
    (∀ st, s.me.strip = some st → SMap.find st.journal r = none →
      (st.journal.length < 64 → s.journalRows [r] = .ok (s.setMe { s.me with
        strip := some { st with journal := SMap.put st.journal r (s.rowAt r) } })) ∧
      (st.journal.length = 64 → s.journalRows [r] = .error ⟨Cause.journalOverflow, r, 0, none⟩)) ∧
    (∀ st x, s.me.strip = some st → SMap.find st.journal r = some x → st.journal.length ≤ 64 →
      s.journalRows [r] = .ok (s.setMe s.me)) ∧
    (∀ st before after, s.me.strip = some st → SMap.find st.journal r = none →
      st.journal.length + (before.filter (fun x => (SMap.find st.journal x).isNone)).length = 64 →
      s.journalRows (before ++ r :: after) = .error ⟨Cause.journalOverflow, r, 0, none⟩)) ∧
  (∀ (s : State) (f : TRng) (i : Instr), i ∈ [Instr.tzero f, .tcdiv f, .tcget f] →
    let u := s.due
    let rows := (List.range (s.sreg f.a).toNat).map (· + f.row.val)
    s.Ready i →
    (i = .tcget f → exec i s = .next ((u.setS f.a (BitVec.ofNat 64 (u.rowAt f.row.val).count)).retire i .seq)) ∧
    (i ≠ .tcget f → 256 < f.row.val + (s.sreg f.a).toNat → s.sreg f.a ≠ 0 →
      exec i s = .next (u.trapped i ⟨Cause.rowRange, 256, 0, none⟩)) ∧
    (i ≠ .tcget f → f.row.val + (s.sreg f.a).toNat ≤ 256 → ∀ e, u.journalRows rows = .error e →
      exec i s = .next (u.trapped i e)) ∧
    (i ≠ .tcget f → f.row.val + (s.sreg f.a).toNat ≤ 256 → ∀ j, u.journalRows rows = .ok j →
      (i = .tzero f → exec i s = .next (((rows.foldl (fun v r => v.setRow r Row.zero) j).countEvents noEvents).retire i .seq)) ∧
      (i = .tcdiv f → (∀ r, r ∈ rows → (u.rowAt r).marks = []) →
        ∃ (x : Nat → Row) (e : Nat → Events),
          exec i s = .next (((rows.foldl (fun v r => v.setRow r (x r)) j).countEvents
            (rows.foldl (fun v r => v.join (e r)) noEvents)).retire i .seq) ∧
          ∀ r, r ∈ rows →
            let c := (u.rowAt r).count
            (c = 0 → x r = u.rowAt r ∧ e r = noEvents) ∧
            (c ≠ 0 → ∃ cols, x r = ⟨colsOf cols, c, []⟩ ∧ cols.length = u.columns ∧
              rowCols (fun n =>
                let a := (u.rowAt r).numAt n
                .ok (rowRound (divNum a (.fin false c 0)).1 (a matches .fin _ _ _) a.isNan a.isSig)) 0 u.columns =
                .ok (cols, e r)))))

/-- The truss context (R159, R160, R164, R171). -/
def Obligations.TrussContext : Prop :=
  (∀ (s : State) (f : Pair), s.Ready (.tmode f) →
    let x := s.sreg f.a
    let c := s.sreg f.b
    let legal : Prop := x.toNat % 4 < 2 ∧ x.toNat / 16 % 16 = 0 ∧ x.toNat / 2 ^ 40 = 0 ∧ c.toNat / 2 ^ 32 = 0
    (legal → exec (.tmode f) s = .next (State.retire (.tmode f) .seq (s.due.setMe { s.me with
      truss := { s.me.truss with tm := x, tmc := c.setWidth 32, tb := none } }))) ∧
    (¬ legal → exec (.tmode f) s = .next (s.due.trapped (.tmode f) (Trap.plain Cause.trussMode)))) ∧
  (∀ (s : State) (f : Dst),
    (s.Ready (.tmodr f) → exec (.tmodr f) s = .next ((s.due.setS f.d s.me.truss.tm).retire (.tmodr f) .seq)) ∧
    (s.Ready (.tmodc f) →
      exec (.tmodc f) s = .next ((s.due.setS f.d (s.me.truss.tmc.setWidth 64)).retire (.tmodc f) .seq))) ∧
  (∀ (s : State) (f : DstB), s.Ready (.tbest f) →
    (∀ n v, s.me.truss.tb = some (n, v) → exec (.tbest f) s =
      .next (((s.due.setS f.d (BitVec.ofNat 64 n)).setS f.b (v.setWidth 64)).retire (.tbest f) .seq)) ∧
    (s.me.truss.tb = none → exec (.tbest f) s =
      .next (((s.due.setS f.d (BitVec.allOnes 64)).setS f.b 0x7FC00000).retire (.tbest f) .seq))) ∧
  (∀ (s : State) (f : R2), s.Ready (.tcnt f) →
    let x := s.me.truss.tx
    (f.a.val = 0 → exec (.tcnt f) s = .next ((s.due.setS f.d (BitVec.ofNat 64 x.ov)).retire (.tcnt f) .seq)) ∧
    (f.a.val = 1 → exec (.tcnt f) s = .next ((s.due.setS f.d (BitVec.ofNat 64 x.nv)).retire (.tcnt f) .seq)) ∧
    (f.a.val = 2 → exec (.tcnt f) s = .next ((s.due.setS f.d (BitVec.ofNat 64 x.nx)).retire (.tcnt f) .seq)) ∧
    (f.a.val = 3 → exec (.tcnt f) s = .next (((s.due.setMe { s.me with truss := { s.me.truss with tx := ⟨0, 0, 0⟩ } }).setS f.d
      (BitVec.ofNat 64 (min x.ov 2097151 + min x.nv 2097151 * 2 ^ 21 + min x.nx 2097151 * 2 ^ 42))).retire (.tcnt f) .seq)))

/-- The frames of the vector words (R64, R106, R115, R130) and of the words that write truss rows (R161 to R170), in any
state, unless they trap. -/
def Obligations.VectorTrussFrame : Prop :=
  (∀ (i : Instr) (d n : Nat) (s t : State), vectorDest s i = some (d, n) → exec i s = .next t →
    t.me.trapSeq = s.me.trapSeq → VectorChange d n s t ∧ SameBytes s t) ∧
  (∀ (i : Instr) (rs : List Nat) (s t : State), trussRows s i = some rs → exec i s = .next t →
    t.me.trapSeq = s.me.trapSeq →
    TrussChange s t ∧ SameBytes s t ∧ ∀ r, r ∉ rs → t.rowAt r = s.rowAt r)

/-- The construction instructions (R199 to R202). -/
def Obligations.Constructions : Prop :=
  ∀ (s : State) (f : R3),
    let u := s.due
    let nw := (s.sreg f.d).toNat
    let x := (s.sreg f.a).toNat
    let y := (s.sreg f.b).toNat
    let route := nw / 4096 % 16
    let handler := nw / 65536 % 4096
    let ea := s.me.ctl.ptab + BitVec.ofNat 64 (64 * (nw % 4096))
    let legal : Prop := nw < 2 ^ 28 ∧ route ≤ 2 ∧ (route = 1 ∨ handler = 0)
    let result (i : Instr) (k : Kind) (a b shape : Nat) (fits : Prop) : Prop :=
      s.Ready i →
        (legal → operandsOk k a b shape = true → fits → ∀ loc, u.checkAccess u.ctx .store ea.toNat 1 = .ok loc →
          exec i s = .next ((u.commitStrip.store (bufNat [] ea.toNat loc 64
            (packDwords [k.code + route * 16 + handler * 256, a, b, shape, 0, 0, 0, 0]))).retire i .seq)) ∧
        (¬ (legal ∧ operandsOk k a b shape = true ∧ fits) →
          exec i s = .next (u.trapped i (Trap.plain Cause.illegalPattern)))
    result (.cfun f) .fn x 0 y True ∧ result (.ccor f) .cor x 0 y True ∧ result (.cseq f) .sq x y 0 True ∧
    result (.cpar f) .par x y 0 True ∧ result (.cpipe f) .pipe (x % 65536) (x / 65536) y True ∧
    result (.cfarm f) .farm x y 0 (y ≤ 65536) ∧ result (.cloop f) .loop x y 0 True

/-- `capply` (R204 to R209, R213), `cret` (R215) and `wid` (R218). -/
def Obligations.ApplyWords : Prop :=
  (∀ (s : State) (f : R3), s.Ready (.capply f) →
    let v := s.due.commitStrip
    let root := (s.sreg f.a).toNat
    let q := v.issuer root (s.sreg f.b)
    (4096 ≤ root → exec (.capply f) s = .next (s.due.trapped (.capply f) (Trap.plain Cause.illegalPattern))) ∧
    (root < 4096 → ∀ sums x, v.survey q.walk 16 root q.depth 0 = .ok sums → v.reserve q sums = .ok x →
      ∃ n t, v.mine.makeNest q = .ok (n, t) ∧ (SMap.find t.nests n).isSome = true ∧
        exec (.capply f) s = .next (State.retire (.capply f) .seq ((t.setMe { t.me with
          pend := if f.d.val = 0 then t.me.pend else SMap.put t.me.pend f.d.val (.nest n) }).doActs
            [(.start n 0 t.me.level, upperOf t.cur)]).notMine)) ∧
    (root < 4096 → ∀ reason entry, v.survey q.walk 16 root q.depth 0 = .error (.node reason entry) →
      exec (.capply f) s =
        .next ((v.setS f.d (tokenWord 3 (reason + entry * 256))).retire (.capply f) .seq)) ∧
    (root < 4096 → ∀ sums reason, v.survey q.walk 16 root q.depth 0 = .ok sums → v.reserve q sums = .error reason →
      exec (.capply f) s = .next ((v.setS f.d (tokenWord 3 (reason + root * 256))).retire (.capply f) .seq)) ∧
    (root < 4096 → ∀ t, v.survey q.walk 16 root q.depth 0 = .error (.fault t) → t.cause ≠ Cause.held →
      exec (.capply f) s = .next (v.trapped (.capply f) t))) ∧
  (∀ (s : State) (f : Pair), s.Ready (.cret f) →
    let v := s.due.commitStrip
    let cause := (s.sreg f.b).toNat
    (65536 ≤ cause → exec (.cret f) s = .next (s.due.trapped (.cret f) (Trap.plain Cause.illegalPattern))) ∧
    (cause < 65536 → v.endWaits v.cur = true → exec (.cret f) s = .next { v with waited := true }) ∧
    (cause < 65536 → v.endWaits v.cur = false →
      exec (.cret f) s = .next ((v.endRecord v.cur cause (s.sreg f.a)).retire (.cret f) .stay))) ∧
  (∀ (s : State) (f : R2), s.Ready (.wid f) → ∃ x,
    exec (.wid f) s = .next ((s.due.setS f.d x).retire (.wid f) .seq) ∧
    let ws := (s.launchAt s.myLaunch).widths
    (f.a = 6 → x = s.widOr0) ∧ (f.a = 7 → x = BitVec.ofNat 64 ((s.me.work.map (·.depth)).getD 0)) ∧
    (f.a.val < 6 → f.a.val < fieldsUsed ws →
      x = BitVec.ofNat 64 (s.widOr0.toNat / 2 ^ fieldStart ws f.a.val % 2 ^ ws.getD f.a.val 0)) ∧
    (f.a.val < 6 → fieldsUsed ws ≤ f.a.val → x = 0))

/-- The channel words (R219 to R223). The order of the checks in which the manual names groups of them is the model's (log 39). -/
def Obligations.ChannelWords : Prop :=
  (∀ (s : State) (f : R3) (loc : Nat), s.Ready (.chput f) → s.due.chputCheck (s.sreg f.a) (s.sreg f.b) = .ok loc →
    let v := s.due.commitStrip
    let a := (s.sreg f.a).toNat
    let src := (s.sreg f.b).toNat
    let n := v.chSize loc / 8
    let off := v.slotOff loc (v.chPut loc)
    let live : Prop := v.chanLive loc = true ∧ v.anyMarked loc 24 = false
    (v.chanLive loc = false → exec (.chput f) s = .next (v.trapped (.chput f) (Trap.plain Cause.badChannel))) ∧
    (v.chanLive loc = true → v.anyMarked loc 24 = true →
      exec (.chput f) s = .next (v.trapped (.chput f) (poisonTrap 0 a))) ∧
    (live → src = 0 → exec (.chput f) s = .next (State.retire (.chput f) .seq
      (((v.pokeMine (loc + 16) 8 (cellsNat v.mem.cells (loc + 16) 4 + 4294967296)).wakeYields loc).setS f.d 0))) ∧
    (live → src ≠ 0 → ∀ t, v.elemWhole .load src n = .error t → t.cause ≠ Cause.held →
      exec (.chput f) s = .next (v.trapped (.chput f) t)) ∧
    (live → src ≠ 0 → v.elemWhole .load src n = .ok () → v.chClosed loc = true →
      exec (.chput f) s = .next ((v.setS f.d 3).retire (.chput f) .seq)) ∧
    (live → src ≠ 0 → v.elemWhole .load src n = .ok () → v.chClosed loc = false →
      v.chHeld loc = v.chDepth loc →
      exec (.chput f) s = .next ((v.setS f.d 1).retire (.chput f) .seq)) ∧
    (live → src ≠ 0 → v.chClosed loc = false → v.chHeld loc ≠ v.chDepth loc →
      v.elemWhole .load src n = .ok () → v.elemMarked src n = none →
      let t := v.commitSectors (bufNat [] (a + off) (loc + off) (8 * n) (v.elemRead src n))
      exec (.chput f) s = .next (State.retire (.chput f) .seq
        (((t.pokeMine (loc + 8) 8 (t.chPut loc + 1)).wakeYields loc).setS f.d 0)))) ∧
  (∀ (s : State) (f : R3) (loc : Nat), s.Ready (.chget f) → s.due.chgetCheck (s.sreg f.a) (s.sreg f.b) = .ok loc →
    let v := s.due.commitStrip
    let a := (s.sreg f.a).toNat
    let dst := (s.sreg f.b).toNat
    let n := v.chSize loc / 8
    let off := v.slotOff loc (v.chTaken loc)
    let live : Prop := v.chanLive loc = true ∧ v.anyMarked loc 24 = false
    (v.chanLive loc = false → exec (.chget f) s = .next (v.trapped (.chget f) (Trap.plain Cause.badChannel))) ∧
    (v.chanLive loc = true → v.anyMarked loc 24 = true →
      exec (.chget f) s = .next (v.trapped (.chget f) (poisonTrap 0 a))) ∧
    (live → ∀ t, v.elemWhole .store dst n = .error t → t.cause ≠ Cause.held →
      exec (.chget f) s = .next (v.trapped (.chget f) t)) ∧
    (live → v.elemWhole .store dst n = .ok () → v.chHeld loc = 0 → v.chClosed loc = false →
      exec (.chget f) s = .next ((v.setS f.d 1).retire (.chget f) .seq)) ∧
    (live → v.elemWhole .store dst n = .ok () → v.chHeld loc = 0 → v.chClosed loc = true →
      exec (.chget f) s = .next ((v.setS f.d 2).retire (.chget f) .seq)) ∧
    (live → v.chHeld loc ≠ 0 → v.elemWhole .store dst n = .ok () →
      v.anyMarked (loc + off) (8 * n) = false →
      let t := v.commitSectors (v.elemWrite [] dst (cellsNat v.mem.cells (loc + off) (8 * n)) n)
      exec (.chget f) s = .next (State.retire (.chget f) .seq
        ((((t.pokeMine loc 8 (t.chTaken loc + 1)).wakeYields loc).acquire sysScope).setS f.d 0)))) ∧
  (∀ (s : State) (f : R3), s.Ready (.cyield f) →
    let v := s.due.commitStrip
    (s.me.work.map (·.coro) ≠ some true →
      exec (.cyield f) s = .next (s.due.trapped (.cyield f) (Trap.plain Cause.notCoroutine))) ∧
    (∀ x, s.due.cyieldCheck (s.sreg f.a) (s.sreg f.b) = .ok x → v.unsettled v.cur = true →
      exec (.cyield f) s = .next { v with waited := true }) ∧
    (∀ r loc, s.due.cyieldCheck (s.sreg f.a) (s.sreg f.b) = .ok (r, some loc) →
      (v.unsettled v.cur = false → v.chanLive loc = false →
        exec (.cyield f) s = .next (v.trapped (.cyield f) (Trap.plain Cause.badChannel))) ∧
      (v.unsettled v.cur = false → v.chanLive loc = true → v.anyMarked loc 24 = true →
        exec (.cyield f) s = .next (v.trapped (.cyield f) (poisonTrap 0 (s.sreg f.a).toNat))) ∧
      (v.chanLive loc = true → v.anyMarked loc 24 = false → v.unsettled v.cur = false →
        v.condHolds loc (s.sreg f.b).toNat = true →
        exec (.cyield f) s = .next ((v.setS f.d 1).retire (.cyield f) .seq)) ∧
      (v.chanLive loc = true → v.anyMarked loc 24 = false → v.unsettled v.cur = false →
        v.condHolds loc (s.sreg f.b).toNat = false →
        exec (.cyield f) s =
          .next ((v.yieldOn r f.d (some (loc, (s.sreg f.b).toNat))).retire (.cyield f) .stay))) ∧
    (∀ r, s.due.cyieldCheck (s.sreg f.a) (s.sreg f.b) = .ok (r, none) → v.unsettled v.cur = false →
      exec (.cyield f) s = .next ((v.yieldOn r f.d none).retire (.cyield f) .stay))) ∧
  (∀ (s : State) (r : Rec) (d : Reg) (chan : Option (Nat × Nat)),
    let t := s.yieldOn r d chan
    let r' : Rec := { r with resume := some (d, s.me.held) }
    t.me.mode = .idle ∧
    (∀ e, s.hwLoc r.part (r.frame.toNat + 0x80) 64 = .error e →
      t.queue = s.queue ∧ t.yields = s.yields ++ [⟨r', noChannel, 0, upperOf s.cur, s.me.level⟩]) ∧
    (∀ at_ loc cond, s.hwLoc r.part (r.frame.toNat + 0x80) 64 = .ok at_ → chan = some (loc, cond) →
      t.queue = s.queue ∧ t.yields = s.yields ++ [⟨r', loc, cond, upperOf s.cur, s.me.level⟩]))

/-- Barrier objects (R225 to R229). The ends of a held `barw` (a saved core, an object that is out of reach) are
the model's choice (log 35), and so is that an object that comes to be marked or bad meanwhile traps the word (log 77). A phase that is
reached is an acquire (R258, R259), which `acquire` performs on what was loaded ahead (log 2). -/
def Obligations.Barriers : Prop :=
  let turned (c : BarObj) : BarObj := if c.arrived = c.expected ∧ c.count ≤ 0 then
    { c with
      surplus := c.surplus || c.count < 0, phase := (c.phase + 1) % 65536, arrived := c.early, early := 0, count := c.next
      next := 0 } else c
  (∀ (b : BarObj) (n : Nat), b.deliver n = turned (turned { b with count := max (b.count - n) (-2147483648) })) ∧
  (∀ (b : BarObj) (tag bytes : Nat), b.bad = false →
    let d := phaseDiff tag b.phase
    (d < 0 → b.arrive tag bytes = .error (Cause.staleArrival, b)) ∧
    (2 ≤ d → b.arrive tag bytes = .error (Cause.barrierOverrun, { b with overrun := true })) ∧
    (d = 0 → b.arrived = b.expected → b.arrive tag bytes = .error (Cause.barrierOverrun, { b with overrun := true })) ∧
    (d = 0 → b.arrived < b.expected → b.count + bytes < 2 ^ 31 →
      b.arrive tag bytes = .ok (turned (turned { b with arrived := b.arrived + 1, count := b.count + bytes }))) ∧
    (d = 1 → b.early < b.expected → b.next + bytes < 2 ^ 29 →
      b.arrive tag bytes = .ok (turned (turned { b with early := b.early + 1, next := b.next + bytes }))) ∧
    (b.reached tag = true ↔ 0 ≤ phaseDiff b.phase tag)) ∧
  (∀ (s : State) (f : R3) (i : Instr) (top bytes loc : Nat) (b : BarObj),
    (i = .barv f ∧ top = 16 ∧ bytes = 0 ∨
      i = .bara f ∧ top = 45 ∧ bytes = (s.sreg f.b).toNat / 65536 % 536870912) → s.Ready i →
    let u := s.due
    let v := u.commitStrip
    let a := (s.sreg f.a).toNat
    u.checkAccess u.ctx .both a 16 = .ok loc →
    (2 ^ top ≤ (s.sreg f.b).toNat → exec i s = .next (u.trapped i (Trap.plain Cause.badBarrier))) ∧
    ((s.sreg f.b).toNat < 2 ^ top → v.viewBad loc 16 = false → (v.barAt loc).bad = false →
      (v.barAt loc).arrive ((s.sreg f.b).toNat % 65536) bytes = .ok b →
      exec i s = .next (((v.putBar a loc b).setS f.d (BitVec.ofNat 64 b.phase)).retire i .seq))) ∧
  (∀ (s : State) (f : R3) (loc : Nat), s.Ready (.barw f) →
    let u := s.due
    let v := u.commitStrip
    let a := (s.sreg f.a).toNat
    let b := s.sreg f.b
    let o := v.barAt loc
    u.checkAccess u.ctx .both a 16 = .ok loc → b.toNat < 2 ^ 48 → v.viewBad loc 16 = false → o.bad = false →
    (o.reached (b.toNat % 65536) = true →
      exec (.barw f) s = .next (((v.acquire sysScope).setS f.d (barwWord o 0)).retire (.barw f) .seq)) ∧
    (o.reached (b.toNat % 65536) = false →
      exec (.barw f) s = .next { v.setMe { v.me with
        mode := .barw ⟨f, a, b.toNat % 65536, v.barwDeadline b⟩ } with waited := true })) ∧
  (∀ (s : State) (q : Nat) (w : BarWait) (i : Instr), i ∈ [Instr.barwPhaseReached q, .barwTimeout q] →
    (s.seqAt q).mode = .barw w → i = .barwPhaseReached q ∨ (∃ t, w.deadline = some t ∧ t ≤ s.clock) →
    let x := s.checkAccess (s.ctxOf q) .both w.addr 16
    (∀ e, x = .error e → e.cause = Cause.held → exec i s = .next s) ∧
    (∀ e, x = .error e → e.cause ≠ Cause.held → exec i s = .next (s.trapWait q w (e.trap 0 w.addr))) ∧
    (∀ loc, x = .ok loc →
      let o := s.barAt loc
      (s.poisoned loc = true → exec i s = .next (s.trapWait q w (poisonTrap 0 w.addr))) ∧
      (s.poisoned loc = false → o.bad = true → exec i s = .next (s.trapWait q w (Trap.plain Cause.badBarrier))) ∧
      (s.poisoned loc = false → o.bad = false → o.reached w.target = true →
        exec i s = .next (s.endWait q w (barwWord o 0))) ∧
      (s.poisoned loc = false → o.bad = false → o.reached w.target = false →
        exec i s = .next (if i = .barwTimeout q then s.endWait q w (barwWord o 1) else s)))) ∧
  (∀ (s : State) (q : Nat) (w : BarWait) (t : Trap),
    let u : State := { s with cur := q }
    s.trapWait q w t =
      { State.trapped (u.setMe { u.me with mode := .running }) (.barw w.word) t with cur := s.cur }) ∧
  (∀ (s : State) (q : Nat),
    (∀ w, (s.seqAt q).mode = .barw w → (∀ t, w.deadline = some t → s.clock < t) → exec (.barwTimeout q) s = .next s) ∧
    ((∀ w, (s.seqAt q).mode ≠ .barw w) →
      exec (.barwPhaseReached q) s = .next s ∧ exec (.barwTimeout q) s = .next s)) ∧
  (∀ (b : BarObj) (status : Nat), status < 256 → b.phase < 65536 →
    (barwWord b status).toNat % 256 = status ∧ (barwWord b status).toNat / 65536 = b.phase ∧
    (barwWord b status).getLsbD 8 = b.surplus ∧ (barwWord b status).getLsbD 9 = b.overrun)

/-- Atomics (R230) and fences (R231). What an order suffix or a fence orders comes before the word
(`State.before`), and `loaded` voids what was loaded ahead from the bytes: the model's reading (log 2). -/
def Obligations.AtomicsAndFences : Prop :=
  (∀ (s : State) (f : Amo) (loc : Nat),
    let u := s.due
    let v := u.commitStrip
    let size := if f.narrow then 4 else 8
    let bits := 8 * size
    let a := (s.sreg f.a).toNat
    let x := (s.sreg f.b).toNat % 2 ^ bits
    let e := (s.sreg f.d).toNat % 2 ^ bits
    let m := cellsNat v.mem.cells loc size
    let i (n : Nat) : Int := if 2 ^ (bits - 1) ≤ n then (n : Int) - 2 ^ bits else n
    let result (w : Instr) (zero : Bool) (new : Option Nat) : Prop :=
      s.Ready w → u.checkAccess u.ctx .both a size = .ok loc → v.viewBad loc size = false →
        exec w s = .next (State.retire w .seq (State.loaded (State.setS
          (match new with
            | some n => v.commitSectors (bufNat [] a loc size n)
            | none => v)
          f.d (extendTo (!zero) size m)) [inPlace loc size]))
    result (.amoSwap f) false (some x) ∧
    result (.amoAdd f) false (some ((m + x) % 2 ^ bits)) ∧
    result (.amoAnd f) false (some (m &&& x)) ∧
    result (.amoOr f) false (some (m ||| x)) ∧
    result (.amoXor f) false (some (m ^^^ x)) ∧
    result (.amoMin f) false (some (if i x < i m then x else m)) ∧
    result (.amoMax f) false (some (if i m < i x then x else m)) ∧
    result (.amoMinn f) true (some (min m x)) ∧
    result (.amoMaxn f) true (some (max m x)) ∧
    result (.amoCas f) false (if m = e then some x else none)) ∧
  (∀ (s : State) (f : FenceF) (i : Instr), i ∈ [Instr.fence f, .fenceAcq f, .fenceRel f] → s.Ready i →
    exec i s = .next (s.due.commitStrip.retire i .seq))

/-- Scatter rounds (R232 to R236, R263). That the additions of `scadd.u` arrive one by one and in any order between words, and the form
of a spilled run, are the model's choices (logs 7 and 41), as are a round in a scratchpad window, an overflow area that programs write,
and a close in one step (log 71). The close leaves at an address the left fold of the round's updates there over what memory held, in
order of address, identifier and index (R236). -/
def Obligations.ScatterRounds : Prop :=
  (∀ (s : State) (f : Pair) (x : Nat × Fmt) (t : State), s.Ready (.scopen f) →
    let v := s.due.commitStrip
    s.due.scopenCheck (s.sreg f.a) (s.sreg f.b) = .ok x →
    v.mine.joinRound x.1 x.2 (s.sreg f.a).toNat (s.sreg f.b).toNat = .ok t →
      exec (.scopen f) s = .next (t.notMine.retire (.scopen f) .seq) ∧ t.me.held = some x.1 ∧
      ∃ r, SMap.find t.rounds x.1 = some r ∧ r.fmt = x.2 ∧ r.parts = (s.sreg f.b).toNat ∧
        r.joined = ((SMap.find v.rounds x.1).map (·.joined)).getD 0 + 1) ∧
  (∀ (s : State) (f : R3) (w : Fmt) (n gs : Nat) (l : List (Nat × Nat × Nat × Nat)),
    let u := s.due
    let v := u.commitStrip.report ⟨n, n, w.width * n, 32 * n, 0, gs⟩
    (s.Ready (.scaddO f) (scaddGroup f) → u.scaddCheck true f = .ok (w, n, gs, l) →
      exec (.scaddO f) s = .next ((v.sendUpdates w l).retire (.scaddO f) .seq) ∧
      (∀ r, v.me.held = some r → (v.sendUpdates w l).flights = v.flights ++ l.map (fun e =>
        ⟨some r, v.cur, w, e.1, e.2.1, v.widOr0, v.me.ctl.sbase + BitVec.ofNat 64 e.2.2.1, e.2.2.2, v.mySerial⟩))) ∧
    (s.Ready (.scaddU f) (scaddGroup f) → u.scaddCheck false f = .ok (w, n, gs, l) →
      exec (.scaddU f) s = .next ((v.sendAdds w l).retire (.scaddU f) .seq) ∧
      (v.sendAdds w l).mem = v.mem ∧ (v.sendAdds w l).flights = v.flights ++ l.map (fun e =>
        ⟨none, v.cur, w, e.1, e.2.1, 0, BitVec.ofNat 64 e.2.2.1, e.2.2.2, v.uid + 1⟩)) ∧
    (s.Ready (.scaddU f) (scaddGroup f) → s.me.ctl.det.getLsbD 0 = true →
      exec (.scaddU f) s = .next (u.trapped (.scaddU f) (Trap.plain Cause.unordered)))) ∧
  (∀ (s : State) (f : R2) (loc : Nat), s.Ready (.scflush f) → s.due.scflushCheck (s.sreg f.a) = .ok loc →
    let w := s.due.commitStrip
    let v := w.walked w.ctx .hw (s.sreg f.a).toNat
    (v.flying loc v.mySerial = true → exec (.scflush f) s = .next { v with waited := true }) ∧
    (v.flying loc v.mySerial = false →
      exec (.scflush f) s = .next (State.retire (.scflush f) .seq ((v.setMe { v.me with
        held := none
        pend := if f.d.val = 0 then v.me.pend else SMap.put v.me.pend f.d.val (.round loc) }).asMine (·.leaveRound loc))))) ∧
  (∀ (s : State) (f : R2), s.Ready (.scflush f) →
    let u := s.due
    let a := (s.sreg f.a).toNat
    let trap : Prop := exec (.scflush f) s = .next (u.trapped (.scflush f) (Trap.plain Cause.scatterRound))
    (s.me.held = none → trap) ∧
    ∀ h, s.me.held = some h → u.heldAt u.ctx a = false →
      (∀ loc, u.resolve u.ctx .hw a = .ok loc → (loc = h → u.scflushCheck (s.sreg f.a) = .ok h) ∧ (loc ≠ h → trap)) ∧
      (∀ e r, u.resolve u.ctx .hw a = .error e → SMap.find s.rounds h = some r →
        (r.va = a → u.scflushCheck (s.sreg f.a) = .ok h) ∧
        (r.va ≠ a → exec (.scflush f) s = .next (u.trapped (.scflush f) ⟨Cause.scatterRound, 0, 0, e.page⟩)))) ∧
  (∀ (s : State) (n : Nat),
    (s.flights[n]? = none → exec (.scaddUpdateArrival n) s = .next s) ∧
    (∀ x, s.flights[n]? = some x → ∃ y, (y = x ∨ y ∈ s.flights ∧ y.before x = true ∧ y.round = x.round) ∧
      let k := sliceOf y.loc
      let buf := (SMap.find s.holds k).getD []
      (x.round = none → exec (.scaddUpdateArrival n) s = .next (s.addAt y)) ∧
      (x.round ≠ none → buf.length < 16 → exec (.scaddUpdateArrival n) s = .next ((s.holdUpdate k y).leftLast y)) ∧
      (x.round ≠ none → 16 ≤ buf.length → (∃ r ∈ roundsIn buf, s.spillHeld r = true) →
        exec (.scaddUpdateArrival n) s = .next s) ∧
      (x.round ≠ none → 16 ≤ buf.length → (∀ r ∈ roundsIn buf, s.spillHeld r = false) →
        (∀ r ∈ roundsIn buf, s.spillStall r (ofRound buf r).length = none) →
        ∃ t, exec (.scaddUpdateArrival n) s = .next t ∧ SMap.find t.holds k = some [y] ∧ t.flights = s.flights.erase y))) ∧
  (∀ (s : State) (k : Nat) (y : Update), (s.holdUpdate k y).flights = s.flights.erase y ∧
    SMap.find (s.holdUpdate k y).holds k = some ((SMap.find s.holds k).getD [] ++ [y]) ∧ (s.holdUpdate k y).mem = s.mem) ∧
  (∀ (s : State) (y : Update), s.MemoryOk →
    (s.addAt y).flights = s.flights.erase y ∧
    cellsNat (s.addAt y).mem.cells y.loc (y.fmt.width / 8) =
      foldAdd y.fmt (cellsNat s.mem.cells y.loc (y.fmt.width / 8)) y.val % 2 ^ (8 * (y.fmt.width / 8))) ∧
  (∀ (s : State) (k loc : Nat) (es : List Update) (r : Round), SMap.find s.rounds loc = some r →
    (r.failed = true → s.spillRound k loc es = s) ∧
    (r.failed = false → r.size < r.used + 32 * (es.length + 1) →
      s.spillRound k loc es = { s with rounds := SMap.put s.rounds loc { r with failed := true } }) ∧
    (∀ t, r.failed = false → r.used + 32 * (es.length + 1) ≤ r.size →
      s.spillSectors r.ctx (r.base + r.used) (es.length + 1) = .ok t →
      SMap.find (s.spillRound k loc es).rounds loc =
        some { r with used := r.used + 32 * (es.length + 1), runs := r.runs ++ [updSort es] })) ∧
  (∀ (s : State) (r : Nat),
    (∀ x, SMap.find s.rounds r = some x → x.closing = true → (∀ y, y ∈ s.flights → y.round ≠ some r) →
      exec (.scatterRoundClose r) s = .next ((s.closeRound r x).settle x.launch)) ∧
    ((∀ x, SMap.find s.rounds r = some x → x.closing = false ∨ ∃ y, y ∈ s.flights ∧ y.round = some r) →
      exec (.scatterRoundClose r) s = .next s)) ∧
  (∀ (s : State) (y : Update) (loc : Nat) (r : Round), y.round = some loc → SMap.find s.rounds loc = some r →
    (y.src ∉ r.leaving ∨ s.flying loc y.src = true → s.leftLast y = s) ∧
    (y.src ∈ r.leaving → s.flying loc y.src = false → s.leftLast y =
      ({ s with rounds := SMap.put s.rounds loc { r with leaving := r.leaving.erase y.src } } : State).leaveRound loc)) ∧
  (∀ (s : State) (loc : Nat) (r : Round),
    let us := s.roundUpdates loc r
    let held := s.runUpdates r 0 r.runs ++ (s.holds.flatMap (fun x => ofRound x.2 loc)).map (fun u => (u, false))
    us.Perm held ∧ (us.map (·.1)).Pairwise (fun x y => updBefore x y = true) ∧
    ((s.runUpdates r 0 r.runs).map (·.1) = r.runs.flatten) ∧
    ∀ a, s.MemoryOk → (a + r.fmt.width / 8 ≤ loc ∨ loc + 64 ≤ a) →
      let sz := r.fmt.width / 8
      let old := cellsNat s.mem.cells a sz
      (r.failed = true → cellsNat (s.closeRound loc r).mem.cells a sz = old) ∧
      (r.failed = false → (∀ u ∈ us, u.1.loc % sz = 0) → a % sz = 0 → cellsNat (s.closeRound loc r).mem.cells a sz =
        (((us.map (·.1)).filter (fun u => u.loc == a)).foldl (fun m u => foldAdd r.fmt m u.val) old) % 2 ^ (8 * sz))) ∧
  (∀ x y : Update, updBefore x y = true ↔ x.va < y.va ∨ (x.va = y.va ∧ (x.wid.toNat < y.wid.toNat ∨
    (x.wid = y.wid ∧ x.idx.toNat ≤ y.idx.toNat))))

/-- Engine instructions at issue (R266 to R273, R279, R280, R352, R353). `loadedFrom` voids what was loaded ahead from the descriptor's
bytes, and a read of a token's register acquires (R258; log 2). -/
def Obligations.EngineIssue : Prop :=
  let sent (v : State) (i : Instr) (s : State) (d : Reg) (c : Command) : Prop :=
    ∃ (id : Nat) (t : State), exec i s = .next (t.retire i .seq) ∧ v.fresh.1 = id ∧
      t.cmds = SMap.put v.cmds id c ∧ (d.val ≠ 0 → SMap.find t.me.pend d.val = some (.cmd id)) ∧
      t.me.regs = v.me.regs ∧ t.mem = v.mem ∧ t.me.posted = none ∧
      ∀ k : Fin 8, t.me.masks.get k = if k.val = c.mask ∧ k.val ≠ 0 then
        v.me.masks.get k &&& ~~~(BitVec.ofNat 4096 (2 ^ min (chunkCount c.len) 4096 - 1)) else v.me.masks.get k
  let issued (s : State) (i : Instr) (d : Reg) (c : Command) : Prop :=
    let v := s.due.commitStrip
    s.me.posted = none →
    (v.cmdWaits c.mask = true →
      exec i s = .next { v.setMe { v.me with posted := some c } with waited := true }) ∧
    (v.cmdWaits c.mask = false → sent v i s d (v.freshTable c))
  (∀ (s : State) (f : Eng) (i : Instr) (op : CopyOp) (c : Command),
    (i, op) ∈ [(Instr.xcopy f, .copy), (.xcopyz f, .expand), (.xfill f, .fill)] → s.Ready i →
    s.due.copyCheck op (s.sreg f.a) (s.sreg f.b) f.c.val = .ok c → c.mask = f.c.val ∧
    (c.len ≠ 0 → issued s i f.d c) ∧
    (c.len = 0 → s.me.posted = none → s.due.commitStrip.cmdWaits f.c.val = false →
      let t := ((s.due.commitStrip.loadedFrom (inPlace · 1) (s.sreg f.a).toNat 32).addStream c.launch c.core []).setS f.d (tokenWord 1 0)
      exec i s = .next (State.retire i .seq
        (if f.d.val = 0 then t else t.setMe { t.me with tokens := f.d.val :: t.me.tokens })))) ∧
  (∀ (s : State) (f : Eng) (c : Command), s.Ready (.xcoll f) →
    s.due.collCheck (s.sreg f.a) (s.sreg f.b) f.c.val = .ok c → issued s (.xcoll f) f.d c) ∧
  (∀ (s : State) (f : R2), s.Ready (.xnote f) →
    issued s (.xnote f) f.d (s.due.newCommand (.note (s.sreg f.a)) 0 0 0 0)) ∧
  (∀ (s : State) (f : R3), s.due.gridCheck (s.sreg f.a) = .ok () →
    (s.Ready (.xgrid f) → dimsOk (s.sreg f.b).toNat = true →
      issued s (.xgrid f) f.d (s.due.newCommand (.gridDecl (s.sreg f.a).toNat (s.sreg f.b)) 0 0 0 0)) ∧
    (s.Ready (.xquery f) → s.due.answerOk (s.sreg f.b) = true →
      issued s (.xquery f) f.d (s.due.newCommand (.query (s.sreg f.a).toNat (s.sreg f.b).toNat) 0 0 0 0))) ∧
  (∀ (s : State) (f : Eng) (g : R2) (h : R3) (i : Instr) (d : Reg) (copies : Bool) (c : Command),
    (i, d, copies) ∈ [(Instr.xcopy f, f.d, true), (.xcopyz f, f.d, true), (.xfill f, f.d, true), (.xcoll f, f.d, false),
      (.xnote g, g.d, false), (.xgrid h, h.d, false), (.xquery h, h.d, false)] → s.Ready i → s.me.posted = some c →
    (s.due.cmdWaits c.mask = true → exec i s = .next { s.due with waited := true }) ∧
    (s.due.cmdWaits c.mask = false →
      (copies = false → sent s.due i s d c) ∧
      (copies = true → c.len ≠ 0 → sent s.due i s d (s.due.freshTable c)) ∧
      (copies = true → c.len = 0 → ∃ t, exec i s = .next (State.retire i .seq t) ∧ t.me.posted = none ∧
        t.cmds = s.cmds ∧ t.mem = s.mem ∧ (d.val ≠ 0 → t.sreg d = tokenWord 1 0))))

/-- The events of engine commands (R267 to R270, R273, R275, R277 to R280, R353). Which page the service maps is its own
choice (log 10). The model's choices: that the body of a note's message is its value and then the work identifier (log 48), and that the
detail of an `xgrid` or `xquery` that fails is 0, since it has no chunks (log 70). -/
def Obligations.EngineEvents : Prop :=
  (∀ (s : State) (id j : Nat) (i : Instr), SMap.find s.cmds id = none →
    i ∈ [Instr.engineChunkComplete id j, .engineCommandComplete id, .engineCommandFail id, .translationStallResolved id,
      .xgridDeclare id, .xqueryAnswer id] → exec i s = .next s) ∧
  (∀ (s : State) (id j : Nat) (c : Command), SMap.find s.cmds id = some c → c.kind.moves = true →
    (s.barHeld c = true → exec (.engineChunkComplete id j) s = .next s) ∧
    (j < chunkCount c.len → c.chunks.contains j = false → s.barHeld c = false →
      let r := s.chunkWork c j
      (r.stop = none → exec (.engineChunkComplete id j) s = .next (r.s.finishChunk id r.c j)) ∧
      (∀ part va, r.stop = some (.stall part va) → part < 16 → s.canMap part va = true →
        exec (.engineChunkComplete id j) s = .next { s with cmds := SMap.put s.cmds id { c with stalled := true } }) ∧
      (r.stop = some .hold → exec (.engineChunkComplete id j) s = .next s) ∧
      (∀ st d page, r.stop = some (.fail st d page) → exec (.engineChunkComplete id j) s = .next s)) ∧
    (c.chunks.length = chunkCount c.len → exec (.engineCommandComplete id) s = .next (s.endCommand id c 1 c.detail))) ∧
  (∀ (s : State) (c : Command) (k b : Nat), s.MemoryOk → s.engineLoc c.ctx .store (c.dst + 32 * k) = .ok b → b % 32 = 0 →
    s.liveLine b = false →
    (∀ src a, c.kind = .copy src → SMap.find c.held k = none → s.engineLoc c.ctx .load (src + 32 * k) = .ok a →
      ∃ (t : State) (d : Command), s.moveSector c k = .ok (t, d) ∧ (∀ j, j < 32 → t.byte (b + j) = s.byte (a + j)) ∧
        t.poisoned b = s.poisoned a ∧ SameBytesBut b 32 s t) ∧
    (∀ p, c.kind = .fill p →
      ∃ (t : State) (d : Command), s.moveSector c k = .ok (t, d) ∧
        (∀ j, j < 32 → t.byte (b + j) = p.extractLsb' (8 * (j % 8)) 8) ∧ t.poisoned b = false ∧ SameBytesBut b 32 s t)) ∧
  (∀ (s : State) (id j : Nat) (c : Command),
    let t := s.finishChunk id c j
    let mark (k : Fin 8) : BitVec 4096 :=
      if k.val = c.mask ∧ k.val ≠ 0 then (s.seqAt c.seq).masks.get k ||| ((1 : BitVec 4096) <<< j)
      else (s.seqAt c.seq).masks.get k
    (c.bar = 0 → t.cmds = SMap.put s.cmds id { c with chunks := c.chunks ++ [j], stalled := false } ∧
      ∀ k : Fin 8, (t.seqAt c.seq).masks.get k = mark k) ∧
    (∀ loc, c.bar ≠ 0 → s.MemoryOk → s.resolve c.ctx .both c.bar = .ok loc → loc % 16 = 0 →
      s.liveLine (loc / 32 * 32) = false →
      s.poisoned loc = false → (s.barAt loc).bad = false →
      t.barAt loc = BarObj.of ((s.barAt loc).deliver (c.chunkBytes j)).pack ∧ SameBytesBut loc 16 s t ∧
      ∀ k : Fin 8, (t.seqAt c.seq).masks.get k = mark k)) ∧
  (∀ (s : State) (id st d : Nat) (c : Command),
    let t := s.endCommand id c st d
    (s.cmds.Rising → SMap.find t.cmds id = none) ∧
    ∀ (q : Nat) (r : Reg), r.val ≠ 0 → SMap.find (s.seqAt q).pend r.val = some (.cmd id) →
      (t.seqAt q).regs.get r = tokenWord st d ∧ ∀ x, x ∈ (t.seqAt q).pend → x.2 ≠ .cmd id) ∧
  (∀ (s : State) (id : Nat) (c : Command), SMap.find s.cmds id = some c →
    (∀ u e st d, s.failing c = some (u, e, st, d) → exec (.engineCommandFail id) s =
      .next (u.endCommand id e st (d.getD (if e.kind.moves then e.failOffset else 0)))) ∧
    (s.failing c = none → exec (.engineCommandFail id) s = .next s) ∧
    (c.stalled = false → exec (.translationStallResolved id) s = .next s) ∧
    (c.stalled = true → ∃ t : State, exec (.translationStallResolved id) s = .next t ∧
      SMap.find t.cmds id = some { c with stalled := false } ∧
      ∀ part va, s.stallPage c = some (part, va) → t.mem = (s.serviceMap part va).mem) ∧
    (∀ v, c.kind = .note v →
      (s.olderNote id c = true → exec (.engineCommandComplete id) s = .next s) ∧
      (s.olderNote id c = false → ∃ t : State, exec (.engineCommandComplete id) s = .next t ∧
        ∃ (m : Msg) (l : List Msg), t.dev.out = s.dev.out ++ m :: l ∧ m.type = 0x50 ∧ m.ep = (s.launchAt c.launch).hdr.ep ∧
          m.tag = (s.launchAt c.launch).hdr.tag ∧ m.body = bytesOf v.toNat 8 ++ bytesOf c.wid.toNat 8)) ∧
    (∀ grid dims loc, c.kind = .gridDecl grid dims → s.engineLoc c.ctx .both grid = .ok loc →
      exec (.xgridDeclare id) s =
        .next ((s.pokeAs (engineParty c.seq) loc 64 (dims.toNat * 2 ^ 64)).endCommand id c 1 0)) ∧
    (∀ grid ans loc v a, c.kind = .query grid ans → s.gridAt c grid = .ok (loc, v) → s.engineLoc c.ctx .hw ans = .ok a →
      let i := dword v 0
      let total := gridTotal (dword v 1)
      let give (u : State) (x d : Nat) : State := (u.storeAnswer c ans a x).1.endCommand id (u.storeAnswer c ans a x).2 1 d
      (gridOk v = false → exec (.xqueryAnswer id) s = .next (s.endCommand id c 7 0)) ∧
      (gridOk v = true → i < total →
        exec (.xqueryAnswer id) s = .next (give (s.pokeAs (engineParty c.seq) loc 8 (i + 1)) (coordinate (dword v 1) i) i)) ∧
      (gridOk v = true → total ≤ i → exec (.xqueryAnswer id) s = .next (give s (2 ^ 64 - 1) total)))) ∧
  (∀ v i : Nat, dimsOk v = true → i < gridTotal v →
    let n (k : Nat) : Nat := v / 65536 ^ k % 65536
    let x (k : Nat) : Nat := coordinate v i / 65536 ^ k % 65536
    x 0 < n 0 ∧ x 1 < n 1 ∧ x 2 < n 2 ∧ coordinate v i < 2 ^ 48 ∧ i = x 0 + n 0 * (x 1 + n 1 * x 2))

/-- Events of the fabric and of collectives (R318, R322, R329, R339, R340, R349, R352). What a frame carries and
where frames travel is the model's choice (log 45); that one member's fault ends the others with status 9 is its deduction (log 46), as
are the location in a CRC entry and the ranges of a notice (log 49). -/
def Obligations.FabricEvents : Prop :=
  (∀ (s : State) (id : Nat) (i : Instr), i ∈ [Instr.collectiveComplete id, .rankUnreachable id] →
    (∀ c p, SMap.find s.cmds id = some c → c.kind ≠ .coll p) → exec i s = .next s) ∧
  (∀ (s : State) (id : Nat) (c : Command) (p : Plan), SMap.find s.cmds id = some c → c.kind = .coll p →
    let part := c.ctx.part
    let all := s.members part p
    exec (.rankUnreachable id) s = .next (s.endMembers part p 9) ∧
    (s.groupOf part p.group = none → exec (.collectiveComplete id) s = .next (s.endMembers part p 8)) ∧
    ∀ g, s.groupOf part p.group = some g →
      let x := s.collHere part p g
      let ready := g.n0 ≤ x.mine.length ∧ (x.local 0).isSome = true ∧ ∀ m ∈ x.mine, s.collHeld m = false
      (mismatched p g all x.fs = true → let t := s.announce x
        exec (.collectiveComplete id) s = .next (if (x.now t).told then t.endMembers part p 8 else t)) ∧
      (mismatched p g all x.fs = false → ¬ ready → exec (.collectiveComplete id) s = .next s) ∧
      (mismatched p g all x.fs = false → ready →
        (∀ t, s.advance x = .ok t → (x.now t).result = none → exec (.collectiveComplete id) s = .next t) ∧
        (∀ t l, s.advance x = .ok t → (x.now t).result = some l →
          exec (.collectiveComplete id) s = .next (t.distribute (x.now t) l)) ∧
        (∀ m e, s.advance x = .error (m, e) → exec (.collectiveComplete id) s = .next (s.failMember x m e)))) ∧
  (∀ (p : Plan) (g : GroupBody) (l : List Member) (fs : List Frame), mismatched p g l fs = false ↔
    (∀ m ∈ l, p.agrees m.2.2 = true) ∧ (l.map (fun m => m.2.2.rank)).Nodup ∧
    ∀ f ∈ fs, f.op = p.op ∧ f.type = p.type ∧ f.count = p.count ∧ f.comp1 = p.comp1 ∧ f.comp2 = p.comp2 ∧ f.seed = p.seed ∧
      f.sizes = (g.n0, g.n1, g.n2) ∧ f.map = g.map) ∧
  (∀ (s : State) (part st : Nat) (p : Plan), s.cmds.Rising →
    (s.endMembers part p st).members part p = [] ∧ (s.endMembers part p st).framesOf part p = []) ∧
  (∀ (l : List (List Elem)) (x : List Elem), l ≠ [] →
    foldVectors (l ++ [x]) = List.zipWith foldStep (foldVectors l) x) ∧
  (∀ (s : State) (x : Coll) (m : Member) (lv : Nat) (l : List (List Elem)), x.local 0 = some m → x.own 0 lv = none →
    (s.reaches x 0 lv = false → s.formLevel x lv (some l) = .ok s) ∧
    ∀ v t, s.reaches x 0 lv = true → s.contribute m lv (foldVectors l) = .ok (v, t) →
      s.formLevel x lv (some l) = .ok (t.form x 0 lv 4 m (wireElems v)) ∧
      (x.dests 0 lv ≠ [] → (t.form x 0 lv 4 m (wireElems v)).dev.sent =
        t.dev.sent ++ [x.plan.frame x.g x.part (x.g.rankAt 0 x.d x.c) lv 4 (wireElems v)])) ∧
  (∀ (x : Coll) (l : List (List (Nat × Bool))),
    (x.hears = true ↔ ∀ y ∈ x.g.peers x.d x.c, ∃ f ∈ x.fs, (x.g.coords f.rank).2 = y) ∧
    (x.told = false ∨ x.hears = false → x.result = none) ∧
    (x.told = true → x.hears = true →
      (x.plan.op = 3 → x.d = 0 → x.c = 0 → x.result = x.own 0 0) ∧
      (x.plan.op = 3 → ¬ (x.d = 0 ∧ x.c = 0) → x.result = (frameFrom x.fs 0 0).map (fun f => f.elems x.plan.width)) ∧
      (x.plan.op = 2 → x.d = 0 → x.c = 0 → x.g.n1 = 1 → x.g.n2 = 1 → l.length = x.g.n0 →
        (∀ k, k < x.g.n0 → x.own k 0 = l[k]?) → x.result = some l.flatten))) ∧
  (∀ (p : Plan) (rank : Nat), p.takes rank = true ↔ p.op ≠ 3 ∨ rank = 0) ∧
  (∀ (s : State) (x : Coll) (m : Member) (l : List Member), x.mine = m :: l →
    let rank := (x.g.coords m.2.2.rank).1
    (x.told = true ∨ s.reaches x rank 3 = false → s.announce x = s) ∧
    (x.told = false → s.reaches x rank 3 = true → s.announce x = s.form x rank 3 4 m [] ∧
      (x.g.peers x.d x.c ≠ [] → (s.announce x).dev.sent =
        s.dev.sent ++ [x.plan.frame x.g x.part (x.g.rankAt rank x.d x.c) 3 4 []]))) ∧
  (∀ (s : State) (port : Nat) (f : Frame) (p : Port), SMap.find s.dev.ports port = some p →
    let kept := s.dev.frames.any (fun x =>
      x.part == f.part && x.group == f.group && x.ident == f.ident && x.rank == f.rank && x.level == f.level)
    let takes := f.authentic = true ∧ levelFits f.level p.role = true ∧ p.key ≠ none ∧ s.dev.running = .up ∧ kept = false
    (takes → ∃ t, exec (.fabricFrameReceive port f) s = .next t ∧ t.dev.frames = s.dev.frames ++ [f] ∧ t.mem = s.mem ∧
      t.seqs = s.seqs) ∧
    (¬ takes → exec (.fabricFrameReceive port f) s = .next s) ∧
    (p.next = [] → exec (.keySwitch port) s = .next s) ∧
    (∀ k l, p.next = k :: l → ∃ t, exec (.keySwitch port) s = .next t ∧ t.mem = s.mem ∧ t.seqs = s.seqs ∧
      SMap.find t.dev.ports port = some ⟨p.role, some k, l, 0⟩)) ∧
  (∀ (s : State) (x : Coll) (l lv : Nat), s.reaches x l lv = true ↔
    ((∃ y ∈ x.dests l lv, y.2 = x.c) → s.canSend 1 = true) ∧ ((∃ y ∈ x.dests l lv, y.2 ≠ x.c) → s.canSend 2 = true)) ∧
  (∀ (s : State) (role : Nat), (s.canSend role = true ↔ ∃ y ∈ s.dev.ports, y.2.role = role ∧
    (y.2.next ≠ [] ∧ 2 ^ 63 ≤ y.2.pn + 1 ∨ y.2.key ≠ none ∧ y.2.pn < 2 ^ 63))) ∧
  (∀ (s : State) (port : Nat) (f : Frame), SMap.find s.dev.ports port = none →
    exec (.fabricFrameReceive port f) s = .next s ∧ exec (.keySwitch port) s = .next s) ∧
  (∀ level role : Nat, levelFits level role = true ↔ role = 1 ∨ role = 2 ∧ level ≠ 1) ∧
  (∀ (s : State) (port link lane : Nat) (device ident : Word) (ranges : List (Nat × Nat)) (x : Transfer) (crc : BitVec 32),
    (∃ t, exec (.poisonNotice port device ⟨ident, ranges⟩) s = .next t ∧
      let n : Notice := ⟨Config.deviceId, device, ident, ranges⟩
      t.dev.notices = s.dev.notices ++ [n] ∧ t.dev.reports = s.dev.reports ++ [(false, .poison n)] ∧
      t.mem = s.mem ∧ t.seqs = s.seqs ∧ ∃ e, t.dev.log.getLast? = some e ∧ e.kind = 6 ∧ e.d1 = device ∧ e.d2 = ident) ∧
    (∃ t, exec (.linkLaneRetrain link lane) s = .next t ∧ SameMachine s t ∧ t.seqs = s.seqs ∧
      ∃ e, t.dev.log.getLast? = some e ∧ e.kind = 8 ∧ e.num = link ∧ e.d1 = BitVec.ofNat 64 lane) ∧
    (crc = x.crc → ∃ t, exec (.crcFailure x crc) s = .next t ∧ t.crcFailures x = 0 ∧ t.mem = s.mem ∧ t.seqs = s.seqs ∧
      t.dev.log = s.dev.log) ∧
    (crc ≠ x.crc → ∃ t, exec (.crcFailure x crc) s = .next t ∧ t.mem.cells = s.mem.cells ∧ t.seqs = s.seqs ∧
      (s.crcFailures x < 3 → t.crcFailures x = s.crcFailures x + 1 ∧ t.mem = s.mem) ∧
      (3 ≤ s.crcFailures x → t.crcFailures x = 0 ∧ t.poisoned x.pa = true) ∧
      ∃ e, t.dev.log.getLast? = some e ∧ e.kind = 7 ∧ e.d1 = BitVec.ofNat 64 x.pa))

/-- Events of the queues and cores (R184, R190 to R192, R196, R290, R291, R297, R299 to R305). That an escalation drops a `zcswap`
which has not swapped is the model's choice (log 50), as are what becomes of the accesses and saved contexts of a core that leaves
(logs 9 and 51), a save area that finds no room, that the context of an ordinary tenant goes back to its own upper (log 57), where a
queue's ring stands and what goes into it (log 14), and that the result of a double-faulted record's end is 0 (log 78). -/
def Obligations.CoreEvents : Prop :=
  (∀ s : State, (∀ e, e ∈ s.queue → e.entered ≤ s.clock) → ∃ t, exec .aging s = .next t ∧ t.clock = s.clock ∧
    (∀ e, e ∈ t.queue → e.overdue = false → s.clock < e.age + t.theta e) ∧
    ((∀ e, e ∈ s.queue → e.ring = none) → s.queue.length ≤ 64 →
      t.seqs = s.seqs ∧ t.mem = s.mem ∧ t.queue.length = s.queue.length)) ∧
  (∀ (s : State) (e : QEntry),
    (s.ringSlot e = none → s.putLast e = { s with queue := s.queue ++ [{ e with ring := none }] }) ∧
    ∀ va, s.ringSlot e = some va →
      (∀ m, s.hwLoc e.work.part va 32 = .error m →
        s.putLast e = s.logHw (s.placeUpper e.work e.place) e.work.part m va) ∧
      (∀ loc, s.MemoryOk → s.hwLoc e.work.part va 32 = .ok loc →
        (s.putLast e).queue = s.queue ++ [{ e with ring := some va }] ∧ SameBytesBut loc 32 s (s.putLast e))) ∧
  (∀ (s : State) (q : Nat),
    let a := s.ageAll
    ((s.seqAt q).mode ≠ .idle → exec (.pop q) s = .next a) ∧
    ((s.seqAt q).mode = .idle → a.popChoice (upperOf q) = none → exec (.pop q) s = .next a) ∧
    ∀ e, (s.seqAt q).mode = .idle → a.popChoice (upperOf q) = some e →
      (∀ r, a.rival q e = some r → r < q ∧ (a.seqAt r).mode = .idle ∧ a.popChoice (upperOf r) = some e ∧
        exec (.pop q) s = .next ((a.popBy r e).popFor q (4 * a.leaders.length))) ∧
      (a.rival q e = none → exec (.pop q) s = .next (a.popBy q e))) ∧
  (∀ (s : State) (q : Nat) (e : QEntry),
    let t := s.popBy q e
    let m := t.seqAt q
    t.cur = s.cur ∧ t.queue = s.queue.erase e ∧
    (∀ x va, s.ringFault e = some (x, va) →
      t = ({ s with queue := s.queue.erase e } : State).logHw (upperOf q) e.work.part x va) ∧
    (s.ringFault e = none → e.saved = none → e.work.resume = none → e.work.code.toNat < 2 ^ 57 → e.work.code.toNat % 4 = 0 →
      m.mode = .running ∧ m.pc = e.work.code.setWidth 57 ∧ m.sreg 1 = e.work.frame ∧ m.sreg 2 = e.work.wid ∧
      m.sreg 3 = e.work.join ∧ (∀ r : Reg, 4 ≤ r.val → m.sreg r = 0) ∧ m.work = some e.work ∧ m.level = e.level ∧
      m.strip = none ∧ m.loops.depth = 0 ∧ m.ctl.status = 0) ∧
    (∀ n, s.ringFault e = none → e.saved = some n →
      ((∃ k, n.mode = .stopped k) → s.workCancelled n = false → m.mode = .running) ∧
      m.pc = n.pc ∧ m.regs = n.regs ∧ m.vregs = n.vregs ∧ m.masks = n.masks ∧ m.loops = n.loops ∧ m.ctl = n.ctl ∧
      m.dist = n.dist ∧ m.strip.map (fun x => { x with buf := [] }) = n.strip.map (fun x => { x with buf := [] }))) ∧
  (∀ (s : State) (u : Nat) (q : List QEntry) (e : QEntry), s.popOrdinary u q 3 = some e →
    let here := q.filter (fun x => s.effective x == s.effective e && ringDistance u x.place == ringDistance u e.place)
    e ∈ q ∧ ((∃ x ∈ q, x.overdue = true ∧ x.level ≤ 3) → e.overdue = true) ∧
    ((∀ x ∈ q, x.overdue = false) →
      (∀ x ∈ q, s.effective x ≤ 3 → s.effective x ≤ s.effective e ∧
        (s.effective x = s.effective e → ringDistance u e.place ≤ ringDistance u x.place)) ∧
      here.find? (·.level == e.level) = some e ∧ (fronts here).find? (·.age == e.age) = some e ∧ ∀ lv x, lv ≤ 3 → here.find? (·.level == lv) = some x → e.age ≤ x.age)) ∧
  (∀ (s : State) (u p : Nat) (c : CoreOf), s.coreAt u = some (p, c) →
    let a := s.ageAll
    (∀ k, a.nextTenant p u c.width = some k → (s.upperAt u).preempt = none →
      (s.upperAt u).since + Config.clocks100us ≤ s.clock →
      exec (.timeSliceQuantum u) s = .next (a.askStop u .timeSlice)) ∧
    (a.nextTenant p u c.width = none ∨ s.clock < (s.upperAt u).since + Config.clocks100us ∨
      (s.upperAt u).preempt.isSome = true → exec (.timeSliceQuantum u) s = .next a) ∧
    (∀ k, a.nextTenant p u c.width = some k → a.switchReady p u c.width = true →
      ∃ t, exec (.tenantSwitch u) s = .next t ∧ (t.upperAt u).tenant = k ∧ (t.upperAt u).preempt = none ∧
        (t.upperAt u).since = s.clock ∧ ∀ x, x ∈ seqsOf u → (t.seqAt x).work = none) ∧
    (∀ why, why ≠ .resize → exec (.preemptionRequest u why) s = .next (s.askStop u why)) ∧
    (let w : State := { s with dev := { s.dev with changes := s.dev.changes ++ [.removal u] } }
     exec (.preemptionRequest u .resize) s = .next (w.removalStep u)) ∧
    ((∀ l, s.dev.changes ≠ .removal u :: l) → s.removalStep u = s) ∧
    (∀ l, s.dev.changes = .removal u :: l →
      ((s.upperAt u).preempt.map (·.1) = some .resize → s.removalStep u = s) ∧
      ((s.upperAt u).preempt.map (·.1) ≠ some .resize → (s.removalStep u).dev = s.dev ∧ (s.removalStep u).seqs = s.seqs ∧
        ((s.removalStep u).upperAt u).preempt = some (.resize, ((s.upperAt u).preempt.map (·.2)).getD s.clock))) ∧
    (∀ why, (s.upperAt u).preempt = none → ((s.askStop u why).upperAt u).preempt = some (why, s.clock)) ∧
    (∀ why x, (s.upperAt u).preempt = some x → s.askStop u why = s) ∧
    (∀ why x, (s.upperAt u).preempt = some (why, x) → why ≠ .timeSlice → s.allStill u = true →
      let a := s.endStoppedAll u
      (why = .resize → exec (.contextSave u) s =
        .next ((if a.savedCore u then a else (a.keepContext p c why).2).leaveCore p u c.width)) ∧
      (why ≠ .resize → a.savedCore u = true ∨ (a.keepContext p c why).1 = none → exec (.contextSave u) s = .next a) ∧
      (∀ area v, why ≠ .resize → a.savedCore u = false → a.keepContext p c why = (some area, v) →
        ∃ (id : Nat) (y : Saved) (t : State), exec (.contextSave u) s = .next t ∧ SMap.find t.saves id = some y ∧
          y.upper = u ∧ y.part = p ∧ y.gang = c.width ∧ y.purpose = why ∧ y.seqs = (seqsOf u).map v.seqAt ∧
          y.area = some area ∧ y.since = (v.upperAt u).since ∧ t.mem = v.mem ∧
          ∀ x, x ∈ seqsOf u → (t.seqAt x).mode = .idle ∧ (t.seqAt x).work = none)) ∧
    (s.allStill u = false → exec (.contextSave u) s = .next s) ∧
    (∀ (k : Nat) (x : Saved), SMap.find s.saves k = some x → s.saves.Rising → x.core = true → x.part = p →
      x.gang = c.width → s.allIdle u = true → (x.purpose == .rebinding && s.dev.rebinding) = false →
      x.fits u = true → (∀ l d, x.tenant = .logical l d → (SMap.find s.launches l).isSome = true) →
      ∃ t, exec (.contextRestore u k) s = .next t ∧ SMap.find t.saves k = none ∧ (t.upperAt u).preempt = none ∧
        (t.upperAt u).tenant = x.tenant ∧ (t.upperAt u).active = x.active ∧ (t.upperAt u).gen = x.gen ∧
        (t.upperAt u).since = x.since ∧
        ∀ i m, x.seqs[i]? = some m → m.work.isSome = true →
          let n := t.seqAt (4 * u + i)
          n.pc = m.pc ∧ n.regs = m.regs ∧ n.vregs = m.vregs ∧ n.ctl = m.ctl ∧ n.work = m.work ∧ n.dist = m.dist ∧
          n.resv = none ∧ n.strip.map (fun y => { y with buf := [], ck := { y.ck with pend := [] } }) =
            m.strip.map (fun y => { y with buf := [], ck := { y.ck with pend := [] } })) ∧
    (∀ (k : Nat) (x : Saved), SMap.find s.saves k = some x →
      (x.fits u = true ↔ x.tenant ≠ .ordinary ∨ x.upper = u) ∧ (x.fits u = false → exec (.contextRestore u k) s = .next s))) ∧
  (∀ (s : State) (u q x : Nat) (why : Purpose), (s.upperAt u).preempt = some (why, x) → q ∈ seqsOf u →
    (s.clock < x + Config.clocks100us → exec (.preemptEscalation u) s = .next s) ∧
    (x + Config.clocks100us ≤ s.clock → ∃ t, exec (.preemptEscalation u) s = .next t ∧ t.mem = s.mem ∧
      (t.seqAt q).pc = (s.seqAt q).pc ∧ (t.seqAt q).regs = (s.seqAt q).regs ∧
      (((s.seqAt q).mode = .running ∧ s.swapping q = false ∨ ∃ w, (s.seqAt q).mode = .barw w) → (s.seqAt q).window = false →
        (t.seqAt q).mode = .stopped 3 ∧ (t.seqAt q).resv = none) ∧
      ((s.seqAt q).mode = .running → (s.seqAt q).window = true ∨ s.swapping q = true → t.seqAt q = s.seqAt q))) ∧
  (∀ (s : State) (q : Nat) (i : Instr) (bad : Mode) (cause : Nat) (u : State),
    (i, bad, cause, u) ∈ [(Instr.haltedRecordEnd q, Machine.Mode.halted, 0xF01, s),
      (.doubleFaultRecovery q, .doubleFault, 0xF00, s.logDouble q)] →
    ((s.seqAt q).mode ≠ bad → exec i s = .next s) ∧
    ((s.seqAt q).mode = bad → u.endWaits q = true → exec i s = .next u) ∧
    ((s.seqAt q).mode = bad → u.endWaits q = false → exec i s = .next (u.endRecord q cause 0) ∧
      (∀ r, (u.seqAt q).work = some r → r.node = none → r.join = 0 →
        ((u.endRecord q cause 0).seqAt q).mode = .idle ∧ ((u.endRecord q cause 0).seqAt q).work = none)))

/-- Sessions (R339, R342, R344, R345, R347, R354, R355). That a reply longer than 1 MiB is status 3 is the model's choice (log 18), and so
is which status comes first where several apply (log 54). What each request does is `HostRequests` and `ManagementAndPower`. -/
def Obligations.SessionOrder : Prop :=
  (∀ (s : State) (i : Instr) (h : Hdr) (r : Req), requestOf i = some (h, r) →
    let reply (status : Nat) : Msg := replyTo h (reqType r) status []
    let u := s.arrived h r
    (s.receives h = false → exec i s = .next s) ∧
    (s.receives h = true →
      (r = .openSession →
        (∀ st, headerStatus h r = some st → exec i s = .next (s.post (reply st))) ∧
        (headerStatus h r = none → s.session h = none → s.sessions h = true → h.seq = 0 → h.len = 0 →
          (s.dev.sessions.filter (fun x => x.mgmt == h.mgmt)).length < 256 →
          ∃ t, exec i s = .next t ∧ t.dev.out = s.dev.out ++ [reply 0] ∧ t.mem = s.mem ∧ t.seqs = s.seqs ∧
            t.session h = some ⟨h.mgmt, h.ep, h.sess, 1, [], [(0, reply 0)], none⟩) ∧
        (headerStatus h r = none → (s.session h).isSome = true ∨ s.sessions h = false →
          exec i s = .next (s.post (reply 5)))) ∧
      (r ≠ .openSession →
        (s.session h = none → exec i s = .next (u.post (reply 5))) ∧
        ∀ x, s.session h = some x →
          (h.seq.toNat < x.next →
            (∀ k m, x.kept.find? (fun k => k.1 == h.seq.toNat) = some (k, m) → exec i s = .next (u.post m)) ∧
            (x.kept.find? (fun k => k.1 == h.seq.toNat) = none → exec i s = .next (u.post (reply 5)))) ∧
          (x.next < h.seq.toNat →
            let beyond := x.held.filter (fun y => missingFrom x.next x.held < y.num)
            let much := missingFrom x.next x.held < h.seq.toNat ∧ (64 ≤ beyond.length ∨
              16777216 < beyond.foldl (fun k y => k + y.hdr.len) h.len)
            let held := heldInsert x.held ⟨h.seq.toNat, h, r, s.clock, none⟩
            (much → exec i s = .next (u.post (reply 4))) ∧
            (¬ much → (∀ y, y ∈ x.held → x.next < y.num) → exec i s = .next (u.setSession { x with
              held := held
              gapSince := leastOf ((held.filter (fun y => missingFrom x.next held < y.num)).map (·.since)) }))) ∧
          (h.seq.toNat = x.next → x.held = [] →
            (r = .closeSession → s.closes h = true → ∃ t, exec i s = .next t ∧ t.session h = none ∧ t.dev.out = s.dev.out ++ [reply 0] ∧
              t.mem = s.mem ∧ t.seqs = s.seqs) ∧
            (r ≠ .closeSession ∨ s.closes h = false → ∀ v : State, v.dev.sessions = (s.serving h r x).dev.sessions →
              (∀ st body, (s.serving h r x).serve h r none = .reply st body v → exec i s = .next
                ((v.post (replyTo h (reqType r) st body)).answered h x.next (replyTo h (reqType r) st body))) ∧
              (∀ m, (s.serving h r x).serve h r none = .sent m v → exec i s = .next (v.answered h x.next m)) ∧
              (∀ turn, (s.serving h r x).serve h r none = .later turn v →
                exec i s = .next (v.setSession { x with held := [⟨x.next, h, r, s.clock, turn⟩], gapSince := none }))))))) ∧
  (∀ (s : State) (h : Hdr), s.dev.running = .off → s.receives h = false) ∧
  (∀ (s : State) (h : Hdr), s.dev.running = .up → (s.receives h = true ↔
    h.mgmt = true ∨ h.port < 16 ∧ ((SMap.find s.dev.ports h.port).getD Port.initial).role = 0)) ∧
  (∀ (s : State) (h : Hdr) (r : Req) turn,
    (h.version ≠ 1 → s.serve h r turn = .reply 2 [] s) ∧
    (h.version = 1 → h.zeros = false ∨ bodyLimit < h.len → s.serve h r turn = .reply 3 [] s) ∧
    ∀ st body v, s.serve h r turn = .reply st body v → body.length ≤ 1048576) ∧
  (∀ (n : Nat) (l : List Held), l.Pairwise (fun x y => x.num < y.num) → (∀ y ∈ l, n ≤ y.num) →
    n ≤ missingFrom n l ∧ (∀ k, n ≤ k → k < missingFrom n l → ∃ y ∈ l, y.num = k) ∧ ∀ y ∈ l, y.num ≠ missingFrom n l) ∧
  (∀ (s : State) (h : Hdr) (x : Session) (m : Msg) (r : Held), s.session h = some x → x.held = [r] → r.num = x.next →
    ∃ y, (s.answered h x.next m).session h = some y ∧ y.next = x.next + 1 ∧ y.held = [] ∧ y.gapSince = none ∧
      y.kept.length ≤ 64 ∧ y.kept.getLast? = some (x.next, m)) ∧
  (∀ (s : State) (mgmt : Bool) (ep : Nat) (sess : BitVec 16),
    let h : Hdr := ⟨mgmt, ep, sess, 0, 0, 0, 0, 1, true, 0⟩
    (∀ x t, s.session h = some x → x.gapSince = some t → t + Config.clocks10s ≤ s.clock →
      ∃ v, exec (.sessionGapTimeout mgmt ep sess) s = .next v ∧ v.session h = none ∧ v.mem = s.mem ∧ v.seqs = s.seqs ∧
        v.dev.out = s.dev.out ++ x.held.map (fun r => replyTo r.hdr (reqType r.req) 5 [])) ∧
    ((∀ x t, s.session h = some x → x.gapSince = some t → s.clock < t + Config.clocks10s) →
      exec (.sessionGapTimeout mgmt ep sess) s = .next s))

/-- The requests of the host port (R180, R181, R251, R338, R339, R341 to R346, R348, R362, R364). Which cores, pages and key
slots the service takes is its own choice (log 10). The model's choices: that the token must be one the program could write, and that a launch whose walk is held waits (log 66);
that the first of two link keys is in use at once and the second after it (log 18); that a cancel is answered at once (log 54); that logical cores begin with copies
of the soles that the remap table names is its deduction (log 43). -/
def Obligations.HostRequests : Prop :=
  ∀ (s : State) (h : Hdr) (x : Session), s.InTurn h x false →
    let n := h.part.val
    let sameCode (v : State) : Prop := v.mem = s.mem ∧ v.seqs = s.seqs
    (s.Replies (.unknownRequestType h) h x 2 [] sameCode) ∧
    (∀ b body v, (s.serving h (.createPartition b) x).actCreate b = .reply 0 body v →
      ∃ key q, s.freeKey = some key ∧ SMap.find v.parts b.number = some q ∧ q.cores.length = b.uppers / b.gang ∧
        (∀ (i : Nat) (c : CoreOf), q.cores[i]? = some c → c.width = b.gang ∧ c.slot = i) ∧
        q.ptab = none ∧ q.handler = none ∧ q.tolerance = 1000 ∧ SMap.find v.dev.keys key = some ⟨b.number, 0, 0⟩ ∧
        s.Replies (.createPartition h b) h x 0 body (fun u => u = v)) ∧
    (∀ k, s.parts.Rising → (SMap.find s.parts k).isSome = true → (∀ y, y ∈ s.launches → y.2.part ≠ k) →
      s.dev.changes = [] →
      s.Replies (.destroyPartition h k) h x 0 [] (fun v => SMap.find v.parts k = none ∧
        (∀ e, e ∈ v.queue → e.work.part ≠ k) ∧ (∀ e, e ∈ v.yields → e.work.part ≠ k) ∧
        (∀ e, e ∈ v.saves → e.2.part ≠ k) ∧ (∀ e, e ∈ v.dev.keys → e.2.part ≠ k) ∧ ∀ e, e ∈ v.mem.tlb → e.1 ≠ k)) ∧
    (∀ k d q, SMap.find s.parts k = some q → d ≠ 0 →
      let id := s.uid + 1
      let i : Instr := .resize h k d
      let v := (s.serving h (.resize k d) x).fresh.2
      let w : State := { v with dev := { v.dev with changes := s.dev.changes ++ [.resize id] } }
      let uppers (y : Partition) : Nat := (y.cores.map (·.width)).foldl (· + ·) 0
      let waits (turn : Option (List Nat)) (t : State) : Prop := exec i s = .next t ∧ t.dev.out = s.dev.out ∧
        t.dev.changes = s.dev.changes ++ [.resize id] ∧
        ∃ y, t.session h = some y ∧ y.held = [⟨x.next, h, .resize k d, s.clock, some (id, turn)⟩]
      (s.dev.resizing id = false → s.dev.changes ≠ [] → ∃ t, waits none t) ∧
      (s.dev.changes = [] → 0 < d →
        ((q.nextSlots d.toNat).any (w.slotBusy k) = true → ∃ t, waits none t) ∧
        (∀ t, (q.nextSlots d.toNat).any (w.slotBusy k) = false → w.addUppers k q.width d.toNat = some t →
          s.Replies i h x 0 [] (fun v => v = t.dropChange ∧ ∃ z, SMap.find v.parts k = some z ∧
            uppers z = uppers q + d.toNat))) ∧
      (∀ us, s.dev.changes = [] → d < 0 → lastCores q.cores.reverse d.natAbs = some us →
        ∃ t, waits (some us) t ∧ ∀ u, u ∈ us → (s.coreAt u).isSome = true → (t.upperAt u).preempt.isSome = true)) ∧
    (∀ j k1 k2, j < 16 →
      s.Replies (.installKey h (0xFFFF + j) k1 k2) h x 0 [] (fun v => sameCode v ∧
        let q := (SMap.find s.dev.ports j).getD Port.initial
        SMap.find v.dev.ports j = some (if q.key = none then ⟨q.role, some k1, q.next ++ [k2], 0⟩
          else ⟨q.role, q.key, q.next ++ [k1, k2], q.pn⟩))) ∧
    (∀ port role, port < 16 → role < 4 →
      (((SMap.find s.dev.ports port).getD Port.initial).role = role ∨
        s.roleBusy ((SMap.find s.dev.ports port).getD Port.initial).role = false) →
      s.Replies (.configurePort h port role) h x 0 [] (fun v => sameCode v ∧
        SMap.find v.dev.ports port = some { (SMap.find s.dev.ports port).getD Port.initial with role := role })) ∧
    (∀ off len d, s.dev.dump = some d → off + len ≤ d.length → len ≤ bodyLimit →
      s.Replies (.fetchDump h off len) h x 0 ((List.range len).map (fun k => d.byte (off + k))) sameCode) ∧
    (∀ q count, q < Config.allUppers * Config.seqsPerUpper → count ≤ 16384 →
      s.Replies (.readTrapLog h q count) h x 0
        (((s.seqAt q).ring.drop ((s.seqAt q).ring.length - count)).flatMap TrapRec.bytes) sameCode) ∧
    ∀ p, SMap.find s.parts n = some p →
      (∀ slot k1 k2, slot < 512 → SMap.find s.dev.keys slot = none →
        s.Replies (.installKey h slot k1 k2) h x 0 [] (fun v => sameCode v ∧
          SMap.find v.dev.keys slot = some ⟨n, k1, k2⟩)) ∧
      (∀ slot k, slot < 512 → s.dev.keys.Rising → SMap.find s.dev.keys slot = some k → k.part = n →
        p.usesKey slot = false →
        s.Replies (.releaseKey h slot) h x 0 [] (fun v => sameCode v ∧ SMap.find v.dev.keys slot = none)) ∧
      (∀ a, a.toNat < 2 ^ 57 → a.toNat % 64 = 0 → s.resident n = false →
        s.Replies (.setPatternTable h a) h x 0 [] (fun v => sameCode v ∧
          SMap.find v.parts n = some { p with ptab := some a })) ∧
      (∀ a, a.toNat < 2 ^ 57 → a.toNat % 4 = 0 → s.resident n = false →
        s.Replies (.setHandler h a) h x 0 [] (fun v => sameCode v ∧
          SMap.find v.parts n = some { p with handler := if a = 0 then none else some a })) ∧
      (∀ b pa u, s.MemoryOk → (b.data.map List.length).getD 0 ≤ h.len → mapOk b p s.dev.keys n = true →
        (s.serving h (.map b) x).mapRange n ⟨b.addr, b.size, pageLevel b.page, b.key, permBits b.r b.w b.x b.u, false⟩ =
          some (pa, u) →
        s.Replies (.map h b) h x 0 [] (fun v =>
          (∀ (j : Nat) (y : Byte), (b.data.getD [])[j]? = some y → v.byte (pa + j) = y) ∧
          ∃ q, SMap.find v.parts n = some q ∧ ∃ r, r ∈ q.maps ∧ r.va = b.addr ∧ r.size = b.size ∧ r.key = b.key)) ∧
      (∀ a len, len ≠ 0 → (∃ r, r ∈ p.maps ∧ meets r.va r.size a len = true) →
        (∀ r, r ∈ p.maps → meets r.va r.size a len = true → r.service = false ∧ max r.va a % levelPage r.page = 0 ∧
          min (r.va + r.size) (a + len) % levelPage r.page = 0) →
        s.Replies (.unmap h a len) h x 0 [] (fun v => ∃ q, SMap.find v.parts n = some q ∧
          ∀ r, r ∈ q.maps → meets r.va r.size a len = false)) ∧
      (∀ a l v, l.length ≤ h.len → s.spanHeld n a l.length = false → (s.serving h (.copy a l.length (some l)) x).copyIn n a l = (v, true) →
        s.Replies (.copy h a l.length (some l)) h x 0 [] (fun u => u = v)) ∧
      (∀ (a : Nat) (l : List Byte) (loc : Nat), s.MemoryOk → l ≠ [] → s.resolve (serviceCtx n) .hw a = .ok loc →
        loc % 32 = a % 32 → s.liveLine (loc / 32 * 32) = false →
        let w := 32 - a % 32
        ∃ t, s.copyIn n a l = t.copyIn n (a + w) (l.drop w) ∧ (∀ (j : Nat) (b : Byte), j < w → l[j]? = some b → t.byte (loc + j) = b) ∧
          SameBytesBut loc (min w l.length) s t ∧ (32 ≤ l.length → w = 32 → t.poisoned loc = false)) ∧
      (∀ a len l, s.spanHeld n a len = false → len ≤ bodyLimit → (s.serving h (.copy a len none) x).copyOut n a len = .ok l →
        s.Replies (.copy h a len none) h x 0 l sameCode ∧ l.length = len ∧
        ∀ j, j < len → ∃ loc, s.resolve (serviceCtx n) .hw (a + j) = .ok loc ∧ l[j]? = some (s.byte loc)) ∧
      (∀ (a : Word) (at_ : Nat), p.ptab.isSome = true → s.heldAt (serviceCtx n) a.toNat = false →
        s.slotLoc n a.toNat 64 = .ok at_ → s.anyMarked at_ 64 = false →
        let v := cellsNat s.mem.cells at_ 64
        tokenOk (dword v 4) = true → s.heldAt (serviceCtx n) (dword v 4) = false →
        (∃ loc, s.resolve ⟨n, false, 0, 0, none⟩ .store (dword v 4) = .ok loc) →
        (∀ off, headerFault v = some off →
          s.Replies (.launch h a) h x 3 [] (fun u =>
            u = (s.serving h (.launch a) x).putToken 0 n (dword v 4) (tokenWord 2 off))) ∧
        (headerFault v = none →
          let w := s.serving h (.launch a) x
          let m := replyTo h 0x20 1 []
          let t := (w.fresh.2.putToken 0 n (dword v 4) 0).post m
          let l := t.fitLaunch p n (dword v 6) (launchOfHeader v n h)
          let u : State := ({ t with launches := SMap.put t.launches w.fresh.1 l } : State).startImages w.fresh.1 l.remap
          let root := u.applyRoot p w.fresh.1 n (dword v 0 / 65536 % 4096) 4098
          (∀ z, root = some z → exec (.launch h a) s = .next ((z.answered h x.next m).drain h 1)) ∧
          (root = none → exec (.launch h a) s =
            .next (w.setSession { x with held := [⟨x.next, h, .launch a, s.clock, none⟩], gapSince := none })))) ∧
      (∀ (tok : Word) k l, s.launches.find? (fun y => y.2.part == n && y.2.token == tok.toNat) = some (k, l) →
        let m := replyTo h 0x21 0 []
        exec (.cancel h tok) s = .next (((((s.serving h (.cancel tok) x).cancelLaunch k).post m).answered h x.next m).drain
          h 1)) ∧
      (∀ (a v : Word) loc, s.MemoryOk → a.toNat % 8 = 0 → s.heldAt (serviceCtx n) a.toNat = false → s.resolve (serviceCtx n) .store a.toNat = .ok loc → loc % 8 = 0 →
        s.liveLine (loc / 32 * 32) = false →
        s.Replies (.signal h a v) h x 0 [] (fun t => cellsNat t.mem.cells loc 8 = v.toNat ∧ SameBytesBut loc 8 s t)) ∧
      (∀ ns, s.Replies (.latencyTolerance h ns) h x 0 [] (fun v => sameCode v ∧
        SMap.find v.parts n = some { p with tolerance := ns.toNat })) ∧
      (∀ g : GroupBody, g.num < 64 → 1 ≤ g.n0 → g.n0 ≤ 65535 → 1 ≤ g.n1 → g.n1 ≤ 65535 → 1 ≤ g.n2 → g.n2 ≤ 65535 →
        g.map.length = g.size → (∀ y, y ∈ g.map → y.1 < 1024) → s.groupBusy n g.num = false →
        s.Replies (.registerGroup h g) h x 0 [] (fun v => sameCode v ∧ v.groupOf n g.num = some g)) ∧
      (∀ (t : State) (k : Nat), (∀ y, t.session h = some y → y.held = []) → t.drain h k = t)

/-- The management port and what the cobbler does (R313, R333, R337, R354 to R363). The model's choices: that a service image which
does not verify keeps the device off its host ports (log 68); that a chain chosen for a rebind is kept while it stands and chosen anew
when it does not (log 4), and that the checking positions of a bound pair start anew (log 17); what a reset keeps and loses, memory (log 3), keys and roles of ports
(log 18), records of the cobbler (log 55), the clock (log 11). -/
def Obligations.ManagementAndPower : Prop :=
  (∀ (s : State) (h : Hdr) (x : Session), s.InTurn h x true →
    let sameCode (v : State) : Prop := v.mem = s.mem ∧ v.seqs = s.seqs
    let f := s.dev.flash
    (∀ nonce, (s.attestation nonce).length ≤ bodyLimit → s.Replies (.attest h nonce) h x 0 (s.attestation nonce) sameCode) ∧
    (∀ off piece, piece.length ≤ h.len → f.pending = false → f.active < 2 →
      s.Replies (.writeImage h off piece) h x 0 [] (fun v => sameCode v ∧ v.dev.flash.active = f.active ∧
        v.dev.flash.image f.active = f.image f.active ∧
        v.dev.flash.image (1 - f.active) = patch (f.image (1 - f.active)) off piece)) ∧
    (f.slotOk (1 - f.active) = true →
      s.Replies (.activateImage h) h x 0 [] (fun v => sameCode v ∧ v.dev.flash = { f with pending := true, tries := 0 } ∧
        v.dev.meas = s.dev.meas.set 4 (extendMeas (s.dev.meas.get 4) (f.image (1 - f.active))))) ∧
    (f.slotOk (1 - f.active) = false → s.Replies (.activateImage h) h x 3 [] (fun v => sameCode v ∧ v.dev.flash = f)) ∧
    (s.sensorBytes.length ≤ bodyLimit → s.Replies (.readSensors h) h x 0 s.sensorBytes sameCode) ∧
    (∀ first count, first + count ≤ s.dev.log.length → count ≤ 32768 →
      s.Replies (.readErrorLog h first count) h x 0 (((s.dev.log.drop first).take count).flatMap LogEntry.bytes) sameCode) ∧
    (∀ off len d, s.dev.dump = some d → off + len ≤ d.length → len ≤ bodyLimit →
      s.Replies (.mgmtFetchDump h off len) h x 0 ((List.range len).map (fun k => d.byte (off + k))) sameCode) ∧
    (∃ t, exec (.resetDevice h) s = .next t ∧ t.dev.out = s.dev.out ++ [replyTo h 0x66 0 []] ∧ t.seqs = [] ∧ t.parts = [] ∧
      t.queue = [] ∧ t.cmds = [] ∧ t.launches = [] ∧ t.dev.sessions = [] ∧ t.clock = s.clock ∧ t.dev.log = s.dev.log ∧
      t.dev.dump = s.dev.dump ∧ t.dev.meas.get 4 = s.dev.meas.get 4 ∧
      (∀ k, SMap.find t.dev.ports k = (SMap.find s.dev.ports k).map (fun y => ⟨y.role, none, [], 0⟩)) ∧
      ∀ a, t.byte a = if Config.tierTwo ≤ a ∧ a < Config.physEnd then s.byte a else 0) ∧
    (s.parts = [] → ∃ t, exec (.powerOff h) s = .next t ∧ t.dev.out = s.dev.out ++ [replyTo h 0x67 0 []] ∧
      t.dev.running = .off ∧ t.dev.flash = f ∧ t.dev.dump = none ∧ t.seqs = [] ∧ ∀ a, t.byte a = 0) ∧
    (s.parts ≠ [] → s.Replies (.powerOff h) h x 5 [] sameCode)) ∧
  (∀ (s : State) (nonce : BitVec 256), ((s.reportBytes nonce).drop 32).take 32 = bytesOf nonce.toNat 32) ∧
  (∀ s : State,
    (s.dev.running = .off ∨ s.dev.running = .unbooted → exec .powerUp s = .next (s.bare.boot 0)) ∧
    (s.dev.running = .up ∨ s.dev.running = .fatal → exec .powerUp s = .next s) ∧
    (∀ writing, ∃ t, exec (.powerLoss writing) s = .next t ∧ t.dev.running = .off ∧ t.seqs = [] ∧ t.dev.dump = none ∧
      (∀ a, t.byte a = 0) ∧ t.dev.flash.slots = s.dev.flash.slots ∧ t.dev.flash.active = s.dev.flash.active ∧
      ∀ k : Fin 2, t.dev.flash.repair.get k = if writing = true ∧ k = s.dev.flash.older
        then { s.dev.flash.repair.get k with valid := false } else s.dev.flash.repair.get k) ∧
    (∀ x, let t := s.boot x
      (s.dev.flash.choose.1 = none → t.dev.running = .unbooted ∧ t.dev.reports = s.dev.reports ++ [(true, .noFirmware)]) ∧
      ∀ k f, s.dev.flash.choose = (some k, f) → f.slotOk k = true ∧ t.dev.image = f.image k ∧ t.dev.meas.get 4 = x ∧
        t.dev.meas.get 0 = extendMeas (extendMeas 0 (bytesOf Config.romVersion.toNat 8)) (f.image k) ∧
        (∀ r, f.record = some r → r.qualifies = true ∧ t.dev.welt = r.welt ∧ t.dev.halves = r.status) ∧
        (f.record = none → t.dev.welt = unboundWelt ∧ t.dev.bound = false)) ∧
    (∃ t, exec .throttle s = .next t ∧ t.seqs = s.seqs ∧ t.mem = s.mem ∧ ∀ u, (t.upperAt u).throttled =
      ((s.upperAt u).throttled || (s.leaders.contains u && s.hotUpper u))) ∧
    (s.cooled = true → ∃ t, exec .throttleRelease s = .next t ∧ t.seqs = s.seqs ∧ t.mem = s.mem ∧
      ∀ u, (t.upperAt u).throttled = false) ∧
    (s.cooled = false → exec .throttleRelease s = .next s)) ∧
  (∀ (s : State) (cause cls num : Nat) (detail : Word) (i : Instr),
    ((i = .fatalError cause cls num detail ∧ fatalPlace cause cls num = true ∧
        (s.dev.running = .up ∨ s.dev.running = .fatal)) ∨
      (i = .watchdogExpiry ∧ cause = 5 ∧ s.dev.running = .up) ∨
      (∃ n t, i = .criticalTemperature n ∧ cause = 3 ∧ SMap.find s.dev.hot n = some t ∧ t + 2250000 ≤ s.clock ∧
        (s.dev.running = .up ∨ s.dev.running = .fatal))) →
    ∃ t d e, exec i s = .next t ∧ t.dev.running = .fatal ∧ t.dev.dump = some d ∧ d.cause = cause ∧ d.seqs = s.seqs ∧
      d.time = Config.timeNs s.clock ∧ t.mem = s.mem ∧ t.dev.log.getLast? = some e ∧ e.kind = 9 ∧
      e.d1 = BitVec.ofNat 64 cause) ∧
  (∀ (s : State) (n cause cls num : Nat) (detail : Word),
    ((s.dev.running ≠ .up ∧ s.dev.running ≠ .fatal) ∨ (∀ t, SMap.find s.dev.hot n = some t → s.clock < t + 2250000) →
      exec (.criticalTemperature n) s = .next s) ∧
    (fatalPlace cause cls num = false ∨ (s.dev.running ≠ .up ∧ s.dev.running ≠ .fatal) →
      exec (.fatalError cause cls num detail) s = .next s) ∧
    (s.dev.running ≠ .up → exec .watchdogExpiry s = .next s)) ∧
  (∀ (s : State) (n : Nat) (p : Partition), SMap.find s.parts n = some p →
    (s.quiet n = false → exec (.powerStateEntry n) s = .next s) ∧
    (s.quiet n = true → ∃ t, exec (.powerStateEntry n) s = .next t ∧ t.seqs = s.seqs ∧ t.mem = s.mem ∧
      ∀ c, c ∈ p.cores → (t.upperAt c.leader).power = powerFor p.tolerance) ∧
    (∃ t, exec (.wakeEvent n) s = .next t ∧ t.seqs = s.seqs ∧ t.mem = s.mem ∧
      ∀ c, c ∈ p.cores → (t.upperAt c.leader).power = .run)) ∧
  (∀ (s : State) (page : Nat),
    (s.mem.negative.contains page = false → exec (.tableRebuild page) s = .next s) ∧
    (s.mem.negative.contains page = true → ∃ t, exec (.tableRebuild page) s = .next t ∧
      t.mem.negative.contains page = false ∧ (∀ e, e ∈ t.mem.tlb → page ∉ e.2.2.2.2) ∧ t.queue = s.queue)) ∧
  (∀ (s : State) (sole half : Nat),
    let y := 2 * sole + half
    let a := if s.halfStatus y = 1 ∧ (s.holderOf y).isSome = true then s.toRebind y else s
    ((∀ links l, a.dev.changes ≠ .rebind y links :: l) → exec (.weltRebind sole half) s = .next a) ∧
    (∀ links l, a.dev.changes = .rebind y links :: l →
      (s.holderOf y = none → exec (.weltRebind sole half) s = .next a.dropChange) ∧
      ∀ v, s.holderOf y = some v → exec (.weltRebind sole half) s = .next (a.rebindStep v y links))) ∧
  (∀ (s : State) (v y : Nat) (links : Option (List (Nat × Nat × Nat))) (l : List (Nat × Nat × Nat)),
    (links = some l ∧ s.chainStands l = true ∨ (∀ k, links = some k → s.chainStands k = false) ∧ l = s.chainFor v y) →
    let b : State := { s with dev := { s.dev with changes := .rebind y (some l) :: s.dev.changes.drop 1 } }
    let us := b.chainCores l
    let t := s.rebindStep v y links
    (l = [] → t = b.removeFailed (weltLeader (s.weltAt v))) ∧
    (l ≠ [] → us.all b.savedFor = true → t = (((b.bindChain l).scrubBound l).restoreBound us).writeRepair.dropChange ∧
      (∀ (r : State) (k : Nat), k ∈ l.map (·.1) → SMap.find (r.scrubBound l).checks k = none)) ∧
    (l ≠ [] → us.all b.savedFor = false → t.dev = b.dev ∧ t.seqs = s.seqs ∧
      ∀ u, u ∈ us → b.savedFor u = false → (t.upperAt u).preempt.isSome = true))

/-- A sanity statement on decoding (R22, R52 to R54, R60): words of the formats R, I, B, X, V and T, a word of the R format whose
unused field b is 1 (`clz`), and words that no description assigns. -/
def Obligations.DecodeWords : Prop :=
  decodeTableWord 32 0x008C6400 = some (.add ⟨0, 3, 3, 4⟩) ∧
  decodeTableWord 32 0x218C1FFF = some (.addi ⟨1, 3, 0, -1⟩) ∧
  decodeTableWord 32 0x06906010 = some (.std ⟨0, 4, 3, 16⟩) ∧
  decodeTableWord 32 0x09100004 = some (.blt ⟨0, 4, 0, 4⟩) ∧
  decodeTableWord 32 0x0E140004 = some (.mfc ⟨0, 5, 4⟩) ∧
  decodeTableWord 32 0b010_011000_00000_00101_0000000000011 = some (.loop ⟨2, 5, 3⟩) ∧
  decodeTableWord 32 0b010_100011_01001_00101_00000_110_00000 = some (.vld ⟨2, 9, 5, 6⟩) ∧
  decodeTableWord 32 0b011_100110_00110_10010_11001_101_00000 = some (.vadd ⟨3, 6, 18, 25, 5⟩) ∧
  decodeTableWord 32 0b001_101110_10110_01000_10_101_011_00000 = some (.tmac ⟨1, 182, 8, 2, 3⟩) ∧
  decodeTableWord 32 0b110_111000_00011_01100_10101_010_00000 = some (.xcopy ⟨6, 3, 12, 21, 2⟩) ∧
  decodeTableWord 32 0b000_000010_00011_00100_00001_00000111 = none ∧
  decodeTableWord 32 0x00000000 = none ∧ decodeTableWord 32 0xFFFFFFFF = none ∧
  decodeTableWord 32 0x0080001F = none

/-- Decode and encode agree, in both directions (R52 to R54, R60). -/
def Obligations.EncodeDecode : Prop :=
  (∀ (i : Instr) (rest : List Byte), i.wf = true → (encodeWord i).isSome = true →
    (encode i).length = 4 ∧ decode (encode i ++ rest) = .ok (i, rest)) ∧
  (∀ (bytes rest : List Byte) (i : Instr), decode bytes = .ok (i, rest) →
    (encodeWord i).isSome = true ∧ bytes = encode i ++ rest)

/-- What a step does around `exec` (R13, R52, R61, R310). Whose turn it is is the model's own choice (log 1). Before a
word runs, loads performed ahead of an acquire are void, loads that the word cannot be passed by stand, writes that must come first are
seen (log 2), and the sequencer's own additions under way land before an access (log 7); where there is none of them, nothing happens
before it. -/
def Obligations.StepRunsWord : Prop :=
  (∀ s : State, Config.allUppers * Config.seqsPerUpper ≤ s.cur → step s = .fault (.noSequencer s.cur)) ∧
  ∀ s : State, s.cur < Config.allUppers * Config.seqsPerUpper →
    (s.agenda = [] → s.dev.running = .up → s.prompt = false → s.othersDue = false → s.me.mode = .running →
      (s.upperAt (upperOf s.cur)).throttled = false → s.atStandard = false →
      (∀ loc, SMap.find s.me.fetched s.me.pc.toNat = none → s.checkAccess s.ctx .fetch s.me.pc.toNat 4 = .ok loc →
        s.poisoned loc = false →
        let bytes := [s.byte loc, s.byte (loc + 1), s.byte (loc + 2), s.byte (loc + 3)]
        (∀ i, decode bytes = .ok (i, []) → step s = exec i (s.before i)) ∧
        (∀ e, decode bytes = .error e → step s = exec .illegalInstruction s)) ∧
      (∀ e, s.fetchWord = .error e → step s = exec .instructionFetchFault s)) ∧
    (∀ i, s.me.early = [] → s.me.late = [] → s.me.unseen = [] → s.me.tokens = [] → s.me.marked = [] → s.flights = [] →
      s.before i = s) ∧
    (∀ i l, s.agenda = .event i :: l → encodeWord i = none → (s.dev.running = .up ∧ s.prompt = false) ∨ (s.dev.running ≠ .up ∧ takenDown i = true) →
      step s = exec i { s with agenda := l }) ∧
    (s.dev.running = .up → s.prompt = true → step s = .next (s.leaders.foldl State.promptTurn s)) ∧
    (∃ t, step s = .next t)

/-- The machine after reset (R8, R10, R21, R26, R95, R153, R251, R355). Bytes never written read 0 by log 3; that the device stands after
its boot is log 5. -/
def Obligations.ResetMachine : Prop :=
  let s := State.reset
  (∀ q : Nat,
    let m := s.seqAt q
    m.mode = .idle ∧ m.pc = 0 ∧ (∀ r : Reg, m.sreg r = 0) ∧
    (∀ v : Fin 32, (m.vregs.get v).bits = 0 ∧ (m.vregs.get v).count = 0 ∧ (m.vregs.get v).len = 0 ∧
      (m.vregs.get v).marks = []) ∧
    (∀ k : Fin 8, m.masks.get k = 0) ∧ m.vt = none ∧ m.grant = ⟨0, 0, 0, 0, 0, 0, 0⟩ ∧ m.loops.depth = 0 ∧
    (∀ k : Fin 6, m.loops.held.get k = ⟨0, 0, 0⟩) ∧ m.strip = none ∧ m.delay = none ∧ m.work = none ∧ m.pend = [] ∧
    m.owed = none ∧ m.posted = none ∧ m.early = [] ∧ m.late = [] ∧ m.shapes = [] ∧ m.unseen = [] ∧ m.tokens = [] ∧ m.marked = [] ∧
    m.dist = [] ∧ m.avail = [] ∧ m.fetched = [] ∧
    m.resv = none ∧ m.held = none ∧ m.ring = [] ∧
    (∀ n, n ≠ 0 → n ≠ 0x32 → ({ s with cur := q } : State).readCtl n = 0) ∧
    ({ s with cur := q } : State).readCtl 0 = 1 ∧
    ({ s with cur := q } : State).readCtl 0x32 = BitVec.ofNat 64 q) ∧
  (∀ u : Nat, (s.upperAt u).active = Tables.reset ∧ (s.upperAt u).shadow = Tables.reset ∧ (s.upperAt u).gen = 0 ∧
    (s.upperAt u).preempt = none ∧ (s.soleAt u).live = [] ∧ (s.soleAt u).rows = [] ∧
    ∀ k : Fin 4, (s.soleAt u).slots.get k = Slot.reset) ∧
  Tables.reset = #v[#v[2, 4, 6, 8, 12, 16, 24, 64], #v[2, 4, 6, 8, 12, 16, 24, 64],
    #v[0, 0, 1, 2, 3, 4, 6, 0], #v[0, 0, 1, 2, 3, 4, 6, 0]] ∧
  s.parts = [] ∧ s.launches = [] ∧ s.queue = [] ∧ s.cmds = [] ∧ s.rounds = [] ∧ s.flights = [] ∧ s.dev.changes = [] ∧ s.dev.running = .up ∧
  s.mem.poison = [] ∧ s.MemoryOk ∧ ∀ a, s.byte a = 0

/-- The invariant of memory (R12): kept by every word, every event, and every turn of the schedule. -/
def Obligations.StepKeepsMemory : Prop :=
  (∀ s t : State, s.MemoryOk → step s = .next t → t.MemoryOk) ∧
  (∀ s t : State, s.MemoryOk → t.MemoryOk → SameBytes s t → s.mem.cells = t.mem.cells)
end

