-- ==== Sys2Proof/Laws/State.lean ====
section
/-!
SUPPORT. What each update of the state leaves alone, and what it puts in place: one lemma per field and update.
-/

namespace Sys2Proof.Machine

set_option Elab.async false

/-! ### Sparse maps -/

@[simp] theorem SMap.find_nil {α : Type} (k : Nat) : SMap.find ([] : SMap α) k = none := rfl

theorem SMap.find_put {α : Type} (m : SMap α) (j k : Nat) (v : α) :
    SMap.find (SMap.put m j v) k = if j = k then some v else SMap.find m k := by
  induction m with
  | nil => simp only [SMap.put, SMap.find]
  | cons h t ih =>
    obtain ⟨i, u⟩ := h
    rw [SMap.put]
    split
    · simp only [SMap.find]
    · split
      · subst_vars
        simp only [SMap.find]
        split <;> rfl
      · simp only [SMap.find, ih]
        split <;> split <;> simp_all

@[simp] theorem SMap.find_put_same {α : Type} (m : SMap α) (k : Nat) (v : α) :
    SMap.find (SMap.put m k v) k = some v := by
  rw [SMap.find_put, if_pos rfl]

theorem SMap.find_put_other {α : Type} (m : SMap α) {j k : Nat} (v : α) (h : j ≠ k) :
    SMap.find (SMap.put m j v) k = SMap.find m k := by
  rw [SMap.find_put, if_neg h]

/-! ### Record updates -/

@[simp] theorem State.setSeq_clock (s : State) (q : Nat) (m : Seq) : (s.setSeq q m).clock = s.clock := rfl
@[simp] theorem State.setSeq_cur (s : State) (q : Nat) (m : Seq) : (s.setSeq q m).cur = s.cur := rfl
@[simp] theorem State.setSeq_writer (s : State) (q : Nat) (m : Seq) : (s.setSeq q m).writer = s.writer := rfl
@[simp] theorem State.setSeq_waited (s : State) (q : Nat) (m : Seq) : (s.setSeq q m).waited = s.waited := rfl
@[simp] theorem State.setSeq_polled (s : State) (q : Nat) (m : Seq) : (s.setSeq q m).polled = s.polled := rfl
@[simp] theorem State.setSeq_agenda (s : State) (q : Nat) (m : Seq) : (s.setSeq q m).agenda = s.agenda := rfl
@[simp] theorem State.setSeq_mem (s : State) (q : Nat) (m : Seq) : (s.setSeq q m).mem = s.mem := rfl
@[simp] theorem State.setSeq_uppers (s : State) (q : Nat) (m : Seq) : (s.setSeq q m).uppers = s.uppers := rfl
@[simp] theorem State.setSeq_soles (s : State) (q : Nat) (m : Seq) : (s.setSeq q m).soles = s.soles := rfl
@[simp] theorem State.setSeq_checks (s : State) (q : Nat) (m : Seq) : (s.setSeq q m).checks = s.checks := rfl
@[simp] theorem State.setSeq_parts (s : State) (q : Nat) (m : Seq) : (s.setSeq q m).parts = s.parts := rfl
@[simp] theorem State.setSeq_launches (s : State) (q : Nat) (m : Seq) : (s.setSeq q m).launches = s.launches := rfl
@[simp] theorem State.setSeq_nests (s : State) (q : Nat) (m : Seq) : (s.setSeq q m).nests = s.nests := rfl
@[simp] theorem State.setSeq_queue (s : State) (q : Nat) (m : Seq) : (s.setSeq q m).queue = s.queue := rfl
@[simp] theorem State.setSeq_yields (s : State) (q : Nat) (m : Seq) : (s.setSeq q m).yields = s.yields := rfl
@[simp] theorem State.setSeq_cmds (s : State) (q : Nat) (m : Seq) : (s.setSeq q m).cmds = s.cmds := rfl
@[simp] theorem State.setSeq_rounds (s : State) (q : Nat) (m : Seq) : (s.setSeq q m).rounds = s.rounds := rfl
@[simp] theorem State.setSeq_flights (s : State) (q : Nat) (m : Seq) : (s.setSeq q m).flights = s.flights := rfl
@[simp] theorem State.setSeq_holds (s : State) (q : Nat) (m : Seq) : (s.setSeq q m).holds = s.holds := rfl
@[simp] theorem State.setSeq_saves (s : State) (q : Nat) (m : Seq) : (s.setSeq q m).saves = s.saves := rfl
@[simp] theorem State.setSeq_dev (s : State) (q : Nat) (m : Seq) : (s.setSeq q m).dev = s.dev := rfl
@[simp] theorem State.setSeq_free (s : State) (q : Nat) (m : Seq) : (s.setSeq q m).free = s.free := rfl
@[simp] theorem State.setSeq_uid (s : State) (q : Nat) (m : Seq) : (s.setSeq q m).uid = s.uid := rfl
@[simp] theorem State.setSeq_nextTable (s : State) (q : Nat) (m : Seq) : (s.setSeq q m).nextTable = s.nextTable := rfl
@[simp] theorem State.setSeq_nextPage (s : State) (q : Nat) (m : Seq) : (s.setSeq q m).nextPage = s.nextPage := rfl

@[simp] theorem State.setMe_clock (s : State) (m : Seq) : (s.setMe m).clock = s.clock := rfl
@[simp] theorem State.setMe_cur (s : State) (m : Seq) : (s.setMe m).cur = s.cur := rfl
@[simp] theorem State.setMe_writer (s : State) (m : Seq) : (s.setMe m).writer = s.writer := rfl
@[simp] theorem State.setMe_waited (s : State) (m : Seq) : (s.setMe m).waited = s.waited := rfl
@[simp] theorem State.setMe_polled (s : State) (m : Seq) : (s.setMe m).polled = s.polled := rfl
@[simp] theorem State.setMe_agenda (s : State) (m : Seq) : (s.setMe m).agenda = s.agenda := rfl
@[simp] theorem State.setMe_mem (s : State) (m : Seq) : (s.setMe m).mem = s.mem := rfl
@[simp] theorem State.setMe_uppers (s : State) (m : Seq) : (s.setMe m).uppers = s.uppers := rfl
@[simp] theorem State.setMe_soles (s : State) (m : Seq) : (s.setMe m).soles = s.soles := rfl
@[simp] theorem State.setMe_checks (s : State) (m : Seq) : (s.setMe m).checks = s.checks := rfl
@[simp] theorem State.setMe_parts (s : State) (m : Seq) : (s.setMe m).parts = s.parts := rfl
@[simp] theorem State.setMe_launches (s : State) (m : Seq) : (s.setMe m).launches = s.launches := rfl
@[simp] theorem State.setMe_nests (s : State) (m : Seq) : (s.setMe m).nests = s.nests := rfl
@[simp] theorem State.setMe_queue (s : State) (m : Seq) : (s.setMe m).queue = s.queue := rfl
@[simp] theorem State.setMe_yields (s : State) (m : Seq) : (s.setMe m).yields = s.yields := rfl
@[simp] theorem State.setMe_cmds (s : State) (m : Seq) : (s.setMe m).cmds = s.cmds := rfl
@[simp] theorem State.setMe_rounds (s : State) (m : Seq) : (s.setMe m).rounds = s.rounds := rfl
@[simp] theorem State.setMe_flights (s : State) (m : Seq) : (s.setMe m).flights = s.flights := rfl
@[simp] theorem State.setMe_holds (s : State) (m : Seq) : (s.setMe m).holds = s.holds := rfl
@[simp] theorem State.setMe_saves (s : State) (m : Seq) : (s.setMe m).saves = s.saves := rfl
@[simp] theorem State.setMe_dev (s : State) (m : Seq) : (s.setMe m).dev = s.dev := rfl
@[simp] theorem State.setMe_free (s : State) (m : Seq) : (s.setMe m).free = s.free := rfl
@[simp] theorem State.setMe_uid (s : State) (m : Seq) : (s.setMe m).uid = s.uid := rfl
@[simp] theorem State.setMe_nextTable (s : State) (m : Seq) : (s.setMe m).nextTable = s.nextTable := rfl
@[simp] theorem State.setMe_nextPage (s : State) (m : Seq) : (s.setMe m).nextPage = s.nextPage := rfl

@[simp] theorem State.setUpper_clock (s : State) (u : Nat) (x : Upper) : (s.setUpper u x).clock = s.clock := rfl
@[simp] theorem State.setUpper_cur (s : State) (u : Nat) (x : Upper) : (s.setUpper u x).cur = s.cur := rfl
@[simp] theorem State.setUpper_writer (s : State) (u : Nat) (x : Upper) : (s.setUpper u x).writer = s.writer := rfl
@[simp] theorem State.setUpper_waited (s : State) (u : Nat) (x : Upper) : (s.setUpper u x).waited = s.waited := rfl
@[simp] theorem State.setUpper_polled (s : State) (u : Nat) (x : Upper) : (s.setUpper u x).polled = s.polled := rfl
@[simp] theorem State.setUpper_agenda (s : State) (u : Nat) (x : Upper) : (s.setUpper u x).agenda = s.agenda := rfl
@[simp] theorem State.setUpper_mem (s : State) (u : Nat) (x : Upper) : (s.setUpper u x).mem = s.mem := rfl
@[simp] theorem State.setUpper_seqs (s : State) (u : Nat) (x : Upper) : (s.setUpper u x).seqs = s.seqs := rfl
@[simp] theorem State.setUpper_soles (s : State) (u : Nat) (x : Upper) : (s.setUpper u x).soles = s.soles := rfl
@[simp] theorem State.setUpper_checks (s : State) (u : Nat) (x : Upper) : (s.setUpper u x).checks = s.checks := rfl
@[simp] theorem State.setUpper_parts (s : State) (u : Nat) (x : Upper) : (s.setUpper u x).parts = s.parts := rfl
@[simp] theorem State.setUpper_launches (s : State) (u : Nat) (x : Upper) : (s.setUpper u x).launches = s.launches := rfl
@[simp] theorem State.setUpper_nests (s : State) (u : Nat) (x : Upper) : (s.setUpper u x).nests = s.nests := rfl
@[simp] theorem State.setUpper_queue (s : State) (u : Nat) (x : Upper) : (s.setUpper u x).queue = s.queue := rfl
@[simp] theorem State.setUpper_yields (s : State) (u : Nat) (x : Upper) : (s.setUpper u x).yields = s.yields := rfl
@[simp] theorem State.setUpper_cmds (s : State) (u : Nat) (x : Upper) : (s.setUpper u x).cmds = s.cmds := rfl
@[simp] theorem State.setUpper_rounds (s : State) (u : Nat) (x : Upper) : (s.setUpper u x).rounds = s.rounds := rfl
@[simp] theorem State.setUpper_flights (s : State) (u : Nat) (x : Upper) : (s.setUpper u x).flights = s.flights := rfl
@[simp] theorem State.setUpper_holds (s : State) (u : Nat) (x : Upper) : (s.setUpper u x).holds = s.holds := rfl
@[simp] theorem State.setUpper_saves (s : State) (u : Nat) (x : Upper) : (s.setUpper u x).saves = s.saves := rfl
@[simp] theorem State.setUpper_dev (s : State) (u : Nat) (x : Upper) : (s.setUpper u x).dev = s.dev := rfl
@[simp] theorem State.setUpper_free (s : State) (u : Nat) (x : Upper) : (s.setUpper u x).free = s.free := rfl
@[simp] theorem State.setUpper_uid (s : State) (u : Nat) (x : Upper) : (s.setUpper u x).uid = s.uid := rfl
@[simp] theorem State.setUpper_nextTable (s : State) (u : Nat) (x : Upper) : (s.setUpper u x).nextTable = s.nextTable := rfl
@[simp] theorem State.setUpper_nextPage (s : State) (u : Nat) (x : Upper) : (s.setUpper u x).nextPage = s.nextPage := rfl

@[simp] theorem State.setSole_clock (s : State) (i : Nat) (x : Sole) : (s.setSole i x).clock = s.clock := rfl
@[simp] theorem State.setSole_cur (s : State) (i : Nat) (x : Sole) : (s.setSole i x).cur = s.cur := rfl
@[simp] theorem State.setSole_writer (s : State) (i : Nat) (x : Sole) : (s.setSole i x).writer = s.writer := rfl
@[simp] theorem State.setSole_waited (s : State) (i : Nat) (x : Sole) : (s.setSole i x).waited = s.waited := rfl
@[simp] theorem State.setSole_polled (s : State) (i : Nat) (x : Sole) : (s.setSole i x).polled = s.polled := rfl
@[simp] theorem State.setSole_agenda (s : State) (i : Nat) (x : Sole) : (s.setSole i x).agenda = s.agenda := rfl
@[simp] theorem State.setSole_mem (s : State) (i : Nat) (x : Sole) : (s.setSole i x).mem = s.mem := rfl
@[simp] theorem State.setSole_seqs (s : State) (i : Nat) (x : Sole) : (s.setSole i x).seqs = s.seqs := rfl
@[simp] theorem State.setSole_uppers (s : State) (i : Nat) (x : Sole) : (s.setSole i x).uppers = s.uppers := rfl
@[simp] theorem State.setSole_checks (s : State) (i : Nat) (x : Sole) : (s.setSole i x).checks = s.checks := rfl
@[simp] theorem State.setSole_parts (s : State) (i : Nat) (x : Sole) : (s.setSole i x).parts = s.parts := rfl
@[simp] theorem State.setSole_launches (s : State) (i : Nat) (x : Sole) : (s.setSole i x).launches = s.launches := rfl
@[simp] theorem State.setSole_nests (s : State) (i : Nat) (x : Sole) : (s.setSole i x).nests = s.nests := rfl
@[simp] theorem State.setSole_queue (s : State) (i : Nat) (x : Sole) : (s.setSole i x).queue = s.queue := rfl
@[simp] theorem State.setSole_yields (s : State) (i : Nat) (x : Sole) : (s.setSole i x).yields = s.yields := rfl
@[simp] theorem State.setSole_cmds (s : State) (i : Nat) (x : Sole) : (s.setSole i x).cmds = s.cmds := rfl
@[simp] theorem State.setSole_rounds (s : State) (i : Nat) (x : Sole) : (s.setSole i x).rounds = s.rounds := rfl
@[simp] theorem State.setSole_flights (s : State) (i : Nat) (x : Sole) : (s.setSole i x).flights = s.flights := rfl
@[simp] theorem State.setSole_holds (s : State) (i : Nat) (x : Sole) : (s.setSole i x).holds = s.holds := rfl
@[simp] theorem State.setSole_saves (s : State) (i : Nat) (x : Sole) : (s.setSole i x).saves = s.saves := rfl
@[simp] theorem State.setSole_dev (s : State) (i : Nat) (x : Sole) : (s.setSole i x).dev = s.dev := rfl
@[simp] theorem State.setSole_free (s : State) (i : Nat) (x : Sole) : (s.setSole i x).free = s.free := rfl
@[simp] theorem State.setSole_uid (s : State) (i : Nat) (x : Sole) : (s.setSole i x).uid = s.uid := rfl
@[simp] theorem State.setSole_nextTable (s : State) (i : Nat) (x : Sole) : (s.setSole i x).nextTable = s.nextTable := rfl
@[simp] theorem State.setSole_nextPage (s : State) (i : Nat) (x : Sole) : (s.setSole i x).nextPage = s.nextPage := rfl

@[simp] theorem State.setPos_clock (s : State) (v : Nat) (x : Checks) : (s.setPos v x).clock = s.clock := rfl
@[simp] theorem State.setPos_cur (s : State) (v : Nat) (x : Checks) : (s.setPos v x).cur = s.cur := rfl
@[simp] theorem State.setPos_writer (s : State) (v : Nat) (x : Checks) : (s.setPos v x).writer = s.writer := rfl
@[simp] theorem State.setPos_waited (s : State) (v : Nat) (x : Checks) : (s.setPos v x).waited = s.waited := rfl
@[simp] theorem State.setPos_polled (s : State) (v : Nat) (x : Checks) : (s.setPos v x).polled = s.polled := rfl
@[simp] theorem State.setPos_agenda (s : State) (v : Nat) (x : Checks) : (s.setPos v x).agenda = s.agenda := rfl
@[simp] theorem State.setPos_mem (s : State) (v : Nat) (x : Checks) : (s.setPos v x).mem = s.mem := rfl
@[simp] theorem State.setPos_seqs (s : State) (v : Nat) (x : Checks) : (s.setPos v x).seqs = s.seqs := rfl
@[simp] theorem State.setPos_uppers (s : State) (v : Nat) (x : Checks) : (s.setPos v x).uppers = s.uppers := rfl
@[simp] theorem State.setPos_soles (s : State) (v : Nat) (x : Checks) : (s.setPos v x).soles = s.soles := rfl
@[simp] theorem State.setPos_parts (s : State) (v : Nat) (x : Checks) : (s.setPos v x).parts = s.parts := rfl
@[simp] theorem State.setPos_launches (s : State) (v : Nat) (x : Checks) : (s.setPos v x).launches = s.launches := rfl
@[simp] theorem State.setPos_nests (s : State) (v : Nat) (x : Checks) : (s.setPos v x).nests = s.nests := rfl
@[simp] theorem State.setPos_queue (s : State) (v : Nat) (x : Checks) : (s.setPos v x).queue = s.queue := rfl
@[simp] theorem State.setPos_yields (s : State) (v : Nat) (x : Checks) : (s.setPos v x).yields = s.yields := rfl
@[simp] theorem State.setPos_cmds (s : State) (v : Nat) (x : Checks) : (s.setPos v x).cmds = s.cmds := rfl
@[simp] theorem State.setPos_rounds (s : State) (v : Nat) (x : Checks) : (s.setPos v x).rounds = s.rounds := rfl
@[simp] theorem State.setPos_flights (s : State) (v : Nat) (x : Checks) : (s.setPos v x).flights = s.flights := rfl
@[simp] theorem State.setPos_holds (s : State) (v : Nat) (x : Checks) : (s.setPos v x).holds = s.holds := rfl
@[simp] theorem State.setPos_saves (s : State) (v : Nat) (x : Checks) : (s.setPos v x).saves = s.saves := rfl
@[simp] theorem State.setPos_dev (s : State) (v : Nat) (x : Checks) : (s.setPos v x).dev = s.dev := rfl
@[simp] theorem State.setPos_free (s : State) (v : Nat) (x : Checks) : (s.setPos v x).free = s.free := rfl
@[simp] theorem State.setPos_uid (s : State) (v : Nat) (x : Checks) : (s.setPos v x).uid = s.uid := rfl
@[simp] theorem State.setPos_nextTable (s : State) (v : Nat) (x : Checks) : (s.setPos v x).nextTable = s.nextTable := rfl
@[simp] theorem State.setPos_nextPage (s : State) (v : Nat) (x : Checks) : (s.setPos v x).nextPage = s.nextPage := rfl

@[simp] theorem State.setCells_clock (s : State) (c : List Host.Cell) : (s.setCells c).clock = s.clock := rfl
@[simp] theorem State.setCells_cur (s : State) (c : List Host.Cell) : (s.setCells c).cur = s.cur := rfl
@[simp] theorem State.setCells_writer (s : State) (c : List Host.Cell) : (s.setCells c).writer = s.writer := rfl
@[simp] theorem State.setCells_waited (s : State) (c : List Host.Cell) : (s.setCells c).waited = s.waited := rfl
@[simp] theorem State.setCells_polled (s : State) (c : List Host.Cell) : (s.setCells c).polled = s.polled := rfl
@[simp] theorem State.setCells_agenda (s : State) (c : List Host.Cell) : (s.setCells c).agenda = s.agenda := rfl
@[simp] theorem State.setCells_seqs (s : State) (c : List Host.Cell) : (s.setCells c).seqs = s.seqs := rfl
@[simp] theorem State.setCells_uppers (s : State) (c : List Host.Cell) : (s.setCells c).uppers = s.uppers := rfl
@[simp] theorem State.setCells_soles (s : State) (c : List Host.Cell) : (s.setCells c).soles = s.soles := rfl
@[simp] theorem State.setCells_checks (s : State) (c : List Host.Cell) : (s.setCells c).checks = s.checks := rfl
@[simp] theorem State.setCells_parts (s : State) (c : List Host.Cell) : (s.setCells c).parts = s.parts := rfl
@[simp] theorem State.setCells_launches (s : State) (c : List Host.Cell) : (s.setCells c).launches = s.launches := rfl
@[simp] theorem State.setCells_nests (s : State) (c : List Host.Cell) : (s.setCells c).nests = s.nests := rfl
@[simp] theorem State.setCells_queue (s : State) (c : List Host.Cell) : (s.setCells c).queue = s.queue := rfl
@[simp] theorem State.setCells_yields (s : State) (c : List Host.Cell) : (s.setCells c).yields = s.yields := rfl
@[simp] theorem State.setCells_cmds (s : State) (c : List Host.Cell) : (s.setCells c).cmds = s.cmds := rfl
@[simp] theorem State.setCells_rounds (s : State) (c : List Host.Cell) : (s.setCells c).rounds = s.rounds := rfl
@[simp] theorem State.setCells_flights (s : State) (c : List Host.Cell) : (s.setCells c).flights = s.flights := rfl
@[simp] theorem State.setCells_holds (s : State) (c : List Host.Cell) : (s.setCells c).holds = s.holds := rfl
@[simp] theorem State.setCells_saves (s : State) (c : List Host.Cell) : (s.setCells c).saves = s.saves := rfl
@[simp] theorem State.setCells_dev (s : State) (c : List Host.Cell) : (s.setCells c).dev = s.dev := rfl
@[simp] theorem State.setCells_free (s : State) (c : List Host.Cell) : (s.setCells c).free = s.free := rfl
@[simp] theorem State.setCells_uid (s : State) (c : List Host.Cell) : (s.setCells c).uid = s.uid := rfl
@[simp] theorem State.setCells_nextTable (s : State) (c : List Host.Cell) : (s.setCells c).nextTable = s.nextTable := rfl
@[simp] theorem State.setCells_nextPage (s : State) (c : List Host.Cell) : (s.setCells c).nextPage = s.nextPage := rfl

@[simp] theorem State.setCtl_clock (s : State) (c : Ctl) : (s.setCtl c).clock = s.clock := rfl
@[simp] theorem State.setCtl_cur (s : State) (c : Ctl) : (s.setCtl c).cur = s.cur := rfl
@[simp] theorem State.setCtl_writer (s : State) (c : Ctl) : (s.setCtl c).writer = s.writer := rfl
@[simp] theorem State.setCtl_waited (s : State) (c : Ctl) : (s.setCtl c).waited = s.waited := rfl
@[simp] theorem State.setCtl_polled (s : State) (c : Ctl) : (s.setCtl c).polled = s.polled := rfl
@[simp] theorem State.setCtl_agenda (s : State) (c : Ctl) : (s.setCtl c).agenda = s.agenda := rfl
@[simp] theorem State.setCtl_mem (s : State) (c : Ctl) : (s.setCtl c).mem = s.mem := rfl
@[simp] theorem State.setCtl_uppers (s : State) (c : Ctl) : (s.setCtl c).uppers = s.uppers := rfl
@[simp] theorem State.setCtl_soles (s : State) (c : Ctl) : (s.setCtl c).soles = s.soles := rfl
@[simp] theorem State.setCtl_checks (s : State) (c : Ctl) : (s.setCtl c).checks = s.checks := rfl
@[simp] theorem State.setCtl_parts (s : State) (c : Ctl) : (s.setCtl c).parts = s.parts := rfl
@[simp] theorem State.setCtl_launches (s : State) (c : Ctl) : (s.setCtl c).launches = s.launches := rfl
@[simp] theorem State.setCtl_nests (s : State) (c : Ctl) : (s.setCtl c).nests = s.nests := rfl
@[simp] theorem State.setCtl_queue (s : State) (c : Ctl) : (s.setCtl c).queue = s.queue := rfl
@[simp] theorem State.setCtl_yields (s : State) (c : Ctl) : (s.setCtl c).yields = s.yields := rfl
@[simp] theorem State.setCtl_cmds (s : State) (c : Ctl) : (s.setCtl c).cmds = s.cmds := rfl
@[simp] theorem State.setCtl_rounds (s : State) (c : Ctl) : (s.setCtl c).rounds = s.rounds := rfl
@[simp] theorem State.setCtl_flights (s : State) (c : Ctl) : (s.setCtl c).flights = s.flights := rfl
@[simp] theorem State.setCtl_holds (s : State) (c : Ctl) : (s.setCtl c).holds = s.holds := rfl
@[simp] theorem State.setCtl_saves (s : State) (c : Ctl) : (s.setCtl c).saves = s.saves := rfl
@[simp] theorem State.setCtl_dev (s : State) (c : Ctl) : (s.setCtl c).dev = s.dev := rfl
@[simp] theorem State.setCtl_free (s : State) (c : Ctl) : (s.setCtl c).free = s.free := rfl
@[simp] theorem State.setCtl_uid (s : State) (c : Ctl) : (s.setCtl c).uid = s.uid := rfl
@[simp] theorem State.setCtl_nextTable (s : State) (c : Ctl) : (s.setCtl c).nextTable = s.nextTable := rfl
@[simp] theorem State.setCtl_nextPage (s : State) (c : Ctl) : (s.setCtl c).nextPage = s.nextPage := rfl

@[simp] theorem State.setGrant_clock (s : State) (g : GrantFile) : (s.setGrant g).clock = s.clock := rfl
@[simp] theorem State.setGrant_cur (s : State) (g : GrantFile) : (s.setGrant g).cur = s.cur := rfl
@[simp] theorem State.setGrant_writer (s : State) (g : GrantFile) : (s.setGrant g).writer = s.writer := rfl
@[simp] theorem State.setGrant_waited (s : State) (g : GrantFile) : (s.setGrant g).waited = s.waited := rfl
@[simp] theorem State.setGrant_polled (s : State) (g : GrantFile) : (s.setGrant g).polled = s.polled := rfl
@[simp] theorem State.setGrant_agenda (s : State) (g : GrantFile) : (s.setGrant g).agenda = s.agenda := rfl
@[simp] theorem State.setGrant_mem (s : State) (g : GrantFile) : (s.setGrant g).mem = s.mem := rfl
@[simp] theorem State.setGrant_uppers (s : State) (g : GrantFile) : (s.setGrant g).uppers = s.uppers := rfl
@[simp] theorem State.setGrant_soles (s : State) (g : GrantFile) : (s.setGrant g).soles = s.soles := rfl
@[simp] theorem State.setGrant_checks (s : State) (g : GrantFile) : (s.setGrant g).checks = s.checks := rfl
@[simp] theorem State.setGrant_parts (s : State) (g : GrantFile) : (s.setGrant g).parts = s.parts := rfl
@[simp] theorem State.setGrant_launches (s : State) (g : GrantFile) : (s.setGrant g).launches = s.launches := rfl
@[simp] theorem State.setGrant_nests (s : State) (g : GrantFile) : (s.setGrant g).nests = s.nests := rfl
@[simp] theorem State.setGrant_queue (s : State) (g : GrantFile) : (s.setGrant g).queue = s.queue := rfl
@[simp] theorem State.setGrant_yields (s : State) (g : GrantFile) : (s.setGrant g).yields = s.yields := rfl
@[simp] theorem State.setGrant_cmds (s : State) (g : GrantFile) : (s.setGrant g).cmds = s.cmds := rfl
@[simp] theorem State.setGrant_rounds (s : State) (g : GrantFile) : (s.setGrant g).rounds = s.rounds := rfl
@[simp] theorem State.setGrant_flights (s : State) (g : GrantFile) : (s.setGrant g).flights = s.flights := rfl
@[simp] theorem State.setGrant_holds (s : State) (g : GrantFile) : (s.setGrant g).holds = s.holds := rfl
@[simp] theorem State.setGrant_saves (s : State) (g : GrantFile) : (s.setGrant g).saves = s.saves := rfl
@[simp] theorem State.setGrant_dev (s : State) (g : GrantFile) : (s.setGrant g).dev = s.dev := rfl
@[simp] theorem State.setGrant_free (s : State) (g : GrantFile) : (s.setGrant g).free = s.free := rfl
@[simp] theorem State.setGrant_uid (s : State) (g : GrantFile) : (s.setGrant g).uid = s.uid := rfl
@[simp] theorem State.setGrant_nextTable (s : State) (g : GrantFile) : (s.setGrant g).nextTable = s.nextTable := rfl
@[simp] theorem State.setGrant_nextPage (s : State) (g : GrantFile) : (s.setGrant g).nextPage = s.nextPage := rfl

@[simp] theorem State.raise_clock (s : State) (f : FlagSet) : (s.raise f).clock = s.clock := rfl
@[simp] theorem State.raise_cur (s : State) (f : FlagSet) : (s.raise f).cur = s.cur := rfl
@[simp] theorem State.raise_writer (s : State) (f : FlagSet) : (s.raise f).writer = s.writer := rfl
@[simp] theorem State.raise_waited (s : State) (f : FlagSet) : (s.raise f).waited = s.waited := rfl
@[simp] theorem State.raise_polled (s : State) (f : FlagSet) : (s.raise f).polled = s.polled := rfl
@[simp] theorem State.raise_agenda (s : State) (f : FlagSet) : (s.raise f).agenda = s.agenda := rfl
@[simp] theorem State.raise_mem (s : State) (f : FlagSet) : (s.raise f).mem = s.mem := rfl
@[simp] theorem State.raise_uppers (s : State) (f : FlagSet) : (s.raise f).uppers = s.uppers := rfl
@[simp] theorem State.raise_soles (s : State) (f : FlagSet) : (s.raise f).soles = s.soles := rfl
@[simp] theorem State.raise_checks (s : State) (f : FlagSet) : (s.raise f).checks = s.checks := rfl
@[simp] theorem State.raise_parts (s : State) (f : FlagSet) : (s.raise f).parts = s.parts := rfl
@[simp] theorem State.raise_launches (s : State) (f : FlagSet) : (s.raise f).launches = s.launches := rfl
@[simp] theorem State.raise_nests (s : State) (f : FlagSet) : (s.raise f).nests = s.nests := rfl
@[simp] theorem State.raise_queue (s : State) (f : FlagSet) : (s.raise f).queue = s.queue := rfl
@[simp] theorem State.raise_yields (s : State) (f : FlagSet) : (s.raise f).yields = s.yields := rfl
@[simp] theorem State.raise_cmds (s : State) (f : FlagSet) : (s.raise f).cmds = s.cmds := rfl
@[simp] theorem State.raise_rounds (s : State) (f : FlagSet) : (s.raise f).rounds = s.rounds := rfl
@[simp] theorem State.raise_flights (s : State) (f : FlagSet) : (s.raise f).flights = s.flights := rfl
@[simp] theorem State.raise_holds (s : State) (f : FlagSet) : (s.raise f).holds = s.holds := rfl
@[simp] theorem State.raise_saves (s : State) (f : FlagSet) : (s.raise f).saves = s.saves := rfl
@[simp] theorem State.raise_dev (s : State) (f : FlagSet) : (s.raise f).dev = s.dev := rfl
@[simp] theorem State.raise_free (s : State) (f : FlagSet) : (s.raise f).free = s.free := rfl
@[simp] theorem State.raise_uid (s : State) (f : FlagSet) : (s.raise f).uid = s.uid := rfl
@[simp] theorem State.raise_nextTable (s : State) (f : FlagSet) : (s.raise f).nextTable = s.nextTable := rfl
@[simp] theorem State.raise_nextPage (s : State) (f : FlagSet) : (s.raise f).nextPage = s.nextPage := rfl

@[simp] theorem State.setS_clock (s : State) (r : Reg) (v : Word) : (s.setS r v).clock = s.clock := rfl
@[simp] theorem State.setS_cur (s : State) (r : Reg) (v : Word) : (s.setS r v).cur = s.cur := rfl
@[simp] theorem State.setS_writer (s : State) (r : Reg) (v : Word) : (s.setS r v).writer = s.writer := rfl
@[simp] theorem State.setS_waited (s : State) (r : Reg) (v : Word) : (s.setS r v).waited = s.waited := rfl
@[simp] theorem State.setS_polled (s : State) (r : Reg) (v : Word) : (s.setS r v).polled = s.polled := rfl
@[simp] theorem State.setS_agenda (s : State) (r : Reg) (v : Word) : (s.setS r v).agenda = s.agenda := rfl
@[simp] theorem State.setS_mem (s : State) (r : Reg) (v : Word) : (s.setS r v).mem = s.mem := rfl
@[simp] theorem State.setS_uppers (s : State) (r : Reg) (v : Word) : (s.setS r v).uppers = s.uppers := rfl
@[simp] theorem State.setS_soles (s : State) (r : Reg) (v : Word) : (s.setS r v).soles = s.soles := rfl
@[simp] theorem State.setS_checks (s : State) (r : Reg) (v : Word) : (s.setS r v).checks = s.checks := rfl
@[simp] theorem State.setS_parts (s : State) (r : Reg) (v : Word) : (s.setS r v).parts = s.parts := rfl
@[simp] theorem State.setS_launches (s : State) (r : Reg) (v : Word) : (s.setS r v).launches = s.launches := rfl
@[simp] theorem State.setS_nests (s : State) (r : Reg) (v : Word) : (s.setS r v).nests = s.nests := rfl
@[simp] theorem State.setS_queue (s : State) (r : Reg) (v : Word) : (s.setS r v).queue = s.queue := rfl
@[simp] theorem State.setS_yields (s : State) (r : Reg) (v : Word) : (s.setS r v).yields = s.yields := rfl
@[simp] theorem State.setS_cmds (s : State) (r : Reg) (v : Word) : (s.setS r v).cmds = s.cmds := rfl
@[simp] theorem State.setS_rounds (s : State) (r : Reg) (v : Word) : (s.setS r v).rounds = s.rounds := rfl
@[simp] theorem State.setS_flights (s : State) (r : Reg) (v : Word) : (s.setS r v).flights = s.flights := rfl
@[simp] theorem State.setS_holds (s : State) (r : Reg) (v : Word) : (s.setS r v).holds = s.holds := rfl
@[simp] theorem State.setS_saves (s : State) (r : Reg) (v : Word) : (s.setS r v).saves = s.saves := rfl
@[simp] theorem State.setS_dev (s : State) (r : Reg) (v : Word) : (s.setS r v).dev = s.dev := rfl
@[simp] theorem State.setS_free (s : State) (r : Reg) (v : Word) : (s.setS r v).free = s.free := rfl
@[simp] theorem State.setS_uid (s : State) (r : Reg) (v : Word) : (s.setS r v).uid = s.uid := rfl
@[simp] theorem State.setS_nextTable (s : State) (r : Reg) (v : Word) : (s.setS r v).nextTable = s.nextTable := rfl
@[simp] theorem State.setS_nextPage (s : State) (r : Reg) (v : Word) : (s.setS r v).nextPage = s.nextPage := rfl

@[simp] theorem State.markSector_clock (s : State) (n : Nat) : (s.markSector n).clock = s.clock := rfl
@[simp] theorem State.markSector_cur (s : State) (n : Nat) : (s.markSector n).cur = s.cur := rfl
@[simp] theorem State.markSector_writer (s : State) (n : Nat) : (s.markSector n).writer = s.writer := rfl
@[simp] theorem State.markSector_waited (s : State) (n : Nat) : (s.markSector n).waited = s.waited := rfl
@[simp] theorem State.markSector_polled (s : State) (n : Nat) : (s.markSector n).polled = s.polled := rfl
@[simp] theorem State.markSector_agenda (s : State) (n : Nat) : (s.markSector n).agenda = s.agenda := rfl
@[simp] theorem State.markSector_seqs (s : State) (n : Nat) : (s.markSector n).seqs = s.seqs := rfl
@[simp] theorem State.markSector_uppers (s : State) (n : Nat) : (s.markSector n).uppers = s.uppers := rfl
@[simp] theorem State.markSector_soles (s : State) (n : Nat) : (s.markSector n).soles = s.soles := rfl
@[simp] theorem State.markSector_checks (s : State) (n : Nat) : (s.markSector n).checks = s.checks := rfl
@[simp] theorem State.markSector_parts (s : State) (n : Nat) : (s.markSector n).parts = s.parts := rfl
@[simp] theorem State.markSector_launches (s : State) (n : Nat) : (s.markSector n).launches = s.launches := rfl
@[simp] theorem State.markSector_nests (s : State) (n : Nat) : (s.markSector n).nests = s.nests := rfl
@[simp] theorem State.markSector_queue (s : State) (n : Nat) : (s.markSector n).queue = s.queue := rfl
@[simp] theorem State.markSector_yields (s : State) (n : Nat) : (s.markSector n).yields = s.yields := rfl
@[simp] theorem State.markSector_cmds (s : State) (n : Nat) : (s.markSector n).cmds = s.cmds := rfl
@[simp] theorem State.markSector_rounds (s : State) (n : Nat) : (s.markSector n).rounds = s.rounds := rfl
@[simp] theorem State.markSector_flights (s : State) (n : Nat) : (s.markSector n).flights = s.flights := rfl
@[simp] theorem State.markSector_holds (s : State) (n : Nat) : (s.markSector n).holds = s.holds := rfl
@[simp] theorem State.markSector_saves (s : State) (n : Nat) : (s.markSector n).saves = s.saves := rfl
@[simp] theorem State.markSector_dev (s : State) (n : Nat) : (s.markSector n).dev = s.dev := rfl
@[simp] theorem State.markSector_free (s : State) (n : Nat) : (s.markSector n).free = s.free := rfl
@[simp] theorem State.markSector_uid (s : State) (n : Nat) : (s.markSector n).uid = s.uid := rfl
@[simp] theorem State.markSector_nextTable (s : State) (n : Nat) : (s.markSector n).nextTable = s.nextTable := rfl
@[simp] theorem State.markSector_nextPage (s : State) (n : Nat) : (s.markSector n).nextPage = s.nextPage := rfl

@[simp] theorem State.unmarkSector_clock (s : State) (n : Nat) : (s.unmarkSector n).clock = s.clock := rfl
@[simp] theorem State.unmarkSector_cur (s : State) (n : Nat) : (s.unmarkSector n).cur = s.cur := rfl
@[simp] theorem State.unmarkSector_writer (s : State) (n : Nat) : (s.unmarkSector n).writer = s.writer := rfl
@[simp] theorem State.unmarkSector_waited (s : State) (n : Nat) : (s.unmarkSector n).waited = s.waited := rfl
@[simp] theorem State.unmarkSector_polled (s : State) (n : Nat) : (s.unmarkSector n).polled = s.polled := rfl
@[simp] theorem State.unmarkSector_agenda (s : State) (n : Nat) : (s.unmarkSector n).agenda = s.agenda := rfl
@[simp] theorem State.unmarkSector_seqs (s : State) (n : Nat) : (s.unmarkSector n).seqs = s.seqs := rfl
@[simp] theorem State.unmarkSector_uppers (s : State) (n : Nat) : (s.unmarkSector n).uppers = s.uppers := rfl
@[simp] theorem State.unmarkSector_soles (s : State) (n : Nat) : (s.unmarkSector n).soles = s.soles := rfl
@[simp] theorem State.unmarkSector_checks (s : State) (n : Nat) : (s.unmarkSector n).checks = s.checks := rfl
@[simp] theorem State.unmarkSector_parts (s : State) (n : Nat) : (s.unmarkSector n).parts = s.parts := rfl
@[simp] theorem State.unmarkSector_launches (s : State) (n : Nat) : (s.unmarkSector n).launches = s.launches := rfl
@[simp] theorem State.unmarkSector_nests (s : State) (n : Nat) : (s.unmarkSector n).nests = s.nests := rfl
@[simp] theorem State.unmarkSector_queue (s : State) (n : Nat) : (s.unmarkSector n).queue = s.queue := rfl
@[simp] theorem State.unmarkSector_yields (s : State) (n : Nat) : (s.unmarkSector n).yields = s.yields := rfl
@[simp] theorem State.unmarkSector_cmds (s : State) (n : Nat) : (s.unmarkSector n).cmds = s.cmds := rfl
@[simp] theorem State.unmarkSector_rounds (s : State) (n : Nat) : (s.unmarkSector n).rounds = s.rounds := rfl
@[simp] theorem State.unmarkSector_flights (s : State) (n : Nat) : (s.unmarkSector n).flights = s.flights := rfl
@[simp] theorem State.unmarkSector_holds (s : State) (n : Nat) : (s.unmarkSector n).holds = s.holds := rfl
@[simp] theorem State.unmarkSector_saves (s : State) (n : Nat) : (s.unmarkSector n).saves = s.saves := rfl
@[simp] theorem State.unmarkSector_dev (s : State) (n : Nat) : (s.unmarkSector n).dev = s.dev := rfl
@[simp] theorem State.unmarkSector_free (s : State) (n : Nat) : (s.unmarkSector n).free = s.free := rfl
@[simp] theorem State.unmarkSector_uid (s : State) (n : Nat) : (s.unmarkSector n).uid = s.uid := rfl
@[simp] theorem State.unmarkSector_nextTable (s : State) (n : Nat) : (s.unmarkSector n).nextTable = s.nextTable := rfl
@[simp] theorem State.unmarkSector_nextPage (s : State) (n : Nat) : (s.unmarkSector n).nextPage = s.nextPage := rfl

/-! ### The sequencer -/

@[simp] theorem Seq.setS_pc (m : Seq) (r : Reg) (v : Word) : (m.setS r v).pc = m.pc := by
  unfold Seq.setS
  split <;> rfl
@[simp] theorem Seq.setS_vregs (m : Seq) (r : Reg) (v : Word) : (m.setS r v).vregs = m.vregs := by
  unfold Seq.setS
  split <;> rfl
@[simp] theorem Seq.setS_masks (m : Seq) (r : Reg) (v : Word) : (m.setS r v).masks = m.masks := by
  unfold Seq.setS
  split <;> rfl
@[simp] theorem Seq.setS_vt (m : Seq) (r : Reg) (v : Word) : (m.setS r v).vt = m.vt := by
  unfold Seq.setS
  split <;> rfl
@[simp] theorem Seq.setS_grant (m : Seq) (r : Reg) (v : Word) : (m.setS r v).grant = m.grant := by
  unfold Seq.setS
  split <;> rfl
@[simp] theorem Seq.setS_loops (m : Seq) (r : Reg) (v : Word) : (m.setS r v).loops = m.loops := by
  unfold Seq.setS
  split <;> rfl
@[simp] theorem Seq.setS_ctl (m : Seq) (r : Reg) (v : Word) : (m.setS r v).ctl = m.ctl := by
  unfold Seq.setS
  split <;> rfl
@[simp] theorem Seq.setS_delay (m : Seq) (r : Reg) (v : Word) : (m.setS r v).delay = m.delay := by
  unfold Seq.setS
  split <;> rfl
@[simp] theorem Seq.setS_strip (m : Seq) (r : Reg) (v : Word) : (m.setS r v).strip = m.strip := by
  unfold Seq.setS
  split <;> rfl
@[simp] theorem Seq.setS_truss (m : Seq) (r : Reg) (v : Word) : (m.setS r v).truss = m.truss := by
  unfold Seq.setS
  split <;> rfl
@[simp] theorem Seq.setS_resv (m : Seq) (r : Reg) (v : Word) : (m.setS r v).resv = m.resv := by
  unfold Seq.setS
  split <;> rfl
@[simp] theorem Seq.setS_pend (m : Seq) (r : Reg) (v : Word) : (m.setS r v).pend = m.pend := by
  unfold Seq.setS
  split <;> rfl
@[simp] theorem Seq.setS_mmarks (m : Seq) (r : Reg) (v : Word) : (m.setS r v).mmarks = m.mmarks := by
  unfold Seq.setS
  split <;> rfl
@[simp] theorem Seq.setS_dist (m : Seq) (r : Reg) (v : Word) : (m.setS r v).dist = m.dist := by
  unfold Seq.setS
  split <;> rfl
@[simp] theorem Seq.setS_ready (m : Seq) (r : Reg) (v : Word) : (m.setS r v).ready = m.ready := by
  unfold Seq.setS
  split <;> rfl
@[simp] theorem Seq.setS_mode (m : Seq) (r : Reg) (v : Word) : (m.setS r v).mode = m.mode := by
  unfold Seq.setS
  split <;> rfl
@[simp] theorem Seq.setS_work (m : Seq) (r : Reg) (v : Word) : (m.setS r v).work = m.work := by
  unfold Seq.setS
  split <;> rfl
@[simp] theorem Seq.setS_level (m : Seq) (r : Reg) (v : Word) : (m.setS r v).level = m.level := by
  unfold Seq.setS
  split <;> rfl
@[simp] theorem Seq.setS_age (m : Seq) (r : Reg) (v : Word) : (m.setS r v).age = m.age := by
  unfold Seq.setS
  split <;> rfl
@[simp] theorem Seq.setS_held (m : Seq) (r : Reg) (v : Word) : (m.setS r v).held = m.held := by
  unfold Seq.setS
  split <;> rfl
@[simp] theorem Seq.setS_fetched (m : Seq) (r : Reg) (v : Word) : (m.setS r v).fetched = m.fetched := by
  unfold Seq.setS
  split <;> rfl
@[simp] theorem Seq.setS_window (m : Seq) (r : Reg) (v : Word) : (m.setS r v).window = m.window := by
  unfold Seq.setS
  split <;> rfl
@[simp] theorem Seq.setS_shadow (m : Seq) (r : Reg) (v : Word) : (m.setS r v).shadow = m.shadow := by
  unfold Seq.setS
  split <;> rfl
@[simp] theorem Seq.setS_trapSeq (m : Seq) (r : Reg) (v : Word) : (m.setS r v).trapSeq = m.trapSeq := by
  unfold Seq.setS
  split <;> rfl
@[simp] theorem Seq.setS_ring (m : Seq) (r : Reg) (v : Word) : (m.setS r v).ring = m.ring := by
  unfold Seq.setS
  split <;> rfl
@[simp] theorem Seq.setS_owed (m : Seq) (r : Reg) (v : Word) : (m.setS r v).owed = m.owed := by
  unfold Seq.setS
  split <;> rfl
@[simp] theorem Seq.setS_posted (m : Seq) (r : Reg) (v : Word) : (m.setS r v).posted = m.posted := by
  unfold Seq.setS
  split <;> rfl
@[simp] theorem Seq.setS_early (m : Seq) (r : Reg) (v : Word) : (m.setS r v).early = m.early := by
  unfold Seq.setS
  split <;> rfl
@[simp] theorem Seq.setS_late (m : Seq) (r : Reg) (v : Word) : (m.setS r v).late = m.late := by
  unfold Seq.setS
  split <;> rfl
@[simp] theorem Seq.setS_shapes (m : Seq) (r : Reg) (v : Word) : (m.setS r v).shapes = m.shapes := by
  unfold Seq.setS
  split <;> rfl
@[simp] theorem Seq.setS_unseen (m : Seq) (r : Reg) (v : Word) : (m.setS r v).unseen = m.unseen := by
  unfold Seq.setS
  split <;> rfl
@[simp] theorem Seq.setS_marked (m : Seq) (r : Reg) (v : Word) : (m.setS r v).marked = m.marked := by
  unfold Seq.setS
  split <;> rfl
@[simp] theorem Seq.setS_tokens (m : Seq) (r : Reg) (v : Word) : (m.setS r v).tokens = m.tokens := by
  unfold Seq.setS
  split <;> rfl
@[simp] theorem Seq.setS_openAt (m : Seq) (r : Reg) (v : Word) : (m.setS r v).openAt = m.openAt := by
  unfold Seq.setS
  split <;> rfl
@[simp] theorem Seq.setS_replay (m : Seq) (r : Reg) (v : Word) : (m.setS r v).replay = m.replay := by
  unfold Seq.setS
  split <;> rfl

/-- s0 reads zero (R8). -/
@[simp] theorem Seq.sreg_zero (m : Seq) : m.sreg 0 = 0 := rfl

/-- Reading after a write: the value written, and every other register as before; s0 takes no value (R8). -/
theorem Seq.sreg_setS (m : Seq) (r k : Reg) (v : Word) :
    (m.setS r v).sreg k = if k = r ∧ r.val ≠ 0 then v else m.sreg k := by
  unfold Seq.setS Seq.sreg
  by_cases hr : r.val = 0
  · simp [hr]
  · by_cases hk : k = r
    · subst hk
      simp [hr, Vector.get]
    · have hne : r.val ≠ k.val := fun h => hk (Fin.ext h.symm)
      simp [hr, hk, Vector.get, hne]

@[simp] theorem State.seqAt_setSeq (s : State) (q : Nat) (m : Seq) : (s.setSeq q m).seqAt q = m := by
  simp [State.seqAt, State.setSeq]

theorem State.seqAt_setSeq_other (s : State) {q k : Nat} (m : Seq) (h : q ≠ k) :
    (s.setSeq q m).seqAt k = s.seqAt k := by
  simp [State.seqAt, State.setSeq, SMap.find_put_other _ _ h]

@[simp] theorem State.me_setMe (s : State) (m : Seq) : (s.setMe m).me = m := State.seqAt_setSeq s s.cur m

@[simp] theorem State.me_setSole (s : State) (i : Nat) (x : Sole) : (s.setSole i x).me = s.me := rfl

@[simp] theorem State.me_setUpper (s : State) (u : Nat) (x : Upper) : (s.setUpper u x).me = s.me := rfl

@[simp] theorem State.me_setCells (s : State) (c : List Host.Cell) : (s.setCells c).me = s.me := rfl

@[simp] theorem State.me_setCtl (s : State) (c : Ctl) : (s.setCtl c).me = { s.me with ctl := c } := State.me_setMe _ _

@[simp] theorem State.me_setGrant (s : State) (g : GrantFile) : (s.setGrant g).me = { s.me with grant := g } :=
  State.me_setMe _ _

@[simp] theorem State.me_setS (s : State) (r : Reg) (v : Word) : (s.setS r v).me = s.me.setS r v := State.me_setMe _ _

@[simp] theorem State.soleAt_setSole (s : State) (i : Nat) (x : Sole) : (s.setSole i x).soleAt i = x := by
  simp [State.soleAt, State.setSole]

@[simp] theorem State.posAt_setPos (s : State) (v : Nat) (x : Checks) : (s.setPos v x).posAt v = x := by
  simp [State.posAt, State.setPos]

@[simp] theorem State.upperAt_setUpper (s : State) (u : Nat) (x : Upper) : (s.setUpper u x).upperAt u = x := by
  simp [State.upperAt, State.setUpper]

end Sys2Proof.Machine
end

