-- ==== Sys2Proof/Laws/Memory.lean ====
section
/-!
SUPPORT. Memory: every operation keeps the canonical form, and reads find what writes put, byte for byte, in memory and in a
map of sectors.
-/

namespace Sys2Proof.Machine

/-! ### The canonical form -/

theorem wfFrom_mono {m : List Host.Cell} {lo hi : Nat} (h : lo ≤ hi) (w : wfFrom hi m = true) : wfFrom lo m = true := by
  cases m with
  | nil => rfl
  | cons c t =>
    obtain ⟨x, y⟩ := c
    simp only [wfFrom, Bool.and_eq_true, decide_eq_true_eq] at w ⊢
    exact ⟨⟨by omega, w.1.2⟩, w.2⟩

/-- A location below the least one listed reads zero. -/
theorem cellGet_below {m : List Host.Cell} {lo a : Nat} (w : wfFrom lo m = true) (h : a < lo) : cellGet m a = 0 := by
  induction m generalizing lo with
  | nil => rfl
  | cons c t ih =>
    obtain ⟨x, y⟩ := c
    simp only [wfFrom, Bool.and_eq_true, decide_eq_true_eq] at w
    rw [cellGet, if_neg (by omega)]
    exact ih w.2 (by omega)

theorem wfFrom_cellPut {m : List Host.Cell} {lo a : Nat} (b : Byte) (w : wfFrom lo m = true) (h : lo ≤ a) :
    wfFrom lo (cellPut m a b) = true := by
  induction m generalizing lo with
  | nil =>
    unfold cellPut
    split
    · rfl
    · simp_all [wfFrom]
  | cons c t ih =>
    obtain ⟨x, y⟩ := c
    have w' := w
    simp only [wfFrom, Bool.and_eq_true, decide_eq_true_eq] at w'
    unfold cellPut
    split
    · split
      · exact w
      · simp_all [wfFrom]
    · split
      · split
        · exact wfFrom_mono (by omega) w'.2
        · simp_all [wfFrom]
      · simp only [wfFrom, Bool.and_eq_true, decide_eq_true_eq]
        exact ⟨w'.1, ih w'.2 (by omega)⟩

/-- Writing a byte keeps the canonical form. -/
theorem wf_cellPut {m : List Host.Cell} (a : Nat) (b : Byte) (w : Memory.wf m = true) :
    Memory.wf (cellPut m a b) = true := wfFrom_cellPut b w (Nat.zero_le a)

theorem wf_cellsPut {m : List Host.Cell} (a n v : Nat) (w : Memory.wf m = true) :
    Memory.wf (cellsPut m a n v) = true := by
  induction n generalizing m a v with
  | zero => exact w
  | succ n ih => exact ih _ _ (wf_cellPut a _ w)

theorem wf_sectorCells {m : List Host.Cell} (base : Nat) (en : BitVec 32) (data : BitVec 256) (k n : Nat)
    (w : Memory.wf m = true) : Memory.wf (sectorCells m base en data k n) = true := by
  induction n generalizing m k with
  | zero => exact w
  | succ n ih =>
    unfold sectorCells
    apply ih
    split
    · exact wf_cellPut _ _ w
    · exact w

/-- The memory after reset is in its canonical form. -/
theorem wf_reset : Memory.wf State.reset.mem.cells = true := rfl

/-! ### Reading what was written -/

theorem cellGet_cellPut_from {m : List Host.Cell} {lo : Nat} (a c : Nat) (b : Byte) (w : wfFrom lo m = true) :
    cellGet (cellPut m a b) c = if c = a then b else cellGet m c := by
  induction m generalizing lo with
  | nil =>
    unfold cellPut
    split
    · split <;> simp_all [cellGet]
    · simp only [cellGet]
      by_cases h : c = a
      · rw [if_pos h, if_pos h.symm]
      · rw [if_neg h, if_neg (Ne.symm h)]
  | cons d t ih =>
    obtain ⟨x, y⟩ := d
    have w' := w
    simp only [wfFrom, Bool.and_eq_true, decide_eq_true_eq] at w'
    unfold cellPut
    split
    · split
      · split
        · subst_vars
          rw [cellGet, if_neg (by omega)]
          exact cellGet_below w'.2 (by omega)
        · rfl
      · rw [cellGet]
        by_cases h : c = a
        · rw [if_pos h, if_pos h.symm]
        · rw [if_neg h, if_neg (Ne.symm h)]
    · split
      · subst_vars
        split
        · subst_vars
          split
          · subst_vars
            exact cellGet_below w'.2 (by omega)
          · rw [cellGet, if_neg (by omega)]
        · simp only [cellGet]
          by_cases h : c = x
          · rw [if_pos h, if_pos h.symm]
          · rw [if_neg h, if_neg (Ne.symm h), if_neg (Ne.symm h)]
      · simp only [cellGet, ih w'.2]
        split
        · rw [if_neg (by omega)]
        · rfl

/-- Reading a byte after writing one, in a canonical memory. -/
theorem cellGet_cellPut {m : List Host.Cell} (a c : Nat) (b : Byte) (w : Memory.wf m = true) :
    cellGet (cellPut m a b) c = if c = a then b else cellGet m c := cellGet_cellPut_from a c b w

/-- Reading a byte after writing the enabled bytes of a sector. -/
theorem cellGet_sectorCells {m : List Host.Cell} (base : Nat) (en : BitVec 32) (data : BitVec 256) (k n c : Nat)
    (w : Memory.wf m = true) :
    cellGet (sectorCells m base en data k n) c =
      if base + k ≤ c ∧ c < base + k + n ∧ en.getLsbD (c - base) = true then data.extractLsb' (8 * (c - base)) 8
      else cellGet m c := by
  induction n generalizing m k with
  | zero =>
    rw [sectorCells, if_neg (by omega)]
  | succ n ih =>
    unfold sectorCells
    have w' : Memory.wf (if en.getLsbD k then cellPut m (base + k) (data.extractLsb' (8 * k) 8) else m) = true := by
      split
      · exact wf_cellPut _ _ w
      · exact w
    rw [ih (k + 1) w']
    by_cases hc : c = base + k
    · subst hc
      have hk : base + k - base = k := by omega
      rw [if_neg (by omega), hk]
      by_cases he : en.getLsbD k = true
      · rw [if_pos he, cellGet_cellPut _ _ _ w, if_pos rfl, if_pos ⟨by omega, by omega, he⟩]
      · rw [if_neg he, if_neg (fun h => he h.2.2)]
    · have hm : cellGet (if en.getLsbD k then cellPut m (base + k) (data.extractLsb' (8 * k) 8) else m) c = cellGet m c := by
        split
        · rw [cellGet_cellPut _ _ _ w, if_neg hc]
        · rfl
      rw [hm]
      by_cases h : base + (k + 1) ≤ c ∧ c < base + (k + 1) + n ∧ en.getLsbD (c - base) = true
      · rw [if_pos h, if_pos ⟨by omega, by omega, h.2.2⟩]
      · rw [if_neg h, if_neg (fun g => h ⟨by omega, by omega, g.2.2⟩)]

/-! ### Sector maps -/

/-- The byte of a sector at position j, when it is enabled. -/
def BufSector.at (e : BufSector) (j : Nat) : Option Byte :=
  if e.en.getLsbD j then some (e.data.extractLsb' (8 * j) 8) else none

theorem bufGet_eq (b : SMap BufSector) (loc : Nat) :
    bufGet b loc = (SMap.find b (loc / 32)).bind (fun e => e.at (loc % 32)) := by
  unfold bufGet
  split <;> simp_all [BufSector.at]

/-- One byte put into a 256-bit sector. -/
theorem sector_putByte (data : BitVec 256) (v : Byte) (k j : Nat) (hj : j < 32) :
    ((data &&& ~~~((255 : BitVec 256) <<< (8 * k))) ||| ((v.setWidth 256) <<< (8 * k))).extractLsb' (8 * j) 8 =
      if j = k then v else data.extractLsb' (8 * j) 8 := by
  have h255 : ∀ n, (255 : BitVec 256).getLsbD n = decide (n < 8) := by
    intro n
    have : (255 : BitVec 256) = BitVec.ofNat 256 (2 ^ 8 - 1) := by decide
    rw [this, BitVec.getLsbD_ofNat, Nat.testBit_two_pow_sub_one]
    by_cases hn : n < 8
    · simp [hn, Nat.lt_of_lt_of_le hn (by decide : 8 ≤ 256)]
    · simp [hn]
  apply BitVec.eq_of_getLsbD_eq
  intro i hi
  rw [BitVec.getLsbD_extractLsb']
  simp only [hi, decide_true, Bool.true_and, BitVec.getLsbD_or, BitVec.getLsbD_and, BitVec.getLsbD_not,
    BitVec.getLsbD_shiftLeft, h255, BitVec.getLsbD_setWidth]
  by_cases hk : j = k
  · subst hk
    have h1 : 8 * j + i < 256 := by omega
    have h2 : ¬(8 * j + i < 8 * j) := by omega
    have h3 : 8 * j + i - 8 * j = i := by omega
    simp [h1, h3, hi]
    intro h
    omega
  · rw [if_neg hk, BitVec.getLsbD_extractLsb']
    have h1 : 8 * j + i < 256 := by omega
    simp only [hi, decide_true, Bool.true_and, h1]
    rcases Nat.lt_or_gt_of_ne hk with h | h
    · have h2 : 8 * j + i < 8 * k := by omega
      simp [h2]
    · have h2 : ¬(8 * j + i < 8 * k) := by omega
      have h3 : ¬(8 * j + i - 8 * k < 8) := by omega
      rw [BitVec.getLsbD_of_ge v _ (by omega)]
      simp [h2, h3]

theorem bufGet_bufByte (b : SMap BufSector) (va loc c : Nat) (v : Byte) :
    bufGet (bufByte b va loc v) c = if c = loc then some v else bufGet b c := by
  rw [bufGet_eq, bufGet_eq]
  unfold bufByte
  simp only [SMap.find_put]
  by_cases hs : loc / 32 = c / 32
  · rw [if_pos hs, ← hs]
    simp only [Option.bind_some, BufSector.at]
    rw [sector_putByte _ _ _ _ (Nat.mod_lt _ (by decide))]
    have hone : ∀ n, n < 32 → ((1 : BitVec 32) <<< (loc % 32)).getLsbD n = decide (n = loc % 32) := by
      intro n hn
      have h1 : ∀ k, (1 : BitVec 32).getLsbD k = decide (k = 0) := by
        intro k
        change (1#32).getLsbD k = _
        rw [BitVec.getLsbD_one]
        simp
      rw [BitVec.getLsbD_shiftLeft, h1]
      by_cases h : n = loc % 32
      · subst h
        simp [hn]
      · rcases Nat.lt_or_gt_of_ne h with h' | h'
        · simp [h, h']
        · have : ¬(n < loc % 32) := by omega
          have h2 : n - loc % 32 ≠ 0 := by omega
          simp [h, h2]
    rw [BitVec.getLsbD_or, hone _ (Nat.mod_lt _ (by decide))]
    by_cases hc : c % 32 = loc % 32
    · have : c = loc := by omega
      simp [this]
    · have : c ≠ loc := fun h => hc (by rw [h])
      simp only [hc, this, decide_false, Bool.or_false, if_false]
      cases hf : SMap.find b (loc / 32) with
      | none => simp
      | some e => simp
  · have : c ≠ loc := fun h => hs (by rw [h])
    rw [if_neg hs, if_neg this]

/-- The bytes of a number put into a sector map, and every other byte as before. -/
theorem bufGet_bufNat (b : SMap BufSector) (va loc n v c : Nat) :
    bufGet (bufNat b va loc n v) c =
      if loc ≤ c ∧ c < loc + n then some (BitVec.ofNat 8 (v / 256 ^ (c - loc))) else bufGet b c := by
  induction n generalizing b va loc v with
  | zero => rw [bufNat, if_neg (by omega)]
  | succ n ih =>
    rw [bufNat, ih, bufGet_bufByte]
    by_cases hc : c = loc
    · subst hc
      rw [if_neg (by omega), if_pos rfl, if_pos (by omega)]
      simp
    · by_cases h : loc + 1 ≤ c ∧ c < loc + 1 + n
      · rw [if_pos h, if_pos (by omega)]
        have : c - loc = (c - (loc + 1)) + 1 := by omega
        rw [this, Nat.pow_succ, Nat.mul_comm, Nat.div_div_eq_div_mul]
      · rw [if_neg h, if_neg hc, if_neg (by omega)]

/-- The only sector that a store within one sector touches. -/
theorem find_bufNat (va loc n v k : Nat) (h : loc % 32 + n ≤ 32) (hk : k ≠ loc / 32) :
    SMap.find (bufNat [] va loc n v) k = none := by
  have key : ∀ (b : SMap BufSector) va loc n v, loc % 32 + n ≤ 32 → k ≠ loc / 32 → SMap.find b k = none →
      SMap.find (bufNat b va loc n v) k = none := by
    intro b va loc n
    induction n generalizing b va loc with
    | zero =>
      intro v _ _ hb
      exact hb
    | succ n ih =>
      intro v hl hk hb
      rw [bufNat]
      rcases Nat.eq_zero_or_pos n with h0 | h0
      · subst h0
        rw [bufNat, bufByte, SMap.find_put_other _ _ (Ne.symm hk)]
        exact hb
      · refine ih _ _ _ _ (by omega) (by omega) ?_
        rw [bufByte, SMap.find_put_other _ _ (Ne.symm hk)]
        exact hb
  exact key [] va loc n v h hk rfl

/-- Eight ones at byte k. -/
theorem byteOnes_getLsbD (k n : Nat) (hn : n < 256) : ((255 : BitVec 256) <<< (8 * k)).getLsbD n = decide (n / 8 = k) := by
  have h255 : ∀ n, (255 : BitVec 256).getLsbD n = decide (n < 8) := by
    intro n
    have : (255 : BitVec 256) = BitVec.ofNat 256 (2 ^ 8 - 1) := by decide
    rw [this, BitVec.getLsbD_ofNat, Nat.testBit_two_pow_sub_one]
    by_cases hn : n < 8
    · simp [hn, Nat.lt_of_lt_of_le hn (by decide : 8 ≤ 256)]
    · simp [hn]
  rw [BitVec.getLsbD_shiftLeft, h255]
  by_cases h1 : n < 8 * k
  · have : n / 8 ≠ k := by omega
    simp [h1, this]
  · by_cases h2 : n - 8 * k < 8
    · have : n / 8 = k := by omega
      simp [h1, h2, this, hn]
    · have : n / 8 ≠ k := by omega
      simp [h2, this]

/-- The mask of bits of a mask of byte enables. -/
theorem enBits_getLsbD (en : BitVec 32) (n : Nat) (hn : n < 256) : (enBits en).getLsbD n = en.getLsbD (n / 8) := by
  have key : ∀ (l : List Nat) (acc : BitVec 256),
      (l.foldl (fun acc k => if en.getLsbD k then acc ||| ((255 : BitVec 256) <<< (8 * k)) else acc) acc).getLsbD n =
        (acc.getLsbD n || l.any (fun k => en.getLsbD k && decide (n / 8 = k))) := by
    intro l
    induction l with
    | nil => simp
    | cons k t ih =>
      intro acc
      rw [List.foldl_cons, ih, List.any_cons]
      split
      · rw [BitVec.getLsbD_or, byteOnes_getLsbD _ _ hn]
        simp [*, Bool.or_assoc]
      · simp [*]
  rw [enBits, key, Bool.eq_iff_iff]
  have h0 : (0 : BitVec 256).getLsbD n = false := BitVec.getLsbD_zero
  simp only [h0, Bool.false_or, List.any_eq_true, List.mem_range, Bool.and_eq_true, decide_eq_true_eq]
  constructor
  · rintro ⟨k, -, hk, rfl⟩
    exact hk
  · intro h
    exact ⟨n / 8, by omega, h, rfl⟩

/-- A sector laid over another: the newer sector's enabled bytes, and the older's beneath. -/
theorem BufSector.at_merge (o e : BufSector) (va j : Nat) (hj : j < 32) :
    BufSector.at ⟨va, o.en ||| e.en, (o.data &&& ~~~(enBits e.en)) ||| (e.data &&& enBits e.en)⟩ j =
      (e.at j).or (o.at j) := by
  have hd : ((o.data &&& ~~~(enBits e.en)) ||| (e.data &&& enBits e.en)).extractLsb' (8 * j) 8 =
      if e.en.getLsbD j then e.data.extractLsb' (8 * j) 8 else o.data.extractLsb' (8 * j) 8 := by
    apply BitVec.eq_of_getLsbD_eq
    intro i hi
    have h1 : 8 * j + i < 256 := by omega
    have h2 : (8 * j + i) / 8 = j := by omega
    have h3 : (enBits e.en)[8 * j + i]'h1 = e.en.getLsbD j := by
      rw [← BitVec.getLsbD_eq_getElem, enBits_getLsbD _ _ h1, h2]
    rw [BitVec.getLsbD_extractLsb']
    simp only [hi, decide_true, Bool.true_and, BitVec.getLsbD_or, BitVec.getLsbD_and, BitVec.getLsbD_not,
      enBits_getLsbD _ _ h1, h2, h1]
    rw [Bool.eq_iff_iff]
    split <;> rename_i he <;> rw [BitVec.getLsbD_extractLsb'] <;> simp only [he, hi, decide_true, Bool.true_and] <;> simp
  unfold BufSector.at
  simp only [hd, BitVec.getLsbD_or]
  cases e.en.getLsbD j <;> cases o.en.getLsbD j <;> simp

/-- One sector laid over a buffer. -/
theorem bufGet_bufMerge_one (old : SMap BufSector) (k : Nat) (e : BufSector) (c : Nat) :
    bufGet (bufMerge old [(k, e)]) c = (bufGet [(k, e)] c).or (bufGet old c) := by
  rw [bufGet_eq, bufGet_eq, bufGet_eq]
  unfold bufMerge
  simp only [List.foldl_cons, List.foldl_nil]
  cases hk : SMap.find old k with
  | none =>
    simp only [SMap.find_put]
    by_cases hc : k = c / 32
    · subst hc
      simp [SMap.find, hk]
    · simp [SMap.find, hc]
  | some o =>
    simp only [SMap.find_put]
    by_cases hc : k = c / 32
    · subst hc
      simp [SMap.find, hk, BufSector.at_merge _ _ _ _ (Nat.mod_lt c (by decide : 0 < 32))]
    · simp [SMap.find, hc]

/-- A store within one sector is one sector. -/
theorem bufNat_one (va loc n v : Nat) (h : loc % 32 + (n + 1) ≤ 32) :
    ∃ e, bufNat [] va loc (n + 1) v = [(loc / 32, e)] := by
  have key : ∀ n (e : BufSector) va loc v (k : Nat), k = loc / 32 → loc % 32 + n ≤ 32 →
      ∃ e', bufNat [(k, e)] va loc n v = [(k, e')] := by
    intro n
    induction n with
    | zero => exact fun e _ _ _ _ _ _ => ⟨e, rfl⟩
    | succ n ih =>
      intro e va loc v k hk hl
      rw [bufNat]
      have : ∃ e', bufByte [(k, e)] va loc (BitVec.ofNat 8 v) = [(k, e')] := by
        subst hk
        simp [bufByte, SMap.put]
      obtain ⟨e', he⟩ := this
      rw [he]
      rcases Nat.eq_zero_or_pos n with h0 | h0
      · subst h0
        exact ⟨e', rfl⟩
      · exact ih _ _ _ _ _ (by omega) (by omega)
  rw [bufNat]
  have : ∃ e, bufByte [] va loc (BitVec.ofNat 8 v) = [(loc / 32, e)] := by simp [bufByte, SMap.put]
  obtain ⟨e, he⟩ := this
  rw [he]
  rcases Nat.eq_zero_or_pos n with h0 | h0
  · subst h0
    exact ⟨e, rfl⟩
  · exact key _ _ _ _ _ _ (by omega) (by omega)

end Sys2Proof.Machine
end

