-- ==== Sys2Proof/Laws/Issue.lean ====
section
/-!
SUPPORT. What issuing a word can do (R62): under `Ready` the checks pass and the meaning decides; otherwise the word waits,
traps or completes. And what taking a trap and retiring leave alone.
-/

namespace Sys2Proof.Machine

@[simp] theorem State.due_me (s : State) : s.due.me = s.me := rfl
@[simp] theorem State.due_cur (s : State) : s.due.cur = s.cur := rfl
@[simp] theorem State.due_mem (s : State) : s.due.mem = s.mem := rfl
@[simp] theorem State.due_seqs (s : State) : s.due.seqs = s.seqs := rfl
@[simp] theorem State.due_cmds (s : State) : s.due.cmds = s.cmds := rfl
@[simp] theorem State.due_seqAt (s : State) (q : Nat) : s.due.seqAt q = s.seqAt q := rfl
@[simp] theorem State.due_sreg (s : State) (r : Reg) : s.due.sreg r = s.sreg r := rfl

/-- Under `Ready` the checks of R62 pass. -/
theorem State.Ready.precheck {s : State} {i : Instr} {group : VType → Bool} (h : s.Ready i group) :
    s.due.precheck i group = .ok () := by
  obtain ⟨wf, -, -, priv, legal, opened, loopEnd, slots, typed, waits, -⟩ := h
  have hp : (needsPriv i && !isPriv s.me.ctl.status) = false := by
    cases hn : needsPriv i
    · rfl
    · simp [priv hn]
  have ho : (needsStrip i && s.me.strip.isNone) = false := by
    cases hn : needsStrip i
    · rfl
    · have := opened hn
      cases hs : s.me.strip <;> simp_all
  have ht : s.due.checkTransfer i = .ok () := by
    unfold State.checkTransfer
    split
    · exact slots ‹_›
    · rfl
  have hy : checkType s.me i group = .ok () := by
    unfold checkType
    split
    · obtain ⟨t, hv, hr, hg⟩ := typed ‹_›
      rw [hv]
      have : (instrInfo i).vregs.any (fun r => r % t.g != 0) = false := by
        simpa using hr
      simp [this, hg]
    · rfl
  have hw : (s.me.ctl.chk.getLsbD 0 && waitShort s.me (instrInfo i).srcs) = false := by
    cases hn : s.me.ctl.chk.getLsbD 0
    · rfl
    · simp [waits hn]
  simp only [State.precheck, State.due_me, wf, hp, legal, ho, loopEnd, ht, hy, hw, Bool.not_true, Bool.false_eq_true,
    ↓reduceIte]

/-- Under `Ready` a word issues when the clock has reached its sequencer's next issue. -/
theorem State.Ready.atIssue {s : State} {i : Instr} {group : VType → Bool} (h : s.Ready i group) : s.atIssue i = s.due := by
  rw [State.atIssue, h.pace, State.due]

theorem State.atIssue_me (s : State) (i : Instr) : (s.atIssue i).me = s.me := rfl

theorem issue_eq (s : State) (i : Instr) (group : VType → Bool) (body : State → Res) :
    s.issue i group body =
      if i.wf && (heldByToken s.me (instrInfo i) || heldByChunks s.cmds s.cur (instrInfo i).masks) then
        { s with waited := true }
      else
        match (s.atIssue i).precheck i group with
        | .error t => (s.atIssue i).stopWord (s.atIssue i) t (instrInfo i).w
        | .ok () => conclude (s.atIssue i) i (body (s.atIssue i)) := by
  rfl

/-- Under `Ready` a word's meaning decides what happens. -/
theorem issue_ready {s : State} {i : Instr} {group : VType → Bool} (h : s.Ready i group) (body : State → Res) :
    s.issue i group body = conclude s.due i (body s.due) := by
  rw [issue_eq, h.atIssue, h.precheck, h.tokens, h.chunks]
  simp

theorem run_ready {s : State} {i : Instr} (h : s.Ready i) (body : State → Res) :
    run i body s = .next (conclude s.due i (body s.due)) := by
  rw [run, issue_ready h]

theorem runG_ready {s : State} {i : Instr} {group : VType → Bool} (h : s.Ready i group) (body : State → Res) :
    runG i group body s = .next (conclude s.due i (body s.due)) := by
  rw [runG, issue_ready h]

/-- Everything that issuing a word can do, in any state: it waits, a check traps, or its meaning decides. -/
theorem issue_cases (s : State) (i : Instr) (group : VType → Bool) (body : State → Res) :
    s.issue i group body = { s with waited := true } ∨
    (∃ x, s.issue i group body = (s.atIssue i).stopWord (s.atIssue i) x (instrInfo i).w) ∨
    s.issue i group body = conclude (s.atIssue i) i (body (s.atIssue i)) := by
  rw [issue_eq]
  split
  · exact .inl rfl
  · split
    · exact .inr (.inl ⟨_, rfl⟩)
    · exact .inr (.inr rfl)

end Sys2Proof.Machine
end

