-- ==== Sys2Proof/Laws/Retire.lean ====
section
/-!
SUPPORT. What retiring a word, logging, and letting a checking position go leave alone.
-/

namespace Sys2Proof.Machine

/-! ### The relations -/

theorem SameSole.refl (a : Sole) : SameSole a a := ⟨rfl, rfl, rfl⟩

theorem SameSole.trans {a b c : Sole} (h : SameSole a b) (k : SameSole b c) : SameSole a c :=
  ⟨k.1.trans h.1, k.2.1.trans h.2.1, k.2.2.trans h.2.2⟩

theorem SameDev.refl (a : Dev) : SameDev a a := rfl

theorem SameDev.trans {a b c : Dev} (h : SameDev a b) (k : SameDev b c) : SameDev a c := by
  unfold SameDev at *
  rw [← h]
  have := congrArg (fun d : Dev => { d with log := a.log, lost := a.lost }) k
  exact this

theorem SameMachine.refl (s : State) : SameMachine s s :=
  ⟨rfl, rfl, rfl, fun _ _ => rfl, rfl, fun _ => SameSole.refl _, rfl, rfl, rfl, rfl, rfl, rfl, rfl, rfl, rfl, rfl,
    SameDev.refl _, rfl, rfl, rfl, rfl⟩

theorem SameMachine.trans {s t u : State} (h : SameMachine s t) (k : SameMachine t u) : SameMachine s u :=
  ⟨k.cur.trans h.cur, k.agenda.trans h.agenda, k.mem.trans h.mem,
    fun q hq => (k.others q (by rw [h.cur]; exact hq)).trans (h.others q hq), k.uppers.trans h.uppers,
    fun n => (h.soles n).trans (k.soles n), k.parts.trans h.parts, k.launches.trans h.launches,
    k.nests.trans h.nests, k.queue.trans h.queue, k.yields.trans h.yields, k.cmds.trans h.cmds,
    k.rounds.trans h.rounds, k.flights.trans h.flights, k.holds.trans h.holds, k.saves.trans h.saves,
    h.dev.trans k.dev, k.free.trans h.free, k.uid.trans h.uid, k.tables.trans h.tables, k.pages.trans h.pages⟩

theorem SameContext.refl (m : Seq) : SameContext m m :=
  ⟨rfl, rfl, rfl, rfl, rfl, rfl, rfl, rfl, rfl, rfl, rfl, rfl, rfl, rfl, rfl, rfl, fun _ h => h, rfl, rfl, rfl, rfl⟩

theorem SameContext.trans {a b c : Seq} (h : SameContext a b) (k : SameContext b c) : SameContext a c :=
  ⟨k.vregs.trans h.vregs, k.masks.trans h.masks, k.vt.trans h.vt, k.grant.trans h.grant, k.ctl.trans h.ctl,
    k.strip.trans h.strip, k.truss.trans h.truss, k.pend.trans h.pend, k.mmarks.trans h.mmarks, k.work.trans h.work,
    k.level.trans h.level, k.age.trans h.age, k.held.trans h.held, k.fetched.trans h.fetched, k.window.trans h.window,
    k.openAt.trans h.openAt, fun r hr => h.tokens r (k.tokens r hr), k.marked.trans h.marked, k.shadow.trans h.shadow, k.trapSeq.trans h.trapSeq, k.ring.trans h.ring⟩

theorem SameMachine.due (s : State) : SameMachine s s.due :=
  ⟨rfl, rfl, rfl, fun _ _ => rfl, rfl, fun _ => SameSole.refl _, rfl, rfl, rfl, rfl, rfl, rfl, rfl, rfl, rfl, rfl,
    SameDev.refl _, rfl, rfl, rfl, rfl⟩

/-- Replacing the current sequencer changes nothing outside it. -/
theorem SameMachine.setMe (s : State) (m : Seq) : SameMachine s (s.setMe m) :=
  ⟨rfl, rfl, rfl, fun _ hq => State.seqAt_setSeq_other s m (Ne.symm hq), rfl, fun _ => SameSole.refl _, rfl, rfl, rfl, rfl,
    rfl, rfl, rfl, rfl, rfl, rfl, rfl, rfl, rfl, rfl, rfl⟩

/-- Replacing a sole by one with the same slots, rows and channel lines. -/
theorem SameMachine.setSole (s : State) (i : Nat) (x : Sole) (h : SameSole (s.soleAt i) x) :
    SameMachine s (s.setSole i x) := by
  refine ⟨rfl, rfl, rfl, fun _ _ => rfl, rfl, fun n => ?_, rfl, rfl, rfl, rfl, rfl, rfl, rfl, rfl, rfl, rfl, rfl, rfl, rfl,
    rfl, rfl⟩
  by_cases hn : i = n
  · subst hn
    rw [State.soleAt_setSole]
    exact h
  · have : (s.setSole i x).soleAt n = s.soleAt n := by
      simp [State.soleAt, State.setSole, SMap.find_put_other _ _ hn]
    rw [this]
    exact SameSole.refl _

/-! ### The error log and the checking positions -/

theorem SameMachine.logErr (s : State) (kind part cls num : Nat) (cont : Bool) (d1 d2 : Nat) :
    SameMachine s (s.logErr kind part cls num cont d1 d2) := by
  unfold State.logErr
  simp only []
  split <;>
    exact ⟨rfl, rfl, rfl, fun _ _ => rfl, rfl, fun _ => SameSole.refl _, rfl, rfl, rfl, rfl, rfl, rfl, rfl, rfl, rfl, rfl,
      rfl, rfl, rfl, rfl, rfl⟩

theorem State.logErr_seqs (s : State) (kind part cls num : Nat) (cont : Bool) (d1 d2 : Nat) :
    (s.logErr kind part cls num cont d1 d2).seqs = s.seqs := by
  unfold State.logErr
  simp only []
  split <;> rfl

theorem State.logErr_cur (s : State) (kind part cls num : Nat) (cont : Bool) (d1 d2 : Nat) :
    (s.logErr kind part cls num cont d1 d2).cur = s.cur := (SameMachine.logErr s kind part cls num cont d1 d2).cur

theorem SameMachine.logReplay (s : State) (v : Nat) (p : Pin) (n : Nat) (c : Bool) :
    SameMachine s (s.logReplay v p n c) := by
  unfold State.logReplay
  simp only []
  split
  · exact SameMachine.refl s
  · exact SameMachine.logErr ..

theorem State.logReplay_seqs (s : State) (v : Nat) (p : Pin) (n : Nat) (c : Bool) : (s.logReplay v p n c).seqs = s.seqs := by
  unfold State.logReplay
  simp only []
  split
  · rfl
  · exact State.logErr_seqs ..

/-- Replacing the checking positions changes nothing else. -/
theorem SameMachine.setChecks (s : State) (m : SMap Checks) : SameMachine s { s with checks := m } :=
  ⟨rfl, rfl, rfl, fun _ _ => rfl, rfl, fun _ => SameSole.refl _, rfl, rfl, rfl, rfl, rfl, rfl, rfl, rfl, rfl, rfl,
    SameDev.refl _, rfl, rfl, rfl, rfl⟩

/-- A fold of updates that each keep the machine keeps it. -/
theorem SameMachine.foldl {α : Type} {f : State → α → State} (hf : ∀ s x, SameMachine s (f s x)) (l : List α) (s : State) :
    SameMachine s (l.foldl f s) := by
  induction l generalizing s with
  | nil => exact SameMachine.refl s
  | cons x l ih => exact (hf s x).trans (ih _)

/-- A fold of updates that each keep every sequencer keeps them. -/
theorem State.foldl_seqs {α : Type} {f : State → α → State} (hf : ∀ s x, (f s x).seqs = s.seqs) (l : List α) (s : State) :
    (l.foldl f s).seqs = s.seqs := by
  induction l generalizing s with
  | nil => rfl
  | cons x l ih => exact (ih _).trans (hf s x)

theorem SameMachine.unpin (s : State) (home : Nat) : SameMachine s (s.unpin home) :=
  (SameMachine.setChecks s _).trans (SameMachine.foldl (fun s _ => SameMachine.logReplay s ..) _ _)

@[simp] theorem State.unpin_seqs (s : State) (home : Nat) : (s.unpin home).seqs = s.seqs :=
  State.foldl_seqs (fun s _ => State.logReplay_seqs s ..) _ _

@[simp] theorem State.unpin_me (s : State) (home : Nat) : (s.unpin home).me = s.me := by
  rw [State.me, State.seqAt, State.unpin_seqs, (SameMachine.unpin s home).cur]
  rfl

/-- The checking positions of the soles that perform a word advance, and nothing else changes (R172, R319). -/
theorem SameMachine.advanceChecks (s : State) (i : Instr) : SameMachine s (s.advanceChecks i) := by
  unfold State.advanceChecks
  split
  · exact SameMachine.foldl (fun s _ => SameMachine.setChecks s _) _ _
  · exact SameMachine.refl s

@[simp] theorem State.advanceChecks_seqs (s : State) (i : Instr) : (s.advanceChecks i).seqs = s.seqs := by
  unfold State.advanceChecks
  split
  · exact State.foldl_seqs (f := fun s v => s.setPos v _) (fun _ _ => rfl) _ _
  · rfl

@[simp] theorem State.advanceChecks_me (s : State) (i : Instr) : (s.advanceChecks i).me = s.me := by
  rw [State.me, State.seqAt, State.advanceChecks_seqs, (SameMachine.advanceChecks s i).cur]
  rfl

/-! ### Retiring a word -/

/-- Advancing past a word keeps everything but PC, loop stack and delay slots (R14, R92). -/
theorem Seq.advance_context (m : Seq) (f : Flow) :
    SameContext m (m.advance f).1 ∧ (m.advance f).1.regs = m.regs ∧ (m.advance f).1.mode = m.mode ∧
      (m.advance f).1.resv = m.resv := by
  unfold Seq.advance
  split
  · exact ⟨SameContext.refl _, rfl, rfl, rfl⟩
  all_goals
    repeat' split
    all_goals exact ⟨by constructor <;> first | rfl | exact fun _ h => h, rfl, rfl, rfl⟩

theorem State.stopIfAsked_cases (s : State) (k : Nat) :
    s.stopIfAsked k = s ∨
    (s.stopPending = true ∧ s.stopIfAsked k =
      s.setMe { s.me with
        mode := .stopped k, resv := none, replay := false, posted := none, late := []
        vregs := if k = 0 then Seq.reset.vregs else s.me.vregs }) := by
  unfold State.stopIfAsked
  split
  · exact .inr ⟨‹_›, rfl⟩
  · exact .inl rfl

/-- Retiring a word changes nothing outside the current sequencer but the checking positions and the error log. -/
theorem SameMachine.retire (s : State) (i : Instr) (f : Flow) : SameMachine s (s.retire i f) := by
  unfold State.retire
  simp only []
  generalize hA : s.setMe _ = A
  have hsA : SameMachine s A := hA ▸ SameMachine.setMe s _
  have hsB := hsA.trans (SameMachine.advanceChecks A i)
  generalize A.advanceChecks i = B at hsB ⊢
  generalize hC : (if B.me.strip = none then B.unpin s.me.pc.toNat else B) = C
  have hsC : SameMachine s C := by
    rw [← hC]
    split
    · exact hsB.trans (SameMachine.unpin ..)
    · exact hsB
  split
  · rcases State.stopIfAsked_cases C 2 with h | ⟨-, h⟩
    · rw [h]
      exact hsC
    · rw [h]
      exact hsC.trans (SameMachine.setMe ..)
  · exact hsC

/-- A stop is pending for the same reasons wherever the front end, the nests, the record and the entry window are the same. -/
theorem State.stopPending_congr {s t : State} (h : SameMachine s t) (hw : t.me.work = s.me.work)
    (hn : t.me.window = s.me.window) : t.stopPending = s.stopPending := by
  simp only [State.stopPending, State.upperAt, State.workCancelled, h.cur, h.uppers, h.nests, hw, hn]

/-- Retiring a word keeps the current sequencer's context and scalar registers; the mode changes only into a stop. -/
theorem State.retire_me (s : State) (i : Instr) (f : Flow) :
    SameContext s.me (s.retire i f).me ∧ (s.retire i f).me.regs = s.me.regs ∧
      (s.retire i f).me.pc = (s.me.advance f).1.pc ∧ (s.retire i f).me.loops = (s.me.advance f).1.loops ∧
      (s.retire i f).me.delay = (s.me.advance f).1.delay ∧
      (((s.retire i f).me.mode = s.me.mode ∧ (s.retire i f).me.resv = s.me.resv) ∨
        ((s.retire i f).me.mode = .stopped 2 ∧ (s.retire i f).me.resv = none ∧ (s.me.advance f).2 = true ∧
          s.me.strip = none ∧ s.stopPending = true)) := by
  obtain ⟨h1, h2, h3, h4⟩ := Seq.advance_context s.me f
  unfold State.retire
  simp only []
  generalize hA : s.setMe _ = A
  have hsA : SameMachine s A := hA ▸ SameMachine.setMe s _
  have hm : A.me = { (s.me.advance f).1 with
      dist := if f = .stay then (s.me.advance f).1.dist
        else stepDist (s.me.advance f).1.dist (instrInfo i).w (instrInfo i).dsts (instrInfo i).lat
      avail := if f = .stay then (s.me.advance f).1.avail
        else stepAvail (s.me.advance f).1.avail s.clock (instrInfo i).dsts (instrInfo i).lat
      ready := s.clock + 1 + (instrInfo i).w
      tokens := if givesToken i then (s.me.advance f).1.tokens
        else (s.me.advance f).1.tokens.filter (fun r => !(instrInfo i).dsts.contains r) } := by
    rw [← hA]
    exact State.me_setMe ..
  have hsB := hsA.trans (SameMachine.advanceChecks A i)
  have hmB : (A.advanceChecks i).me = A.me := State.advanceChecks_me ..
  generalize A.advanceChecks i = B at hsB hmB ⊢
  generalize hC : (if B.me.strip = none then B.unpin s.me.pc.toNat else B) = C
  have hsC : SameMachine s C := by
    rw [← hC]
    split
    · exact hsB.trans (SameMachine.unpin ..)
    · exact hsB
  have hmC : C.me = A.me := by
    rw [← hC]
    split
    · rw [State.unpin_me, hmB]
    · exact hmB
  have hs : A.me.strip = s.me.strip := by
    rw [hm]
    exact h1.strip
  have hp : C.stopPending = s.stopPending := by
    apply State.stopPending_congr hsC <;> rw [hmC, hm]
    · exact h1.work
    · exact h1.window
  have key : SameContext s.me C.me ∧ C.me.regs = s.me.regs ∧ C.me.pc = (s.me.advance f).1.pc ∧
      C.me.loops = (s.me.advance f).1.loops ∧ C.me.delay = (s.me.advance f).1.delay ∧ C.me.mode = s.me.mode ∧
      C.me.resv = s.me.resv := by
    have ht : ∀ r, r ∈ (if givesToken i then (s.me.advance f).1.tokens
        else (s.me.advance f).1.tokens.filter (fun r => !(instrInfo i).dsts.contains r)) → r ∈ (s.me.advance f).1.tokens := by
      intro r hr
      split at hr
      · exact hr
      · exact List.mem_of_mem_filter hr
    rw [hmC, hm]
    exact ⟨⟨h1.vregs, h1.masks, h1.vt, h1.grant, h1.ctl, h1.strip, h1.truss, h1.pend, h1.mmarks, h1.work, h1.level, h1.age,
      h1.held, h1.fetched, h1.window, h1.openAt,
      fun r hr => h1.tokens r (ht r hr), h1.marked, h1.shadow, h1.trapSeq, h1.ring⟩, h2, rfl, rfl, rfl, h3, h4⟩
  obtain ⟨k1, k2, k3, k4, k5, k6, k7⟩ := key
  split
  · rename_i hb
    rcases State.stopIfAsked_cases C 2 with h | ⟨hq, h⟩
    · rw [h]
      exact ⟨k1, k2, k3, k4, k5, .inl ⟨k6, k7⟩⟩
    · rw [h, State.me_setMe]
      refine ⟨⟨k1.vregs, k1.masks, k1.vt, k1.grant, k1.ctl, k1.strip, k1.truss, k1.pend, k1.mmarks, k1.work, k1.level,
        k1.age, k1.held, k1.fetched, k1.window, k1.openAt, k1.tokens, k1.marked, k1.shadow, k1.trapSeq, k1.ring⟩, k2, k3, k4, k5,
        .inr ⟨rfl, rfl, hb.1, ?_, hp ▸ hq⟩⟩
      rw [← hs, ← hmC]
      exact hb.2
  · exact ⟨k1, k2, k3, k4, k5, .inl ⟨k6, k7⟩⟩

end Sys2Proof.Machine
end

