-- ==== Sys2Proof/Laws/Trap.lean ====
section
/-!
SUPPORT. What taking a trap does (R98, R285, R289): it always writes one trap record, and no byte of memory.
-/

namespace Sys2Proof.Machine

@[simp] theorem State.negate_me (s : State) (p : Option Nat) : (s.negate p).me = s.me := by
  cases p <;> rfl

@[simp] theorem State.negate_cells (s : State) (p : Option Nat) : (s.negate p).mem.cells = s.mem.cells := by
  cases p <;> rfl

@[simp] theorem State.negate_cur (s : State) (p : Option Nat) : (s.negate p).cur = s.cur := by
  cases p <;> rfl

@[simp] theorem State.abandonStrip_cells (s : State) : s.abandonStrip.mem.cells = s.mem.cells := by
  unfold State.abandonStrip
  split <;> rfl

@[simp] theorem State.abandonStrip_cur (s : State) : s.abandonStrip.cur = s.cur := by
  unfold State.abandonStrip
  split <;> rfl

/-- The sequencer after a strip is abandoned: the checkpoint's registers, loops, grants, counters and sticky flags, no
strip, and no load ahead of a discarded store (R19); without a strip nothing changes. -/
theorem State.abandonStrip_me (s : State) :
    s.abandonStrip.me =
      match s.me.strip with
      | none => s.me
      | some st =>
        { s.me with
          regs := st.ck.regs, loops := st.ck.loops, grant := st.ck.grant,
          truss := { s.me.truss with tx := st.ck.tx }, strip := none,
          early := s.me.early.filter (fun e => !st.holds e.loc e.size), late := [], shapes := [],
          ctl := { s.me.ctl with status := withInstrip (withSticky s.me.ctl.status st.ck.flags) false } } := by
  cases hs : s.me.strip with
  | none => simp only [State.abandonStrip, hs]
  | some st => simp only [State.abandonStrip, hs, State.me_setMe]

@[simp] theorem State.record_me (s : State) (r : Nat → TrapRec) :
    (s.record r).me = { s.me with
      trapSeq := s.me.trapSeq + 1
      ring := (s.me.ring ++ [r (s.me.trapSeq + 1)]).drop (s.me.ring.length + 1 - Config.trapRing) } :=
  State.me_setMe ..

@[simp] theorem State.record_cells (s : State) (r : Nat → TrapRec) : (s.record r).mem.cells = s.mem.cells := rfl

@[simp] theorem State.record_cur (s : State) (r : Nat → TrapRec) : (s.record r).cur = s.cur := rfl

theorem State.abandonStrip_trapSeq (s : State) : s.abandonStrip.me.trapSeq = s.me.trapSeq := by
  rw [State.abandonStrip_me]
  split <;> rfl

theorem State.takeDoubleFault_me (s : State) (t : Trap) :
    (s.takeDoubleFault t).me.trapSeq = s.me.trapSeq + 1 ∧ (s.takeDoubleFault t).me.mode = .doubleFault ∧
      (s.takeDoubleFault t).mem.cells = s.mem.cells := by
  unfold State.takeDoubleFault
  simp only [State.record_me, State.me_setMe, State.record_cells, State.setMe_mem, State.abandonStrip_trapSeq,
    State.abandonStrip_cells, and_self]

/-- A trap always writes one record (R285, R289). -/
theorem State.takeTrap_trapSeq (s : State) (t : Trap) : (s.takeTrap t).me.trapSeq = s.me.trapSeq + 1 := by
  unfold State.takeTrap
  simp only []
  split
  · rw [(State.takeDoubleFault_me _ t).1, State.negate_me]
  · rw [State.me_setMe, State.record_me, State.abandonStrip_trapSeq, State.negate_me]

/-- A trap writes no byte of memory. -/
@[simp] theorem State.takeTrap_cells (s : State) (t : Trap) : (s.takeTrap t).mem.cells = s.mem.cells := by
  unfold State.takeTrap
  simp only []
  split
  · rw [(State.takeDoubleFault_me _ t).2.2, State.negate_cells]
  · rw [State.setMe_mem, State.record_cells, State.abandonStrip_cells, State.negate_cells]

/-- Holding the next issue changes the pace alone (R56). -/
@[simp] theorem State.holdIssue_me (s : State) (w : Nat) :
    (s.holdIssue w).me = { s.me with ready := s.clock + 1 + w } := State.me_setMe ..

@[simp] theorem State.holdIssue_cells (s : State) (w : Nat) : (s.holdIssue w).mem.cells = s.mem.cells := rfl

/-- A word that traps has written one record, or its access is held and it waits at its place (R301). -/
theorem State.stopWord_cases (s t : State) (x : Trap) (w : Nat) :
    s.stopWord t x w = { s with waited := true } ∨
      (s.stopWord t x w = (t.takeTrap x).holdIssue w ∧ (s.stopWord t x w).me.trapSeq = t.me.trapSeq + 1) := by
  unfold State.stopWord
  split
  · exact .inl rfl
  · exact .inr ⟨rfl, by rw [State.holdIssue_me, State.takeTrap_trapSeq]⟩

/-- A trap whose cause stands in R283 is taken, and the word's wait count holds the next issue (R56). -/
theorem State.stopWord_trap {s t : State} {x : Trap} (h : x.cause ≠ Cause.held) (w : Nat) :
    s.stopWord t x w = (t.takeTrap x).holdIssue w := if_neg h

/-- Retiring keeps the number of trap records. -/
theorem State.retire_trapSeq (s : State) (i : Instr) (f : Flow) : (s.retire i f).me.trapSeq = s.me.trapSeq :=
  (State.retire_me s i f).1.trapSeq

/-- A step of a word without a new trap record either waited, before or at its issue, or came through its meaning. -/
theorem issue_no_trap {s : State} {i : Instr} {group : VType → Bool} {body : State → Res}
    (h : (s.issue i group body).me.trapSeq = s.me.trapSeq) :
    s.issue i group body = { s with waited := true } ∨ s.issue i group body = { s.atIssue i with waited := true } ∨
      s.issue i group body = conclude (s.atIssue i) i (body (s.atIssue i)) := by
  rcases issue_cases s i group body with h1 | ⟨x, h1⟩ | h1
  · exact .inl h1
  · rcases State.stopWord_cases (s.atIssue i) (s.atIssue i) x (instrInfo i).w with h2 | ⟨-, h2⟩
    · exact .inr (.inl (h1.trans h2))
    · rw [h1, h2, State.atIssue_me] at h
      omega
  · exact .inr (.inr h1)

end Sys2Proof.Machine
end

