-- ==== Sys2Proof/Laws/Canonical.lean ====
section
/-!
SUPPORT. Every operation that changes memory keeps its canonical form: the sector writes of sequencers and other parties,
the writes of the hardware, the scrub and the move of a scratchpad, and what a reset keeps.
-/

namespace Sys2Proof.Machine

set_option Elab.async false

theorem wfFrom_filter {m : List Host.Cell} {lo : Nat} (p : Host.Cell → Bool) (w : wfFrom lo m = true) :
    wfFrom lo (m.filter p) = true := by
  induction m generalizing lo with
  | nil => rfl
  | cons c t ih =>
    obtain ⟨x, y⟩ := c
    simp only [wfFrom, Bool.and_eq_true] at w
    rw [List.filter_cons]
    split
    · simp only [wfFrom, Bool.and_eq_true]
      exact ⟨w.1, ih w.2⟩
    · exact wfFrom_mono (by have := w.1.1; simp only [decide_eq_true_eq] at this; omega) (ih w.2)

theorem wf_filter {m : List Host.Cell} (p : Host.Cell → Bool) (w : Memory.wf m = true) : Memory.wf (m.filter p) = true :=
  wfFrom_filter p w

theorem wf_foldl_cellPut (l : List Host.Cell) (d : Nat → Nat) (m : List Host.Cell) (w : Memory.wf m = true) :
    Memory.wf (l.foldl (fun m c => cellPut m (d c.1) c.2) m) = true := by
  induction l generalizing m with
  | nil => exact w
  | cons c t ih => exact ih _ (wf_cellPut _ _ w)

theorem State.logErr_cells (s : State) (kind part cls num : Nat) (cont : Bool) (d1 d2 : Nat) :
    (s.logErr kind part cls num cont d1 d2).mem.cells = s.mem.cells := by
  have h := (SameMachine.logErr s kind part cls num cont d1 d2)
  rw [h.mem]

/-- A state with the same cells has the same form. -/
theorem State.MemoryOk.of_cells {s t : State} (h : s.MemoryOk) (e : t.mem.cells = s.mem.cells) : t.MemoryOk := by
  unfold State.MemoryOk
  rw [e]
  exact h

theorem State.MemoryOk.writeSector {s : State} (h : s.MemoryOk) (by_ sec : Nat) (en : BitVec 32) (data : BitVec 256) :
    (s.writeSector by_ sec en data).MemoryOk := by
  unfold State.writeSector
  split
  · exact h
  · exact wf_sectorCells _ _ _ _ _ h

theorem State.MemoryOk.pokeAs {s : State} (h : s.MemoryOk) (by_ loc n v : Nat) : (s.pokeAs by_ loc n v).MemoryOk :=
  wf_cellsPut _ _ _ h

theorem State.MemoryOk.poke {s : State} (h : s.MemoryOk) (loc n v : Nat) : (s.poke loc n v).MemoryOk := h.pokeAs ..

theorem State.MemoryOk.pokeMine {s : State} (h : s.MemoryOk) (loc n v : Nat) : (s.pokeMine loc n v).MemoryOk := h.pokeAs ..

/-- A word's own write of memory keeps the form, whatever it writes. -/
theorem State.MemoryOk.asMine {s : State} {f : State → State} (h : (f s.mine).MemoryOk) : (s.asMine f).MemoryOk := h

theorem State.MemoryOk.hwWrite {s : State} (h : s.MemoryOk) (u part va align n v : Nat) :
    (s.hwWrite u part va align n v).MemoryOk := by
  unfold State.hwWrite
  split
  · refine h.of_cells ?_
    unfold State.logHw
    rw [State.logErr_cells, State.negate_cells]
  · exact h.poke _ _ _

theorem State.MemoryOk.putSectors {s : State} (h : s.MemoryOk) (by_ : Nat) (l : List (Nat × BufSector)) :
    (l.foldl (fun s x => s.writeSector by_ x.1 x.2.en x.2.data) s).MemoryOk := by
  induction l generalizing s with
  | nil => exact h
  | cons x t ih => exact ih (h.writeSector _ _ _ _)

theorem State.hashInto_cells (s : State) (launch serial : Nat) (bs : List Byte) :
    (s.hashInto launch serial bs).mem.cells = s.mem.cells := by
  unfold State.hashInto
  split <;> rfl

theorem State.hashMine_cells (s : State) (bs : List Byte) : (s.hashMine bs).mem.cells = s.mem.cells := by
  unfold State.hashMine
  split
  · exact State.hashInto_cells ..
  · rfl

theorem State.MemoryOk.commitSectors {s : State} (h : s.MemoryOk) (b : SMap BufSector) : (s.commitSectors b).MemoryOk := by
  unfold State.commitSectors
  generalize b.foldl byVa [] = l
  induction l generalizing s with
  | nil => exact h
  | cons x t ih =>
    obtain ⟨sec, e⟩ := x
    rw [List.foldl_cons]
    refine ih ?_
    dsimp only
    split
    · exact h
    · exact (h.writeSector _ _ _ _).of_cells (State.hashMine_cells _ _)

theorem State.MemoryOk.scrubSole {s : State} (h : s.MemoryOk) (image : Nat) : (s.scrubSole image).MemoryOk := wf_filter _ h

theorem State.MemoryOk.copyImage {s : State} (h : s.MemoryOk) (a b : Nat) : (s.copyImage a b).MemoryOk :=
  wf_foldl_cellPut _ (fun loc => padLoc b (loc - padLoc a 0)) _ (h.scrubSole b)

theorem State.MemoryOk.moveImage {s : State} (h : s.MemoryOk) (a b : Nat) : (s.moveImage a b).MemoryOk := by
  unfold State.moveImage
  split
  · exact h
  · exact (h.copyImage a b).scrubSole a

theorem State.MemoryOk.startImages {s : State} (h : s.MemoryOk) (k : Nat) (remap : List Nat) : (s.startImages k remap).MemoryOk := by
  unfold State.startImages
  generalize remap.zipIdx = l
  induction l generalizing s with
  | nil => exact h
  | cons x t ih => exact ih ((h.copyImage x.1 _).of_cells rfl)

/-- A write that other parties come to see keeps the form. -/
theorem State.MemoryOk.landPiece {s : State} (h : s.MemoryOk) (q : Nat) (p : Unseen) (rest : List Unseen) :
    (s.landPiece q p rest).MemoryOk := by
  unfold State.landPiece
  simp only []
  split <;> exact (h.writeSector _ _ _ _).of_cells rfl

theorem State.MemoryOk.landAll {s : State} (h : s.MemoryOk) (q : Nat) (stay l : List Unseen) : (s.landAll q stay l).MemoryOk := by
  induction l generalizing s with
  | nil => exact h
  | cons p t ih => exact ih (h.landPiece q p _)

theorem State.MemoryOk.drainSeq {s : State} (h : s.MemoryOk) (q : Nat) : (s.drainSeq q).MemoryOk := h.landAll ..

theorem State.MemoryOk.landHit {s : State} (h : s.MemoryOk) (q : Nat) (hit : Unseen → Bool) : (s.landHit q hit).MemoryOk := by
  unfold State.landHit
  exact h.landAll ..

theorem State.MemoryOk.clearPages {s : State} (h : s.MemoryOk) (pa n : Nat) : (s.clearPages pa n).MemoryOk := wf_filter _ h

theorem State.MemoryOk.moveBytes {s : State} (h : s.MemoryOk) (a b n : Nat) : (s.moveBytes a b n).MemoryOk :=
  wf_foldl_cellPut _ (fun x => b + (x - a)) _ ((h.clearPages a n).clearPages b n)

theorem State.MemoryOk.savePad {s : State} (h : s.MemoryOk) (image j base : Nat) : (s.savePad image j base).MemoryOk :=
  wf_foldl_cellPut _ (fun x => base + (x - padLoc image (1048576 * j))) _ h

theorem wf_keptCells {m : List Host.Cell} (w : Memory.wf m = true) : Memory.wf (keptCells m) = true := wf_filter _ w

end Sys2Proof.Machine
end

