-- ==== Sys2Proof/Laws/Encoding.lean ====
section
/-!
SUPPORT. The fields of an encoded word (R53): what each reader of Decode finds in the word that each writer makes, and
which function decodes each major opcode (R60).
-/

namespace Sys2Proof

set_option Elab.async false

/-- A word whose major opcode is neither 0 nor 63 is neither all zeros nor all ones (R60). -/
theorem fMajor_not_always {x m : Nat} (h : fMajor x = m) (h0 : 0 < m) (h1 : m < 63) : ¬(x = 0 ∨ x = 0xFFFFFFFF) := by
  unfold fMajor at h
  omega

theorem decodeWord_01 {x : Nat} (h : fMajor x = 0x01) : decodeWord x = decode01 x := by
  simp only [decodeWord, if_neg (fMajor_not_always h (by decide) (by decide)), h]

theorem decodeWord_02 {x : Nat} (h : fMajor x = 0x02) : decodeWord x = decode02 x := by
  simp only [decodeWord, if_neg (fMajor_not_always h (by decide) (by decide)), h]

theorem decodeWord_03 {x : Nat} (h : fMajor x = 0x03) : decodeWord x = .ok (.addi (ImmI.get x)) := by
  simp only [decodeWord, if_neg (fMajor_not_always h (by decide) (by decide)), h]

theorem decodeWord_04 {x : Nat} (h : fMajor x = 0x04) : decodeWord x = .ok (.andi (ImmI.get x)) := by
  simp only [decodeWord, if_neg (fMajor_not_always h (by decide) (by decide)), h]

theorem decodeWord_05 {x : Nat} (h : fMajor x = 0x05) : decodeWord x = .ok (.ori (ImmI.get x)) := by
  simp only [decodeWord, if_neg (fMajor_not_always h (by decide) (by decide)), h]

theorem decodeWord_06 {x : Nat} (h : fMajor x = 0x06) : decodeWord x = .ok (.xori (ImmI.get x)) := by
  simp only [decodeWord, if_neg (fMajor_not_always h (by decide) (by decide)), h]

theorem decodeWord_07 {x : Nat} (h : fMajor x = 0x07) : decodeWord x = .ok (.lih (ImmJ.get x)) := by
  simp only [decodeWord, if_neg (fMajor_not_always h (by decide) (by decide)), h]

theorem decodeWord_08 {x : Nat} (h : fMajor x = 0x08) : decodeWord x = decode08 x := by
  simp only [decodeWord, if_neg (fMajor_not_always h (by decide) (by decide)), h]

theorem decodeWord_09 {x : Nat} (h : fMajor x = 0x09) : decodeWord x = decode09 x := by
  simp only [decodeWord, if_neg (fMajor_not_always h (by decide) (by decide)), h]

theorem decodeWord_0A {x : Nat} (h : fMajor x = 0x0A) : decodeWord x = .ok (.ldd (ImmI.get x)) := by
  simp only [decodeWord, if_neg (fMajor_not_always h (by decide) (by decide)), h]

theorem decodeWord_0B {x : Nat} (h : fMajor x = 0x0B) : decodeWord x = .ok (.ldw (ImmI.get x)) := by
  simp only [decodeWord, if_neg (fMajor_not_always h (by decide) (by decide)), h]

theorem decodeWord_0C {x : Nat} (h : fMajor x = 0x0C) : decodeWord x = .ok (.ldwn (ImmI.get x)) := by
  simp only [decodeWord, if_neg (fMajor_not_always h (by decide) (by decide)), h]

theorem decodeWord_0D {x : Nat} (h : fMajor x = 0x0D) : decodeWord x = .ok (.std (ImmB.get x)) := by
  simp only [decodeWord, if_neg (fMajor_not_always h (by decide) (by decide)), h]

theorem decodeWord_0E {x : Nat} (h : fMajor x = 0x0E) : decodeWord x = .ok (.stw (ImmB.get x)) := by
  simp only [decodeWord, if_neg (fMajor_not_always h (by decide) (by decide)), h]

theorem decodeWord_0F {x : Nat} (h : fMajor x = 0x0F) : decodeWord x = decode0F x := by
  simp only [decodeWord, if_neg (fMajor_not_always h (by decide) (by decide)), h]

theorem decodeWord_10 {x : Nat} (h : fMajor x = 0x10) : decodeWord x = .ok (.beq (ImmB.get x)) := by
  simp only [decodeWord, if_neg (fMajor_not_always h (by decide) (by decide)), h]

theorem decodeWord_11 {x : Nat} (h : fMajor x = 0x11) : decodeWord x = .ok (.bne (ImmB.get x)) := by
  simp only [decodeWord, if_neg (fMajor_not_always h (by decide) (by decide)), h]

theorem decodeWord_12 {x : Nat} (h : fMajor x = 0x12) : decodeWord x = .ok (.blt (ImmB.get x)) := by
  simp only [decodeWord, if_neg (fMajor_not_always h (by decide) (by decide)), h]

theorem decodeWord_13 {x : Nat} (h : fMajor x = 0x13) : decodeWord x = .ok (.bge (ImmB.get x)) := by
  simp only [decodeWord, if_neg (fMajor_not_always h (by decide) (by decide)), h]

theorem decodeWord_14 {x : Nat} (h : fMajor x = 0x14) : decodeWord x = .ok (.bltn (ImmB.get x)) := by
  simp only [decodeWord, if_neg (fMajor_not_always h (by decide) (by decide)), h]

theorem decodeWord_15 {x : Nat} (h : fMajor x = 0x15) : decodeWord x = .ok (.bgen (ImmB.get x)) := by
  simp only [decodeWord, if_neg (fMajor_not_always h (by decide) (by decide)), h]

theorem decodeWord_16 {x : Nat} (h : fMajor x = 0x16) : decodeWord x = .ok (.jal (ImmJ.get x)) := by
  simp only [decodeWord, if_neg (fMajor_not_always h (by decide) (by decide)), h]

theorem decodeWord_17 {x : Nat} (h : fMajor x = 0x17) : decodeWord x = decode17 x := by
  simp only [decodeWord, if_neg (fMajor_not_always h (by decide) (by decide)), h]

theorem decodeWord_18 {x : Nat} (h : fMajor x = 0x18) : decodeWord x = unusedZero (zD x) (.loop (LoopR.get x)) := by
  simp only [decodeWord, if_neg (fMajor_not_always h (by decide) (by decide)), h]

theorem decodeWord_19 {x : Nat} (h : fMajor x = 0x19) : decodeWord x = .ok (.loopi (LoopI.get x)) := by
  simp only [decodeWord, if_neg (fMajor_not_always h (by decide) (by decide)), h]

theorem decodeWord_1A {x : Nat} (h : fMajor x = 0x1A) : decodeWord x = decode1A x := by
  simp only [decodeWord, if_neg (fMajor_not_always h (by decide) (by decide)), h]

theorem decodeWord_1B {x : Nat} (h : fMajor x = 0x1B) : decodeWord x = decode1B x := by
  simp only [decodeWord, if_neg (fMajor_not_always h (by decide) (by decide)), h]

theorem decodeWord_1C {x : Nat} (h : fMajor x = 0x1C) : decodeWord x = decode1C x := by
  simp only [decodeWord, if_neg (fMajor_not_always h (by decide) (by decide)), h]

theorem decodeWord_1D {x : Nat} (h : fMajor x = 0x1D) : decodeWord x = decode1D x := by
  simp only [decodeWord, if_neg (fMajor_not_always h (by decide) (by decide)), h]

theorem decodeWord_1E {x : Nat} (h : fMajor x = 0x1E) : decodeWord x = decode1E x := by
  simp only [decodeWord, if_neg (fMajor_not_always h (by decide) (by decide)), h]

theorem decodeWord_1F {x : Nat} (h : fMajor x = 0x1F) : decodeWord x = decode1F x := by
  simp only [decodeWord, if_neg (fMajor_not_always h (by decide) (by decide)), h]

theorem decodeWord_20 {x : Nat} (h : fMajor x = 0x20) : decodeWord x = decode20 x := by
  simp only [decodeWord, if_neg (fMajor_not_always h (by decide) (by decide)), h]

theorem decodeWord_21 {x : Nat} (h : fMajor x = 0x21) : decodeWord x = decode21 x := by
  simp only [decodeWord, if_neg (fMajor_not_always h (by decide) (by decide)), h]

theorem decodeWord_22 {x : Nat} (h : fMajor x = 0x22) : decodeWord x = decode22 x := by
  simp only [decodeWord, if_neg (fMajor_not_always h (by decide) (by decide)), h]

theorem decodeWord_23 {x : Nat} (h : fMajor x = 0x23) : decodeWord x = decode23 x := by
  simp only [decodeWord, if_neg (fMajor_not_always h (by decide) (by decide)), h]

theorem decodeWord_24 {x : Nat} (h : fMajor x = 0x24) : decodeWord x = decode24 x := by
  simp only [decodeWord, if_neg (fMajor_not_always h (by decide) (by decide)), h]

theorem decodeWord_25 {x : Nat} (h : fMajor x = 0x25) : decodeWord x = decode25 x := by
  simp only [decodeWord, if_neg (fMajor_not_always h (by decide) (by decide)), h]

theorem decodeWord_26 {x : Nat} (h : fMajor x = 0x26) : decodeWord x = decode26 x := by
  simp only [decodeWord, if_neg (fMajor_not_always h (by decide) (by decide)), h]

theorem decodeWord_27 {x : Nat} (h : fMajor x = 0x27) : decodeWord x = decode27 x := by
  simp only [decodeWord, if_neg (fMajor_not_always h (by decide) (by decide)), h]

theorem decodeWord_28 {x : Nat} (h : fMajor x = 0x28) : decodeWord x = decode28 x := by
  simp only [decodeWord, if_neg (fMajor_not_always h (by decide) (by decide)), h]

theorem decodeWord_29 {x : Nat} (h : fMajor x = 0x29) : decodeWord x = decode29 x := by
  simp only [decodeWord, if_neg (fMajor_not_always h (by decide) (by decide)), h]

theorem decodeWord_2A {x : Nat} (h : fMajor x = 0x2A) : decodeWord x = decode2A x := by
  simp only [decodeWord, if_neg (fMajor_not_always h (by decide) (by decide)), h]

theorem decodeWord_2B {x : Nat} (h : fMajor x = 0x2B) : decodeWord x = decode2B x := by
  simp only [decodeWord, if_neg (fMajor_not_always h (by decide) (by decide)), h]

theorem decodeWord_2C {x : Nat} (h : fMajor x = 0x2C) : decodeWord x = decode2C x := by
  simp only [decodeWord, if_neg (fMajor_not_always h (by decide) (by decide)), h]

theorem decodeWord_2D {x : Nat} (h : fMajor x = 0x2D) : decodeWord x = decode2D x := by
  simp only [decodeWord, if_neg (fMajor_not_always h (by decide) (by decide)), h]

theorem decodeWord_2E {x : Nat} (h : fMajor x = 0x2E) : decodeWord x = decode2E x := by
  simp only [decodeWord, if_neg (fMajor_not_always h (by decide) (by decide)), h]

theorem decodeWord_2F {x : Nat} (h : fMajor x = 0x2F) : decodeWord x = decode2F x := by
  simp only [decodeWord, if_neg (fMajor_not_always h (by decide) (by decide)), h]

theorem decodeWord_30 {x : Nat} (h : fMajor x = 0x30) : decodeWord x = decode30 x := by
  simp only [decodeWord, if_neg (fMajor_not_always h (by decide) (by decide)), h]

theorem decodeWord_31 {x : Nat} (h : fMajor x = 0x31) : decodeWord x = decode31 x := by
  simp only [decodeWord, if_neg (fMajor_not_always h (by decide) (by decide)), h]

theorem decodeWord_32 {x : Nat} (h : fMajor x = 0x32) : decodeWord x = decode32 x := by
  simp only [decodeWord, if_neg (fMajor_not_always h (by decide) (by decide)), h]

theorem decodeWord_33 {x : Nat} (h : fMajor x = 0x33) : decodeWord x = decode33 x := by
  simp only [decodeWord, if_neg (fMajor_not_always h (by decide) (by decide)), h]

theorem decodeWord_34 {x : Nat} (h : fMajor x = 0x34) : decodeWord x = decode34 x := by
  simp only [decodeWord, if_neg (fMajor_not_always h (by decide) (by decide)), h]

theorem decodeWord_35 {x : Nat} (h : fMajor x = 0x35) : decodeWord x = decode35 x := by
  simp only [decodeWord, if_neg (fMajor_not_always h (by decide) (by decide)), h]

theorem decodeWord_36 {x : Nat} (h : fMajor x = 0x36) : decodeWord x = decode36 x := by
  simp only [decodeWord, if_neg (fMajor_not_always h (by decide) (by decide)), h]

theorem decodeWord_37 {x : Nat} (h : fMajor x = 0x37) : decodeWord x = decode37 x := by
  simp only [decodeWord, if_neg (fMajor_not_always h (by decide) (by decide)), h]

theorem decodeWord_38 {x : Nat} (h : fMajor x = 0x38) : decodeWord x = decode38 x := by
  simp only [decodeWord, if_neg (fMajor_not_always h (by decide) (by decide)), h]

theorem decodeWord_39 {x : Nat} (h : fMajor x = 0x39) : decodeWord x = decode39 x := by
  simp only [decodeWord, if_neg (fMajor_not_always h (by decide) (by decide)), h]

theorem decodeWord_3A {x : Nat} (h : fMajor x = 0x3A) : decodeWord x = decode3A x := by
  simp only [decodeWord, if_neg (fMajor_not_always h (by decide) (by decide)), h]

theorem R3.put_law {maj fn : Nat} (f : R3) (hm : maj < 64) (hf : fn < 256) :
    fMajor (R3.put maj fn f) = maj ∧
    fn8 (R3.put maj fn f) = fn ∧
    fn5 (R3.put maj fn f) = fn % 32 ∧
    zMask (R3.put maj fn f) = (fn / 32 % 8 == 0) ∧
    R3.get (R3.put maj fn f) = f := by
  obtain ⟨w, d, a, b⟩ := f
  have hw := w.isLt
  have hd := d.isLt
  have ha := a.isLt
  have hb := b.isLt
  refine ⟨?_, ?_, ?_, ?_, ?_⟩
  · simp only [fMajor, R3.put, wordHead]
    omega
  · simp only [fn8, R3.put, wordHead]
    omega
  · simp only [fn5, R3.put, wordHead]
    omega
  · refine congrArg (fun n => n == 0) ?_
    simp only [R3.put, wordHead]
    omega
  · rw [R3.get, R3.mk.injEq]
    refine ⟨?_, ?_, ?_, ?_⟩
    · refine Fin.ext ?_
      simp only [fW, R3.put, wordHead]
      omega
    · refine Fin.ext ?_
      simp only [f22, R3.put, wordHead]
      omega
    · refine Fin.ext ?_
      simp only [f17, R3.put, wordHead]
      omega
    · refine Fin.ext ?_
      simp only [f12, R3.put, wordHead]
      omega

theorem R2.put_law {maj fn : Nat} (f : R2) (hm : maj < 64) (hf : fn < 256) :
    fMajor (R2.put maj fn f) = maj ∧
    fn8 (R2.put maj fn f) = fn ∧
    fn5 (R2.put maj fn f) = fn % 32 ∧
    zMask (R2.put maj fn f) = (fn / 32 % 8 == 0) ∧
    zB (R2.put maj fn f) = true ∧
    R2.get (R2.put maj fn f) = f := by
  obtain ⟨w, d, a⟩ := f
  have hw := w.isLt
  have hd := d.isLt
  have ha := a.isLt
  refine ⟨?_, ?_, ?_, ?_, ?_, ?_⟩
  · simp only [fMajor, R2.put, wordHead]
    omega
  · simp only [fn8, R2.put, wordHead]
    omega
  · simp only [fn5, R2.put, wordHead]
    omega
  · refine congrArg (fun n => n == 0) ?_
    simp only [R2.put, wordHead]
    omega
  · refine beq_iff_eq.mpr ?_
    simp only [R2.put, wordHead]
    omega
  · rw [R2.get, R2.mk.injEq]
    refine ⟨?_, ?_, ?_⟩
    · refine Fin.ext ?_
      simp only [fW, R2.put, wordHead]
      omega
    · refine Fin.ext ?_
      simp only [f22, R2.put, wordHead]
      omega
    · refine Fin.ext ?_
      simp only [f17, R2.put, wordHead]
      omega

theorem Pair.put_law {maj fn : Nat} (f : Pair) (hm : maj < 64) (hf : fn < 256) :
    fMajor (Pair.put maj fn f) = maj ∧
    fn8 (Pair.put maj fn f) = fn ∧
    fn5 (Pair.put maj fn f) = fn % 32 ∧
    zMask (Pair.put maj fn f) = (fn / 32 % 8 == 0) ∧
    zD (Pair.put maj fn f) = true ∧
    Pair.get (Pair.put maj fn f) = f := by
  obtain ⟨w, a, b⟩ := f
  have hw := w.isLt
  have ha := a.isLt
  have hb := b.isLt
  refine ⟨?_, ?_, ?_, ?_, ?_, ?_⟩
  · simp only [fMajor, Pair.put, wordHead]
    omega
  · simp only [fn8, Pair.put, wordHead]
    omega
  · simp only [fn5, Pair.put, wordHead]
    omega
  · refine congrArg (fun n => n == 0) ?_
    simp only [Pair.put, wordHead]
    omega
  · refine beq_iff_eq.mpr ?_
    simp only [Pair.put, wordHead]
    omega
  · rw [Pair.get, Pair.mk.injEq]
    refine ⟨?_, ?_, ?_⟩
    · refine Fin.ext ?_
      simp only [fW, Pair.put, wordHead]
      omega
    · refine Fin.ext ?_
      simp only [f17, Pair.put, wordHead]
      omega
    · refine Fin.ext ?_
      simp only [f12, Pair.put, wordHead]
      omega

theorem Dst.put_law {maj fn : Nat} (f : Dst) (hm : maj < 64) (hf : fn < 256) :
    fMajor (Dst.put maj fn f) = maj ∧
    fn8 (Dst.put maj fn f) = fn ∧
    fn5 (Dst.put maj fn f) = fn % 32 ∧
    zMask (Dst.put maj fn f) = (fn / 32 % 8 == 0) ∧
    zA (Dst.put maj fn f) = true ∧
    zB (Dst.put maj fn f) = true ∧
    Dst.get (Dst.put maj fn f) = f := by
  obtain ⟨w, d⟩ := f
  have hw := w.isLt
  have hd := d.isLt
  refine ⟨?_, ?_, ?_, ?_, ?_, ?_, ?_⟩
  · simp only [fMajor, Dst.put, wordHead]
    omega
  · simp only [fn8, Dst.put, wordHead]
    omega
  · simp only [fn5, Dst.put, wordHead]
    omega
  · refine congrArg (fun n => n == 0) ?_
    simp only [Dst.put, wordHead]
    omega
  · refine beq_iff_eq.mpr ?_
    simp only [Dst.put, wordHead]
    omega
  · refine beq_iff_eq.mpr ?_
    simp only [Dst.put, wordHead]
    omega
  · rw [Dst.get, Dst.mk.injEq]
    refine ⟨?_, ?_⟩
    · refine Fin.ext ?_
      simp only [fW, Dst.put, wordHead]
      omega
    · refine Fin.ext ?_
      simp only [f22, Dst.put, wordHead]
      omega

theorem DstB.put_law {maj fn : Nat} (f : DstB) (hm : maj < 64) (hf : fn < 256) :
    fMajor (DstB.put maj fn f) = maj ∧
    fn8 (DstB.put maj fn f) = fn ∧
    fn5 (DstB.put maj fn f) = fn % 32 ∧
    zMask (DstB.put maj fn f) = (fn / 32 % 8 == 0) ∧
    zA (DstB.put maj fn f) = true ∧
    DstB.get (DstB.put maj fn f) = f := by
  obtain ⟨w, d, b⟩ := f
  have hw := w.isLt
  have hd := d.isLt
  have hb := b.isLt
  refine ⟨?_, ?_, ?_, ?_, ?_, ?_⟩
  · simp only [fMajor, DstB.put, wordHead]
    omega
  · simp only [fn8, DstB.put, wordHead]
    omega
  · simp only [fn5, DstB.put, wordHead]
    omega
  · refine congrArg (fun n => n == 0) ?_
    simp only [DstB.put, wordHead]
    omega
  · refine beq_iff_eq.mpr ?_
    simp only [DstB.put, wordHead]
    omega
  · rw [DstB.get, DstB.mk.injEq]
    refine ⟨?_, ?_, ?_⟩
    · refine Fin.ext ?_
      simp only [fW, DstB.put, wordHead]
      omega
    · refine Fin.ext ?_
      simp only [f22, DstB.put, wordHead]
      omega
    · refine Fin.ext ?_
      simp only [f12, DstB.put, wordHead]
      omega

theorem Bare.put_law {maj fn : Nat} (f : Bare) (hm : maj < 64) (hf : fn < 256) :
    fMajor (Bare.put maj fn f) = maj ∧
    fn8 (Bare.put maj fn f) = fn ∧
    fSel (Bare.put maj fn f) = fn ∧
    zD (Bare.put maj fn f) = true ∧
    zA (Bare.put maj fn f) = true ∧
    zB (Bare.put maj fn f) = true ∧
    zDA (Bare.put maj fn f) = true ∧
    Bare.get (Bare.put maj fn f) = f := by
  obtain ⟨w⟩ := f
  have hw := w.isLt
  refine ⟨?_, ?_, ?_, ?_, ?_, ?_, ?_, ?_⟩
  · simp only [fMajor, Bare.put, wordHead]
    omega
  · simp only [fn8, Bare.put, wordHead]
    omega
  · simp only [fSel, Bare.put, wordHead]
    omega
  · refine beq_iff_eq.mpr ?_
    simp only [Bare.put, wordHead]
    omega
  · refine beq_iff_eq.mpr ?_
    simp only [Bare.put, wordHead]
    omega
  · refine beq_iff_eq.mpr ?_
    simp only [Bare.put, wordHead]
    omega
  · refine beq_iff_eq.mpr ?_
    simp only [Bare.put, wordHead]
    omega
  · rw [Bare.get, Bare.mk.injEq]
    skip
    · refine Fin.ext ?_
      simp only [fW, Bare.put, wordHead]
      omega

theorem V3.put_law {maj fn : Nat} (f : V3) (hm : maj < 64) (hf : fn < 32) :
    fMajor (V3.put maj fn f) = maj ∧
    fn5 (V3.put maj fn f) = fn % 32 ∧
    V3.get (V3.put maj fn f) = f := by
  obtain ⟨w, d, a, b, m⟩ := f
  have hw := w.isLt
  have hd := d.isLt
  have ha := a.isLt
  have hb := b.isLt
  have hm := m.isLt
  refine ⟨?_, ?_, ?_⟩
  · simp only [fMajor, V3.put, wordHead]
    omega
  · simp only [fn5, V3.put, wordHead]
    omega
  · rw [V3.get, V3.mk.injEq]
    refine ⟨?_, ?_, ?_, ?_, ?_⟩
    · refine Fin.ext ?_
      simp only [fW, V3.put, wordHead]
      omega
    · refine Fin.ext ?_
      simp only [f22, V3.put, wordHead]
      omega
    · refine Fin.ext ?_
      simp only [f17, V3.put, wordHead]
      omega
    · refine Fin.ext ?_
      simp only [f12, V3.put, wordHead]
      omega
    · refine Fin.ext ?_
      simp only [fMask, V3.put, wordHead]
      omega

theorem V2.put_law {maj fn : Nat} (f : V2) (hm : maj < 64) (hf : fn < 32) :
    fMajor (V2.put maj fn f) = maj ∧
    fn5 (V2.put maj fn f) = fn % 32 ∧
    zB (V2.put maj fn f) = true ∧
    V2.get (V2.put maj fn f) = f := by
  obtain ⟨w, d, a, m⟩ := f
  have hw := w.isLt
  have hd := d.isLt
  have ha := a.isLt
  have hm := m.isLt
  refine ⟨?_, ?_, ?_, ?_⟩
  · simp only [fMajor, V2.put, wordHead]
    omega
  · simp only [fn5, V2.put, wordHead]
    omega
  · refine beq_iff_eq.mpr ?_
    simp only [V2.put, wordHead]
    omega
  · rw [V2.get, V2.mk.injEq]
    refine ⟨?_, ?_, ?_, ?_⟩
    · refine Fin.ext ?_
      simp only [fW, V2.put, wordHead]
      omega
    · refine Fin.ext ?_
      simp only [f22, V2.put, wordHead]
      omega
    · refine Fin.ext ?_
      simp only [f17, V2.put, wordHead]
      omega
    · refine Fin.ext ?_
      simp only [fMask, V2.put, wordHead]
      omega

theorem VB.put_law {maj fn : Nat} (f : VB) (hm : maj < 64) (hf : fn < 32) :
    fMajor (VB.put maj fn f) = maj ∧
    fn5 (VB.put maj fn f) = fn % 32 ∧
    zA (VB.put maj fn f) = true ∧
    VB.get (VB.put maj fn f) = f := by
  obtain ⟨w, d, b, m⟩ := f
  have hw := w.isLt
  have hd := d.isLt
  have hb := b.isLt
  have hm := m.isLt
  refine ⟨?_, ?_, ?_, ?_⟩
  · simp only [fMajor, VB.put, wordHead]
    omega
  · simp only [fn5, VB.put, wordHead]
    omega
  · refine beq_iff_eq.mpr ?_
    simp only [VB.put, wordHead]
    omega
  · rw [VB.get, VB.mk.injEq]
    refine ⟨?_, ?_, ?_, ?_⟩
    · refine Fin.ext ?_
      simp only [fW, VB.put, wordHead]
      omega
    · refine Fin.ext ?_
      simp only [f22, VB.put, wordHead]
      omega
    · refine Fin.ext ?_
      simp only [f12, VB.put, wordHead]
      omega
    · refine Fin.ext ?_
      simp only [fMask, VB.put, wordHead]
      omega

theorem V1.put_law {maj fn : Nat} (f : V1) (hm : maj < 64) (hf : fn < 32) :
    fMajor (V1.put maj fn f) = maj ∧
    fn5 (V1.put maj fn f) = fn % 32 ∧
    zA (V1.put maj fn f) = true ∧
    zB (V1.put maj fn f) = true ∧
    V1.get (V1.put maj fn f) = f := by
  obtain ⟨w, d, m⟩ := f
  have hw := w.isLt
  have hd := d.isLt
  have hm := m.isLt
  refine ⟨?_, ?_, ?_, ?_, ?_⟩
  · simp only [fMajor, V1.put, wordHead]
    omega
  · simp only [fn5, V1.put, wordHead]
    omega
  · refine beq_iff_eq.mpr ?_
    simp only [V1.put, wordHead]
    omega
  · refine beq_iff_eq.mpr ?_
    simp only [V1.put, wordHead]
    omega
  · rw [V1.get, V1.mk.injEq]
    refine ⟨?_, ?_, ?_⟩
    · refine Fin.ext ?_
      simp only [fW, V1.put, wordHead]
      omega
    · refine Fin.ext ?_
      simp only [f22, V1.put, wordHead]
      omega
    · refine Fin.ext ?_
      simp only [fMask, V1.put, wordHead]
      omega

theorem TMac.put_law {maj fn : Nat} (f : TMac) (hm : maj < 64) (hf : fn < 32) :
    fMajor (TMac.put maj fn f) = maj ∧
    fn5 (TMac.put maj fn f) = fn % 32 ∧
    TMac.get (TMac.put maj fn f) = f := by
  obtain ⟨w, row, a, slot, m⟩ := f
  have hw := w.isLt
  have hrow := row.isLt
  have ha := a.isLt
  have hslot := slot.isLt
  have hm := m.isLt
  have hr : row.val / 32 < 8 := by omega
  have hl : row.val % 32 < 32 := by omega
  have hs : row.val / 32 * 32 + row.val % 32 = row.val := by omega
  refine ⟨?_, ?_, ?_⟩
  · simp only [fMajor, TMac.put, wordHead]
    generalize row.val / 32 = hi at *
    generalize row.val % 32 = lo at *
    have q8388608 : (w.val * 536870912 + maj * 8388608 + lo * 262144 + a.val * 8192 + slot.val * 2048 + hi * 256 + m.val * 32 + fn) / 8388608 = maj + w.val * 64 := by omega
    rw [q8388608]
    omega
  · simp only [fn5, TMac.put, wordHead]
    generalize row.val / 32 = hi at *
    generalize row.val % 32 = lo at *
    omega
  · rw [TMac.get, TMac.mk.injEq]
    refine ⟨?_, ?_, ?_, ?_, ?_⟩
    · refine Fin.ext ?_
      simp only [fW, TMac.put, wordHead]
      generalize row.val / 32 = hi at *
      generalize row.val % 32 = lo at *
      have q536870912 : (w.val * 536870912 + maj * 8388608 + lo * 262144 + a.val * 8192 + slot.val * 2048 + hi * 256 + m.val * 32 + fn) / 536870912 = w.val := by omega
      rw [q536870912]
      omega
    · refine Fin.ext ?_
      simp only [fRow, fRowHi, fRowLo, TMac.put, wordHead]
      generalize row.val / 32 = hi at *
      generalize row.val % 32 = lo at *
      have q1 : (w.val * 536870912 + maj * 8388608 + lo * 262144 + a.val * 8192 + slot.val * 2048 + hi * 256 + m.val * 32 + fn) / 256 = hi + slot.val * 8 + a.val * 32 + lo * 1024 + maj * 32768 + w.val * 2097152 := by omega
      have q2 : (w.val * 536870912 + maj * 8388608 + lo * 262144 + a.val * 8192 + slot.val * 2048 + hi * 256 + m.val * 32 + fn) / 262144 = lo + maj * 32 + w.val * 2048 := by omega
      have r1 : (w.val * 536870912 + maj * 8388608 + lo * 262144 + a.val * 8192 + slot.val * 2048 + hi * 256 + m.val * 32 + fn) / 256 % 8 = hi := by rw [q1]; omega
      have r2 : (w.val * 536870912 + maj * 8388608 + lo * 262144 + a.val * 8192 + slot.val * 2048 + hi * 256 + m.val * 32 + fn) / 262144 % 32 = lo := by rw [q2]; omega
      rw [r1, r2]
      omega
    · refine Fin.ext ?_
      simp only [f17, TMac.put, wordHead]
      generalize row.val / 32 = hi at *
      generalize row.val % 32 = lo at *
      have q8192 : (w.val * 536870912 + maj * 8388608 + lo * 262144 + a.val * 8192 + slot.val * 2048 + hi * 256 + m.val * 32 + fn) / 8192 = a.val + lo * 32 + maj * 1024 + w.val * 65536 := by omega
      rw [q8192]
      omega
    · refine Fin.ext ?_
      simp only [fSlot, TMac.put, wordHead]
      generalize row.val / 32 = hi at *
      generalize row.val % 32 = lo at *
      have q2048 : (w.val * 536870912 + maj * 8388608 + lo * 262144 + a.val * 8192 + slot.val * 2048 + hi * 256 + m.val * 32 + fn) / 2048 = slot.val + a.val * 4 + lo * 128 + maj * 4096 + w.val * 262144 := by omega
      rw [q2048]
      omega
    · refine Fin.ext ?_
      simp only [fMask, TMac.put, wordHead]
      generalize row.val / 32 = hi at *
      generalize row.val % 32 = lo at *
      have q32 : (w.val * 536870912 + maj * 8388608 + lo * 262144 + a.val * 8192 + slot.val * 2048 + hi * 256 + m.val * 32 + fn) / 32 = m.val + hi * 8 + slot.val * 64 + a.val * 256 + lo * 8192 + maj * 262144 + w.val * 16777216 := by omega
      rw [q32]
      omega

theorem TRow.put_law {maj fn : Nat} (f : TRow) (hm : maj < 64) (hf : fn < 32) :
    fMajor (TRow.put maj fn f) = maj ∧
    fn5 (TRow.put maj fn f) = fn % 32 ∧
    zSlot (TRow.put maj fn f) = true ∧
    TRow.get (TRow.put maj fn f) = f := by
  obtain ⟨w, row, a, m⟩ := f
  have hw := w.isLt
  have hrow := row.isLt
  have ha := a.isLt
  have hm := m.isLt
  have hr : row.val / 32 < 8 := by omega
  have hl : row.val % 32 < 32 := by omega
  have hs : row.val / 32 * 32 + row.val % 32 = row.val := by omega
  refine ⟨?_, ?_, ?_, ?_⟩
  · simp only [fMajor, TRow.put, wordHead]
    generalize row.val / 32 = hi at *
    generalize row.val % 32 = lo at *
    have q8388608 : (w.val * 536870912 + maj * 8388608 + lo * 262144 + a.val * 8192 + hi * 256 + m.val * 32 + fn) / 8388608 = maj + w.val * 64 := by omega
    rw [q8388608]
    omega
  · simp only [fn5, TRow.put, wordHead]
    generalize row.val / 32 = hi at *
    generalize row.val % 32 = lo at *
    omega
  · refine beq_iff_eq.mpr ?_
    simp only [TRow.put, wordHead]
    generalize row.val / 32 = hi at *
    generalize row.val % 32 = lo at *
    have q2048 : (w.val * 536870912 + maj * 8388608 + lo * 262144 + a.val * 8192 + hi * 256 + m.val * 32 + fn) / 2048 = a.val * 4 + lo * 128 + maj * 4096 + w.val * 262144 := by omega
    rw [q2048]
    omega
  · rw [TRow.get, TRow.mk.injEq]
    refine ⟨?_, ?_, ?_, ?_⟩
    · refine Fin.ext ?_
      simp only [fW, TRow.put, wordHead]
      generalize row.val / 32 = hi at *
      generalize row.val % 32 = lo at *
      have q536870912 : (w.val * 536870912 + maj * 8388608 + lo * 262144 + a.val * 8192 + hi * 256 + m.val * 32 + fn) / 536870912 = w.val := by omega
      rw [q536870912]
      omega
    · refine Fin.ext ?_
      simp only [fRow, fRowHi, fRowLo, TRow.put, wordHead]
      generalize row.val / 32 = hi at *
      generalize row.val % 32 = lo at *
      have q1 : (w.val * 536870912 + maj * 8388608 + lo * 262144 + a.val * 8192 + hi * 256 + m.val * 32 + fn) / 256 = hi + a.val * 32 + lo * 1024 + maj * 32768 + w.val * 2097152 := by omega
      have q2 : (w.val * 536870912 + maj * 8388608 + lo * 262144 + a.val * 8192 + hi * 256 + m.val * 32 + fn) / 262144 = lo + maj * 32 + w.val * 2048 := by omega
      have r1 : (w.val * 536870912 + maj * 8388608 + lo * 262144 + a.val * 8192 + hi * 256 + m.val * 32 + fn) / 256 % 8 = hi := by rw [q1]; omega
      have r2 : (w.val * 536870912 + maj * 8388608 + lo * 262144 + a.val * 8192 + hi * 256 + m.val * 32 + fn) / 262144 % 32 = lo := by rw [q2]; omega
      rw [r1, r2]
      omega
    · refine Fin.ext ?_
      simp only [f17, TRow.put, wordHead]
      generalize row.val / 32 = hi at *
      generalize row.val % 32 = lo at *
      have q8192 : (w.val * 536870912 + maj * 8388608 + lo * 262144 + a.val * 8192 + hi * 256 + m.val * 32 + fn) / 8192 = a.val + lo * 32 + maj * 1024 + w.val * 65536 := by omega
      rw [q8192]
      omega
    · refine Fin.ext ?_
      simp only [fMask, TRow.put, wordHead]
      generalize row.val / 32 = hi at *
      generalize row.val % 32 = lo at *
      have q32 : (w.val * 536870912 + maj * 8388608 + lo * 262144 + a.val * 8192 + hi * 256 + m.val * 32 + fn) / 32 = m.val + hi * 8 + a.val * 256 + lo * 8192 + maj * 262144 + w.val * 16777216 := by omega
      rw [q32]
      omega

theorem TRng.put_law {maj fn : Nat} (f : TRng) (hm : maj < 64) (hf : fn < 32) :
    fMajor (TRng.put maj fn f) = maj ∧
    fn5 (TRng.put maj fn f) = fn % 32 ∧
    zMask (TRng.put maj fn f) = (fn / 32 % 8 == 0) ∧
    zSlot (TRng.put maj fn f) = true ∧
    TRng.get (TRng.put maj fn f) = f := by
  obtain ⟨w, row, a⟩ := f
  have hw := w.isLt
  have hrow := row.isLt
  have ha := a.isLt
  have hr : row.val / 32 < 8 := by omega
  have hl : row.val % 32 < 32 := by omega
  have hs : row.val / 32 * 32 + row.val % 32 = row.val := by omega
  refine ⟨?_, ?_, ?_, ?_, ?_⟩
  · simp only [fMajor, TRng.put, wordHead]
    generalize row.val / 32 = hi at *
    generalize row.val % 32 = lo at *
    have q8388608 : (w.val * 536870912 + maj * 8388608 + lo * 262144 + a.val * 8192 + hi * 256 + fn) / 8388608 = maj + w.val * 64 := by omega
    rw [q8388608]
    omega
  · simp only [fn5, TRng.put, wordHead]
    generalize row.val / 32 = hi at *
    generalize row.val % 32 = lo at *
    omega
  · refine congrArg (fun n => n == 0) ?_
    simp only [TRng.put, wordHead]
    generalize row.val / 32 = hi at *
    generalize row.val % 32 = lo at *
    have q32 : (w.val * 536870912 + maj * 8388608 + lo * 262144 + a.val * 8192 + hi * 256 + fn) / 32 = hi * 8 + a.val * 256 + lo * 8192 + maj * 262144 + w.val * 16777216 := by omega
    rw [q32]
    omega
  · refine beq_iff_eq.mpr ?_
    simp only [TRng.put, wordHead]
    generalize row.val / 32 = hi at *
    generalize row.val % 32 = lo at *
    have q2048 : (w.val * 536870912 + maj * 8388608 + lo * 262144 + a.val * 8192 + hi * 256 + fn) / 2048 = a.val * 4 + lo * 128 + maj * 4096 + w.val * 262144 := by omega
    rw [q2048]
    omega
  · rw [TRng.get, TRng.mk.injEq]
    refine ⟨?_, ?_, ?_⟩
    · refine Fin.ext ?_
      simp only [fW, TRng.put, wordHead]
      generalize row.val / 32 = hi at *
      generalize row.val % 32 = lo at *
      have q536870912 : (w.val * 536870912 + maj * 8388608 + lo * 262144 + a.val * 8192 + hi * 256 + fn) / 536870912 = w.val := by omega
      rw [q536870912]
      omega
    · refine Fin.ext ?_
      simp only [fRow, fRowHi, fRowLo, TRng.put, wordHead]
      generalize row.val / 32 = hi at *
      generalize row.val % 32 = lo at *
      have q1 : (w.val * 536870912 + maj * 8388608 + lo * 262144 + a.val * 8192 + hi * 256 + fn) / 256 = hi + a.val * 32 + lo * 1024 + maj * 32768 + w.val * 2097152 := by omega
      have q2 : (w.val * 536870912 + maj * 8388608 + lo * 262144 + a.val * 8192 + hi * 256 + fn) / 262144 = lo + maj * 32 + w.val * 2048 := by omega
      have r1 : (w.val * 536870912 + maj * 8388608 + lo * 262144 + a.val * 8192 + hi * 256 + fn) / 256 % 8 = hi := by rw [q1]; omega
      have r2 : (w.val * 536870912 + maj * 8388608 + lo * 262144 + a.val * 8192 + hi * 256 + fn) / 262144 % 32 = lo := by rw [q2]; omega
      rw [r1, r2]
      omega
    · refine Fin.ext ?_
      simp only [f17, TRng.put, wordHead]
      generalize row.val / 32 = hi at *
      generalize row.val % 32 = lo at *
      have q8192 : (w.val * 536870912 + maj * 8388608 + lo * 262144 + a.val * 8192 + hi * 256 + fn) / 8192 = a.val + lo * 32 + maj * 1024 + w.val * 65536 := by omega
      rw [q8192]
      omega

theorem TLd.put_law {maj fn : Nat} (f : TLd) (hm : maj < 64) (hf : fn < 32) :
    fMajor (TLd.put maj fn f) = maj ∧
    fn5 (TLd.put maj fn f) = fn % 32 ∧
    zMask (TLd.put maj fn f) = (fn / 32 % 8 == 0) ∧
    zD (TLd.put maj fn f) = true ∧
    zHi (TLd.put maj fn f) = true ∧
    TLd.get (TLd.put maj fn f) = f := by
  obtain ⟨w, a, slot⟩ := f
  have hw := w.isLt
  have ha := a.isLt
  have hslot := slot.isLt
  refine ⟨?_, ?_, ?_, ?_, ?_, ?_⟩
  · simp only [fMajor, TLd.put, wordHead]
    omega
  · simp only [fn5, TLd.put, wordHead]
    omega
  · refine congrArg (fun n => n == 0) ?_
    simp only [TLd.put, wordHead]
    omega
  · refine beq_iff_eq.mpr ?_
    simp only [TLd.put, wordHead]
    omega
  · refine beq_iff_eq.mpr ?_
    simp only [TLd.put, wordHead]
    omega
  · rw [TLd.get, TLd.mk.injEq]
    refine ⟨?_, ?_, ?_⟩
    · refine Fin.ext ?_
      simp only [fW, TLd.put, wordHead]
      omega
    · refine Fin.ext ?_
      simp only [f17, TLd.put, wordHead]
      omega
    · refine Fin.ext ?_
      simp only [fSlot, TLd.put, wordHead]
      omega

theorem Eng.put_law {maj fn : Nat} (f : Eng) (hm : maj < 64) (hf : fn < 32) :
    fMajor (Eng.put maj fn f) = maj ∧
    fn5 (Eng.put maj fn f) = fn % 32 ∧
    Eng.get (Eng.put maj fn f) = f := by
  obtain ⟨w, d, a, b, c⟩ := f
  have hw := w.isLt
  have hd := d.isLt
  have ha := a.isLt
  have hb := b.isLt
  have hc := c.isLt
  refine ⟨?_, ?_, ?_⟩
  · simp only [fMajor, Eng.put, wordHead]
    omega
  · simp only [fn5, Eng.put, wordHead]
    omega
  · rw [Eng.get, Eng.mk.injEq]
    refine ⟨?_, ?_, ?_, ?_, ?_⟩
    · refine Fin.ext ?_
      simp only [fW, Eng.put, wordHead]
      omega
    · refine Fin.ext ?_
      simp only [f22, Eng.put, wordHead]
      omega
    · refine Fin.ext ?_
      simp only [f17, Eng.put, wordHead]
      omega
    · refine Fin.ext ?_
      simp only [f12, Eng.put, wordHead]
      omega
    · refine Fin.ext ?_
      simp only [fMask, Eng.put, wordHead]
      omega

theorem ImmI.put_law {maj : Nat} (f : ImmI) (hm : maj < 64) :
    fMajor (ImmI.put maj f) = maj ∧
    ImmI.get (ImmI.put maj f) = f := by
  obtain ⟨w, d, a, imm⟩ := f
  have hw := w.isLt
  have hd := d.isLt
  have ha := a.isLt
  have himm := imm.isLt
  refine ⟨?_, ?_⟩
  · simp only [fMajor, ImmI.put, wordHead]
    omega
  · rw [ImmI.get, ImmI.mk.injEq]
    refine ⟨?_, ?_, ?_, ?_⟩
    · refine Fin.ext ?_
      simp only [fW, ImmI.put, wordHead]
      omega
    · refine Fin.ext ?_
      simp only [f22, ImmI.put, wordHead]
      omega
    · refine Fin.ext ?_
      simp only [f17, ImmI.put, wordHead]
      omega
    · refine BitVec.eq_of_toNat_eq ?_
      simp only [fImm13, BitVec.toNat_ofNat, ImmI.put, wordHead]
      omega

theorem ImmJ.put_law {maj : Nat} (f : ImmJ) (hm : maj < 64) :
    fMajor (ImmJ.put maj f) = maj ∧
    ImmJ.get (ImmJ.put maj f) = f := by
  obtain ⟨w, d, imm⟩ := f
  have hw := w.isLt
  have hd := d.isLt
  have himm := imm.isLt
  refine ⟨?_, ?_⟩
  · simp only [fMajor, ImmJ.put, wordHead]
    omega
  · rw [ImmJ.get, ImmJ.mk.injEq]
    refine ⟨?_, ?_, ?_⟩
    · refine Fin.ext ?_
      simp only [fW, ImmJ.put, wordHead]
      omega
    · refine Fin.ext ?_
      simp only [f22, ImmJ.put, wordHead]
      omega
    · refine BitVec.eq_of_toNat_eq ?_
      simp only [fImm18, BitVec.toNat_ofNat, ImmJ.put, wordHead]
      omega

theorem ImmB.put_law {maj : Nat} (f : ImmB) (hm : maj < 64) :
    fMajor (ImmB.put maj f) = maj ∧
    ImmB.get (ImmB.put maj f) = f := by
  obtain ⟨w, a, b, imm⟩ := f
  have hw := w.isLt
  have ha := a.isLt
  have hb := b.isLt
  have himm := imm.isLt
  refine ⟨?_, ?_⟩
  · simp only [fMajor, ImmB.put, wordHead]
    omega
  · rw [ImmB.get, ImmB.mk.injEq]
    refine ⟨?_, ?_, ?_, ?_⟩
    · refine Fin.ext ?_
      simp only [fW, ImmB.put, wordHead]
      omega
    · refine Fin.ext ?_
      simp only [f22, ImmB.put, wordHead]
      omega
    · refine Fin.ext ?_
      simp only [f17, ImmB.put, wordHead]
      omega
    · refine BitVec.eq_of_toNat_eq ?_
      simp only [fImm13, BitVec.toNat_ofNat, ImmB.put, wordHead]
      omega

theorem LoopR.put_law {maj : Nat} (f : LoopR) (hm : maj < 64) :
    fMajor (LoopR.put maj f) = maj ∧
    zD (LoopR.put maj f) = true ∧
    LoopR.get (LoopR.put maj f) = f := by
  obtain ⟨w, a, imm⟩ := f
  have hw := w.isLt
  have ha := a.isLt
  have himm := imm.isLt
  refine ⟨?_, ?_, ?_⟩
  · simp only [fMajor, LoopR.put, wordHead]
    omega
  · refine beq_iff_eq.mpr ?_
    simp only [LoopR.put, wordHead]
    omega
  · rw [LoopR.get, LoopR.mk.injEq]
    refine ⟨?_, ?_, ?_⟩
    · refine Fin.ext ?_
      simp only [fW, LoopR.put, wordHead]
      omega
    · refine Fin.ext ?_
      simp only [f17, LoopR.put, wordHead]
      omega
    · refine BitVec.eq_of_toNat_eq ?_
      simp only [fImm13, BitVec.toNat_ofNat, LoopR.put, wordHead]
      omega

theorem LoopI.put_law {maj : Nat} (f : LoopI) (hm : maj < 64) :
    fMajor (LoopI.put maj f) = maj ∧
    LoopI.get (LoopI.put maj f) = f := by
  obtain ⟨w, count, imm⟩ := f
  have hw := w.isLt
  have hcount := count.isLt
  have himm := imm.isLt
  refine ⟨?_, ?_⟩
  · simp only [fMajor, LoopI.put, wordHead]
    omega
  · rw [LoopI.get, LoopI.mk.injEq]
    refine ⟨?_, ?_, ?_⟩
    · refine Fin.ext ?_
      simp only [fW, LoopI.put, wordHead]
      omega
    · refine BitVec.eq_of_toNat_eq ?_
      simp only [BitVec.toNat_ofNat, LoopI.put, wordHead]
      omega
    · refine BitVec.eq_of_toNat_eq ?_
      simp only [fImm13, BitVec.toNat_ofNat, LoopI.put, wordHead]
      omega

theorem Grant.put_law {maj test : Nat} (f : Grant) (hm : maj < 64) (hf : test < 32) :
    fMajor (Grant.put maj test f) = maj ∧
    (Grant.put maj test f) / 8192 % 32 = test ∧
    Grant.get (Grant.put maj test f) = f := by
  obtain ⟨w, k, imm⟩ := f
  have hw := w.isLt
  have hk := k.isLt
  have himm := imm.isLt
  refine ⟨?_, ?_, ?_⟩
  · simp only [fMajor, Grant.put, wordHead]
    omega
  · simp only [Grant.put, wordHead]
    omega
  · rw [Grant.get, Grant.mk.injEq]
    refine ⟨?_, ?_, ?_⟩
    · refine Fin.ext ?_
      simp only [fW, Grant.put, wordHead]
      omega
    · refine Fin.ext ?_
      simp only [f22, Grant.put, wordHead]
      omega
    · refine BitVec.eq_of_toNat_eq ?_
      simp only [fImm13, BitVec.toNat_ofNat, Grant.put, wordHead]
      omega

theorem CtlR.put_law {maj op : Nat} (f : CtlR) (hm : maj < 64) (hf : op < 4) :
    fMajor (CtlR.put maj op f) = maj ∧
    (CtlR.put maj op f) / 2048 % 4 = op ∧
    zA (CtlR.put maj op f) = true ∧
    CtlR.get (CtlR.put maj op f) = f := by
  obtain ⟨w, d, num⟩ := f
  have hw := w.isLt
  have hd := d.isLt
  have hnum := num.isLt
  refine ⟨?_, ?_, ?_, ?_⟩
  · simp only [fMajor, CtlR.put, wordHead]
    omega
  · simp only [CtlR.put, wordHead]
    omega
  · refine beq_iff_eq.mpr ?_
    simp only [CtlR.put, wordHead]
    omega
  · rw [CtlR.get, CtlR.mk.injEq]
    refine ⟨?_, ?_, ?_⟩
    · refine Fin.ext ?_
      simp only [fW, CtlR.put, wordHead]
      omega
    · refine Fin.ext ?_
      simp only [f22, CtlR.put, wordHead]
      omega
    · refine Fin.ext ?_
      simp only [fCtl, CtlR.put, wordHead]
      omega

theorem CtlW.put_law {maj op : Nat} (f : CtlW) (hm : maj < 64) (hf : op < 4) :
    fMajor (CtlW.put maj op f) = maj ∧
    (CtlW.put maj op f) / 2048 % 4 = op ∧
    CtlW.get (CtlW.put maj op f) = f := by
  obtain ⟨w, d, a, num⟩ := f
  have hw := w.isLt
  have hd := d.isLt
  have ha := a.isLt
  have hnum := num.isLt
  refine ⟨?_, ?_, ?_⟩
  · simp only [fMajor, CtlW.put, wordHead]
    omega
  · simp only [CtlW.put, wordHead]
    omega
  · rw [CtlW.get, CtlW.mk.injEq]
    refine ⟨?_, ?_, ?_, ?_⟩
    · refine Fin.ext ?_
      simp only [fW, CtlW.put, wordHead]
      omega
    · refine Fin.ext ?_
      simp only [f22, CtlW.put, wordHead]
      omega
    · refine Fin.ext ?_
      simp only [f17, CtlW.put, wordHead]
      omega
    · refine Fin.ext ?_
      simp only [fCtl, CtlW.put, wordHead]
      omega

theorem Amo.put_law {maj op : Nat} (f : Amo) (hm : maj < 64) (hf : op < 16) :
    fMajor (Amo.put maj op f) = maj ∧
    (Amo.put maj op f) % 16 = op ∧
    (Amo.put maj op f) / 128 % 2 = 0 ∧
    Amo.get (Amo.put maj op f) = f := by
  obtain ⟨w, d, a, b, ord, narrow⟩ := f
  have hw := w.isLt
  have hd := d.isLt
  have ha := a.isLt
  have hb := b.isLt
  have hord := ord.isLt
  refine ⟨?_, ?_, ?_, ?_⟩
  · simp only [fMajor, Amo.put, wordHead]
    split <;> omega
  · simp only [Amo.put, wordHead]
    split <;> omega
  · simp only [Amo.put, wordHead]
    split <;> omega
  · rw [Amo.get, Amo.mk.injEq]
    refine ⟨?_, ?_, ?_, ?_, ?_, ?_⟩
    · refine Fin.ext ?_
      simp only [fW, Amo.put, wordHead]
      split <;> omega
    · refine Fin.ext ?_
      simp only [f22, Amo.put, wordHead]
      split <;> omega
    · refine Fin.ext ?_
      simp only [f17, Amo.put, wordHead]
      split <;> omega
    · refine Fin.ext ?_
      simp only [f12, Amo.put, wordHead]
      split <;> omega
    · refine Fin.ext ?_
      simp only [Amo.put, wordHead]
      split <;> omega
    · cases narrow <;> simp [Amo.put, wordHead] <;> omega

/-- A shift amount's high bit stands in bit 0 of fn8 (R77). -/
theorem Shift.put_law {maj fn : Nat} (f : Shift) (hm : maj < 64) (hf : fn < 255) (he : fn % 2 = 0) :
    fMajor (Shift.put maj fn f) = maj ∧
    fn8 (Shift.put maj fn f) = fn + f.k.val / 32 ∧
    Shift.get (Shift.put maj fn f) = f := by
  obtain ⟨w, d, a, k⟩ := f
  have hw := w.isLt
  have hd := d.isLt
  have ha := a.isLt
  have hk := k.isLt
  have h1 : k.val / 32 < 2 := by omega
  have h2 : k.val % 32 < 32 := by omega
  have h3 : k.val / 32 * 32 + k.val % 32 = k.val := by omega
  simp only [Shift.get, Shift.put, wordHead, fMajor, fn8, Shift.mk.injEq, Fin.ext_iff, fW, f22, f17]
  generalize k.val / 32 = kh at *
  generalize k.val % 32 = kl at *
  have q1 : (w.val * 536870912 + maj * 8388608 + d.val * 262144 + a.val * 8192 + kl * 256 + (fn + kh)) / 8388608 = w.val * 64 + maj := by omega
  have q2 : (w.val * 536870912 + maj * 8388608 + d.val * 262144 + a.val * 8192 + kl * 256 + (fn + kh)) / 536870912 = w.val := by omega
  have q3 : (w.val * 536870912 + maj * 8388608 + d.val * 262144 + a.val * 8192 + kl * 256 + (fn + kh)) / 262144 = w.val * 2048 + maj * 32 + d.val := by omega
  have q4 : (w.val * 536870912 + maj * 8388608 + d.val * 262144 + a.val * 8192 + kl * 256 + (fn + kh)) / 8192 = w.val * 65536 + maj * 1024 + d.val * 32 + a.val := by omega
  have q5 : (w.val * 536870912 + maj * 8388608 + d.val * 262144 + a.val * 8192 + kl * 256 + (fn + kh)) / 256 = w.val * 2097152 + maj * 32768 + d.val * 1024 + a.val * 32 + kl := by omega
  have q6 : (w.val * 536870912 + maj * 8388608 + d.val * 262144 + a.val * 8192 + kl * 256 + (fn + kh)) % 256 = fn + kh := by omega
  have q7 : (w.val * 536870912 + maj * 8388608 + d.val * 262144 + a.val * 8192 + kl * 256 + (fn + kh)) % 2 = kh := by omega
  rw [q1, q2, q3, q4, q5, q6, q7]
  omega

theorem TrapK.put_law {maj : Nat} (f : TrapK) (hm : maj < 64) :
    fMajor (TrapK.put maj 256 f) = maj ∧
    fSel (TrapK.put maj 256 f) = 256 + f.k.val ∧
    zDA (TrapK.put maj 256 f) = true ∧
    TrapK.get (TrapK.put maj 256 f) = f := by
  have hw := f.w.isLt
  have hk := f.k.isLt
  refine ⟨?_, ?_, ?_, ?_⟩
  · unfold fMajor TrapK.put wordHead
    omega
  · unfold fSel TrapK.put wordHead
    omega
  · refine beq_iff_eq.mpr ?_
    unfold TrapK.put wordHead
    omega
  · obtain ⟨w, k⟩ := f
    rw [TrapK.get, TrapK.mk.injEq]
    refine ⟨?_, ?_⟩
    · refine Fin.ext ?_
      simp only [fW, TrapK.put, wordHead]
      omega
    · refine Fin.ext ?_
      simp only [TrapK.put, wordHead]
      omega

theorem FenceF.put_law {maj base : Nat} (f : FenceF) (hm : maj < 64) (hf : base < 248) (he : base % 8 = 0) :
    fMajor (FenceF.put maj base f) = maj ∧
    fn8 (FenceF.put maj base f) = base + f.scope.val ∧
    zD (FenceF.put maj base f) = true ∧
    zA (FenceF.put maj base f) = true ∧
    zB (FenceF.put maj base f) = true ∧
    FenceF.get (FenceF.put maj base f) = f := by
  have hw := f.w.isLt
  have hs := f.scope.isLt
  refine ⟨?_, ?_, ?_, ?_, ?_, ?_⟩
  · unfold fMajor FenceF.put wordHead
    omega
  · unfold fn8 FenceF.put wordHead
    omega
  · refine beq_iff_eq.mpr ?_
    unfold FenceF.put wordHead
    omega
  · refine beq_iff_eq.mpr ?_
    unfold FenceF.put wordHead
    omega
  · refine beq_iff_eq.mpr ?_
    unfold FenceF.put wordHead
    omega
  · obtain ⟨w, scope⟩ := f
    rw [FenceF.get, FenceF.mk.injEq]
    refine ⟨?_, ?_⟩
    · refine Fin.ext ?_
      simp only [fW, FenceF.put, wordHead]
      omega
    · refine Fin.ext ?_
      simp only [FenceF.put, wordHead]
      omega

end Sys2Proof
end

