-- ==== Sys2Proof/Laws/Exec.lean ====
section
/-!
SUPPORT. Every instruction word runs in the frame of an issuing word (R62).
-/

namespace Sys2Proof.Machine

set_option Elab.async false

/-- The meaning of a word is an issue of that word, under a register-group condition and a body of its own. -/
def Issues (i : Instr) : Prop :=
  ∃ (group : VType → Bool) (body : State → Res), ∀ s : State, exec i s = .next (s.issue i group body)

theorem issues_add (f : R3) : Issues (.add f) := ⟨_, _, fun _ => rfl⟩
theorem issues_sub (f : R3) : Issues (.sub f) := ⟨_, _, fun _ => rfl⟩
theorem issues_and (f : R3) : Issues (.and f) := ⟨_, _, fun _ => rfl⟩
theorem issues_or (f : R3) : Issues (.or f) := ⟨_, _, fun _ => rfl⟩
theorem issues_xor (f : R3) : Issues (.xor f) := ⟨_, _, fun _ => rfl⟩
theorem issues_andn (f : R3) : Issues (.andn f) := ⟨_, _, fun _ => rfl⟩
theorem issues_sll (f : R3) : Issues (.sll f) := ⟨_, _, fun _ => rfl⟩
theorem issues_srl (f : R3) : Issues (.srl f) := ⟨_, _, fun _ => rfl⟩
theorem issues_sra (f : R3) : Issues (.sra f) := ⟨_, _, fun _ => rfl⟩
theorem issues_rol (f : R3) : Issues (.rol f) := ⟨_, _, fun _ => rfl⟩
theorem issues_slt (f : R3) : Issues (.slt f) := ⟨_, _, fun _ => rfl⟩
theorem issues_sltn (f : R3) : Issues (.sltn f) := ⟨_, _, fun _ => rfl⟩
theorem issues_seq (f : R3) : Issues (.seq f) := ⟨_, _, fun _ => rfl⟩
theorem issues_min (f : R3) : Issues (.min f) := ⟨_, _, fun _ => rfl⟩
theorem issues_max (f : R3) : Issues (.max f) := ⟨_, _, fun _ => rfl⟩
theorem issues_minn (f : R3) : Issues (.minn f) := ⟨_, _, fun _ => rfl⟩
theorem issues_maxn (f : R3) : Issues (.maxn f) := ⟨_, _, fun _ => rfl⟩
theorem issues_addw (f : R3) : Issues (.addw f) := ⟨_, _, fun _ => rfl⟩
theorem issues_subw (f : R3) : Issues (.subw f) := ⟨_, _, fun _ => rfl⟩
theorem issues_adds1 (f : R3) : Issues (.adds1 f) := ⟨_, _, fun _ => rfl⟩
theorem issues_adds2 (f : R3) : Issues (.adds2 f) := ⟨_, _, fun _ => rfl⟩
theorem issues_adds3 (f : R3) : Issues (.adds3 f) := ⟨_, _, fun _ => rfl⟩
theorem issues_slli (f : Shift) : Issues (.slli f) := ⟨_, _, fun _ => rfl⟩
theorem issues_srli (f : Shift) : Issues (.srli f) := ⟨_, _, fun _ => rfl⟩
theorem issues_srai (f : Shift) : Issues (.srai f) := ⟨_, _, fun _ => rfl⟩
theorem issues_roli (f : Shift) : Issues (.roli f) := ⟨_, _, fun _ => rfl⟩
theorem issues_mul (f : R3) : Issues (.mul f) := ⟨_, _, fun _ => rfl⟩
theorem issues_mulh (f : R3) : Issues (.mulh f) := ⟨_, _, fun _ => rfl⟩
theorem issues_mulhn (f : R3) : Issues (.mulhn f) := ⟨_, _, fun _ => rfl⟩
theorem issues_div (f : R3) : Issues (.div f) := ⟨_, _, fun _ => rfl⟩
theorem issues_divn (f : R3) : Issues (.divn f) := ⟨_, _, fun _ => rfl⟩
theorem issues_rem (f : R3) : Issues (.rem f) := ⟨_, _, fun _ => rfl⟩
theorem issues_remn (f : R3) : Issues (.remn f) := ⟨_, _, fun _ => rfl⟩
theorem issues_clz (f : R2) : Issues (.clz f) := ⟨_, _, fun _ => rfl⟩
theorem issues_ctz (f : R2) : Issues (.ctz f) := ⟨_, _, fun _ => rfl⟩
theorem issues_cpop (f : R2) : Issues (.cpop f) := ⟨_, _, fun _ => rfl⟩
theorem issues_bext (f : R3) : Issues (.bext f) := ⟨_, _, fun _ => rfl⟩
theorem issues_bins (f : R3) : Issues (.bins f) := ⟨_, _, fun _ => rfl⟩
theorem issues_addi (f : ImmI) : Issues (.addi f) := ⟨_, _, fun _ => rfl⟩
theorem issues_andi (f : ImmI) : Issues (.andi f) := ⟨_, _, fun _ => rfl⟩
theorem issues_ori (f : ImmI) : Issues (.ori f) := ⟨_, _, fun _ => rfl⟩
theorem issues_xori (f : ImmI) : Issues (.xori f) := ⟨_, _, fun _ => rfl⟩
theorem issues_lih (f : ImmJ) : Issues (.lih f) := ⟨_, _, fun _ => rfl⟩
theorem issues_ldxb (f : R3) : Issues (.ldxb f) := ⟨_, _, fun _ => rfl⟩
theorem issues_ldxbn (f : R3) : Issues (.ldxbn f) := ⟨_, _, fun _ => rfl⟩
theorem issues_ldxh (f : R3) : Issues (.ldxh f) := ⟨_, _, fun _ => rfl⟩
theorem issues_ldxhn (f : R3) : Issues (.ldxhn f) := ⟨_, _, fun _ => rfl⟩
theorem issues_ldxw (f : R3) : Issues (.ldxw f) := ⟨_, _, fun _ => rfl⟩
theorem issues_ldxwn (f : R3) : Issues (.ldxwn f) := ⟨_, _, fun _ => rfl⟩
theorem issues_ldxd (f : R3) : Issues (.ldxd f) := ⟨_, _, fun _ => rfl⟩
theorem issues_stxb (f : R3) : Issues (.stxb f) := ⟨_, _, fun _ => rfl⟩
theorem issues_stxh (f : R3) : Issues (.stxh f) := ⟨_, _, fun _ => rfl⟩
theorem issues_stxw (f : R3) : Issues (.stxw f) := ⟨_, _, fun _ => rfl⟩
theorem issues_stxd (f : R3) : Issues (.stxd f) := ⟨_, _, fun _ => rfl⟩
theorem issues_cwb (f : Pair) : Issues (.cwb f) := ⟨_, _, fun _ => rfl⟩
theorem issues_czero (f : Pair) : Issues (.czero f) := ⟨_, _, fun _ => rfl⟩
theorem issues_ldd (f : ImmI) : Issues (.ldd f) := ⟨_, _, fun _ => rfl⟩
theorem issues_ldw (f : ImmI) : Issues (.ldw f) := ⟨_, _, fun _ => rfl⟩
theorem issues_ldwn (f : ImmI) : Issues (.ldwn f) := ⟨_, _, fun _ => rfl⟩
theorem issues_std (f : ImmB) : Issues (.std f) := ⟨_, _, fun _ => rfl⟩
theorem issues_stw (f : ImmB) : Issues (.stw f) := ⟨_, _, fun _ => rfl⟩
theorem issues_lr (f : R2) : Issues (.lr f) := ⟨_, _, fun _ => rfl⟩
theorem issues_lrw (f : R2) : Issues (.lrw f) := ⟨_, _, fun _ => rfl⟩
theorem issues_sc (f : R3) : Issues (.sc f) := ⟨_, _, fun _ => rfl⟩
theorem issues_scw (f : R3) : Issues (.scw f) := ⟨_, _, fun _ => rfl⟩
theorem issues_pref (f : Pair) : Issues (.pref f) := ⟨_, _, fun _ => rfl⟩
theorem issues_beq (f : ImmB) : Issues (.beq f) := ⟨_, _, fun _ => rfl⟩
theorem issues_bne (f : ImmB) : Issues (.bne f) := ⟨_, _, fun _ => rfl⟩
theorem issues_blt (f : ImmB) : Issues (.blt f) := ⟨_, _, fun _ => rfl⟩
theorem issues_bge (f : ImmB) : Issues (.bge f) := ⟨_, _, fun _ => rfl⟩
theorem issues_bltn (f : ImmB) : Issues (.bltn f) := ⟨_, _, fun _ => rfl⟩
theorem issues_bgen (f : ImmB) : Issues (.bgen f) := ⟨_, _, fun _ => rfl⟩
theorem issues_jal (f : ImmJ) : Issues (.jal f) := ⟨_, _, fun _ => rfl⟩
theorem issues_jalr (f : R2) : Issues (.jalr f) := ⟨_, _, fun _ => rfl⟩
theorem issues_rdpc (f : Dst) : Issues (.rdpc f) := ⟨_, _, fun _ => rfl⟩
theorem issues_loop (f : LoopR) : Issues (.loop f) := ⟨_, _, fun _ => rfl⟩
theorem issues_loopi (f : LoopI) : Issues (.loopi f) := ⟨_, _, fun _ => rfl⟩
theorem issues_lpop (f : Bare) : Issues (.lpop f) := ⟨_, _, fun _ => rfl⟩
theorem issues_lbrk (f : Bare) : Issues (.lbrk f) := ⟨_, _, fun _ => rfl⟩
theorem issues_lcnt (f : Dst) : Issues (.lcnt f) := ⟨_, _, fun _ => rfl⟩
theorem issues_ldep (f : Dst) : Issues (.ldep f) := ⟨_, _, fun _ => rfl⟩
theorem issues_bgs (f : Grant) : Issues (.bgs f) := ⟨_, _, fun _ => rfl⟩
theorem issues_bgsn (f : Grant) : Issues (.bgsn f) := ⟨_, _, fun _ => rfl⟩
theorem issues_mfc (f : CtlR) : Issues (.mfc f) := ⟨_, _, fun _ => rfl⟩
theorem issues_mtc (f : CtlW) : Issues (.mtc f) := ⟨_, _, fun _ => rfl⟩
theorem issues_mcset (f : CtlW) : Issues (.mcset f) := ⟨_, _, fun _ => rfl⟩
theorem issues_mcclr (f : CtlW) : Issues (.mcclr f) := ⟨_, _, fun _ => rfl⟩
theorem issues_rft (f : Bare) : Issues (.rft f) := ⟨_, _, fun _ => rfl⟩
theorem issues_trap (f : TrapK) : Issues (.trap f) := ⟨_, _, fun _ => rfl⟩
theorem issues_ifence (f : Bare) : Issues (.ifence f) := ⟨_, _, fun _ => rfl⟩
theorem issues_pause (f : Bare) : Issues (.pause f) := ⟨_, _, fun _ => rfl⟩
theorem issues_sdrain (f : Bare) : Issues (.sdrain f) := ⟨_, _, fun _ => rfl⟩
theorem issues_halt (f : Bare) : Issues (.halt f) := ⟨_, _, fun _ => rfl⟩
theorem issues_vtype (f : R2) : Issues (.vtype f) := ⟨_, _, fun _ => rfl⟩
theorem issues_mfg (f : R3) : Issues (.mfg f) := ⟨_, _, fun _ => rfl⟩
theorem issues_zctw (f : R2) : Issues (.zctw f) := ⟨_, _, fun _ => rfl⟩
theorem issues_zcswap (f : Bare) : Issues (.zcswap f) := ⟨_, _, fun _ => rfl⟩
theorem issues_strip (f : R3) : Issues (.strip f) := ⟨_, _, fun _ => rfl⟩
theorem issues_sclose (f : Bare) : Issues (.sclose f) := ⟨_, _, fun _ => rfl⟩
theorem issues_scloseRel (f : Bare) : Issues (.scloseRel f) := ⟨_, _, fun _ => rfl⟩
theorem issues_zld (f : R3) : Issues (.zld f) := ⟨_, _, fun _ => rfl⟩
theorem issues_zst (f : R2) : Issues (.zst f) := ⟨_, _, fun _ => rfl⟩
theorem issues_zfind (f : R2) : Issues (.zfind f) := ⟨_, _, fun _ => rfl⟩
theorem issues_zskip (f : R3) : Issues (.zskip f) := ⟨_, _, fun _ => rfl⟩
theorem issues_vld (f : V2) : Issues (.vld f) := ⟨_, _, fun _ => rfl⟩
theorem issues_vlds (f : V3) : Issues (.vlds f) := ⟨_, _, fun _ => rfl⟩
theorem issues_vldb (f : V2) : Issues (.vldb f) := ⟨_, _, fun _ => rfl⟩
theorem issues_vldo (f : V2) : Issues (.vldo f) := ⟨_, _, fun _ => rfl⟩
theorem issues_vldso (f : V3) : Issues (.vldso f) := ⟨_, _, fun _ => rfl⟩
theorem issues_vldx (f : V3) : Issues (.vldx f) := ⟨_, _, fun _ => rfl⟩
theorem issues_vldxo (f : V3) : Issues (.vldxo f) := ⟨_, _, fun _ => rfl⟩
theorem issues_vst (f : V2) : Issues (.vst f) := ⟨_, _, fun _ => rfl⟩
theorem issues_vsts (f : V3) : Issues (.vsts f) := ⟨_, _, fun _ => rfl⟩
theorem issues_vstc (f : V2) : Issues (.vstc f) := ⟨_, _, fun _ => rfl⟩
theorem issues_vsto (f : V2) : Issues (.vsto f) := ⟨_, _, fun _ => rfl⟩
theorem issues_vstso (f : V3) : Issues (.vstso f) := ⟨_, _, fun _ => rfl⟩
theorem issues_vstx (f : V3) : Issues (.vstx f) := ⟨_, _, fun _ => rfl⟩
theorem issues_vstxo (f : V3) : Issues (.vstxo f) := ⟨_, _, fun _ => rfl⟩
theorem issues_vadd (f : V3) : Issues (.vadd f) := ⟨_, _, fun _ => rfl⟩
theorem issues_vsub (f : V3) : Issues (.vsub f) := ⟨_, _, fun _ => rfl⟩
theorem issues_vmul (f : V3) : Issues (.vmul f) := ⟨_, _, fun _ => rfl⟩
theorem issues_vdiv (f : V3) : Issues (.vdiv f) := ⟨_, _, fun _ => rfl⟩
theorem issues_vmin (f : V3) : Issues (.vmin f) := ⟨_, _, fun _ => rfl⟩
theorem issues_vmax (f : V3) : Issues (.vmax f) := ⟨_, _, fun _ => rfl⟩
theorem issues_vabsd (f : V3) : Issues (.vabsd f) := ⟨_, _, fun _ => rfl⟩
theorem issues_vand (f : V3) : Issues (.vand f) := ⟨_, _, fun _ => rfl⟩
theorem issues_vor (f : V3) : Issues (.vor f) := ⟨_, _, fun _ => rfl⟩
theorem issues_vxor (f : V3) : Issues (.vxor f) := ⟨_, _, fun _ => rfl⟩
theorem issues_vsll (f : V3) : Issues (.vsll f) := ⟨_, _, fun _ => rfl⟩
theorem issues_vsrl (f : V3) : Issues (.vsrl f) := ⟨_, _, fun _ => rfl⟩
theorem issues_vsra (f : V3) : Issues (.vsra f) := ⟨_, _, fun _ => rfl⟩
theorem issues_vneg (f : V2) : Issues (.vneg f) := ⟨_, _, fun _ => rfl⟩
theorem issues_vabs (f : V2) : Issues (.vabs f) := ⟨_, _, fun _ => rfl⟩
theorem issues_vsqrt (f : V2) : Issues (.vsqrt f) := ⟨_, _, fun _ => rfl⟩
theorem issues_vmov (f : V2) : Issues (.vmov f) := ⟨_, _, fun _ => rfl⟩
theorem issues_vadds (f : V3) : Issues (.vadds f) := ⟨_, _, fun _ => rfl⟩
theorem issues_vmuls (f : V3) : Issues (.vmuls f) := ⟨_, _, fun _ => rfl⟩
theorem issues_vbcast (f : VB) : Issues (.vbcast f) := ⟨_, _, fun _ => rfl⟩
theorem issues_vid (f : V1) : Issues (.vid f) := ⟨_, _, fun _ => rfl⟩
theorem issues_vfma (f : V3) : Issues (.vfma f) := ⟨_, _, fun _ => rfl⟩
theorem issues_vfms (f : V3) : Issues (.vfms f) := ⟨_, _, fun _ => rfl⟩
theorem issues_vfnma (f : V3) : Issues (.vfnma f) := ⟨_, _, fun _ => rfl⟩
theorem issues_vtsum (f : V3) : Issues (.vtsum f) := ⟨_, _, fun _ => rfl⟩
theorem issues_vtprod (f : V3) : Issues (.vtprod f) := ⟨_, _, fun _ => rfl⟩
theorem issues_vceq (f : V3) : Issues (.vceq f) := ⟨_, _, fun _ => rfl⟩
theorem issues_vcne (f : V3) : Issues (.vcne f) := ⟨_, _, fun _ => rfl⟩
theorem issues_vclt (f : V3) : Issues (.vclt f) := ⟨_, _, fun _ => rfl⟩
theorem issues_vcle (f : V3) : Issues (.vcle f) := ⟨_, _, fun _ => rfl⟩
theorem issues_vcnan (f : V3) : Issues (.vcnan f) := ⟨_, _, fun _ => rfl⟩
theorem issues_vcvt (f : V3) : Issues (.vcvt f) := ⟨_, _, fun _ => rfl⟩
theorem issues_vqnt (f : R2) : Issues (.vqnt f) := ⟨_, _, fun _ => rfl⟩
theorem issues_vdqnt (f : R2) : Issues (.vdqnt f) := ⟨_, _, fun _ => rfl⟩
theorem issues_vsel (f : V3) : Issues (.vsel f) := ⟨_, _, fun _ => rfl⟩
theorem issues_vslup (f : V3) : Issues (.vslup f) := ⟨_, _, fun _ => rfl⟩
theorem issues_vsldn (f : V3) : Issues (.vsldn f) := ⟨_, _, fun _ => rfl⟩
theorem issues_vperm (f : V3) : Issues (.vperm f) := ⟨_, _, fun _ => rfl⟩
theorem issues_vcomp (f : V2) : Issues (.vcomp f) := ⟨_, _, fun _ => rfl⟩
theorem issues_vredo (f : V3) : Issues (.vredo f) := ⟨_, _, fun _ => rfl⟩
theorem issues_vredt (f : V3) : Issues (.vredt f) := ⟨_, _, fun _ => rfl⟩
theorem issues_vscano (f : V3) : Issues (.vscano f) := ⟨_, _, fun _ => rfl⟩
theorem issues_vscanf (f : V3) : Issues (.vscanf f) := ⟨_, _, fun _ => rfl⟩
theorem issues_vredmin (f : V3) : Issues (.vredmin f) := ⟨_, _, fun _ => rfl⟩
theorem issues_vredmax (f : V3) : Issues (.vredmax f) := ⟨_, _, fun _ => rfl⟩
theorem issues_mand (f : R3) : Issues (.mand f) := ⟨_, _, fun _ => rfl⟩
theorem issues_mor (f : R3) : Issues (.mor f) := ⟨_, _, fun _ => rfl⟩
theorem issues_mxor (f : R3) : Issues (.mxor f) := ⟨_, _, fun _ => rfl⟩
theorem issues_mandn (f : R3) : Issues (.mandn f) := ⟨_, _, fun _ => rfl⟩
theorem issues_mnot (f : R2) : Issues (.mnot f) := ⟨_, _, fun _ => rfl⟩
theorem issues_mlen (f : R2) : Issues (.mlen f) := ⟨_, _, fun _ => rfl⟩
theorem issues_mpop (f : R2) : Issues (.mpop f) := ⟨_, _, fun _ => rfl⟩
theorem issues_mfirst (f : R2) : Issues (.mfirst f) := ⟨_, _, fun _ => rfl⟩
theorem issues_tmac (f : TMac) : Issues (.tmac f) := ⟨_, _, fun _ => rfl⟩
theorem issues_tdist (f : TMac) : Issues (.tdist f) := ⟨_, _, fun _ => rfl⟩
theorem issues_tcupd (f : TRow) : Issues (.tcupd f) := ⟨_, _, fun _ => rfl⟩
theorem issues_tacc (f : TRow) : Issues (.tacc f) := ⟨_, _, fun _ => rfl⟩
theorem issues_tdrain (f : TRow) : Issues (.tdrain f) := ⟨_, _, fun _ => rfl⟩
theorem issues_tfill (f : TRow) : Issues (.tfill f) := ⟨_, _, fun _ => rfl⟩
theorem issues_tzero (f : TRng) : Issues (.tzero f) := ⟨_, _, fun _ => rfl⟩
theorem issues_tcdiv (f : TRng) : Issues (.tcdiv f) := ⟨_, _, fun _ => rfl⟩
theorem issues_tcget (f : TRng) : Issues (.tcget f) := ⟨_, _, fun _ => rfl⟩
theorem issues_tld (f : TLd) : Issues (.tld f) := ⟨_, _, fun _ => rfl⟩
theorem issues_tmode (f : Pair) : Issues (.tmode f) := ⟨_, _, fun _ => rfl⟩
theorem issues_tmodr (f : Dst) : Issues (.tmodr f) := ⟨_, _, fun _ => rfl⟩
theorem issues_tmodc (f : Dst) : Issues (.tmodc f) := ⟨_, _, fun _ => rfl⟩
theorem issues_tbest (f : DstB) : Issues (.tbest f) := ⟨_, _, fun _ => rfl⟩
theorem issues_tcnt (f : R2) : Issues (.tcnt f) := ⟨_, _, fun _ => rfl⟩
theorem issues_cfun (f : R3) : Issues (.cfun f) := ⟨_, _, fun _ => rfl⟩
theorem issues_ccor (f : R3) : Issues (.ccor f) := ⟨_, _, fun _ => rfl⟩
theorem issues_cseq (f : R3) : Issues (.cseq f) := ⟨_, _, fun _ => rfl⟩
theorem issues_cpar (f : R3) : Issues (.cpar f) := ⟨_, _, fun _ => rfl⟩
theorem issues_cpipe (f : R3) : Issues (.cpipe f) := ⟨_, _, fun _ => rfl⟩
theorem issues_cfarm (f : R3) : Issues (.cfarm f) := ⟨_, _, fun _ => rfl⟩
theorem issues_cloop (f : R3) : Issues (.cloop f) := ⟨_, _, fun _ => rfl⟩
theorem issues_capply (f : R3) : Issues (.capply f) := ⟨_, _, fun _ => rfl⟩
theorem issues_cret (f : Pair) : Issues (.cret f) := ⟨_, _, fun _ => rfl⟩
theorem issues_cyield (f : R3) : Issues (.cyield f) := ⟨_, _, fun _ => rfl⟩
theorem issues_wid (f : R2) : Issues (.wid f) := ⟨_, _, fun _ => rfl⟩
theorem issues_chput (f : R3) : Issues (.chput f) := ⟨_, _, fun _ => rfl⟩
theorem issues_chget (f : R3) : Issues (.chget f) := ⟨_, _, fun _ => rfl⟩
theorem issues_barv (f : R3) : Issues (.barv f) := ⟨_, _, fun _ => rfl⟩
theorem issues_barw (f : R3) : Issues (.barw f) := ⟨_, _, fun _ => rfl⟩
theorem issues_bara (f : R3) : Issues (.bara f) := ⟨_, _, fun _ => rfl⟩
theorem issues_amoSwap (f : Amo) : Issues (.amoSwap f) := ⟨_, _, fun _ => rfl⟩
theorem issues_amoAdd (f : Amo) : Issues (.amoAdd f) := ⟨_, _, fun _ => rfl⟩
theorem issues_amoAnd (f : Amo) : Issues (.amoAnd f) := ⟨_, _, fun _ => rfl⟩
theorem issues_amoOr (f : Amo) : Issues (.amoOr f) := ⟨_, _, fun _ => rfl⟩
theorem issues_amoXor (f : Amo) : Issues (.amoXor f) := ⟨_, _, fun _ => rfl⟩
theorem issues_amoMin (f : Amo) : Issues (.amoMin f) := ⟨_, _, fun _ => rfl⟩
theorem issues_amoMax (f : Amo) : Issues (.amoMax f) := ⟨_, _, fun _ => rfl⟩
theorem issues_amoMinn (f : Amo) : Issues (.amoMinn f) := ⟨_, _, fun _ => rfl⟩
theorem issues_amoMaxn (f : Amo) : Issues (.amoMaxn f) := ⟨_, _, fun _ => rfl⟩
theorem issues_amoCas (f : Amo) : Issues (.amoCas f) := ⟨_, _, fun _ => rfl⟩
theorem issues_scopen (f : Pair) : Issues (.scopen f) := ⟨_, _, fun _ => rfl⟩
theorem issues_scaddO (f : R3) : Issues (.scaddO f) := ⟨_, _, fun _ => rfl⟩
theorem issues_scaddU (f : R3) : Issues (.scaddU f) := ⟨_, _, fun _ => rfl⟩
theorem issues_scflush (f : R2) : Issues (.scflush f) := ⟨_, _, fun _ => rfl⟩
theorem issues_fence (f : FenceF) : Issues (.fence f) := ⟨_, _, fun _ => rfl⟩
theorem issues_fenceAcq (f : FenceF) : Issues (.fenceAcq f) := ⟨_, _, fun _ => rfl⟩
theorem issues_fenceRel (f : FenceF) : Issues (.fenceRel f) := ⟨_, _, fun _ => rfl⟩
theorem issues_xcopy (f : Eng) : Issues (.xcopy f) := ⟨_, _, fun _ => rfl⟩
theorem issues_xcopyz (f : Eng) : Issues (.xcopyz f) := ⟨_, _, fun _ => rfl⟩
theorem issues_xfill (f : Eng) : Issues (.xfill f) := ⟨_, _, fun _ => rfl⟩
theorem issues_xquery (f : R3) : Issues (.xquery f) := ⟨_, _, fun _ => rfl⟩
theorem issues_xgrid (f : R3) : Issues (.xgrid f) := ⟨_, _, fun _ => rfl⟩
theorem issues_xcoll (f : Eng) : Issues (.xcoll f) := ⟨_, _, fun _ => rfl⟩
theorem issues_xnote (f : R2) : Issues (.xnote f) := ⟨_, _, fun _ => rfl⟩

theorem exec_issues (i : Instr) (h : (encodeWord i).isSome = true) : Issues i := by
  cases i with
  | add f => exact issues_add f
  | sub f => exact issues_sub f
  | and f => exact issues_and f
  | or f => exact issues_or f
  | xor f => exact issues_xor f
  | andn f => exact issues_andn f
  | sll f => exact issues_sll f
  | srl f => exact issues_srl f
  | sra f => exact issues_sra f
  | rol f => exact issues_rol f
  | slt f => exact issues_slt f
  | sltn f => exact issues_sltn f
  | seq f => exact issues_seq f
  | min f => exact issues_min f
  | max f => exact issues_max f
  | minn f => exact issues_minn f
  | maxn f => exact issues_maxn f
  | addw f => exact issues_addw f
  | subw f => exact issues_subw f
  | adds1 f => exact issues_adds1 f
  | adds2 f => exact issues_adds2 f
  | adds3 f => exact issues_adds3 f
  | slli f => exact issues_slli f
  | srli f => exact issues_srli f
  | srai f => exact issues_srai f
  | roli f => exact issues_roli f
  | mul f => exact issues_mul f
  | mulh f => exact issues_mulh f
  | mulhn f => exact issues_mulhn f
  | div f => exact issues_div f
  | divn f => exact issues_divn f
  | rem f => exact issues_rem f
  | remn f => exact issues_remn f
  | clz f => exact issues_clz f
  | ctz f => exact issues_ctz f
  | cpop f => exact issues_cpop f
  | bext f => exact issues_bext f
  | bins f => exact issues_bins f
  | addi f => exact issues_addi f
  | andi f => exact issues_andi f
  | ori f => exact issues_ori f
  | xori f => exact issues_xori f
  | lih f => exact issues_lih f
  | ldxb f => exact issues_ldxb f
  | ldxbn f => exact issues_ldxbn f
  | ldxh f => exact issues_ldxh f
  | ldxhn f => exact issues_ldxhn f
  | ldxw f => exact issues_ldxw f
  | ldxwn f => exact issues_ldxwn f
  | ldxd f => exact issues_ldxd f
  | stxb f => exact issues_stxb f
  | stxh f => exact issues_stxh f
  | stxw f => exact issues_stxw f
  | stxd f => exact issues_stxd f
  | cwb f => exact issues_cwb f
  | czero f => exact issues_czero f
  | ldd f => exact issues_ldd f
  | ldw f => exact issues_ldw f
  | ldwn f => exact issues_ldwn f
  | std f => exact issues_std f
  | stw f => exact issues_stw f
  | lr f => exact issues_lr f
  | lrw f => exact issues_lrw f
  | sc f => exact issues_sc f
  | scw f => exact issues_scw f
  | pref f => exact issues_pref f
  | beq f => exact issues_beq f
  | bne f => exact issues_bne f
  | blt f => exact issues_blt f
  | bge f => exact issues_bge f
  | bltn f => exact issues_bltn f
  | bgen f => exact issues_bgen f
  | jal f => exact issues_jal f
  | jalr f => exact issues_jalr f
  | rdpc f => exact issues_rdpc f
  | loop f => exact issues_loop f
  | loopi f => exact issues_loopi f
  | lpop f => exact issues_lpop f
  | lbrk f => exact issues_lbrk f
  | lcnt f => exact issues_lcnt f
  | ldep f => exact issues_ldep f
  | bgs f => exact issues_bgs f
  | bgsn f => exact issues_bgsn f
  | mfc f => exact issues_mfc f
  | mtc f => exact issues_mtc f
  | mcset f => exact issues_mcset f
  | mcclr f => exact issues_mcclr f
  | rft f => exact issues_rft f
  | trap f => exact issues_trap f
  | ifence f => exact issues_ifence f
  | pause f => exact issues_pause f
  | sdrain f => exact issues_sdrain f
  | halt f => exact issues_halt f
  | vtype f => exact issues_vtype f
  | mfg f => exact issues_mfg f
  | zctw f => exact issues_zctw f
  | zcswap f => exact issues_zcswap f
  | strip f => exact issues_strip f
  | sclose f => exact issues_sclose f
  | scloseRel f => exact issues_scloseRel f
  | zld f => exact issues_zld f
  | zst f => exact issues_zst f
  | zfind f => exact issues_zfind f
  | zskip f => exact issues_zskip f
  | vld f => exact issues_vld f
  | vlds f => exact issues_vlds f
  | vldb f => exact issues_vldb f
  | vldo f => exact issues_vldo f
  | vldso f => exact issues_vldso f
  | vldx f => exact issues_vldx f
  | vldxo f => exact issues_vldxo f
  | vst f => exact issues_vst f
  | vsts f => exact issues_vsts f
  | vstc f => exact issues_vstc f
  | vsto f => exact issues_vsto f
  | vstso f => exact issues_vstso f
  | vstx f => exact issues_vstx f
  | vstxo f => exact issues_vstxo f
  | vadd f => exact issues_vadd f
  | vsub f => exact issues_vsub f
  | vmul f => exact issues_vmul f
  | vdiv f => exact issues_vdiv f
  | vmin f => exact issues_vmin f
  | vmax f => exact issues_vmax f
  | vabsd f => exact issues_vabsd f
  | vand f => exact issues_vand f
  | vor f => exact issues_vor f
  | vxor f => exact issues_vxor f
  | vsll f => exact issues_vsll f
  | vsrl f => exact issues_vsrl f
  | vsra f => exact issues_vsra f
  | vneg f => exact issues_vneg f
  | vabs f => exact issues_vabs f
  | vsqrt f => exact issues_vsqrt f
  | vmov f => exact issues_vmov f
  | vadds f => exact issues_vadds f
  | vmuls f => exact issues_vmuls f
  | vbcast f => exact issues_vbcast f
  | vid f => exact issues_vid f
  | vfma f => exact issues_vfma f
  | vfms f => exact issues_vfms f
  | vfnma f => exact issues_vfnma f
  | vtsum f => exact issues_vtsum f
  | vtprod f => exact issues_vtprod f
  | vceq f => exact issues_vceq f
  | vcne f => exact issues_vcne f
  | vclt f => exact issues_vclt f
  | vcle f => exact issues_vcle f
  | vcnan f => exact issues_vcnan f
  | vcvt f => exact issues_vcvt f
  | vqnt f => exact issues_vqnt f
  | vdqnt f => exact issues_vdqnt f
  | vsel f => exact issues_vsel f
  | vslup f => exact issues_vslup f
  | vsldn f => exact issues_vsldn f
  | vperm f => exact issues_vperm f
  | vcomp f => exact issues_vcomp f
  | vredo f => exact issues_vredo f
  | vredt f => exact issues_vredt f
  | vscano f => exact issues_vscano f
  | vscanf f => exact issues_vscanf f
  | vredmin f => exact issues_vredmin f
  | vredmax f => exact issues_vredmax f
  | mand f => exact issues_mand f
  | mor f => exact issues_mor f
  | mxor f => exact issues_mxor f
  | mandn f => exact issues_mandn f
  | mnot f => exact issues_mnot f
  | mlen f => exact issues_mlen f
  | mpop f => exact issues_mpop f
  | mfirst f => exact issues_mfirst f
  | tmac f => exact issues_tmac f
  | tdist f => exact issues_tdist f
  | tcupd f => exact issues_tcupd f
  | tacc f => exact issues_tacc f
  | tdrain f => exact issues_tdrain f
  | tfill f => exact issues_tfill f
  | tzero f => exact issues_tzero f
  | tcdiv f => exact issues_tcdiv f
  | tcget f => exact issues_tcget f
  | tld f => exact issues_tld f
  | tmode f => exact issues_tmode f
  | tmodr f => exact issues_tmodr f
  | tmodc f => exact issues_tmodc f
  | tbest f => exact issues_tbest f
  | tcnt f => exact issues_tcnt f
  | cfun f => exact issues_cfun f
  | ccor f => exact issues_ccor f
  | cseq f => exact issues_cseq f
  | cpar f => exact issues_cpar f
  | cpipe f => exact issues_cpipe f
  | cfarm f => exact issues_cfarm f
  | cloop f => exact issues_cloop f
  | capply f => exact issues_capply f
  | cret f => exact issues_cret f
  | cyield f => exact issues_cyield f
  | wid f => exact issues_wid f
  | chput f => exact issues_chput f
  | chget f => exact issues_chget f
  | barv f => exact issues_barv f
  | barw f => exact issues_barw f
  | bara f => exact issues_bara f
  | amoSwap f => exact issues_amoSwap f
  | amoAdd f => exact issues_amoAdd f
  | amoAnd f => exact issues_amoAnd f
  | amoOr f => exact issues_amoOr f
  | amoXor f => exact issues_amoXor f
  | amoMin f => exact issues_amoMin f
  | amoMax f => exact issues_amoMax f
  | amoMinn f => exact issues_amoMinn f
  | amoMaxn f => exact issues_amoMaxn f
  | amoCas f => exact issues_amoCas f
  | scopen f => exact issues_scopen f
  | scaddO f => exact issues_scaddO f
  | scaddU f => exact issues_scaddU f
  | scflush f => exact issues_scflush f
  | fence f => exact issues_fence f
  | fenceAcq f => exact issues_fenceAcq f
  | fenceRel f => exact issues_fenceRel f
  | xcopy f => exact issues_xcopy f
  | xcopyz f => exact issues_xcopyz f
  | xfill f => exact issues_xfill f
  | xquery f => exact issues_xquery f
  | xgrid f => exact issues_xgrid f
  | xcoll f => exact issues_xcoll f
  | xnote f => exact issues_xnote f
  | pop _ => cases h
  | aging => cases h
  | timeSliceQuantum _ => cases h
  | tenantSwitch _ => cases h
  | classTableSwap _ => cases h
  | generationDrain _ => cases h
  | barwPhaseReached _ => cases h
  | barwTimeout _ => cases h
  | engineChunkComplete _ _ => cases h
  | engineCommandComplete _ => cases h
  | engineCommandFail _ => cases h
  | translationStallResolved _ => cases h
  | xqueryAnswer _ => cases h
  | xgridDeclare _ => cases h
  | scaddUpdateArrival _ => cases h
  | scatterRoundClose _ => cases h
  | collectiveComplete _ => cases h
  | preemptionRequest _ _ => cases h
  | preemptEscalation _ => cases h
  | contextSave _ => cases h
  | contextRestore _ _ => cases h
  | doubleFaultRecovery _ => cases h
  | haltedRecordEnd _ => cases h
  | tableRebuild _ => cases h
  | weltRebind _ _ => cases h
  | crcFailure _ _ => cases h
  | linkLaneRetrain _ _ => cases h
  | fabricFrameReceive _ _ => cases h
  | keySwitch _ => cases h
  | poisonNotice _ _ _ => cases h
  | sessionGapTimeout _ _ _ => cases h
  | createPartition _ _ => cases h
  | destroyPartition _ _ => cases h
  | resize _ _ _ => cases h
  | installKey _ _ _ _ => cases h
  | releaseKey _ _ => cases h
  | setPatternTable _ _ => cases h
  | setHandler _ _ => cases h
  | openSession _ => cases h
  | closeSession _ => cases h
  | map _ _ => cases h
  | unmap _ _ _ => cases h
  | copy _ _ _ _ => cases h
  | launch _ _ => cases h
  | cancel _ _ => cases h
  | signal _ _ _ => cases h
  | latencyTolerance _ _ => cases h
  | registerGroup _ _ => cases h
  | configurePort _ _ _ => cases h
  | fetchDump _ _ _ => cases h
  | readTrapLog _ _ _ => cases h
  | unknownRequestType _ => cases h
  | attest _ _ => cases h
  | writeImage _ _ _ => cases h
  | activateImage _ => cases h
  | readSensors _ => cases h
  | readErrorLog _ _ _ => cases h
  | mgmtFetchDump _ _ _ => cases h
  | resetDevice _ => cases h
  | powerOff _ => cases h
  | powerUp => cases h
  | throttle => cases h
  | criticalTemperature _ => cases h
  | watchdogExpiry => cases h
  | fatalError _ _ _ _ => cases h
  | powerStateEntry _ => cases h
  | wakeEvent _ => cases h
  | illegalInstruction => cases h
  | instructionFetchFault => cases h
  | powerLoss _ => cases h
  | throttleRelease => cases h
  | rankUnreachable _ => cases h

end Sys2Proof.Machine
end

