-- ==== Sys2Proof/Laws/Loop.lean ====
section
/-!
SUPPORT. The element loop (R114): when it stops without a trap, why it stops, and what it has formed; and the frame of the
vector words that run it.
-/

namespace Sys2Proof.Machine

theorem loopLimit_le (L : Nat) (lims : List Nat) : loopLimit L lims ≤ L ∧ ∀ l ∈ lims, loopLimit L lims ≤ l := by
  induction lims generalizing L with
  | nil => simp [loopLimit]
  | cons a t ih =>
    have h := ih (min L a)
    simp only [loopLimit, List.foldl_cons] at *
    refine ⟨by omega, fun l hl => ?_⟩
    rcases List.mem_cons.mp hl with rfl | hl
    · omega
    · exact h.2 l hl

theorem lt_loopLimit {L n : Nat} {lims : List Nat} : n < loopLimit L lims ↔ n < L ∧ ∀ l ∈ lims, n < l := by
  induction lims generalizing L with
  | nil => simp [loopLimit]
  | cons a t ih =>
    have h := ih (L := min L a)
    simp only [loopLimit, List.foldl_cons, List.mem_cons, forall_eq_or_imp] at *
    rw [h, Nat.lt_min, and_assoc]

theorem lastActive_spec (mask : Option (BitVec 4096)) (lim : Nat) :
    lastActive mask lim ≤ lim ∧ (∀ k, lastActive mask lim ≤ k → k < lim → activeAt mask k = false) ∧
      (lastActive mask lim ≠ 0 → activeAt mask (lastActive mask lim - 1) = true) := by
  induction lim with
  | zero => simp [lastActive]
  | succ n ih =>
    by_cases h : activeAt mask n = true
    · simp only [lastActive, h, if_true]
      exact ⟨Nat.le_refl _, fun k h1 h2 => by omega, fun _ => h⟩
    · simp only [lastActive, h]
      refine ⟨by simp; omega, fun k h1 h2 => ?_, ih.2.2⟩
      by_cases hk : k = n
      · subst hk
        simpa using h
      · exact ih.2.1 k h1 (by omega)

/-- The loop forms elements as long as nothing traps: with an invariant of what is formed, it answers a result. -/
theorem loopFrom_ok {σ : Type} {L : Nat} {lims : List Nat} {masked : Bool} {last : Nat} {form : Nat → σ → Formed σ}
    (P : Nat → σ → Prop)
    (step : ∀ n y, n < loopLimit L lims → P n y → (∃ z, form n y = .put z ∧ P (n + 1) z) ∨ form n y = .full)
    (fuel n : Nat) (x : σ) (hL : n ≤ L) (h : P n x) :
    ∃ k gs y, loopFrom L lims masked last form fuel n x = .ok (k, gs, y) ∧ P k y := by
  induction fuel generalizing n x with
  | zero => exact ⟨n, gsGrant, x, rfl, h⟩
  | succ fuel ih =>
    unfold loopFrom
    split
    · exact ⟨_, _, _, rfl, h⟩
    · split
      · exact ⟨_, _, _, rfl, h⟩
      · split
        · exact ⟨_, _, _, rfl, h⟩
        · split
          · exact ⟨_, _, _, rfl, h⟩
          · rename_i hn hl _
            have hlt : n < loopLimit L lims := lt_loopLimit.mpr ⟨by omega, by simpa using hl⟩
            rcases step n x hlt h with ⟨z, hz, hp⟩ | hf
            · rw [hz]
              exact ih (n + 1) z (by have := (lt_loopLimit.mp hlt).1; omega) hp
            · rw [hf]
              exact ⟨_, _, _, rfl, h⟩

theorem elemLoop_ok {σ : Type} {L : Nat} {lims : List Nat} {mask : Option (BitVec 4096)} {form : Nat → σ → Formed σ}
    (P : Nat → σ → Prop) {x : σ} (h0 : P 0 x)
    (step : ∀ n y, n < loopLimit L lims → P n y → (∃ z, form n y = .put z ∧ P (n + 1) z) ∨ form n y = .full) :
    ∃ k gs y, elemLoop L lims mask form x = .ok (k, gs, y) ∧ P k y :=
  loopFrom_ok P step _ 0 x (Nat.zero_le _) h0

/-- The frame of a word of a vector class. -/
theorem classed_ready {s : State} {i : Instr} {c : Class} {m : Mask3} {t : VType} {group : VType → Bool}
    (h : s.VecReady i c m t group) (body : VType → State → Res) : classed c m body s.due = body t s.due := by
  have ht : s.due.typeOr = t := by simp [State.typeOr, h.typed]
  have hm : s.due.maskCheck m = .ok () := h.mask
  simp only [classed, ht, h.cls, hm, Bool.not_true, Bool.false_eq_true, if_false]

end Sys2Proof.Machine
end

