-- ==== Sys2Proof/Laws/PerInstr.lean ====
section
/-!
SUPPORT. Decoding gives back every instruction that has a word (R53, R60): one lemma per constructor. An event has no
word, so nothing is asked of it.
-/

namespace Sys2Proof.Laws.Encoded

set_option Elab.async false

/-- The word of a well-formed instruction decodes to it, with every operand at every value that its fields hold. -/
def Statement (i : Instr) : Prop := i.wf = true → ∀ x, encodeWord i = some x → decodeWord x = .ok i

theorem add (f : R3) : Statement (.add f) := by
  rintro - x ⟨⟩
  obtain ⟨hM, h2, -, -, hg⟩ := R3.put_law (maj := 0x01) (fn := 0) f (by decide) (by decide)
  rw [decodeWord_01 hM, decode01, h2, hg]
  rfl

theorem sub (f : R3) : Statement (.sub f) := by
  rintro - x ⟨⟩
  obtain ⟨hM, h2, -, -, hg⟩ := R3.put_law (maj := 0x01) (fn := 1) f (by decide) (by decide)
  rw [decodeWord_01 hM, decode01, h2, hg]
  rfl

theorem and (f : R3) : Statement (.and f) := by
  rintro - x ⟨⟩
  obtain ⟨hM, h2, -, -, hg⟩ := R3.put_law (maj := 0x01) (fn := 2) f (by decide) (by decide)
  rw [decodeWord_01 hM, decode01, h2, hg]
  rfl

theorem or (f : R3) : Statement (.or f) := by
  rintro - x ⟨⟩
  obtain ⟨hM, h2, -, -, hg⟩ := R3.put_law (maj := 0x01) (fn := 3) f (by decide) (by decide)
  rw [decodeWord_01 hM, decode01, h2, hg]
  rfl

theorem xor (f : R3) : Statement (.xor f) := by
  rintro - x ⟨⟩
  obtain ⟨hM, h2, -, -, hg⟩ := R3.put_law (maj := 0x01) (fn := 4) f (by decide) (by decide)
  rw [decodeWord_01 hM, decode01, h2, hg]
  rfl

theorem andn (f : R3) : Statement (.andn f) := by
  rintro - x ⟨⟩
  obtain ⟨hM, h2, -, -, hg⟩ := R3.put_law (maj := 0x01) (fn := 5) f (by decide) (by decide)
  rw [decodeWord_01 hM, decode01, h2, hg]
  rfl

theorem sll (f : R3) : Statement (.sll f) := by
  rintro - x ⟨⟩
  obtain ⟨hM, h2, -, -, hg⟩ := R3.put_law (maj := 0x01) (fn := 6) f (by decide) (by decide)
  rw [decodeWord_01 hM, decode01, h2, hg]
  rfl

theorem srl (f : R3) : Statement (.srl f) := by
  rintro - x ⟨⟩
  obtain ⟨hM, h2, -, -, hg⟩ := R3.put_law (maj := 0x01) (fn := 7) f (by decide) (by decide)
  rw [decodeWord_01 hM, decode01, h2, hg]
  rfl

theorem sra (f : R3) : Statement (.sra f) := by
  rintro - x ⟨⟩
  obtain ⟨hM, h2, -, -, hg⟩ := R3.put_law (maj := 0x01) (fn := 8) f (by decide) (by decide)
  rw [decodeWord_01 hM, decode01, h2, hg]
  rfl

theorem rol (f : R3) : Statement (.rol f) := by
  rintro - x ⟨⟩
  obtain ⟨hM, h2, -, -, hg⟩ := R3.put_law (maj := 0x01) (fn := 9) f (by decide) (by decide)
  rw [decodeWord_01 hM, decode01, h2, hg]
  rfl

theorem slt (f : R3) : Statement (.slt f) := by
  rintro - x ⟨⟩
  obtain ⟨hM, h2, -, -, hg⟩ := R3.put_law (maj := 0x01) (fn := 10) f (by decide) (by decide)
  rw [decodeWord_01 hM, decode01, h2, hg]
  rfl

theorem sltn (f : R3) : Statement (.sltn f) := by
  rintro - x ⟨⟩
  obtain ⟨hM, h2, -, -, hg⟩ := R3.put_law (maj := 0x01) (fn := 11) f (by decide) (by decide)
  rw [decodeWord_01 hM, decode01, h2, hg]
  rfl

theorem seq (f : R3) : Statement (.seq f) := by
  rintro - x ⟨⟩
  obtain ⟨hM, h2, -, -, hg⟩ := R3.put_law (maj := 0x01) (fn := 12) f (by decide) (by decide)
  rw [decodeWord_01 hM, decode01, h2, hg]
  rfl

theorem min (f : R3) : Statement (.min f) := by
  rintro - x ⟨⟩
  obtain ⟨hM, h2, -, -, hg⟩ := R3.put_law (maj := 0x01) (fn := 13) f (by decide) (by decide)
  rw [decodeWord_01 hM, decode01, h2, hg]
  rfl

theorem max (f : R3) : Statement (.max f) := by
  rintro - x ⟨⟩
  obtain ⟨hM, h2, -, -, hg⟩ := R3.put_law (maj := 0x01) (fn := 14) f (by decide) (by decide)
  rw [decodeWord_01 hM, decode01, h2, hg]
  rfl

theorem minn (f : R3) : Statement (.minn f) := by
  rintro - x ⟨⟩
  obtain ⟨hM, h2, -, -, hg⟩ := R3.put_law (maj := 0x01) (fn := 15) f (by decide) (by decide)
  rw [decodeWord_01 hM, decode01, h2, hg]
  rfl

theorem maxn (f : R3) : Statement (.maxn f) := by
  rintro - x ⟨⟩
  obtain ⟨hM, h2, -, -, hg⟩ := R3.put_law (maj := 0x01) (fn := 16) f (by decide) (by decide)
  rw [decodeWord_01 hM, decode01, h2, hg]
  rfl

theorem addw (f : R3) : Statement (.addw f) := by
  rintro - x ⟨⟩
  obtain ⟨hM, h2, -, -, hg⟩ := R3.put_law (maj := 0x01) (fn := 17) f (by decide) (by decide)
  rw [decodeWord_01 hM, decode01, h2, hg]
  rfl

theorem subw (f : R3) : Statement (.subw f) := by
  rintro - x ⟨⟩
  obtain ⟨hM, h2, -, -, hg⟩ := R3.put_law (maj := 0x01) (fn := 18) f (by decide) (by decide)
  rw [decodeWord_01 hM, decode01, h2, hg]
  rfl

theorem adds1 (f : R3) : Statement (.adds1 f) := by
  rintro - x ⟨⟩
  obtain ⟨hM, h2, -, -, hg⟩ := R3.put_law (maj := 0x01) (fn := 19) f (by decide) (by decide)
  rw [decodeWord_01 hM, decode01, h2, hg]
  rfl

theorem adds2 (f : R3) : Statement (.adds2 f) := by
  rintro - x ⟨⟩
  obtain ⟨hM, h2, -, -, hg⟩ := R3.put_law (maj := 0x01) (fn := 20) f (by decide) (by decide)
  rw [decodeWord_01 hM, decode01, h2, hg]
  rfl

theorem adds3 (f : R3) : Statement (.adds3 f) := by
  rintro - x ⟨⟩
  obtain ⟨hM, h2, -, -, hg⟩ := R3.put_law (maj := 0x01) (fn := 21) f (by decide) (by decide)
  rw [decodeWord_01 hM, decode01, h2, hg]
  rfl

theorem slli (f : Shift) : Statement (.slli f) := by
  rintro - x ⟨⟩
  obtain ⟨hM, h2, hg⟩ := Shift.put_law (maj := 0x01) (fn := 32) f (by decide) (by decide) (by decide)
  have hk : f.k.val / 32 = 0 ∨ f.k.val / 32 = 1 := by
    have := f.k.isLt
    omega
  rcases hk with hk | hk <;> rw [decodeWord_01 hM, decode01, h2, hk, hg] <;> rfl

theorem srli (f : Shift) : Statement (.srli f) := by
  rintro - x ⟨⟩
  obtain ⟨hM, h2, hg⟩ := Shift.put_law (maj := 0x01) (fn := 34) f (by decide) (by decide) (by decide)
  have hk : f.k.val / 32 = 0 ∨ f.k.val / 32 = 1 := by
    have := f.k.isLt
    omega
  rcases hk with hk | hk <;> rw [decodeWord_01 hM, decode01, h2, hk, hg] <;> rfl

theorem srai (f : Shift) : Statement (.srai f) := by
  rintro - x ⟨⟩
  obtain ⟨hM, h2, hg⟩ := Shift.put_law (maj := 0x01) (fn := 36) f (by decide) (by decide) (by decide)
  have hk : f.k.val / 32 = 0 ∨ f.k.val / 32 = 1 := by
    have := f.k.isLt
    omega
  rcases hk with hk | hk <;> rw [decodeWord_01 hM, decode01, h2, hk, hg] <;> rfl

theorem roli (f : Shift) : Statement (.roli f) := by
  rintro - x ⟨⟩
  obtain ⟨hM, h2, hg⟩ := Shift.put_law (maj := 0x01) (fn := 38) f (by decide) (by decide) (by decide)
  have hk : f.k.val / 32 = 0 ∨ f.k.val / 32 = 1 := by
    have := f.k.isLt
    omega
  rcases hk with hk | hk <;> rw [decodeWord_01 hM, decode01, h2, hk, hg] <;> rfl

theorem mul (f : R3) : Statement (.mul f) := by
  rintro - x ⟨⟩
  obtain ⟨hM, h2, -, -, hg⟩ := R3.put_law (maj := 0x02) (fn := 0) f (by decide) (by decide)
  rw [decodeWord_02 hM, decode02, h2, hg]
  rfl

theorem mulh (f : R3) : Statement (.mulh f) := by
  rintro - x ⟨⟩
  obtain ⟨hM, h2, -, -, hg⟩ := R3.put_law (maj := 0x02) (fn := 1) f (by decide) (by decide)
  rw [decodeWord_02 hM, decode02, h2, hg]
  rfl

theorem mulhn (f : R3) : Statement (.mulhn f) := by
  rintro - x ⟨⟩
  obtain ⟨hM, h2, -, -, hg⟩ := R3.put_law (maj := 0x02) (fn := 2) f (by decide) (by decide)
  rw [decodeWord_02 hM, decode02, h2, hg]
  rfl

theorem div (f : R3) : Statement (.div f) := by
  rintro - x ⟨⟩
  obtain ⟨hM, h2, -, -, hg⟩ := R3.put_law (maj := 0x02) (fn := 3) f (by decide) (by decide)
  rw [decodeWord_02 hM, decode02, h2, hg]
  rfl

theorem divn (f : R3) : Statement (.divn f) := by
  rintro - x ⟨⟩
  obtain ⟨hM, h2, -, -, hg⟩ := R3.put_law (maj := 0x02) (fn := 4) f (by decide) (by decide)
  rw [decodeWord_02 hM, decode02, h2, hg]
  rfl

theorem rem (f : R3) : Statement (.rem f) := by
  rintro - x ⟨⟩
  obtain ⟨hM, h2, -, -, hg⟩ := R3.put_law (maj := 0x02) (fn := 5) f (by decide) (by decide)
  rw [decodeWord_02 hM, decode02, h2, hg]
  rfl

theorem remn (f : R3) : Statement (.remn f) := by
  rintro - x ⟨⟩
  obtain ⟨hM, h2, -, -, hg⟩ := R3.put_law (maj := 0x02) (fn := 6) f (by decide) (by decide)
  rw [decodeWord_02 hM, decode02, h2, hg]
  rfl

theorem clz (f : R2) : Statement (.clz f) := by
  rintro - x ⟨⟩
  obtain ⟨hM, h2, -, -, h5, hg⟩ := R2.put_law (maj := 0x02) (fn := 7) f (by decide) (by decide)
  rw [decodeWord_02 hM, decode02, h2, h5, hg]
  rfl

theorem ctz (f : R2) : Statement (.ctz f) := by
  rintro - x ⟨⟩
  obtain ⟨hM, h2, -, -, h5, hg⟩ := R2.put_law (maj := 0x02) (fn := 8) f (by decide) (by decide)
  rw [decodeWord_02 hM, decode02, h2, h5, hg]
  rfl

theorem cpop (f : R2) : Statement (.cpop f) := by
  rintro - x ⟨⟩
  obtain ⟨hM, h2, -, -, h5, hg⟩ := R2.put_law (maj := 0x02) (fn := 9) f (by decide) (by decide)
  rw [decodeWord_02 hM, decode02, h2, h5, hg]
  rfl

theorem bext (f : R3) : Statement (.bext f) := by
  rintro - x ⟨⟩
  obtain ⟨hM, h2, -, -, hg⟩ := R3.put_law (maj := 0x02) (fn := 10) f (by decide) (by decide)
  rw [decodeWord_02 hM, decode02, h2, hg]
  rfl

theorem bins (f : R3) : Statement (.bins f) := by
  rintro - x ⟨⟩
  obtain ⟨hM, h2, -, -, hg⟩ := R3.put_law (maj := 0x02) (fn := 11) f (by decide) (by decide)
  rw [decodeWord_02 hM, decode02, h2, hg]
  rfl

theorem addi (f : ImmI) : Statement (.addi f) := by
  rintro - x ⟨⟩
  obtain ⟨hM, hg⟩ := ImmI.put_law (maj := 0x03) f (by decide)
  rw [decodeWord_03 hM, hg]

theorem andi (f : ImmI) : Statement (.andi f) := by
  rintro - x ⟨⟩
  obtain ⟨hM, hg⟩ := ImmI.put_law (maj := 0x04) f (by decide)
  rw [decodeWord_04 hM, hg]

theorem ori (f : ImmI) : Statement (.ori f) := by
  rintro - x ⟨⟩
  obtain ⟨hM, hg⟩ := ImmI.put_law (maj := 0x05) f (by decide)
  rw [decodeWord_05 hM, hg]

theorem xori (f : ImmI) : Statement (.xori f) := by
  rintro - x ⟨⟩
  obtain ⟨hM, hg⟩ := ImmI.put_law (maj := 0x06) f (by decide)
  rw [decodeWord_06 hM, hg]

theorem lih (f : ImmJ) : Statement (.lih f) := by
  rintro - x ⟨⟩
  obtain ⟨hM, hg⟩ := ImmJ.put_law (maj := 0x07) f (by decide)
  rw [decodeWord_07 hM, hg]

theorem ldxb (f : R3) : Statement (.ldxb f) := by
  rintro - x ⟨⟩
  obtain ⟨hM, h2, -, -, hg⟩ := R3.put_law (maj := 0x08) (fn := 0) f (by decide) (by decide)
  rw [decodeWord_08 hM, decode08, h2, hg]
  rfl

theorem ldxbn (f : R3) : Statement (.ldxbn f) := by
  rintro - x ⟨⟩
  obtain ⟨hM, h2, -, -, hg⟩ := R3.put_law (maj := 0x08) (fn := 1) f (by decide) (by decide)
  rw [decodeWord_08 hM, decode08, h2, hg]
  rfl

theorem ldxh (f : R3) : Statement (.ldxh f) := by
  rintro - x ⟨⟩
  obtain ⟨hM, h2, -, -, hg⟩ := R3.put_law (maj := 0x08) (fn := 2) f (by decide) (by decide)
  rw [decodeWord_08 hM, decode08, h2, hg]
  rfl

theorem ldxhn (f : R3) : Statement (.ldxhn f) := by
  rintro - x ⟨⟩
  obtain ⟨hM, h2, -, -, hg⟩ := R3.put_law (maj := 0x08) (fn := 3) f (by decide) (by decide)
  rw [decodeWord_08 hM, decode08, h2, hg]
  rfl

theorem ldxw (f : R3) : Statement (.ldxw f) := by
  rintro - x ⟨⟩
  obtain ⟨hM, h2, -, -, hg⟩ := R3.put_law (maj := 0x08) (fn := 4) f (by decide) (by decide)
  rw [decodeWord_08 hM, decode08, h2, hg]
  rfl

theorem ldxwn (f : R3) : Statement (.ldxwn f) := by
  rintro - x ⟨⟩
  obtain ⟨hM, h2, -, -, hg⟩ := R3.put_law (maj := 0x08) (fn := 5) f (by decide) (by decide)
  rw [decodeWord_08 hM, decode08, h2, hg]
  rfl

theorem ldxd (f : R3) : Statement (.ldxd f) := by
  rintro - x ⟨⟩
  obtain ⟨hM, h2, -, -, hg⟩ := R3.put_law (maj := 0x08) (fn := 6) f (by decide) (by decide)
  rw [decodeWord_08 hM, decode08, h2, hg]
  rfl

theorem stxb (f : R3) : Statement (.stxb f) := by
  rintro - x ⟨⟩
  obtain ⟨hM, h2, -, -, hg⟩ := R3.put_law (maj := 0x09) (fn := 0) f (by decide) (by decide)
  rw [decodeWord_09 hM, decode09, h2, hg]
  rfl

theorem stxh (f : R3) : Statement (.stxh f) := by
  rintro - x ⟨⟩
  obtain ⟨hM, h2, -, -, hg⟩ := R3.put_law (maj := 0x09) (fn := 1) f (by decide) (by decide)
  rw [decodeWord_09 hM, decode09, h2, hg]
  rfl

theorem stxw (f : R3) : Statement (.stxw f) := by
  rintro - x ⟨⟩
  obtain ⟨hM, h2, -, -, hg⟩ := R3.put_law (maj := 0x09) (fn := 2) f (by decide) (by decide)
  rw [decodeWord_09 hM, decode09, h2, hg]
  rfl

theorem stxd (f : R3) : Statement (.stxd f) := by
  rintro - x ⟨⟩
  obtain ⟨hM, h2, -, -, hg⟩ := R3.put_law (maj := 0x09) (fn := 3) f (by decide) (by decide)
  rw [decodeWord_09 hM, decode09, h2, hg]
  rfl

theorem cwb (f : Pair) : Statement (.cwb f) := by
  rintro - x ⟨⟩
  obtain ⟨hM, h2, -, -, h5, hg⟩ := Pair.put_law (maj := 0x09) (fn := 4) f (by decide) (by decide)
  rw [decodeWord_09 hM, decode09, h2, h5, hg]
  rfl

theorem czero (f : Pair) : Statement (.czero f) := by
  rintro - x ⟨⟩
  obtain ⟨hM, h2, -, -, h5, hg⟩ := Pair.put_law (maj := 0x09) (fn := 5) f (by decide) (by decide)
  rw [decodeWord_09 hM, decode09, h2, h5, hg]
  rfl

theorem ldd (f : ImmI) : Statement (.ldd f) := by
  rintro - x ⟨⟩
  obtain ⟨hM, hg⟩ := ImmI.put_law (maj := 0x0A) f (by decide)
  rw [decodeWord_0A hM, hg]

theorem ldw (f : ImmI) : Statement (.ldw f) := by
  rintro - x ⟨⟩
  obtain ⟨hM, hg⟩ := ImmI.put_law (maj := 0x0B) f (by decide)
  rw [decodeWord_0B hM, hg]

theorem ldwn (f : ImmI) : Statement (.ldwn f) := by
  rintro - x ⟨⟩
  obtain ⟨hM, hg⟩ := ImmI.put_law (maj := 0x0C) f (by decide)
  rw [decodeWord_0C hM, hg]

theorem std (f : ImmB) : Statement (.std f) := by
  rintro - x ⟨⟩
  obtain ⟨hM, hg⟩ := ImmB.put_law (maj := 0x0D) f (by decide)
  rw [decodeWord_0D hM, hg]

theorem stw (f : ImmB) : Statement (.stw f) := by
  rintro - x ⟨⟩
  obtain ⟨hM, hg⟩ := ImmB.put_law (maj := 0x0E) f (by decide)
  rw [decodeWord_0E hM, hg]

theorem lr (f : R2) : Statement (.lr f) := by
  rintro - x ⟨⟩
  obtain ⟨hM, h2, -, -, h5, hg⟩ := R2.put_law (maj := 0x0F) (fn := 0) f (by decide) (by decide)
  rw [decodeWord_0F hM, decode0F, h2, h5, hg]
  rfl

theorem lrw (f : R2) : Statement (.lrw f) := by
  rintro - x ⟨⟩
  obtain ⟨hM, h2, -, -, h5, hg⟩ := R2.put_law (maj := 0x0F) (fn := 1) f (by decide) (by decide)
  rw [decodeWord_0F hM, decode0F, h2, h5, hg]
  rfl

theorem sc (f : R3) : Statement (.sc f) := by
  rintro - x ⟨⟩
  obtain ⟨hM, h2, -, -, hg⟩ := R3.put_law (maj := 0x0F) (fn := 2) f (by decide) (by decide)
  rw [decodeWord_0F hM, decode0F, h2, hg]
  rfl

theorem scw (f : R3) : Statement (.scw f) := by
  rintro - x ⟨⟩
  obtain ⟨hM, h2, -, -, hg⟩ := R3.put_law (maj := 0x0F) (fn := 3) f (by decide) (by decide)
  rw [decodeWord_0F hM, decode0F, h2, hg]
  rfl

theorem pref (f : Pair) : Statement (.pref f) := by
  rintro - x ⟨⟩
  obtain ⟨hM, h2, -, -, h5, hg⟩ := Pair.put_law (maj := 0x0F) (fn := 4) f (by decide) (by decide)
  rw [decodeWord_0F hM, decode0F, h2, h5, hg]
  rfl

theorem beq (f : ImmB) : Statement (.beq f) := by
  rintro - x ⟨⟩
  obtain ⟨hM, hg⟩ := ImmB.put_law (maj := 0x10) f (by decide)
  rw [decodeWord_10 hM, hg]

theorem bne (f : ImmB) : Statement (.bne f) := by
  rintro - x ⟨⟩
  obtain ⟨hM, hg⟩ := ImmB.put_law (maj := 0x11) f (by decide)
  rw [decodeWord_11 hM, hg]

theorem blt (f : ImmB) : Statement (.blt f) := by
  rintro - x ⟨⟩
  obtain ⟨hM, hg⟩ := ImmB.put_law (maj := 0x12) f (by decide)
  rw [decodeWord_12 hM, hg]

theorem bge (f : ImmB) : Statement (.bge f) := by
  rintro - x ⟨⟩
  obtain ⟨hM, hg⟩ := ImmB.put_law (maj := 0x13) f (by decide)
  rw [decodeWord_13 hM, hg]

theorem bltn (f : ImmB) : Statement (.bltn f) := by
  rintro - x ⟨⟩
  obtain ⟨hM, hg⟩ := ImmB.put_law (maj := 0x14) f (by decide)
  rw [decodeWord_14 hM, hg]

theorem bgen (f : ImmB) : Statement (.bgen f) := by
  rintro - x ⟨⟩
  obtain ⟨hM, hg⟩ := ImmB.put_law (maj := 0x15) f (by decide)
  rw [decodeWord_15 hM, hg]

theorem jal (f : ImmJ) : Statement (.jal f) := by
  rintro - x ⟨⟩
  obtain ⟨hM, hg⟩ := ImmJ.put_law (maj := 0x16) f (by decide)
  rw [decodeWord_16 hM, hg]

theorem jalr (f : R2) : Statement (.jalr f) := by
  rintro - x ⟨⟩
  obtain ⟨hM, h2, -, -, h5, hg⟩ := R2.put_law (maj := 0x17) (fn := 0) f (by decide) (by decide)
  rw [decodeWord_17 hM, decode17, h2, h5, hg]
  rfl

theorem rdpc (f : Dst) : Statement (.rdpc f) := by
  rintro - x ⟨⟩
  obtain ⟨hM, h2, -, -, h5, h6, hg⟩ := Dst.put_law (maj := 0x17) (fn := 1) f (by decide) (by decide)
  rw [decodeWord_17 hM, decode17, h2, h5, h6, hg]
  rfl

theorem loop (f : LoopR) : Statement (.loop f) := by
  rintro - x ⟨⟩
  obtain ⟨hM, h2, hg⟩ := LoopR.put_law (maj := 0x18) f (by decide)
  rw [decodeWord_18 hM, h2, hg]
  rfl

theorem loopi (f : LoopI) : Statement (.loopi f) := by
  rintro - x ⟨⟩
  obtain ⟨hM, hg⟩ := LoopI.put_law (maj := 0x19) f (by decide)
  rw [decodeWord_19 hM, hg]

theorem lpop (f : Bare) : Statement (.lpop f) := by
  rintro - x ⟨⟩
  obtain ⟨hM, h2, -, h4, h5, h6, -, hg⟩ := Bare.put_law (maj := 0x1A) (fn := 0) f (by decide) (by decide)
  rw [decodeWord_1A hM, decode1A, h2, h4, h5, h6, hg]
  rfl

theorem lbrk (f : Bare) : Statement (.lbrk f) := by
  rintro - x ⟨⟩
  obtain ⟨hM, h2, -, h4, h5, h6, -, hg⟩ := Bare.put_law (maj := 0x1A) (fn := 1) f (by decide) (by decide)
  rw [decodeWord_1A hM, decode1A, h2, h4, h5, h6, hg]
  rfl

theorem lcnt (f : Dst) : Statement (.lcnt f) := by
  rintro - x ⟨⟩
  obtain ⟨hM, h2, -, -, h5, h6, hg⟩ := Dst.put_law (maj := 0x1A) (fn := 2) f (by decide) (by decide)
  rw [decodeWord_1A hM, decode1A, h2, h5, h6, hg]
  rfl

theorem ldep (f : Dst) : Statement (.ldep f) := by
  rintro - x ⟨⟩
  obtain ⟨hM, h2, -, -, h5, h6, hg⟩ := Dst.put_law (maj := 0x1A) (fn := 3) f (by decide) (by decide)
  rw [decodeWord_1A hM, decode1A, h2, h5, h6, hg]
  rfl

theorem bgs (f : Grant) : Statement (.bgs f) := by
  rintro - x ⟨⟩
  obtain ⟨hM, h2, hg⟩ := Grant.put_law (maj := 0x1B) (test := 0) f (by decide) (by decide)
  rw [decodeWord_1B hM, decode1B, h2, hg]
  rfl

theorem bgsn (f : Grant) : Statement (.bgsn f) := by
  rintro - x ⟨⟩
  obtain ⟨hM, h2, hg⟩ := Grant.put_law (maj := 0x1B) (test := 1) f (by decide) (by decide)
  rw [decodeWord_1B hM, decode1B, h2, hg]
  rfl

theorem mfc (f : CtlR) : Statement (.mfc f) := by
  rintro - x ⟨⟩
  obtain ⟨hM, h2, h3, hg⟩ := CtlR.put_law (maj := 0x1C) (op := 0) f (by decide) (by decide)
  rw [decodeWord_1C hM, decode1C, h2, h3, hg]
  rfl

theorem mtc (f : CtlW) : Statement (.mtc f) := by
  rintro - x ⟨⟩
  obtain ⟨hM, h2, hg⟩ := CtlW.put_law (maj := 0x1C) (op := 1) f (by decide) (by decide)
  rw [decodeWord_1C hM, decode1C, h2, hg]
  rfl

theorem mcset (f : CtlW) : Statement (.mcset f) := by
  rintro - x ⟨⟩
  obtain ⟨hM, h2, hg⟩ := CtlW.put_law (maj := 0x1C) (op := 2) f (by decide) (by decide)
  rw [decodeWord_1C hM, decode1C, h2, hg]
  rfl

theorem mcclr (f : CtlW) : Statement (.mcclr f) := by
  rintro - x ⟨⟩
  obtain ⟨hM, h2, hg⟩ := CtlW.put_law (maj := 0x1C) (op := 3) f (by decide) (by decide)
  rw [decodeWord_1C hM, decode1C, h2, hg]
  rfl

theorem rft (f : Bare) : Statement (.rft f) := by
  rintro - x ⟨⟩
  obtain ⟨hM, -, h3, -, -, -, h7, hg⟩ := Bare.put_law (maj := 0x1D) (fn := 0) f (by decide) (by decide)
  rw [decodeWord_1D hM, decode1D, h3, h7, hg]
  rfl

theorem trap (f : TrapK) : Statement (.trap f) := by
  rintro - x ⟨⟩
  obtain ⟨hM, h2, h3, hg⟩ := TrapK.put_law (maj := 0x1D) f (by decide)
  have h4 : (256 + f.k.val) / 256 = 1 := by
    have := f.k.isLt
    omega
  rw [decodeWord_1D hM, decode1D, if_neg (by omega), h2, if_pos h4, h3, hg]
  rfl

theorem ifence (f : Bare) : Statement (.ifence f) := by
  rintro - x ⟨⟩
  obtain ⟨hM, -, h3, -, -, -, h7, hg⟩ := Bare.put_law (maj := 0x1E) (fn := 0) f (by decide) (by decide)
  rw [decodeWord_1E hM, decode1E, h3, h7, hg]
  rfl

theorem pause (f : Bare) : Statement (.pause f) := by
  rintro - x ⟨⟩
  obtain ⟨hM, -, h3, -, -, -, h7, hg⟩ := Bare.put_law (maj := 0x1E) (fn := 1) f (by decide) (by decide)
  rw [decodeWord_1E hM, decode1E, h3, h7, hg]
  rfl

theorem sdrain (f : Bare) : Statement (.sdrain f) := by
  rintro - x ⟨⟩
  obtain ⟨hM, -, h3, -, -, -, h7, hg⟩ := Bare.put_law (maj := 0x1E) (fn := 2) f (by decide) (by decide)
  rw [decodeWord_1E hM, decode1E, h3, h7, hg]
  rfl

theorem halt (f : Bare) : Statement (.halt f) := by
  rintro - x ⟨⟩
  obtain ⟨hM, -, h3, -, -, -, h7, hg⟩ := Bare.put_law (maj := 0x1F) (fn := 0) f (by decide) (by decide)
  rw [decodeWord_1F hM, decode1F, h3, h7, hg]
  rfl

theorem vtype (f : R2) : Statement (.vtype f) := by
  rintro - x ⟨⟩
  obtain ⟨hM, h2, -, -, h5, hg⟩ := R2.put_law (maj := 0x20) (fn := 0) f (by decide) (by decide)
  rw [decodeWord_20 hM, decode20, h2, h5, hg]
  rfl

theorem mfg (f : R3) : Statement (.mfg f) := by
  rintro - x ⟨⟩
  obtain ⟨hM, h2, -, -, hg⟩ := R3.put_law (maj := 0x20) (fn := 1) f (by decide) (by decide)
  rw [decodeWord_20 hM, decode20, h2, hg]
  rfl

theorem zctw (f : R2) : Statement (.zctw f) := by
  rintro - x ⟨⟩
  obtain ⟨hM, h2, -, -, h5, hg⟩ := R2.put_law (maj := 0x20) (fn := 16) f (by decide) (by decide)
  rw [decodeWord_20 hM, decode20, h2, h5, hg]
  rfl

theorem zcswap (f : Bare) : Statement (.zcswap f) := by
  rintro - x ⟨⟩
  obtain ⟨hM, h2, -, h4, h5, h6, -, hg⟩ := Bare.put_law (maj := 0x20) (fn := 17) f (by decide) (by decide)
  rw [decodeWord_20 hM, decode20, h2, h4, h5, h6, hg]
  rfl

theorem strip (f : R3) : Statement (.strip f) := by
  rintro - x ⟨⟩
  obtain ⟨hM, h2, -, -, hg⟩ := R3.put_law (maj := 0x21) (fn := 0) f (by decide) (by decide)
  rw [decodeWord_21 hM, decode21, h2, hg]
  rfl

theorem sclose (f : Bare) : Statement (.sclose f) := by
  rintro - x ⟨⟩
  obtain ⟨hM, h2, -, h4, h5, h6, -, hg⟩ := Bare.put_law (maj := 0x21) (fn := 1) f (by decide) (by decide)
  rw [decodeWord_21 hM, decode21, h2, h4, h5, h6, hg]
  rfl

theorem scloseRel (f : Bare) : Statement (.scloseRel f) := by
  rintro - x ⟨⟩
  obtain ⟨hM, h2, -, h4, h5, h6, -, hg⟩ := Bare.put_law (maj := 0x21) (fn := 2) f (by decide) (by decide)
  rw [decodeWord_21 hM, decode21, h2, h4, h5, h6, hg]
  rfl

theorem zld (f : R3) : Statement (.zld f) := by
  rintro - x ⟨⟩
  obtain ⟨hM, -, h3, h4, hg⟩ := R3.put_law (maj := 0x22) (fn := 0) f (by decide) (by decide)
  rw [decodeWord_22 hM, decode22, h3, h4, hg]
  rfl

theorem zst (f : R2) : Statement (.zst f) := by
  rintro - x ⟨⟩
  obtain ⟨hM, -, h3, h4, h5, hg⟩ := R2.put_law (maj := 0x22) (fn := 1) f (by decide) (by decide)
  rw [decodeWord_22 hM, decode22, h3, h5, h4, hg]
  rfl

theorem zfind (f : R2) : Statement (.zfind f) := by
  rintro - x ⟨⟩
  obtain ⟨hM, -, h3, h4, h5, hg⟩ := R2.put_law (maj := 0x22) (fn := 2) f (by decide) (by decide)
  rw [decodeWord_22 hM, decode22, h3, h5, h4, hg]
  rfl

theorem zskip (f : R3) : Statement (.zskip f) := by
  rintro - x ⟨⟩
  obtain ⟨hM, -, h3, h4, hg⟩ := R3.put_law (maj := 0x22) (fn := 3) f (by decide) (by decide)
  rw [decodeWord_22 hM, decode22, h3, h4, hg]
  rfl

theorem vld (f : V2) : Statement (.vld f) := by
  rintro - x ⟨⟩
  obtain ⟨hM, h2, h3, hg⟩ := V2.put_law (maj := 0x23) (fn := 0) f (by decide) (by decide)
  rw [decodeWord_23 hM, decode23, h2, h3, hg]
  rfl

theorem vlds (f : V3) : Statement (.vlds f) := by
  rintro - x ⟨⟩
  obtain ⟨hM, h2, hg⟩ := V3.put_law (maj := 0x23) (fn := 1) f (by decide) (by decide)
  rw [decodeWord_23 hM, decode23, h2, hg]
  rfl

theorem vldb (f : V2) : Statement (.vldb f) := by
  rintro - x ⟨⟩
  obtain ⟨hM, h2, h3, hg⟩ := V2.put_law (maj := 0x23) (fn := 2) f (by decide) (by decide)
  rw [decodeWord_23 hM, decode23, h2, h3, hg]
  rfl

theorem vldo (f : V2) : Statement (.vldo f) := by
  rintro - x ⟨⟩
  obtain ⟨hM, h2, h3, hg⟩ := V2.put_law (maj := 0x23) (fn := 3) f (by decide) (by decide)
  rw [decodeWord_23 hM, decode23, h2, h3, hg]
  rfl

theorem vldso (f : V3) : Statement (.vldso f) := by
  rintro - x ⟨⟩
  obtain ⟨hM, h2, hg⟩ := V3.put_law (maj := 0x23) (fn := 4) f (by decide) (by decide)
  rw [decodeWord_23 hM, decode23, h2, hg]
  rfl

theorem vldx (f : V3) : Statement (.vldx f) := by
  rintro - x ⟨⟩
  obtain ⟨hM, h2, hg⟩ := V3.put_law (maj := 0x24) (fn := 0) f (by decide) (by decide)
  rw [decodeWord_24 hM, decode24, h2, hg]
  rfl

theorem vldxo (f : V3) : Statement (.vldxo f) := by
  rintro - x ⟨⟩
  obtain ⟨hM, h2, hg⟩ := V3.put_law (maj := 0x24) (fn := 1) f (by decide) (by decide)
  rw [decodeWord_24 hM, decode24, h2, hg]
  rfl

theorem vst (f : V2) : Statement (.vst f) := by
  rintro - x ⟨⟩
  obtain ⟨hM, h2, h3, hg⟩ := V2.put_law (maj := 0x25) (fn := 0) f (by decide) (by decide)
  rw [decodeWord_25 hM, decode25, h2, h3, hg]
  rfl

theorem vsts (f : V3) : Statement (.vsts f) := by
  rintro - x ⟨⟩
  obtain ⟨hM, h2, hg⟩ := V3.put_law (maj := 0x25) (fn := 1) f (by decide) (by decide)
  rw [decodeWord_25 hM, decode25, h2, hg]
  rfl

theorem vstc (f : V2) : Statement (.vstc f) := by
  rintro - x ⟨⟩
  obtain ⟨hM, h2, h3, hg⟩ := V2.put_law (maj := 0x25) (fn := 2) f (by decide) (by decide)
  rw [decodeWord_25 hM, decode25, h2, h3, hg]
  rfl

theorem vsto (f : V2) : Statement (.vsto f) := by
  rintro - x ⟨⟩
  obtain ⟨hM, h2, h3, hg⟩ := V2.put_law (maj := 0x25) (fn := 3) f (by decide) (by decide)
  rw [decodeWord_25 hM, decode25, h2, h3, hg]
  rfl

theorem vstso (f : V3) : Statement (.vstso f) := by
  rintro - x ⟨⟩
  obtain ⟨hM, h2, hg⟩ := V3.put_law (maj := 0x25) (fn := 4) f (by decide) (by decide)
  rw [decodeWord_25 hM, decode25, h2, hg]
  rfl

theorem vstx (f : V3) : Statement (.vstx f) := by
  rintro - x ⟨⟩
  obtain ⟨hM, h2, hg⟩ := V3.put_law (maj := 0x25) (fn := 5) f (by decide) (by decide)
  rw [decodeWord_25 hM, decode25, h2, hg]
  rfl

theorem vstxo (f : V3) : Statement (.vstxo f) := by
  rintro - x ⟨⟩
  obtain ⟨hM, h2, hg⟩ := V3.put_law (maj := 0x25) (fn := 6) f (by decide) (by decide)
  rw [decodeWord_25 hM, decode25, h2, hg]
  rfl

theorem vadd (f : V3) : Statement (.vadd f) := by
  rintro - x ⟨⟩
  obtain ⟨hM, h2, hg⟩ := V3.put_law (maj := 0x26) (fn := 0) f (by decide) (by decide)
  rw [decodeWord_26 hM, decode26, h2, hg]
  rfl

theorem vsub (f : V3) : Statement (.vsub f) := by
  rintro - x ⟨⟩
  obtain ⟨hM, h2, hg⟩ := V3.put_law (maj := 0x26) (fn := 1) f (by decide) (by decide)
  rw [decodeWord_26 hM, decode26, h2, hg]
  rfl

theorem vmul (f : V3) : Statement (.vmul f) := by
  rintro - x ⟨⟩
  obtain ⟨hM, h2, hg⟩ := V3.put_law (maj := 0x26) (fn := 2) f (by decide) (by decide)
  rw [decodeWord_26 hM, decode26, h2, hg]
  rfl

theorem vdiv (f : V3) : Statement (.vdiv f) := by
  rintro - x ⟨⟩
  obtain ⟨hM, h2, hg⟩ := V3.put_law (maj := 0x26) (fn := 3) f (by decide) (by decide)
  rw [decodeWord_26 hM, decode26, h2, hg]
  rfl

theorem vmin (f : V3) : Statement (.vmin f) := by
  rintro - x ⟨⟩
  obtain ⟨hM, h2, hg⟩ := V3.put_law (maj := 0x26) (fn := 4) f (by decide) (by decide)
  rw [decodeWord_26 hM, decode26, h2, hg]
  rfl

theorem vmax (f : V3) : Statement (.vmax f) := by
  rintro - x ⟨⟩
  obtain ⟨hM, h2, hg⟩ := V3.put_law (maj := 0x26) (fn := 5) f (by decide) (by decide)
  rw [decodeWord_26 hM, decode26, h2, hg]
  rfl

theorem vabsd (f : V3) : Statement (.vabsd f) := by
  rintro - x ⟨⟩
  obtain ⟨hM, h2, hg⟩ := V3.put_law (maj := 0x26) (fn := 6) f (by decide) (by decide)
  rw [decodeWord_26 hM, decode26, h2, hg]
  rfl

theorem vand (f : V3) : Statement (.vand f) := by
  rintro - x ⟨⟩
  obtain ⟨hM, h2, hg⟩ := V3.put_law (maj := 0x26) (fn := 7) f (by decide) (by decide)
  rw [decodeWord_26 hM, decode26, h2, hg]
  rfl

theorem vor (f : V3) : Statement (.vor f) := by
  rintro - x ⟨⟩
  obtain ⟨hM, h2, hg⟩ := V3.put_law (maj := 0x26) (fn := 8) f (by decide) (by decide)
  rw [decodeWord_26 hM, decode26, h2, hg]
  rfl

theorem vxor (f : V3) : Statement (.vxor f) := by
  rintro - x ⟨⟩
  obtain ⟨hM, h2, hg⟩ := V3.put_law (maj := 0x26) (fn := 9) f (by decide) (by decide)
  rw [decodeWord_26 hM, decode26, h2, hg]
  rfl

theorem vsll (f : V3) : Statement (.vsll f) := by
  rintro - x ⟨⟩
  obtain ⟨hM, h2, hg⟩ := V3.put_law (maj := 0x26) (fn := 10) f (by decide) (by decide)
  rw [decodeWord_26 hM, decode26, h2, hg]
  rfl

theorem vsrl (f : V3) : Statement (.vsrl f) := by
  rintro - x ⟨⟩
  obtain ⟨hM, h2, hg⟩ := V3.put_law (maj := 0x26) (fn := 11) f (by decide) (by decide)
  rw [decodeWord_26 hM, decode26, h2, hg]
  rfl

theorem vsra (f : V3) : Statement (.vsra f) := by
  rintro - x ⟨⟩
  obtain ⟨hM, h2, hg⟩ := V3.put_law (maj := 0x26) (fn := 12) f (by decide) (by decide)
  rw [decodeWord_26 hM, decode26, h2, hg]
  rfl

theorem vneg (f : V2) : Statement (.vneg f) := by
  rintro - x ⟨⟩
  obtain ⟨hM, h2, h3, hg⟩ := V2.put_law (maj := 0x27) (fn := 0) f (by decide) (by decide)
  rw [decodeWord_27 hM, decode27, h2, h3, hg]
  rfl

theorem vabs (f : V2) : Statement (.vabs f) := by
  rintro - x ⟨⟩
  obtain ⟨hM, h2, h3, hg⟩ := V2.put_law (maj := 0x27) (fn := 1) f (by decide) (by decide)
  rw [decodeWord_27 hM, decode27, h2, h3, hg]
  rfl

theorem vsqrt (f : V2) : Statement (.vsqrt f) := by
  rintro - x ⟨⟩
  obtain ⟨hM, h2, h3, hg⟩ := V2.put_law (maj := 0x27) (fn := 2) f (by decide) (by decide)
  rw [decodeWord_27 hM, decode27, h2, h3, hg]
  rfl

theorem vmov (f : V2) : Statement (.vmov f) := by
  rintro - x ⟨⟩
  obtain ⟨hM, h2, h3, hg⟩ := V2.put_law (maj := 0x27) (fn := 3) f (by decide) (by decide)
  rw [decodeWord_27 hM, decode27, h2, h3, hg]
  rfl

theorem vadds (f : V3) : Statement (.vadds f) := by
  rintro - x ⟨⟩
  obtain ⟨hM, h2, hg⟩ := V3.put_law (maj := 0x27) (fn := 4) f (by decide) (by decide)
  rw [decodeWord_27 hM, decode27, h2, hg]
  rfl

theorem vmuls (f : V3) : Statement (.vmuls f) := by
  rintro - x ⟨⟩
  obtain ⟨hM, h2, hg⟩ := V3.put_law (maj := 0x27) (fn := 5) f (by decide) (by decide)
  rw [decodeWord_27 hM, decode27, h2, hg]
  rfl

theorem vbcast (f : VB) : Statement (.vbcast f) := by
  rintro - x ⟨⟩
  obtain ⟨hM, h2, h3, hg⟩ := VB.put_law (maj := 0x27) (fn := 6) f (by decide) (by decide)
  rw [decodeWord_27 hM, decode27, h2, h3, hg]
  rfl

theorem vid (f : V1) : Statement (.vid f) := by
  rintro - x ⟨⟩
  obtain ⟨hM, h2, h3, h4, hg⟩ := V1.put_law (maj := 0x27) (fn := 7) f (by decide) (by decide)
  rw [decodeWord_27 hM, decode27, h2, h3, h4, hg]
  rfl

theorem vfma (f : V3) : Statement (.vfma f) := by
  rintro - x ⟨⟩
  obtain ⟨hM, h2, hg⟩ := V3.put_law (maj := 0x28) (fn := 0) f (by decide) (by decide)
  rw [decodeWord_28 hM, decode28, h2, hg]
  rfl

theorem vfms (f : V3) : Statement (.vfms f) := by
  rintro - x ⟨⟩
  obtain ⟨hM, h2, hg⟩ := V3.put_law (maj := 0x28) (fn := 1) f (by decide) (by decide)
  rw [decodeWord_28 hM, decode28, h2, hg]
  rfl

theorem vfnma (f : V3) : Statement (.vfnma f) := by
  rintro - x ⟨⟩
  obtain ⟨hM, h2, hg⟩ := V3.put_law (maj := 0x28) (fn := 2) f (by decide) (by decide)
  rw [decodeWord_28 hM, decode28, h2, hg]
  rfl

theorem vtsum (f : V3) : Statement (.vtsum f) := by
  rintro - x ⟨⟩
  obtain ⟨hM, h2, hg⟩ := V3.put_law (maj := 0x28) (fn := 3) f (by decide) (by decide)
  rw [decodeWord_28 hM, decode28, h2, hg]
  rfl

theorem vtprod (f : V3) : Statement (.vtprod f) := by
  rintro - x ⟨⟩
  obtain ⟨hM, h2, hg⟩ := V3.put_law (maj := 0x28) (fn := 4) f (by decide) (by decide)
  rw [decodeWord_28 hM, decode28, h2, hg]
  rfl

theorem vceq (f : V3) : Statement (.vceq f) := by
  rintro - x ⟨⟩
  obtain ⟨hM, h2, hg⟩ := V3.put_law (maj := 0x29) (fn := 0) f (by decide) (by decide)
  rw [decodeWord_29 hM, decode29, h2, hg]
  rfl

theorem vcne (f : V3) : Statement (.vcne f) := by
  rintro - x ⟨⟩
  obtain ⟨hM, h2, hg⟩ := V3.put_law (maj := 0x29) (fn := 1) f (by decide) (by decide)
  rw [decodeWord_29 hM, decode29, h2, hg]
  rfl

theorem vclt (f : V3) : Statement (.vclt f) := by
  rintro - x ⟨⟩
  obtain ⟨hM, h2, hg⟩ := V3.put_law (maj := 0x29) (fn := 2) f (by decide) (by decide)
  rw [decodeWord_29 hM, decode29, h2, hg]
  rfl

theorem vcle (f : V3) : Statement (.vcle f) := by
  rintro - x ⟨⟩
  obtain ⟨hM, h2, hg⟩ := V3.put_law (maj := 0x29) (fn := 3) f (by decide) (by decide)
  rw [decodeWord_29 hM, decode29, h2, hg]
  rfl

theorem vcnan (f : V3) : Statement (.vcnan f) := by
  rintro - x ⟨⟩
  obtain ⟨hM, h2, hg⟩ := V3.put_law (maj := 0x29) (fn := 4) f (by decide) (by decide)
  rw [decodeWord_29 hM, decode29, h2, hg]
  rfl

theorem vcvt (f : V3) : Statement (.vcvt f) := by
  rintro - x ⟨⟩
  obtain ⟨hM, h2, hg⟩ := V3.put_law (maj := 0x2A) (fn := 0) f (by decide) (by decide)
  rw [decodeWord_2A hM, decode2A, h2, hg]
  rfl

theorem vqnt (f : R2) : Statement (.vqnt f) := by
  rintro - x ⟨⟩
  obtain ⟨hM, -, h3, h4, h5, hg⟩ := R2.put_law (maj := 0x2A) (fn := 1) f (by decide) (by decide)
  rw [decodeWord_2A hM, decode2A, h3, h5, h4, hg]
  rfl

theorem vdqnt (f : R2) : Statement (.vdqnt f) := by
  rintro - x ⟨⟩
  obtain ⟨hM, -, h3, h4, h5, hg⟩ := R2.put_law (maj := 0x2A) (fn := 2) f (by decide) (by decide)
  rw [decodeWord_2A hM, decode2A, h3, h5, h4, hg]
  rfl

theorem vsel (f : V3) : Statement (.vsel f) := by
  rintro - x ⟨⟩
  obtain ⟨hM, h2, hg⟩ := V3.put_law (maj := 0x2B) (fn := 0) f (by decide) (by decide)
  rw [decodeWord_2B hM, decode2B, h2, hg]
  rfl

theorem vslup (f : V3) : Statement (.vslup f) := by
  rintro - x ⟨⟩
  obtain ⟨hM, h2, hg⟩ := V3.put_law (maj := 0x2B) (fn := 1) f (by decide) (by decide)
  rw [decodeWord_2B hM, decode2B, h2, hg]
  rfl

theorem vsldn (f : V3) : Statement (.vsldn f) := by
  rintro - x ⟨⟩
  obtain ⟨hM, h2, hg⟩ := V3.put_law (maj := 0x2B) (fn := 2) f (by decide) (by decide)
  rw [decodeWord_2B hM, decode2B, h2, hg]
  rfl

theorem vperm (f : V3) : Statement (.vperm f) := by
  rintro - x ⟨⟩
  obtain ⟨hM, h2, hg⟩ := V3.put_law (maj := 0x2B) (fn := 3) f (by decide) (by decide)
  rw [decodeWord_2B hM, decode2B, h2, hg]
  rfl

theorem vcomp (f : V2) : Statement (.vcomp f) := by
  rintro - x ⟨⟩
  obtain ⟨hM, h2, h3, hg⟩ := V2.put_law (maj := 0x2B) (fn := 4) f (by decide) (by decide)
  rw [decodeWord_2B hM, decode2B, h2, h3, hg]
  rfl

theorem vredo (f : V3) : Statement (.vredo f) := by
  rintro - x ⟨⟩
  obtain ⟨hM, h2, hg⟩ := V3.put_law (maj := 0x2C) (fn := 0) f (by decide) (by decide)
  rw [decodeWord_2C hM, decode2C, h2, hg]
  rfl

theorem vredt (f : V3) : Statement (.vredt f) := by
  rintro - x ⟨⟩
  obtain ⟨hM, h2, hg⟩ := V3.put_law (maj := 0x2C) (fn := 1) f (by decide) (by decide)
  rw [decodeWord_2C hM, decode2C, h2, hg]
  rfl

theorem vscano (f : V3) : Statement (.vscano f) := by
  rintro - x ⟨⟩
  obtain ⟨hM, h2, hg⟩ := V3.put_law (maj := 0x2C) (fn := 2) f (by decide) (by decide)
  rw [decodeWord_2C hM, decode2C, h2, hg]
  rfl

theorem vscanf (f : V3) : Statement (.vscanf f) := by
  rintro - x ⟨⟩
  obtain ⟨hM, h2, hg⟩ := V3.put_law (maj := 0x2C) (fn := 3) f (by decide) (by decide)
  rw [decodeWord_2C hM, decode2C, h2, hg]
  rfl

theorem vredmin (f : V3) : Statement (.vredmin f) := by
  rintro - x ⟨⟩
  obtain ⟨hM, h2, hg⟩ := V3.put_law (maj := 0x2C) (fn := 4) f (by decide) (by decide)
  rw [decodeWord_2C hM, decode2C, h2, hg]
  rfl

theorem vredmax (f : V3) : Statement (.vredmax f) := by
  rintro - x ⟨⟩
  obtain ⟨hM, h2, hg⟩ := V3.put_law (maj := 0x2C) (fn := 5) f (by decide) (by decide)
  rw [decodeWord_2C hM, decode2C, h2, hg]
  rfl

theorem mand (f : R3) : Statement (.mand f) := by
  rintro - x ⟨⟩
  obtain ⟨hM, -, h3, h4, hg⟩ := R3.put_law (maj := 0x2D) (fn := 0) f (by decide) (by decide)
  rw [decodeWord_2D hM, decode2D, h3, h4, hg]
  rfl

theorem mor (f : R3) : Statement (.mor f) := by
  rintro - x ⟨⟩
  obtain ⟨hM, -, h3, h4, hg⟩ := R3.put_law (maj := 0x2D) (fn := 1) f (by decide) (by decide)
  rw [decodeWord_2D hM, decode2D, h3, h4, hg]
  rfl

theorem mxor (f : R3) : Statement (.mxor f) := by
  rintro - x ⟨⟩
  obtain ⟨hM, -, h3, h4, hg⟩ := R3.put_law (maj := 0x2D) (fn := 2) f (by decide) (by decide)
  rw [decodeWord_2D hM, decode2D, h3, h4, hg]
  rfl

theorem mandn (f : R3) : Statement (.mandn f) := by
  rintro - x ⟨⟩
  obtain ⟨hM, -, h3, h4, hg⟩ := R3.put_law (maj := 0x2D) (fn := 3) f (by decide) (by decide)
  rw [decodeWord_2D hM, decode2D, h3, h4, hg]
  rfl

theorem mnot (f : R2) : Statement (.mnot f) := by
  rintro - x ⟨⟩
  obtain ⟨hM, -, h3, h4, h5, hg⟩ := R2.put_law (maj := 0x2D) (fn := 4) f (by decide) (by decide)
  rw [decodeWord_2D hM, decode2D, h3, h5, h4, hg]
  rfl

theorem mlen (f : R2) : Statement (.mlen f) := by
  rintro - x ⟨⟩
  obtain ⟨hM, -, h3, h4, h5, hg⟩ := R2.put_law (maj := 0x2D) (fn := 5) f (by decide) (by decide)
  rw [decodeWord_2D hM, decode2D, h3, h5, h4, hg]
  rfl

theorem mpop (f : R2) : Statement (.mpop f) := by
  rintro - x ⟨⟩
  obtain ⟨hM, -, h3, h4, h5, hg⟩ := R2.put_law (maj := 0x2D) (fn := 6) f (by decide) (by decide)
  rw [decodeWord_2D hM, decode2D, h3, h5, h4, hg]
  rfl

theorem mfirst (f : R2) : Statement (.mfirst f) := by
  rintro - x ⟨⟩
  obtain ⟨hM, -, h3, h4, h5, hg⟩ := R2.put_law (maj := 0x2D) (fn := 7) f (by decide) (by decide)
  rw [decodeWord_2D hM, decode2D, h3, h5, h4, hg]
  rfl

theorem tmac (f : TMac) : Statement (.tmac f) := by
  rintro - x ⟨⟩
  obtain ⟨hM, h2, hg⟩ := TMac.put_law (maj := 0x2E) (fn := 0) f (by decide) (by decide)
  rw [decodeWord_2E hM, decode2E, h2, hg]
  rfl

theorem tdist (f : TMac) : Statement (.tdist f) := by
  rintro - x ⟨⟩
  obtain ⟨hM, h2, hg⟩ := TMac.put_law (maj := 0x2E) (fn := 1) f (by decide) (by decide)
  rw [decodeWord_2E hM, decode2E, h2, hg]
  rfl

theorem tcupd (f : TRow) : Statement (.tcupd f) := by
  rintro - x ⟨⟩
  obtain ⟨hM, h2, h3, hg⟩ := TRow.put_law (maj := 0x2E) (fn := 2) f (by decide) (by decide)
  rw [decodeWord_2E hM, decode2E, h2, h3, hg]
  rfl

theorem tacc (f : TRow) : Statement (.tacc f) := by
  rintro - x ⟨⟩
  obtain ⟨hM, h2, h3, hg⟩ := TRow.put_law (maj := 0x2E) (fn := 3) f (by decide) (by decide)
  rw [decodeWord_2E hM, decode2E, h2, h3, hg]
  rfl

theorem tdrain (f : TRow) : Statement (.tdrain f) := by
  rintro - x ⟨⟩
  obtain ⟨hM, h2, h3, hg⟩ := TRow.put_law (maj := 0x2F) (fn := 0) f (by decide) (by decide)
  rw [decodeWord_2F hM, decode2F, h2, h3, hg]
  rfl

theorem tfill (f : TRow) : Statement (.tfill f) := by
  rintro - x ⟨⟩
  obtain ⟨hM, h2, h3, hg⟩ := TRow.put_law (maj := 0x2F) (fn := 1) f (by decide) (by decide)
  rw [decodeWord_2F hM, decode2F, h2, h3, hg]
  rfl

theorem tzero (f : TRng) : Statement (.tzero f) := by
  rintro - x ⟨⟩
  obtain ⟨hM, h2, h3, h4, hg⟩ := TRng.put_law (maj := 0x2F) (fn := 2) f (by decide) (by decide)
  rw [decodeWord_2F hM, decode2F, h2, h4, h3, hg]
  rfl

theorem tcdiv (f : TRng) : Statement (.tcdiv f) := by
  rintro - x ⟨⟩
  obtain ⟨hM, h2, h3, h4, hg⟩ := TRng.put_law (maj := 0x2F) (fn := 3) f (by decide) (by decide)
  rw [decodeWord_2F hM, decode2F, h2, h4, h3, hg]
  rfl

theorem tcget (f : TRng) : Statement (.tcget f) := by
  rintro - x ⟨⟩
  obtain ⟨hM, h2, h3, h4, hg⟩ := TRng.put_law (maj := 0x2F) (fn := 4) f (by decide) (by decide)
  rw [decodeWord_2F hM, decode2F, h2, h4, h3, hg]
  rfl

theorem tld (f : TLd) : Statement (.tld f) := by
  rintro - x ⟨⟩
  obtain ⟨hM, h2, h3, h4, h5, hg⟩ := TLd.put_law (maj := 0x30) (fn := 0) f (by decide) (by decide)
  rw [decodeWord_30 hM, decode30, h2, h4, h5, h3, hg]
  rfl

theorem tmode (f : Pair) : Statement (.tmode f) := by
  rintro - x ⟨⟩
  obtain ⟨hM, -, h3, h4, h5, hg⟩ := Pair.put_law (maj := 0x31) (fn := 0) f (by decide) (by decide)
  rw [decodeWord_31 hM, decode31, h3, h5, h4, hg]
  rfl

theorem tmodr (f : Dst) : Statement (.tmodr f) := by
  rintro - x ⟨⟩
  obtain ⟨hM, -, h3, h4, h5, h6, hg⟩ := Dst.put_law (maj := 0x31) (fn := 1) f (by decide) (by decide)
  rw [decodeWord_31 hM, decode31, h3, h5, h6, h4, hg]
  rfl

theorem tmodc (f : Dst) : Statement (.tmodc f) := by
  rintro - x ⟨⟩
  obtain ⟨hM, -, h3, h4, h5, h6, hg⟩ := Dst.put_law (maj := 0x31) (fn := 2) f (by decide) (by decide)
  rw [decodeWord_31 hM, decode31, h3, h5, h6, h4, hg]
  rfl

theorem tbest (f : DstB) : Statement (.tbest f) := by
  rintro - x ⟨⟩
  obtain ⟨hM, -, h3, h4, h5, hg⟩ := DstB.put_law (maj := 0x31) (fn := 3) f (by decide) (by decide)
  rw [decodeWord_31 hM, decode31, h3, h5, h4, hg]
  rfl

theorem tcnt (f : R2) : Statement (.tcnt f) := by
  rintro - x ⟨⟩
  obtain ⟨hM, -, h3, h4, h5, hg⟩ := R2.put_law (maj := 0x31) (fn := 4) f (by decide) (by decide)
  rw [decodeWord_31 hM, decode31, h3, h5, h4, hg]
  rfl

theorem cfun (f : R3) : Statement (.cfun f) := by
  rintro - x ⟨⟩
  obtain ⟨hM, h2, -, -, hg⟩ := R3.put_law (maj := 0x32) (fn := 0) f (by decide) (by decide)
  rw [decodeWord_32 hM, decode32, h2, hg]
  rfl

theorem ccor (f : R3) : Statement (.ccor f) := by
  rintro - x ⟨⟩
  obtain ⟨hM, h2, -, -, hg⟩ := R3.put_law (maj := 0x32) (fn := 1) f (by decide) (by decide)
  rw [decodeWord_32 hM, decode32, h2, hg]
  rfl

theorem cseq (f : R3) : Statement (.cseq f) := by
  rintro - x ⟨⟩
  obtain ⟨hM, h2, -, -, hg⟩ := R3.put_law (maj := 0x32) (fn := 2) f (by decide) (by decide)
  rw [decodeWord_32 hM, decode32, h2, hg]
  rfl

theorem cpar (f : R3) : Statement (.cpar f) := by
  rintro - x ⟨⟩
  obtain ⟨hM, h2, -, -, hg⟩ := R3.put_law (maj := 0x32) (fn := 3) f (by decide) (by decide)
  rw [decodeWord_32 hM, decode32, h2, hg]
  rfl

theorem cpipe (f : R3) : Statement (.cpipe f) := by
  rintro - x ⟨⟩
  obtain ⟨hM, h2, -, -, hg⟩ := R3.put_law (maj := 0x32) (fn := 4) f (by decide) (by decide)
  rw [decodeWord_32 hM, decode32, h2, hg]
  rfl

theorem cfarm (f : R3) : Statement (.cfarm f) := by
  rintro - x ⟨⟩
  obtain ⟨hM, h2, -, -, hg⟩ := R3.put_law (maj := 0x32) (fn := 5) f (by decide) (by decide)
  rw [decodeWord_32 hM, decode32, h2, hg]
  rfl

theorem cloop (f : R3) : Statement (.cloop f) := by
  rintro - x ⟨⟩
  obtain ⟨hM, h2, -, -, hg⟩ := R3.put_law (maj := 0x32) (fn := 6) f (by decide) (by decide)
  rw [decodeWord_32 hM, decode32, h2, hg]
  rfl

theorem capply (f : R3) : Statement (.capply f) := by
  rintro - x ⟨⟩
  obtain ⟨hM, h2, -, -, hg⟩ := R3.put_law (maj := 0x33) (fn := 0) f (by decide) (by decide)
  rw [decodeWord_33 hM, decode33, h2, hg]
  rfl

theorem cret (f : Pair) : Statement (.cret f) := by
  rintro - x ⟨⟩
  obtain ⟨hM, h2, -, -, h5, hg⟩ := Pair.put_law (maj := 0x33) (fn := 1) f (by decide) (by decide)
  rw [decodeWord_33 hM, decode33, h2, h5, hg]
  rfl

theorem cyield (f : R3) : Statement (.cyield f) := by
  rintro - x ⟨⟩
  obtain ⟨hM, h2, -, -, hg⟩ := R3.put_law (maj := 0x33) (fn := 2) f (by decide) (by decide)
  rw [decodeWord_33 hM, decode33, h2, hg]
  rfl

theorem wid (f : R2) : Statement (.wid f) := by
  rintro - x ⟨⟩
  obtain ⟨hM, h2, -, -, h5, hg⟩ := R2.put_law (maj := 0x33) (fn := 3) f (by decide) (by decide)
  rw [decodeWord_33 hM, decode33, h2, h5, hg]
  rfl

theorem chput (f : R3) : Statement (.chput f) := by
  rintro - x ⟨⟩
  obtain ⟨hM, h2, -, -, hg⟩ := R3.put_law (maj := 0x34) (fn := 0) f (by decide) (by decide)
  rw [decodeWord_34 hM, decode34, h2, hg]
  rfl

theorem chget (f : R3) : Statement (.chget f) := by
  rintro - x ⟨⟩
  obtain ⟨hM, h2, -, -, hg⟩ := R3.put_law (maj := 0x34) (fn := 1) f (by decide) (by decide)
  rw [decodeWord_34 hM, decode34, h2, hg]
  rfl

theorem barv (f : R3) : Statement (.barv f) := by
  rintro - x ⟨⟩
  obtain ⟨hM, h2, -, -, hg⟩ := R3.put_law (maj := 0x35) (fn := 0) f (by decide) (by decide)
  rw [decodeWord_35 hM, decode35, h2, hg]
  rfl

theorem barw (f : R3) : Statement (.barw f) := by
  rintro - x ⟨⟩
  obtain ⟨hM, h2, -, -, hg⟩ := R3.put_law (maj := 0x35) (fn := 1) f (by decide) (by decide)
  rw [decodeWord_35 hM, decode35, h2, hg]
  rfl

theorem bara (f : R3) : Statement (.bara f) := by
  rintro - x ⟨⟩
  obtain ⟨hM, h2, -, -, hg⟩ := R3.put_law (maj := 0x35) (fn := 2) f (by decide) (by decide)
  rw [decodeWord_35 hM, decode35, h2, hg]
  rfl

theorem amoSwap (f : Amo) : Statement (.amoSwap f) := by
  rintro - x ⟨⟩
  obtain ⟨hM, h2, hb, hg⟩ := Amo.put_law (maj := 0x36) (op := 0) f (by decide) (by decide)
  rw [decodeWord_36 hM, decode36, if_neg (by omega), h2, hg]
  rfl

theorem amoAdd (f : Amo) : Statement (.amoAdd f) := by
  rintro - x ⟨⟩
  obtain ⟨hM, h2, hb, hg⟩ := Amo.put_law (maj := 0x36) (op := 1) f (by decide) (by decide)
  rw [decodeWord_36 hM, decode36, if_neg (by omega), h2, hg]
  rfl

theorem amoAnd (f : Amo) : Statement (.amoAnd f) := by
  rintro - x ⟨⟩
  obtain ⟨hM, h2, hb, hg⟩ := Amo.put_law (maj := 0x36) (op := 2) f (by decide) (by decide)
  rw [decodeWord_36 hM, decode36, if_neg (by omega), h2, hg]
  rfl

theorem amoOr (f : Amo) : Statement (.amoOr f) := by
  rintro - x ⟨⟩
  obtain ⟨hM, h2, hb, hg⟩ := Amo.put_law (maj := 0x36) (op := 3) f (by decide) (by decide)
  rw [decodeWord_36 hM, decode36, if_neg (by omega), h2, hg]
  rfl

theorem amoXor (f : Amo) : Statement (.amoXor f) := by
  rintro - x ⟨⟩
  obtain ⟨hM, h2, hb, hg⟩ := Amo.put_law (maj := 0x36) (op := 4) f (by decide) (by decide)
  rw [decodeWord_36 hM, decode36, if_neg (by omega), h2, hg]
  rfl

theorem amoMin (f : Amo) : Statement (.amoMin f) := by
  rintro - x ⟨⟩
  obtain ⟨hM, h2, hb, hg⟩ := Amo.put_law (maj := 0x36) (op := 5) f (by decide) (by decide)
  rw [decodeWord_36 hM, decode36, if_neg (by omega), h2, hg]
  rfl

theorem amoMax (f : Amo) : Statement (.amoMax f) := by
  rintro - x ⟨⟩
  obtain ⟨hM, h2, hb, hg⟩ := Amo.put_law (maj := 0x36) (op := 6) f (by decide) (by decide)
  rw [decodeWord_36 hM, decode36, if_neg (by omega), h2, hg]
  rfl

theorem amoMinn (f : Amo) : Statement (.amoMinn f) := by
  rintro - x ⟨⟩
  obtain ⟨hM, h2, hb, hg⟩ := Amo.put_law (maj := 0x36) (op := 7) f (by decide) (by decide)
  rw [decodeWord_36 hM, decode36, if_neg (by omega), h2, hg]
  rfl

theorem amoMaxn (f : Amo) : Statement (.amoMaxn f) := by
  rintro - x ⟨⟩
  obtain ⟨hM, h2, hb, hg⟩ := Amo.put_law (maj := 0x36) (op := 8) f (by decide) (by decide)
  rw [decodeWord_36 hM, decode36, if_neg (by omega), h2, hg]
  rfl

theorem amoCas (f : Amo) : Statement (.amoCas f) := by
  rintro - x ⟨⟩
  obtain ⟨hM, h2, hb, hg⟩ := Amo.put_law (maj := 0x36) (op := 9) f (by decide) (by decide)
  rw [decodeWord_36 hM, decode36, if_neg (by omega), h2, hg]
  rfl

theorem scopen (f : Pair) : Statement (.scopen f) := by
  rintro - x ⟨⟩
  obtain ⟨hM, h2, -, -, h5, hg⟩ := Pair.put_law (maj := 0x37) (fn := 0) f (by decide) (by decide)
  rw [decodeWord_37 hM, decode37, h2, h5, hg]
  rfl

theorem scaddO (f : R3) : Statement (.scaddO f) := by
  rintro - x ⟨⟩
  obtain ⟨hM, h2, -, -, hg⟩ := R3.put_law (maj := 0x37) (fn := 1) f (by decide) (by decide)
  rw [decodeWord_37 hM, decode37, h2, hg]
  rfl

theorem scaddU (f : R3) : Statement (.scaddU f) := by
  rintro - x ⟨⟩
  obtain ⟨hM, h2, -, -, hg⟩ := R3.put_law (maj := 0x37) (fn := 2) f (by decide) (by decide)
  rw [decodeWord_37 hM, decode37, h2, hg]
  rfl

theorem scflush (f : R2) : Statement (.scflush f) := by
  rintro - x ⟨⟩
  obtain ⟨hM, h2, -, -, h5, hg⟩ := R2.put_law (maj := 0x37) (fn := 3) f (by decide) (by decide)
  rw [decodeWord_37 hM, decode37, h2, h5, hg]
  rfl

theorem fence (f : FenceF) : Statement (.fence f) := by
  rintro hwf x ⟨⟩
  obtain ⟨hM, h2, h3, h4, h5, hg⟩ := FenceF.put_law (maj := 0x37) (base := 16) f (by decide) (by decide) (by decide)
  have hs : f.scope.val ≤ 4 := by simpa [Instr.wf] using hwf
  have hc : f.scope.val = 0 ∨ f.scope.val = 1 ∨ f.scope.val = 2 ∨ f.scope.val = 3 ∨ f.scope.val = 4 := by omega
  rcases hc with hc | hc | hc | hc | hc <;> simp [decodeWord_37 hM, decode37, h2, h3, h4, h5, hc, hg, unusedZero]

theorem fenceAcq (f : FenceF) : Statement (.fenceAcq f) := by
  rintro hwf x ⟨⟩
  obtain ⟨hM, h2, h3, h4, h5, hg⟩ := FenceF.put_law (maj := 0x37) (base := 24) f (by decide) (by decide) (by decide)
  have hs : f.scope.val ≤ 4 := by simpa [Instr.wf] using hwf
  have hc : f.scope.val = 0 ∨ f.scope.val = 1 ∨ f.scope.val = 2 ∨ f.scope.val = 3 ∨ f.scope.val = 4 := by omega
  rcases hc with hc | hc | hc | hc | hc <;> simp [decodeWord_37 hM, decode37, h2, h3, h4, h5, hc, hg, unusedZero]

theorem fenceRel (f : FenceF) : Statement (.fenceRel f) := by
  rintro hwf x ⟨⟩
  obtain ⟨hM, h2, h3, h4, h5, hg⟩ := FenceF.put_law (maj := 0x37) (base := 32) f (by decide) (by decide) (by decide)
  have hs : f.scope.val ≤ 4 := by simpa [Instr.wf] using hwf
  have hc : f.scope.val = 0 ∨ f.scope.val = 1 ∨ f.scope.val = 2 ∨ f.scope.val = 3 ∨ f.scope.val = 4 := by omega
  rcases hc with hc | hc | hc | hc | hc <;> simp [decodeWord_37 hM, decode37, h2, h3, h4, h5, hc, hg, unusedZero]

theorem xcopy (f : Eng) : Statement (.xcopy f) := by
  rintro - x ⟨⟩
  obtain ⟨hM, h2, hg⟩ := Eng.put_law (maj := 0x38) (fn := 0) f (by decide) (by decide)
  rw [decodeWord_38 hM, decode38, h2, hg]
  rfl

theorem xcopyz (f : Eng) : Statement (.xcopyz f) := by
  rintro - x ⟨⟩
  obtain ⟨hM, h2, hg⟩ := Eng.put_law (maj := 0x38) (fn := 1) f (by decide) (by decide)
  rw [decodeWord_38 hM, decode38, h2, hg]
  rfl

theorem xfill (f : Eng) : Statement (.xfill f) := by
  rintro - x ⟨⟩
  obtain ⟨hM, h2, hg⟩ := Eng.put_law (maj := 0x38) (fn := 2) f (by decide) (by decide)
  rw [decodeWord_38 hM, decode38, h2, hg]
  rfl

theorem xquery (f : R3) : Statement (.xquery f) := by
  rintro - x ⟨⟩
  obtain ⟨hM, h2, -, -, hg⟩ := R3.put_law (maj := 0x39) (fn := 0) f (by decide) (by decide)
  rw [decodeWord_39 hM, decode39, h2, hg]
  rfl

theorem xgrid (f : R3) : Statement (.xgrid f) := by
  rintro - x ⟨⟩
  obtain ⟨hM, h2, -, -, hg⟩ := R3.put_law (maj := 0x39) (fn := 1) f (by decide) (by decide)
  rw [decodeWord_39 hM, decode39, h2, hg]
  rfl

theorem xcoll (f : Eng) : Statement (.xcoll f) := by
  rintro - x ⟨⟩
  obtain ⟨hM, h2, hg⟩ := Eng.put_law (maj := 0x3A) (fn := 0) f (by decide) (by decide)
  rw [decodeWord_3A hM, decode3A, h2, hg]
  rfl

theorem xnote (f : R2) : Statement (.xnote f) := by
  rintro - x ⟨⟩
  obtain ⟨hM, -, h3, h4, h5, hg⟩ := R2.put_law (maj := 0x3A) (fn := 1) f (by decide) (by decide)
  rw [decodeWord_3A hM, decode3A, h3, h5, h4, hg]
  rfl

theorem pop (q : Nat) : Statement (.pop q) := by
  rintro - x ⟨⟩

theorem aging : Statement (.aging) := by
  rintro - x ⟨⟩

theorem timeSliceQuantum (u : Nat) : Statement (.timeSliceQuantum u) := by
  rintro - x ⟨⟩

theorem tenantSwitch (u : Nat) : Statement (.tenantSwitch u) := by
  rintro - x ⟨⟩

theorem classTableSwap (u : Nat) : Statement (.classTableSwap u) := by
  rintro - x ⟨⟩

theorem generationDrain (u : Nat) : Statement (.generationDrain u) := by
  rintro - x ⟨⟩

theorem barwPhaseReached (q : Nat) : Statement (.barwPhaseReached q) := by
  rintro - x ⟨⟩

theorem barwTimeout (q : Nat) : Statement (.barwTimeout q) := by
  rintro - x ⟨⟩

theorem engineChunkComplete (c j : Nat) : Statement (.engineChunkComplete c j) := by
  rintro - x ⟨⟩

theorem engineCommandComplete (c : Nat) : Statement (.engineCommandComplete c) := by
  rintro - x ⟨⟩

theorem engineCommandFail (c : Nat) : Statement (.engineCommandFail c) := by
  rintro - x ⟨⟩

theorem translationStallResolved (c : Nat) : Statement (.translationStallResolved c) := by
  rintro - x ⟨⟩

theorem xqueryAnswer (c : Nat) : Statement (.xqueryAnswer c) := by
  rintro - x ⟨⟩

theorem xgridDeclare (c : Nat) : Statement (.xgridDeclare c) := by
  rintro - x ⟨⟩

theorem scaddUpdateArrival (n : Nat) : Statement (.scaddUpdateArrival n) := by
  rintro - x ⟨⟩

theorem scatterRoundClose (r : Nat) : Statement (.scatterRoundClose r) := by
  rintro - x ⟨⟩

theorem collectiveComplete (c : Nat) : Statement (.collectiveComplete c) := by
  rintro - x ⟨⟩

theorem preemptionRequest (u : Nat) (why : Purpose) : Statement (.preemptionRequest u why) := by
  rintro - x ⟨⟩

theorem preemptEscalation (u : Nat) : Statement (.preemptEscalation u) := by
  rintro - x ⟨⟩

theorem contextSave (u : Nat) : Statement (.contextSave u) := by
  rintro - x ⟨⟩

theorem contextRestore (u k : Nat) : Statement (.contextRestore u k) := by
  rintro - x ⟨⟩

theorem doubleFaultRecovery (q : Nat) : Statement (.doubleFaultRecovery q) := by
  rintro - x ⟨⟩

theorem haltedRecordEnd (q : Nat) : Statement (.haltedRecordEnd q) := by
  rintro - x ⟨⟩

theorem tableRebuild (page : Nat) : Statement (.tableRebuild page) := by
  rintro - x ⟨⟩

theorem weltRebind (sole half : Nat) : Statement (.weltRebind sole half) := by
  rintro - x ⟨⟩

theorem crcFailure (t : Transfer) (crc : BitVec 32) : Statement (.crcFailure t crc) := by
  rintro - x ⟨⟩

theorem linkLaneRetrain (link lane : Nat) : Statement (.linkLaneRetrain link lane) := by
  rintro - x ⟨⟩

theorem fabricFrameReceive (port : Nat) (f : Frame) : Statement (.fabricFrameReceive port f) := by
  rintro - x ⟨⟩

theorem keySwitch (port : Nat) : Statement (.keySwitch port) := by
  rintro - x ⟨⟩

theorem poisonNotice (port : Nat) (device : Word) (n : NoticeBody) : Statement (.poisonNotice port device n) := by
  rintro - x ⟨⟩

theorem sessionGapTimeout (mgmt : Bool) (ep : Nat) (sess : BitVec 16) : Statement (.sessionGapTimeout mgmt ep sess) := by
  rintro - x ⟨⟩

theorem createPartition (h : Hdr) (b : CreateBody) : Statement (.createPartition h b) := by
  rintro - x ⟨⟩

theorem destroyPartition (h : Hdr) (number : Nat) : Statement (.destroyPartition h number) := by
  rintro - x ⟨⟩

theorem resize (h : Hdr) (number : Nat) (delta : Int) : Statement (.resize h number delta) := by
  rintro - x ⟨⟩

theorem installKey (h : Hdr) (slot : Nat) (k1 k2 : BitVec 256) : Statement (.installKey h slot k1 k2) := by
  rintro - x ⟨⟩

theorem releaseKey (h : Hdr) (slot : Nat) : Statement (.releaseKey h slot) := by
  rintro - x ⟨⟩

theorem setPatternTable (h : Hdr) (addr : Word) : Statement (.setPatternTable h addr) := by
  rintro - x ⟨⟩

theorem setHandler (h : Hdr) (addr : Word) : Statement (.setHandler h addr) := by
  rintro - x ⟨⟩

theorem openSession (h : Hdr) : Statement (.openSession h) := by
  rintro - x ⟨⟩

theorem closeSession (h : Hdr) : Statement (.closeSession h) := by
  rintro - x ⟨⟩

theorem map (h : Hdr) (b : MapBody) : Statement (.map h b) := by
  rintro - x ⟨⟩

theorem unmap (h : Hdr) (addr size : Nat) : Statement (.unmap h addr size) := by
  rintro - x ⟨⟩

theorem copy (h : Hdr) (addr len : Nat) (toDevice : Option (List Byte)) : Statement (.copy h addr len toDevice) := by
  rintro - x ⟨⟩

theorem launch (h : Hdr) (addr : Word) : Statement (.launch h addr) := by
  rintro - x ⟨⟩

theorem cancel (h : Hdr) (token : Word) : Statement (.cancel h token) := by
  rintro - x ⟨⟩

theorem signal (h : Hdr) (addr val : Word) : Statement (.signal h addr val) := by
  rintro - x ⟨⟩

theorem latencyTolerance (h : Hdr) (ns : Word) : Statement (.latencyTolerance h ns) := by
  rintro - x ⟨⟩

theorem registerGroup (h : Hdr) (g : GroupBody) : Statement (.registerGroup h g) := by
  rintro - x ⟨⟩

theorem configurePort (h : Hdr) (port role : Nat) : Statement (.configurePort h port role) := by
  rintro - x ⟨⟩

theorem fetchDump (h : Hdr) (off len : Nat) : Statement (.fetchDump h off len) := by
  rintro - x ⟨⟩

theorem readTrapLog (h : Hdr) (q count : Nat) : Statement (.readTrapLog h q count) := by
  rintro - x ⟨⟩

theorem unknownRequestType (h : Hdr) : Statement (.unknownRequestType h) := by
  rintro - x ⟨⟩

theorem attest (h : Hdr) (nonce : BitVec 256) : Statement (.attest h nonce) := by
  rintro - x ⟨⟩

theorem writeImage (h : Hdr) (off : Nat) (piece : List Byte) : Statement (.writeImage h off piece) := by
  rintro - x ⟨⟩

theorem activateImage (h : Hdr) : Statement (.activateImage h) := by
  rintro - x ⟨⟩

theorem readSensors (h : Hdr) : Statement (.readSensors h) := by
  rintro - x ⟨⟩

theorem readErrorLog (h : Hdr) (first count : Nat) : Statement (.readErrorLog h first count) := by
  rintro - x ⟨⟩

theorem mgmtFetchDump (h : Hdr) (off len : Nat) : Statement (.mgmtFetchDump h off len) := by
  rintro - x ⟨⟩

theorem resetDevice (h : Hdr) : Statement (.resetDevice h) := by
  rintro - x ⟨⟩

theorem powerOff (h : Hdr) : Statement (.powerOff h) := by
  rintro - x ⟨⟩

theorem powerUp : Statement (.powerUp) := by
  rintro - x ⟨⟩

theorem throttle : Statement (.throttle) := by
  rintro - x ⟨⟩

theorem criticalTemperature (sensor : Nat) : Statement (.criticalTemperature sensor) := by
  rintro - x ⟨⟩

theorem watchdogExpiry : Statement (.watchdogExpiry) := by
  rintro - x ⟨⟩

theorem fatalError (cause : Nat) (cls num : Nat) (detail : Word) : Statement (.fatalError cause cls num detail) := by
  rintro - x ⟨⟩

theorem powerStateEntry (p : Nat) : Statement (.powerStateEntry p) := by
  rintro - x ⟨⟩

theorem wakeEvent (p : Nat) : Statement (.wakeEvent p) := by
  rintro - x ⟨⟩

theorem illegalInstruction : Statement (.illegalInstruction) := by
  rintro - x ⟨⟩

theorem instructionFetchFault : Statement (.instructionFetchFault) := by
  rintro - x ⟨⟩

theorem powerLoss (writing : Bool) : Statement (.powerLoss writing) := by
  rintro - x ⟨⟩

theorem throttleRelease : Statement (.throttleRelease) := by
  rintro - x ⟨⟩

theorem rankUnreachable (c : Nat) : Statement (.rankUnreachable c) := by
  rintro - x ⟨⟩

end Sys2Proof.Laws.Encoded
end

