-- ==== Sys2Proof/Laws/Requests.lean ====
section
/-!
SUPPORT. How a request is served: the wake of its partition, its session, and the reply of one that is next in a session
that holds nothing else.
-/

namespace Sys2Proof.Machine

set_option Elab.async false

/-- A request event is the arrival of its request. -/
theorem exec_request {i : Instr} {h : Hdr} {r : Req} (s : State) (e : requestOf i = some (h, r)) : exec i s = s.arrive h r := by
  cases i <;> first
    | (simp [requestOf] at e; done)
    | (simp only [requestOf, Option.some.injEq, Prod.mk.injEq] at e; obtain ⟨rfl, rfl⟩ := e; rfl)

/-- A wake changes nothing but power: that of the partition's cores, and with it which stacks refresh themselves (R362). -/
theorem State.wake_same (s : State) (n : Nat) :
    ({ (s.wake n).dev with refresh := s.dev.refresh } = s.dev ∧ (s.wake n).mem = s.mem ∧ (s.wake n).seqs = s.seqs ∧
      (s.wake n).clock = s.clock) ∧
      (s.wake n).parts = s.parts ∧ (s.wake n).launches = s.launches ∧ (s.wake n).queue = s.queue ∧
      (s.wake n).cmds = s.cmds ∧ (s.wake n).soles = s.soles ∧ (s.wake n).agenda = s.agenda := by
  unfold State.wake
  split
  · exact ⟨⟨rfl, rfl, rfl, rfl⟩, rfl, rfl, rfl, rfl, rfl, rfl⟩
  · rename_i p hp
    clear hp
    generalize p.cores = l
    have key : ∀ (l : List CoreOf) (s : State), let t := l.foldl (fun s c => s.setUpper c.leader { s.upperAt c.leader with power := .run }) s
        t.dev = s.dev ∧ t.mem = s.mem ∧ t.seqs = s.seqs ∧ t.clock = s.clock ∧ t.parts = s.parts ∧ t.launches = s.launches ∧
          t.queue = s.queue ∧ t.cmds = s.cmds ∧ t.soles = s.soles ∧ t.agenda = s.agenda := by
      intro l
      induction l with
      | nil => intro s; exact ⟨rfl, rfl, rfl, rfl, rfl, rfl, rfl, rfl, rfl, rfl⟩
      | cons a t ih => intro s; exact ih (s.setUpper a.leader { s.upperAt a.leader with power := .run })
    obtain ⟨h1, h2, h3, h4, h5, h6, h7, h8, h9, h10⟩ := key l s
    exact ⟨⟨by simp only [State.refreshed, h1], h2, h3, h4⟩, h5, h6, h7, h8, h9, h10⟩

/-- Serving starts from the state with the request's partition awake: nothing but power has changed. -/
theorem State.arrived_same (s : State) (h : Hdr) (r : Req) :
    ({ (s.arrived h r).dev with refresh := s.dev.refresh } = s.dev ∧ (s.arrived h r).mem = s.mem ∧
      (s.arrived h r).seqs = s.seqs ∧ (s.arrived h r).clock = s.clock) ∧
      (s.arrived h r).parts = s.parts ∧ (s.arrived h r).launches = s.launches ∧ (s.arrived h r).queue = s.queue ∧
      (s.arrived h r).cmds = s.cmds ∧ (s.arrived h r).soles = s.soles ∧ (s.arrived h r).agenda = s.agenda := by
  unfold State.arrived
  generalize (if h.mgmt then none else wakes h r) = w
  cases w with
  | none => exact ⟨⟨rfl, rfl, rfl, rfl⟩, rfl, rfl, rfl, rfl, rfl, rfl⟩
  | some n => exact s.wake_same n

theorem State.session_arrived (s : State) (h : Hdr) (r : Req) : (s.arrived h r).session h = s.session h := by
  have e := congrArg (fun d : Dev => d.sessions) (s.arrived_same h r).1.1
  exact congrArg (fun l : List Session => l.find? (fun x => x.is h.mgmt h.ep h.sess)) e

/-- A session that has been replaced is found again. -/
theorem State.session_setSession {s : State} {h : Hdr} {x : Session} (y : Session) (hx : s.session h = some x)
    (e : y.mgmt = x.mgmt ∧ y.ep = x.ep ∧ y.sess = x.sess) : (s.setSession y).session h = some y := by
  unfold State.session at hx
  show (s.dev.sessions.map (fun z => if z.is y.mgmt y.ep y.sess then y else z)).find?
    (fun z => z.is h.mgmt h.ep h.sess) = some y
  generalize s.dev.sessions = l at hx
  have hm := List.find?_some hx
  simp only [Session.is, Bool.and_eq_true, beq_iff_eq] at hm
  obtain ⟨⟨h1, h2⟩, h3⟩ := hm
  have hy : y.is h.mgmt h.ep h.sess = true := by simp [Session.is, e, h1, h2, h3]
  induction l with
  | nil => simp at hx
  | cons a t ih =>
    have same : a.is y.mgmt y.ep y.sess = a.is h.mgmt h.ep h.sess := by rw [e.1, e.2.1, e.2.2, h1, h2, h3]
    rw [List.find?_cons] at hx
    rw [List.map_cons, List.find?_cons, same]
    cases ha : a.is h.mgmt h.ep h.sess with
    | true => simp only [if_true, hy]
    | false =>
      simp only [ha] at hx
      simp only [Bool.false_eq_true, if_false, ha]
      exact ih hx

/-- Nothing is served where nothing waits. -/
theorem State.drain_empty {t : State} {h : Hdr} (k : Nat) (e : ∀ y, t.session h = some y → y.held = []) :
    t.drain h k = t := by
  cases k with
  | zero => rfl
  | succ k =>
    unfold State.drain State.serveNext
    cases hs : t.session h with
    | none => rfl
    | some y => simp only [e y hs]

theorem State.session_serving {s : State} {h : Hdr} (r : Req) {x : Session} (hx : s.session h = some x) :
    (s.serving h r x).session h = some { x with held := [⟨x.next, h, r, s.clock, none⟩], gapSince := none } :=
  State.session_setSession _ (show (s.arrived h r).session h = some x by rw [State.session_arrived]; exact hx) ⟨rfl, rfl, rfl⟩

/-- A request that waits alone and in order leaves no gap (R347). -/
theorem Session.holding_alone (x : Session) (r : Held) (h : r.num = x.next) :
    x.holding [r] = { x with held := [r], gapSince := none } := by
  simp [Session.holding, Session.ahead, missingFrom, h, leastOf]

/-- A session that holds nothing has no gap. -/
theorem Session.holding_nil (x : Session) : x.holding [] = { x with held := [], gapSince := none } := rfl

/-- A request that is next in a session that holds nothing else is served at once. -/
theorem State.arrive_inTurn {s : State} {h : Hdr} {r : Req} {x : Session} {m : Bool} (t : s.InTurn h x m)
    (ho : r ≠ .openSession) : s.arrive h r = .next ((s.serving h r x).drain h 2) := by
  have hr : s.receives h = true := by
    unfold State.receives
    rw [t.up]
    cases hm : h.mgmt
    · obtain ⟨h1, h2⟩ := t.role (by rw [← t.port, hm])
      simp [h1, h2]
    · rfl
  unfold State.arrive
  rw [if_neg (by simp [hr])]
  have hs : (s.arrived h r).inSession h r = (s.serving h r x).drain h 2 := by
    unfold State.inSession
    rw [State.session_arrived, t.found]
    have hk : (s.arrived h r).clock = s.clock := (s.arrived_same h r).1.2.2.2
    simp only [t.next, t.alone, heldInsert, State.serving, missingFrom, List.foldl_nil, Nat.lt_irrefl, if_false, false_and, hk,
      Session.holding_alone x ⟨x.next, h, r, s.clock, none⟩ rfl, List.length_cons, List.length_nil]
  cases r <;> first | exact absurd rfl ho | exact congrArg Host.Outcome.next hs

/-- The header of a request that is in turn raises no status of its own, whatever its data (R342, R344). -/
theorem State.InTurn.headerOk {s : State} {h : Hdr} {x : Session} {m : Bool} (t : s.InTurn h x m) {r : Req}
    (hb : reqBytes r ≤ h.len) : headerStatus h r = none := by
  obtain ⟨h1, h2, h3⟩ := t.header
  simp [headerStatus, h1, h2, Nat.not_lt.mpr h3, Nat.not_lt.mpr hb]

/-- A request that is served with a reply, sessions unchanged, completes with its effect. -/
theorem State.replies_of_serve {s : State} {i : Instr} {h : Hdr} {r : Req} {x : Session} {m : Bool} {status : Nat}
    {body : List Byte} {v : State} {effect : State → Prop} (t : s.InTurn h x m) (e : requestOf i = some (h, r))
    (ho : r ≠ .openSession) (hc : r ≠ .closeSession) (hs : (s.serving h r x).serve h r none = .reply status body v)
    (hv : v.dev.sessions = (s.serving h r x).dev.sessions) (he : effect v) : s.Replies i h x status body effect := by
  refine ⟨r, v, e, he, ?_⟩
  rw [exec_request s e, State.arrive_inTurn t ho]
  congr 1
  have hw := State.session_serving r t.found
  have hn : (s.serving h r x).serveNext h =
      ((v.post (replyTo h (reqType r) status body)).answered h x.next (replyTo h (reqType r) status body), true) := by
    unfold State.serveNext
    rw [hw]
    simp only [ne_eq, not_true_eq_false, if_false]
    rw [if_neg (fun h => hc h.1), hs]
  rw [State.drain, hn]
  refine State.drain_empty _ ?_
  intro z hz
  have hp : (v.post (replyTo h (reqType r) status body)).session h =
      some { x with held := [⟨x.next, h, r, s.clock, none⟩], gapSince := none } := by
    unfold State.session State.post
    simp only [hv]
    exact hw
  unfold State.answered at hz
  simp only [hp] at hz
  rw [State.session_setSession (hx := hp)] at hz
  · cases hz
    simp [Session.holding_nil]
  · exact ⟨rfl, rfl, rfl⟩

/-- What serving starts from: everything but power and the session as it was. -/
theorem State.serving_same (s : State) (h : Hdr) (r : Req) (x : Session) :
    (s.serving h r x).parts = s.parts ∧ (s.serving h r x).mem = s.mem ∧ (s.serving h r x).seqs = s.seqs ∧
      (s.serving h r x).launches = s.launches ∧ (s.serving h r x).queue = s.queue ∧ (s.serving h r x).cmds = s.cmds ∧
      (s.serving h r x).soles = s.soles ∧ (s.serving h r x).clock = s.clock ∧
      { (s.serving h r x).dev with sessions := s.dev.sessions, refresh := s.dev.refresh } = s.dev := by
  obtain ⟨⟨h1, h2, h3, h4⟩, h5, h6, h7, h8, h9, -⟩ := s.arrived_same h r
  exact ⟨h5, h2, h3, h6, h7, h8, h9, h4, congrArg (fun d : Dev => { d with sessions := s.dev.sessions }) h1⟩

/-- A host request of a serving device is served by the resident service; its reply leaves when its body fits (R342). -/
theorem State.serve_host {s : State} {h : Hdr} {r : Req} {turn : Option (Nat × Option (List Nat))} {st : Nat} {body : List Byte}
    {t : State} (hh : headerStatus h r = none) (hm : h.mgmt = false) (up : s.dev.running = .up)
    (hs : s.serveHost h r turn = .reply st body t) (hb : body.length ≤ bodyLimit) :
    s.serve h r turn = .reply st body t := by
  simp only [State.serve, hh, hm, up, Bool.false_eq_true, if_false, if_true, hs, Nat.not_lt.mpr hb]

/-- The same of a request of the management port. -/
theorem State.serve_mgmt {s : State} {h : Hdr} {r : Req} {turn : Option (Nat × Option (List Nat))} {st : Nat} {body : List Byte}
    {t : State} (hh : headerStatus h r = none) (hm : h.mgmt = true) (hs : s.serveMgmt h r = .reply st body t)
    (hb : body.length ≤ bodyLimit) : s.serve h r turn = .reply st body t := by
  simp only [State.serve, hh, hm, if_true, hs, Nat.not_lt.mpr hb, if_false]

end Sys2Proof.Machine
end

