-- ==== Sys2Proof/Laws/Step.lean ====
section
/-!
SUPPORT. What a step runs: the word at PC, by way of its bytes, and an event of the agenda.
-/

namespace Sys2Proof.Machine

set_option Elab.async false

theorem State.wordTurn_ok {s : State} {x : Nat} {i : Instr} {rest : List Byte} (h : decode (wordBytes x) = .ok (i, rest)) :
    s.wordTurn x = .run i (s.before i) := by
  unfold State.wordTurn
  rw [h]

theorem State.wordTurn_error {s : State} {x : Nat} {e : Reject} (h : decode (wordBytes x) = .error e) :
    s.wordTurn x = .run .illegalInstruction s := by
  unfold State.wordTurn
  rw [h]

theorem State.fetchTurn_ok {s : State} {x : Nat} (h : s.fetchWord = .ok x) : s.fetchTurn = s.wordTurn x := by
  unfold State.fetchTurn
  simp only [h]

theorem State.fetchTurn_error {s : State} {e : Miss} (h : s.fetchWord = .error e) :
    s.fetchTurn = .run .instructionFetchFault s := by
  unfold State.fetchTurn
  simp only [h]

/-- Four bytes read as a number give themselves back. -/
theorem wordBytes_cellsNat (m : List Host.Cell) (a : Nat) :
    wordBytes (cellsNat m a 4) = [cellGet m a, cellGet m (a + 1), cellGet m (a + 2), cellGet m (a + 3)] := by
  have h0 := (cellGet m a).isLt
  have h1 := (cellGet m (a + 1)).isLt
  have h2 := (cellGet m (a + 2)).isLt
  have h3 := (cellGet m (a + 3)).isLt
  have e (x : Nat) (b : Byte) (h : x % 256 = b.toNat) : BitVec.ofNat 8 x = b := by
    refine BitVec.eq_of_toNat_eq ?_
    rw [BitVec.toNat_ofNat]
    exact h
  unfold wordBytes
  simp only [cellsNat, Nat.add_assoc, Nat.reduceAdd]
  rw [e _ (cellGet m a) (by omega), e _ (cellGet m (a + 1)) (by omega), e _ (cellGet m (a + 2)) (by omega),
    e _ (cellGet m (a + 3)) (by omega)]

/-- A step of an existing sequencer does what the turn says. -/
theorem step_eq {s : State} (h : s.cur < Config.allUppers * Config.seqsPerUpper) :
    step s = match s.turn with
      | .run i t => exec i t
      | .become t => .next t := by
  unfold step
  exact (if_neg (Nat.not_le.mpr h)).trans (by cases s.turn <;> rfl)

end Sys2Proof.Machine
end

