-- ==== Sys2Proof/Tests/Slice0.lean ====
section
/-!
SUPPORT. Decoding of words written out from the encodings of the manual, terms that are not well formed, single steps with
results from the manual, and states that meet the conditions of the statements.
-/

namespace Sys2Proof.Tests

set_option Elab.async false

open Sys2Proof Sys2Proof.Machine

/-! ### Words that the manual assembles in its text -/

theorem test_decode_manual_words :
    decodeTableWord 32 0x008C6400 = some (.add ⟨0, 3, 3, 4⟩) ∧ decodeTableWord 32 0x06906010 = some (.std ⟨0, 4, 3, 16⟩) ∧
    decodeTableWord 32 0x0E140004 = some (.mfc ⟨0, 5, 4⟩) ∧ decodeTableWord 32 0x10086000 = some (.vtype ⟨0, 2, 3⟩) ∧
    decodeTableWord 32 0x101C0501 = some (.mfg ⟨0, 7, 0, 5⟩) ∧ decodeTableWord 32 0x10208801 = some (.mfg ⟨0, 8, 4, 8⟩) ∧
    decodeTableWord 32 0x1094C700 = some (.strip ⟨0, 5, 6, 7⟩) ∧ decodeTableWord 32 0x11042600 = some (.zld ⟨0, 1, 1, 6⟩) ∧
    decodeTableWord 32 0x11042001 = some (.zst ⟨0, 1, 1⟩) ∧ decodeTableWord 32 0x11904000 = some (.vld ⟨0, 4, 2, 0⟩) ∧
    decodeTableWord 32 0x12A06941 = some (.vsts ⟨0, 8, 3, 9, 2⟩) ∧ decodeTableWord 32 0x19A48500 = some (.capply ⟨0, 9, 4, 5⟩) ∧
    decodeTableWord 32 0x199C2003 = some (.wid ⟨0, 7, 1⟩) ∧
    decodeTableWord 32 0x1B104301 = some (.amoAdd ⟨0, 4, 2, 3, 0, false⟩) ∧
    decodeTableWord 32 0x1B104379 = some (.amoCas ⟨0, 4, 2, 3, 3, true⟩) ∧
    decodeTableWord 32 0x1B800014 = some (.fence ⟨0, 4⟩) ∧ decodeTableWord 32 0x1B800022 = some (.fenceRel ⟨0, 2⟩) ∧
    decodeTableWord 32 0x0C808007 = some (.loopi ⟨0, 4, 7⟩) ∧ decodeTableWord 32 0x05102000 = some (.ldd ⟨0, 4, 1, 0⟩) ∧
    decodeTableWord 32 0x09100004 = some (.blt ⟨0, 4, 0, 4⟩) ∧ decodeTableWord 32 0x01842008 = some (.addi ⟨0, 1, 1, 8⟩) := by
  refine ⟨?_, ?_, ?_, ?_, ?_, ?_, ?_, ?_, ?_, ?_, ?_, ?_, ?_, ?_, ?_, ?_, ?_, ?_, ?_, ?_, ?_⟩ <;> decide

/-- Words that no description assigns: all zeros, all ones, a function without a row, an unused field that is not 0, a reserved
type field, a major without a format (R22, R54, R60). -/
theorem test_decode_refused : ∀ w ∈ [0x00000000, 0xFFFFFFFF, 0x0080001F, 0x01000100 + 0x1A, 0x0D000004, 0x1B800007, 0x1F800000],
    decodeTableWord 32 w = none := by decide

/-! ### Each check of well-formedness refuses a term -/

theorem test_ill_formed : ∀ i ∈ [Instr.loop ⟨0, 1, 1⟩, .loopi ⟨0, 4, 0⟩, .bgs ⟨0, 8, 4⟩, .bgsn ⟨0, 31, 4⟩, .mfc ⟨0, 1, 7⟩,
    .mtc ⟨0, 1, 2, 0x30⟩, .mcset ⟨0, 1, 2, 0x18⟩, .mcclr ⟨0, 1, 2, 0x33⟩, .mfg ⟨0, 1, 0, 10⟩, .mfg ⟨0, 1, 2, 7⟩, .zctw ⟨0, 0, 1⟩,
    .zctw ⟨0, 2, 1⟩, .vcvt ⟨0, 1, 2, 13, 0⟩, .vcvt ⟨0, 1, 2, 24, 0⟩, .vsel ⟨0, 1, 2, 3, 0⟩, .vcomp ⟨0, 1, 2, 0⟩,
    .vceq ⟨0, 8, 1, 2, 0⟩, .vcne ⟨0, 9, 1, 2, 0⟩, .vclt ⟨0, 31, 1, 2, 0⟩, .vcle ⟨0, 8, 1, 2, 0⟩, .vcnan ⟨0, 8, 1, 2, 0⟩,
    .mand ⟨0, 8, 1, 2⟩, .mor ⟨0, 1, 8, 2⟩, .mxor ⟨0, 1, 2, 8⟩, .mandn ⟨0, 1, 2, 9⟩, .mnot ⟨0, 8, 1⟩, .mnot ⟨0, 1, 8⟩,
    .mlen ⟨0, 8, 1⟩, .mpop ⟨0, 1, 8⟩, .mfirst ⟨0, 1, 8⟩, .tbest ⟨0, 3, 3⟩, .tcnt ⟨0, 1, 4⟩, .wid ⟨0, 1, 8⟩, .fence ⟨0, 5⟩,
    .fenceAcq ⟨0, 7⟩, .fenceRel ⟨0, 6⟩], i.wf = false := by decide

/-- The terms at the edge of those checks are well formed. -/
theorem test_well_formed : ∀ i ∈ [Instr.loop ⟨0, 1, 2⟩, .loopi ⟨0, 0, 2⟩, .bgs ⟨0, 7, 4⟩, .mfc ⟨0, 1, 0x32⟩, .mtc ⟨0, 1, 2, 0x24⟩,
    .mfg ⟨0, 1, 31, 9⟩, .zctw ⟨0, 3, 1⟩, .vcvt ⟨0, 1, 2, 23, 0⟩, .vsel ⟨0, 1, 2, 3, 7⟩, .vceq ⟨0, 7, 31, 31, 0⟩, .mnot ⟨0, 7, 7⟩,
    .tbest ⟨0, 0, 0⟩, .tcnt ⟨0, 1, 3⟩, .wid ⟨0, 1, 7⟩, .fence ⟨0, 4⟩], i.wf = true := by decide

/-! ### One word of every constructor: fields d, a, b and the rest laid out as R53 and R54 say -/

theorem test_decode_major_01 :
    decodeTableWord 32 0b010_000001_01001_10100_00011_00000000 = some (.add ⟨2, 9, 20, 3⟩) ∧
    decodeTableWord 32 0b011_000001_01110_11011_01110_00000001 = some (.sub ⟨3, 14, 27, 14⟩) ∧
    decodeTableWord 32 0b100_000001_10011_00011_11001_00000010 = some (.and ⟨4, 19, 3, 25⟩) ∧
    decodeTableWord 32 0b101_000001_11000_01010_00110_00000011 = some (.or ⟨5, 24, 10, 6⟩) ∧
    decodeTableWord 32 0b110_000001_11101_10001_10001_00000100 = some (.xor ⟨6, 29, 17, 17⟩) ∧
    decodeTableWord 32 0b111_000001_00101_11000_11100_00000101 = some (.andn ⟨7, 5, 24, 28⟩) ∧
    decodeTableWord 32 0b001_000001_01010_11111_01001_00000110 = some (.sll ⟨1, 10, 31, 9⟩) ∧
    decodeTableWord 32 0b010_000001_01111_00111_10100_00000111 = some (.srl ⟨2, 15, 7, 20⟩) ∧
    decodeTableWord 32 0b011_000001_10100_01110_11111_00001000 = some (.sra ⟨3, 20, 14, 31⟩) ∧
    decodeTableWord 32 0b100_000001_11001_10101_01100_00001001 = some (.rol ⟨4, 25, 21, 12⟩) ∧
    decodeTableWord 32 0b101_000001_00001_11100_10111_00001010 = some (.slt ⟨5, 1, 28, 23⟩) ∧
    decodeTableWord 32 0b110_000001_00110_00100_00100_00001011 = some (.sltn ⟨6, 6, 4, 4⟩) ∧
    decodeTableWord 32 0b111_000001_01011_01011_01111_00001100 = some (.seq ⟨7, 11, 11, 15⟩) ∧
    decodeTableWord 32 0b001_000001_10000_10010_11010_00001101 = some (.min ⟨1, 16, 18, 26⟩) ∧
    decodeTableWord 32 0b010_000001_10101_11001_00111_00001110 = some (.max ⟨2, 21, 25, 7⟩) ∧
    decodeTableWord 32 0b011_000001_11010_00000_10010_00001111 = some (.minn ⟨3, 26, 0, 18⟩) ∧
    decodeTableWord 32 0b100_000001_00010_01000_11101_00010000 = some (.maxn ⟨4, 2, 8, 29⟩) ∧
    decodeTableWord 32 0b101_000001_00111_01111_01010_00010001 = some (.addw ⟨5, 7, 15, 10⟩) ∧
    decodeTableWord 32 0b110_000001_01100_10110_10101_00010010 = some (.subw ⟨6, 12, 22, 21⟩) ∧
    decodeTableWord 32 0b111_000001_10001_11101_00000_00010011 = some (.adds1 ⟨7, 17, 29, 0⟩) ∧
    decodeTableWord 32 0b001_000001_10110_00101_01101_00010100 = some (.adds2 ⟨1, 22, 5, 13⟩) ∧
    decodeTableWord 32 0b010_000001_11011_01100_11000_00010101 = some (.adds3 ⟨2, 27, 12, 24⟩) ∧
    decodeTableWord 32 0b011_000001_00011_10011_00101_0010000_0 = some (.slli ⟨3, 3, 19, 5⟩) ∧
    decodeTableWord 32 0b100_000001_01000_11010_10000_0010001_1 = some (.srli ⟨4, 8, 26, 48⟩) ∧
    decodeTableWord 32 0b101_000001_01101_00010_11011_0010010_0 = some (.srai ⟨5, 13, 2, 27⟩) ∧
    decodeTableWord 32 0b110_000001_10010_01001_01000_0010011_1 = some (.roli ⟨6, 18, 9, 40⟩) := by
  refine ⟨?_, ?_, ?_, ?_, ?_, ?_, ?_, ?_, ?_, ?_, ?_, ?_, ?_, ?_, ?_, ?_, ?_, ?_, ?_, ?_, ?_, ?_, ?_, ?_, ?_, ?_⟩ <;> decide

theorem test_decode_major_02 :
    decodeTableWord 32 0b111_000010_10111_10000_10011_00000000 = some (.mul ⟨7, 23, 16, 19⟩) ∧
    decodeTableWord 32 0b001_000010_11100_10111_11110_00000001 = some (.mulh ⟨1, 28, 23, 30⟩) ∧
    decodeTableWord 32 0b010_000010_00100_11110_01011_00000010 = some (.mulhn ⟨2, 4, 30, 11⟩) ∧
    decodeTableWord 32 0b011_000010_01001_00110_10110_00000011 = some (.div ⟨3, 9, 6, 22⟩) ∧
    decodeTableWord 32 0b100_000010_01110_01101_00011_00000100 = some (.divn ⟨4, 14, 13, 3⟩) ∧
    decodeTableWord 32 0b101_000010_10011_10100_01110_00000101 = some (.rem ⟨5, 19, 20, 14⟩) ∧
    decodeTableWord 32 0b110_000010_11000_11011_11001_00000110 = some (.remn ⟨6, 24, 27, 25⟩) ∧
    decodeTableWord 32 0b111_000010_11101_00011_0000000000111 = some (.clz ⟨7, 29, 3⟩) ∧
    decodeTableWord 32 0b001_000010_00101_01010_0000000001000 = some (.ctz ⟨1, 5, 10⟩) ∧
    decodeTableWord 32 0b010_000010_01010_10001_0000000001001 = some (.cpop ⟨2, 10, 17⟩) ∧
    decodeTableWord 32 0b011_000010_01111_11000_01001_00001010 = some (.bext ⟨3, 15, 24, 9⟩) ∧
    decodeTableWord 32 0b100_000010_10100_11111_10100_00001011 = some (.bins ⟨4, 20, 31, 20⟩) := by
  refine ⟨?_, ?_, ?_, ?_, ?_, ?_, ?_, ?_, ?_, ?_, ?_, ?_⟩ <;> decide

theorem test_decode_major_03 :
    decodeTableWord 32 0b101_000011_11001_00111_0100010110010 = some (.addi ⟨5, 25, 7, 2226⟩) := by
  decide

theorem test_decode_major_04 :
    decodeTableWord 32 0b110_000100_00001_01110_0001011101100 = some (.andi ⟨6, 1, 14, 748⟩) := by
  decide

theorem test_decode_major_05 :
    decodeTableWord 32 0b111_000101_00110_10101_0011000101001 = some (.ori ⟨7, 6, 21, 1577⟩) := by
  decide

theorem test_decode_major_06 :
    decodeTableWord 32 0b001_000110_01011_11100_0000010111010 = some (.xori ⟨1, 11, 28, 186⟩) := by
  decide

theorem test_decode_major_07 :
    decodeTableWord 32 0b010_000111_10000_000000000100010011 = some (.lih ⟨2, 16, 275⟩) := by
  decide

theorem test_decode_major_08 :
    decodeTableWord 32 0b011_001000_10101_01011_11010_00000000 = some (.ldxb ⟨3, 21, 11, 26⟩) ∧
    decodeTableWord 32 0b100_001000_11010_10010_00111_00000001 = some (.ldxbn ⟨4, 26, 18, 7⟩) ∧
    decodeTableWord 32 0b101_001000_00010_11001_10010_00000010 = some (.ldxh ⟨5, 2, 25, 18⟩) ∧
    decodeTableWord 32 0b110_001000_00111_00000_11101_00000011 = some (.ldxhn ⟨6, 7, 0, 29⟩) ∧
    decodeTableWord 32 0b111_001000_01100_01000_01010_00000100 = some (.ldxw ⟨7, 12, 8, 10⟩) ∧
    decodeTableWord 32 0b001_001000_10001_01111_10101_00000101 = some (.ldxwn ⟨1, 17, 15, 21⟩) ∧
    decodeTableWord 32 0b010_001000_10110_10110_00000_00000110 = some (.ldxd ⟨2, 22, 22, 0⟩) := by
  refine ⟨?_, ?_, ?_, ?_, ?_, ?_, ?_⟩ <;> decide

theorem test_decode_major_09 :
    decodeTableWord 32 0b011_001001_11011_11101_01101_00000000 = some (.stxb ⟨3, 27, 29, 13⟩) ∧
    decodeTableWord 32 0b100_001001_00011_00101_11000_00000001 = some (.stxh ⟨4, 3, 5, 24⟩) ∧
    decodeTableWord 32 0b101_001001_01000_01100_00101_00000010 = some (.stxw ⟨5, 8, 12, 5⟩) ∧
    decodeTableWord 32 0b110_001001_01101_10011_10000_00000011 = some (.stxd ⟨6, 13, 19, 16⟩) ∧
    decodeTableWord 32 0b111_001001_00000_10010_11010_00000100 = some (.cwb ⟨7, 18, 26⟩) ∧
    decodeTableWord 32 0b001_001001_00000_10111_00010_00000101 = some (.czero ⟨1, 23, 2⟩) := by
  refine ⟨?_, ?_, ?_, ?_, ?_, ?_⟩ <;> decide

theorem test_decode_major_0a :
    decodeTableWord 32 0b010_001010_11100_01001_0010101000011 = some (.ldd ⟨2, 28, 9, 1347⟩) := by
  decide

theorem test_decode_major_0b :
    decodeTableWord 32 0b011_001011_00100_10000_0100000101001 = some (.ldw ⟨3, 4, 16, 2089⟩) := by
  decide

theorem test_decode_major_0c :
    decodeTableWord 32 0b100_001100_01001_10111_0001010111010 = some (.ldwn ⟨4, 9, 23, 698⟩) := by
  decide

theorem test_decode_major_0d :
    decodeTableWord 32 0b101_001101_01110_11110_0010111110111 = some (.std ⟨5, 14, 30, 1527⟩) := by
  decide

theorem test_decode_major_0e :
    decodeTableWord 32 0b110_001110_10011_00110_0000010001000 = some (.stw ⟨6, 19, 6, 136⟩) := by
  decide

theorem test_decode_major_0f :
    decodeTableWord 32 0b111_001111_11000_01101_0000000000000 = some (.lr ⟨7, 24, 13⟩) ∧
    decodeTableWord 32 0b001_001111_11101_10100_0000000000001 = some (.lrw ⟨1, 29, 20⟩) ∧
    decodeTableWord 32 0b010_001111_00101_11011_00110_00000010 = some (.sc ⟨2, 5, 27, 6⟩) ∧
    decodeTableWord 32 0b011_001111_01010_00011_10001_00000011 = some (.scw ⟨3, 10, 3, 17⟩) ∧
    decodeTableWord 32 0b100_001111_00000_01111_01010_00000100 = some (.pref ⟨4, 15, 10⟩) := by
  refine ⟨?_, ?_, ?_, ?_, ?_⟩ <;> decide

theorem test_decode_major_10 :
    decodeTableWord 32 0b101_010000_10100_10001_0001001000111 = some (.beq ⟨5, 20, 17, 583⟩) := by
  decide

theorem test_decode_major_11 :
    decodeTableWord 32 0b110_010001_11001_11000_0010110000100 = some (.bne ⟨6, 25, 24, 1412⟩) := by
  decide

theorem test_decode_major_12 :
    decodeTableWord 32 0b111_010010_00001_11111_0100001101010 = some (.blt ⟨7, 1, 31, 2154⟩) := by
  decide

theorem test_decode_major_13 :
    decodeTableWord 32 0b001_010011_00110_00111_0001011111011 = some (.bge ⟨1, 6, 7, 763⟩) := by
  decide

theorem test_decode_major_14 :
    decodeTableWord 32 0b010_010100_01011_01110_0011000111000 = some (.bltn ⟨2, 11, 14, 1592⟩) := by
  decide

theorem test_decode_major_15 :
    decodeTableWord 32 0b011_010101_10000_10101_0000011001001 = some (.bgen ⟨3, 16, 21, 201⟩) := by
  decide

theorem test_decode_major_16 :
    decodeTableWord 32 0b100_010110_10101_000000100000010010 = some (.jal ⟨4, 21, 2066⟩) := by
  decide

theorem test_decode_major_17 :
    decodeTableWord 32 0b101_010111_11010_00100_0000000000000 = some (.jalr ⟨5, 26, 4⟩) ∧
    decodeTableWord 32 0b110_010111_00010_000000000000000001 = some (.rdpc ⟨6, 2⟩) := by
  refine ⟨?_, ?_⟩ <;> decide

theorem test_decode_major_18 :
    decodeTableWord 32 0b111_011000_00000_00111_0010100000100 = some (.loop ⟨7, 7, 1284⟩) := by
  decide

theorem test_decode_major_19 :
    decodeTableWord 32 0b001_011001_1110100001_0011100011001 = some (.loopi ⟨1, 929, 1817⟩) := by
  decide

theorem test_decode_major_1a :
    decodeTableWord 32 0b010_011010_00000000000000000000000 = some (.lpop ⟨2⟩) ∧
    decodeTableWord 32 0b011_011010_00000000000000000000001 = some (.lbrk ⟨3⟩) ∧
    decodeTableWord 32 0b100_011010_11011_000000000000000010 = some (.lcnt ⟨4, 27⟩) ∧
    decodeTableWord 32 0b101_011010_00011_000000000000000011 = some (.ldep ⟨5, 3⟩) := by
  refine ⟨?_, ?_, ?_, ?_⟩ <;> decide

theorem test_decode_major_1b :
    decodeTableWord 32 0b110_011011_01000_00000_0100000110101 = some (.bgs ⟨6, 8, 2101⟩) ∧
    decodeTableWord 32 0b111_011011_01101_00001_0000101010100 = some (.bgsn ⟨7, 13, 340⟩) := by
  refine ⟨?_, ?_⟩ <;> decide

theorem test_decode_major_1c :
    decodeTableWord 32 0b001_011100_10010_0000000_01101101001 = some (.mfc ⟨1, 18, 873⟩) ∧
    decodeTableWord 32 0b010_011100_10111_10011_01_11110000100 = some (.mtc ⟨2, 23, 19, 1924⟩) ∧
    decodeTableWord 32 0b011_011100_11100_11010_10_01000010101 = some (.mcset ⟨3, 28, 26, 533⟩) ∧
    decodeTableWord 32 0b100_011100_00100_00010_11_10011111011 = some (.mcclr ⟨4, 4, 2, 1275⟩) := by
  refine ⟨?_, ?_, ?_, ?_⟩ <;> decide

theorem test_decode_major_1d :
    decodeTableWord 32 0b101_011101_00000000000000000000000 = some (.rft ⟨5⟩) ∧
    decodeTableWord 32 0b110_011101_000000000000001_00111011 = some (.trap ⟨6, 59⟩) := by
  refine ⟨?_, ?_⟩ <;> decide

theorem test_decode_major_1e :
    decodeTableWord 32 0b111_011110_00000000000000000000000 = some (.ifence ⟨7⟩) ∧
    decodeTableWord 32 0b001_011110_00000000000000000000001 = some (.pause ⟨1⟩) ∧
    decodeTableWord 32 0b010_011110_00000000000000000000010 = some (.sdrain ⟨2⟩) := by
  refine ⟨?_, ?_, ?_⟩ <;> decide

theorem test_decode_major_1f :
    decodeTableWord 32 0b011_011111_00000000000000000000000 = some (.halt ⟨3⟩) := by
  decide

theorem test_decode_major_20 :
    decodeTableWord 32 0b100_100000_01010_10100_0000000000000 = some (.vtype ⟨4, 10, 20⟩) ∧
    decodeTableWord 32 0b101_100000_01111_11011_10001_00000001 = some (.mfg ⟨5, 15, 27, 17⟩) ∧
    decodeTableWord 32 0b110_100000_10100_00011_0000000010000 = some (.zctw ⟨6, 20, 3⟩) ∧
    decodeTableWord 32 0b111_100000_00000000000000000010001 = some (.zcswap ⟨7⟩) := by
  refine ⟨?_, ?_, ?_, ?_⟩ <;> decide

theorem test_decode_major_21 :
    decodeTableWord 32 0b001_100001_00001_10001_10100_00000000 = some (.strip ⟨1, 1, 17, 20⟩) ∧
    decodeTableWord 32 0b010_100001_00000000000000000000001 = some (.sclose ⟨2⟩) ∧
    decodeTableWord 32 0b011_100001_00000000000000000000010 = some (.scloseRel ⟨3⟩) := by
  refine ⟨?_, ?_, ?_⟩ <;> decide

theorem test_decode_major_22 :
    decodeTableWord 32 0b100_100010_10000_00111_10111_00000000 = some (.zld ⟨4, 16, 7, 23⟩) ∧
    decodeTableWord 32 0b101_100010_10101_01110_0000000000001 = some (.zst ⟨5, 21, 14⟩) ∧
    decodeTableWord 32 0b110_100010_11010_10101_0000000000010 = some (.zfind ⟨6, 26, 21⟩) ∧
    decodeTableWord 32 0b111_100010_00010_11100_11010_00000011 = some (.zskip ⟨7, 2, 28, 26⟩) := by
  refine ⟨?_, ?_, ?_, ?_⟩ <;> decide

theorem test_decode_major_23 :
    decodeTableWord 32 0b001_100011_00111_00100_00000_001_00000 = some (.vld ⟨1, 7, 4, 1⟩) ∧
    decodeTableWord 32 0b010_100011_01100_01011_10010_010_00001 = some (.vlds ⟨2, 12, 11, 18, 2⟩) ∧
    decodeTableWord 32 0b011_100011_10001_10010_00000_011_00010 = some (.vldb ⟨3, 17, 18, 3⟩) ∧
    decodeTableWord 32 0b100_100011_10110_11001_00000_100_00011 = some (.vldo ⟨4, 22, 25, 4⟩) ∧
    decodeTableWord 32 0b101_100011_11011_00000_10101_101_00100 = some (.vldso ⟨5, 27, 0, 21, 5⟩) := by
  refine ⟨?_, ?_, ?_, ?_, ?_⟩ <;> decide

theorem test_decode_major_24 :
    decodeTableWord 32 0b110_100100_00011_01000_00000_110_00000 = some (.vldx ⟨6, 3, 8, 0, 6⟩) ∧
    decodeTableWord 32 0b111_100100_01000_01111_01101_111_00001 = some (.vldxo ⟨7, 8, 15, 13, 7⟩) := by
  refine ⟨?_, ?_⟩ <;> decide

theorem test_decode_major_25 :
    decodeTableWord 32 0b001_100101_01101_10110_00000_000_00000 = some (.vst ⟨1, 13, 22, 0⟩) ∧
    decodeTableWord 32 0b010_100101_10010_11101_00101_001_00001 = some (.vsts ⟨2, 18, 29, 5, 1⟩) ∧
    decodeTableWord 32 0b011_100101_10111_00101_00000_010_00010 = some (.vstc ⟨3, 23, 5, 2⟩) ∧
    decodeTableWord 32 0b100_100101_11100_01100_00000_011_00011 = some (.vsto ⟨4, 28, 12, 3⟩) ∧
    decodeTableWord 32 0b101_100101_00100_10011_01000_100_00100 = some (.vstso ⟨5, 4, 19, 8, 4⟩) ∧
    decodeTableWord 32 0b110_100101_01001_11010_10011_101_00101 = some (.vstx ⟨6, 9, 26, 19, 5⟩) ∧
    decodeTableWord 32 0b111_100101_01110_00010_11110_110_00110 = some (.vstxo ⟨7, 14, 2, 30, 6⟩) := by
  refine ⟨?_, ?_, ?_, ?_, ?_, ?_, ?_⟩ <;> decide

theorem test_decode_major_26 :
    decodeTableWord 32 0b001_100110_10011_01001_01011_111_00000 = some (.vadd ⟨1, 19, 9, 11, 7⟩) ∧
    decodeTableWord 32 0b010_100110_11000_10000_10110_000_00001 = some (.vsub ⟨2, 24, 16, 22, 0⟩) ∧
    decodeTableWord 32 0b011_100110_11101_10111_00011_001_00010 = some (.vmul ⟨3, 29, 23, 3, 1⟩) ∧
    decodeTableWord 32 0b100_100110_00101_11110_01110_010_00011 = some (.vdiv ⟨4, 5, 30, 14, 2⟩) ∧
    decodeTableWord 32 0b101_100110_01010_00110_11001_011_00100 = some (.vmin ⟨5, 10, 6, 25, 3⟩) ∧
    decodeTableWord 32 0b110_100110_01111_01101_00110_100_00101 = some (.vmax ⟨6, 15, 13, 6, 4⟩) ∧
    decodeTableWord 32 0b111_100110_10100_10100_10001_101_00110 = some (.vabsd ⟨7, 20, 20, 17, 5⟩) ∧
    decodeTableWord 32 0b001_100110_11001_11011_11100_110_00111 = some (.vand ⟨1, 25, 27, 28, 6⟩) ∧
    decodeTableWord 32 0b010_100110_00001_00011_01001_111_01000 = some (.vor ⟨2, 1, 3, 9, 7⟩) ∧
    decodeTableWord 32 0b011_100110_00110_01010_10100_000_01001 = some (.vxor ⟨3, 6, 10, 20, 0⟩) ∧
    decodeTableWord 32 0b100_100110_01011_10001_11111_001_01010 = some (.vsll ⟨4, 11, 17, 31, 1⟩) ∧
    decodeTableWord 32 0b101_100110_10000_11000_01100_010_01011 = some (.vsrl ⟨5, 16, 24, 12, 2⟩) ∧
    decodeTableWord 32 0b110_100110_10101_11111_10111_011_01100 = some (.vsra ⟨6, 21, 31, 23, 3⟩) := by
  refine ⟨?_, ?_, ?_, ?_, ?_, ?_, ?_, ?_, ?_, ?_, ?_, ?_, ?_⟩ <;> decide

theorem test_decode_major_27 :
    decodeTableWord 32 0b111_100111_11010_00111_00000_100_00000 = some (.vneg ⟨7, 26, 7, 4⟩) ∧
    decodeTableWord 32 0b001_100111_00010_01110_00000_101_00001 = some (.vabs ⟨1, 2, 14, 5⟩) ∧
    decodeTableWord 32 0b010_100111_00111_10101_00000_110_00010 = some (.vsqrt ⟨2, 7, 21, 6⟩) ∧
    decodeTableWord 32 0b011_100111_01100_11100_00000_111_00011 = some (.vmov ⟨3, 12, 28, 7⟩) ∧
    decodeTableWord 32 0b100_100111_10001_00100_10010_000_00100 = some (.vadds ⟨4, 17, 4, 18, 0⟩) ∧
    decodeTableWord 32 0b101_100111_10110_01011_11101_001_00101 = some (.vmuls ⟨5, 22, 11, 29, 1⟩) ∧
    decodeTableWord 32 0b110_100111_11011_00000_10010_010_00110 = some (.vbcast ⟨6, 27, 18, 2⟩) ∧
    decodeTableWord 32 0b111_100111_00011_0000000000_011_00111 = some (.vid ⟨7, 3, 3⟩) := by
  refine ⟨?_, ?_, ?_, ?_, ?_, ?_, ?_, ?_⟩ <;> decide

theorem test_decode_major_28 :
    decodeTableWord 32 0b001_101000_01000_00000_00000_100_00000 = some (.vfma ⟨1, 8, 0, 0, 4⟩) ∧
    decodeTableWord 32 0b010_101000_01101_01000_01101_101_00001 = some (.vfms ⟨2, 13, 8, 13, 5⟩) ∧
    decodeTableWord 32 0b011_101000_10010_01111_11000_110_00010 = some (.vfnma ⟨3, 18, 15, 24, 6⟩) ∧
    decodeTableWord 32 0b100_101000_10111_10110_00101_111_00011 = some (.vtsum ⟨4, 23, 22, 5, 7⟩) ∧
    decodeTableWord 32 0b101_101000_11100_11101_10000_000_00100 = some (.vtprod ⟨5, 28, 29, 16, 0⟩) := by
  refine ⟨?_, ?_, ?_, ?_, ?_⟩ <;> decide

theorem test_decode_major_29 :
    decodeTableWord 32 0b110_101001_00100_00101_11011_001_00000 = some (.vceq ⟨6, 4, 5, 27, 1⟩) ∧
    decodeTableWord 32 0b111_101001_01001_01100_01000_010_00001 = some (.vcne ⟨7, 9, 12, 8, 2⟩) ∧
    decodeTableWord 32 0b001_101001_01110_10011_10011_011_00010 = some (.vclt ⟨1, 14, 19, 19, 3⟩) ∧
    decodeTableWord 32 0b010_101001_10011_11010_11110_100_00011 = some (.vcle ⟨2, 19, 26, 30, 4⟩) ∧
    decodeTableWord 32 0b011_101001_11000_00010_01011_101_00100 = some (.vcnan ⟨3, 24, 2, 11, 5⟩) := by
  refine ⟨?_, ?_, ?_, ?_, ?_⟩ <;> decide

theorem test_decode_major_2a :
    decodeTableWord 32 0b100_101010_11101_01001_10110_110_00000 = some (.vcvt ⟨4, 29, 9, 22, 6⟩) ∧
    decodeTableWord 32 0b101_101010_00101_10000_0000000000001 = some (.vqnt ⟨5, 5, 16⟩) ∧
    decodeTableWord 32 0b110_101010_01010_10111_0000000000010 = some (.vdqnt ⟨6, 10, 23⟩) := by
  refine ⟨?_, ?_, ?_⟩ <;> decide

theorem test_decode_major_2b :
    decodeTableWord 32 0b111_101011_01111_11110_11001_001_00000 = some (.vsel ⟨7, 15, 30, 25, 1⟩) ∧
    decodeTableWord 32 0b001_101011_10100_00110_00110_010_00001 = some (.vslup ⟨1, 20, 6, 6, 2⟩) ∧
    decodeTableWord 32 0b010_101011_11001_01101_10001_011_00010 = some (.vsldn ⟨2, 25, 13, 17, 3⟩) ∧
    decodeTableWord 32 0b011_101011_00001_10100_11100_100_00011 = some (.vperm ⟨3, 1, 20, 28, 4⟩) ∧
    decodeTableWord 32 0b100_101011_00110_11011_00000_101_00100 = some (.vcomp ⟨4, 6, 27, 5⟩) := by
  refine ⟨?_, ?_, ?_, ?_, ?_⟩ <;> decide

theorem test_decode_major_2c :
    decodeTableWord 32 0b101_101100_01011_00011_10100_110_00000 = some (.vredo ⟨5, 11, 3, 20, 6⟩) ∧
    decodeTableWord 32 0b110_101100_10000_01010_11111_111_00001 = some (.vredt ⟨6, 16, 10, 31, 7⟩) ∧
    decodeTableWord 32 0b111_101100_10101_10001_01100_000_00010 = some (.vscano ⟨7, 21, 17, 12, 0⟩) ∧
    decodeTableWord 32 0b001_101100_11010_11000_10111_001_00011 = some (.vscanf ⟨1, 26, 24, 23, 1⟩) ∧
    decodeTableWord 32 0b010_101100_00010_11111_00100_010_00100 = some (.vredmin ⟨2, 2, 31, 4, 2⟩) ∧
    decodeTableWord 32 0b011_101100_00111_00111_01111_011_00101 = some (.vredmax ⟨3, 7, 7, 15, 3⟩) := by
  refine ⟨?_, ?_, ?_, ?_, ?_, ?_⟩ <;> decide

theorem test_decode_major_2d :
    decodeTableWord 32 0b100_101101_01100_01110_11010_00000000 = some (.mand ⟨4, 12, 14, 26⟩) ∧
    decodeTableWord 32 0b101_101101_10001_10101_00111_00000001 = some (.mor ⟨5, 17, 21, 7⟩) ∧
    decodeTableWord 32 0b110_101101_10110_11100_10010_00000010 = some (.mxor ⟨6, 22, 28, 18⟩) ∧
    decodeTableWord 32 0b111_101101_11011_00100_11101_00000011 = some (.mandn ⟨7, 27, 4, 29⟩) ∧
    decodeTableWord 32 0b001_101101_00011_01011_0000000000100 = some (.mnot ⟨1, 3, 11⟩) ∧
    decodeTableWord 32 0b010_101101_01000_10010_0000000000101 = some (.mlen ⟨2, 8, 18⟩) ∧
    decodeTableWord 32 0b011_101101_01101_11001_0000000000110 = some (.mpop ⟨3, 13, 25⟩) ∧
    decodeTableWord 32 0b100_101101_10010_00000_0000000000111 = some (.mfirst ⟨4, 18, 0⟩) := by
  refine ⟨?_, ?_, ?_, ?_, ?_, ?_, ?_, ?_⟩ <;> decide

theorem test_decode_major_2e :
    decodeTableWord 32 0b101_101110_10111_01000_00_010_100_00000 = some (.tmac ⟨5, 87, 8, 0, 4⟩) ∧
    decodeTableWord 32 0b110_101110_11100_01111_01_111_101_00001 = some (.tdist ⟨6, 252, 15, 1, 5⟩) ∧
    decodeTableWord 32 0b111_101110_00100_10110_00_000_110_00010 = some (.tcupd ⟨7, 4, 22, 6⟩) ∧
    decodeTableWord 32 0b001_101110_01001_11101_00_011_111_00011 = some (.tacc ⟨1, 105, 29, 7⟩) := by
  refine ⟨?_, ?_, ?_, ?_⟩ <;> decide

theorem test_decode_major_2f :
    decodeTableWord 32 0b010_101111_01110_00101_00_000_000_00000 = some (.tdrain ⟨2, 14, 5, 0⟩) ∧
    decodeTableWord 32 0b011_101111_10011_01100_00_011_001_00001 = some (.tfill ⟨3, 115, 12, 1⟩) ∧
    decodeTableWord 32 0b100_101111_11000_10011_00_110_00000010 = some (.tzero ⟨4, 216, 19⟩) ∧
    decodeTableWord 32 0b101_101111_11101_11010_00_011_00000011 = some (.tcdiv ⟨5, 125, 26⟩) ∧
    decodeTableWord 32 0b110_101111_00101_00010_00_110_00000100 = some (.tcget ⟨6, 197, 2⟩) := by
  refine ⟨?_, ?_, ?_, ?_, ?_⟩ <;> decide

theorem test_decode_major_30 :
    decodeTableWord 32 0b111_110000_00000_01010_01_00000000000 = some (.tld ⟨7, 10, 1⟩) := by
  decide

theorem test_decode_major_31 :
    decodeTableWord 32 0b001_110001_00000_01111_10000_00000000 = some (.tmode ⟨1, 15, 16⟩) ∧
    decodeTableWord 32 0b010_110001_10100_000000000000000001 = some (.tmodr ⟨2, 20⟩) ∧
    decodeTableWord 32 0b011_110001_11001_000000000000000010 = some (.tmodc ⟨3, 25⟩) ∧
    decodeTableWord 32 0b100_110001_00001_00000_00110_00000011 = some (.tbest ⟨4, 1, 6⟩) ∧
    decodeTableWord 32 0b101_110001_00110_01101_0000000000100 = some (.tcnt ⟨5, 6, 13⟩) := by
  refine ⟨?_, ?_, ?_, ?_, ?_⟩ <;> decide

theorem test_decode_major_32 :
    decodeTableWord 32 0b110_110010_01011_10100_01001_00000000 = some (.cfun ⟨6, 11, 20, 9⟩) ∧
    decodeTableWord 32 0b111_110010_10000_11011_10100_00000001 = some (.ccor ⟨7, 16, 27, 20⟩) ∧
    decodeTableWord 32 0b001_110010_10101_00011_11111_00000010 = some (.cseq ⟨1, 21, 3, 31⟩) ∧
    decodeTableWord 32 0b010_110010_11010_01010_01100_00000011 = some (.cpar ⟨2, 26, 10, 12⟩) ∧
    decodeTableWord 32 0b011_110010_00010_10001_10111_00000100 = some (.cpipe ⟨3, 2, 17, 23⟩) ∧
    decodeTableWord 32 0b100_110010_00111_11000_00100_00000101 = some (.cfarm ⟨4, 7, 24, 4⟩) ∧
    decodeTableWord 32 0b101_110010_01100_11111_01111_00000110 = some (.cloop ⟨5, 12, 31, 15⟩) := by
  refine ⟨?_, ?_, ?_, ?_, ?_, ?_, ?_⟩ <;> decide

theorem test_decode_major_33 :
    decodeTableWord 32 0b110_110011_10001_00111_11010_00000000 = some (.capply ⟨6, 17, 7, 26⟩) ∧
    decodeTableWord 32 0b111_110011_00000_10110_01110_00000001 = some (.cret ⟨7, 22, 14⟩) ∧
    decodeTableWord 32 0b001_110011_11011_10101_10010_00000010 = some (.cyield ⟨1, 27, 21, 18⟩) ∧
    decodeTableWord 32 0b010_110011_00011_11100_0000000000011 = some (.wid ⟨2, 3, 28⟩) := by
  refine ⟨?_, ?_, ?_, ?_⟩ <;> decide

theorem test_decode_major_34 :
    decodeTableWord 32 0b011_110100_01000_00100_01010_00000000 = some (.chput ⟨3, 8, 4, 10⟩) ∧
    decodeTableWord 32 0b100_110100_01101_01011_10101_00000001 = some (.chget ⟨4, 13, 11, 21⟩) := by
  refine ⟨?_, ?_⟩ <;> decide

theorem test_decode_major_35 :
    decodeTableWord 32 0b101_110101_10010_10010_00000_00000000 = some (.barv ⟨5, 18, 18, 0⟩) ∧
    decodeTableWord 32 0b110_110101_10111_11001_01101_00000001 = some (.barw ⟨6, 23, 25, 13⟩) ∧
    decodeTableWord 32 0b111_110101_11100_00000_11000_00000010 = some (.bara ⟨7, 28, 0, 24⟩) := by
  refine ⟨?_, ?_, ?_⟩ <;> decide

theorem test_decode_major_36 :
    decodeTableWord 32 0b001_110110_00100_01000_00101_0_11_1_0000 = some (.amoSwap ⟨1, 4, 8, 5, 3, true⟩) ∧
    decodeTableWord 32 0b010_110110_01001_01111_10000_0_00_0_0001 = some (.amoAdd ⟨2, 9, 15, 16, 0, false⟩) ∧
    decodeTableWord 32 0b011_110110_01110_10110_11011_0_01_1_0010 = some (.amoAnd ⟨3, 14, 22, 27, 1, true⟩) ∧
    decodeTableWord 32 0b100_110110_10011_11101_01000_0_10_0_0011 = some (.amoOr ⟨4, 19, 29, 8, 2, false⟩) ∧
    decodeTableWord 32 0b101_110110_11000_00101_10011_0_11_1_0100 = some (.amoXor ⟨5, 24, 5, 19, 3, true⟩) ∧
    decodeTableWord 32 0b110_110110_11101_01100_11110_0_00_0_0101 = some (.amoMin ⟨6, 29, 12, 30, 0, false⟩) ∧
    decodeTableWord 32 0b111_110110_00101_10011_01011_0_00_1_0110 = some (.amoMax ⟨7, 5, 19, 11, 0, true⟩) ∧
    decodeTableWord 32 0b001_110110_01010_11010_10110_0_01_0_0111 = some (.amoMinn ⟨1, 10, 26, 22, 1, false⟩) ∧
    decodeTableWord 32 0b010_110110_01111_00010_00011_0_10_1_1000 = some (.amoMaxn ⟨2, 15, 2, 3, 2, true⟩) ∧
    decodeTableWord 32 0b011_110110_10100_01001_01110_0_11_0_1001 = some (.amoCas ⟨3, 20, 9, 14, 3, false⟩) := by
  refine ⟨?_, ?_, ?_, ?_, ?_, ?_, ?_, ?_, ?_, ?_⟩ <;> decide

theorem test_decode_major_37 :
    decodeTableWord 32 0b100_110111_00000_11001_10000_00000000 = some (.scopen ⟨4, 25, 16⟩) ∧
    decodeTableWord 32 0b101_110111_00001_10111_00110_00000001 = some (.scaddO ⟨5, 1, 23, 6⟩) ∧
    decodeTableWord 32 0b110_110111_00110_11110_10001_00000010 = some (.scaddU ⟨6, 6, 30, 17⟩) ∧
    decodeTableWord 32 0b111_110111_01011_00110_0000000000011 = some (.scflush ⟨7, 11, 6⟩) ∧
    decodeTableWord 32 0b001_110111_00000000000000000010_010 = some (.fence ⟨1, 2⟩) ∧
    decodeTableWord 32 0b010_110111_00000000000000000011_011 = some (.fenceAcq ⟨2, 3⟩) ∧
    decodeTableWord 32 0b011_110111_00000000000000000100_100 = some (.fenceRel ⟨3, 4⟩) := by
  refine ⟨?_, ?_, ?_, ?_, ?_, ?_, ?_⟩ <;> decide

theorem test_decode_major_38 :
    decodeTableWord 32 0b100_111000_00010_00011_01100_101_00000 = some (.xcopy ⟨4, 2, 3, 12, 5⟩) ∧
    decodeTableWord 32 0b101_111000_00111_01010_10111_010_00001 = some (.xcopyz ⟨5, 7, 10, 23, 2⟩) ∧
    decodeTableWord 32 0b110_111000_01100_10001_00100_111_00010 = some (.xfill ⟨6, 12, 17, 4, 7⟩) := by
  refine ⟨?_, ?_, ?_⟩ <;> decide

theorem test_decode_major_39 :
    decodeTableWord 32 0b111_111001_10001_11000_01111_00000000 = some (.xquery ⟨7, 17, 24, 15⟩) ∧
    decodeTableWord 32 0b001_111001_10110_11111_11010_00000001 = some (.xgrid ⟨1, 22, 31, 26⟩) := by
  refine ⟨?_, ?_⟩ <;> decide

theorem test_decode_major_3a :
    decodeTableWord 32 0b010_111010_11011_00111_00111_110_00000 = some (.xcoll ⟨2, 27, 7, 7, 6⟩) ∧
    decodeTableWord 32 0b011_111010_00011_01110_0000000000001 = some (.xnote ⟨3, 3, 14⟩) := by
  refine ⟨?_, ?_⟩ <;> decide
/-! ### Small states -/

/-- A partition of one core, with no frame pool. -/
def partition0 : Partition where
  cores := [⟨0, 1, 0⟩]
  root := Config.tablePool
  ptab := none
  handler := none
  stdVa := Config.stdHandlerVa
  pool := (Config.framePoolVa, 0)
  slotsPerUpper := 0
  area := 0
  share := 0
  tolerance := 1000
  maps := []
  groups := []
  gangs := []
  saveAreas := []
  frames := []

/-- A device with one partition of one core, a mapped 64 KiB page at address 0, and sequencer 0 running at 0x1000. -/
def machine (f : Seq → Seq) : State :=
  { State.reset with
    parts := [(0, partition0)]
    mem := { Mem.reset with tlb := [(0, 0, Config.pagePool / 65536, 63, [])] }
    seqs := [(0, f { Seq.reset with mode := .running, pc := 0x1000 })] }

/-- The sequencer as the reset leaves it, privileged. -/
def base : State := machine id

/-- Scalar registers with values. -/
def scalars (l : List (Reg × Word)) (m : Seq) : Seq := l.foldl (fun m x => m.setS x.1 x.2) m

/-- A sequencer in user mode. -/
def user (m : Seq) : Seq := { m with ctl := { m.ctl with status := 0 } }

/-- A sequencer with an open strip that has stored nothing. -/
def inStrip (m : Seq) : Seq :=
  { m with
    strip := some ⟨0xF00, ⟨m.regs, m.loops, m.grant, 0, ⟨0, 0, 0⟩, []⟩, [], []⟩
    ctl := { m.ctl with status := m.ctl.status ||| 0x80 } }

/-- The fp32 type of one register, to nearest even. -/
def fp32 : VType := ⟨.plain .fp32, 1, 0, 0, false, .ne, false⟩
def int32 : VType := ⟨.plain .i32, 1, 0, 0, false, .ne, false⟩

/-- A sequencer with a type, a grant of `n` elements, and vector registers. -/
def vectors (t : VType) (n : Word) (l : List (Reg × VReg)) (m : Seq) : Seq :=
  { m with
    vt := some t
    grant := ⟨n, 0, 0, 0, 0, 0, 0⟩
    vregs := l.foldl (fun v x => v.set x.1.val x.2 x.1.isLt) m.vregs }

/-- What `State.Ready` asks, as a computation. -/
def readyCheck (s : State) (i : Instr) (group : VType → Bool := noGroup) : Bool :=
  i.wf && !heldByToken s.me (instrInfo i) && !heldByChunks s.cmds s.cur (instrInfo i).masks &&
    (!needsPriv i || isPriv s.me.ctl.status) && !illegalInStrip s.me i && (!needsStrip i || s.me.strip.isSome) &&
    !loopEndBad s.me i &&
    (!isTransfer i || match s.due.checkSlots (slotLoops s.me i) with
      | .ok () => true
      | .error _ => false) &&
    (!instrTyped i || match s.me.vt with
      | some t => (instrInfo i).vregs.all (fun r => r % t.g == 0) && group t
      | none => false) &&
    (!s.me.ctl.chk.getLsbD 0 || !waitShort s.me (instrInfo i).srcs) &&
    s.me.issueAt s.clock (instrInfo i).srcs == max s.clock s.me.ready

theorem ready_of_check {s : State} {i : Instr} {group : VType → Bool} (h : readyCheck s i group = true) : s.Ready i group := by
  simp only [readyCheck, Bool.and_eq_true, Bool.or_eq_true, Bool.not_eq_true'] at h
  obtain ⟨⟨⟨⟨⟨⟨⟨⟨⟨⟨h1, h2⟩, h3⟩, h4⟩, h5⟩, h6⟩, h7⟩, h8⟩, h9⟩, h10⟩, h11⟩ := h
  refine ⟨h1, h2, h3, fun p => ?_, h5, fun p => ?_, h7, fun p => ?_, fun p => ?_, fun p => ?_, by simpa using h11⟩
  · simpa [p] using h4
  · simpa [p] using h6
  · rcases h8 with h8 | h8
    · simp [p] at h8
    · split at h8
      · assumption
      · cases h8
  · rcases h9 with h9 | h9
    · simp [p] at h9
    · cases ht : s.me.vt with
      | none => simp [ht] at h9
      | some t =>
        simp only [ht, Bool.and_eq_true, List.all_eq_true, beq_iff_eq] at h9
        exact ⟨t, rfl, h9.1, h9.2⟩
  · rcases h10 with h10 | h10
    · rw [p] at h10; cases h10
    · exact h10

theorem all_ready {s : State} {l : List Instr} (h : (l.all fun i => readyCheck s i) = true) : ∀ i ∈ l, s.Ready i :=
  fun i hi => ready_of_check (List.all_eq_true.mp h i hi)

/-- The next state, when there is one, has a property. -/
def leaves (o : Host.Outcome State Fault Refusal) (p : State → Bool) : Bool :=
  match o with
  | .next t => p t
  | .fault _ => false
  | .refused _ => false

/-- A computation that answers. -/
def isOk {α : Type} (e : Except Trap α) : Bool :=
  match e with
  | .ok _ => true
  | .error _ => false

theorem ok_of_check {α : Type} {e : Except Trap α} (h : isOk e = true) : ∃ v, e = .ok v := by
  cases e with
  | ok v => exact ⟨v, rfl⟩
  | error t => cases h

/-- Decoding answers an instruction and nothing behind it. -/
def isOk' (e : Except Reject (Instr × List Byte)) (i : Instr) : Bool :=
  match e with
  | .ok (j, []) => j == i
  | _ => false

/-! ### Words that are ready: the conditions of the scalar statements can be met -/

/-- The scalar words are ready in privileged mode outside a strip. -/
theorem test_ready_scalar : ∀ i ∈ [Instr.add ⟨0, 1, 2, 3⟩, .sub ⟨0, 1, 2, 3⟩, .and ⟨0, 1, 2, 3⟩, .or ⟨0, 1, 2, 3⟩,
    .xor ⟨0, 1, 2, 3⟩, .andn ⟨0, 1, 2, 3⟩, .sll ⟨0, 1, 2, 3⟩, .srl ⟨0, 1, 2, 3⟩, .sra ⟨0, 1, 2, 3⟩, .rol ⟨0, 1, 2, 3⟩,
    .slt ⟨0, 1, 2, 3⟩, .sltn ⟨0, 1, 2, 3⟩, .seq ⟨0, 1, 2, 3⟩, .min ⟨0, 1, 2, 3⟩, .max ⟨0, 1, 2, 3⟩, .minn ⟨0, 1, 2, 3⟩,
    .maxn ⟨0, 1, 2, 3⟩, .addw ⟨0, 1, 2, 3⟩, .subw ⟨0, 1, 2, 3⟩, .adds1 ⟨0, 1, 2, 3⟩, .adds2 ⟨0, 1, 2, 3⟩,
    .adds3 ⟨0, 0, 2, 3⟩, .slli ⟨0, 1, 2, 63⟩, .srli ⟨0, 1, 2, 63⟩, .srai ⟨0, 1, 2, 63⟩, .roli ⟨0, 1, 2, 0⟩,
    .lih ⟨0, 1, 262143⟩, .mul ⟨0, 1, 2, 3⟩, .mulh ⟨0, 1, 2, 3⟩, .mulhn ⟨0, 1, 2, 3⟩, .div ⟨0, 1, 2, 3⟩, .divn ⟨0, 1, 2, 3⟩,
    .rem ⟨0, 1, 2, 3⟩, .remn ⟨0, 1, 2, 3⟩, .clz ⟨0, 1, 2⟩, .ctz ⟨0, 1, 2⟩, .cpop ⟨0, 1, 2⟩, .bext ⟨0, 1, 2, 3⟩,
    .bins ⟨0, 1, 2, 3⟩, .addi ⟨0, 1, 2, 4096⟩, .andi ⟨0, 1, 2, 4095⟩, .ori ⟨0, 1, 2, 1⟩, .xori ⟨0, 0, 2, 1⟩],
    base.Ready i := all_ready (by decide)

/-- Both corners of division, with words that are ready. -/
theorem test_division_corners :
    let s := machine (scalars [(2, 0x8000000000000000), (3, 0xFFFFFFFFFFFFFFFF)])
    base.sreg 3 = 0 ∧ s.sreg 2 = 0x8000000000000000 ∧ s.sreg 3 = -1 ∧
      s.Ready (.div ⟨0, 1, 2, 3⟩) ∧ s.Ready (.rem ⟨0, 1, 2, 3⟩) :=
  ⟨by decide, by decide, by decide, ready_of_check (by decide), ready_of_check (by decide)⟩

theorem test_scalar_frame_met :
    scalarDest (.add ⟨0, 1, 2, 3⟩) = some 1 ∧
      ∃ t, exec (.add ⟨0, 1, 2, 3⟩) base = .next t ∧ t.me.trapSeq = base.me.trapSeq :=
  ⟨rfl, _, rfl, by decide⟩

/-- Scalar registers and the words of the loads, stores and atomics: s1 is an address in the mapped page. -/
def mapped : State := machine (scalars [(1, 0x2000), (4, 0x1122334455667788)])

theorem test_ready_memory : ∀ i ∈ [Instr.ldxb ⟨0, 2, 1, 0⟩, .ldxbn ⟨0, 2, 1, 0⟩, .ldxh ⟨0, 2, 1, 0⟩, .ldxhn ⟨0, 2, 1, 0⟩,
    .ldxw ⟨0, 2, 1, 0⟩, .ldxwn ⟨0, 2, 1, 0⟩, .ldxd ⟨0, 2, 1, 0⟩, .ldd ⟨0, 2, 1, 0⟩, .ldw ⟨0, 2, 1, 0⟩, .ldwn ⟨0, 2, 1, 0⟩,
    .stxb ⟨0, 4, 1, 0⟩, .stxh ⟨0, 4, 1, 0⟩, .stxw ⟨0, 4, 1, 0⟩, .stxd ⟨0, 4, 1, 0⟩, .std ⟨0, 1, 4, 0⟩, .stw ⟨0, 1, 4, 0⟩,
    .czero ⟨0, 1, 0⟩, .lr ⟨0, 2, 1⟩, .lrw ⟨0, 2, 1⟩, .sc ⟨0, 2, 1, 4⟩, .scw ⟨0, 2, 1, 4⟩, .pref ⟨0, 1, 0⟩, .cwb ⟨0, 1, 0⟩,
    .amoSwap ⟨0, 2, 1, 4, 0, false⟩, .amoAdd ⟨0, 2, 1, 4, 0, true⟩, .amoAnd ⟨0, 2, 1, 4, 1, false⟩,
    .amoOr ⟨0, 2, 1, 4, 2, false⟩, .amoXor ⟨0, 2, 1, 4, 3, false⟩, .amoMin ⟨0, 2, 1, 4, 0, false⟩,
    .amoMax ⟨0, 2, 1, 4, 0, true⟩, .amoMinn ⟨0, 2, 1, 4, 0, false⟩, .amoMaxn ⟨0, 2, 1, 4, 0, false⟩,
    .amoCas ⟨0, 2, 1, 4, 0, false⟩, .fence ⟨0, 4⟩, .fenceAcq ⟨0, 0⟩, .fenceRel ⟨0, 2⟩],
    mapped.Ready i := all_ready (by decide)

/-- The accesses of those words are allowed, find no marked byte and room in the buffer; so do they in an open strip. -/
theorem test_accesses_met : ∀ s ∈ [mapped, machine (scalars [(1, 0x2000)] ∘ inStrip)],
    s.sreg 1 = 0x2000 ∧ (∀ n ∈ [1, 2, 4, 8, 64],
      s.due.checkAccess s.due.ctx .load 0x2000 n = .ok (Config.pagePool + 0x2000) ∧
      s.due.checkAccess s.due.ctx .store 0x2000 n = .ok (Config.pagePool + 0x2000) ∧
      s.due.checkAccess s.due.ctx .both 0x2000 n = .ok (Config.pagePool + 0x2000) ∧
      s.due.viewBad (Config.pagePool + 0x2000) n = false) ∧
    s.due.bufferFull [] ((Config.pagePool + 0x2000) / 32) = false ∧
    s.due.bufferFull (bufNat [] 0x2000 (Config.pagePool + 0x2000) 32 0) ((Config.pagePool + 0x2000) / 32 + 1) = false ∧
    s.MemoryOk ∧ s.liveLine (Config.pagePool + 0x2000) = false := by
  intro s hs
  simp only [List.mem_cons, List.not_mem_nil, or_false] at hs
  rcases hs with rfl | rfl <;>
  · refine ⟨by decide, fun n hn => ?_, by decide, by decide, rfl, by decide⟩
    simp only [List.mem_cons, List.not_mem_nil, or_false] at hn
    rcases hn with rfl | rfl | rfl | rfl | rfl <;> exact ⟨rfl, rfl, rfl, by decide⟩

/-- The two address checks at their boundaries, with a word that is ready: 2^57, and the last misaligned address below. -/
theorem test_address_traps_met :
    let s := machine (scalars [(1, 0x200000000000000), (2, 0x1FFFFFFFFFFFFFF)])
    2 ^ 57 ≤ (s.sreg 1 + s.sreg 0).toNat ∧ s.Ready (.ldxd ⟨0, 3, 1, 0⟩) ∧
      (s.sreg 2 + s.sreg 0).toNat < 2 ^ 57 ∧ (s.sreg 2 + s.sreg 0).toNat % 8 ≠ 0 ∧ s.Ready (.stxd ⟨0, 3, 2, 0⟩) ∧
      s.Ready (.cwb ⟨0, 1, 0⟩) :=
  ⟨by decide, ready_of_check (by decide), by decide, by decide, ready_of_check (by decide), ready_of_check (by decide)⟩

/-! ### Control flow -/

theorem test_ready_control : ∀ i ∈ [Instr.beq ⟨0, 1, 2, 3⟩, .bne ⟨0, 1, 2, 3⟩, .blt ⟨0, 1, 2, 3⟩, .bge ⟨0, 1, 2, 8190⟩,
    .bltn ⟨0, 1, 2, 3⟩, .bgen ⟨0, 1, 2, 3⟩, .bgs ⟨0, 7, 3⟩, .bgsn ⟨0, 0, 3⟩, .jal ⟨0, 31, 262143⟩, .jalr ⟨0, 1, 2⟩,
    .rdpc ⟨0, 1⟩, .loop ⟨0, 1, 2⟩, .loopi ⟨0, 1023, 8191⟩, .lpop ⟨0⟩, .lbrk ⟨0⟩, .lcnt ⟨0, 1⟩, .ldep ⟨0, 1⟩,
    .mfc ⟨0, 1, 0x10⟩, .mtc ⟨0, 1, 2, 6⟩, .mcset ⟨0, 1, 2, 0⟩, .mcclr ⟨0, 0, 2, 0x24⟩, .trap ⟨0, 255⟩, .rft ⟨0⟩,
    .ifence ⟨0⟩, .pause ⟨0⟩, .sdrain ⟨0⟩, .halt ⟨0⟩], base.Ready i := all_ready (by decide)

/-- A loop stack with one level, and with all six. -/
def looping (n : Nat) (m : Seq) : Seq := { m with loops := ⟨Vector.replicate 6 ⟨0x1000, 0x1010, 2⟩, n⟩ }

/-- The clauses of the loop words: a zero count, a free level, a full stack, an empty one, a label of 1. -/
theorem test_loops_met :
    base.sreg 1 = 0 ∧ base.me.loops.depth < 6 ∧ (machine (looping 5)).me.loops.depth < 6 ∧
      6 ≤ (machine (looping 6)).me.loops.depth ∧ (1023 : BitVec 10).setWidth 64 ≠ (0 : Word) ∧
      (machine (looping 6)).Ready (.loopi ⟨0, 1023, 2⟩) ∧ (machine (looping 5)).Ready (.loopi ⟨0, 1023, 2⟩) ∧
      (1 : BitVec 13).toNat < 2 ∧ base.me.loops.depth = 0 ∧ (machine (looping 1)).Ready (.lpop ⟨0⟩) ∧
      (machine (looping 6)).Ready (.lbrk ⟨0⟩) :=
  ⟨by decide, by decide, by decide, by decide, by decide, ready_of_check (by decide), ready_of_check (by decide), by decide,
    by decide, ready_of_check (by decide), ready_of_check (by decide)⟩

/-- The clauses of the loop step: at a last word with a count above 1, with count 1, and elsewhere. -/
theorem test_loop_step_met :
    let s (k : Word) (p : VAddr) := machine fun m => { m with pc := p, loops := ⟨Vector.replicate 6 ⟨0x1000, 0x1010, k⟩, 1⟩ }
    (∀ k ∈ [(2 : Word), 1, 0], (s k 0x100C).me.pc = ((s k 0x100C).me.loops.top.stop - 4).setWidth 57 ∧
      (s k 0x100C).me.loops.top.count = k ∧ (s k 0x100C).me.delay = none) ∧
    (s 2 0x1008).me.pc ≠ ((s 2 0x1008).me.loops.top.stop - 4).setWidth 57 := by
  refine ⟨fun k hk => ?_, by decide⟩
  simp only [List.mem_cons, List.not_mem_nil, or_false] at hk
  rcases hk with rfl | rfl | rfl <;> exact ⟨rfl, rfl, rfl⟩

/-- A jump target that is good, one that is not aligned, one above the address space. -/
theorem test_targets_met :
    let s := machine (scalars [(1, 0x1FFFFFFFFFFFFFC), (2, 2), (3, 0x200000000000000)])
    ((s.sreg 1).toNat % 4 = 0 ∧ (s.sreg 1).toNat < 2 ^ 57) ∧ (s.sreg 2).toNat % 4 ≠ 0 ∧ 2 ^ 57 ≤ (s.sreg 3).toNat ∧
      s.Ready (.jalr ⟨0, 31, 1⟩) ∧ s.Ready (.jalr ⟨0, 31, 2⟩) ∧ s.Ready (.jalr ⟨0, 31, 3⟩) :=
  ⟨by decide, by decide, by decide, ready_of_check (by decide), ready_of_check (by decide), ready_of_check (by decide)⟩

/-- A branch has issued, and its first slot has run. -/
theorem test_slots_met :
    (machine fun m => { m with delay := some ⟨2, some 0x3000⟩ }).me.delay = some ⟨2, some 0x3000⟩ ∧
      (machine fun m => { m with delay := some ⟨1, some 0x3000⟩ }).me.delay = some ⟨1, some 0x3000⟩ := by decide

/-- The first causes of a word: not well formed, in user mode, in a strip, outside one. -/
theorem test_refusals_met :
    (Instr.wid ⟨0, 1, 8⟩).wf = false ∧ (encodeWord (Instr.wid ⟨0, 1, 8⟩)).isSome = true ∧
      (needsPriv (.rft ⟨0⟩) = true ∧ (machine user).me.ctl.status.getLsbD 0 = false) ∧
      heldByToken base.me (instrInfo (.rft ⟨0⟩)) = false ∧ heldByChunks base.cmds base.cur (instrInfo (.rft ⟨0⟩)).masks = false ∧
      illegalInStrip (machine inStrip).me (.rft ⟨0⟩) = true ∧ illegalInStrip base.me (.vst ⟨0, 1, 2, 0⟩) = false ∧
      needsStrip (.vst ⟨0, 1, 2, 0⟩) = true ∧ base.me.strip = none := by decide

/-- The clauses of the control registers: a held level and one above, writes of LDEPTH with 6 and with 7. -/
theorem test_control_registers_met :
    base.me.ctl.lsel.toNat < 6 ∧ 6 ≤ (machine fun m => { m with ctl := { m.ctl with lsel := 6 } }).me.ctl.lsel.toNat ∧
      (6 : Word).toNat % 8 < 7 ∧ (7 : Word).toNat % 8 = 7 ∧ (3 : Word).toNat % 4 = 3 := by decide

/-- Trap entry in and outside a strip, in a delay slot, and in the entry window of another trap; a return with words to run. -/
theorem test_traps_met :
    base.me.window = false ∧ (machine inStrip).me.strip.isSome = true ∧
      (machine fun m => { m with window := true }).me.window = true ∧
      (machine fun m => { m with ctl := { m.ctl with target := 0x3002 } }).Ready (.rft ⟨0⟩) ∧
      (machine fun m => { m with ctl := { m.ctl with target := 0x3002 } }).me.ctl.target.toNat % 4 ≠ 0 ∧
      base.me.ctl.target.toNat % 4 = 0 :=
  ⟨by decide, by decide, by decide, ready_of_check (by decide), by decide, by decide⟩

/-- A word can be fetched, and a word outside every mapped page cannot. -/
theorem test_fetch_met :
    base.fetchWord = .ok 0 ∧ ∃ e, (machine fun m => { m with pc := 0x1000000 }).fetchWord = .error e :=
  ⟨by decide, _, rfl⟩

/-! ### Vector words -/

/-- What `State.VecReady` asks, as a computation. -/
def vecCheck (s : State) (i : Instr) (c : Machine.Class) (m : Mask3) (t : VType) (group : VType → Bool := noGroup) : Bool :=
  readyCheck s i group && s.me.vt == some t && c.has t &&
    match s.maskCheck m with
    | .ok () => true
    | .error _ => false

theorem vec_ready {s : State} {i : Instr} {c : Machine.Class} {m : Mask3} {t : VType} {group : VType → Bool}
    (h : vecCheck s i c m t group = true) : s.VecReady i c m t group := by
  simp only [vecCheck, Bool.and_eq_true, beq_iff_eq] at h
  refine ⟨ready_of_check h.1.1.1, h.1.1.2, h.1.2, ?_⟩
  have h2 := h.2
  split at h2
  · assumption
  · cases h2

theorem all_vec_ready {s : State} {l : List (Instr × Machine.Class × Mask3)} {t : VType}
    (h : (l.all fun x => vecCheck s x.1 x.2.1 x.2.2 t) = true) : ∀ x ∈ l, s.VecReady x.1 x.2.1 x.2.2 t :=
  fun x hx => vec_ready (List.all_eq_true.mp h x hx)

theorem clean_of_check {x : Src} {n : Nat} (h : ((List.range n).all fun k => !x.marked k) = true) : x.Clean n := by
  intro k hk
  simpa using List.all_eq_true.mp h k (List.mem_range.mpr hk)

theorem decodes_of_check {x : Src} {mask : Option (BitVec 4096)} {n : Nat} (h : ((List.range n).all fun k =>
    match x.val k with
    | .ok _ => true
    | .error _ => false) = true) : x.Decodes mask n := by
  intro k hk _
  have h1 := List.all_eq_true.mp h k (List.mem_range.mpr hk)
  split at h1
  · exact ⟨_, by assumption⟩
  · cases h1

/-- 1.0 and 2.5 in v1, 3.0 and -1.0 in v2, a full grant of two elements, and mask 1 with element 1 active. -/
def floats : State := machine fun m => { vectors fp32 2
  [(1, ⟨0x402000003F800000, 2, 64, []⟩), (2, ⟨0xBF80000040400000, 2, 64, []⟩)] m with
    masks := m.masks.set 1 2 }

/-- 5 and -7 in v1, 3 and 2 in v2. -/
def ints : State := machine (vectors int32 2 [(1, ⟨0xFFFFFFF900000005, 2, 64, []⟩), (2, ⟨0x0000000200000003, 2, 64, []⟩)])

theorem test_ready_floats : ∀ x ∈ ([(.vadd ⟨0, 3, 1, 2, 1⟩, .arith, 1), (.vsub ⟨0, 3, 1, 2, 0⟩, .arith, 0),
    (.vmul ⟨0, 3, 1, 2, 0⟩, .arith, 0), (.vdiv ⟨0, 3, 1, 2, 0⟩, .arith, 0), (.vmin ⟨0, 3, 1, 2, 0⟩, .arith, 0),
    (.vmax ⟨0, 3, 1, 2, 0⟩, .arith, 0), (.vabsd ⟨0, 3, 1, 2, 0⟩, .arith, 0), (.vadds ⟨0, 3, 1, 2, 0⟩, .arith, 0),
    (.vmuls ⟨0, 3, 1, 2, 0⟩, .arith, 0), (.vfma ⟨0, 3, 1, 2, 0⟩, .arith, 0), (.vfms ⟨0, 3, 1, 2, 0⟩, .arith, 0),
    (.vfnma ⟨0, 3, 1, 2, 0⟩, .arith, 0), (.vneg ⟨0, 3, 1, 0⟩, .arith, 0), (.vabs ⟨0, 3, 1, 0⟩, .arith, 0),
    (.vsqrt ⟨0, 3, 1, 0⟩, .float, 0), (.vbcast ⟨0, 3, 1, 0⟩, .movable, 0), (.vid ⟨0, 3, 0⟩, .arith, 0),
    (.vceq ⟨0, 3, 1, 2, 1⟩, .arith, 1), (.vcne ⟨0, 3, 1, 2, 0⟩, .arith, 0), (.vclt ⟨0, 7, 1, 2, 0⟩, .arith, 0),
    (.vcle ⟨0, 0, 1, 2, 0⟩, .arith, 0), (.vcnan ⟨0, 3, 1, 2, 0⟩, .float, 0), (.vmov ⟨0, 3, 1, 1⟩, .movable, 1),
    (.vcomp ⟨0, 3, 1, 1⟩, .movable, 1), (.vsel ⟨0, 3, 1, 2, 1⟩, .movable, 1), (.vslup ⟨0, 3, 1, 2, 0⟩, .movable, 0),
    (.vsldn ⟨0, 3, 1, 2, 0⟩, .movable, 0), (.vperm ⟨0, 3, 1, 2, 0⟩, .movable, 0), (.vcvt ⟨0, 3, 1, 2, 0⟩, .movable, 0),
    (.vtsum ⟨0, 4, 1, 2, 0⟩, .fp32, 0), (.vtprod ⟨0, 4, 1, 2, 0⟩, .fp32, 0), (.vredo ⟨0, 3, 1, 2, 0⟩, .arith, 0),
    (.vredt ⟨0, 3, 1, 2, 0⟩, .arith, 0), (.vredmin ⟨0, 3, 1, 2, 0⟩, .arith, 0), (.vredmax ⟨0, 3, 1, 2, 1⟩, .arith, 1),
    (.vscano ⟨0, 3, 1, 2, 0⟩, .arith, 0), (.vscanf ⟨0, 3, 1, 2, 0⟩, .arith, 0), (.tacc ⟨0, 7, 1, 0⟩, .movable, 0),
    (.tfill ⟨0, 255, 1, 0⟩, .movable, 0), (.tdrain ⟨0, 7, 1, 0⟩, .movable, 0)] :
      List (Instr × Machine.Class × Mask3)), floats.VecReady x.1 x.2.1 x.2.2 fp32 := all_vec_ready (by decide)

theorem test_ready_ints : ∀ x ∈ ([(.vand ⟨0, 3, 1, 2, 0⟩, .integer, 0), (.vor ⟨0, 3, 1, 2, 0⟩, .integer, 0),
    (.vxor ⟨0, 3, 1, 2, 0⟩, .integer, 0), (.vsll ⟨0, 3, 1, 2, 0⟩, .integer, 0), (.vsrl ⟨0, 3, 1, 2, 0⟩, .integer, 0),
    (.vsra ⟨0, 3, 1, 2, 0⟩, .integer, 0), (.vadd ⟨0, 3, 1, 2, 0⟩, .arith, 0), (.vredo ⟨0, 3, 1, 2, 0⟩, .arith, 0)] :
      List (Instr × Machine.Class × Mask3)), ints.VecReady x.1 x.2.1 x.2.2 int32 := all_vec_ready (by decide)

/-- The sources of those words can be read, and a fold begins with element 0 of v2. -/
theorem test_sources_met : ∀ x ∈ [(floats, fp32), (ints, int32)],
    x.1.due.Readable x.2 0 ([1, 2].map (fun r => x.1.due.srcOf (x.1.due.layout x.2) x.2.g r)) ∧
      (∃ v gb, x.1.due.foldInit x.2 2 = .ok (v, gb)) ∧ x.1.me.ctl.det.getLsbD 0 = false := by
  intro x hx
  simp only [List.mem_cons, List.not_mem_nil, or_false] at hx
  rcases hx with rfl | rfl <;>
  · refine ⟨fun y hy => ?_, ⟨_, _, rfl⟩, by decide⟩
    simp only [List.map_cons, List.map_nil, List.mem_cons, List.not_mem_nil, or_false] at hy
    rcases hy with rfl | rfl <;> exact ⟨clean_of_check (by decide +kernel), decodes_of_check (by decide +kernel)⟩

/-- The element loop runs to its end, and traps. -/
theorem test_element_loop_met :
    elemLoop 2 [2] none (fun _ x => Formed.put (x + 1)) 0 = .ok (2, 0, 2) ∧
      elemLoop 2 [2] none (fun n x => if n = 1 then Formed.trap (Trap.plain Cause.malformed) else .put x) 0 =
        .error (Trap.plain Cause.malformed) := ⟨rfl, rfl⟩

theorem test_integer_elements_met :
    let s := ints.due
    let srcs := [s.srcOf (.plain .i32) 1 1, s.srcOf (.plain .i32) 1 2]
    int32.fam = .plain .i32 ∧ Fmt.i32.isInt = true ∧ (∀ x ∈ srcs, x.lay = .plain .i32) ∧
      ∃ x, s.mapRun int32 0 srcs (fun _ => bin (· + ·) noNum) = .ok x :=
  ⟨rfl, rfl, by decide, ok_of_check (by decide +kernel)⟩

theorem test_plain_moves_met :
    let s := floats.due
    let x := s.srcOf (.plain .fp32) 1 1
    x.lay = .plain .fp32 ∧ (∃ o, elemLoop 2 [2] none (s.moveElem fp32 none x) Out.zero = .ok (2, 0, o)) ∧
      (∃ o ga, elemLoop 2 [3] none (s.copyElem fp32 x none (fun n => if n < 1 then none else some (n - 1))) (Out.zero, 0) =
        .ok (2, 3, o, ga)) ∧
      ∃ o ga, elemLoop 2 [1] none (s.copyElem fp32 x none (fun n => some (n + 1))) (Out.zero, 0) = .ok (1, 2, o, ga) :=
  ⟨rfl, ⟨_, rfl⟩, ⟨_, _, rfl⟩, _, _, rfl⟩

/-- Block words: v8 to v15 hold two fp32 elements, v1 one block of 16 elements. -/
def blocks : State := machine (vectors ⟨.plain .eb, 1, 0, 0, false, .ne, false⟩ 2
  [(8, ⟨0x402000003F800000, 2, 64, []⟩), (1, ⟨0x7F, 16, 80, []⟩)])

theorem test_blocks_met :
    let t : VType := ⟨.plain .eb, 1, 0, 0, false, .ne, false⟩
    blocks.VecReady (.vqnt ⟨0, 3, 8⟩) .block 0 t (wideOk 8) ∧ blocks.VecReady (.vdqnt ⟨0, 16, 1⟩) .block 0 t (wideOk 16) ∧
      (blocks.due.srcOf (.plain .fp32) 8 8).Clean 2 ∧ (blocks.due.srcOf (.plain .eb) 1 1).marks = [] :=
  ⟨vec_ready (by decide), vec_ready (by decide), clean_of_check (by decide), by decide⟩

/-- Unordered folds with DET set. -/
theorem test_unordered_met :
    let s := machine fun m => { vectors fp32 2 [] m with ctl := { m.ctl with det := 1 } }
    s.me.ctl.det.getLsbD 0 = true ∧ s.Ready (.vredt ⟨0, 3, 1, 2, 0⟩) ∧ s.Ready (.vscanf ⟨0, 3, 1, 2, 0⟩) ∧
      s.Ready (.scaddU ⟨0, 2, 1, 4⟩) (scaddGroup ⟨0, 2, 1, 4⟩) :=
  ⟨by decide, ready_of_check (by decide), ready_of_check (by decide), ready_of_check (by decide)⟩

/-- The mask words where another mask than their operands is marked. -/
theorem test_ready_masks :
    let s : State := floats.setMe { floats.me with mmarks := [4096 * 6 + 5, 4096 * 7 + 2] }
    s.me.MaskSound 1 ∧ s.me.MaskSound 2 ∧ s.me.MaskSound 3 ∧ (∀ k, k < 2 → 4096 * (7 : Reg).val + k ∉ s.me.mmarks) ∧
      s.grantLen s.typeOr = 2 ∧
    ∀ i ∈ [Instr.mand ⟨0, 1, 2, 3⟩, .mor ⟨0, 1, 2, 3⟩, .mxor ⟨0, 7, 1, 1⟩, .mandn ⟨0, 0, 2, 3⟩, .mnot ⟨0, 1, 2⟩, .mlen ⟨0, 7, 31⟩,
      .mpop ⟨0, 31, 7⟩, .mfirst ⟨0, 1, 1⟩], s.Ready i := by
  have sound : ∀ (k : Reg) (n : Nat), k.val < 4 → n < 4096 → 4096 * k.val + n ∉ [4096 * 6 + 5, 4096 * 7 + 2] := by
    intro k n hk hn h
    simp only [List.mem_cons, List.not_mem_nil, or_false] at h
    omega
  exact ⟨fun n => sound 1 n (by decide), fun n => sound 2 n (by decide), fun n => sound 3 n (by decide), by decide, by decide +kernel,
    all_ready (by decide)⟩

/-! ### Vector memory words -/

/-- s1 is an address in the mapped page, s2 a distance of 8 bytes; v1 holds two elements, v2 two byte offsets. -/
def vmem (f : Seq → Seq) : State := machine (f ∘ scalars [(1, 0x2000), (2, 8), (3, 0x10000)] ∘ vectors fp32 2
  [(1, ⟨0x402000003F800000, 2, 64, []⟩), (2, ⟨0x0000000400000010, 2, 64, []⟩)])

theorem test_ready_loads : ∀ i ∈ [Instr.vld ⟨0, 3, 1, 0⟩, .vldo ⟨0, 3, 1, 0⟩, .vldb ⟨0, 3, 1, 0⟩, .vlds ⟨0, 3, 1, 2, 0⟩,
    .vldso ⟨0, 3, 1, 2, 0⟩, .vldx ⟨0, 3, 1, 2, 0⟩, .vldxo ⟨0, 3, 1, 2, 0⟩], (vmem id).Ready i := all_ready (by decide)

theorem test_ready_stores : ∀ i ∈ [Instr.vst ⟨0, 1, 1, 0⟩, .vsto ⟨0, 1, 1, 0⟩, .vstc ⟨0, 1, 1, 0⟩, .vsts ⟨0, 1, 1, 2, 0⟩,
    .vstso ⟨0, 1, 1, 2, 0⟩, .vstx ⟨0, 1, 1, 2, 0⟩, .vstxo ⟨0, 1, 1, 2, 0⟩], (vmem inStrip).Ready i := all_ready (by decide)

/-- What `Loadable` asks, as a computation. -/
def loadCheck (s : State) (fm : Form) (a : Word) (f : Fmt) (whole : Bool) (m : Option (BitVec 4096)) (n : Nat) : Bool :=
  (List.range n).all fun k => !activeAt m k || (isOk (fm.check k) &&
    match s.checkAccess s.ctx .load (fm.elemAddr a f m k).toNat (f.width / 8) with
    | .ok loc => !s.elemBad fm f whole loc k
    | .error _ => false)

theorem loadable_of_check {s : State} {fm : Form} {a : Word} {f : Fmt} {whole : Bool} {m : Option (BitVec 4096)} {n : Nat}
    (h : loadCheck s fm a f whole m n = true) : s.Loadable fm a f whole m n := by
  intro k hk ha
  have h1 := List.all_eq_true.mp h k (List.mem_range.mpr hk)
  simp only [ha, Bool.not_true, Bool.false_or, Bool.and_eq_true] at h1
  obtain ⟨h1, h2⟩ := h1
  refine ⟨(ok_of_check h1).choose_spec, ?_⟩
  split at h2
  · exact ⟨_, by assumption, by simpa using h2⟩
  · cases h2

/-- What `Storable` asks, as a computation. -/
def storeCheck (s : State) (fm : Form) (a : Word) (x : Src) (f : Fmt) (m : Option (BitVec 4096)) (n : Nat) : Bool :=
  (List.range n).all fun k => !activeAt m k || (isOk (fm.check k) &&
    match s.checkAccess s.ctx .store (fm.elemAddr a f m k).toNat (f.width / 8) with
    | .ok loc => !s.bufferFull (s.stored fm a x f m k) (loc / 32) && !x.marked k
    | .error _ => false)

theorem storable_of_check {s : State} {fm : Form} {a : Word} {x : Src} {f : Fmt} {m : Option (BitVec 4096)} {n : Nat}
    (h : storeCheck s fm a x f m n = true) : s.Storable fm a x f m n := by
  intro k hk ha
  have h1 := List.all_eq_true.mp h k (List.mem_range.mpr hk)
  simp only [ha, Bool.not_true, Bool.false_or, Bool.and_eq_true] at h1
  obtain ⟨h1, h2⟩ := h1
  refine ⟨(ok_of_check h1).choose_spec, ?_⟩
  split at h2
  · simp only [Bool.and_eq_true, Bool.not_eq_true'] at h2
    exact ⟨_, by assumption, h2.1, h2.2⟩
  · cases h2

/-- Both elements of each form can be loaded and stored. -/
theorem test_forms_met : ∀ fm ∈ [Form.stride 4, .once, .packed, .stride 8, .index ((vmem id).due.indexSrc fp32 2)],
    (vmem id).due.Loadable fm 0x2000 .fp32 (fm.bySector 4 none) none 2 ∧
      ((vmem id).due.inOrder fm 0x2000 4 none 2).Loadable fm 0x2000 .fp32 false none 2 ∧
      (vmem inStrip).due.Storable fm 0x2000 ((vmem inStrip).due.srcOf (.plain .fp32) 1 1) .fp32 none 2 := by
  intro fm hf
  simp only [List.mem_cons, List.not_mem_nil, or_false] at hf
  rcases hf with rfl | rfl | rfl | rfl | rfl <;>
    exact ⟨loadable_of_check (by decide +kernel), loadable_of_check (by decide +kernel), storable_of_check (by decide +kernel)⟩

theorem test_block_memory_met :
    let t : VType := ⟨.plain .eb, 1, 0, 0, false, .ne, false⟩
    let s (f : Seq → Seq) := machine (f ∘ scalars [(1, 0x2000)] ∘ vectors t 16 [(1, ⟨0x7F, 16, 80, []⟩)])
    (s id).Ready (.vld ⟨0, 3, 1, 0⟩) ∧ (s inStrip).Ready (.vst ⟨0, 1, 1, 0⟩) ∧
      (∃ o, (s id).due.loadBlocks 0x2000 0 Out.zero (blocksFor 16) = .ok o) ∧
      ∃ b, (s inStrip).due.storeBlocks 0x2000 ((s inStrip).due.srcOf (.plain .eb) 1 1) 0 [] (blocksFor 16) = .ok b :=
  ⟨ready_of_check (by decide), ready_of_check (by decide), ok_of_check (by decide +kernel), ok_of_check (by decide +kernel)⟩

/-- The highest element that stores a byte, a byte that none stores, a commit and a strip that ends. -/
theorem test_stored_bytes_met :
    let s := vmem inStrip
    let at_ (k loc c : Nat) : Prop := k < 2 ∧ activeAt none k = true ∧
      s.checkAccess s.ctx .store ((Form.once).elemAddr 0x2000 .fp32 none k).toNat 4 = .ok loc ∧ loc ≤ c ∧ c < loc + 4
    at_ 1 (Config.pagePool + 0x2000) (Config.pagePool + 0x2003) ∧ s.MemoryOk ∧
      (∃ st, s.me.strip = some st) ∧ (bufNat [] 0x2000 (Config.pagePool + 0x2000) 4 7).Pairwise (fun x y => x.1 < y.1) :=
  ⟨⟨by decide, rfl, rfl, by decide, by decide⟩, rfl, ⟨_, rfl⟩, by decide⟩

/-! ### Streams, strips and set-up -/

/-- Integer codes of one register with a budget of 8,192 bits; v1 holds two codes of class 0. -/
def codes (f : Seq → Seq) : State := machine (f ∘ scalars [(1, 0x10000), (2, 2), (3, 0x1000000000000000)] ∘
  vectors ⟨.pzi, 1, 128, 0, false, .ne, false⟩ 2 [(1, ⟨0b010010, 2, 6, []⟩), (2, ⟨0, 0, 0, []⟩)])

theorem test_ready_streams : (∀ i ∈ [Instr.zld ⟨0, 3, 1, 2⟩, .zskip ⟨0, 5, 1, 2⟩, .zfind ⟨0, 3, 1⟩, .zld ⟨0, 3, 3, 2⟩],
    (codes id).Ready i) ∧ ∀ i ∈ [Instr.zst ⟨0, 1, 1⟩, .zst ⟨0, 2, 1⟩, .zst ⟨0, 1, 3⟩], (codes inStrip).Ready i :=
  ⟨all_ready (by decide), all_ready (by decide)⟩

/-- Addresses on both sides of the bound, codes that can be read, a store that may be made, an empty group. -/
theorem test_streams_met :
    let k : Coding := ⟨false, 0, 0, #v[2, 4, 6, 8, 12, 16, 24, 64]⟩
    let s := (codes id).due
    let u := (codes inStrip).due
    s.layout ⟨.pzi, 1, 128, 0, false, .ne, false⟩ = .code k ∧ (s.sreg 1).toNat < 2 ^ 60 ∧ (s.sreg 3).toNat = 2 ^ 60 ∧
      (∀ j ∈ [0, 1], s.streamPrefix (s.streamPos k 0x10000 j) 7 = .ok 0 ∧
        s.streamCheck (s.streamPos k 0x10000 j) (codeLen k 0) = .ok () ∧
        decodeCode k s.streamBit (s.streamPos k 0x10000 j) ≠ .malformed) ∧
      fillLen u.me 2 = 0 ∧ 0 < fillLen u.me 1 ∧ u.zstCheck 0x10000 0x2000 (0x2000 / 32) [] 1 = .ok () ∧
      (s.srcOf (.code k) 1 1).Clean 2 := by
  refine ⟨rfl, by decide, by decide, fun j hj => ?_, by decide, by decide, rfl, clean_of_check (by decide)⟩
  simp only [List.mem_cons, List.not_mem_nil, or_false] at hj
  rcases hj with rfl | rfl <;> exact ⟨rfl, rfl, by decide⟩

/-- The machine with its upper's reset state changed. -/
def withUpper (f : Upper → Upper) (s : State) : State := { s with uppers := [(0, f Upper.reset)] }

/-- A strip may open; a pre-emption is pending; a class-table swap holds it; the type is invalid. -/
theorem test_strips_met :
    let asked := withUpper (fun u => { u with preempt := some (.timeSlice, 0) }) floats
    let swapping := withUpper (fun u => { u with swapWait := some (1, false, 0) }) floats
    (floats.Ready (.strip ⟨0, 1, 2, 3⟩) ∧ floats.due.commitStrip.stopPending = false ∧ floats.due.commitStrip.swapHolds = false) ∧
      (asked.Ready (.strip ⟨0, 1, 2, 3⟩) ∧ asked.due.commitStrip.stopPending = true) ∧
      (swapping.Ready (.strip ⟨0, 1, 2, 3⟩) ∧ swapping.due.commitStrip.stopPending = false ∧
        swapping.due.commitStrip.swapHolds = true) ∧
      (base.Ready (.strip ⟨0, 1, 2, 3⟩) ∧ base.me.vt = none) ∧
      (vmem inStrip).Ready (.sclose ⟨0⟩) ∧ (vmem inStrip).Ready (.scloseRel ⟨0⟩) ∧ asked.Ready (.sclose ⟨0⟩) :=
  ⟨⟨ready_of_check (by decide), by decide, by decide⟩, ⟨ready_of_check (by decide), by decide⟩,
    ⟨ready_of_check (by decide), by decide, by decide⟩, ⟨ready_of_check (by decide), rfl⟩, ready_of_check (by decide),
    ready_of_check (by decide), ready_of_check (by decide)⟩

/-- Valid and invalid type images; a well-formed table, and one that is too large. -/
theorem test_setup_met :
    (∀ i ∈ [Instr.vtype ⟨0, 1, 2⟩, .zctw ⟨0, 3, 2⟩, .mfg ⟨0, 1, 0, 7⟩, .mfg ⟨0, 1, 31, 9⟩, .zcswap ⟨0⟩], base.Ready i) ∧
      (vtOfImage 0x24).isSome = true ∧ vtOfImage 0x8000000000000000 = none ∧ wellFormedTable (widthsOf 0) 3 = true ∧
      wellFormedTable (widthsOf 0) 1 = false ∧ (2 ^ 56 : Nat) ≤ (0x100000000000000 : Word).toNat ∧
      (base.upperAt 0).swapWait = none ∧ base.swapReady 0 = true ∧ (base.swapTables 0).olderHeld 0 = false :=
  ⟨all_ready (by decide), by decide, by decide, by decide, by decide, by decide, rfl, by decide, by decide⟩

/-- The two events of a swap: it can take effect, and the old generation has drained. -/
theorem test_swap_events_met :
    let s (b : Bool) := withUpper (fun u => { u with swapWait := some (1, b, 3) }) base
    ((s false).upperAt 0).swapWait = some (1, false, 3) ∧ (s false).swapReady 0 = true ∧
      ((s true).upperAt 0).swapWait = some (1, true, 3) ∧ (s true).olderHeld 0 = false := by decide

/-! ### Truss words -/

def bf16 : VType := ⟨.plain .bf16, 1, 0, 0, false, .ne, false⟩

/-- 1.0 and 2.0 in v1, s1 an address, s2 a row count of 2, s3 one of 256, a best register that names row 1. -/
def truss (f : Seq → Seq) : State := machine (f ∘ scalars [(1, 0x2000), (2, 2), (3, 256), (4, 0x2004)] ∘
  fun m => { vectors bf16 2 [(1, ⟨0x40003F80, 2, 32, []⟩)] m with truss := { m.truss with tb := some (1, 0) } })

theorem test_ready_truss : (∀ i ∈ [Instr.tmac ⟨0, 255, 1, 3, 0⟩, .tdist ⟨0, 0, 1, 0, 0⟩, .tld ⟨0, 1, 2⟩, .tld ⟨0, 4, 0⟩,
      .tzero ⟨0, 254, 2⟩, .tcdiv ⟨0, 0, 3⟩, .tcget ⟨0, 9, 5⟩, .tzero ⟨0, 1, 3⟩, .tmode ⟨0, 2, 0⟩, .tmodr ⟨0, 1⟩, .tmodc ⟨0, 1⟩,
      .tbest ⟨0, 1, 2⟩, .tcnt ⟨0, 1, 3⟩], (truss id).Ready i) ∧
    (truss id).VecReady (.tcupd ⟨0, 254, 1, 0⟩) .movable 0 bf16 ∧ trussShape bf16 = some (64, 128) :=
  ⟨all_ready (by decide), vec_ready (by decide), by decide⟩

/-- Rows and slots that can be read: a free journal, an untagged slot, one of another format, a tile, rows beyond 255. -/
theorem test_truss_met :
    let s := (truss id).due
    let full := truss (fun m => { m with strip := some ⟨0, ⟨m.regs, m.loops, m.grant, 0, ⟨0, 0, 0⟩, []⟩, [],
      (List.range 64).map fun r => (r, Row.zero)⟩ })
    s.journalRows [255] = .ok s ∧ (s.slotAt 3).tag = none ∧ (s.slotAt 3).marks = [] ∧ (s.rowAt 255).marks = [] ∧
      (s.srcOf (.plain .bf16) 1 1).marks = [] ∧
      ({ s with soles := [(0, { Sole.reset with slots := Vector.replicate 4 ⟨some .eb, 0, []⟩ })] }.slotAt 3).tag = some .eb ∧
      (s.sreg 1).toNat % 32 = 0 ∧ (∃ l, s.tileCheck (s.sreg 1) 0 4 = .ok l) ∧
      (∃ v, s.tileRead (s.sreg 1) 0 [Config.pagePool + 0x2000] = .ok v) ∧ (s.sreg 4).toNat % 32 ≠ 0 ∧
      (s.srcOf (.plain .bf16) 1 1).Clean 2 ∧ 254 + (s.sreg 2).toNat ≤ 256 ∧ 256 < 1 + (s.sreg 3).toNat ∧
      ((full.me.strip.map (fun x => x.journal.length)) = some 64 ∧
        (full.me.strip.bind (fun x => SMap.find x.journal 64)) = none ∧
        (full.me.strip.bind (fun x => SMap.find x.journal 63)).isSome = true) :=
  ⟨rfl, rfl, rfl, rfl, rfl, rfl, by decide, ⟨_, rfl⟩, ok_of_check (by decide +kernel), by decide,
    clean_of_check (by decide +kernel), by decide, by decide, by decide, by decide, by decide⟩

theorem test_truss_modes_met :
    let legal (x c : Word) : Prop :=
      x.toNat % 4 < 2 ∧ x.toNat / 16 % 16 = 0 ∧ x.toNat / 2 ^ 40 = 0 ∧ c.toNat / 2 ^ 32 = 0
    legal 1 0xFFFFFFFF ∧ ¬ legal 2 0 ∧ (truss id).me.truss.tb = some (1, 0) ∧ base.me.truss.tb = none := by decide

theorem test_vector_frames_met :
    vectorDest floats (.vmov ⟨0, 3, 1, 0⟩) = some (3, 1) ∧ trussRows (truss id) (.tzero ⟨0, 254, 2⟩) = some [254, 255] ∧
      leaves (exec (.vmov ⟨0, 3, 1, 0⟩) floats) (fun t => t.me.trapSeq == floats.me.trapSeq) = true ∧
      leaves (exec (.tzero ⟨0, 254, 2⟩) (truss id)) (fun t => t.me.trapSeq == (truss id).me.trapSeq) = true :=
  ⟨by decide, by decide +kernel, by decide +kernel, by decide +kernel⟩

/-! ### Patterns and channels -/

/-- Put numbers of a length at addresses of the mapped page. -/
def filled (l : List (Nat × Nat × Nat)) (s : State) : State :=
  { s with mem := { s.mem with cells := l.foldl (fun c x => cellsPut c (Config.pagePool + x.1) x.2.1 x.2.2) s.mem.cells } }

/-- A record that runs; `coro` for a coroutine. -/
def recordOf (coro : Bool) : Rec := ⟨0x1000, 0, 0, 0, 0, 0, 0, none, coro, none, 0⟩

/-- A header of number n on a host port, or on the management port, and an ordinary launch of widths 16. -/
def header (mgmt : Bool) (n : Word) : Hdr := ⟨mgmt, 1, 9, n, 0, 0, 0, 1, true, 64⟩

def launch0 : Launch := ⟨0, false, 1, [16], 1, 0, 0, 0, 0, [], [], [], [], false, none, header false 0⟩

/-- A pattern table at 0x4000 whose entry 0 is a function at 0x3000 with a bad entry 1 behind it; the partition has a frame
pool and queue slots. -/
def patterned (f : Seq → Seq) : State :=
  let s := filled [(0x4000, 8, 1), (0x4008, 8, 0x3000)]
    (machine (f ∘ fun m => { m with ctl := { m.ctl with ptab := 0x4000 } }))
  { s with
    parts := [(0, { partition0 with pool := (0x8000, 0x8000), slotsPerUpper := 4 })]
    launches := [(0, launch0)] }

/-- s1 is 0x3000, s2 the entry number 2, s3 a route of 3. -/
theorem test_constructions_met :
    let s := patterned (scalars [(1, 0x3000), (2, 2), (3, 0x3002)])
    (∀ i ∈ [Instr.cfun ⟨0, 2, 1, 0⟩, .ccor ⟨0, 2, 1, 0⟩, .cseq ⟨0, 2, 2, 2⟩, .cpar ⟨0, 2, 2, 2⟩, .cpipe ⟨0, 2, 2, 2⟩,
      .cfarm ⟨0, 2, 2, 2⟩, .cloop ⟨0, 3, 2, 2⟩], s.Ready i) ∧
    operandsOk .fn 0x3000 0 0 = true ∧ operandsOk .sq 2 2 0 = true ∧ operandsOk .farm 2 65536 0 = true ∧
      operandsOk .pipe 2 0 0x00080001 = true ∧ (s.sreg 3).toNat / 4096 % 16 = 3 ∧
      s.due.checkAccess s.due.ctx .store 0x4080 1 = .ok (Config.pagePool + 0x4080) :=
  ⟨all_ready (by decide), by decide, by decide, by decide, by decide, by decide, rfl⟩

/-- The ways of `capply`: a nest that fits, a bad entry, a pool that is too small, a table that cannot be read. -/
def surveyed (s : State) (root : Nat) : Option (Nat × Bool) :=
  let v := s.due.commitStrip
  let q := v.issuer root 0
  match v.survey q.walk 16 root q.depth 0 with
  | .ok sums => match v.reserve q sums with
    | .ok _ => some (0, true)
    | .error r => some (r, true)
  | .error (.node r _) => some (r, false)
  | .error (.fault _) => none

theorem test_applies_met :
    (∀ i ∈ [Instr.capply ⟨0, 1, 2, 3⟩, .cret ⟨0, 1, 2⟩, .wid ⟨0, 1, 6⟩, .wid ⟨0, 1, 0⟩], (patterned id).Ready i) ∧
    surveyed (patterned id) 0 = some (0, true) ∧ surveyed (patterned id) 1 = some (1, false) ∧
      surveyed (filled [(0x4000, 8, 1), (0x4008, 8, 0x3000)]
        (machine fun m => { m with ctl := { m.ctl with ptab := 0x4000 } })) 0 = some (6, true) ∧
      surveyed (patterned fun m => { m with ctl := { m.ctl with ptab := 0x1000000 } }) 0 = none ∧
      (patterned id).endWaits 0 = false ∧
      (machine fun m => { m with work := some (recordOf false), pend := [(1, .nest 3)] }).endWaits 0 = true :=
  ⟨all_ready (by decide), by decide +kernel, by decide +kernel, by decide +kernel, by decide +kernel, by decide, by decide⟩

/-- A channel with two slots of 8 bytes in the local window at offset 0, with `n` elements in it, open or closed. -/
def channel (coro : Bool) (n closed : Nat) : State :=
  let s := machine (scalars [(1, BitVec.ofNat 64 Config.localWindow), (2, 0x2000)] ∘
    fun m => { m with work := some (recordOf coro) })
  { s with
    mem := { s.mem with cells := cellsPut [] Config.padBase 24 (n * 2 ^ 64 + (2 + 8 * 65536 + closed * 2 ^ 32) * 2 ^ 128) }
    soles := [(0, { Sole.reset with live := [0] })] }

theorem test_channels_met :
    (∀ n ∈ [0, 1, 2], ∀ c ∈ [0, 1],
      (channel true n c).chanLive Config.padBase = true ∧ (channel true n c).chHeld Config.padBase = n ∧
      (channel true n c).chDepth Config.padBase = 2 ∧ (channel true n c).chClosed Config.padBase = (c == 1)) ∧
    (∀ i ∈ [Instr.chput ⟨0, 3, 1, 2⟩, .chput ⟨0, 3, 1, 0⟩, .chget ⟨0, 3, 1, 2⟩, .cyield ⟨0, 3, 1, 0⟩],
      (channel true 1 0).Ready i) ∧
    (channel true 1 0).due.chputCheck (BitVec.ofNat 64 Config.localWindow) 0x2000 = .ok Config.padBase ∧
      (channel true 1 0).due.chgetCheck (BitVec.ofNat 64 Config.localWindow) 0x2000 = .ok Config.padBase ∧
      { channel true 1 0 with soles := [] }.due.chputCheck (BitVec.ofNat 64 Config.localWindow) 0x2000 = .ok Config.padBase ∧
      { channel true 1 0 with soles := [] }.chanLive Config.padBase = false ∧
      (channel true 1 0).elemWhole .load 0x2000 1 = .ok () ∧ (channel true 1 0).elemWhole .store 0x2000 1 = .ok () ∧
      (channel true 1 0).anyMarked (Config.padBase + 64) 8 = false :=
  ⟨by decide, all_ready (by decide), rfl, rfl, rfl, by decide, rfl, rfl, by decide⟩

/-- `cyield`: no coroutine, a condition that holds, one that does not, none named, and a nest still pending. -/
theorem test_yields_met :
    (channel false 1 0).me.work.map (·.coro) ≠ some true ∧
      (channel true 1 0).due.cyieldCheck (BitVec.ofNat 64 Config.localWindow) 1 = .ok (recordOf true, some Config.padBase) ∧
      (channel true 1 0).due.cyieldCheck 0 0 = .ok (recordOf true, none) ∧
      (channel true 1 0).unsettled 0 = false ∧ (channel true 1 0).condHolds Config.padBase 1 = true ∧
      (channel true 0 0).condHolds Config.padBase 1 = false ∧
      (machine fun m => { m with work := some (recordOf true), pend := [(1, .nest 3)] }).unsettled 0 = true :=
  ⟨by decide, rfl, rfl, by decide, by decide, by decide, by decide⟩

/-! ### Barriers, scatter rounds -/

/-- A barrier at 0x2000 that expects two arrivals, has one, and is in phase 5. -/
def barrier (f : Seq → Seq) : State :=
  filled [(0x2000, 8, 5 + 2 * 65536 + 2 ^ 32)] (machine (f ∘ scalars [(1, 0x2000), (2, 5), (3, 0x10000), (4, 6)]))

theorem test_barriers_met :
    let b := (barrier id).barAt (Config.pagePool + 0x2000)
    (∀ i ∈ [Instr.barv ⟨0, 3, 1, 2⟩, .bara ⟨0, 3, 1, 2⟩, .barw ⟨0, 3, 1, 2⟩], (barrier id).Ready i) ∧
    (barrier id).due.checkAccess (barrier id).due.ctx .both 0x2000 16 = .ok (Config.pagePool + 0x2000) ∧
    b.bad = false ∧ b.phase = 5 ∧ phaseDiff 4 5 < 0 ∧ phaseDiff 5 5 = 0 ∧ phaseDiff 6 5 = 1 ∧ 2 ≤ phaseDiff 7 5 ∧
      b.arrived < b.expected ∧ ({ b with arrived := 2 } : BarObj).arrived = b.expected ∧ b.early < b.expected ∧
      (barrier id).viewBad (Config.pagePool + 0x2000) 16 = false ∧ b.reached 5 = true ∧ b.reached 6 = false ∧
      2 ^ 16 ≤ ((barrier id).sreg 3).toNat ∧ ((barrier id).sreg 2).toNat < 2 ^ 16 ∧
      leaves (match b.arrive 5 0 with
        | .ok _ => .next base
        | .error _ => .fault (.noSequencer 0)) (fun _ => true) = true :=
  ⟨all_ready (by decide), rfl, by decide +kernel, by decide +kernel, by decide, by decide, by decide, by decide, by decide +kernel,
    by decide +kernel, by decide +kernel, by decide, by decide +kernel, by decide +kernel, by decide, by decide,
    by decide +kernel⟩

/-- A sequencer that waits on it for the phase it has and for the next, with a deadline that has passed, with a later one and
without one; the same on a poisoned object, on one that has no count, and at an address with no page. -/
theorem test_barrier_waits_met :
    let w (va target : Nat) (t : Option Nat) : BarWait := ⟨⟨0, 3, 1, 2⟩, va, target, t⟩
    let waiting (x : BarWait) : State := barrier fun m => { m with mode := .barw x }
    (∀ t ∈ [none, some 0, some 5], ((waiting (w 0x2000 6 t)).seqAt 0).mode = .barw (w 0x2000 6 t)) ∧
      leaves (execBarwTimeout 0 (waiting (w 0x2000 6 (some 0)))) (fun t => t.me.mode == .running) = true ∧
      leaves (execBarwTimeout 0 (waiting (w 0x2000 6 (some 5)))) (fun t => t.me.mode == .barw (w 0x2000 6 (some 5))) = true ∧
      (match (waiting (w 0x2000 5 none)).barwLook 0 (w 0x2000 5 none) with
        | some (.ok o) => o.reached 5 && !o.reached 6 && o == (barrier id).barAt (Config.pagePool + 0x2000)
        | _ => false) = true ∧
      leaves (execBarwPhaseReached 0 (waiting (w 0x800000 5 none))) (fun t => t.me.ctl.cause.setWidth 16 == 0x0103#16) = true ∧
      leaves (execBarwPhaseReached 0 ((waiting (w 0x2000 5 none)).markSector ((Config.pagePool + 0x2000) / 32))) (fun t => t.me.ctl.cause.setWidth 16 == 0x0107#16) = true ∧
      (barrier fun m => { m with mode := .running }).me.mode ≠ .barw (w 0x2000 5 none) := by decide +kernel

/-- A round descriptor at 0x2000 with an overflow area; v1 two values, v2 two distances of 8 and 12 bytes from 0x3000. -/
def scatter (held det : Bool) : State :=
  let s := filled [(0x2000, 8, 0), (0x2008, 8, 0x8000), (0x2010, 8, 4096)] (machine fun m =>
    { scalars [(1, 0x2000), (2, 2), (3, 0x3000)] (vectors fp32 2
        [(1, ⟨0x402000003F800000, 2, 64, []⟩), (2, ⟨0x0000000C00000008, 2, 64, []⟩)] m) with
      held := if held then some (Config.pagePool + 0x2000) else none
      ctl := { m.ctl with det := if det then 1 else 0 } })
  { s with rounds := if held then [(Config.pagePool + 0x2000, ⟨s.ctx, 0, 0x2000, .fp32, 2, 1, 0, false, 0x8000, 4096, 0, false, [], []⟩)] else [] }

theorem test_rounds_met :
    let loc := Config.pagePool + 0x2000
    ((scatter false false).Ready (.scopen ⟨0, 1, 2⟩) ∧ (scatter false false).due.scopenCheck 0x2000 2 = .ok (loc, .fp32) ∧
      isOk ((scatter false false).due.commitStrip.joinRound loc .fp32 0x2000 2) = true) ∧
    (∀ d ∈ [true, false], (scatter d false).Ready (.scaddO ⟨0, 1, 3, 2⟩) (scaddGroup ⟨0, 1, 3, 2⟩) ∧
      (scatter d false).Ready (.scaddU ⟨0, 1, 3, 2⟩) (scaddGroup ⟨0, 1, 3, 2⟩)) ∧
    isOk ((scatter true false).due.scaddCheck true ⟨0, 1, 3, 2⟩) = true ∧
      isOk ((scatter false false).due.scaddCheck false ⟨0, 1, 3, 2⟩) = true ∧
      (scatter false true).me.ctl.det.getLsbD 0 = true ∧
      (scatter true false).Ready (.scflush ⟨0, 4, 1⟩) ∧ (scatter true false).due.scflushCheck 0x2000 = .ok loc ∧
      (scatter true false).flying loc (scatter true false).mySerial = false ∧
      { scatter true false with flights := [⟨some loc, 0, .fp32, 0, 0, 0, 0, 0, (scatter true false).mySerial⟩] }.flying loc
        (scatter true false).mySerial = true := by
  refine ⟨⟨ready_of_check (by decide), rfl, by decide +kernel⟩, fun d hd => ?_, by decide +kernel, by decide +kernel, by decide,
    ready_of_check (by decide), rfl, by decide, by decide⟩
  simp only [List.mem_cons, List.not_mem_nil, or_false] at hd
  rcases hd with rfl | rfl <;> exact ⟨ready_of_check (by decide), ready_of_check (by decide)⟩

/-- An update of a round on its way to an empty combining unit and to a full one, an unordered addition, and a round that is to
close; the round's next run fits its area, or does not. -/
theorem test_round_events_met :
    let x (n : Nat) : Update := ⟨some 5, 0, .fp32, 0x3000, 7, 0, BitVec.ofNat 64 n, 1, 0⟩
    let a : Update := ⟨none, 0, .fp32, 0x3000, 7, 0, 0, 1, 0⟩
    let r (size : Nat) (failed : Bool) : Round := ⟨⟨0, true, 0, 1, none⟩, 0, 0x2000, .fp32, 2, 2, 2, true, 0x8000, size, 0, failed, [], []⟩
    let full := (List.range 16).map x
    let s (r : Round) : State := { base with flights := [x 16, a], holds := [(sliceOf 7, full)], rounds := [(5, r)] }
    (s (r 4096 false)).flights[0]? = some (x 16) ∧ (s (r 4096 false)).flights[1]? = some a ∧ base.flights[0]? = none ∧
      full.length = 16 ∧ roundsIn full = [5] ∧ (s (r 4096 false)).spillHeld 5 = false ∧
      (s (r 4096 false)).spillStall 5 (ofRound full 5).length = none ∧
      isOk (match (s (r 4096 false)).spillSectors (r 4096 false).ctx 0x8000 17 with
        | .ok t => .ok t
        | .error (e, va) => .error (e.trap 0 va)) = true ∧
      leaves (execScaddUpdateArrival 1 (s (r 4096 false))) (fun t => t.flights == [x 16]) = true ∧
      (r 512 true).failed = true ∧ (∀ y, y ∈ [a] → y.round ≠ some 5) ∧ (x 0).before (x 0) = true := by decide +kernel

theorem test_full_buffer_met (l : List Update) : SMap.find [(sliceOf 7, l)] (sliceOf 7) = some l ∧
    ((SMap.find base.holds (sliceOf 7)).getD []).length < 16 := ⟨by simp [SMap.find], by decide⟩

/-- A round's area that waits for a saved core, and one that does not. -/
theorem test_spill_held_met :
    let r (va : Nat) : Round := ⟨⟨0, true, 0, 1, none⟩, 0, 0x2000, .fp32, 2, 2, 2, true, va, 4096, 0, false, [], []⟩
    let x : Saved := ⟨0, 0, .ordinary, [Seq.reset], Tables.reset, Tables.reset, 0, 0, .timeSlice, 1, 0, none⟩
    let s (va : Nat) : State := { base with saves := [(0, x)], rounds := [(5, r va)] }
    x.core = true ∧ (s Config.globalWindow).spillHeld 5 = true ∧ (s 0x8000).spillHeld 5 = false := by decide +kernel

/-! ### Engine commands -/

/-- Command blocks: a copy of 64 bytes at 0x2000, a fill at 0x2020, an expansion of integer codes to i8 at 0x2040, an empty
copy at 0x2060, a collective's plan at 0x2080, a grid object at 0x2100. -/
def commands (f : Seq → Seq) : State :=
  let s := filled [(0x2000, 32, 0x3000 + 0x5000 * 2 ^ 64 + 64 * 2 ^ 128), (0x2020, 32, 0x3000 + 7 * 2 ^ 64 + 64 * 2 ^ 128),
      (0x2040, 32, 0x3000 + 0x28000 * 2 ^ 64 + (64 + 2 ^ 40) * 2 ^ 128), (0x2060, 32, 0x3000 + 0x5000 * 2 ^ 64),
      (0x2080, 64, (9 * 16) + 16 * 2 ^ 64 + 0x5000 * 2 ^ 128 + 0x3000 * 2 ^ 192), (0x2100, 64, 0x100010001 * 2 ^ 64)]
    (machine (f ∘ scalars [(1, 0x2000), (2, 0x2020), (3, 0x2040), (4, 0x2060), (5, 0x2080), (6, 0x2100),
      (7, 0x100010001), (8, BitVec.ofNat 64 Config.localWindow)]))
  { s with
    parts := [(0, { partition0 with groups := [⟨0, 1, 1, 1, [(0, 0)]⟩] })] }

theorem test_commands_met :
    let s := (commands id).due
    (∀ i ∈ [Instr.xcopy ⟨0, 9, 1, 0, 1⟩, .xfill ⟨0, 9, 2, 0, 0⟩, .xcopyz ⟨0, 9, 3, 0, 7⟩, .xcoll ⟨0, 9, 5, 0, 0⟩, .xnote ⟨0, 9, 7⟩,
      .xgrid ⟨0, 9, 6, 7⟩, .xquery ⟨0, 9, 6, 8⟩], (commands id).Ready i) ∧
    isOk (s.copyCheck .copy 0x2000 0 1) = true ∧ isOk (s.copyCheck .fill 0x2020 0 0) = true ∧
      isOk (s.copyCheck .expand 0x2040 0 7) = true ∧ isOk (s.collCheck 0x2080 0 0) = true ∧ s.gridCheck 0x2100 = .ok () ∧
      dimsOk 0x100010001 = true ∧ s.answerOk (BitVec.ofNat 64 Config.localWindow) = true ∧ s.commitStrip.cmdWaits 1 = false ∧
      (match s.copyCheck .copy 0x2060 0 0 with
        | .ok c => c.len == 0
        | .error _ => false) = true :=
  ⟨all_ready (by decide), by decide +kernel, by decide +kernel, by decide +kernel, by decide +kernel, rfl, by decide,
    by decide, by decide, by decide +kernel⟩

/-- A command of sequencer 0 that nothing has done yet. -/
def command (k : CmdKind) (dst len bar : Nat) : Command :=
  ⟨0, k, dst, len, bar, 1, ⟨0, true, 0, 1, none⟩, false, 0, 0, 0, 0, 0, none, [], [], [], false, []⟩

/-- Sixteen outstanding commands make a seventeenth wait. -/
theorem test_full_met :
    { base with cmds := (List.range 16).map fun k => (k, command (.note 0) 0 0 0) }.cmdWaits 0 = true := by decide

/-- Command 1 outstanding, and s9 waiting for it. -/
def outstanding (c : Command) : State :=
  { commands (fun m => { m with pend := [(9, .cmd 1)] }) with cmds := [(1, c)] }

/-- Chunks and their ends: one that moves, one that cannot, one that stalls; every chunk done. -/
theorem test_chunks_met :
    let c := command (.copy 0x5000) 0x3000 64 0
    let far := command (.copy 0x5000) 0x1000000 64 0
    SMap.find (outstanding c).cmds 1 = some c ∧ SMap.find (outstanding c).cmds 2 = none ∧ c.kind.moves = true ∧
      0 < chunkCount c.len ∧ c.chunks.contains 0 = false ∧ ((outstanding c).chunkWork c 0).stop = none ∧
      ((outstanding far).chunkWork far 0).stop ≠ none ∧ ((outstanding far).failing far).isSome = true ∧
      (outstanding c).failing c = none ∧ { c with chunks := [0] }.chunks.length = chunkCount c.len ∧
      SMap.find ((outstanding c).seqAt 0).pend 9 = some (.cmd 1) ∧ (outstanding c).cmds.Rising :=
  ⟨rfl, rfl, rfl, by decide, by decide, by decide +kernel, by decide +kernel, by decide +kernel, by decide +kernel, by decide,
    by decide, List.pairwise_singleton _ _⟩

/-- A page of a partition's range that no table maps yet: the service can map it. -/
theorem test_stall_met :
    let s : State := { base with parts := [(0, { partition0 with maps := [⟨0x1000000, 65536, 0, 0, 63, false⟩] })] }
    let c := command (.fill 7) 0x1000000 64 0
    (match (s.chunkWork c 0).stop with
      | some (.stall part va) => decide (part < 16) && s.canMap part va
      | _ => false) = true := by decide +kernel

/-- A sector to move, and a barrier to deliver to. -/
theorem test_moves_met :
    let s := filled [(0x2200, 8, 5 + 2 * 65536)] (commands id)
    let c := command (.copy 0x5000) 0x3000 64 0x2200
    s.MemoryOk ∧ s.resolve c.ctx .store (c.dst + 32 * 1) = .ok (Config.pagePool + 0x3020) ∧ (Config.pagePool + 0x3020) % 32 = 0 ∧
      s.resolve c.ctx .load (0x5000 + 32 * 1) = .ok (Config.pagePool + 0x5020) ∧ SMap.find c.held 1 = none ∧
      s.liveLine (Config.pagePool + 0x3020) = false ∧
      s.resolve c.ctx .both c.bar = .ok (Config.pagePool + 0x2200) ∧ (Config.pagePool + 0x2200) % 16 = 0 ∧
      s.liveLine ((Config.pagePool + 0x2200) / 32 * 32) = false ∧ s.poisoned (Config.pagePool + 0x2200) = false ∧
      (s.barAt (Config.pagePool + 0x2200)).bad = false :=
  ⟨by unfold State.MemoryOk; decide +kernel, rfl, by decide, rfl, rfl, by decide, rfl, by decide, by decide, by decide,
    by decide +kernel⟩

/-- Grid commands and notes: a good object with an index left, one that is used up, one that is no grid, an older note. -/
theorem test_grids_met :
    let s := outstanding (command (.query 0x2100 (Config.localWindow)) 0 0 0)
    let c := command (.query 0x2100 Config.localWindow) 0 0 0
    let note := command (.note 3) 0 0 0
    (∃ x, s.gridAt c 0x2100 = .ok x) ∧ (∃ a, s.resolve c.ctx .hw Config.localWindow = .ok a) ∧
      (∃ a, s.resolve c.ctx .both 0x2100 = .ok a) ∧
      gridOk (0x100010001 * 2 ^ 64) = true ∧ 0 < gridTotal 0x100010001 ∧ gridTotal 0x100010001 ≤ 1 ∧ gridOk 0 = false ∧
      { s with cmds := [(1, note), (2, note)] }.olderNote 2 note = true ∧
      { s with cmds := [(1, note), (2, note)] }.olderNote 1 note = false :=
  ⟨⟨_, rfl⟩, ⟨_, rfl⟩, ⟨_, rfl⟩, by decide, by decide, by decide, by decide, by decide, by decide⟩

/-! ### Collectives and ports -/

/-- A one-rank plan of group 0, and one whose compression differs. -/
def plan (comp : Bool) : Plan := ⟨0, 9, comp, false, 16, 0x5000, 0x3000, 0, 0, 0, 0, 0⟩

/-- The one-rank plan on a group of `n1` domains, a port of role 1 with a key, and its source where it says. -/
def collective (n1 src : Nat) : State :=
  let s := outstanding (command (.coll { plan false with src := src }) 0x3000 64 0)
  { s with
    parts := [(0, { partition0 with groups := [⟨0, 1, n1, 1, [(0, 0)]⟩] })]
    dev := { s.dev with ports := [(2, ⟨1, some 0, [7], 3⟩)] } }

/-- The collective there, as the device holds it. -/
def collX (n1 src : Nat) : Coll := (collective n1 src).collHere 0 { plan false with src := src } ⟨0, 1, n1, 1, [(0, 0)]⟩

/-- What a collective finds: its group, members that agree or do not, the ports it needs or none; a lone rank's result is there after one
advance, that of two domains is not, and a source that no page holds fails. -/
theorem test_collectives_met :
    let g (n1 : Nat) : GroupBody := ⟨0, 1, n1, 1, [(0, 0)]⟩
    let l := (collective 1 0x5000).members 0 (plan false)
    let after (n1 src : Nat) (k : State → Bool) (bad : Bool) : Bool := match (collective n1 src).advance (collX n1 src) with
      | .ok t => k t
      | .error _ => bad
    SMap.find (collective 1 0x5000).cmds 1 = some (command (.coll (plan false)) 0x3000 64 0) ∧
      (collective 1 0x5000).groupOf 0 0 = some (g 1) ∧ base.groupOf 0 0 = none ∧
      mismatched (plan false) (g 1) l (collX 1 0x5000).fs = false ∧ mismatched (plan true) (g 1) l [] = true ∧
      (∀ n ∈ [1, 2], 1 ≤ (collX n 0x5000).mine.length ∧ ((collX n 0x5000).local 0).isSome = true ∧
        (collective n 0x5000).reaches (collX n 0x5000) 0 2 = true ∧
        (collX n 0x5000).mine.all (fun m => !(collective n 0x5000).collHeld m) = true) ∧
      (commands id).reaches (collX 2 0x5000) 0 2 = false ∧
      after 1 0x5000 (fun t => ((collX 1 0x5000).now t).result.isSome) false = true ∧
      after 2 0x5000 (fun t => ((collX 2 0x5000).now t).result.isNone) false = true ∧
      after 2 0x1000000 (fun _ => false) true = true := by decide +kernel

/-- A leader that forms its contribution, and the results of all-gather and of broadcast. -/
theorem test_contributions_met :
    let x := collX 2 0x5000
    let y : Coll := { x with
      plan := { plan false with op := 2 }
      g := ⟨0, 1, 1, 1, [(0, 0)]⟩
      mine := x.mine.map fun m => (m.1, { m.2.1 with formed := [(0, [(5, false)]), (3, [])] }, m.2.2) }
    (x.local 0).isSome = true ∧ x.own 0 1 = none ∧ x.own 0 2 = none ∧ x.dests 0 2 ≠ [] ∧ x.d = 0 ∧ x.c = 0 ∧
      (match x.local 0 with
        | some m => (match (collective 2 0x5000).contribute m 2 (foldVectors [[]]) with
          | .ok _ => true
          | .error _ => false)
        | none => false) = true ∧
      y.told = true ∧ y.hears = true ∧ y.g.n1 = 1 ∧ y.g.n2 = 1 ∧ y.d = 0 ∧ y.c = 0 ∧ y.own 0 0 = some [(5, false)] := by decide +kernel

/-- Frames that a port takes and those that it does not: one that its role does not carry, a frame it has, none authentic. -/
theorem test_ports_met :
    let p : Port := ⟨1, some 0, [7], 3⟩
    let s : State := { base with dev := { base.dev with ports := [(2, p)] } }
    let f (ok : Bool) (level : Nat) : Frame := ⟨ok, 0, 0, 0, 0, level, 0, 9, 16, false, false, 0, (1, 2, 1), [(0, 0)], [], []⟩
    SMap.find s.dev.ports 2 = some p ∧ SMap.find s.dev.ports 3 = none ∧ (f true 1).authentic = true ∧ (f false 1).authentic = false ∧
      levelFits 1 p.role = true ∧ levelFits 0 p.role = true ∧ levelFits 2 p.role = true ∧ levelFits 1 2 = false ∧ levelFits 1 0 = false ∧ p.key ≠ none ∧
      p.next = [7] ∧ s.dev.running = .up ∧ s.dev.frames.any (fun _ => true) = false ∧
      leaves (execFabricFrameReceive 2 (f true 1) s) (fun t => t.dev.frames == [f true 1]) = true ∧
      leaves (execFabricFrameReceive 2 (f false 2) s) (fun t => t.dev.frames.isEmpty) = true := by decide +kernel

/-! ### Queues and cores -/

/-- A fresh record and a saved one wait; sequencer 1 is idle. -/
def queued (saved : Option Seq) (age : Nat) : State :=
  { base with queue := [⟨recordOf false, 0, 2, age, age, false, saved, none, none⟩] }

theorem test_queues_met : ∀ m ∈ [none, some Seq.reset],
    ((queued m 0).seqAt 1).mode = .idle ∧ ((queued m 0).seqAt 0).mode ≠ .idle ∧
      (queued m 0).ageAll.popChoice 0 = some ⟨recordOf false, 0, 2, 0, 0, false, m, none, none⟩ ∧ base.ageAll.popChoice 0 = none ∧
      (queued m 0).popOrdinary 0 (queued m 0).queue 3 = some ⟨recordOf false, 0, 2, 0, 0, false, m, none, none⟩ ∧
      (queued m 0).ageAll.rival 1 ⟨recordOf false, 0, 2, 0, 0, false, m, none, none⟩ = none ∧
      (queued m 0).ageAll.rival 2 ⟨recordOf false, 0, 2, 0, 0, false, m, none, none⟩ = some 1 ∧
      (∀ e ∈ (queued m 0).queue, e.entered ≤ (queued m 0).clock) ∧
      (recordOf false).resume = none ∧ (recordOf false).code.toNat < 2 ^ 57 ∧ (recordOf false).code.toNat % 4 = 0 := by
  intro m hm
  simp only [List.mem_cons, List.not_mem_nil, or_false] at hm
  rcases hm with rfl | rfl <;>
    exact ⟨by decide, by decide, by decide +kernel, by decide +kernel, by decide +kernel, by decide +kernel, by decide +kernel,
      by decide, rfl, by decide, by decide⟩

/-- A core with another tenant's records, before and after its quantum; requests, and a core that stands still. -/
theorem test_cores_met :
    let det : Launch := { launch0 with det := true, grid := 4, remap := [0, 0, 0, 0] }
    let s : State := { base with
      launches := [(0, det)], queue := [⟨recordOf false, 0, 2, 0, 0, false, none, none, none⟩], clock := Config.clocks100us }
    let still (why : Purpose) := { withUpper (fun u => { u with preempt := some (why, 0) }) base with
      seqs := [(0, { Seq.reset with mode := .stopped 0, work := some (recordOf false) })], clock := Config.clocks100us }
    s.coreAt 0 = some (0, ⟨0, 1, 0⟩) ∧ (s.ageAll.nextTenant 0 0 1).isSome = true ∧ base.ageAll.nextTenant 0 0 1 = none ∧
      (s.upperAt 0).since + Config.clocks100us ≤ s.clock ∧ (base.upperAt 0).preempt = none ∧
      (∀ why ∈ [Purpose.rebinding, .hostCancel, .recordCancel, .resize], ((still why).upperAt 0).preempt = some (why, 0) ∧
        (still why).allStill 0 = true) ∧ base.allStill 0 = false ∧
      (still .rebinding).clock = 0 + Config.clocks100us ∧ 0 ∈ seqsOf 0 ∧ (still .rebinding).savedCore 0 = false ∧
      ((still .rebinding).keepContext 0 ⟨0, 1, 0⟩ .rebinding).1.isSome = true ∧
      (({ still .rebinding with nextPage := Config.service } : State).keepContext 0 ⟨0, 1, 0⟩ .rebinding).1 = none ∧
      (still .timeSlice).switchReady 0 0 1 = true ∧ base.swapping 0 = false ∧
      (withUpper (fun u => { u with swapWait := some (0, true, 0) }) base).swapping 0 = true :=
  ⟨rfl, by decide, by decide, by decide, rfl, by decide, by decide, rfl, by decide, by decide, by decide +kernel, by decide +kernel,
    by decide, by decide, by decide⟩

/-- A saved core that can be restored. -/
theorem test_restore_met :
    let x : Saved := ⟨0, 0, .ordinary, [{ Seq.reset with work := some (recordOf false) }], Tables.reset, Tables.reset, 0, 0,
      .hostCancel, 1, 5, some 0x100000⟩
    let s : State := { base with seqs := [], saves := [(3, x)] }
    SMap.find s.saves 3 = some x ∧ s.saves.Rising ∧ x.core = true ∧ (x.purpose == .rebinding && s.dev.rebinding) = false ∧
      s.allIdle 0 = true ∧ s.savedCore 0 = true ∧ x.seqs[0]? = some { Seq.reset with work := some (recordOf false) } :=
  ⟨rfl, List.pairwise_singleton _ _, by decide, by decide, by decide, by decide, rfl⟩

/-- A halted record and one in double fault, with nothing pending and with a nest pending. -/
theorem test_record_ends_met : ∀ b ∈ [Machine.Mode.halted, .doubleFault],
    ((machine fun m => { m with mode := b, work := some (recordOf false) }).seqAt 0).mode = b ∧
      (machine fun m => { m with mode := b, work := some (recordOf false) }).endWaits 0 = false ∧
      (machine fun m => { m with mode := b, work := some (recordOf false), pend := [(1, .nest 3)] }).endWaits 0 = true ∧
      (recordOf false).node = none ∧ (recordOf false).join = 0 := by decide

/-! ### Requests -/

/-- A device with partition 0, key slot 5, and a session of endpoint 1 on each port whose next number is 3. -/
def serving : State :=
  { base with dev := { base.dev with
      keys := [(5, ⟨0, 0, 0⟩)]
      sessions := [⟨false, 1, 9, 3, [], [(2, ⟨false, 1, 0x60, 0, 9, 2, 0, 0, []⟩)], none⟩, ⟨true, 1, 9, 3, [], [], none⟩] } }

theorem test_in_turn_met : serving.InTurn (header false 3) ⟨false, 1, 9, 3, [], [(2, ⟨false, 1, 0x60, 0, 9, 2, 0, 0, []⟩)], none⟩ false ∧
    serving.InTurn (header true 3) ⟨true, 1, 9, 3, [], [], none⟩ true :=
  ⟨⟨rfl, rfl, fun _ => ⟨by decide, rfl⟩, by decide, rfl, rfl, rfl⟩, rfl, rfl, nofun, by decide, rfl, rfl, rfl⟩

/-- Numbers before, at and after the next; a kept reply; no session; a request that opens one. -/
theorem test_sessions_met :
    let x : Session := ⟨false, 1, 9, 3, [], [(2, ⟨false, 1, 0x60, 0, 9, 2, 0, 0, []⟩)], none⟩
    requestOf (.readTrapLog (header false 3) 0 1) = some (header false 3, .readTrapLog 0 1) ∧
      serving.session (header false 2) = some x ∧ (header false 2).seq.toNat < x.next ∧
      x.kept.find? (fun k => k.1 == 2) = some (2, ⟨false, 1, 0x60, 0, 9, 2, 0, 0, []⟩) ∧ x.kept.find? (fun k => k.1 == 1) = none ∧
      x.next < (header false 4).seq.toNat ∧ (64 : Nat) ≤ (List.replicate 64 0).length ∧ x.held.length < 64 ∧
      base.session (header false 0) = none ∧ (base.dev.sessions.filter (fun y => y.mgmt == false)).length < 256 ∧
      { x with gapSince := some 0 }.gapSince = some 0 ∧ 0 + Config.clocks10s ≤ 22500000000 ∧
      ({ serving with dev := { serving.dev with running := .off } } : State).receives (header true 3) = false ∧
      serving.receives (header false 3) = true ∧ serving.receives { header false 3 with port := 16 } = false ∧
      headerStatus { header false 0 with len := 0 } .openSession = none ∧
      headerStatus { header false 0 with version := 2 } .openSession = some 2 ∧
      headerStatus { header false 0 with zeros := false } .openSession = some 3 ∧ bodyLimit < 2 ^ 20 + 1 ∧
      base.sessions (header false 0) = true ∧ serving.closes { header false 3 with len := 0 } = true ∧
      serving.closes { header false 3 with version := 2 } = false ∧
      ({ serving with dev := { serving.dev with running := .fatal } } : State).sessions (header false 3) = false :=
  ⟨rfl, rfl, by decide, by decide, by decide, by decide, by decide, by decide, rfl, by decide, rfl, by decide, by decide,
    by decide, by decide, by decide, by decide, by decide, by decide, by decide, by decide, by decide, by decide⟩

/-- What the requests of the host port ask of the state. -/
theorem test_host_requests_met :
    let p := partition0
    let b : MapBody := ⟨0x10000, 65536, 0, true, true, false, true, 5, some [1, 2]⟩
    SMap.find serving.parts 0 = some p ∧ serving.parts.Rising ∧ (∀ y, y ∈ serving.launches → y.2.part ≠ 0) ∧
      serving.dev.keys.Rising ∧ SMap.find serving.dev.keys 7 = none ∧ SMap.find serving.dev.keys 5 = some ⟨0, 0, 0⟩ ∧
      p.usesKey 5 = false ∧ serving.resident 0 = false ∧ serving.roleBusy 0 = false ∧
      (0x1FFFFFFFFFFFFC0 : Word).toNat < 2 ^ 57 ∧ mapOk b p serving.dev.keys 0 = true ∧
      serving.groupBusy 0 0 = false ∧ serving.MemoryOk ∧
      (∃ loc, serving.resolve (serviceCtx 0) .hw 0x2000 = .ok loc) ∧ (∃ loc, serving.resolve (serviceCtx 0) .store 0x2000 = .ok loc) :=
  ⟨rfl, List.pairwise_singleton _ _, by simp [serving, base, machine, State.reset], List.pairwise_singleton _ _, rfl, rfl, rfl, rfl, rfl, by decide,
    by decide +kernel, rfl, rfl, ⟨_, rfl⟩, _, rfl⟩

/-- A partition can be created of core 1, and core 1 joins partition 0; a mapped range is found; two bytes are copied. -/
theorem test_host_effects_met :
    let s := serving
    (match s.actCreate ⟨3, 1, 1, 0, 4096, 4, 0⟩ with
      | .reply st _ v => st == 0 && (SMap.find v.parts 3).isSome
      | _ => false) = true ∧
      (s.addUppers 0 1 1).isSome = true ∧ (partition0.nextSlots 1).any (s.slotBusy 0) = false ∧
      ({ s with cmds := [(1, command (.fill 7) (slotAddress 1 64) 64 0)] } : State).slotBusy 0 1 = true ∧
      partition0.nextSlots 1 = [1] ∧ s.dev.changes = [] ∧ s.dev.resizing 1 = false ∧ s.spanHeld 0 0x2000 2 = false ∧
      s.freeKey = some 511 ∧ lastCores [⟨0, 1, 0⟩] 1 = some [0] ∧
      (s.mapRange 0 ⟨0x10000, 65536, 0, 5, permBits true true false true, false⟩).isSome = true ∧
      s.resolve (serviceCtx 0) .hw 0x2005 = .ok (Config.pagePool + 0x2005) ∧ (Config.pagePool + 0x2005) % 32 = 0x2005 % 32 ∧
      s.liveLine ((Config.pagePool + 0x2005) / 32 * 32) = false ∧
      (s.copyIn 0 0x2000 [1, 2]).2 = true ∧ (match s.copyOut 0 0x2000 2 with
        | .ok l => l == [0, 0]
        | .error _ => false) = true :=
  ⟨by decide +kernel, by decide +kernel, by decide +kernel, by decide +kernel, by decide +kernel, rfl, rfl, by decide, by decide +kernel,
    by decide, by decide +kernel, rfl, by decide, by decide, by decide +kernel, by decide +kernel⟩

/-- A request that is answered at once, and one that waits for a core to leave; a launch that a cancel names. -/
theorem test_served_met :
    let h := header false 3
    let x : Session := ⟨false, 1, 9, 3, [], [(2, ⟨false, 1, 0x60, 0, 9, 2, 0, 0, []⟩)], none⟩
    let l : Launch := { launch0 with token := 0x6000, hdr := h }
    (∃ body v, (serving.serving h (.readTrapLog 0 1) x).serve h (.readTrapLog 0 1) none = .reply 0 body v) ∧
      (match (serving.serving h (.resize 0 (-1)) x).serve h (.resize 0 (-1)) none with
        | .later _ _ => true
        | _ => false) = true ∧
      ({ serving with launches := [(4, l)] } : State).launches.find? (fun y => y.2.part == 0 && y.2.token == (0x6000 : Word).toNat) =
        some (4, l) :=
  ⟨⟨_, _, rfl⟩, by decide +kernel, by decide⟩

/-- Launch headers: one that keeps every rule, whose launch fits, and one whose token address is not aligned. -/
theorem test_launch_met :
    let hdr : Nat := 16 * 2 ^ 64 + 0x6000 * 2 ^ 256
    let s := filled [(0x5000, 64, hdr)] { serving with
      parts := [(0, { partition0 with ptab := some 0x4000, pool := (Config.framePoolVa, 65536), slotsPerUpper := 4 })] }
    let v : Nat := cellsNat s.mem.cells (Config.pagePool + 0x5000) 64
    s.slotLoc 0 0x5000 64 = .ok (Config.pagePool + 0x5000) ∧ s.anyMarked (Config.pagePool + 0x5000) 64 = false ∧ v = hdr ∧
      s.heldAt (serviceCtx 0) 0x5000 = false ∧ s.heldAt (serviceCtx 0) (dword hdr 4) = false ∧
      (∃ loc, s.slotLoc 0 (slotAddress 0 64) 64 = .ok loc) ∧ tokenOk (dword hdr 4) = true ∧
      (∃ loc, s.resolve ⟨0, false, 0, 0, none⟩ .store (dword hdr 4) = .ok loc) ∧ headerFault hdr = none ∧
      headerFault (hdr + 2 ^ 256) = some 0x20 :=
  ⟨rfl, by decide, by decide +kernel, by decide, by decide, ⟨_, rfl⟩, by decide, ⟨_, rfl⟩, by decide +kernel, by decide +kernel⟩

/-- Of the management port: an image may be written and activated, entries of the log read, a page table rebuilt. -/
theorem test_management_met :
    let d : Dump := ⟨0, 5, [], [], [], [], []⟩
    let s : State := { serving with
      parts := [], mem := { serving.mem with negative := [9] },
      dev := { serving.dev with log := [⟨0, 1, 0, 0, 0, false, 0, 0⟩], dump := some d, hot := [(4, 0)] }, clock := 2250000 }
    s.dev.flash.pending = false ∧ s.dev.flash.active < 2 ∧ 0 + 1 ≤ s.dev.log.length ∧ s.dev.dump = some d ∧ s.parts = [] ∧
      serving.parts ≠ [] ∧ s.dev.running = .up ∧ SMap.find s.dev.hot 4 = some 0 ∧ 0 + 2250000 ≤ s.clock ∧
      s.mem.negative.contains 9 = true ∧ s.mem.negative.contains 8 = false ∧
      ({ s with dev := { s.dev with running := .unbooted } } : State).dev.running = .unbooted ∧
      serving.quiet 0 = true ∧
      (machine fun m => { m with work := some (recordOf false) }).quiet 0 = false :=
  ⟨rfl, by decide, by decide, rfl, rfl, by decide, rfl, rfl, by decide, by decide, by decide, rfl, by decide, by decide⟩

/-- A half-sole that an upper holds and that has begun to fail, and its chain of rebinding; one that is good. -/
theorem test_rebinding_met :
    let s : State := { base with dev := { base.dev with halves := [(0, 1)] } }
    s.holderOf 0 = some 0 ∧ s.halfStatus 0 = 1 ∧ base.halfStatus 0 ≠ 1 := by decide +kernel

/-! ### Steps -/

/-- Encoding is stated of words that are well formed; a step fetches one, cannot fetch, and runs an event. -/
theorem test_steps_met :
    let s := filled [(0x1000, 4, 0x008C6400)] base
    (Instr.add ⟨0, 3, 3, 4⟩).wf = true ∧ (encodeWord (.add ⟨0, 3, 3, 4⟩)).isSome = true ∧
      s.cur < Config.allUppers * Config.seqsPerUpper ∧ s.agenda = [] ∧ s.dev.running = .up ∧ s.prompt = false ∧ s.othersDue = false ∧
      s.me.mode = .running ∧ (s.upperAt (upperOf s.cur)).throttled = false ∧ s.atStandard = false ∧
      SMap.find s.me.fetched s.me.pc.toNat = none ∧
      s.checkAccess s.ctx .fetch s.me.pc.toNat 4 = .ok (Config.pagePool + 0x1000) ∧
      s.poisoned (Config.pagePool + 0x1000) = false ∧
      isOk' (decode [s.byte (Config.pagePool + 0x1000), s.byte (Config.pagePool + 0x1001), s.byte (Config.pagePool + 0x1002),
        s.byte (Config.pagePool + 0x1003)]) (.add ⟨0, 3, 3, 4⟩) = true ∧
      encodeWord .aging = none ∧ leaves (step s) (fun t => t.me.pc == 0x1004) = true :=
  ⟨by decide, by decide, by decide, rfl, rfl, by decide, by decide, rfl, rfl, by decide, rfl, rfl, by decide, by decide +kernel, rfl,
    by decide +kernel⟩

/-- The invariant of memory holds at reset, and a state with memory keeps it over a store. -/
theorem test_memory_met : State.reset.MemoryOk ∧
    leaves (step (filled [(0x1000, 4, 0x06906010)] (machine (scalars [(4, 0x3000), (3, 0x1122334455667788)])))) (fun t =>
      Memory.wf t.mem.cells && t.byte (Config.pagePool + 0x3010) == 0x88 && t.byte (Config.pagePool + 0x3017) == 0x11) = true :=
  ⟨rfl, by decide +kernel⟩

/-! ### Single steps, with results worked out from the manual -/

/-- The scalar register r after one word. -/
def gives (i : Instr) (s : State) (r : Reg) (v : Word) : Bool := leaves (exec i s) fun t => t.sreg r == v

/-- Scalar arithmetic wraps, and the corners of R77 to R82. The constant is the example of R82. -/
theorem test_scalar_results :
    let s := machine (scalars [(1, 0xFFFFFFFFFFFFFFFF), (2, 2), (3, 0x8000000000000000), (4, 0x48D159E26A), (5, 0x0828)])
    gives (.add ⟨0, 6, 1, 2⟩) s 6 1 ∧ gives (.sub ⟨0, 6, 0, 2⟩) s 6 0xFFFFFFFFFFFFFFFE ∧
      gives (.sra ⟨0, 6, 3, 1⟩) s 6 0xFFFFFFFFFFFFFFFF ∧ gives (.slt ⟨0, 6, 1, 2⟩) s 6 1 ∧ gives (.sltn ⟨0, 6, 1, 2⟩) s 6 0 ∧
      gives (.addw ⟨0, 6, 1, 1⟩) s 6 0xFFFFFFFFFFFFFFFE ∧ gives (.mulh ⟨0, 6, 1, 2⟩) s 6 0xFFFFFFFFFFFFFFFF ∧
      gives (.mulhn ⟨0, 6, 1, 2⟩) s 6 1 ∧ gives (.div ⟨0, 6, 3, 1⟩) s 6 0x8000000000000000 ∧
      gives (.rem ⟨0, 6, 3, 1⟩) s 6 0 ∧ gives (.divn ⟨0, 6, 2, 0⟩) s 6 0xFFFFFFFFFFFFFFFF ∧ gives (.rem ⟨0, 6, 2, 0⟩) s 6 2 ∧
      gives (.lih ⟨0, 4, 0x3CDEF⟩) s 4 0x0123456789ABCDEF ∧ gives (.addi ⟨0, 6, 2, 0x1FFF⟩) s 6 1 ∧
      gives (.clz ⟨0, 6, 2⟩) s 6 62 ∧ gives (.ctz ⟨0, 6, 0⟩) s 6 64 ∧ gives (.bext ⟨0, 6, 3, 5⟩) s 6 0 ∧
      gives (.add ⟨0, 0, 1, 2⟩) s 0 0 := by decide +kernel

/-- Loads extend by their sign, and see the byte that a store put first. -/
theorem test_memory_results :
    let s := filled [(0x2000, 8, 0x80FF)] (machine (scalars [(1, 0x2000), (2, 0x1122334455667788)]))
    gives (.ldxh ⟨0, 3, 1, 0⟩) s 3 0xFFFFFFFFFFFF80FF ∧ gives (.ldxhn ⟨0, 3, 1, 0⟩) s 3 0x80FF ∧
      gives (.ldxb ⟨0, 3, 1, 0⟩) s 3 0xFFFFFFFFFFFFFFFF ∧
      leaves (exec (.stxh ⟨0, 2, 1, 0⟩) s) (fun t => t.byte (Config.pagePool + 0x2000) == 0x88 &&
        t.byte (Config.pagePool + 0x2001) == 0x77 && t.byte (Config.pagePool + 0x2002) == 0) ∧
      gives (.amoAdd ⟨0, 3, 1, 2, 0, false⟩) s 3 0x80FF ∧
      leaves (exec (.amoMax ⟨0, 3, 1, 2, 0, true⟩) s) (fun t => t.byte (Config.pagePool + 0x2000) == 0x88) := by decide +kernel

/-- The program of R94's chapter at 0x2004 and 0x200C: the loop's level, and a taken branch with its two slots. -/
theorem test_control_results :
    let s := machine fun m => scalars [(4, 0xFFFFFFFFFFFFFFFE)] { m with pc := 0x200C }
    leaves (exec (.blt ⟨0, 4, 0, 4⟩) s) (fun t => t.me.pc == 0x2010 && t.me.delay == some ⟨2, some 0x201C⟩) ∧
      leaves (exec (.loopi ⟨0, 4, 7⟩) (machine fun m => { m with pc := 0x2004 })) (fun t =>
        t.me.pc == 0x2008 && t.me.loops.top == ⟨0x2008, 0x2020, 4⟩ && t.me.loops.depth == 1) ∧
      leaves (exec (.jal ⟨0, 31, 4⟩) s) (fun t => t.sreg 31 == 0x2018 && t.me.delay == some ⟨2, some 0x201C⟩) ∧
      leaves (exec (.trap ⟨0, 5⟩) (machine fun m => user { m with pc := 0x200C, ctl := { m.ctl with tvec := 0x8000 } })) (fun t =>
        t.me.pc == 0x8000 && t.me.ctl.trappc == 0x200C && t.me.ctl.resume == 0x2010 && t.me.ctl.elem == 5) ∧
      leaves (exec (.rft ⟨0⟩) (machine user)) (fun t => t.me.ctl.cause == BitVec.ofNat 64 (Cause.privileged + 4294967296)) := by
  decide +kernel

/-- The first row of the coded sum's example: two elements fill the destination (R130). -/
theorem test_coded_sum :
    let t : VType := ⟨.pzi, 1, 1, 0, false, .ne, false⟩
    let code (l : List Int) : Nat × Nat := l.foldl (fun a v =>
      let e := encodePZI #v[2, 4, 6, 8, 12, 16, 24, 64] v
      (a.1 + e.bits * 2 ^ a.2, a.2 + e.len)) (0, 0)
    let group (l : List Int) : VReg := ⟨BitVec.ofNat 32768 (code l).1, 4, (code l).2, []⟩
    let s := machine (vectors t 4 [(1, group [30000, 1, 30000, 2]), (2, group [10000, 1, 9000, 1])])
    (code [30000, 1, 30000, 2]).2 = 53 ∧ (code [10000, 1, 9000, 1]).2 = 50 ∧
      leaves (exec (.vadd ⟨0, 3, 1, 2, 0⟩) s) (fun x => x.me.grant == ⟨4, 2, 2, 25, 25, 37, 1⟩ &&
        (x.me.vregs.get 3).count == 2 && (x.me.vregs.get 3).len == 37) ∧
      leaves (exec (.vadd ⟨0, 3, 1, 2, 1⟩) (s.setMe { s.me with masks := s.me.masks.set 1 13 })) (fun x =>
        x.me.grant == ⟨4, 2, 2, 25, 25, 34, 1⟩ && (x.me.vregs.get 3).len == 34) := by decide +kernel

/-- The codes of 50 and -3 stand in the bytes 0x87, 0x10, 0x02, and those of 1.5 and -0.375 in 0x09, 0x5C, 0x02; an integer
stream of two codes is loaded whole. -/
theorem test_code_bytes :
    let e := encodePZI #v[2, 4, 6, 8, 12, 16, 24, 64]
    let k : Coding := ⟨true, 7, 0, #v[0, 0, 1, 2, 3, 4, 6, 0]⟩
    (e 50).bits + (e (-3)).bits * 2 ^ (e 50).len = 0x021087 ∧ (e 50).len + (e (-3)).len = 18 ∧
      decodeCode k (Nat.testBit 0x025C09) 0 = .num (.fin false 192 (-7)) ∧
      leaves (exec (.zld ⟨0, 3, 1, 2⟩) (filled [(0x2000, 3, 0x021087)] (codes id))) (fun t =>
        (t.me.vregs.get 3).bits == 0x021087 && (t.me.vregs.get 3).len == 18 && t.me.grant.gd == 18) := by decide +kernel

/-- One error-free sum, and the ordered fold of 2^24, 1, 1 and -2^24 to 0 (R149, R138). -/
theorem test_float_results :
    let s := machine (vectors fp32 1 [(1, ⟨0x3F800000, 1, 32, []⟩), (2, ⟨0x33C00000, 1, 32, []⟩)])
    let r := machine (vectors fp32 4 [(1, ⟨0xCB8000003F8000003F8000004B800000, 4, 128, []⟩), (2, ⟨0, 1, 32, []⟩)])
    leaves (exec (.vtsum ⟨0, 4, 1, 2, 0⟩) s) (fun t => (t.me.vregs.get 4).bits == 0x3F800001 &&
        (t.me.vregs.get 5).bits == 0xB3000000) ∧
      leaves (exec (.vredo ⟨0, 3, 1, 2, 0⟩) r) (fun t => (t.me.vregs.get 3).bits == 0 && (t.me.vregs.get 3).count == 1) ∧
      leaves (exec (.vadd ⟨0, 3, 1, 2, 1⟩) floats) (fun t => (t.me.vregs.get 3).bits == 0x3FC0000000000000 &&
        t.me.grant == ⟨2, 2, 2, 64, 64, 64, 0⟩) ∧
      leaves (exec (.vclt ⟨0, 2, 1, 2, 0⟩) floats) (fun t => t.me.masks.get 2 == 1) ∧
      leaves (exec (.vsra ⟨0, 3, 1, 2, 0⟩) ints) (fun t => (t.me.vregs.get 3).bits == 0xFFFFFFFE00000000) := by decide +kernel

/-- Movements: a slide by one, a compaction of the second element, an identity vector. -/
theorem test_move_results :
    let s := machine fun m => scalars [(2, 1)] { floats.me with pc := m.pc }
    leaves (exec (.vslup ⟨0, 3, 1, 2, 0⟩) s) (fun t => (t.me.vregs.get 3).bits == 0x3F80000000000000) ∧
      leaves (exec (.vcomp ⟨0, 3, 1, 1⟩) s) (fun t => (t.me.vregs.get 3).bits == 0x40200000 && (t.me.vregs.get 3).count == 1 &&
        t.me.grant.gp == 1) ∧
      leaves (exec (.vid ⟨0, 3, 0⟩) (machine (vectors int32 3 []))) (fun t =>
        (t.me.vregs.get 3).bits == 0x000000020000000100000000) ∧
      leaves (exec (.mlen ⟨0, 1, 2⟩) s) (fun t => t.me.masks.get 1 == 1) ∧ gives (.mpop ⟨0, 6, 1⟩) s 6 1 := by decide +kernel

/-- One block quantised: header and codes of the example of R44. -/
theorem test_quantised_block :
    let xs : List Nat := [0x3E99999A, 0xBF99999A, 0xC1100000, 0x4039999A, 0, 0x3F4CCCCD, 0xC0B00000, 0x3F800000, 0x40533333,
      0xBDCCCCCD, 0x40000000, 0x408CCCCD, 0xC0266666, 0x3F0CCCCD, 0x3FD9999A, 0x3F666666]
    let t : VType := ⟨.plain .eb, 1, 0, 0, false, .ne, false⟩
    let s := machine (vectors t 16 [(8, ⟨BitVec.ofNat 32768 (xs.foldr (fun x a => x + a * 2 ^ 32) 0), 16, 512, []⟩)])
    leaves (exec (.vqnt ⟨0, 3, 8⟩) s) (fun t => (t.me.vregs.get 3).bits == 0x241D64062F2058B1C7EE &&
      (t.me.vregs.get 3).len == 80) := by decide +kernel

/-- Vector memory: a load, a strided store into the buffer of the strip. -/
theorem test_vector_memory_results :
    leaves (exec (.vld ⟨0, 3, 1, 0⟩) (filled [(0x2000, 8, 0x402000003F800000)] (vmem id))) (fun t =>
        (t.me.vregs.get 3).bits == 0x402000003F800000 && t.me.grant == ⟨2, 2, 2, 64, 0, 64, 0⟩) ∧
      leaves (exec (.vsts ⟨0, 1, 1, 2, 0⟩) (vmem inStrip)) (fun t => t.viewNat (Config.pagePool + 0x2008) 4 == 0x40200000 &&
        t.byte (Config.pagePool + 0x200B) == 0) ∧
      leaves (exec (.sclose ⟨0⟩) (vmem inStrip)) (fun t => t.me.strip.isNone) ∧
      leaves (exec (.strip ⟨0, 4, 2, 3⟩) (vmem id)) (fun t => t.sreg 4 == 8 && t.me.ctl.sbase == 0x10000 && t.me.strip.isSome) := by
  decide +kernel

/-- The distances of the worked example to three of its centroids, with the far sentinel in column 3; the rest stands at +0. -/
theorem test_centroid_distance :
    let w : List Nat := [0x3F80, 0x4000, 0, 0x4380, 0x3F80, 0x4000, 0x4000, 0x4380, 0, 0, 0, 0x4380, 0x3F80, 0, 0x3F80, 0x4380]
    let bits (k n : Nat) : Nat := w.getD (4 * k + n) 0
    let tile := (List.range 16).foldl (fun a j => a + bits (j / 4) (j % 4) * 2 ^ (16 * (64 * (j % 4) + j / 4))) 0
    let s := machine fun m => { vectors bf16 4 [(1, ⟨0x3F80000040003F80, 4, 64, []⟩)] m with
      truss := { m.truss with tm := 1 } }
    let s : State := { s with soles := [(0, { Sole.reset with
      slots := Sole.reset.slots.set 0 ⟨some .bf16, BitVec.ofNat 327680 tile, []⟩ })] }
    leaves (exec (.tdist ⟨0, 10, 1, 0, 0⟩) s) (fun t => (t.rowAt 10).bitsAt 0 == 0x3F800000 &&
      (t.rowAt 10).bitsAt 1 == 0x40000000 && (t.rowAt 10).bitsAt 2 == 0x3F800000 && (t.rowAt 10).bitsAt 3 == 0x487E0180 &&
      t.me.grant == ⟨4, 4, 1, 64, 0, 2048, 0⟩) := by decide +kernel

/-- Steps 1, 3, 6 and 7 of the two-party barrier, and its arrival at step 5. -/
theorem test_barrier_phases :
    let b : BarObj := ⟨0xFFFE, 2, 0, 0, 0, 0, false, false, false⟩
    let ok (x : Except (Nat × BarObj) BarObj) (p : BarObj → Bool) : Bool := match x with
      | .ok c => p c
      | .error _ => false
    let no (x : Except (Nat × BarObj) BarObj) (cause : Nat) : Bool := match x with
      | .ok _ => false
      | .error e => e.1 == cause
    ok (b.arrive 0xFFFE 4096) (· == { b with arrived := 1, count := 4096 }) ∧
      ok ({ b with arrived := 2, count := 4096 }.arrive 0xFFFF 0) (· == { b with arrived := 2, count := 4096, early := 1 }) ∧
      { b with arrived := 2, early := 1, count := 4096 }.deliver 6144 = { b with phase := 0xFFFF, arrived := 1, surplus := true } ∧
      ok ({ b with phase := 0xFFFF, arrived := 1, surplus := true }.arrive 0xFFFF 0) (· == { b with phase := 0, surplus := true }) ∧
      no ({ b with phase := 0 }.arrive 2 0) Cause.barrierOverrun ∧ no ({ b with phase := 0 }.arrive 0xFFFF 0) Cause.staleArrival := by
  decide +kernel

/-- Work identifiers: field 1 of 0x96113 under widths 4, 6 and 10; logical core 5 of six. -/
theorem test_work_identifier :
    let s : State := { base with launches := [(0, { launch0 with widths := [4, 6, 10, 0, 0, 0] })] }
    let s := s.setMe { s.me with work := some { recordOf false with wid := 0x96113 } }
    gives (.wid ⟨0, 7, 1⟩) s 7 17 ∧ gives (.wid ⟨0, 7, 2⟩) s 7 600 ∧ gives (.wid ⟨0, 7, 3⟩) s 7 0 ∧ gives (.wid ⟨0, 7, 6⟩) s 7 0x96113 ∧
      logicalCore 614675 6 = 5 := by decide +kernel

/-- Channels, patterns and rounds: an element put and one taken, an entry written, a nest applied, a round joined. -/
theorem test_parallel_results :
    leaves (exec (.chput ⟨0, 3, 1, 2⟩) (channel false 1 0)) (fun t => t.sreg 3 == 0 && t.chPut Config.padBase == 2) ∧
      leaves (exec (.chput ⟨0, 3, 1, 2⟩) (channel false 2 0)) (fun t => t.sreg 3 == 1 && t.chPut Config.padBase == 2) ∧
      leaves (exec (.chget ⟨0, 3, 1, 2⟩) (channel false 0 1)) (fun t => t.sreg 3 == 2) ∧
      leaves (exec (.cyield ⟨0, 3, 1, 4⟩) (channel true 2 0)) (fun t => (t.seqAt 0).mode == .idle && t.yields.length == 1) ∧
      leaves (exec (.cfun ⟨0, 2, 1, 0⟩) (patterned (scalars [(1, 0x3000), (2, 2)]))) (fun t =>
        t.byte (Config.pagePool + 0x4080) == 1 && t.byte (Config.pagePool + 0x4089) == 0x30) ∧
      leaves (exec (.capply ⟨0, 9, 0, 3⟩) (patterned id)) (fun t => t.nests.length == 1 && t.queue.length == 1 &&
        (SMap.find t.me.pend 9).isSome) ∧
      leaves (exec (.capply ⟨0, 9, 1, 3⟩) (patterned (scalars [(1, 1)]))) (fun t => t.sreg 9 == 0x0000000001010003) ∧
      leaves (exec (.scopen ⟨0, 1, 2⟩) (scatter false false)) (fun t => t.me.held == some (Config.pagePool + 0x2000)) ∧
      leaves (exec (.scaddO ⟨0, 1, 3, 2⟩) (scatter true false)) (fun t => t.flights.map (·.va) == [0x3008, 0x300C]) := by
  decide +kernel

/-- Engines: a copy is pending, its chunk moves 64 bytes, its token is 64 times 65,536 and 1; index 5 of the 3 x 2 grid. -/
theorem test_engine_results :
    leaves (exec (.xcopy ⟨0, 9, 1, 0, 1⟩) (commands id)) (fun t => (SMap.find t.me.pend 9).isSome && t.cmds.length == 1) ∧
      leaves (exec (.engineChunkComplete 1 0) (filled [(0x5000, 8, 77)] (outstanding (command (.copy 0x5000) 0x3000 64 0)))) (fun t =>
        t.byte (Config.pagePool + 0x3000) == 77 && (t.seqAt 0).masks.get 1 == 1) ∧
      leaves (exec (.engineCommandComplete 1) (outstanding { command (.copy 0x5000) 0x3000 64 0 with chunks := [0] })) (fun t =>
        t.sreg 9 == 0x0000000000400001 && t.cmds.isEmpty) ∧
      coordinate 0x000100020003 5 = 0x00010002 := by
  decide +kernel

/-- Queues and the device: a record is entered, a partition is created and answered, a lost line is marked. -/
theorem test_device_results :
    let lost : Transfer := ⟨true, Config.pagePool + 0x2000, 0xF, 7⟩
    leaves (exec (.pop 1) (queued none 0)) (fun t => (t.seqAt 1).mode == .running && (t.seqAt 1).pc == 0x1000 && t.queue.isEmpty) ∧
      leaves (exec (.openSession { header false 0 with len := 0 }) base) (fun t => t.dev.sessions.length == 1 && t.dev.out.length == 1) ∧
      leaves (exec (.crcFailure lost (lost.crc + 1)) { base with dev := { base.dev with crc := [(lost, 3)] } }) (fun t =>
        t.poisoned (Config.pagePool + 0x2000) && t.mem.returned.isEmpty) ∧
      leaves (exec (.fatalError 5 0 0 0) base) (fun t => t.dev.running == .fatal) ∧
      leaves (exec .powerUp base) (fun t => t.dev.running == .up) := by decide +kernel

/-! ### Further conditions -/

/-- A load that nothing has taken early, and one that has taken its bytes early. -/
theorem test_early_loads_met :
    let s (l : List Early) := machine fun m => { scalars [(1, 0x2000)] m with early := l }
    (∀ n ∈ [1, 2, 4, 8], (mapped.due.me.earlyAt (Config.pagePool + 0x2000) n 0).isNone = true ∧
      mapped.due.loadBad (Config.pagePool + 0x2000) n 0 = false) ∧ (s []).me.early = [] ∧
      ((s [⟨Config.pagePool + 0x2000, 8, 0, 7, false, []⟩]).me.earlyAt (Config.pagePool + 0x2000) 8 0).isSome = true := by decide +kernel

/-- Every scalar access at 2^57 and at an address that no size but 1 divides. -/
theorem test_every_address_trap_met :
    let s := machine (scalars [(1, 0x200000000000000), (2, 0x1FFFFFFFFFFFFFF)])
    let words (a : Reg) : List Instr := [.ldxb ⟨0, 3, a, 0⟩, .ldxbn ⟨0, 3, a, 0⟩, .ldxh ⟨0, 3, a, 0⟩, .ldxhn ⟨0, 3, a, 0⟩,
      .ldxw ⟨0, 3, a, 0⟩, .ldxwn ⟨0, 3, a, 0⟩, .ldxd ⟨0, 3, a, 0⟩, .ldd ⟨0, 3, a, 0⟩, .ldw ⟨0, 3, a, 0⟩, .ldwn ⟨0, 3, a, 0⟩,
      .stxb ⟨0, 3, a, 0⟩, .stxh ⟨0, 3, a, 0⟩, .stxw ⟨0, 3, a, 0⟩, .stxd ⟨0, 3, a, 0⟩, .std ⟨0, a, 3, 0⟩, .stw ⟨0, a, 3, 0⟩,
      .czero ⟨0, a, 0⟩, .lr ⟨0, 3, a⟩, .lrw ⟨0, 3, a⟩, .sc ⟨0, 3, a, 4⟩, .scw ⟨0, 3, a, 4⟩]
    (∀ i ∈ words 1, s.Ready i) ∧ (∀ i ∈ words 2, s.Ready i) ∧ 2 ^ 57 ≤ ((s.sreg 1 + s.sreg 0) &&& ~~~63).toNat ∧
      (∀ n ∈ [2, 4, 8], (s.sreg 2).toNat % n ≠ 0) ∧ (s.sreg 2).toNat < 2 ^ 57 :=
  ⟨all_ready (by decide), all_ready (by decide), by decide, by decide, by decide⟩

/-- Delay slots with an absent target, with a transfer still owed behind them, and away from the last word of a loop. -/
theorem test_more_slots_met :
    (∀ left ∈ [1, 2, 3], (machine fun m => { m with delay := some ⟨left, none⟩ }).me.delay = some ⟨left, none⟩ ∧
      (machine fun m => { m with delay := some ⟨left, some 0x3000⟩, owed := some ⟨2, some 0x4000⟩ }).me.owed =
        some ⟨2, some 0x4000⟩) ∧
      base.me.owed = none ∧ lastWord base.me.loops ≠ some base.me.pc ∧ (∀ n o, base.me.delay ≠ some ⟨n, some o⟩) :=
  ⟨by decide, rfl, by decide, by intro n o h; cases h⟩

/-- Words whose fields are outside the encodings, and a state that fetches one. -/
theorem test_illegal_words_met :
    fMajor 0x0D000004 = 0x1A ∧ fMajor 0x0E840000 = 0x1D ∧ 0x0E840000 / 262144 % 32 ≠ 0 ∧
      (filled [(0x1000, 4, 0x0D000004)] base).fetchWord = .ok 0x0D000004 :=
  ⟨by decide, by decide, by decide, by decide +kernel⟩

/-- The journal of an open strip, in order. -/
theorem test_journal_met :
    let st : Strip := ⟨0xF00, ⟨base.me.regs, base.me.loops, base.me.grant, 0, ⟨0, 0, 0⟩, []⟩, [], [(3, Row.zero)]⟩
    SMap.Rising st.journal ∧ (machine fun m => { m with strip := some st }).me.strip = some st ∧
      (machine fun m => { inStrip m with window := true }).me.window = true := by
  refine ⟨List.pairwise_singleton _ _, rfl, rfl⟩

/-- The movements with and without a mask: every active source decodes, and every code that a slide or a permutation takes. -/
theorem test_moves_decode_met :
    let s := floats.due
    let x := s.srcOf (s.layout fp32) fp32.g 1
    let y := s.srcOf (s.layout fp32) fp32.g 2
    let ix := s.srcOf (.plain .n32) (indexRegs fp32) 2
    ∀ m ∈ [s.maskOf 0, s.maskOf 1], x.Decodes m 2 ∧ y.Decodes m 2 ∧ x.Clean 2 ∧ y.Clean 2 ∧ ix.Clean 2 ∧
      x.Copies m 3 (fun n => if n < 1 then none else some (n - 1)) ∧ x.Copies m 1 (fun n => some (n + 1)) ∧
      x.Copies m 2 (fun n => if x.count ≤ ix.raw n then none else some (ix.raw n)) := by
  intro s x y ix m hm
  have hx : ∀ k, k < 2 → ∃ v, x.val k = .ok v := fun k hk => by
    rcases k with _ | _ | k <;> exact ⟨_, rfl⟩
  have hy : ∀ k, k < 2 → ∃ v, y.val k = .ok v := fun k hk => by
    rcases k with _ | _ | k <;> exact ⟨_, rfl⟩
  have cx : x.Clean 4 := clean_of_check (by decide)
  refine ⟨fun k hk _ => hx k hk, fun k hk _ => hy k hk, clean_of_check (by decide), clean_of_check (by decide),
    clean_of_check (by decide), fun k hk _ j hj => ?_, fun k hk _ j hj => ?_, fun k hk _ j hj => ?_⟩
  · dsimp only at hj
    split at hj
    · cases hj
    · cases hj
      exact ⟨cx _ (by omega), hx _ (by omega)⟩
  · cases hj
    exact ⟨cx _ (by omega), hx _ (by omega)⟩
  · have hc : x.count = 2 := rfl
    dsimp only at hj
    split at hj
    · cases hj
    · cases hj
      exact ⟨cx _ (by omega), hx _ (by omega)⟩

/-- An element that no poisoned byte taints, and a yield on memory that holds no channel. -/
theorem test_more_channels_met :
    let none_ := { channel true 1 0 with soles := [] }
    (channel true 1 0).elemMarked 0x2000 1 = none ∧ none_.unsettled 0 = false ∧ none_.chanLive Config.padBase = false ∧
      none_.due.cyieldCheck (BitVec.ofNat 64 Config.localWindow) 1 = .ok (recordOf true, some Config.padBase) ∧
      (match (channel true 1 0).elemWhole .load 0x1000000 1 with
        | .error t => t.cause != Cause.held
        | .ok _ => false) = true := by decide +kernel

/-- Commands that have passed their checks and wait: one that may issue now, one of length 0, one behind sixteen others. -/
theorem test_posted_met :
    let c (len : Nat) := command (.copy 0x5000) 0x3000 len 0
    let s (x : Option Command) := commands fun m => { m with posted := x }
    (s none).me.posted = none ∧ (∀ n ∈ [0, 64], (s (some (c n))).me.posted = some (c n) ∧ (c n).len = n ∧
      (s (some (c n))).due.cmdWaits (c n).mask = false) ∧
      { base with cmds := (List.range 16).map fun k => (k, c 64) }.cmdWaits (c 64).mask = true ∧
      (s (some (c 64))).Ready (.xcopy ⟨0, 9, 1, 0, 0⟩) :=
  ⟨rfl, by decide, by decide, ready_of_check (by decide)⟩

/-- A chunk whose barrier waits for a core that is saved. -/
theorem test_chunk_held_met :
    let x : Saved := ⟨0, 0, .ordinary, [Seq.reset], Tables.reset, Tables.reset, 0, 0, .rebinding, 1, 0, none⟩
    let s : State := { base with saves := [(0, x)] }
    s.barHeld (command (.copy 0x5000) 0x3000 64 Config.globalWindow) = true ∧
      s.barHeld (command (.copy 0x5000) 0x3000 64 0) = false ∧
      (match (s.chunkWork (command (.fill 7) Config.globalWindow 64 0) 0).stop with
        | some .hold => true
        | _ => false) = true ∧
      s.engineLoc ⟨0, true, 0, 1, none⟩ .store 0x3000 = .ok (Config.pagePool + 0x3000) := by decide +kernel

/-- A rebinding that is first among the changes, its chain, and its cores once they are saved. -/
theorem test_rebinding_steps_met :
    let s : State := { base with dev := { base.dev with halves := [(0, 1)], changes := [.rebind 0 none] } }
    let x : Saved := ⟨0, 0, .ordinary, [Seq.reset], Tables.reset, Tables.reset, 0, 0, .rebinding, 1, 0, none⟩
    let t : State := { s with saves := [(0, x)] }
    s.holderOf 0 = some 0 ∧ s.dev.changes = .rebind 0 none :: [] ∧ base.dev.changes = [] ∧ base.chainStands [] = true ∧
      s.savedFor 0 = false ∧ t.savedFor 0 = true ∧ s.chainStands [(0, 0, 0)] = false := by decide +kernel

/-- Places of fatal errors, and what the management port answers in one message. -/
theorem test_fatal_places_met :
    fatalPlace 1 6 5 = true ∧ fatalPlace 1 6 6 = false ∧ fatalPlace 2 1 519 = true ∧ fatalPlace 3 0 0 = false ∧
      fatalPlace 4 5 3 = true ∧ fatalPlace 5 0 0 = true ∧ fatalPlace 5 0 1 = false ∧ (100 : Nat) ≤ bodyLimit := by decide

/-- A transfer whose CRC is right, one that has failed three times before. -/
theorem test_transfers_met :
    let x : Transfer := ⟨true, 0x2000, 0xFFFFFFFF, 0⟩
    let s : State := { base with dev := { base.dev with crc := [(x, 3)] } }
    base.crcFailures x = 0 ∧ s.crcFailures x = 3 ∧ x.crc + 1 ≠ x.crc := by decide +kernel

/-- Where ILLEGAL_INSTRUCTION and INSTRUCTION_FETCH_FAULT find a word that is none, one that is, a fetch that fails, and no fetch. -/
theorem test_system_events_met :
    let bad := filled [(0x1000, 4, 0x0D000004)] base
    let good := filled [(0x1000, 4, 0x008C6400)] base
    let far := machine fun m => { m with pc := 0x1000000 }
    let idle := machine fun m => { m with mode := .idle }
    bad.me.mode = .running ∧ bad.fetchWord = .ok 0x0D000004 ∧ (match decodeWord 0x008C6400 with
        | .ok i => decide (i = .add ⟨0, 3, 3, 4⟩)
        | .error _ => false) = true ∧
      (match decodeWord 0x0D000004 with
        | .ok _ => false
        | .error _ => true) = true ∧ good.fetchWord = .ok 0x008C6400 ∧
      (match far.fetchWord with
        | .ok _ => false
        | .error e => e.cause != Cause.held) = true ∧ idle.me.mode ≠ .running ∧
      leaves (exec .illegalInstruction idle) (fun t => t.me.trapSeq == 0) ∧
      leaves (exec .illegalInstruction bad) (fun t => t.me.trapSeq == 1) := by decide +kernel

/-- A channel whose control line is marked; rounds named by their address, by another one, and by one that reaches nothing. -/
theorem test_marked_lines_met :
    let c := channel true 1 0
    let m : State := { c with mem := { c.mem with poison := [Config.padBase / 32] } }
    let r := scatter true false
    let gone : State := { r with mem := { r.mem with tlb := [] } }
    c.anyMarked Config.padBase 24 = false ∧ m.chanLive Config.padBase = true ∧ m.anyMarked Config.padBase 24 = true ∧
      (scatter false false).me.held = none ∧ r.me.held = some (Config.pagePool + 0x2000) ∧ r.heldAt r.ctx 0x2000 = false ∧
      r.resolve r.ctx .hw 0x2000 = .ok (Config.pagePool + 0x2000) ∧ r.resolve r.ctx .hw 0x3000 = .ok (Config.pagePool + 0x3000) ∧
      gone.heldAt gone.ctx 0x2000 = false ∧ (match gone.resolve gone.ctx .hw 0x2000 with
        | .ok _ => false
        | .error _ => true) = true ∧
      (SMap.find gone.rounds (Config.pagePool + 0x2000)).map (·.va) = some 0x2000 ∧
      (∀ f ∈ [(⟨0, 3, 1⟩ : R2), ⟨0, 3, 3⟩], r.Ready (.scflush f) ∧ gone.Ready (.scflush f)) :=
  ⟨by decide, by decide, by decide, rfl, rfl, by decide, rfl, rfl, by decide, by decide +kernel, by decide, by
    intro f hf
    simp only [List.mem_cons, List.not_mem_nil, or_false] at hf
    rcases hf with rfl | rfl <;> exact ⟨ready_of_check (by decide), ready_of_check (by decide)⟩⟩

/-- A core whose removal is first among the changes, asked already and not; a saved logical core of a launch that stands. -/
theorem test_removals_met :
    let s : State := { base with dev := { base.dev with changes := [.removal 0] } }
    let asked := withUpper (fun u => { u with preempt := some (.resize, 7) }) s
    let x : Saved := ⟨0, 0, .logical 0 2, [{ Seq.reset with work := some (recordOf false) }], Tables.reset, Tables.reset, 0, 0,
      .hostCancel, 1, 5, some 0x100000⟩
    let t : State := { base with seqs := [], saves := [(3, x)], launches := [(0, { launch0 with det := true, grid := 4 })] }
    s.dev.changes = .removal 0 :: [] ∧ (s.upperAt 0).preempt = none ∧ (asked.upperAt 0).preempt = some (.resize, 7) ∧
      (s.coreAt 0).isSome = true ∧ t.coreAt 0 = some (0, ⟨0, 1, 0⟩) ∧ (SMap.find t.launches 0).isSome = true ∧ t.allIdle 0 = true ∧
      leaves (exec (.contextRestore 0 3) t) (fun y => y.saves.isEmpty && (y.seqAt 0).mode == .idle &&
        (y.upperAt 0).tenant == .logical 0 2) := by decide +kernel

/-- An upper at which a time slice is due; a device that a fatal error has stopped and a temperature that stays critical; a
sequencer that the device has not; and acquires with and without loads around their places. -/
theorem test_turns_met :
    let det : Launch := { launch0 with det := true, grid := 4, remap := [0, 0, 0, 0] }
    let s : State := { base with
      launches := [(0, det)], queue := [⟨recordOf false, 0, 2, 0, 0, false, none, none, none⟩], clock := Config.clocks100us }
    let hot : State := { base with dev := { base.dev with running := .fatal, hot := [(4, 0)] }, clock := 2250000 }
    s.dev.running = .up ∧ s.prompt = true ∧ base.prompt = false ∧ hot.dev.running = .fatal ∧
      SMap.find hot.dev.hot 4 = some 0 ∧ takenDown (.criticalTemperature 4) = true ∧ encodeWord (.criticalTemperature 4) = none ∧
      leaves (exec (.criticalTemperature 4) hot) (fun t => (t.dev.dump.map (·.cause)) == some 3) ∧
      Config.allUppers * Config.seqsPerUpper ≤ ({ base with cur := 4096 } : State).cur ∧
      base.me.early = [] ∧ base.me.late = [] ∧ base.me.unseen = [] ∧ base.me.tokens = [] ∧ base.me.marked = [] ∧ base.flights = [] := by decide +kernel

/-! ### Further single steps -/

/-- What a strip stored is gone with its trap, also from a load ahead (R16, R19); a reader of a product is held for its latency (R57). -/
theorem test_discarded_and_held :
    let loc := Config.pagePool + 0x2000
    let s := machine fun m =>
      let m := inStrip (scalars [(1, 0x2000)] m)
      { m with
        strip := m.strip.map (fun st => { st with buf := bufNat [] 0x2000 loc 8 77 })
        early := [⟨loc, 8, 0, 77, false, []⟩, ⟨loc + 64, 8, 0, 5, false, []⟩] }
    leaves (exec (.trap ⟨0, 1⟩) s) (fun t => t.me.early.map (·.loc) == [loc + 64] && t.viewNat loc 8 == 0) ∧
      leaves (exec (.mul ⟨0, 3, 1, 1⟩) base) (fun t => leaves (exec (.add ⟨0, 4, 3, 3⟩) t) (fun u =>
        (SMap.find t.me.avail 3).isSome && u.me.ready == (SMap.find t.me.avail 3).getD 0 + 1)) := by decide +kernel

/-- A host copy of a whole sector clears its mark, and one of less leaves it (R315). -/
theorem test_copied_sectors :
    let s : State := { base with mem := { base.mem with poison := [(Config.pagePool + 0x2000) / 32] } }
    (s.copyIn 0 0x2000 (List.replicate 32 9)).1.poisoned (Config.pagePool + 0x2000) = false ∧
      (s.copyIn 0 0x2001 (List.replicate 31 9)).1.poisoned (Config.pagePool + 0x2000) = true := by decide +kernel

/-! ### Loads ahead, journals, rings of queues, rounds, plans and gaps -/

/-- Of three loads performed ahead, the middle one is taken: the newer one stands, and so does one of other bytes. -/
theorem test_taken_load :
    let loc := Config.pagePool + 0x2000
    let a : Early := ⟨loc, 8, 0, 5, false, []⟩
    let b : Early := ⟨loc + 4, 4, 0, 7, false, []⟩
    let c : Early := ⟨loc + 8, 8, 0, 9, false, []⟩
    let s := machine fun m => { scalars [(1, 0x2000)] m with early := [b, a, c] }
    s.me.early = [b] ++ a :: [c] ∧ a ∉ [b] ∧ s.me.earlyAt loc 8 0 = some a ∧
      leaves (exec (.ldd ⟨0, 2, 1, 0⟩) s) (fun t => t.sreg 2 == 5 && t.me.early == [b, c]) := by decide +kernel

/-- A row word whose row a full journal cannot take traps with the row (R157). -/
theorem test_full_journal :
    let s := truss (fun m => { m with strip := some ⟨0xF00, ⟨m.regs, m.loops, m.grant, 0, ⟨0, 0, 0⟩, []⟩, [],
      (List.range 64).map fun r => (r, Row.zero)⟩ })
    let overflow (r : Nat) (i : Instr) : Bool := leaves (exec i s) fun t =>
      t.me.ctl.elem == BitVec.ofNat 64 r && t.me.ctl.cause.toNat % 65536 == Cause.journalOverflow
    overflow 200 (.tmac ⟨0, 200, 1, 3, 0⟩) ∧ overflow 199 (.tacc ⟨0, 199, 1, 0⟩) ∧ overflow 64 (.tzero ⟨0, 63, 2⟩) := by decide +kernel

/-- A code that does not fit the rest of a group stops `zld` as full (R116): 64-bit codes in a register of 8,192 bits. -/
theorem test_full_group_met :
    let k : Coding := ⟨false, 0, 0, #v[2, 4, 6, 8, 12, 16, 24, 64]⟩
    (⟨.pzi, 1, 128, 0, false, .ne, false⟩ : VType).budget 1 < (codeLen k 7) * 128 := by decide

/-- Records without a ring, one that goes into it, where its place can be reached and where it cannot; one that cannot be read from
there. -/
theorem test_rings_met :
    let e (ring : Option Nat) : QEntry := ⟨recordOf false, 0, 2, 0, 0, false, none, ring, none⟩
    let s (pool : Nat) : State := { queued none 0 with
      parts := [(0, { partition0 with pool := (pool, 0), slotsPerUpper := 4 })], queue := [e (some pool)] }
    (∀ x ∈ (queued none 0).queue, x.ring = none) ∧ (queued none 0).queue.length ≤ 64 ∧ (queued none 0).ringSlot (e none) = none ∧
      (s 0x4000).ringSlot (e none) = some (0x4000 + 32 * 4 * 2) ∧ (s 0x4000).MemoryOk ∧
      (match (s 0x4000).hwLoc 0 (0x4000 + 32 * 4 * 2) 32 with
        | .ok _ => true
        | .error _ => false) = true ∧
      (match (s 0x1000000).hwLoc 0 (0x1000000 + 32 * 4 * 2) 32 with
        | .ok _ => false
        | .error _ => true) = true ∧
      (queued none 0).ringFault (e none) = none ∧ (s 0x1000000).ringFault (e (some 0x1000000)) ≠ none := by
  unfold State.MemoryOk
  decide +kernel

/-- A saved context of an ordinary tenant fits its own upper alone; that of a logical core fits any. -/
theorem test_fits_met :
    let x (t : Tenant) : Saved := ⟨3, 0, t, [], Tables.reset, Tables.reset, 0, 0, .hostCancel, 1, 5, none⟩
    (x .ordinary).fits 3 = true ∧ (x .ordinary).fits 4 = false ∧ (x (.logical 0 2)).fits 4 = true := by decide

/-- A save block that can be reached and one that cannot. -/
theorem test_save_blocks_met :
    (match base.hwLoc 0 (0x4000 + 0x80) 64 with
      | .ok _ => true
      | .error _ => false) = true ∧
    (match base.hwLoc 0 (0x1000000 + 0x80) 64 with
      | .ok _ => false
      | .error _ => true) = true := by decide +kernel

/-- The last update of a participant that has ended; what a close folds, in the order of the tags, and where. -/
theorem test_folds :
    let x (idx : Word) (v : Nat) : Update := ⟨some 0x4000, 0, .i32, 0x3000, 0x3000, 0, idx, v, 7⟩
    let r : Round := ⟨base.ctx, 0, 0x2000, .i32, 1, 1, 0, true, 0x8000, 4096, 0, false, [[x 2 5]], [7]⟩
    let s : State := { base with rounds := [(0x4000, r)], holds := [(sliceOf 0x3000, [x 1 3])] }
    (x 1 3).src ∈ r.leaving ∧ s.flying 0x4000 7 = false ∧ s.MemoryOk ∧ (0x3000 : Nat) + 4 ≤ 0x4000 ∧
      (s.roundUpdates 0x4000 r).map (·.1) = [x 1 3, x 2 5] ∧ (∀ u ∈ s.roundUpdates 0x4000 r, u.1.loc % 4 = 0) ∧
      cellsNat (s.closeRound 0x4000 r).mem.cells 0x3000 4 = 8 := by
  unfold State.MemoryOk
  decide +kernel

/-- A device that has told its plan and heard the others, one that has not; a plan that can be told. -/
theorem test_plans_met :
    let x := collX 1 0x5000
    let y : Coll := { x with mine := x.mine.map fun m => (m.1, { m.2.1 with formed := [(3, [])] }, m.2.2) }
    x.told = false ∧ y.told = true ∧ y.hears = true ∧ (collX 2 0x5000).hears = false ∧
      (collective 2 0x5000).reaches (collX 2 0x5000) 0 3 = true ∧ (commands id).reaches (collX 2 0x5000) 0 3 = false ∧
      (collX 2 0x5000).g.peers 0 0 ≠ [] ∧
      ((collective 2 0x5000).announce (collX 2 0x5000)).dev.sent.map (·.level) = [3] := by decide +kernel

/-- Requests 3 to 5 in order, and 7 beyond a gap (R347). -/
theorem test_gaps :
    let h (n : Nat) : Held := ⟨n, header false n, .readSensors, 10 * n, none⟩
    let x : Session := ⟨false, 1, 9, 3, [], [], none⟩
    missingFrom 3 [h 3, h 4, h 5, h 7] = 6 ∧ (x.holding [h 3, h 4, h 5]).gapSince = none ∧
      (x.holding [h 3, h 4, h 5, h 7]).gapSince = some 70 ∧
      [h 3, h 4, h 5, h 7].Pairwise (fun x y => x.num < y.num) ∧ ∀ y ∈ [h 3, h 4, h 5, h 7], 3 ≤ y.num := by decide

/-- A store that the others do not see yet is the sequencer's own at once, and theirs once it is seen; a release does not leave it behind
(R16, R258). -/
theorem test_unseen_store :
    let loc := Config.pagePool + 0x2000
    let s := filled [(0x1000, 4, (encodeWord (.std ⟨0, 1, 2, 0⟩)).getD 0)] (machine (scalars [(1, 0x2000), (2, 77)]))
    let t := s.holdTurn
    t.me.pc = 0x1004 ∧ t.byte loc = 0 ∧ t.me.unseen.length = 1 ∧ t.viewByte loc = 77 ∧ (t.landNth 0 0).byte loc = 77 ∧
      (t.landNth 0 0).me.unseen = [] ∧ (t.before (.fenceRel ⟨0, 1⟩)).byte loc = 77 ∧
      (t.before (.fenceAcq ⟨0, 1⟩)).byte loc = 0 ∧ (t.before (.ldd ⟨0, 3, 1, 0⟩)).me.unseen = [] := by decide +kernel

/-- A load performed ahead takes its bytes before another party's write; an acquire whose scope holds that party makes it void, and one
in a smaller scope does not (R254, R258). -/
theorem test_scoped_acquire :
    let loc := Config.pagePool + 0x2000
    let s := (machine (scalars [(1, 0x2000)])).loadAhead 0 loc 8 0
    let t := s.pokeAs 8 loc 8 5
    let core (i : Instr) : Bool := leaves (exec (.ldd ⟨0, 2, 1, 0⟩) (t.before i)) (fun u => u.sreg 2 == 0)
    core (.fenceAcq ⟨0, 1⟩) = true ∧ core (.fenceAcq ⟨0, 2⟩) = false ∧ core (.fenceAcq ⟨0, 0⟩) = true := by decide +kernel

end Sys2Proof.Tests
end

/-!
Proofs. Scalar words of chapter 4: what a ready word does, by the shape of its meaning, and the three statements about
the corners of division (R79), the immediates (R81) and the cache-line hints (R85).
-/

namespace Sys2Proof.Machine

/-! ### What a ready word does, by the shape of its meaning -/

theorem write3_ready {s : State} {i : Instr} (h : s.Ready i) (f : R3) (op : Word → Word → Word) :
    write3 i f op s = .next ((s.due.setS f.d (op (s.sreg f.a) (s.sreg f.b))).retire i .seq) :=
  run_ready h _

theorem writeI_ready {s : State} {i : Instr} (h : s.Ready i) (f : ImmI) (op : Word → Word → Word) :
    writeI i f op s = .next ((s.due.setS f.d (op (s.sreg f.a) (f.imm.signExtend 64))).retire i .seq) :=
  run_ready h _

@[simp] theorem conclude_done (s t : State) (i : Instr) (f : Flow) : conclude s i (.done f t) = t.retire i f := rfl

/-- A trap with a cause of R283 is taken; only an access that is held (R301) waits instead. -/
theorem conclude_trap {x : Trap} (hx : x.cause ≠ Cause.held) (s t : State) (i : Instr) :
    conclude s i (.trap x t) = t.trapped i x :=
  State.stopWord_trap hx _

/-! ### The arms of the dispatch -/

theorem exec_div (f : R3) (s : State) : exec (.div f) s = write3 (.div f) f divS s := rfl
theorem exec_divn (f : R3) (s : State) : exec (.divn f) s = write3 (.divn f) f divU s := rfl
theorem exec_rem (f : R3) (s : State) : exec (.rem f) s = write3 (.rem f) f remS s := rfl
theorem exec_remn (f : R3) (s : State) : exec (.remn f) s = write3 (.remn f) f remU s := rfl

theorem exec_addi (f : ImmI) (s : State) : exec (.addi f) s = writeI (.addi f) f (· + ·) s := rfl
theorem exec_andi (f : ImmI) (s : State) : exec (.andi f) s = writeI (.andi f) f (· &&& ·) s := rfl
theorem exec_ori (f : ImmI) (s : State) : exec (.ori f) s = writeI (.ori f) f (· ||| ·) s := rfl
theorem exec_xori (f : ImmI) (s : State) : exec (.xori f) s = writeI (.xori f) f (· ^^^ ·) s := rfl

theorem exec_pref_ready {s : State} {f : Pair} (h : s.Ready (.pref f)) :
    exec (.pref f) s = .next (s.due.retire (.pref f) .seq) :=
  run_ready h _

/-- The body of `cwb` is the range check of R83 and nothing else. -/
theorem exec_cwb_ready {s : State} {f : Pair} (h : s.Ready (.cwb f)) :
    exec (.cwb f) s = .next (conclude s.due (.cwb f)
      (if 2 ^ 57 ≤ (s.sreg f.a + s.sreg f.b).toNat then
        .trap ⟨Cause.addressRange, 0, 8 * (s.sreg f.a + s.sreg f.b).toNat, none⟩ s.due
      else .done .seq s.due)) :=
  run_ready h _

/-! ### The corners of division (R79) -/

theorem divS_zero (a : Word) : divS a 0 = -1 := BitVec.neg_one_eq_allOnes.symm
theorem divU_zero (a : Word) : divU a 0 = 18446744073709551615 := rfl
theorem remS_zero (a : Word) : remS a 0 = a := rfl
theorem remU_zero (a : Word) : remU a 0 = a := rfl

/-- The one signed quotient that does not fit: 2^63 wraps to -2^63. -/
theorem divS_overflow : divS 0x8000000000000000 (-1) = 0x8000000000000000 := by decide
theorem remS_overflow : remS 0x8000000000000000 (-1) = 0 := by decide

/-- Settles O3: each word writes what its operation gives, and the operation is evaluated at the corner. -/
theorem divisionCorners : Obligations.DivisionCorners := by
  intro s f
  refine ⟨fun hb => ⟨fun h => ?div, fun h => ?divn, fun h => ?rem, fun h => ?remn⟩,
    fun ⟨ha, hb⟩ => ⟨fun h => ?divOverflow, fun h => ?remOverflow⟩⟩
  case div => rw [exec_div, write3_ready h, hb, divS_zero]
  case divn => rw [exec_divn, write3_ready h, hb, divU_zero]
  case rem => rw [exec_rem, write3_ready h, hb, remS_zero]
  case remn => rw [exec_remn, write3_ready h, hb, remU_zero]
  case divOverflow => rw [exec_div, write3_ready h, ha, hb, divS_overflow]
  case remOverflow => rw [exec_rem, write3_ready h, ha, hb, remS_overflow]

/-! ### The immediates (R81) -/

/-- Settles O5: the four words have one shape, `writeI`, with the operation of the word. -/
theorem immediates : Obligations.Immediates := by
  intro s f
  refine ⟨fun h => ?addi, fun h => ?andi, fun h => ?ori, fun h => ?xori⟩
  case addi => rw [exec_addi, writeI_ready h]
  case andi => rw [exec_andi, writeI_ready h]
  case ori => rw [exec_ori, writeI_ready h]
  case xori => rw [exec_xori, writeI_ready h]

/-! ### The cache-line hints (R85) -/

theorem SameMachine.sameBytes {s t : State} (h : SameMachine s t) : SameBytes s t := fun a => by
  rw [State.byte, State.byte, h.mem]

/-- Settles O12: `pref` has no check of its own, `cwb` the range check alone, and retiring a word leaves memory alone. -/
theorem cacheHints : Obligations.CacheHints := by
  intro s f
  refine ⟨exec_pref_ready, fun h hlow => ?inRange, fun h hhigh => ?beyond,
    fun i f' => (SameMachine.retire s.due i f').sameBytes⟩
  case inRange => rw [exec_cwb_ready h, if_neg (Nat.not_le.mpr hlow), conclude_done]
  case beyond => rw [exec_cwb_ready h, if_pos hhigh, conclude_trap (show Cause.addressRange ≠ Cause.held by decide)]

end Sys2Proof.Machine

/-!
Decoding and encoding agree (O57). A word is read back from its fields: each operand bundle puts into a word what it gets from
one, so that a decoder which answers an instruction has read that instruction's own word.
-/

namespace Sys2Proof

set_option Elab.async false

/-! ### What a bundle gets from a word, it puts there again -/

section

variable {x maj fn : Nat}

/-- A function value of five bits with an empty mask field is one of eight bits. -/
theorem fn8_of_fn5 (hz : zMask x = true) : fn8 x = fn5 x := by
  simp only [zMask, beq_iff_eq, fn8, fn5] at *
  omega

theorem R3.put_get (hx : x < 4294967296) (hm : fMajor x = maj) (hf : fn8 x = fn) : R3.put maj fn (R3.get x) = x := by
  simp only [R3.put, R3.get, wordHead, fW, f22, f17, f12, fMajor, fn8] at *
  omega

theorem R2.put_get (hx : x < 4294967296) (hm : fMajor x = maj) (hf : fn8 x = fn) (hb : zB x = true) :
    R2.put maj fn (R2.get x) = x := by
  simp only [R2.put, R2.get, wordHead, fW, f22, f17, fMajor, fn8, zB, beq_iff_eq] at *
  omega

theorem Pair.put_get (hx : x < 4294967296) (hm : fMajor x = maj) (hf : fn8 x = fn) (hd : zD x = true) :
    Pair.put maj fn (Pair.get x) = x := by
  simp only [Pair.put, Pair.get, wordHead, fW, f17, f12, fMajor, fn8, zD, beq_iff_eq] at *
  omega

theorem Dst.put_get (hx : x < 4294967296) (hm : fMajor x = maj) (hf : fn8 x = fn) (hz : (zA x && zB x) = true) :
    Dst.put maj fn (Dst.get x) = x := by
  simp only [Dst.put, Dst.get, wordHead, fW, f22, fMajor, fn8, zA, zB, Bool.and_eq_true, beq_iff_eq] at *
  omega

theorem DstB.put_get (hx : x < 4294967296) (hm : fMajor x = maj) (hf : fn8 x = fn) (ha : zA x = true) :
    DstB.put maj fn (DstB.get x) = x := by
  simp only [DstB.put, DstB.get, wordHead, fW, f22, f12, fMajor, fn8, zA, beq_iff_eq] at *
  omega

theorem Bare.put_get (hx : x < 4294967296) (hm : fMajor x = maj) (hf : fn8 x = fn) (hz : (zD x && zA x && zB x) = true) : Bare.put maj fn (Bare.get x) = x := by
  simp only [Bare.put, Bare.get, wordHead, fW, fMajor, fn8, zD, zA, zB, Bool.and_eq_true, beq_iff_eq] at *
  omega

/-- The bare words of majors 0x1D to 0x1F, whose function value has 13 bits. -/
theorem Bare.put_get_sel (hx : x < 4294967296) (hm : fMajor x = maj) (hf : fSel x = fn) (hz : zDA x = true) :
    Bare.put maj fn (Bare.get x) = x := by
  simp only [Bare.put, Bare.get, wordHead, fW, fMajor, fSel, zDA, beq_iff_eq] at *
  omega

/-- The low bit of the function value is bit 5 of the amount (R77). -/
theorem Shift.put_get (hx : x < 4294967296) (hm : fMajor x = maj) (hf : fn8 x / 2 * 2 = fn) :
    Shift.put maj fn (Shift.get x) = x := by
  have hq : (x % 2 * 32 + x / 256 % 32) / 32 = x % 2 := by omega
  have hr : (x % 2 * 32 + x / 256 % 32) % 32 = x / 256 % 32 := by omega
  simp only [Shift.put, Shift.get, hq, hr, wordHead, fW, f22, f17, fMajor, fn8] at *
  omega

theorem ImmI.put_get (hx : x < 4294967296) (hm : fMajor x = maj) : ImmI.put maj (ImmI.get x) = x := by
  simp only [ImmI.put, ImmI.get, wordHead, fW, f22, f17, fImm13, fMajor, BitVec.toNat_ofNat] at *
  omega

theorem ImmJ.put_get (hx : x < 4294967296) (hm : fMajor x = maj) : ImmJ.put maj (ImmJ.get x) = x := by
  simp only [ImmJ.put, ImmJ.get, wordHead, fW, f22, fImm18, fMajor, BitVec.toNat_ofNat] at *
  omega

theorem ImmB.put_get (hx : x < 4294967296) (hm : fMajor x = maj) : ImmB.put maj (ImmB.get x) = x := by
  simp only [ImmB.put, ImmB.get, wordHead, fW, f22, f17, fImm13, fMajor, BitVec.toNat_ofNat] at *
  omega

theorem LoopR.put_get (hx : x < 4294967296) (hm : fMajor x = maj) (hd : zD x = true) : LoopR.put maj (LoopR.get x) = x := by
  simp only [LoopR.put, LoopR.get, wordHead, fW, f17, fImm13, fMajor, BitVec.toNat_ofNat, zD, beq_iff_eq] at *
  omega

theorem LoopI.put_get (hx : x < 4294967296) (hm : fMajor x = maj) : LoopI.put maj (LoopI.get x) = x := by
  simp only [LoopI.put, LoopI.get, wordHead, fW, fImm13, fMajor, BitVec.toNat_ofNat] at *
  omega

theorem Grant.put_get (hx : x < 4294967296) (hm : fMajor x = maj) (hf : x / 8192 % 32 = fn) :
    Grant.put maj fn (Grant.get x) = x := by
  simp only [Grant.put, Grant.get, wordHead, fW, f22, fImm13, fMajor, BitVec.toNat_ofNat] at *
  omega

theorem CtlR.put_get (hx : x < 4294967296) (hm : fMajor x = maj) (hf : x / 2048 % 4 = fn) (ha : zA x = true) :
    CtlR.put maj fn (CtlR.get x) = x := by
  simp only [CtlR.put, CtlR.get, wordHead, fW, f22, fCtl, fMajor, zA, beq_iff_eq] at *
  omega

theorem CtlW.put_get (hx : x < 4294967296) (hm : fMajor x = maj) (hf : x / 2048 % 4 = fn) :
    CtlW.put maj fn (CtlW.get x) = x := by
  simp only [CtlW.put, CtlW.get, wordHead, fW, f22, f17, fCtl, fMajor] at *
  omega

theorem TrapK.put_get (hx : x < 4294967296) (hm : fMajor x = maj) (hf : fSel x / 256 * 256 = fn) (hz : zDA x = true) :
    TrapK.put maj fn (TrapK.get x) = x := by
  have hlow : x % 256 = x % 8192 % 256 := by omega
  have hsel : fSel x = fn + x % 256 := by
    rw [hlow, ← hf, fSel]
    omega
  simp only [TrapK.put, TrapK.get, wordHead, fW, fMajor, fSel, zDA, beq_iff_eq] at *
  clear hf hlow
  omega

theorem V3.put_get (hx : x < 4294967296) (hm : fMajor x = maj) (hf : fn5 x = fn) : V3.put maj fn (V3.get x) = x := by
  simp only [V3.put, V3.get, wordHead, fW, f22, f17, f12, fMask, fMajor, fn5] at *
  omega

theorem V2.put_get (hx : x < 4294967296) (hm : fMajor x = maj) (hf : fn5 x = fn) (hb : zB x = true) :
    V2.put maj fn (V2.get x) = x := by
  simp only [V2.put, V2.get, wordHead, fW, f22, f17, fMask, fMajor, fn5, zB, beq_iff_eq] at *
  omega

theorem VB.put_get (hx : x < 4294967296) (hm : fMajor x = maj) (hf : fn5 x = fn) (ha : zA x = true) :
    VB.put maj fn (VB.get x) = x := by
  simp only [VB.put, VB.get, wordHead, fW, f22, f12, fMask, fMajor, fn5, zA, beq_iff_eq] at *
  omega

theorem V1.put_get (hx : x < 4294967296) (hm : fMajor x = maj) (hf : fn5 x = fn) (hz : (zA x && zB x) = true) :
    V1.put maj fn (V1.get x) = x := by
  simp only [V1.put, V1.get, wordHead, fW, f22, fMask, fMajor, fn5, zA, zB, Bool.and_eq_true, beq_iff_eq] at *
  omega

theorem fRow_low : (fRow x).val % 32 = x / 262144 % 32 := by
  simp only [fRow, fRowHi, fRowLo]
  omega

theorem fRow_high : (fRow x).val / 32 = x / 256 % 8 := by
  simp only [fRow, fRowHi, fRowLo]
  omega

theorem TMac.put_get (hx : x < 4294967296) (hm : fMajor x = maj) (hf : fn5 x = fn) : TMac.put maj fn (TMac.get x) = x := by
  simp only [TMac.put, TMac.get, fRow_low, fRow_high, wordHead, fW, f17, fSlot, fMask, fMajor, fn5] at *
  omega

theorem TRow.put_get (hx : x < 4294967296) (hm : fMajor x = maj) (hf : fn5 x = fn) (hs : zSlot x = true) :
    TRow.put maj fn (TRow.get x) = x := by
  simp only [TRow.put, TRow.get, fRow_low, fRow_high, wordHead, fW, f17, fMask, fMajor, fn5, zSlot, beq_iff_eq] at *
  omega

theorem TRng.put_get (hx : x < 4294967296) (hm : fMajor x = maj) (hf : fn5 x = fn) (hz : (zSlot x && zMask x) = true) : TRng.put maj fn (TRng.get x) = x := by
  simp only [TRng.put, TRng.get, fRow_low, fRow_high, wordHead, fW, f17, fMajor, fn5, zSlot, zMask, Bool.and_eq_true, beq_iff_eq] at *
  omega

theorem TLd.put_get (hx : x < 4294967296) (hm : fMajor x = maj) (hf : fn5 x = fn) (hz : (zD x && zHi x && zMask x) = true) : TLd.put maj fn (TLd.get x) = x := by
  simp only [TLd.put, TLd.get, wordHead, fW, f17, fSlot, fMajor, fn5, zD, zHi, zMask, Bool.and_eq_true, beq_iff_eq] at *
  omega

theorem Amo.put_get (hx : x < 4294967296) (hm : fMajor x = maj) (h7 : ¬x / 128 % 2 = 1) (hf : x % 16 = fn) :
    Amo.put maj fn (Amo.get x) = x := by
  have h0 : x / 128 % 2 = 0 := by omega
  clear h7
  simp only [Amo.put, Amo.get, wordHead, fW, f22, f17, f12]
  unfold fMajor at hm
  rcases Nat.mod_two_eq_zero_or_one (x / 16) with h | h
  · simp only [h, Nat.reduceBEq, Bool.false_eq_true, if_false]
    omega
  · simp only [h, Nat.reduceBEq, if_true]
    omega

theorem FenceF.put_get (hx : x < 4294967296) (hm : fMajor x = maj) (hf : fn8 x / 8 * 8 = fn) (hz : (zD x && zA x && zB x) = true) : FenceF.put maj fn (FenceF.get x) = x := by
  simp only [FenceF.put, FenceF.get, wordHead, fW, fMajor, fn8, zD, zA, zB, Bool.and_eq_true, beq_iff_eq] at *
  omega

theorem Eng.put_get (hx : x < 4294967296) (hm : fMajor x = maj) (hf : fn5 x = fn) : Eng.put maj fn (Eng.get x) = x := by
  simp only [Eng.put, Eng.get, wordHead, fW, f22, f17, f12, fMask, fMajor, fn5] at *
  omega

theorem R3.put_get_masked (hx : x < 4294967296) (hm : fMajor x = maj) (hf : fn5 x = fn) (hz : zMask x = true) :
    R3.put maj fn (R3.get x) = x :=
  R3.put_get hx hm ((fn8_of_fn5 hz).trans hf)

theorem R2.put_get_masked (hx : x < 4294967296) (hm : fMajor x = maj) (hf : fn5 x = fn) (hz : (zB x && zMask x) = true) :
    R2.put maj fn (R2.get x) = x :=
  have ⟨hb, hk⟩ := Bool.and_eq_true_iff.mp hz
  R2.put_get hx hm ((fn8_of_fn5 hk).trans hf) hb

theorem Pair.put_get_masked (hx : x < 4294967296) (hm : fMajor x = maj) (hf : fn5 x = fn) (hz : (zD x && zMask x) = true) :
    Pair.put maj fn (Pair.get x) = x :=
  have ⟨hd, hk⟩ := Bool.and_eq_true_iff.mp hz
  Pair.put_get hx hm ((fn8_of_fn5 hk).trans hf) hd

theorem Dst.put_get_masked (hx : x < 4294967296) (hm : fMajor x = maj) (hf : fn5 x = fn)
    (hz : (zA x && zB x && zMask x) = true) : Dst.put maj fn (Dst.get x) = x :=
  have ⟨hab, hk⟩ := Bool.and_eq_true_iff.mp hz
  Dst.put_get hx hm ((fn8_of_fn5 hk).trans hf) hab

theorem DstB.put_get_masked (hx : x < 4294967296) (hm : fMajor x = maj) (hf : fn5 x = fn) (hz : (zA x && zMask x) = true) :
    DstB.put maj fn (DstB.get x) = x :=
  have ⟨ha, hk⟩ := Bool.and_eq_true_iff.mp hz
  DstB.put_get hx hm ((fn8_of_fn5 hk).trans hf) ha

end

/-! ### A decoder reads an instruction from its own word -/

/-- What a decoder answers for the word x is x's own instruction, or none. -/
def ReadsOwn (x : Nat) (r : Except Reject Instr) : Prop := ∀ i, r = .ok i → encodeWord i = some x

theorem ReadsOwn.error {x : Nat} {e : Reject} : ReadsOwn x (.error e) := nofun

theorem ReadsOwn.word {x w : Nat} {i : Instr} (h : encodeWord i = some w) (hw : w = x) : ReadsOwn x (.ok i) := by
  intro j hj
  rw [← Except.ok.inj hj, h, hw]

theorem ReadsOwn.unused {x w : Nat} {c : Bool} {i : Instr} (h : encodeWord i = some w) (hw : c = true → w = x) :
    ReadsOwn x (unusedZero c i) := by
  cases c with
  | false => exact .error
  | true => exact .word h (hw rfl)

section

variable {x : Nat} (hx : x < 4294967296)

include hx

theorem readsOwn_decode01 (hm : fMajor x = 0x01) : ReadsOwn x (decode01 x) := by
  unfold decode01
  split
  iterate 22 · exact .word rfl (R3.put_get hx hm ‹_›)
  iterate 8 · exact .word rfl (Shift.put_get hx hm (by simp [‹fn8 x = _›]))
  · exact .error

theorem readsOwn_decode02 (hm : fMajor x = 0x02) : ReadsOwn x (decode02 x) := by
  unfold decode02
  split
  all_goals first
    | exact .word rfl (R3.put_get hx hm ‹_›)
    | exact .unused rfl (R2.put_get hx hm ‹_›)
    | exact .error

theorem readsOwn_decode08 (hm : fMajor x = 0x08) : ReadsOwn x (decode08 x) := by
  unfold decode08
  split
  all_goals first
    | exact .word rfl (R3.put_get hx hm ‹_›)
    | exact .error

theorem readsOwn_decode09 (hm : fMajor x = 0x09) : ReadsOwn x (decode09 x) := by
  unfold decode09
  split
  all_goals first
    | exact .word rfl (R3.put_get hx hm ‹_›)
    | exact .unused rfl (Pair.put_get hx hm ‹_›)
    | exact .error

theorem readsOwn_decode0F (hm : fMajor x = 0x0F) : ReadsOwn x (decode0F x) := by
  unfold decode0F
  split
  all_goals first
    | exact .unused rfl (R2.put_get hx hm ‹_›)
    | exact .word rfl (R3.put_get hx hm ‹_›)
    | exact .unused rfl (Pair.put_get hx hm ‹_›)
    | exact .error

theorem readsOwn_decode17 (hm : fMajor x = 0x17) : ReadsOwn x (decode17 x) := by
  unfold decode17
  split
  all_goals first
    | exact .unused rfl (R2.put_get hx hm ‹_›)
    | exact .unused rfl (Dst.put_get hx hm ‹_›)
    | exact .error

theorem readsOwn_decode1A (hm : fMajor x = 0x1A) : ReadsOwn x (decode1A x) := by
  unfold decode1A
  split
  all_goals first
    | exact .unused rfl (Bare.put_get hx hm ‹_›)
    | exact .unused rfl (Dst.put_get hx hm ‹_›)
    | exact .error

theorem readsOwn_decode1B (hm : fMajor x = 0x1B) : ReadsOwn x (decode1B x) := by
  unfold decode1B
  split
  all_goals first
    | exact .word rfl (Grant.put_get hx hm ‹_›)
    | exact .error

theorem readsOwn_decode1C (hm : fMajor x = 0x1C) : ReadsOwn x (decode1C x) := by
  unfold decode1C
  split
  · exact .unused rfl (CtlR.put_get hx hm ‹_›)
  · exact .word rfl (CtlW.put_get hx hm ‹_›)
  · exact .word rfl (CtlW.put_get hx hm ‹_›)
  · exact .word rfl (CtlW.put_get hx hm (show x / 2048 % 4 = 3 by grind))

theorem readsOwn_decode1D (hm : fMajor x = 0x1D) : ReadsOwn x (decode1D x) := by
  unfold decode1D
  split
  · exact .unused rfl (Bare.put_get_sel hx hm ‹_›)
  · split
    · exact .unused rfl (TrapK.put_get hx hm (by omega))
    · exact .error

theorem readsOwn_decode1E (hm : fMajor x = 0x1E) : ReadsOwn x (decode1E x) := by
  unfold decode1E
  split
  all_goals first
    | exact .unused rfl (Bare.put_get_sel hx hm ‹_›)
    | exact .error

theorem readsOwn_decode1F (hm : fMajor x = 0x1F) : ReadsOwn x (decode1F x) := by
  unfold decode1F
  split
  all_goals first
    | exact .unused rfl (Bare.put_get_sel hx hm ‹_›)
    | exact .error

theorem readsOwn_decode20 (hm : fMajor x = 0x20) : ReadsOwn x (decode20 x) := by
  unfold decode20
  split
  all_goals first
    | exact .unused rfl (R2.put_get hx hm ‹_›)
    | exact .word rfl (R3.put_get hx hm ‹_›)
    | exact .unused rfl (Bare.put_get hx hm ‹_›)
    | exact .error

theorem readsOwn_decode21 (hm : fMajor x = 0x21) : ReadsOwn x (decode21 x) := by
  unfold decode21
  split
  all_goals first
    | exact .word rfl (R3.put_get hx hm ‹_›)
    | exact .unused rfl (Bare.put_get hx hm ‹_›)
    | exact .error

theorem readsOwn_decode22 (hm : fMajor x = 0x22) : ReadsOwn x (decode22 x) := by
  unfold decode22
  split
  all_goals first
    | exact .unused rfl (R3.put_get_masked hx hm ‹_›)
    | exact .unused rfl (R2.put_get_masked hx hm ‹_›)
    | exact .error

theorem readsOwn_decode23 (hm : fMajor x = 0x23) : ReadsOwn x (decode23 x) := by
  unfold decode23
  split
  all_goals first
    | exact .unused rfl (V2.put_get hx hm ‹_›)
    | exact .word rfl (V3.put_get hx hm ‹_›)
    | exact .error

theorem readsOwn_decode24 (hm : fMajor x = 0x24) : ReadsOwn x (decode24 x) := by
  unfold decode24
  split
  all_goals first
    | exact .word rfl (V3.put_get hx hm ‹_›)
    | exact .error

theorem readsOwn_decode25 (hm : fMajor x = 0x25) : ReadsOwn x (decode25 x) := by
  unfold decode25
  split
  all_goals first
    | exact .unused rfl (V2.put_get hx hm ‹_›)
    | exact .word rfl (V3.put_get hx hm ‹_›)
    | exact .error

theorem readsOwn_decode26 (hm : fMajor x = 0x26) : ReadsOwn x (decode26 x) := by
  unfold decode26
  split
  all_goals first
    | exact .word rfl (V3.put_get hx hm ‹_›)
    | exact .error

theorem readsOwn_decode27 (hm : fMajor x = 0x27) : ReadsOwn x (decode27 x) := by
  unfold decode27
  split
  all_goals first
    | exact .unused rfl (V2.put_get hx hm ‹_›)
    | exact .word rfl (V3.put_get hx hm ‹_›)
    | exact .unused rfl (VB.put_get hx hm ‹_›)
    | exact .unused rfl (V1.put_get hx hm ‹_›)
    | exact .error

theorem readsOwn_decode28 (hm : fMajor x = 0x28) : ReadsOwn x (decode28 x) := by
  unfold decode28
  split
  all_goals first
    | exact .word rfl (V3.put_get hx hm ‹_›)
    | exact .error

theorem readsOwn_decode29 (hm : fMajor x = 0x29) : ReadsOwn x (decode29 x) := by
  unfold decode29
  split
  all_goals first
    | exact .word rfl (V3.put_get hx hm ‹_›)
    | exact .error

theorem readsOwn_decode2A (hm : fMajor x = 0x2A) : ReadsOwn x (decode2A x) := by
  unfold decode2A
  split
  all_goals first
    | exact .word rfl (V3.put_get hx hm ‹_›)
    | exact .unused rfl (R2.put_get_masked hx hm ‹_›)
    | exact .error

theorem readsOwn_decode2B (hm : fMajor x = 0x2B) : ReadsOwn x (decode2B x) := by
  unfold decode2B
  split
  all_goals first
    | exact .word rfl (V3.put_get hx hm ‹_›)
    | exact .unused rfl (V2.put_get hx hm ‹_›)
    | exact .error

theorem readsOwn_decode2C (hm : fMajor x = 0x2C) : ReadsOwn x (decode2C x) := by
  unfold decode2C
  split
  all_goals first
    | exact .word rfl (V3.put_get hx hm ‹_›)
    | exact .error

theorem readsOwn_decode2D (hm : fMajor x = 0x2D) : ReadsOwn x (decode2D x) := by
  unfold decode2D
  split
  all_goals first
    | exact .unused rfl (R3.put_get_masked hx hm ‹_›)
    | exact .unused rfl (R2.put_get_masked hx hm ‹_›)
    | exact .error

theorem readsOwn_decode2E (hm : fMajor x = 0x2E) : ReadsOwn x (decode2E x) := by
  unfold decode2E
  split
  all_goals first
    | exact .word rfl (TMac.put_get hx hm ‹_›)
    | exact .unused rfl (TRow.put_get hx hm ‹_›)
    | exact .error

theorem readsOwn_decode2F (hm : fMajor x = 0x2F) : ReadsOwn x (decode2F x) := by
  unfold decode2F
  split
  all_goals first
    | exact .unused rfl (TRow.put_get hx hm ‹_›)
    | exact .unused rfl (TRng.put_get hx hm ‹_›)
    | exact .error

theorem readsOwn_decode30 (hm : fMajor x = 0x30) : ReadsOwn x (decode30 x) := by
  unfold decode30
  split
  all_goals first
    | exact .unused rfl (TLd.put_get hx hm ‹_›)
    | exact .error

theorem readsOwn_decode31 (hm : fMajor x = 0x31) : ReadsOwn x (decode31 x) := by
  unfold decode31
  split
  all_goals first
    | exact .unused rfl (Pair.put_get_masked hx hm ‹_›)
    | exact .unused rfl (Dst.put_get_masked hx hm ‹_›)
    | exact .unused rfl (DstB.put_get_masked hx hm ‹_›)
    | exact .unused rfl (R2.put_get_masked hx hm ‹_›)
    | exact .error

theorem readsOwn_decode32 (hm : fMajor x = 0x32) : ReadsOwn x (decode32 x) := by
  unfold decode32
  split
  all_goals first
    | exact .word rfl (R3.put_get hx hm ‹_›)
    | exact .error

theorem readsOwn_decode33 (hm : fMajor x = 0x33) : ReadsOwn x (decode33 x) := by
  unfold decode33
  split
  all_goals first
    | exact .word rfl (R3.put_get hx hm ‹_›)
    | exact .unused rfl (Pair.put_get hx hm ‹_›)
    | exact .unused rfl (R2.put_get hx hm ‹_›)
    | exact .error

theorem readsOwn_decode34 (hm : fMajor x = 0x34) : ReadsOwn x (decode34 x) := by
  unfold decode34
  split
  all_goals first
    | exact .word rfl (R3.put_get hx hm ‹_›)
    | exact .error

theorem readsOwn_decode35 (hm : fMajor x = 0x35) : ReadsOwn x (decode35 x) := by
  unfold decode35
  split
  all_goals first
    | exact .word rfl (R3.put_get hx hm ‹_›)
    | exact .error

theorem readsOwn_decode36 (hm : fMajor x = 0x36) : ReadsOwn x (decode36 x) := by
  unfold decode36
  split
  · exact .error
  · split
    all_goals first
      | exact .word rfl (Amo.put_get hx hm ‹_› ‹_›)
      | exact .error

theorem readsOwn_decode37 (hm : fMajor x = 0x37) : ReadsOwn x (decode37 x) := by
  unfold decode37
  split
  all_goals first
    | exact .unused rfl (Pair.put_get hx hm ‹_›)
    | exact .word rfl (R3.put_get hx hm ‹_›)
    | exact .unused rfl (R2.put_get hx hm ‹_›)
    | exact .unused rfl (FenceF.put_get hx hm (by simp [‹fn8 x = _›]))
    | exact .error

theorem readsOwn_decode38 (hm : fMajor x = 0x38) : ReadsOwn x (decode38 x) := by
  unfold decode38
  split
  all_goals first
    | exact .word rfl (Eng.put_get hx hm ‹_›)
    | exact .error

theorem readsOwn_decode39 (hm : fMajor x = 0x39) : ReadsOwn x (decode39 x) := by
  unfold decode39
  split
  all_goals first
    | exact .word rfl (R3.put_get hx hm ‹_›)
    | exact .error

theorem readsOwn_decode3A (hm : fMajor x = 0x3A) : ReadsOwn x (decode3A x) := by
  unfold decode3A
  split
  all_goals first
    | exact .word rfl (Eng.put_get hx hm ‹_›)
    | exact .unused rfl (R2.put_get_masked hx hm ‹_›)
    | exact .error

theorem readsOwn_decodeWord : ReadsOwn x (decodeWord x) := by
  unfold decodeWord
  split
  · exact .error
  · split
    · exact readsOwn_decode01 hx ‹_›
    · exact readsOwn_decode02 hx ‹_›
    · exact .word rfl (ImmI.put_get hx ‹_›)
    · exact .word rfl (ImmI.put_get hx ‹_›)
    · exact .word rfl (ImmI.put_get hx ‹_›)
    · exact .word rfl (ImmI.put_get hx ‹_›)
    · exact .word rfl (ImmJ.put_get hx ‹_›)
    · exact readsOwn_decode08 hx ‹_›
    · exact readsOwn_decode09 hx ‹_›
    · exact .word rfl (ImmI.put_get hx ‹_›)
    · exact .word rfl (ImmI.put_get hx ‹_›)
    · exact .word rfl (ImmI.put_get hx ‹_›)
    · exact .word rfl (ImmB.put_get hx ‹_›)
    · exact .word rfl (ImmB.put_get hx ‹_›)
    · exact readsOwn_decode0F hx ‹_›
    · exact .word rfl (ImmB.put_get hx ‹_›)
    · exact .word rfl (ImmB.put_get hx ‹_›)
    · exact .word rfl (ImmB.put_get hx ‹_›)
    · exact .word rfl (ImmB.put_get hx ‹_›)
    · exact .word rfl (ImmB.put_get hx ‹_›)
    · exact .word rfl (ImmB.put_get hx ‹_›)
    · exact .word rfl (ImmJ.put_get hx ‹_›)
    · exact readsOwn_decode17 hx ‹_›
    · exact .unused rfl (LoopR.put_get hx ‹_›)
    · exact .word rfl (LoopI.put_get hx ‹_›)
    · exact readsOwn_decode1A hx ‹_›
    · exact readsOwn_decode1B hx ‹_›
    · exact readsOwn_decode1C hx ‹_›
    · exact readsOwn_decode1D hx ‹_›
    · exact readsOwn_decode1E hx ‹_›
    · exact readsOwn_decode1F hx ‹_›
    · exact readsOwn_decode20 hx ‹_›
    · exact readsOwn_decode21 hx ‹_›
    · exact readsOwn_decode22 hx ‹_›
    · exact readsOwn_decode23 hx ‹_›
    · exact readsOwn_decode24 hx ‹_›
    · exact readsOwn_decode25 hx ‹_›
    · exact readsOwn_decode26 hx ‹_›
    · exact readsOwn_decode27 hx ‹_›
    · exact readsOwn_decode28 hx ‹_›
    · exact readsOwn_decode29 hx ‹_›
    · exact readsOwn_decode2A hx ‹_›
    · exact readsOwn_decode2B hx ‹_›
    · exact readsOwn_decode2C hx ‹_›
    · exact readsOwn_decode2D hx ‹_›
    · exact readsOwn_decode2E hx ‹_›
    · exact readsOwn_decode2F hx ‹_›
    · exact readsOwn_decode30 hx ‹_›
    · exact readsOwn_decode31 hx ‹_›
    · exact readsOwn_decode32 hx ‹_›
    · exact readsOwn_decode33 hx ‹_›
    · exact readsOwn_decode34 hx ‹_›
    · exact readsOwn_decode35 hx ‹_›
    · exact readsOwn_decode36 hx ‹_›
    · exact readsOwn_decode37 hx ‹_›
    · exact readsOwn_decode38 hx ‹_›
    · exact readsOwn_decode39 hx ‹_›
    · exact readsOwn_decode3A hx ‹_›
    · exact .error

end

/-! ### A word has 32 bits -/

section

variable {maj fn : Nat}

theorem R3.put_lt (f : R3) (hm : maj < 64 := by decide) (hf : fn < 256 := by decide) :
    R3.put maj fn f < 4294967296 := by
  have := f.w.isLt
  have := f.d.isLt
  have := f.a.isLt
  have := f.b.isLt
  unfold R3.put wordHead
  omega

theorem Shift.put_lt (f : Shift) (hm : maj < 64 := by decide) (hf : fn < 255 := by decide) :
    Shift.put maj fn f < 4294967296 := by
  have := f.w.isLt
  have := f.d.isLt
  have := f.a.isLt
  have := f.k.isLt
  unfold Shift.put wordHead
  omega

theorem R2.put_lt (f : R2) (hm : maj < 64 := by decide) (hf : fn < 256 := by decide) :
    R2.put maj fn f < 4294967296 := by
  have := f.w.isLt
  have := f.d.isLt
  have := f.a.isLt
  unfold R2.put wordHead
  omega

theorem ImmI.put_lt (f : ImmI) (hm : maj < 64 := by decide) :
    ImmI.put maj f < 4294967296 := by
  have := f.w.isLt
  have := f.d.isLt
  have := f.a.isLt
  have := f.imm.isLt
  unfold ImmI.put wordHead
  omega

theorem ImmJ.put_lt (f : ImmJ) (hm : maj < 64 := by decide) :
    ImmJ.put maj f < 4294967296 := by
  have := f.w.isLt
  have := f.d.isLt
  have := f.imm.isLt
  unfold ImmJ.put wordHead
  omega

theorem Pair.put_lt (f : Pair) (hm : maj < 64 := by decide) (hf : fn < 256 := by decide) :
    Pair.put maj fn f < 4294967296 := by
  have := f.w.isLt
  have := f.a.isLt
  have := f.b.isLt
  unfold Pair.put wordHead
  omega

theorem ImmB.put_lt (f : ImmB) (hm : maj < 64 := by decide) :
    ImmB.put maj f < 4294967296 := by
  have := f.w.isLt
  have := f.a.isLt
  have := f.b.isLt
  have := f.imm.isLt
  unfold ImmB.put wordHead
  omega

theorem Dst.put_lt (f : Dst) (hm : maj < 64 := by decide) (hf : fn < 256 := by decide) :
    Dst.put maj fn f < 4294967296 := by
  have := f.w.isLt
  have := f.d.isLt
  unfold Dst.put wordHead
  omega

theorem LoopR.put_lt (f : LoopR) (hm : maj < 64 := by decide) :
    LoopR.put maj f < 4294967296 := by
  have := f.w.isLt
  have := f.a.isLt
  have := f.imm.isLt
  unfold LoopR.put wordHead
  omega

theorem LoopI.put_lt (f : LoopI) (hm : maj < 64 := by decide) :
    LoopI.put maj f < 4294967296 := by
  have := f.w.isLt
  have := f.count.isLt
  have := f.imm.isLt
  unfold LoopI.put wordHead
  omega

theorem Bare.put_lt (f : Bare) (hm : maj < 64 := by decide) (hf : fn < 256 := by decide) :
    Bare.put maj fn f < 4294967296 := by
  have := f.w.isLt
  unfold Bare.put wordHead
  omega

theorem Grant.put_lt (f : Grant) (hm : maj < 64 := by decide) (hf : fn < 32 := by decide) :
    Grant.put maj fn f < 4294967296 := by
  have := f.w.isLt
  have := f.k.isLt
  have := f.imm.isLt
  unfold Grant.put wordHead
  omega

theorem CtlR.put_lt (f : CtlR) (hm : maj < 64 := by decide) (hf : fn < 4 := by decide) :
    CtlR.put maj fn f < 4294967296 := by
  have := f.w.isLt
  have := f.d.isLt
  have := f.num.isLt
  unfold CtlR.put wordHead
  omega

theorem CtlW.put_lt (f : CtlW) (hm : maj < 64 := by decide) (hf : fn < 4 := by decide) :
    CtlW.put maj fn f < 4294967296 := by
  have := f.w.isLt
  have := f.d.isLt
  have := f.a.isLt
  have := f.num.isLt
  unfold CtlW.put wordHead
  omega

theorem TrapK.put_lt (f : TrapK) (hm : maj < 64 := by decide) (hf : fn < 7937 := by decide) :
    TrapK.put maj fn f < 4294967296 := by
  have := f.w.isLt
  have := f.k.isLt
  unfold TrapK.put wordHead
  omega

theorem V2.put_lt (f : V2) (hm : maj < 64 := by decide) (hf : fn < 32 := by decide) :
    V2.put maj fn f < 4294967296 := by
  have := f.w.isLt
  have := f.d.isLt
  have := f.a.isLt
  have := f.m.isLt
  unfold V2.put wordHead
  omega

theorem V3.put_lt (f : V3) (hm : maj < 64 := by decide) (hf : fn < 32 := by decide) :
    V3.put maj fn f < 4294967296 := by
  have := f.w.isLt
  have := f.d.isLt
  have := f.a.isLt
  have := f.b.isLt
  have := f.m.isLt
  unfold V3.put wordHead
  omega

theorem VB.put_lt (f : VB) (hm : maj < 64 := by decide) (hf : fn < 32 := by decide) :
    VB.put maj fn f < 4294967296 := by
  have := f.w.isLt
  have := f.d.isLt
  have := f.b.isLt
  have := f.m.isLt
  unfold VB.put wordHead
  omega

theorem V1.put_lt (f : V1) (hm : maj < 64 := by decide) (hf : fn < 32 := by decide) :
    V1.put maj fn f < 4294967296 := by
  have := f.w.isLt
  have := f.d.isLt
  have := f.m.isLt
  unfold V1.put wordHead
  omega

theorem TMac.put_lt (f : TMac) (hm : maj < 64 := by decide) (hf : fn < 32 := by decide) :
    TMac.put maj fn f < 4294967296 := by
  have := f.w.isLt
  have := f.row.isLt
  have := f.a.isLt
  have := f.slot.isLt
  have := f.m.isLt
  unfold TMac.put wordHead
  omega

theorem TRow.put_lt (f : TRow) (hm : maj < 64 := by decide) (hf : fn < 32 := by decide) :
    TRow.put maj fn f < 4294967296 := by
  have := f.w.isLt
  have := f.row.isLt
  have := f.a.isLt
  have := f.m.isLt
  unfold TRow.put wordHead
  omega

theorem TRng.put_lt (f : TRng) (hm : maj < 64 := by decide) (hf : fn < 32 := by decide) :
    TRng.put maj fn f < 4294967296 := by
  have := f.w.isLt
  have := f.row.isLt
  have := f.a.isLt
  unfold TRng.put wordHead
  omega

theorem TLd.put_lt (f : TLd) (hm : maj < 64 := by decide) (hf : fn < 32 := by decide) :
    TLd.put maj fn f < 4294967296 := by
  have := f.w.isLt
  have := f.a.isLt
  have := f.slot.isLt
  unfold TLd.put wordHead
  omega

theorem DstB.put_lt (f : DstB) (hm : maj < 64 := by decide) (hf : fn < 256 := by decide) :
    DstB.put maj fn f < 4294967296 := by
  have := f.w.isLt
  have := f.d.isLt
  have := f.b.isLt
  unfold DstB.put wordHead
  omega

theorem Amo.put_lt (f : Amo) (hm : maj < 64 := by decide) (hf : fn < 16 := by decide) :
    Amo.put maj fn f < 4294967296 := by
  have := f.w.isLt
  have := f.d.isLt
  have := f.a.isLt
  have := f.b.isLt
  have := f.ord.isLt
  unfold Amo.put wordHead
  split <;> omega

theorem FenceF.put_lt (f : FenceF) (hm : maj < 64 := by decide) (hf : fn < 248 := by decide) :
    FenceF.put maj fn f < 4294967296 := by
  have := f.w.isLt
  have := f.scope.isLt
  unfold FenceF.put wordHead
  omega

theorem Eng.put_lt (f : Eng) (hm : maj < 64 := by decide) (hf : fn < 32 := by decide) :
    Eng.put maj fn f < 4294967296 := by
  have := f.w.isLt
  have := f.d.isLt
  have := f.a.isLt
  have := f.b.isLt
  have := f.c.isLt
  unfold Eng.put wordHead
  omega

end

/-! ### Words and bytes -/

/-- An instruction is encoded well: its word, if it has one, has 32 bits and decodes to it when its operands are well formed. -/
def Encodes (i : Instr) : Prop := ∀ x, encodeWord i = some x → x < 4294967296 ∧ (i.wf = true → decodeWord x = .ok i)

theorem Encodes.word {i : Instr} {w : Nat} (e : encodeWord i = some w) (h : Laws.Encoded.Statement i) (hw : w < 4294967296) :
    Encodes i := by
  intro x hx
  rw [← Option.some.inj (e.symm.trans hx)]
  exact ⟨hw, fun hwf => h hwf w e⟩

theorem encodes (i : Instr) : Encodes i := by
  cases i with
  | add f => exact .word rfl (Laws.Encoded.add f) f.put_lt
  | sub f => exact .word rfl (Laws.Encoded.sub f) f.put_lt
  | and f => exact .word rfl (Laws.Encoded.and f) f.put_lt
  | or f => exact .word rfl (Laws.Encoded.or f) f.put_lt
  | xor f => exact .word rfl (Laws.Encoded.xor f) f.put_lt
  | andn f => exact .word rfl (Laws.Encoded.andn f) f.put_lt
  | sll f => exact .word rfl (Laws.Encoded.sll f) f.put_lt
  | srl f => exact .word rfl (Laws.Encoded.srl f) f.put_lt
  | sra f => exact .word rfl (Laws.Encoded.sra f) f.put_lt
  | rol f => exact .word rfl (Laws.Encoded.rol f) f.put_lt
  | slt f => exact .word rfl (Laws.Encoded.slt f) f.put_lt
  | sltn f => exact .word rfl (Laws.Encoded.sltn f) f.put_lt
  | seq f => exact .word rfl (Laws.Encoded.seq f) f.put_lt
  | min f => exact .word rfl (Laws.Encoded.min f) f.put_lt
  | max f => exact .word rfl (Laws.Encoded.max f) f.put_lt
  | minn f => exact .word rfl (Laws.Encoded.minn f) f.put_lt
  | maxn f => exact .word rfl (Laws.Encoded.maxn f) f.put_lt
  | addw f => exact .word rfl (Laws.Encoded.addw f) f.put_lt
  | subw f => exact .word rfl (Laws.Encoded.subw f) f.put_lt
  | adds1 f => exact .word rfl (Laws.Encoded.adds1 f) f.put_lt
  | adds2 f => exact .word rfl (Laws.Encoded.adds2 f) f.put_lt
  | adds3 f => exact .word rfl (Laws.Encoded.adds3 f) f.put_lt
  | slli f => exact .word rfl (Laws.Encoded.slli f) f.put_lt
  | srli f => exact .word rfl (Laws.Encoded.srli f) f.put_lt
  | srai f => exact .word rfl (Laws.Encoded.srai f) f.put_lt
  | roli f => exact .word rfl (Laws.Encoded.roli f) f.put_lt
  | mul f => exact .word rfl (Laws.Encoded.mul f) f.put_lt
  | mulh f => exact .word rfl (Laws.Encoded.mulh f) f.put_lt
  | mulhn f => exact .word rfl (Laws.Encoded.mulhn f) f.put_lt
  | div f => exact .word rfl (Laws.Encoded.div f) f.put_lt
  | divn f => exact .word rfl (Laws.Encoded.divn f) f.put_lt
  | rem f => exact .word rfl (Laws.Encoded.rem f) f.put_lt
  | remn f => exact .word rfl (Laws.Encoded.remn f) f.put_lt
  | clz f => exact .word rfl (Laws.Encoded.clz f) f.put_lt
  | ctz f => exact .word rfl (Laws.Encoded.ctz f) f.put_lt
  | cpop f => exact .word rfl (Laws.Encoded.cpop f) f.put_lt
  | bext f => exact .word rfl (Laws.Encoded.bext f) f.put_lt
  | bins f => exact .word rfl (Laws.Encoded.bins f) f.put_lt
  | addi f => exact .word rfl (Laws.Encoded.addi f) f.put_lt
  | andi f => exact .word rfl (Laws.Encoded.andi f) f.put_lt
  | ori f => exact .word rfl (Laws.Encoded.ori f) f.put_lt
  | xori f => exact .word rfl (Laws.Encoded.xori f) f.put_lt
  | lih f => exact .word rfl (Laws.Encoded.lih f) f.put_lt
  | ldxb f => exact .word rfl (Laws.Encoded.ldxb f) f.put_lt
  | ldxbn f => exact .word rfl (Laws.Encoded.ldxbn f) f.put_lt
  | ldxh f => exact .word rfl (Laws.Encoded.ldxh f) f.put_lt
  | ldxhn f => exact .word rfl (Laws.Encoded.ldxhn f) f.put_lt
  | ldxw f => exact .word rfl (Laws.Encoded.ldxw f) f.put_lt
  | ldxwn f => exact .word rfl (Laws.Encoded.ldxwn f) f.put_lt
  | ldxd f => exact .word rfl (Laws.Encoded.ldxd f) f.put_lt
  | stxb f => exact .word rfl (Laws.Encoded.stxb f) f.put_lt
  | stxh f => exact .word rfl (Laws.Encoded.stxh f) f.put_lt
  | stxw f => exact .word rfl (Laws.Encoded.stxw f) f.put_lt
  | stxd f => exact .word rfl (Laws.Encoded.stxd f) f.put_lt
  | cwb f => exact .word rfl (Laws.Encoded.cwb f) f.put_lt
  | czero f => exact .word rfl (Laws.Encoded.czero f) f.put_lt
  | ldd f => exact .word rfl (Laws.Encoded.ldd f) f.put_lt
  | ldw f => exact .word rfl (Laws.Encoded.ldw f) f.put_lt
  | ldwn f => exact .word rfl (Laws.Encoded.ldwn f) f.put_lt
  | std f => exact .word rfl (Laws.Encoded.std f) f.put_lt
  | stw f => exact .word rfl (Laws.Encoded.stw f) f.put_lt
  | lr f => exact .word rfl (Laws.Encoded.lr f) f.put_lt
  | lrw f => exact .word rfl (Laws.Encoded.lrw f) f.put_lt
  | sc f => exact .word rfl (Laws.Encoded.sc f) f.put_lt
  | scw f => exact .word rfl (Laws.Encoded.scw f) f.put_lt
  | pref f => exact .word rfl (Laws.Encoded.pref f) f.put_lt
  | beq f => exact .word rfl (Laws.Encoded.beq f) f.put_lt
  | bne f => exact .word rfl (Laws.Encoded.bne f) f.put_lt
  | blt f => exact .word rfl (Laws.Encoded.blt f) f.put_lt
  | bge f => exact .word rfl (Laws.Encoded.bge f) f.put_lt
  | bltn f => exact .word rfl (Laws.Encoded.bltn f) f.put_lt
  | bgen f => exact .word rfl (Laws.Encoded.bgen f) f.put_lt
  | jal f => exact .word rfl (Laws.Encoded.jal f) f.put_lt
  | jalr f => exact .word rfl (Laws.Encoded.jalr f) f.put_lt
  | rdpc f => exact .word rfl (Laws.Encoded.rdpc f) f.put_lt
  | loop f => exact .word rfl (Laws.Encoded.loop f) f.put_lt
  | loopi f => exact .word rfl (Laws.Encoded.loopi f) f.put_lt
  | lpop f => exact .word rfl (Laws.Encoded.lpop f) f.put_lt
  | lbrk f => exact .word rfl (Laws.Encoded.lbrk f) f.put_lt
  | lcnt f => exact .word rfl (Laws.Encoded.lcnt f) f.put_lt
  | ldep f => exact .word rfl (Laws.Encoded.ldep f) f.put_lt
  | bgs f => exact .word rfl (Laws.Encoded.bgs f) f.put_lt
  | bgsn f => exact .word rfl (Laws.Encoded.bgsn f) f.put_lt
  | mfc f => exact .word rfl (Laws.Encoded.mfc f) f.put_lt
  | mtc f => exact .word rfl (Laws.Encoded.mtc f) f.put_lt
  | mcset f => exact .word rfl (Laws.Encoded.mcset f) f.put_lt
  | mcclr f => exact .word rfl (Laws.Encoded.mcclr f) f.put_lt
  | rft f => exact .word rfl (Laws.Encoded.rft f) f.put_lt
  | trap f => exact .word rfl (Laws.Encoded.trap f) f.put_lt
  | ifence f => exact .word rfl (Laws.Encoded.ifence f) f.put_lt
  | pause f => exact .word rfl (Laws.Encoded.pause f) f.put_lt
  | sdrain f => exact .word rfl (Laws.Encoded.sdrain f) f.put_lt
  | halt f => exact .word rfl (Laws.Encoded.halt f) f.put_lt
  | vtype f => exact .word rfl (Laws.Encoded.vtype f) f.put_lt
  | mfg f => exact .word rfl (Laws.Encoded.mfg f) f.put_lt
  | zctw f => exact .word rfl (Laws.Encoded.zctw f) f.put_lt
  | zcswap f => exact .word rfl (Laws.Encoded.zcswap f) f.put_lt
  | strip f => exact .word rfl (Laws.Encoded.strip f) f.put_lt
  | sclose f => exact .word rfl (Laws.Encoded.sclose f) f.put_lt
  | scloseRel f => exact .word rfl (Laws.Encoded.scloseRel f) f.put_lt
  | zld f => exact .word rfl (Laws.Encoded.zld f) f.put_lt
  | zst f => exact .word rfl (Laws.Encoded.zst f) f.put_lt
  | zfind f => exact .word rfl (Laws.Encoded.zfind f) f.put_lt
  | zskip f => exact .word rfl (Laws.Encoded.zskip f) f.put_lt
  | vld f => exact .word rfl (Laws.Encoded.vld f) f.put_lt
  | vlds f => exact .word rfl (Laws.Encoded.vlds f) f.put_lt
  | vldb f => exact .word rfl (Laws.Encoded.vldb f) f.put_lt
  | vldo f => exact .word rfl (Laws.Encoded.vldo f) f.put_lt
  | vldso f => exact .word rfl (Laws.Encoded.vldso f) f.put_lt
  | vldx f => exact .word rfl (Laws.Encoded.vldx f) f.put_lt
  | vldxo f => exact .word rfl (Laws.Encoded.vldxo f) f.put_lt
  | vst f => exact .word rfl (Laws.Encoded.vst f) f.put_lt
  | vsts f => exact .word rfl (Laws.Encoded.vsts f) f.put_lt
  | vstc f => exact .word rfl (Laws.Encoded.vstc f) f.put_lt
  | vsto f => exact .word rfl (Laws.Encoded.vsto f) f.put_lt
  | vstso f => exact .word rfl (Laws.Encoded.vstso f) f.put_lt
  | vstx f => exact .word rfl (Laws.Encoded.vstx f) f.put_lt
  | vstxo f => exact .word rfl (Laws.Encoded.vstxo f) f.put_lt
  | vadd f => exact .word rfl (Laws.Encoded.vadd f) f.put_lt
  | vsub f => exact .word rfl (Laws.Encoded.vsub f) f.put_lt
  | vmul f => exact .word rfl (Laws.Encoded.vmul f) f.put_lt
  | vdiv f => exact .word rfl (Laws.Encoded.vdiv f) f.put_lt
  | vmin f => exact .word rfl (Laws.Encoded.vmin f) f.put_lt
  | vmax f => exact .word rfl (Laws.Encoded.vmax f) f.put_lt
  | vabsd f => exact .word rfl (Laws.Encoded.vabsd f) f.put_lt
  | vand f => exact .word rfl (Laws.Encoded.vand f) f.put_lt
  | vor f => exact .word rfl (Laws.Encoded.vor f) f.put_lt
  | vxor f => exact .word rfl (Laws.Encoded.vxor f) f.put_lt
  | vsll f => exact .word rfl (Laws.Encoded.vsll f) f.put_lt
  | vsrl f => exact .word rfl (Laws.Encoded.vsrl f) f.put_lt
  | vsra f => exact .word rfl (Laws.Encoded.vsra f) f.put_lt
  | vneg f => exact .word rfl (Laws.Encoded.vneg f) f.put_lt
  | vabs f => exact .word rfl (Laws.Encoded.vabs f) f.put_lt
  | vsqrt f => exact .word rfl (Laws.Encoded.vsqrt f) f.put_lt
  | vmov f => exact .word rfl (Laws.Encoded.vmov f) f.put_lt
  | vadds f => exact .word rfl (Laws.Encoded.vadds f) f.put_lt
  | vmuls f => exact .word rfl (Laws.Encoded.vmuls f) f.put_lt
  | vbcast f => exact .word rfl (Laws.Encoded.vbcast f) f.put_lt
  | vid f => exact .word rfl (Laws.Encoded.vid f) f.put_lt
  | vfma f => exact .word rfl (Laws.Encoded.vfma f) f.put_lt
  | vfms f => exact .word rfl (Laws.Encoded.vfms f) f.put_lt
  | vfnma f => exact .word rfl (Laws.Encoded.vfnma f) f.put_lt
  | vtsum f => exact .word rfl (Laws.Encoded.vtsum f) f.put_lt
  | vtprod f => exact .word rfl (Laws.Encoded.vtprod f) f.put_lt
  | vceq f => exact .word rfl (Laws.Encoded.vceq f) f.put_lt
  | vcne f => exact .word rfl (Laws.Encoded.vcne f) f.put_lt
  | vclt f => exact .word rfl (Laws.Encoded.vclt f) f.put_lt
  | vcle f => exact .word rfl (Laws.Encoded.vcle f) f.put_lt
  | vcnan f => exact .word rfl (Laws.Encoded.vcnan f) f.put_lt
  | vcvt f => exact .word rfl (Laws.Encoded.vcvt f) f.put_lt
  | vqnt f => exact .word rfl (Laws.Encoded.vqnt f) f.put_lt
  | vdqnt f => exact .word rfl (Laws.Encoded.vdqnt f) f.put_lt
  | vsel f => exact .word rfl (Laws.Encoded.vsel f) f.put_lt
  | vslup f => exact .word rfl (Laws.Encoded.vslup f) f.put_lt
  | vsldn f => exact .word rfl (Laws.Encoded.vsldn f) f.put_lt
  | vperm f => exact .word rfl (Laws.Encoded.vperm f) f.put_lt
  | vcomp f => exact .word rfl (Laws.Encoded.vcomp f) f.put_lt
  | vredo f => exact .word rfl (Laws.Encoded.vredo f) f.put_lt
  | vredt f => exact .word rfl (Laws.Encoded.vredt f) f.put_lt
  | vscano f => exact .word rfl (Laws.Encoded.vscano f) f.put_lt
  | vscanf f => exact .word rfl (Laws.Encoded.vscanf f) f.put_lt
  | vredmin f => exact .word rfl (Laws.Encoded.vredmin f) f.put_lt
  | vredmax f => exact .word rfl (Laws.Encoded.vredmax f) f.put_lt
  | mand f => exact .word rfl (Laws.Encoded.mand f) f.put_lt
  | mor f => exact .word rfl (Laws.Encoded.mor f) f.put_lt
  | mxor f => exact .word rfl (Laws.Encoded.mxor f) f.put_lt
  | mandn f => exact .word rfl (Laws.Encoded.mandn f) f.put_lt
  | mnot f => exact .word rfl (Laws.Encoded.mnot f) f.put_lt
  | mlen f => exact .word rfl (Laws.Encoded.mlen f) f.put_lt
  | mpop f => exact .word rfl (Laws.Encoded.mpop f) f.put_lt
  | mfirst f => exact .word rfl (Laws.Encoded.mfirst f) f.put_lt
  | tmac f => exact .word rfl (Laws.Encoded.tmac f) f.put_lt
  | tdist f => exact .word rfl (Laws.Encoded.tdist f) f.put_lt
  | tcupd f => exact .word rfl (Laws.Encoded.tcupd f) f.put_lt
  | tacc f => exact .word rfl (Laws.Encoded.tacc f) f.put_lt
  | tdrain f => exact .word rfl (Laws.Encoded.tdrain f) f.put_lt
  | tfill f => exact .word rfl (Laws.Encoded.tfill f) f.put_lt
  | tzero f => exact .word rfl (Laws.Encoded.tzero f) f.put_lt
  | tcdiv f => exact .word rfl (Laws.Encoded.tcdiv f) f.put_lt
  | tcget f => exact .word rfl (Laws.Encoded.tcget f) f.put_lt
  | tld f => exact .word rfl (Laws.Encoded.tld f) f.put_lt
  | tmode f => exact .word rfl (Laws.Encoded.tmode f) f.put_lt
  | tmodr f => exact .word rfl (Laws.Encoded.tmodr f) f.put_lt
  | tmodc f => exact .word rfl (Laws.Encoded.tmodc f) f.put_lt
  | tbest f => exact .word rfl (Laws.Encoded.tbest f) f.put_lt
  | tcnt f => exact .word rfl (Laws.Encoded.tcnt f) f.put_lt
  | cfun f => exact .word rfl (Laws.Encoded.cfun f) f.put_lt
  | ccor f => exact .word rfl (Laws.Encoded.ccor f) f.put_lt
  | cseq f => exact .word rfl (Laws.Encoded.cseq f) f.put_lt
  | cpar f => exact .word rfl (Laws.Encoded.cpar f) f.put_lt
  | cpipe f => exact .word rfl (Laws.Encoded.cpipe f) f.put_lt
  | cfarm f => exact .word rfl (Laws.Encoded.cfarm f) f.put_lt
  | cloop f => exact .word rfl (Laws.Encoded.cloop f) f.put_lt
  | capply f => exact .word rfl (Laws.Encoded.capply f) f.put_lt
  | cret f => exact .word rfl (Laws.Encoded.cret f) f.put_lt
  | cyield f => exact .word rfl (Laws.Encoded.cyield f) f.put_lt
  | wid f => exact .word rfl (Laws.Encoded.wid f) f.put_lt
  | chput f => exact .word rfl (Laws.Encoded.chput f) f.put_lt
  | chget f => exact .word rfl (Laws.Encoded.chget f) f.put_lt
  | barv f => exact .word rfl (Laws.Encoded.barv f) f.put_lt
  | barw f => exact .word rfl (Laws.Encoded.barw f) f.put_lt
  | bara f => exact .word rfl (Laws.Encoded.bara f) f.put_lt
  | amoSwap f => exact .word rfl (Laws.Encoded.amoSwap f) f.put_lt
  | amoAdd f => exact .word rfl (Laws.Encoded.amoAdd f) f.put_lt
  | amoAnd f => exact .word rfl (Laws.Encoded.amoAnd f) f.put_lt
  | amoOr f => exact .word rfl (Laws.Encoded.amoOr f) f.put_lt
  | amoXor f => exact .word rfl (Laws.Encoded.amoXor f) f.put_lt
  | amoMin f => exact .word rfl (Laws.Encoded.amoMin f) f.put_lt
  | amoMax f => exact .word rfl (Laws.Encoded.amoMax f) f.put_lt
  | amoMinn f => exact .word rfl (Laws.Encoded.amoMinn f) f.put_lt
  | amoMaxn f => exact .word rfl (Laws.Encoded.amoMaxn f) f.put_lt
  | amoCas f => exact .word rfl (Laws.Encoded.amoCas f) f.put_lt
  | scopen f => exact .word rfl (Laws.Encoded.scopen f) f.put_lt
  | scaddO f => exact .word rfl (Laws.Encoded.scaddO f) f.put_lt
  | scaddU f => exact .word rfl (Laws.Encoded.scaddU f) f.put_lt
  | scflush f => exact .word rfl (Laws.Encoded.scflush f) f.put_lt
  | fence f => exact .word rfl (Laws.Encoded.fence f) f.put_lt
  | fenceAcq f => exact .word rfl (Laws.Encoded.fenceAcq f) f.put_lt
  | fenceRel f => exact .word rfl (Laws.Encoded.fenceRel f) f.put_lt
  | xcopy f => exact .word rfl (Laws.Encoded.xcopy f) f.put_lt
  | xcopyz f => exact .word rfl (Laws.Encoded.xcopyz f) f.put_lt
  | xfill f => exact .word rfl (Laws.Encoded.xfill f) f.put_lt
  | xquery f => exact .word rfl (Laws.Encoded.xquery f) f.put_lt
  | xgrid f => exact .word rfl (Laws.Encoded.xgrid f) f.put_lt
  | xcoll f => exact .word rfl (Laws.Encoded.xcoll f) f.put_lt
  | xnote f => exact .word rfl (Laws.Encoded.xnote f) f.put_lt
  | _ => exact nofun

/-- The four bytes of a word give it back. -/
theorem decode_wordBytes {x : Nat} (hx : x < 4294967296) (rest : List Byte) :
    decode (wordBytes x ++ rest) = (decodeWord x).map (·, rest) := by
  have e : x % 256 + 256 * (x / 256 % 256) + 65536 * (x / 65536 % 256) + 16777216 * (x / 16777216 % 256) = x := by omega
  simp only [wordBytes, List.cons_append, List.nil_append, decode, BitVec.toNat_ofNat, Nat.reducePow, e]
  cases decodeWord x <;> rfl

/-- Bytes that decode are four bytes of a word, and the rest. -/
theorem bytes_of_decode {bytes rest : List Byte} {i : Instr} (h : decode bytes = .ok (i, rest)) :
    ∃ x, x < 4294967296 ∧ decodeWord x = .ok i ∧ bytes = wordBytes x ++ rest := by
  unfold decode at h
  split at h
  case h_2 => cases h
  case h_1 b0 b1 b2 b3 tail =>
    split at h
    case h_2 => cases h
    case h_1 j hj =>
      obtain ⟨rfl, rfl⟩ := Prod.mk.inj (Except.ok.inj h)
      have h0 := b0.isLt
      have h1 := b1.isLt
      have h2 := b2.isLt
      have h3 := b3.isLt
      refine ⟨_, by omega, hj, ?_⟩
      have e (b : Byte) (x : Nat) (hx : x % 256 = b.toNat) : BitVec.ofNat 8 x = b :=
        BitVec.eq_of_toNat_eq ((BitVec.toNat_ofNat ..).trans hx)
      rw [wordBytes, e b0 _ (by omega), e b1 _ (by omega), e b2 _ (by omega), e b3 _ (by omega)]
      rfl

/-- Settles O57: a word is written field by field and read back (`encodes`), and every decoder reads its own word
(`readsOwn_decodeWord`). -/
theorem encodeDecode : Obligations.EncodeDecode := by
  refine ⟨fun i rest hwf hsome => ?_, fun bytes rest i h => ?_⟩
  · obtain ⟨x, hx⟩ := Option.isSome_iff_exists.mp hsome
    obtain ⟨hlt, hdec⟩ := encodes i x hx
    have he : encode i = wordBytes x := by rw [encode, hx]
    rw [he, decode_wordBytes hlt, hdec hwf]
    exact ⟨rfl, rfl⟩
  · obtain ⟨x, hlt, hdec, rfl⟩ := bytes_of_decode h
    have hx := readsOwn_decodeWord hlt i hdec
    rw [encode, hx]
    exact ⟨rfl, rfl⟩

end Sys2Proof

/-! How a ready word ends: its body's answer is its step. -/

namespace Sys2Proof.Machine

theorem run_done {s t : State} {i : Instr} {body : State → Res} {fl : Flow} (hr : s.Ready i) (hb : body s.due = .done fl t) :
    run i body s = .next (t.retire i fl) := by
  rw [run_ready hr, hb, conclude_done]

theorem runG_done {s t : State} {i : Instr} {group : VType → Bool} {body : State → Res} {fl : Flow} (hr : s.Ready i group)
    (hb : body s.due = .done fl t) : runG i group body s = .next (t.retire i fl) := by
  rw [runG_ready hr, hb, conclude_done]

/-- A trap with a cause of R283 is taken. -/
theorem run_trap {s t : State} {i : Instr} {body : State → Res} {x : Trap} (hr : s.Ready i) (hb : body s.due = .trap x t)
    (hx : x.cause ≠ Cause.held := by decide) : run i body s = .next (t.trapped i x) := by
  rw [run_ready hr, hb, conclude_trap hx]

theorem runG_trap {s t : State} {i : Instr} {group : VType → Bool} {body : State → Res} {x : Trap} (hr : s.Ready i group)
    (hb : body s.due = .trap x t) (hx : x.cause ≠ Cause.held := by decide) : runG i group body s = .next (t.trapped i x) := by
  rw [runG_ready hr, hb, conclude_trap hx]

end Sys2Proof.Machine

/-!
Scalar arithmetic of chapter 4: the results of majors 0x01 and 0x02 (O1, O2) and the counts and bit fields of R78 and R80, bit by
bit (O4).
-/

namespace Sys2Proof.Machine

set_option Elab.async false

/-! ### The shapes of an arithmetic word -/

theorem write2_ready {s : State} {i : Instr} (h : s.Ready i) (f : R2) (op : Word → Word) :
    write2 i f op s = .next ((s.due.setS f.d (op (s.sreg f.a))).retire i .seq) :=
  run_ready h _

theorem writeSh_ready {s : State} {i : Instr} (h : s.Ready i) (f : Shift) (op : Word → Nat → Word) :
    writeSh i f op s = .next ((s.due.setS f.d (op (s.sreg f.a) f.k.val)).retire i .seq) :=
  run_ready h _

/-- A word that writes sD from two sources, its operation given by an equal one. -/
theorem write3_result {s : State} {i : Instr} {f : R3} {op : Word → Word → Word} {v : Word} (h : s.Ready i)
    (e : op (s.sreg f.a) (s.sreg f.b) = v) : write3 i f op s = .next ((s.due.setS f.d v).retire i .seq) := by
  rw [write3_ready h, e]

theorem write2_result {s : State} {i : Instr} {f : R2} {op : Word → Word} {v : Word} (h : s.Ready i)
    (e : op (s.sreg f.a) = v) : write2 i f op s = .next ((s.due.setS f.d v).retire i .seq) := by
  rw [write2_ready h, e]

/-! ### The operations of R77 as the table writes them -/

theorem boolWord_slt (a b : Word) : boolWord (a.slt b) = if a.toInt < b.toInt then 1 else 0 := by
  simp [boolWord, BitVec.slt]

theorem boolWord_ult (a b : Word) : boolWord (a.ult b) = if a.toNat < b.toNat then 1 else 0 := by
  simp [boolWord, BitVec.ult]

theorem boolWord_beq (a b : Word) : boolWord (a == b) = if a = b then 1 else 0 := by
  simp [boolWord]

theorem minS_eq (a b : Word) : minS a b = BitVec.ofInt 64 (min a.toInt b.toInt) := by
  by_cases h : b.toInt < a.toInt
  · rw [minS, if_pos (BitVec.slt_iff_toInt_lt.mpr h), min_eq_right h.le, BitVec.ofInt_toInt]
  · rw [minS, if_neg (mt BitVec.slt_iff_toInt_lt.mp h), min_eq_left (not_lt.mp h), BitVec.ofInt_toInt]

theorem maxS_eq (a b : Word) : maxS a b = BitVec.ofInt 64 (max a.toInt b.toInt) := by
  by_cases h : a.toInt < b.toInt
  · rw [maxS, if_pos (BitVec.slt_iff_toInt_lt.mpr h), max_eq_right h.le, BitVec.ofInt_toInt]
  · rw [maxS, if_neg (mt BitVec.slt_iff_toInt_lt.mp h), max_eq_left (not_lt.mp h), BitVec.ofInt_toInt]

theorem minU_eq (a b : Word) : minU a b = BitVec.ofNat 64 (min a.toNat b.toNat) := by
  by_cases h : b.toNat < a.toNat
  · rw [minU, if_pos (BitVec.ult_iff_lt.mpr h), min_eq_right h.le, BitVec.ofNat_toNat, BitVec.setWidth_eq]
  · rw [minU, if_neg (mt BitVec.ult_iff_lt.mp h), min_eq_left (not_lt.mp h), BitVec.ofNat_toNat, BitVec.setWidth_eq]

theorem maxU_eq (a b : Word) : maxU a b = BitVec.ofNat 64 (max a.toNat b.toNat) := by
  by_cases h : a.toNat < b.toNat
  · rw [maxU, if_pos (BitVec.ult_iff_lt.mpr h), max_eq_right h.le, BitVec.ofNat_toNat, BitVec.setWidth_eq]
  · rw [maxU, if_neg (mt BitVec.ult_iff_lt.mp h), max_eq_left (not_lt.mp h), BitVec.ofNat_toNat, BitVec.setWidth_eq]

/-! ### The arms of the dispatch -/

theorem exec_add (f : R3) (s : State) : exec (.add f) s = write3 (.add f) f (· + ·) s := rfl
theorem exec_sub (f : R3) (s : State) : exec (.sub f) s = write3 (.sub f) f (· - ·) s := rfl
theorem exec_and (f : R3) (s : State) : exec (.and f) s = write3 (.and f) f (· &&& ·) s := rfl
theorem exec_or (f : R3) (s : State) : exec (.or f) s = write3 (.or f) f (· ||| ·) s := rfl
theorem exec_xor (f : R3) (s : State) : exec (.xor f) s = write3 (.xor f) f (· ^^^ ·) s := rfl
theorem exec_andn (f : R3) (s : State) : exec (.andn f) s = write3 (.andn f) f (fun a b => a &&& ~~~b) s := rfl
theorem exec_sll (f : R3) (s : State) : exec (.sll f) s = write3 (.sll f) f (fun a b => a <<< amount b) s := rfl
theorem exec_srl (f : R3) (s : State) : exec (.srl f) s = write3 (.srl f) f (fun a b => a >>> amount b) s := rfl
theorem exec_sra (f : R3) (s : State) : exec (.sra f) s = write3 (.sra f) f (fun a b => a.sshiftRight (amount b)) s := rfl
theorem exec_rol (f : R3) (s : State) : exec (.rol f) s = write3 (.rol f) f (fun a b => a.rotateLeft (amount b)) s := rfl
theorem exec_slt (f : R3) (s : State) : exec (.slt f) s = write3 (.slt f) f (fun a b => boolWord (a.slt b)) s := rfl
theorem exec_sltn (f : R3) (s : State) : exec (.sltn f) s = write3 (.sltn f) f (fun a b => boolWord (a.ult b)) s := rfl
theorem exec_seq (f : R3) (s : State) : exec (.seq f) s = write3 (.seq f) f (fun a b => boolWord (a == b)) s := rfl
theorem exec_min (f : R3) (s : State) : exec (.min f) s = write3 (.min f) f minS s := rfl
theorem exec_max (f : R3) (s : State) : exec (.max f) s = write3 (.max f) f maxS s := rfl
theorem exec_minn (f : R3) (s : State) : exec (.minn f) s = write3 (.minn f) f minU s := rfl
theorem exec_maxn (f : R3) (s : State) : exec (.maxn f) s = write3 (.maxn f) f maxU s := rfl
theorem exec_addw (f : R3) (s : State) : exec (.addw f) s = write3 (.addw f) f (fun a b => sext32 (a + b)) s := rfl
theorem exec_subw (f : R3) (s : State) : exec (.subw f) s = write3 (.subw f) f (fun a b => sext32 (a - b)) s := rfl
theorem exec_adds1 (f : R3) (s : State) : exec (.adds1 f) s = write3 (.adds1 f) f (fun a b => a + (b <<< 1)) s := rfl
theorem exec_adds2 (f : R3) (s : State) : exec (.adds2 f) s = write3 (.adds2 f) f (fun a b => a + (b <<< 2)) s := rfl
theorem exec_adds3 (f : R3) (s : State) : exec (.adds3 f) s = write3 (.adds3 f) f (fun a b => a + (b <<< 3)) s := rfl

/-- Settles O1: every word of the table has the shape of its sources, with the operation of its row. -/
theorem scalarResults : Obligations.ScalarResults := by
  refine ⟨fun s f => ?registers, fun s f => ?shifts, fun s f h => run_ready h _⟩
  case registers =>
    exact ⟨fun h => (exec_add f s).trans (write3_ready h f _),
      fun h => (exec_sub f s).trans (write3_ready h f _),
      fun h => (exec_and f s).trans (write3_ready h f _),
      fun h => (exec_or f s).trans (write3_ready h f _),
      fun h => (exec_xor f s).trans (write3_ready h f _),
      fun h => (exec_andn f s).trans (write3_ready h f _),
      fun h => (exec_sll f s).trans (write3_ready h f _),
      fun h => (exec_srl f s).trans (write3_ready h f _),
      fun h => (exec_sra f s).trans (write3_ready h f _),
      fun h => (exec_rol f s).trans (write3_ready h f _),
      fun h => (exec_slt f s).trans (write3_result h (boolWord_slt _ _)),
      fun h => (exec_sltn f s).trans (write3_result h (boolWord_ult _ _)),
      fun h => (exec_seq f s).trans (write3_result h (boolWord_beq _ _)),
      fun h => (exec_min f s).trans (write3_result h (minS_eq _ _)),
      fun h => (exec_max f s).trans (write3_result h (maxS_eq _ _)),
      fun h => (exec_minn f s).trans (write3_result h (minU_eq _ _)),
      fun h => (exec_maxn f s).trans (write3_result h (maxU_eq _ _)),
      fun h => (exec_addw f s).trans (write3_ready h f _),
      fun h => (exec_subw f s).trans (write3_ready h f _),
      fun h => (exec_adds1 f s).trans (write3_ready h f _),
      fun h => (exec_adds2 f s).trans (write3_ready h f _),
      fun h => (exec_adds3 f s).trans (write3_ready h f _)⟩
  case shifts =>
    exact ⟨fun h => writeSh_ready h f (· <<< ·), fun h => writeSh_ready h f (· >>> ·), fun h => writeSh_ready h f BitVec.sshiftRight,
      fun h => writeSh_ready h f BitVec.rotateLeft⟩

/-- Settles O2: the operations of the model are those of the table. -/
theorem multiplyDivide : Obligations.MultiplyDivide := by
  intro s f
  exact ⟨fun h => write3_ready h f (· * ·), fun h => write3_ready h f mulHigh, fun h => write3_ready h f mulHighN,
    fun h => write3_ready h f divS, fun h => write3_ready h f divU, fun h => write3_ready h f remS,
    fun h => write3_ready h f remU⟩

/-! ### Counts of bits (R78) -/

/-- The leading zeros of a word: n of them, and then a one if there is a bit left. -/
theorem leadingZeros_spec (a : Word) : ∃ n : Nat, n ≤ 64 ∧ leadingZeros a = BitVec.ofNat 64 n ∧
    (∀ k, 64 - n ≤ k → k < 64 → a.getLsbD k = false) ∧ (n < 64 → a.getLsbD (63 - n) = true) := by
  by_cases h : a = 0
  · subst h
    exact ⟨64, le_refl _, rfl, fun k _ _ => BitVec.getLsbD_zero, fun h => absurd h (lt_irrefl _)⟩
  · have h0 : a.toNat ≠ 0 := fun e => h (BitVec.eq_of_toNat_eq e)
    have hlt : Nat.log2 a.toNat < 64 := (Nat.log2_lt h0).mpr a.isLt
    refine ⟨63 - Nat.log2 a.toNat, by omega, by rw [leadingZeros, if_neg h], fun k h1 _ => ?_, fun _ => ?_⟩
    · refine Nat.testBit_lt_two_pow ?_
      exact Nat.lt_log2_self.trans_le (Nat.pow_le_pow_right (by decide) (by omega))
    · have e : 63 - (63 - Nat.log2 a.toNat) = Nat.log2 a.toNat := by omega
      rw [e]
      exact Nat.testBit_log2 h0

theorem trailingFrom_le (x n : Nat) : trailingFrom x n ≤ n := by
  induction n generalizing x with
  | zero => exact le_refl _
  | succ n ih =>
    have := ih (x / 2)
    rw [trailingFrom]
    split <;> omega

theorem testBit_of_lt_trailingFrom {x n k : Nat} (h : k < trailingFrom x n) : x.testBit k = false := by
  induction n generalizing x k with
  | zero => exact absurd h (Nat.not_lt_zero k)
  | succ n ih =>
    rw [trailingFrom] at h
    split at h
    · exact absurd h (Nat.not_lt_zero k)
    · cases k with
      | zero => simp only [Nat.testBit_zero, decide_eq_false_iff_not]; assumption
      | succ k =>
        rw [Nat.testBit_succ]
        exact ih (by omega)

theorem testBit_trailingFrom {x n : Nat} (h : trailingFrom x n < n) : x.testBit (trailingFrom x n) = true := by
  induction n generalizing x with
  | zero => exact absurd h (Nat.not_lt_zero _)
  | succ n ih =>
    rw [trailingFrom] at h ⊢
    split at h
    · rename_i ho
      rw [if_pos ho, Nat.testBit_zero, decide_eq_true ho]
    · rename_i he
      rw [if_neg he, Nat.add_comm, Nat.testBit_succ]
      exact ih (by omega)

/-- The ones among the low n bits, counted bit by bit from the lowest. -/
theorem onesIn_eq (x n : Nat) : onesIn x n = ((List.range n).filter (fun k => x.testBit k)).length := by
  induction n generalizing x with
  | zero => rfl
  | succ n ih =>
    rw [onesIn, ih, List.range_succ_eq_map, List.filter_cons, List.filter_map, Function.comp_def]
    simp only [Nat.testBit_succ, Nat.testBit_zero]
    rcases Nat.mod_two_eq_zero_or_one x with h | h <;> simp [h, Nat.add_comm]

/-! ### Bit fields (R80) -/

theorem getLsbD_maskOf {n k : Nat} (hk : k < 64) : (Machine.maskOf n).getLsbD k = decide (k < n) := by
  rw [Machine.maskOf, BitVec.getLsbD_ofNat, Nat.testBit_two_pow_sub_one]
  simp [hk]

/-- Bit k of an extracted field: bit p + k of a; there is none from bit 64 on. -/
theorem getLsbD_bitExtract (a b : Word) {k : Nat} (hk : k < 64) :
    (bitExtract a b).getLsbD k = (decide (k < b.toNat / 256 % 128) && a.getLsbD (fieldPos b + k)) := by
  rw [bitExtract, BitVec.getLsbD_and, BitVec.getLsbD_ushiftRight, getLsbD_maskOf hk, fieldLen]
  by_cases h : fieldPos b + k < 64
  · have : k < min (b.toNat / 256 % 128) (64 - fieldPos b) ↔ k < b.toNat / 256 % 128 := by omega
    simp only [this, Bool.and_comm]
  · simp [BitVec.getLsbD_of_ge a _ (not_lt.mp h)]

/-- Bit k of a word with a field inserted. -/
theorem getLsbD_bitInsert (d a b : Word) {k : Nat} (hk : k < 64) :
    (bitInsert d a b).getLsbD k =
      if fieldPos b ≤ k ∧ k < fieldPos b + b.toNat / 256 % 128 then a.getLsbD (k - fieldPos b) else d.getLsbD k := by
  have hf : (Machine.maskOf (fieldLen b) <<< fieldPos b).getLsbD k =
      decide (fieldPos b ≤ k ∧ k < fieldPos b + b.toNat / 256 % 128) := by
    rw [BitVec.getLsbD_shiftLeft, getLsbD_maskOf (by omega), fieldLen]
    simp only [hk, decide_true, Bool.true_and, ← Bool.decide_and, ← decide_not, decide_eq_decide]
    omega
  rw [bitInsert, BitVec.getLsbD_or, BitVec.getLsbD_and, BitVec.getLsbD_and, BitVec.getLsbD_not, hf, BitVec.getLsbD_shiftLeft]
  split
  · rename_i h
    simp [h, hk, not_lt.mpr h.1]
  · rename_i h
    simp [h, hk]

/-- Settles O4: the counts and the fields are described bit by bit by the lemmas above. -/
theorem bitWords : Obligations.BitWords := by
  refine ⟨fun s f => ⟨fun h => ?clz, fun h => ?ctz, fun h => ?cpop⟩, fun s f => ⟨fun h => ?bext, fun h => ?bins⟩⟩
  case clz =>
    obtain ⟨n, hn, e, hzero, hone⟩ := leadingZeros_spec (s.sreg f.a)
    exact ⟨n, hn, hzero, hone, write2_result h e⟩
  case ctz =>
    exact ⟨trailingFrom (s.sreg f.a).toNat 64, trailingFrom_le _ _, fun k => testBit_of_lt_trailingFrom, testBit_trailingFrom,
      write2_ready h f trailingZeros⟩
  case cpop => exact write2_result h (congrArg (BitVec.ofNat 64) (onesIn_eq _ 64))
  case bext => exact ⟨_, fun k hk => getLsbD_bitExtract _ _ hk, write3_ready h f bitExtract⟩
  case bins => exact ⟨_, fun k hk => getLsbD_bitInsert (s.sreg f.d) (s.sreg f.a) (s.sreg f.b) hk, run_ready h _⟩

end Sys2Proof.Machine

/-!
Scalar memory words of chapter 4: what loads and stores do (O7, O8), where stored bytes go (O9), the address traps (O10), the reserved
pair (O11), and the bytes of vector stores and commits (O36).
-/

namespace Sys2Proof.Machine

set_option Elab.async false

/-! ### Values as an access reads them -/

theorem viewNat_lt (s : State) (loc n : Nat) : s.viewNat loc n < 256 ^ n := by
  induction n generalizing loc with
  | zero => exact Nat.one_pos
  | succ n ih =>
    have h := ih (loc + 1)
    have hb := (s.viewByte loc).isLt
    rw [State.viewNat, Nat.pow_succ]
    omega

theorem loadNat_lt (s : State) (loc n k : Nat) : s.loadNat loc n k < 256 ^ n := by
  unfold State.loadNat
  split
  · exact Nat.mod_lt _ (Nat.pow_pos (by decide))
  · exact viewNat_lt s loc n

theorem extendTo_false {n v : Nat} (hn : 8 * n ≤ 64) (hv : v < 256 ^ n) :
    extendTo false n v = (BitVec.ofNat (8 * n) v).setWidth 64 := by
  have e : 256 ^ n = 2 ^ (8 * n) := (Nat.pow_mul 2 8 n).symm
  have h64 : 2 ^ (8 * n) ≤ 2 ^ 64 := Nat.pow_le_pow_right (by decide) hn
  refine BitVec.eq_of_toNat_eq ?_
  simp only [extendTo, Bool.false_eq_true, false_and, if_false, BitVec.toNat_ofNat, BitVec.toNat_setWidth]
  rw [Nat.mod_eq_of_lt (a := v) (b := 2 ^ (8 * n)) (by omega)]

theorem extendTo_true {n v : Nat} (hn : 8 * n ≤ 64) (h0 : 0 < n) (hv : v < 256 ^ n) :
    extendTo true n v = (BitVec.ofNat (8 * n) v).signExtend 64 := by
  have e : 256 ^ n = 2 ^ (8 * n) := (Nat.pow_mul 2 8 n).symm
  have h64 : 2 ^ (8 * n) ≤ 2 ^ 64 := Nat.pow_le_pow_right (by decide) hn
  have hp : 2 ^ (8 * n) = 2 * 2 ^ (8 * n - 1) := by
    rw [← Nat.pow_succ']
    congr 1
    omega
  rw [e] at hv
  have hmod : v % 2 ^ (8 * n) = v := Nat.mod_eq_of_lt hv
  refine BitVec.eq_of_toNat_eq ?_
  rw [BitVec.toNat_signExtend, BitVec.msb_eq_decide, BitVec.toNat_setWidth, BitVec.toNat_ofNat, hmod, extendTo,
    Nat.mod_eq_of_lt (show v < 2 ^ 64 by omega)]
  rcases Nat.lt_or_ge v (2 ^ (8 * n - 1)) with h | h
  · rw [Nat.div_eq_of_lt h, decide_eq_false (Nat.not_le.mpr h)]
    simp only [Nat.zero_mod, Nat.zero_ne_one, and_false, if_false, Bool.false_eq_true, BitVec.toNat_ofNat, Nat.add_zero]
    omega
  · have h1 : v / 2 ^ (8 * n - 1) = 1 := Nat.div_eq_of_lt_le (by omega) (by omega)
    rw [h1, decide_eq_true h]
    simp only [Nat.one_mod, and_self, if_true, BitVec.toNat_ofNat]
    omega

/-! ### Scalar loads (R83, R84) -/

theorem State.scalarCheck_ok {s : State} {acc : Acc} {ea : Word} {n loc : Nat}
    (h : s.checkAccess s.ctx acc ea.toNat n = .ok loc) : s.scalarCheck acc ea n = .ok loc := by
  rw [State.scalarCheck, h]

theorem loadBody_ok {s : State} {d : Reg} {sg : Bool} {n loc : Nat} {ea : Word}
    (h : s.checkAccess s.ctx .load ea.toNat n = .ok loc) (hb : s.loadBad loc n 0 = false) :
    loadBody d sg n ea s = .done .seq ((s.setS d (extendTo sg n (s.loadNat loc n 0))).loaded [s.accessAt loc n]) := by
  simp only [loadBody, State.scalarCheck_ok h, hb, Bool.false_eq_true, if_false]

/-- What a load of two registers writes; `e` gives the value that its form makes of the bytes. -/
theorem loadX_ready {s : State} {i : Instr} {f : R3} {sg : Bool} {n loc : Nat} {v : Word} (hr : s.Ready i)
    (h : s.due.checkAccess s.due.ctx .load (s.sreg f.a + s.sreg f.b).toNat n = .ok loc)
    (hb : s.due.loadBad loc n 0 = false) (e : extendTo sg n (s.due.loadNat loc n 0) = v) :
    loadX i f sg n s = .next (((s.due.setS f.d v).loaded [s.due.accessAt loc n]).retire i .seq) := by
  rw [loadX, run_ready hr, ← e]
  exact congrArg (fun r => Host.Outcome.next (conclude s.due i r)) (loadBody_ok h hb)

/-- What a load of a register and a displacement writes. -/
theorem loadI_ready {s : State} {i : Instr} {f : ImmI} {sg : Bool} {n loc : Nat} {v : Word} (hr : s.Ready i)
    (h : s.due.checkAccess s.due.ctx .load (s.sreg f.a + f.imm.signExtend 64).toNat n = .ok loc)
    (hb : s.due.loadBad loc n 0 = false) (e : extendTo sg n (s.due.loadNat loc n 0) = v) :
    loadI i f sg n s = .next (((s.due.setS f.d v).loaded [s.due.accessAt loc n]).retire i .seq) := by
  rw [loadI, run_ready hr, ← e]
  exact congrArg (fun r => Host.Outcome.next (conclude s.due i r)) (loadBody_ok h hb)

/-! ### The arms of the dispatch -/

theorem exec_ldxb (f : R3) (s : State) : exec (.ldxb f) s = loadX (.ldxb f) f true 1 s := rfl
theorem exec_ldxbn (f : R3) (s : State) : exec (.ldxbn f) s = loadX (.ldxbn f) f false 1 s := rfl
theorem exec_ldxh (f : R3) (s : State) : exec (.ldxh f) s = loadX (.ldxh f) f true 2 s := rfl
theorem exec_ldxhn (f : R3) (s : State) : exec (.ldxhn f) s = loadX (.ldxhn f) f false 2 s := rfl
theorem exec_ldxw (f : R3) (s : State) : exec (.ldxw f) s = loadX (.ldxw f) f true 4 s := rfl
theorem exec_ldxwn (f : R3) (s : State) : exec (.ldxwn f) s = loadX (.ldxwn f) f false 4 s := rfl
theorem exec_ldxd (f : R3) (s : State) : exec (.ldxd f) s = loadX (.ldxd f) f false 8 s := rfl
theorem exec_ldd (f : ImmI) (s : State) : exec (.ldd f) s = loadI (.ldd f) f false 8 s := rfl
theorem exec_ldw (f : ImmI) (s : State) : exec (.ldw f) s = loadI (.ldw f) f true 4 s := rfl
theorem exec_ldwn (f : ImmI) (s : State) : exec (.ldwn f) s = loadI (.ldwn f) f false 4 s := rfl
theorem exec_stxb (f : R3) (s : State) : exec (.stxb f) s = storeX (.stxb f) f 1 s := rfl
theorem exec_stxh (f : R3) (s : State) : exec (.stxh f) s = storeX (.stxh f) f 2 s := rfl
theorem exec_stxw (f : R3) (s : State) : exec (.stxw f) s = storeX (.stxw f) f 4 s := rfl
theorem exec_stxd (f : R3) (s : State) : exec (.stxd f) s = storeX (.stxd f) f 8 s := rfl
theorem exec_std (f : ImmB) (s : State) : exec (.std f) s = storeI (.std f) f 8 s := rfl
theorem exec_stw (f : ImmB) (s : State) : exec (.stw f) s = storeI (.stw f) f 4 s := rfl

/-! ### What is left of the loads performed ahead (R258) -/

theorem overlap_eq_false {a n b m : Nat} : overlap a n b m = false ↔ a + n ≤ b ∨ b + m ≤ a := by
  simp only [overlap, Bool.and_eq_false_iff, decide_eq_false_iff_not, not_lt]
  exact or_comm

/-- After one access, the loads performed ahead are those that it does not make void. -/
theorem mem_early_loaded {s : State} {x : Access} {e : Early} :
    e ∈ (s.loaded [x]).me.early ↔ e ∈ s.me.early ∧ e ∈ x.voids s.me.early := by
  unfold State.loaded
  split
  · rename_i h
    simp [List.isEmpty_iff.mp h]
  · simp [State.me_setMe]

/-- Everything before the first place of x, and nothing of x itself. -/
theorem takeWhile_dropWhile_append {l r : List Early} {x : Early} (h : x ∉ l) :
    (l ++ x :: r).takeWhile (· != x) = l ∧ (l ++ x :: r).dropWhile (· != x) = x :: r := by
  induction l with
  | nil => simp
  | cons y t ih =>
    have hy : (y != x) = true := bne_iff_ne.mpr fun e => h (e ▸ List.mem_cons_self)
    obtain ⟨h1, h2⟩ := ih fun hm => h (List.mem_cons_of_mem _ hm)
    simp only [List.cons_append, List.takeWhile_cons, List.dropWhile_cons, hy, if_true, h1, h2, and_self]

/-- An access that takes no load performed ahead makes void those of overlapping bytes. -/
theorem early_loaded_none {s : State} {loc n : Nat} (h : s.me.earlyAt loc n 0 = none) (e : Early) :
    e ∈ (s.loaded [s.accessAt loc n]).me.early ↔ e ∈ s.me.early ∧ (e.loc + e.size ≤ loc ∨ loc + n ≤ e.loc) := by
  rw [mem_early_loaded]
  simp only [State.accessAt, h, Access.voids, List.mem_filter, Bool.not_eq_true', overlap_eq_false]
  exact ⟨fun h => h.2, fun h => ⟨h.1, h⟩⟩

/-- An access that takes one leaves those performed after it, and of the older ones those of other bytes. -/
theorem early_loaded_some {s : State} {loc n : Nat} {x : Early} {newer older : List Early} (h0 : 0 < n)
    (hl : s.me.early = newer ++ x :: older) (hx : x ∉ newer) (h : s.me.earlyAt loc n 0 = some x) (e : Early) :
    e ∈ (s.loaded [s.accessAt loc n]).me.early ↔
      e ∈ newer ∨ (e ∈ older ∧ (e.loc + e.size ≤ loc ∨ loc + n ≤ e.loc)) := by
  have hp := List.find?_some h
  simp only [Bool.and_eq_true, beq_iff_eq] at hp
  obtain ⟨⟨hloc, hsize⟩, -⟩ := hp
  have hself : overlap x.loc x.size loc n = true := by
    rw [hloc, hsize, ← Bool.not_eq_false, overlap_eq_false]
    omega
  obtain ⟨htake, hdrop⟩ := takeWhile_dropWhile_append (r := older) hx
  rw [mem_early_loaded]
  simp only [State.accessAt, h, Access.voids, hl, htake, hdrop, List.filter_cons, hself, Bool.not_true, Bool.false_eq_true,
    if_false, List.mem_append, List.mem_cons, List.mem_filter, Bool.not_eq_true', overlap_eq_false]
  grind

/-- Settles O7: a load reads, extends and writes (`loadX_ready`, `loadI_ready`), and its access makes void what
`early_loaded_none` and `early_loaded_some` say. -/
theorem loadResults : Obligations.LoadResults := by
  refine ⟨fun s f loc => ?indexed, fun s f loc => ?based, fun u loc n => ⟨fun h => ?none, fun x newer older h0 hl hx h => ?some⟩⟩
  case indexed =>
    exact ⟨fun hr h hb => (exec_ldxb f s).trans (loadX_ready hr h hb (extendTo_true (n := 1) (by decide) (by decide) (loadNat_lt ..))),
      fun hr h hb => (exec_ldxbn f s).trans (loadX_ready hr h hb (extendTo_false (n := 1) (by decide) (loadNat_lt ..))),
      fun hr h hb => (exec_ldxh f s).trans (loadX_ready hr h hb (extendTo_true (n := 2) (by decide) (by decide) (loadNat_lt ..))),
      fun hr h hb => (exec_ldxhn f s).trans (loadX_ready hr h hb (extendTo_false (n := 2) (by decide) (loadNat_lt ..))),
      fun hr h hb => (exec_ldxw f s).trans (loadX_ready hr h hb (extendTo_true (n := 4) (by decide) (by decide) (loadNat_lt ..))),
      fun hr h hb => (exec_ldxwn f s).trans (loadX_ready hr h hb (extendTo_false (n := 4) (by decide) (loadNat_lt ..))),
      fun hr h hb => (exec_ldxd f s).trans (loadX_ready hr h hb (extendTo_false (n := 8) (by decide) (loadNat_lt ..)))⟩
  case based =>
    exact ⟨fun hr h hb => (exec_ldd f s).trans (loadI_ready hr h hb (extendTo_false (n := 8) (by decide) (loadNat_lt ..))),
      fun hr h hb => (exec_ldw f s).trans (loadI_ready hr h hb (extendTo_true (n := 4) (by decide) (by decide) (loadNat_lt ..))),
      fun hr h hb => (exec_ldwn f s).trans (loadI_ready hr h hb (extendTo_false (n := 4) (by decide) (loadNat_lt ..)))⟩
  case none =>
    exact ⟨by simp only [State.loadNat, h], by simp only [State.loadBad, h], early_loaded_none h⟩
  case some =>
    exact ⟨by simp only [State.loadNat, h], by simp only [State.loadBad, h], early_loaded_some h0 hl hx h⟩

/-! ### Scalar stores (R83, R84) -/

theorem storeBody_ok {s : State} {n loc : Nat} {ea val : Word} (h : s.checkAccess s.ctx .store ea.toNat n = .ok loc)
    (hb : s.bufferFull [] (loc / 32) = false) :
    storeBody n ea val s = .done .seq (s.store (bufNat [] ea.toNat loc n val.toNat)) := by
  simp only [storeBody, State.scalarCheck_ok h, hb, Bool.false_eq_true, if_false]

theorem storeX_ready {s : State} {i : Instr} {f : R3} {n loc : Nat} (hr : s.Ready i)
    (h : s.due.checkAccess s.due.ctx .store (s.sreg f.a + s.sreg f.b).toNat n = .ok loc)
    (hb : s.due.bufferFull [] (loc / 32) = false) :
    storeX i f n s =
      .next ((s.due.store (bufNat [] (s.sreg f.a + s.sreg f.b).toNat loc n (s.sreg f.d).toNat)).retire i .seq) := by
  rw [storeX, run_ready hr]
  exact congrArg (fun r => Host.Outcome.next (conclude s.due i r)) (storeBody_ok h hb)

theorem storeI_ready {s : State} {i : Instr} {f : ImmB} {n loc : Nat} (hr : s.Ready i)
    (h : s.due.checkAccess s.due.ctx .store (s.sreg f.a + f.imm.signExtend 64).toNat n = .ok loc)
    (hb : s.due.bufferFull [] (loc / 32) = false) :
    storeI i f n s =
      .next ((s.due.store (bufNat [] (s.sreg f.a + f.imm.signExtend 64).toNat loc n (s.sreg f.b).toNat)).retire i .seq) := by
  rw [storeI, run_ready hr]
  exact congrArg (fun r => Host.Outcome.next (conclude s.due i r)) (storeBody_ok h hb)

/-- The body of `czero` (R84). -/
theorem exec_czero_ready {s : State} {f : Pair} (hr : s.Ready (.czero f)) :
    exec (.czero f) s = .next (conclude s.due (.czero f)
      (match s.due.scalarCheck .store ((s.sreg f.a + s.sreg f.b) &&& ~~~63) 64 with
        | .error t => .trap t s.due
        | .ok loc =>
          if s.due.bufferFull [] (loc / 32) ||
              s.due.bufferFull (bufNat [] ((s.sreg f.a + s.sreg f.b) &&& ~~~63).toNat loc 32 0) (loc / 32 + 1) then
            .trap ⟨Cause.stripOverflow, 0, 8 * ((s.sreg f.a + s.sreg f.b) &&& ~~~63).toNat, none⟩ s.due
          else .done .seq (s.due.store (bufNat [] ((s.sreg f.a + s.sreg f.b) &&& ~~~63).toNat loc 64 0)))) :=
  run_ready hr _

/-- Settles O8: the checks pass, and the word stores. -/
theorem storeResults : Obligations.StoreResults := by
  refine ⟨fun s f loc => ⟨fun hr h hb => ?stxb, fun hr h hb => ?stxh, fun hr h hb => ?stxw, fun hr h hb => ?stxd⟩,
    fun s f loc => ⟨fun hr h hb => ?std, fun hr h hb => ?stw⟩, fun s f loc => ?czero⟩
  case stxb => exact (exec_stxb f s).trans (storeX_ready hr h hb)
  case stxh => exact (exec_stxh f s).trans (storeX_ready hr h hb)
  case stxw => exact (exec_stxw f s).trans (storeX_ready hr h hb)
  case stxd => exact (exec_stxd f s).trans (storeX_ready hr h hb)
  case std => exact (exec_std f s).trans (storeI_ready hr h hb)
  case stw => exact (exec_stw f s).trans (storeI_ready hr h hb)
  case czero =>
    intro u ea hr h hb hb'
    rw [exec_czero_ready hr, State.scalarCheck_ok h]
    simp only [u, ea, hb, hb', Bool.or_self, Bool.false_eq_true, if_false, conclude_done]

end Sys2Proof.Machine

/-! The address traps (O10), the reserved pair (O11), and the bytes of stores and commits (O9, O36). -/

namespace Sys2Proof.Machine

set_option Elab.async false

/-! ### Scalar accesses that trap on their address (R83) -/

/-- A word whose first act is the scalar check of an access: when the check fails, its trap is taken. -/
def ScalarAccess (s : State) (i : Instr) (ea : Word) (n : Nat) : Prop :=
  ∃ acc, ∀ t, s.due.scalarCheck acc ea n = .error t → exec i s = .next (conclude s.due i (.trap t s.due))

theorem State.scalarCheck_beyond {s : State} {acc : Acc} {ea : Word} {n : Nat} (h : 2 ^ 57 ≤ ea.toNat) :
    s.scalarCheck acc ea n = .error ⟨Cause.addressRange, 0, 8 * ea.toNat, none⟩ := by
  rw [State.scalarCheck, State.checkAccess, if_pos h]
  rfl

theorem State.scalarCheck_misaligned {s : State} {acc : Acc} {ea : Word} {n : Nat} (h : ea.toNat < 2 ^ 57)
    (hn : ea.toNat % n ≠ 0) : s.scalarCheck acc ea n = .error ⟨Cause.misaligned, 0, 8 * ea.toNat, none⟩ := by
  rw [State.scalarCheck, State.checkAccess, if_neg (Nat.not_le.mpr h), if_pos hn]
  rfl

/-- Issuing a word whose body traps when its scalar check fails. -/
theorem ScalarAccess.of_run {s : State} {i : Instr} {ea : Word} {n : Nat} (acc : Acc) {body : State → Res} (hr : s.Ready i)
    (e : exec i s = run i body s) (hb : ∀ t, s.due.scalarCheck acc ea n = .error t → body s.due = .trap t s.due) :
    ScalarAccess s i ea n :=
  ⟨acc, fun t ht => by rw [e, run_ready hr, hb t ht]⟩

theorem loadBody_error {s : State} {d : Reg} {sg : Bool} {n : Nat} {ea : Word} {t : Trap}
    (h : s.scalarCheck .load ea n = .error t) : loadBody d sg n ea s = .trap t s := by
  simp only [loadBody, h]

theorem storeBody_error {s : State} {n : Nat} {ea val : Word} {t : Trap} (h : s.scalarCheck .store ea n = .error t) :
    storeBody n ea val s = .trap t s := by
  simp only [storeBody, h]

theorem reserveBody_error {s : State} {d : Reg} {sg : Bool} {n : Nat} {ea : Word} {t : Trap}
    (h : s.scalarCheck .load ea n = .error t) : reserveBody d sg n ea s = .trap t s := by
  simp only [reserveBody, closing, h]

theorem conditionalBody_error {s : State} {d : Reg} {n : Nat} {ea val : Word} {t : Trap}
    (h : s.scalarCheck .store ea n = .error t) : conditionalBody d n ea val s = .trap t s := by
  simp only [conditionalBody, closing, h]

section

variable {s : State} {i : Instr} {n : Nat}

theorem scalarAccess_of_mem_indexed {f : R3} (hr : s.Ready i)
    (h : (i, n) ∈ [(Instr.ldxb f, 1), (.ldxbn f, 1), (.ldxh f, 2), (.ldxhn f, 2), (.ldxw f, 4), (.ldxwn f, 4), (.ldxd f, 8),
      (.stxb f, 1), (.stxh f, 2), (.stxw f, 4), (.stxd f, 8)]) : ScalarAccess s i (s.sreg f.a + s.sreg f.b) n := by
  simp only [List.mem_cons, Prod.mk.injEq, List.not_mem_nil, or_false] at h
  rcases h with ⟨rfl, rfl⟩ | ⟨rfl, rfl⟩ | ⟨rfl, rfl⟩ | ⟨rfl, rfl⟩ | ⟨rfl, rfl⟩ | ⟨rfl, rfl⟩ | ⟨rfl, rfl⟩ | h
  iterate 7 · exact .of_run .load hr rfl fun t => loadBody_error
  rcases h with ⟨rfl, rfl⟩ | ⟨rfl, rfl⟩ | ⟨rfl, rfl⟩ | ⟨rfl, rfl⟩
  iterate 4 · exact .of_run .store hr rfl fun t => storeBody_error

theorem scalarAccess_of_mem_load {f : ImmI} (hr : s.Ready i) (h : (i, n) ∈ [(Instr.ldd f, 8), (.ldw f, 4), (.ldwn f, 4)]) :
    ScalarAccess s i (s.sreg f.a + f.imm.signExtend 64) n := by
  simp only [List.mem_cons, Prod.mk.injEq, List.not_mem_nil, or_false] at h
  rcases h with ⟨rfl, rfl⟩ | ⟨rfl, rfl⟩ | ⟨rfl, rfl⟩
  iterate 3 · exact .of_run .load hr rfl fun t => loadBody_error

theorem scalarAccess_of_mem_store {f : ImmB} (hr : s.Ready i) (h : (i, n) ∈ [(Instr.std f, 8), (.stw f, 4)]) :
    ScalarAccess s i (s.sreg f.a + f.imm.signExtend 64) n := by
  simp only [List.mem_cons, Prod.mk.injEq, List.not_mem_nil, or_false] at h
  rcases h with ⟨rfl, rfl⟩ | ⟨rfl, rfl⟩
  iterate 2 · exact .of_run .store hr rfl fun t => storeBody_error

theorem scalarAccess_czero {f : Pair} (hr : s.Ready (.czero f)) :
    ScalarAccess s (.czero f) ((s.sreg f.a + s.sreg f.b) &&& ~~~63) 64 :=
  ⟨.store, fun t ht => by rw [exec_czero_ready hr, ht]⟩

theorem scalarAccess_of_mem_reserve {f : R2} (hr : s.Ready i) (h : (i, n) ∈ [(Instr.lr f, 8), (.lrw f, 4)]) :
    ScalarAccess s i (s.sreg f.a) n := by
  simp only [List.mem_cons, Prod.mk.injEq, List.not_mem_nil, or_false] at h
  rcases h with ⟨rfl, rfl⟩ | ⟨rfl, rfl⟩
  iterate 2 · exact .of_run .load hr rfl fun t => reserveBody_error

theorem scalarAccess_of_mem_conditional {f : R3} (hr : s.Ready i) (h : (i, n) ∈ [(Instr.sc f, 8), (.scw f, 4)]) :
    ScalarAccess s i (s.sreg f.a) n := by
  simp only [List.mem_cons, Prod.mk.injEq, List.not_mem_nil, or_false] at h
  rcases h with ⟨rfl, rfl⟩ | ⟨rfl, rfl⟩
  iterate 2 · exact .of_run .store hr rfl fun t => conditionalBody_error

end

/-- Settles O10: every word of the list is a `ScalarAccess`, and the check fails as the two lemmas say. -/
theorem scalarAddressTraps : Obligations.ScalarAddressTraps := by
  intro s i ea n hi hr
  have hacc : ScalarAccess s i ea n := by
    rcases hi with ⟨f, rfl, h⟩ | ⟨f, rfl, h⟩ | ⟨f, rfl, h⟩ | ⟨f, rfl, h⟩ | ⟨f, rfl, h⟩ | ⟨f, rfl, h⟩
    · exact scalarAccess_of_mem_indexed hr h
    · exact scalarAccess_of_mem_load hr h
    · exact scalarAccess_of_mem_store hr h
    · obtain ⟨rfl, rfl⟩ := Prod.mk.inj h
      exact scalarAccess_czero hr
    · exact scalarAccess_of_mem_reserve hr h
    · exact scalarAccess_of_mem_conditional hr h
  obtain ⟨acc, hacc⟩ := hacc
  refine ⟨fun h => ?_, fun h hn => ?_⟩
  · rw [hacc _ (State.scalarCheck_beyond h), conclude_trap (show Cause.addressRange ≠ Cause.held by decide)]
  · rw [hacc _ (State.scalarCheck_misaligned h hn), conclude_trap (show Cause.misaligned ≠ Cause.held by decide)]

/-! ### The reserved pair (R86) -/

theorem closing_ok {α : Type} {chk : State → Except Trap α} {act : α → State → Res} {s : State} {x : α} (h : chk s = .ok x) :
    closing chk act s = act x s.commitStrip := by
  rw [closing, h]

theorem reserveBody_ok {s : State} {d : Reg} {sg : Bool} {n loc : Nat} {ea v : Word}
    (h : s.checkAccess s.ctx .load ea.toNat n = .ok loc) (hb : s.commitStrip.viewBad loc n = false)
    (e : extendTo sg n (s.commitStrip.viewNat loc n) = v) :
    reserveBody d sg n ea s = .done .seq (State.loaded
      ((s.commitStrip.setS d v).setMe { (s.commitStrip.setS d v).me with resv := some (loc / 64) }) [inPlace loc n]) := by
  rw [reserveBody, closing_ok (State.scalarCheck_ok h), if_neg (by rw [hb]; decide), e]

theorem conditionalBody_ok {s : State} {d : Reg} {n loc : Nat} {ea val : Word}
    (h : s.checkAccess s.ctx .store ea.toNat n = .ok loc) :
    conditionalBody d n ea val s = .done .seq
      (if s.commitStrip.me.resv = some (loc / 64) then
        ((s.commitStrip.setMe { s.commitStrip.me with resv := none }).store (bufNat [] ea.toNat loc n val.toNat)).setS d 0
      else (s.commitStrip.setMe { s.commitStrip.me with resv := none }).setS d 1) := by
  rw [conditionalBody, closing_ok (State.scalarCheck_ok h)]
  simp only [beq_iff_eq]
  split <;> rfl

/-- Settles O11: the check, the commit, and then the load or the store. -/
theorem reservedPair : Obligations.ReservedPair := by
  refine ⟨fun s f loc => ⟨fun hr h hb => ⟨_, rfl, ?lr⟩, fun hr h hb => ⟨_, rfl, ?lrw⟩⟩, fun s f loc n i hi hr h => ?conditional⟩
  case lr =>
    exact run_done hr (reserveBody_ok h hb ((extendTo_false (n := 8) (by decide) (viewNat_lt ..)).trans (BitVec.setWidth_eq _)))
  case lrw => exact run_done hr (reserveBody_ok h hb (extendTo_true (n := 4) (by decide) (by decide) (viewNat_lt ..)))
  case conditional =>
    simp only [List.mem_cons, Prod.mk.injEq, List.not_mem_nil, or_false] at hi
    rcases hi with ⟨rfl, rfl⟩ | ⟨rfl, rfl⟩
    · exact run_done hr (conditionalBody_ok h)
    · exact run_done hr (conditionalBody_ok h)

end Sys2Proof.Machine

/-! Where the bytes of stores and commits go (O9, O36). -/

namespace Sys2Proof.Machine

set_option Elab.async false

/-! ### One sector made visible -/

theorem State.liveLine_congr {s t : State} (h : t.soles = s.soles) (loc : Nat) : t.liveLine loc = s.liveLine loc := by
  simp only [State.liveLine, State.soleAt, h]

@[simp] theorem State.hashInto_soles (s : State) (launch serial : Nat) (bs : List Byte) :
    (s.hashInto launch serial bs).soles = s.soles := by
  unfold State.hashInto
  split <;> rfl

@[simp] theorem State.hashMine_soles (s : State) (bs : List Byte) : (s.hashMine bs).soles = s.soles := by
  unfold State.hashMine
  split
  · exact State.hashInto_soles ..
  · rfl

@[simp] theorem State.writeSector_soles (s : State) (p sec : Nat) (en : BitVec 32) (data : BitVec 256) :
    (s.writeSector p sec en data).soles = s.soles := by
  unfold State.writeSector
  split <;> rfl

/-- A byte after a sector has been written: the enabled bytes of the sector, unless it is a live control line (R219). -/
theorem State.byte_writeSector {s : State} (h : s.MemoryOk) (p sec : Nat) (e : BufSector) (c : Nat)
    (hl : s.liveLine (sec * 32) = false) :
    (s.writeSector p sec e.en e.data).byte c = (bufGet [(sec, e)] c).getD (s.byte c) := by
  have hw : (s.writeSector p sec e.en e.data).byte c =
      cellGet (sectorCells s.mem.cells (sec * 32) e.en e.data 0 32) c := by
    unfold State.writeSector
    rw [if_neg (by rw [hl]; decide)]
    rfl
  rw [hw, cellGet_sectorCells _ _ _ _ _ _ h]
  by_cases hc : sec = c / 32
  · subst hc
    have hj : c - c / 32 * 32 = c % 32 := by omega
    have hin : c / 32 * 32 + 0 ≤ c ∧ c < c / 32 * 32 + 0 + 32 := by omega
    simp only [bufGet, SMap.find, if_true, hj, hin.1, hin.2, true_and]
    split <;> rfl
  · rw [if_neg (by omega)]
    simp only [bufGet, SMap.find, if_neg hc]
    rfl

/-! ### Sectors in any order -/

theorem byVa_perm (l : List (Nat × BufSector)) (x : Nat × BufSector) : (byVa l x).Perm (x :: l) := by
  induction l with
  | nil => exact .refl _
  | cons y t ih =>
    unfold byVa
    split
    · exact .refl _
    · exact (ih.cons y).trans (.swap ..)

theorem foldl_byVa_perm (b l : List (Nat × BufSector)) : (b.foldl byVa l).Perm (b ++ l) := by
  induction b generalizing l with
  | nil => exact .refl _
  | cons x t ih =>
    exact (ih (byVa l x)).trans (((byVa_perm l x).append_left t).trans List.perm_middle)

theorem SMap.find_eq_some_of_mem {α : Type} {m : SMap α} (h : (m.map (·.1)).Nodup) {k : Nat} {v : α} (hm : (k, v) ∈ m) :
    SMap.find m k = some v := by
  induction m with
  | nil => cases hm
  | cons x t ih =>
    obtain ⟨j, u⟩ := x
    rw [List.map_cons, List.nodup_cons] at h
    rcases List.mem_cons.mp hm with e | hm
    · obtain ⟨rfl, rfl⟩ := Prod.mk.inj e
      rw [SMap.find, if_pos rfl]
    · rw [SMap.find, if_neg fun e => h.1 (by subst e; exact List.mem_map_of_mem (f := (·.1)) hm), ih h.2 hm]

theorem SMap.find_eq_none {α : Type} {m : SMap α} {k : Nat} (h : ∀ v, (k, v) ∉ m) : SMap.find m k = none := by
  induction m with
  | nil => rfl
  | cons x t ih =>
    obtain ⟨j, u⟩ := x
    rw [SMap.find, if_neg fun e => h u (by subst e; exact List.mem_cons_self), ih fun v hv => h v (List.mem_cons_of_mem _ hv)]

/-- A map reads the same in any order of its pairs, when each key stands once. -/
theorem SMap.find_perm {α : Type} {m n : SMap α} (p : m.Perm n) (h : (m.map (·.1)).Nodup) (k : Nat) :
    SMap.find n k = SMap.find m k := by
  by_cases hk : ∃ v, (k, v) ∈ m
  · obtain ⟨v, hv⟩ := hk
    rw [SMap.find_eq_some_of_mem h hv, SMap.find_eq_some_of_mem ((p.map _).nodup_iff.mp h) (p.mem_iff.mp hv)]
  · rw [SMap.find_eq_none fun v hv => hk ⟨v, hv⟩, SMap.find_eq_none fun v hv => hk ⟨v, p.mem_iff.mpr hv⟩]

theorem bufGet_cons_other (k : Nat) (e : BufSector) (l : SMap BufSector) {c : Nat} (h : k ≠ c / 32) :
    bufGet ((k, e) :: l) c = bufGet l c := by
  simp only [bufGet, SMap.find, if_neg h]

theorem bufGet_cons_same (e : BufSector) (l : SMap BufSector) (c : Nat) :
    bufGet ((c / 32, e) :: l) c = bufGet [(c / 32, e)] c := by
  simp only [bufGet, SMap.find, if_pos]

theorem bufGet_eq_none_of_find {l : SMap BufSector} {c : Nat} (h : SMap.find l (c / 32) = none) : bufGet l c = none := by
  simp only [bufGet, h]

/-- One sector of a commit: written, with its digest entry, unless it is a live control line. -/
def State.commitSector (s : State) (x : Nat × BufSector) : State :=
  if s.liveLine (x.1 * 32) then s
  else (s.writeSector s.cur x.1 x.2.en x.2.data).hashMine
    (digestEntry x.2.va x.2.en ((s.writeSector s.cur x.1 x.2.en x.2.data).mem.poison.contains x.1) x.2.data)

theorem State.commitSectors_eq (s : State) (b : SMap BufSector) :
    s.commitSectors b = (b.foldl byVa []).foldl State.commitSector s := rfl

@[simp] theorem State.commitSector_soles (s : State) (x : Nat × BufSector) : (s.commitSector x).soles = s.soles := by
  unfold State.commitSector
  split
  · rfl
  · rw [State.hashMine_soles, State.writeSector_soles]

theorem State.MemoryOk.commitSector {s : State} (h : s.MemoryOk) (x : Nat × BufSector) : (s.commitSector x).MemoryOk := by
  unfold State.commitSector
  split
  · exact h
  · exact (h.writeSector _ _ _ _).of_cells (State.hashMine_cells _ _)

theorem State.byte_commitSector {s : State} (h : s.MemoryOk) (x : Nat × BufSector) (c : Nat) :
    (s.commitSector x).byte c = if s.liveLine (x.1 * 32) then s.byte c else (bufGet [x] c).getD (s.byte c) := by
  unfold State.commitSector
  split
  · rfl
  · rename_i hl
    rw [State.byte, State.hashMine_cells]
    exact State.byte_writeSector h _ _ _ c (Bool.eq_false_iff.mpr hl)

/-- A byte after some sectors with different numbers have been committed, in any order. -/
theorem State.byte_commitList {s : State} (h : s.MemoryOk) (l : SMap BufSector) (hn : (l.map (·.1)).Nodup) (c : Nat) :
    (l.foldl State.commitSector s).byte c =
      if s.liveLine (c / 32 * 32) then s.byte c else (bufGet l c).getD (s.byte c) := by
  induction l generalizing s with
  | nil => simp [bufGet]
  | cons x t ih =>
    obtain ⟨k, e⟩ := x
    rw [List.map_cons, List.nodup_cons] at hn
    rw [List.foldl_cons, ih (h.commitSector _) hn.2, State.liveLine_congr (State.commitSector_soles s _),
      State.byte_commitSector h]
    by_cases hk : k = c / 32
    · subst hk
      have ht : bufGet t c = none := bufGet_eq_none_of_find
        (SMap.find_eq_none fun v hv => hn.1 (List.mem_map_of_mem (f := (·.1)) hv))
      simp only [ht, bufGet_cons_same e t, Option.getD_none]
      split <;> rfl
    · have h1 : bufGet [(k, e)] c = none := bufGet_cons_other k e [] hk
      rw [bufGet_cons_other k e t hk, h1]
      simp only [Option.getD_none, ite_self]

theorem nodup_of_rising {α : Type} {m : SMap α} (h : m.Pairwise (fun x y => x.1 < y.1)) : (m.map (·.1)).Nodup :=
  List.pairwise_map.mpr (h.imp fun h => Nat.ne_of_lt h)

/-- What a commit leaves at each location (R110, R112, R219). -/
theorem State.byte_commitSectors {s : State} (h : s.MemoryOk) {b : SMap BufSector} (hb : b.Pairwise (fun x y => x.1 < y.1))
    (c : Nat) :
    (s.commitSectors b).byte c = if s.liveLine (c / 32 * 32) then s.byte c else (bufGet b c).getD (s.byte c) := by
  have p : b.Perm (b.foldl byVa []) := by simpa using (foldl_byVa_perm b []).symm
  have hn := nodup_of_rising hb
  rw [State.commitSectors_eq, State.byte_commitList h _ ((p.map _).nodup_iff.mp hn)]
  simp only [bufGet, SMap.find_perm p hn]

/-! ### A store within one sector (R83) -/

theorem aligned_in_sector {n loc : Nat} (hn : n = 1 ∨ n = 2 ∨ n = 4 ∨ n = 8) (ha : loc % n = 0) : loc % 32 + n ≤ 32 := by
  rcases hn with rfl | rfl | rfl | rfl <;> omega

theorem Seq.forget_unseen (m : Seq) (hit : Hit) : (m.forget hit).unseen = m.unseen := rfl

theorem foldl_forget_unseen (b : SMap BufSector) (m : Seq) :
    (b.foldl (fun m x => m.forget (enabledIn x.1 x.2.en)) m).unseen = m.unseen := by
  induction b generalizing m with
  | nil => rfl
  | cons x t ih => rw [List.foldl_cons, ih, Seq.forget_unseen]

theorem State.store_closed {s : State} (h : s.me.strip = none) (b : SMap BufSector) : s.store b = s.commitSectors b := by
  simp only [State.store, State.storeAs, h]

theorem State.store_open_mem {s : State} {st : Strip} (h : s.me.strip = some st) (b : SMap BufSector) :
    (s.store b).mem = s.mem := by
  simp only [State.store, State.storeAs, h, State.setMe_mem]

/-- The bytes of its own that the sequencer sees after a store into its open strip. -/
theorem State.ownByte_store_open {s : State} {st : Strip} (h : s.me.strip = some st) (b : SMap BufSector) (c : Nat) :
    (s.store b).me.ownByte c =
      (bufGet (bufMerge st.buf (b.filter (fun x => !s.liveLine (x.1 * 32)))) c).or (s.me.unseenAt c) := by
  have hu := foldl_forget_unseen b s.me
  simp only [State.store, State.storeAs, h, State.me_setMe, Seq.ownByte, Seq.unseenAt, hu]

/-- Settles O9: outside a strip the one sector is committed, inside one it is laid over the buffer. -/
theorem storeBytes : Obligations.StoreBytes := by
  intro s va loc n v hm hn ha hlive t
  obtain ⟨e, he⟩ : ∃ e, bufNat [] va loc n v = [(loc / 32, e)] := by
    obtain ⟨k, rfl⟩ : ∃ k, n = k + 1 := Nat.exists_eq_succ_of_ne_zero (by omega)
    exact bufNat_one va loc k v (aligned_in_sector hn ha)
  have hget (c : Nat) : bufGet [(loc / 32, e)] c =
      if loc ≤ c ∧ c < loc + n then some (BitVec.ofNat 8 (v / 256 ^ (c - loc))) else none := by
    rw [← he, bufGet_bufNat]
    rfl
  have hin (k : Nat) (hk : k < n) : bufGet [(loc / 32, e)] (loc + k) = some (BitVec.ofNat 8 (v / 256 ^ k)) := by
    rw [hget, if_pos (by omega), Nat.add_sub_cancel_left]
  have hout (c : Nat) (hc : c < loc ∨ loc + n ≤ c) : bufGet [(loc / 32, e)] c = none := by
    rw [hget, if_neg (by omega)]
  refine ⟨fun hs => ?closed, fun hs => ?inside⟩
  case closed =>
    have ht (c : Nat) : t.byte c =
        if s.liveLine (c / 32 * 32) then s.byte c else (bufGet [(loc / 32, e)] c).getD (s.byte c) := by
      rw [show t = s.commitSectors [(loc / 32, e)] by rw [← he]; exact State.store_closed hs _]
      exact State.byte_commitSectors hm (List.pairwise_singleton _ _) c
    refine ⟨fun k hk => ?_, fun c hc => ?_⟩
    · have hsec : (loc + k) / 32 = loc / 32 := by
        have := aligned_in_sector hn ha
        omega
      rw [ht, hsec, hlive, hin k hk]
      rfl
    · rw [ht, hout c hc]
      simp only [Option.getD_none, ite_self]
  case inside =>
    obtain ⟨st, hst⟩ := Option.isSome_iff_exists.mp hs
    have hbyte (c : Nat) : t.byte c = s.byte c := by
      rw [State.byte, show t.mem = s.mem from State.store_open_mem hst _]
      rfl
    have hown (c : Nat) : t.me.ownByte c = (bufGet [(loc / 32, e)] c).or (s.me.ownByte c) := by
      have hx : t = s.store [(loc / 32, e)] := by rw [← he]
      rw [hx, State.ownByte_store_open hst, List.filter_cons, hlive]
      simp only [Bool.not_false, if_true, List.filter_nil, bufGet_bufMerge_one, Option.or_assoc, Seq.ownByte, hst]
    refine ⟨hbyte, fun k hk => ?_, fun c hc => ?_⟩
    · rw [State.viewByte, hown, hin k hk]
      rfl
    · rw [State.viewByte, State.viewByte, hown, hout c hc, hbyte]
      rfl

/-! ### The sectors of a vector store (R110, R125) -/

/-- An element that is stored covers its bytes; any other leaves the sectors as they are. -/
theorem bufGet_stored_succ (s : State) (fm : Form) (a : Word) (x : Src) (f : Fmt) (mask : Option (BitVec 4096)) (n c : Nat) :
    (∃ loc, activeAt mask n = true ∧ s.checkAccess s.ctx .store (fm.elemAddr a f mask n).toNat (f.width / 8) = .ok loc ∧
      loc ≤ c ∧ c < loc + f.width / 8 ∧
      bufGet (s.stored fm a x f mask (n + 1)) c = some (BitVec.ofNat 8 (x.raw n / 256 ^ (c - loc)))) ∨
    ((∀ loc, ¬(activeAt mask n = true ∧
        s.checkAccess s.ctx .store (fm.elemAddr a f mask n).toNat (f.width / 8) = .ok loc ∧ loc ≤ c ∧ c < loc + f.width / 8)) ∧
      bufGet (s.stored fm a x f mask (n + 1)) c = bufGet (s.stored fm a x f mask n) c) := by
  rw [State.stored]
  split
  · rename_i loc hact hloc
    rw [bufGet_bufNat]
    by_cases hc : loc ≤ c ∧ c < loc + f.width / 8
    · exact .inl ⟨loc, hact, hloc, hc.1, hc.2, if_pos hc⟩
    · refine .inr ⟨fun l hl => hc ?_, if_neg hc⟩
      obtain ⟨-, hl, h1, h2⟩ := hl
      cases hloc.symm.trans hl
      exact ⟨h1, h2⟩
  · rename_i hno
    exact .inr ⟨fun l hl => hno l hl.1 hl.2.1, rfl⟩

/-- The byte of the highest element that covers a location. -/
theorem bufGet_stored (s : State) (fm : Form) (a : Word) (x : Src) (f : Fmt) (mask : Option (BitVec 4096)) (n c : Nat) :
    (∀ k loc, k < n → activeAt mask k = true →
        s.checkAccess s.ctx .store (fm.elemAddr a f mask k).toNat (f.width / 8) = .ok loc → loc ≤ c → c < loc + f.width / 8 →
        (∀ j l, j < n → activeAt mask j = true →
          s.checkAccess s.ctx .store (fm.elemAddr a f mask j).toNat (f.width / 8) = .ok l → l ≤ c → c < l + f.width / 8 →
          j ≤ k) →
        bufGet (s.stored fm a x f mask n) c = some (BitVec.ofNat 8 (x.raw k / 256 ^ (c - loc)))) ∧
      ((∀ k loc, ¬(k < n ∧ activeAt mask k = true ∧
        s.checkAccess s.ctx .store (fm.elemAddr a f mask k).toNat (f.width / 8) = .ok loc ∧ loc ≤ c ∧ c < loc + f.width / 8)) →
        bufGet (s.stored fm a x f mask n) c = none) := by
  induction n with
  | zero => exact ⟨fun k loc hk => absurd hk (Nat.not_lt_zero k), fun _ => rfl⟩
  | succ n ih =>
    obtain ⟨ih1, ih2⟩ := ih
    refine ⟨fun k loc hk hact hloc h1 h2 hmax => ?_, fun hno => ?_⟩
    · rcases bufGet_stored_succ s fm a x f mask n c with ⟨l, hact', hl, g1, g2, e⟩ | ⟨hno, e⟩
      · have hkn : k = n := by
          have := hmax n l (by omega) hact' hl g1 g2
          omega
        subst hkn
        cases hloc.symm.trans hl
        exact e
      · have hkn : k ≠ n := fun hkn => hno loc (hkn ▸ ⟨hact, hloc, h1, h2⟩)
        rw [e]
        exact ih1 k loc (by omega) hact hloc h1 h2 fun j l hj => hmax j l (by omega)
    · rcases bufGet_stored_succ s fm a x f mask n c with ⟨l, hact', hl, g1, g2, e⟩ | ⟨-, e⟩
      · exact absurd ⟨by omega, hact', hl, g1, g2⟩ (hno n l)
      · rw [e]
        exact ih2 fun k loc ⟨hk, h⟩ => hno k loc ⟨by omega, h⟩

/-! ### Closing a strip (R112) -/

@[simp] theorem State.unpin_mem (s : State) (home : Nat) : (s.unpin home).mem = s.mem := (SameMachine.unpin s home).mem

/-- What a write of memory may change of a sequencer: its reservation and the loads performed ahead or late (R86, R257; log 2). -/
def Seq.ButLoads (m n : Seq) : Prop := n = { m with resv := n.resv, early := n.early, late := n.late }

theorem Seq.ButLoads.refl (m : Seq) : m.ButLoads m := rfl

theorem Seq.ButLoads.trans {m n k : Seq} (h : m.ButLoads n) (g : n.ButLoads k) : m.ButLoads k := by
  unfold Seq.ButLoads at *
  rw [g, h]

theorem Seq.ButLoads.forget (m : Seq) (hit : Hit) : m.ButLoads (m.forget hit) := rfl

theorem SMap.find_mapVal {α : Type} (m : SMap α) (f : Nat → α → α) (k : Nat) :
    SMap.find (m.map fun x => (x.1, f x.1 x.2)) k = (SMap.find m k).map (f k) := by
  induction m with
  | nil => rfl
  | cons x t ih =>
    obtain ⟨j, u⟩ := x
    rw [List.map_cons, SMap.find, SMap.find]
    split
    · subst_vars
      rfl
    · exact ih

/-- What a write that becomes visible does to sequencer q. -/
def Seq.seesWrite (w : Nat × Nat) (granule : Nat) (hit : Hit) (q : Nat) (x : Seq) : Seq :=
  if q = w.1 then x.forget hit
  else if (x.olderThan w hit).resv = some granule then { x.olderThan w hit with resv := none } else x.olderThan w hit

theorem loseReservations_eq (m : SMap Seq) (w : Nat × Nat) (granule : Nat) (hit : Hit) :
    loseReservations m w granule hit = m.map fun x => (x.1, Seq.seesWrite w granule hit x.1 x.2) := by
  unfold loseReservations Seq.seesWrite
  congr 1
  funext ⟨q, x⟩
  simp only []
  split
  · rfl
  · split <;> rfl

theorem Seq.seesWrite_butLoads (w : Nat × Nat) (granule : Nat) (hit : Hit) (q : Nat) (x : Seq) :
    x.ButLoads (x.seesWrite w granule hit q) := by
  unfold Seq.seesWrite
  split
  · rfl
  · split <;> rfl

theorem find_loseReservations (m : SMap Seq) (w : Nat × Nat) (granule : Nat) (hit : Hit) (q : Nat) :
    ((SMap.find m q).getD Seq.reset).ButLoads ((SMap.find (loseReservations m w granule hit) q).getD Seq.reset) := by
  rw [loseReservations_eq, SMap.find_mapVal]
  cases SMap.find m q with
  | none => rfl
  | some x => exact Seq.seesWrite_butLoads ..

/-- A sector made visible changes of every sequencer its reservation and its loads ahead at the most. -/
theorem State.writeSector_seqAt (s : State) (p sec : Nat) (en : BitVec 32) (data : BitVec 256) (q : Nat) :
    (s.seqAt q).ButLoads ((s.writeSector p sec en data).seqAt q) := by
  unfold State.writeSector
  split
  · rfl
  · exact find_loseReservations ..

@[simp] theorem State.writeSector_cur (s : State) (p sec : Nat) (en : BitVec 32) (data : BitVec 256) :
    (s.writeSector p sec en data).cur = s.cur := by
  unfold State.writeSector
  split <;> rfl

@[simp] theorem State.hashInto_seqs (s : State) (launch serial : Nat) (bs : List Byte) :
    (s.hashInto launch serial bs).seqs = s.seqs := by
  unfold State.hashInto
  split <;> rfl

@[simp] theorem State.hashInto_cur (s : State) (launch serial : Nat) (bs : List Byte) :
    (s.hashInto launch serial bs).cur = s.cur := by
  unfold State.hashInto
  split <;> rfl

@[simp] theorem State.hashMine_seqs (s : State) (bs : List Byte) : (s.hashMine bs).seqs = s.seqs := by
  unfold State.hashMine
  split
  · exact State.hashInto_seqs ..
  · rfl

@[simp] theorem State.hashMine_cur (s : State) (bs : List Byte) : (s.hashMine bs).cur = s.cur := by
  unfold State.hashMine
  split
  · exact State.hashInto_cur ..
  · rfl

theorem State.commitSector_seqAt (s : State) (x : Nat × BufSector) (q : Nat) :
    (s.seqAt q).ButLoads ((s.commitSector x).seqAt q) := by
  unfold State.commitSector
  split
  · rfl
  · rw [State.seqAt, State.seqAt, State.hashMine_seqs]
    exact State.writeSector_seqAt ..

@[simp] theorem State.commitSector_cur (s : State) (x : Nat × BufSector) : (s.commitSector x).cur = s.cur := by
  unfold State.commitSector
  split
  · rfl
  · rw [State.hashMine_cur, State.writeSector_cur]

theorem State.commitList_seqAt (s : State) (l : List (Nat × BufSector)) (q : Nat) :
    (s.seqAt q).ButLoads ((l.foldl State.commitSector s).seqAt q) ∧ (l.foldl State.commitSector s).cur = s.cur := by
  induction l generalizing s with
  | nil => exact ⟨rfl, rfl⟩
  | cons x t ih =>
    obtain ⟨h1, h2⟩ := ih (s.commitSector x)
    exact ⟨(State.commitSector_seqAt s x q).trans h1, h2.trans (State.commitSector_cur s x)⟩

/-- A commit of sectors changes of every sequencer its reservation and its loads ahead at the most. -/
theorem State.commitSectors_seqAt (s : State) (b : SMap BufSector) (q : Nat) :
    (s.seqAt q).ButLoads ((s.commitSectors b).seqAt q) := (State.commitList_seqAt s _ q).1

@[simp] theorem State.commitSectors_cur (s : State) (b : SMap BufSector) : (s.commitSectors b).cur = s.cur :=
  (State.commitList_seqAt s _ s.cur).2

theorem State.commitSectors_me (s : State) (b : SMap BufSector) : s.me.ButLoads (s.commitSectors b).me := by
  rw [State.me, State.me, State.commitSectors_cur]
  exact State.commitSectors_seqAt ..

theorem State.commitStrip_open {s : State} {st : Strip} (h : s.me.strip = some st) :
    s.commitStrip.mem = (s.commitSectors st.buf).mem ∧
      s.commitStrip.me = { (s.commitSectors st.buf).me with
        strip := none, shapes := [],
        ctl := { (s.commitSectors st.buf).me.ctl with status := withInstrip (s.commitSectors st.buf).me.ctl.status false } } := by
  simp only [State.commitStrip, h, State.setMe_mem, State.unpin_mem, State.me_setMe, State.unpin_me, and_self]

theorem withInstrip_getLsbD_7 (st : Word) (p : Bool) : (withInstrip st p).getLsbD 7 = p := by
  cases p <;> simp [withInstrip, instripBit]

/-- Settles O36: the stored bytes by induction on the elements, the commit sector by sector in any order. -/
theorem storedBytes : Obligations.StoredBytes := by
  refine ⟨fun s fm a x f mask n c => ⟨fun k loc ⟨hk, hact, hloc, h1, h2⟩ hmax => ?_, ?_⟩, fun s b c h hb => ?_,
    fun s st h => ?_⟩
  · exact (bufGet_stored s fm a x f mask n c).1 k loc hk hact hloc h1 h2
      fun j l g1 g2 g3 g4 g5 => hmax j l ⟨g1, g2, g3, g4, g5⟩
  · exact (bufGet_stored s fm a x f mask n c).2
  · exact State.byte_commitSectors h hb c
  · obtain ⟨hmem, hme⟩ := State.commitStrip_open h
    have hk : s.me.ButLoads (s.commitSectors st.buf).me := State.commitSectors_me s st.buf
    rw [hme, hk]
    exact ⟨hmem, rfl, withInstrip_getLsbD_7 _ _, rfl, rfl, rfl⟩

end Sys2Proof.Machine

/-!
Control flow of chapter 4: branches, jumps and their delay slots (O13, O14), hardware loops (O15 to O17), control registers (O18, O19),
and the words of majors 0x1D to 0x1F with the events of a word that cannot be executed (O22, O24).
-/

namespace Sys2Proof.Machine

set_option Elab.async false

/-! ### PC, delay slots and loop stack after a word -/

theorem State.retire_pc (s : State) (i : Instr) (f : Flow) : (s.retire i f).me.pc = (s.me.advance f).1.pc :=
  (State.retire_me s i f).2.2.1

theorem State.retire_loops (s : State) (i : Instr) (f : Flow) : (s.retire i f).me.loops = (s.me.advance f).1.loops :=
  (State.retire_me s i f).2.2.2.1

theorem State.retire_delay (s : State) (i : Instr) (f : Flow) : (s.retire i f).me.delay = (s.me.advance f).1.delay :=
  (State.retire_me s i f).2.2.2.2.1

/-- A branch with no transfer to an address pending begins its own two delay slots (R14). -/
theorem Seq.advance_branch {m : Seq} (h : ∀ n o, m.delay ≠ some ⟨n, some o⟩) (t : Option VAddr) :
    m.advance (.branch t) = ({ m with pc := m.pc + 4, delay := some ⟨2, t⟩ }, false) := by
  unfold Seq.advance
  cases hd : m.delay with
  | none => rfl
  | some d =>
    obtain ⟨left, _ | o⟩ := d
    · rfl
    · exact absurd hd (h left o)

theorem Seq.advance_goto {m : Seq} (h : ∀ n o, m.delay ≠ some ⟨n, some o⟩) (p : VAddr) :
    m.advance (.goto p) = ({ m with pc := p }, false) := by
  unfold Seq.advance
  cases hd : m.delay with
  | none => rfl
  | some d =>
    obtain ⟨left, _ | o⟩ := d
    · rfl
    · exact absurd hd (h left o)

/-- A slot of a taken transfer that is not its last (R14). -/
theorem Seq.advance_seq_slot {m : Seq} {left : Nat} {t : VAddr} (h : m.delay = some ⟨left, some t⟩) (hl : ¬left ≤ 1) :
    m.advance .seq = ({ m with pc := m.pc + 4, delay := some ⟨left - 1, some t⟩ }, false) := by
  simp only [Seq.advance, h, if_neg hl]

/-- The last slot of a taken transfer: control is at the target (R14). -/
theorem Seq.advance_seq_last {m : Seq} {left : Nat} {t : VAddr} (h : m.delay = some ⟨left, some t⟩) (hl : left ≤ 1) :
    m.advance .seq = ({ m with pc := t, delay := m.owed.map Delay.next, owed := none }, false) := by
  simp only [Seq.advance, h, if_pos hl]

theorem lastWord_ne {l : Loops} {pc : VAddr} (h : lastWord l ≠ some pc) :
    l.depth = 0 ∨ pc ≠ (l.top.stop - 4).setWidth 57 := by
  unfold lastWord at h
  split at h
  · exact .inl ‹_›
  · exact .inr fun e => h (congrArg some e.symm)

/-- Outside every loop, and at any word but the last of the top level, LoopStep goes on to the next word (R92). -/
theorem loopStep_inside (fuel : Nat) {l : Loops} {w : VAddr} (h : l.depth = 0 ∨ w ≠ (l.top.stop - 4).setWidth 57) :
    loopStep fuel l w = (l, w + 4, false) := by
  cases fuel with
  | zero => rfl
  | succ n =>
    rw [loopStep]
    split
    · rfl
    · rename_i hd
      rw [if_neg (h.resolve_left hd)]

/-- A slot of a transfer that is not taken, away from the last word of a loop (R14, R93). -/
theorem Seq.advance_seq_untaken {m : Seq} {left : Nat} (h : m.delay = some ⟨left, none⟩) (hl : lastWord m.loops ≠ some m.pc) :
    m.advance .seq =
      ({ m with pc := m.pc + 4, loops := m.loops, delay := if left ≤ 1 then none else some ⟨left - 1, none⟩ }, false) := by
  simp only [Seq.advance, h, loopStep_inside 7 (lastWord_ne hl)]

/-! ### Branches (R87, R88) -/

theorem branchIf_ready {s : State} {i : Instr} {f : ImmB} {c : Word → Word → Bool} {P : Prop} [Decidable P] (h : s.Ready i)
    (hc : c (s.sreg f.a) (s.sreg f.b) = decide P) :
    branchIf i f c s =
      .next (s.due.retire i (.branch (if P then some (s.me.pc + 4 * f.imm.signExtend 57) else none))) := by
  refine run_done h ?_
  rw [State.due_sreg, State.due_sreg, hc]
  simp only [decide_eq_true_eq]
  rfl

theorem branchGs_ready {s : State} {i : Instr} {f : Grant} {b : Bool} {P : Prop} [Decidable P] (h : s.Ready i)
    (hc : ((s.me.grant.gs.toNat == f.k.val) == b) = decide P) :
    branchGs i f b s =
      .next (s.due.retire i (.branch (if P then some (s.me.pc + 4 * f.imm.signExtend 57) else none))) := by
  refine run_done h ?_
  rw [State.due_me, hc]
  simp only [decide_eq_true_eq]
  rfl

theorem exec_beq (f : ImmB) (s : State) : exec (.beq f) s = branchIf (.beq f) f (fun a b => a == b) s := rfl
theorem exec_bne (f : ImmB) (s : State) : exec (.bne f) s = branchIf (.bne f) f (fun a b => a != b) s := rfl
theorem exec_blt (f : ImmB) (s : State) : exec (.blt f) s = branchIf (.blt f) f (fun a b => a.slt b) s := rfl
theorem exec_bge (f : ImmB) (s : State) : exec (.bge f) s = branchIf (.bge f) f (fun a b => !a.slt b) s := rfl
theorem exec_bltn (f : ImmB) (s : State) : exec (.bltn f) s = branchIf (.bltn f) f (fun a b => a.ult b) s := rfl
theorem exec_bgen (f : ImmB) (s : State) : exec (.bgen f) s = branchIf (.bgen f) f (fun a b => !a.ult b) s := rfl
theorem exec_bgs (f : Grant) (s : State) : exec (.bgs f) s = branchGs (.bgs f) f true s := rfl
theorem exec_bgsn (f : Grant) (s : State) : exec (.bgsn f) s = branchGs (.bgsn f) f false s := rfl

theorem slt_eq_decide (a b : Word) : a.slt b = decide (a.toInt < b.toInt) := rfl

theorem not_slt_eq_decide (a b : Word) : (!a.slt b) = decide (b.toInt ≤ a.toInt) := by
  rw [slt_eq_decide, ← decide_not, decide_eq_decide]
  exact Int.not_lt

theorem ult_eq_decide (a b : Word) : a.ult b = decide (a.toNat < b.toNat) := rfl

theorem not_ult_eq_decide (a b : Word) : (!a.ult b) = decide (b.toNat ≤ a.toNat) := by
  rw [ult_eq_decide, ← decide_not, decide_eq_decide]
  exact Nat.not_lt

theorem bne_eq_decide (a b : Word) : (a != b) = decide (a ≠ b) := by
  rw [bne, beq_eq_decide, decide_not]

/-- Settles O13: the branches by their conditions, the slots by the advance past a word. -/
theorem branches : Obligations.Branches := by
  refine ⟨fun s f => ?compare, fun s f => ?grants, fun s i t h => ?begins, fun s i t ho => ?taken, fun s i hl => ?untaken⟩
  case compare =>
    exact ⟨fun h => (exec_beq f s).trans (branchIf_ready h (beq_eq_decide _ _)),
      fun h => (exec_bne f s).trans (branchIf_ready h (bne_eq_decide _ _)),
      fun h => (exec_blt f s).trans (branchIf_ready h (slt_eq_decide _ _)),
      fun h => (exec_bge f s).trans (branchIf_ready h (not_slt_eq_decide _ _)),
      fun h => (exec_bltn f s).trans (branchIf_ready h (ult_eq_decide _ _)),
      fun h => (exec_bgen f s).trans (branchIf_ready h (not_ult_eq_decide _ _))⟩
  case grants =>
    exact ⟨fun h => (exec_bgs f s).trans (branchGs_ready h ((beq_true _).trans (beq_eq_decide _ _))),
      fun h => (exec_bgsn f s).trans (branchGs_ready h (by rw [beq_false, beq_eq_decide, decide_not]))⟩
  case begins =>
    rw [State.retire_pc, State.retire_delay, Seq.advance_branch h]
    exact ⟨rfl, rfl⟩
  case taken =>
    rw [State.retire_pc, State.retire_delay]
    refine ⟨fun hd => ?_, fun hd => ?_⟩
    · rw [Seq.advance_seq_slot hd (by decide)]
      exact ⟨rfl, rfl⟩
    · rw [Seq.advance_seq_last hd (by decide), ho]
      exact ⟨rfl, rfl⟩
  case untaken =>
    rw [State.retire_pc, State.retire_delay]
    refine ⟨fun hd => ?_, fun hd => ?_⟩ <;>
      · rw [Seq.advance_seq_untaken hd hl]
        exact ⟨rfl, rfl⟩

/-! ### Jumps (R89) -/

theorem exec_jal (f : ImmJ) (s : State) : exec (.jal f) s = execJal f s := rfl
theorem exec_jalr (f : R2) (s : State) : exec (.jalr f) s = execJalr f s := rfl
theorem exec_rdpc (f : Dst) (s : State) : exec (.rdpc f) s = execRdpc f s := rfl

/-- Settles O14. -/
theorem jumps : Obligations.Jumps := by
  refine ⟨fun s f h => (exec_jal f s).trans (run_done h rfl), fun s f h => ⟨fun h4 h57 => ?_, fun hbad => ?_⟩,
    fun s f h => (exec_rdpc f s).trans (run_done h rfl)⟩
  · exact (exec_jalr f s).trans (run_done h (if_neg (not_or.mpr ⟨not_not.mpr h4, Nat.not_le.mpr h57⟩)))
  · exact (exec_jalr f s).trans (run_trap h (if_pos hbad))

/-! ### Hardware loops (R91 to R94) -/

theorem exec_loop (f : LoopR) (s : State) :
    exec (.loop f) s = run (.loop f) (fun s => loopPush (s.sreg f.a) f.imm s) s := rfl
theorem exec_loopi (f : LoopI) (s : State) :
    exec (.loopi f) s = run (.loopi f) (fun s => loopPush (f.count.setWidth 64) f.imm s) s := rfl

/-- The two loop instructions push with the count each takes. -/
theorem exec_loopPush {s : State} {i : Instr} {count : Word} {imm : BitVec 13}
    (h : (∃ f : LoopR, i = .loop f ∧ count = s.sreg f.a ∧ imm = f.imm) ∨
      (∃ f : LoopI, i = .loopi f ∧ count = f.count.setWidth 64 ∧ imm = f.imm)) :
    ∃ body : State → Res, exec i s = run i body s ∧ body s.due = loopPush count imm s.due := by
  rcases h with ⟨f, rfl, rfl, rfl⟩ | ⟨f, rfl, rfl, rfl⟩
  · exact ⟨_, exec_loop f s, rfl⟩
  · exact ⟨_, exec_loopi f s, rfl⟩

/-- An ill-formed word takes illegal instruction at its issue, whatever it would wait for (R62, step 1). -/
theorem run_illFormed {i : Instr} (h : i.wf = false) (group : VType → Bool) (body : State → Res) (s : State) :
    runG i group body s = .next ((s.atIssue i).trapped i (Trap.plain Cause.illegalInstruction)) := by
  have hp : (s.atIssue i).precheck i group = .error (Trap.plain Cause.illegalInstruction) := by
    unfold State.precheck
    simp only [h, Bool.not_false, if_true]
  rw [runG, issue_eq, hp, h, Bool.false_and, if_neg Bool.false_ne_true]
  exact congrArg _ (State.stopWord_trap (x := Trap.plain Cause.illegalInstruction) (by decide) _)

theorem loopEntry_wf {i : Instr} {count : Word} {imm : BitVec 13} {s : State}
    (h : (∃ f : LoopR, i = .loop f ∧ count = s.sreg f.a ∧ imm = f.imm) ∨
      (∃ f : LoopI, i = .loopi f ∧ count = f.count.setWidth 64 ∧ imm = f.imm)) : i.wf = decide (2 ≤ imm.toNat) := by
  rcases h with ⟨f, rfl, rfl, rfl⟩ | ⟨f, rfl, rfl, rfl⟩ <;> rfl

/-- Settles O15. -/
theorem loopEntry : Obligations.LoopEntry := by
  refine ⟨fun s i count imm hi => ?_, fun s i p h => by rw [State.retire_pc, Seq.advance_goto h]⟩
  obtain ⟨body, he, hb⟩ := exec_loopPush hi
  refine ⟨fun h h0 => ?_, fun h h0 hd => ?_, fun h h0 hd => ?_, fun h => ?_⟩
  · exact he.trans (run_done h (hb.trans (if_pos h0)))
  · exact he.trans (run_done h (hb.trans ((if_neg h0).trans (dif_pos hd))))
  · exact he.trans (run_trap h (hb.trans ((if_neg h0).trans (dif_neg (Nat.not_lt.mpr hd)))))
  · have hwf : i.wf = false := by
      rw [loopEntry_wf hi]
      exact decide_eq_false (Nat.not_le.mpr h)
    exact he.trans (run_illFormed hwf noGroup body s)

theorem exec_lpop (f : Bare) (s : State) : exec (.lpop f) s = execLpop f s := rfl
theorem exec_lbrk (f : Bare) (s : State) : exec (.lbrk f) s = execLbrk f s := rfl
theorem exec_lcnt (f : Dst) (s : State) : exec (.lcnt f) s = execLcnt f s := rfl
theorem exec_ldep (f : Dst) (s : State) : exec (.ldep f) s = execLdep f s := rfl

theorem Loops.pop_of_depth {l : Loops} (h : l.depth - 1 < 6) :
    l.pop = ⟨l.held.set (l.depth - 1) LoopEntry.zero h, l.depth - 1⟩ := dif_pos h

theorem Loops.pop_depth (l : Loops) : l.pop.depth = l.depth - 1 := by
  unfold Loops.pop
  split <;> rfl

/-- The turn of a sequencer that runs takes illegal instruction at a word that decodes to none (R54, R60). -/
theorem illegalWord_of_decode {x : Nat} {e : Reject} (hx : x < 4294967296) (h : decodeWord x = .error e) : IllegalWord x := by
  intro s hm hf
  have hd : decode (wordBytes x) = .error e := by
    have := decode_wordBytes hx []
    rw [List.append_nil, h] at this
    exact this
  refine ⟨State.wordTurn_error hd, ?_⟩
  show execIllegalInstruction s = _
  simp only [execIllegalInstruction, hm, hf, h]
  rfl

theorem unusedZero_false {ok : Bool} (h : ok = false) (i : Instr) : unusedZero ok i = .error .unusedField := by
  subst h
  rfl

theorem decode1A_reject {x : Nat}
    (h : 3 < fn8 x ∨ x / 8192 % 32 ≠ 0 ∨ x / 256 % 32 ≠ 0 ∨ (fn8 x < 2 ∧ x / 262144 % 32 ≠ 0)) :
    ∃ e, decode1A x = .error e := by
  have hz (hn : ¬3 < fn8 x) : (zA x && zB x) = false ∨ (zD x = false ∧ fn8 x < 2) := by
    simp only [zA, zB, zD, Bool.and_eq_false_iff, beq_eq_false_iff_ne]
    tauto
  unfold decode1A
  split
  · rename_i e
    exact ⟨_, unusedZero_false (by rcases hz (by omega) with h | ⟨h, -⟩ <;> simp_all [Bool.and_assoc]) _⟩
  · rename_i e
    exact ⟨_, unusedZero_false (by rcases hz (by omega) with h | ⟨h, -⟩ <;> simp_all [Bool.and_assoc]) _⟩
  · rename_i e
    exact ⟨_, unusedZero_false ((hz (by omega)).resolve_right (by omega)) _⟩
  · rename_i e
    exact ⟨_, unusedZero_false ((hz (by omega)).resolve_right (by omega)) _⟩
  · exact ⟨_, rfl⟩

/-- Settles O16. -/
theorem loopControl : Obligations.LoopControl := by
  refine ⟨fun s f => ⟨fun h hd => ?_, fun h hd => ?_, fun h hd => ?_, fun h hd => ?_⟩, fun s f => ⟨fun h => ?_, fun h => ?_⟩,
    fun l h0 h6 => ⟨l.pop_depth, fun k => ?_⟩, fun x hx hm h => ?_⟩
  · exact (exec_lpop f s).trans (run_done h (if_neg hd))
  · exact (exec_lbrk f s).trans (run_done h (if_neg hd))
  · exact (exec_lpop f s).trans (run_trap h (if_pos hd))
  · exact (exec_lbrk f s).trans (run_trap h (if_pos hd))
  · exact (exec_lcnt f s).trans (run_done h rfl)
  · exact (exec_ldep f s).trans (run_done h rfl)
  · have hk : (l.depth - 1 = k.val) ↔ k.val + 1 = l.depth := by omega
    rw [Loops.pop_of_depth (by omega)]
    simp only [Vector.get_eq_getElem, Vector.getElem_set, hk]
    rfl
  · obtain ⟨e, he⟩ := decode1A_reject h
    exact illegalWord_of_decode hx ((decodeWord_1A hm).trans he)

/-! ### LoopStep (R92) -/

theorem loopStep_again {fuel : Nat} {l : Loops} {w : VAddr} (h0 : l.depth ≠ 0) (hw : w = (l.top.stop - 4).setWidth 57)
    (hc : l.top.count - 1 ≠ 0) (hd : l.depth - 1 < 6) :
    loopStep (fuel + 1) l w =
      (⟨l.held.set (l.depth - 1) { l.top with count := l.top.count - 1 } hd, l.depth⟩, l.top.start.setWidth 57, true) := by
  rw [loopStep, if_neg h0, if_pos hw, if_pos hc, dif_pos hd]

theorem loopStep_popped {fuel : Nat} {l : Loops} {w : VAddr} (h0 : l.depth ≠ 0) (hw : w = (l.top.stop - 4).setWidth 57)
    (hc : l.top.count - 1 = 0) : loopStep (fuel + 1) l w = loopStep fuel l.pop w := by
  rw [loopStep, if_neg h0, if_pos hw, if_neg (not_not.mpr hc)]

/-- Each level of a loop stack takes one of LoopStep's rounds, and more of them change nothing. -/
theorem loopStep_fuel {a b : Nat} {l : Loops} (w : VAddr) (ha : l.depth ≤ a) (hb : l.depth ≤ b) :
    loopStep a l w = loopStep b l w := by
  induction a generalizing b l with
  | zero =>
    have h0 : l.depth = 0 := by omega
    rw [loopStep_inside 0 (.inl h0), loopStep_inside b (.inl h0)]
  | succ a ih =>
    by_cases h0 : l.depth = 0
    · rw [loopStep_inside _ (.inl h0), loopStep_inside _ (.inl h0)]
    · obtain ⟨b, rfl⟩ : ∃ k, b = k + 1 := Nat.exists_eq_succ_of_ne_zero (by omega)
      rw [loopStep, loopStep, if_neg h0, if_neg h0]
      have hp := l.pop_depth
      rw [ih (b := b) (l := l.pop) (by omega) (by omega)]

theorem Seq.advance_seq_free {m : Seq} (h : m.delay = none) :
    (m.advance .seq).1.pc = (loopStep 7 m.loops m.pc).2.1 ∧ (m.advance .seq).1.loops = (loopStep 7 m.loops m.pc).1 := by
  constructor <;> simp only [Seq.advance, h]

theorem Loops.top_eq {l : Loops} (h : l.depth - 1 < 6) : l.top = l.held[l.depth - 1] := by
  simp [Loops.top, List.getD, h]

/-- Settles O17: the advance past a word makes the loop step, which needs a round for each level. -/
theorem loopStep_obligation : Obligations.LoopStep := by
  intro s i hd h6
  have hadv := Seq.advance_seq_free hd
  simp only [State.retire_pc, State.retire_loops, hadv.1, hadv.2]
  refine ⟨fun h => ?_, fun h0 hw hc => ?_, fun h0 hw hc => ?_⟩
  · rw [loopStep_inside 7 h]
    exact ⟨rfl, rfl⟩
  · have hlt : s.me.loops.depth - 1 < 6 := by omega
    rw [loopStep_again h0 hw (by rwa [ne_eq, sub_eq_zero]) hlt]
    refine ⟨rfl, rfl, ?_, fun k hk => ?_⟩
    · rw [Loops.top_eq (by exact hlt)]
      exact Vector.getElem_set_self hlt
    · simp only [Vector.get_eq_getElem]
      exact Vector.getElem_set_ne hlt k.isLt (by omega)
  · have hu := Seq.advance_seq_free (m := { s.me with loops := s.me.loops.pop }) hd
    rw [State.me_setMe, hu.1, hu.2, loopStep_popped h0 hw (by rw [hc]; rfl)]
    have hp := s.me.loops.pop_depth
    rw [loopStep_fuel (a := 6) (b := 7) s.me.pc (by omega) (by omega)]
    exact ⟨rfl, rfl⟩

/-! ### Control registers (R95, R96, R288) -/

theorem exec_mfc (f : CtlR) (s : State) : exec (.mfc f) s = execMfc f s := rfl
theorem exec_mtc (f : CtlW) (s : State) : exec (.mtc f) s = ctlWrite (.mtc f) f s := rfl
theorem exec_mcset (f : CtlW) (s : State) : exec (.mcset f) s = ctlWrite (.mcset f) f s := rfl
theorem exec_mcclr (f : CtlW) (s : State) : exec (.mcclr f) s = ctlWrite (.mcclr f) f s := rfl

theorem selEntry_of_lt {m : Seq} (h : m.ctl.lsel.toNat < 6) : selEntry m = m.loops.held[m.ctl.lsel.toNat] := by
  simp [selEntry, List.getD, h]

theorem selEntry_of_ge {m : Seq} (h : 6 ≤ m.ctl.lsel.toNat) : selEntry m = LoopEntry.zero := by
  simp [selEntry, List.getD, h]

theorem setSelEntry_of_lt {m : Seq} (h : m.ctl.lsel.toNat < 6) (e : LoopEntry) :
    setSelEntry m e = { m with loops := { m.loops with held := m.loops.held.set m.ctl.lsel.toNat e h } } := dif_pos h

theorem setSelEntry_of_ge {m : Seq} (h : 6 ≤ m.ctl.lsel.toNat) (e : LoopEntry) : setSelEntry m e = m :=
  dif_neg (Nat.not_lt.mpr h)

/-- Settles O18. -/
theorem controlRegisters : Obligations.ControlRegisters := by
  refine ⟨fun s f h => (exec_mfc f s).trans (run_done h rfl),
    fun s f => ⟨fun h => (exec_mtc f s).trans (run_done h rfl), fun h => (exec_mcset f s).trans (run_done h rfl),
      fun h => (exec_mcclr f s).trans (run_done h rfl)⟩, fun s => ?_⟩
  refine ⟨rfl, rfl, rfl, rfl, rfl, rfl, rfl, rfl, rfl, rfl, rfl, rfl, rfl, rfl, rfl, rfl, rfl, rfl, rfl, rfl, fun h => ?_, fun h => ?_,
    State.me_setMe _ _, fun n hn => if_neg hn⟩
  · exact ⟨congrArg LoopEntry.start (selEntry_of_lt h), congrArg LoopEntry.stop (selEntry_of_lt h),
      congrArg LoopEntry.count (selEntry_of_lt h)⟩
  · exact ⟨congrArg LoopEntry.start (selEntry_of_ge h), congrArg LoopEntry.stop (selEntry_of_ge h),
      congrArg LoopEntry.count (selEntry_of_ge h)⟩

/-- A control register after the control registers have been replaced. -/
theorem State.ctl_setCtl (s : State) (c : Ctl) : (s.setCtl c).me.ctl = c := by rw [State.me_setCtl]

theorem selEntry_setSelEntry {m : Seq} (h : m.ctl.lsel.toNat < 6) (e : LoopEntry) : selEntry (setSelEntry m e) = e := by
  rw [setSelEntry_of_lt h, selEntry_of_lt (by exact h)]
  exact Vector.getElem_set_self h

/-- A word with one bit put to a value. -/
theorem putBit_getLsbD (st : Word) (p : Bool) {n k : Nat} (hn : n < 64) (hk : k < 64) :
    ((st &&& ~~~BitVec.twoPow 64 n) ||| (if p then BitVec.twoPow 64 n else 0#64)).getLsbD k =
      if k = n then p else st.getLsbD k := by
  have hb : (BitVec.twoPow 64 n).getLsbD k = decide (n = k) := by
    rw [BitVec.getLsbD_twoPow, decide_eq_true hn, Bool.true_and]
  have hz : (if p then BitVec.twoPow 64 n else 0#64).getLsbD k = (decide (n = k) && p) := by
    cases p
    · exact (BitVec.getLsbD_zero ..).trans (Bool.and_false _).symm
    · rw [if_pos rfl, hb, Bool.and_true]
  rw [BitVec.getLsbD_or, hz, BitVec.getLsbD_and, BitVec.getLsbD_not, hb, decide_eq_true hk]
  by_cases h : k = n
  · subst h
    simp only [decide_true, Bool.true_and, Bool.not_true, Bool.and_false, Bool.false_or, if_true]
  · simp only [decide_eq_false (Ne.symm h), Bool.not_false, Bool.and_true, Bool.false_and, Bool.or_false, if_neg h]

theorem withInstrip_getLsbD (st : Word) (p : Bool) {k : Nat} (hk : k < 64) :
    (withInstrip st p).getLsbD k = if k = 7 then p else st.getLsbD k := putBit_getLsbD st p (n := 7) (by decide) hk

theorem withPriv_getLsbD (st : Word) (p : Bool) {k : Nat} (hk : k < 64) :
    (withPriv st p).getLsbD k = if k = 0 then p else st.getLsbD k := putBit_getLsbD st p (n := 0) (by decide) hk

theorem statusMask_getLsbD {k : Nat} (hk : k < 64) : statusMask.getLsbD k = decide (k < 8) := by
  revert k
  decide

/-- STATUS after a write, bit by bit (R10, R11, R95). -/
theorem statusWrite_getLsbD (old v : Word) {k : Nat} (hk : k < 64) :
    (statusWrite old v).getLsbD k =
      if 8 ≤ k then false
      else if k = 7 then old.getLsbD 7
      else if k = 0 then (old.getLsbD 0 && v.getLsbD 0)
      else v.getLsbD k := by
  have hx : (withInstrip (v &&& statusMask) (old.getLsbD 7)).getLsbD k =
      if k = 7 then old.getLsbD 7 else (v.getLsbD k && decide (k < 8)) := by
    rw [withInstrip_getLsbD _ _ hk, BitVec.getLsbD_and, statusMask_getLsbD hk]
  by_cases hp : isPriv old = true
  · have h0 : old.getLsbD 0 = true := hp
    simp only [statusWrite, if_pos hp, hx, h0, Bool.true_and]
    by_cases h8 : 8 ≤ k
    · rw [if_pos h8, if_neg (by omega), decide_eq_false (by omega), Bool.and_false]
    · rw [if_neg h8, decide_eq_true (by omega), Bool.and_true]
      by_cases h0 : k = 0
      · subst h0
        rfl
      · rw [if_neg h0]
  · have h0 : old.getLsbD 0 = false := by simpa [isPriv] using hp
    simp only [statusWrite, if_neg hp, withPriv_getLsbD _ _ hk, hx, h0, Bool.false_and]
    by_cases h8 : 8 ≤ k
    · rw [if_pos h8, if_neg (by omega), if_neg (by omega), decide_eq_false (by omega), Bool.and_false]
    · rw [if_neg h8, decide_eq_true (by omega), Bool.and_true]
      by_cases h0 : k = 0
      · subst h0
        rfl
      · rw [if_neg h0, if_neg h0]

theorem SameMachine.setCtl (s : State) (c : Ctl) : SameMachine s (s.setCtl c) := SameMachine.setMe s _

theorem SameMachine.writeCtl (s : State) (n : Nat) (v : Word) : SameMachine s (s.writeCtl n v) := by
  unfold State.writeCtl
  simp only []
  split
  all_goals first | exact SameMachine.setMe s _ | exact SameMachine.refl s

theorem setDepth_get {l : Loops} {n : Nat} (h : n < 7) (k : Fin 6) :
    (setDepth l n).held.get k = if n ≤ k.val ∧ k.val < l.depth then ⟨0, 0, 0⟩ else l.held.get k := by
  rw [setDepth, if_neg (by omega)]
  simp only [Vector.get_eq_getElem, Vector.getElem_ofFn]
  rfl

theorem setDepth_depth {l : Loops} {n : Nat} (h : n < 7) : (setDepth l n).depth = n := by
  rw [setDepth, if_neg (by omega)]

theorem State.writeCtl_depth_me (s : State) (v : Word) :
    (s.writeCtl 0x021 v).me = { s.me with loops := setDepth s.me.loops (v.toNat % 8) } := State.me_setMe _ _

/-- Settles O19. -/
theorem controlWriteRules : Obligations.ControlWriteRules := by
  intro s v
  refine ⟨?_, ?_, ?_, ?_, ?_, ?_, ?_, ?_, ?_, ?_, ?_, ?_, ?_, ?_, fun h => ?_, fun h => ?_, fun h => ⟨?_, ?_, ?_⟩,
    fun h => ⟨?_, ?_, ?_⟩, fun h => ?_, fun h => ⟨?_, fun k => ?_⟩, fun k hk => ?_, fun n => SameMachine.writeCtl s n v⟩
  · exact congrArg Ctl.det (State.ctl_setCtl s _)
  · exact congrArg Ctl.chk (State.ctl_setCtl s _)
  · exact congrArg Ctl.sdseed (State.ctl_setCtl s _)
  · exact congrArg Ctl.sbase (State.ctl_setCtl s _)
  · exact congrArg Ctl.ptab (State.ctl_setCtl s _)
  · exact congrArg Ctl.tvec (State.ctl_setCtl s _)
  · exact congrArg Ctl.cause (State.ctl_setCtl s _)
  · exact congrArg Ctl.trappc (State.ctl_setCtl s _)
  · exact congrArg Ctl.addr (State.ctl_setCtl s _)
  · exact congrArg Ctl.elem (State.ctl_setCtl s _)
  · exact congrArg Ctl.tstatus (State.ctl_setCtl s _)
  · exact congrArg Ctl.resume (State.ctl_setCtl s _)
  · exact congrArg Ctl.scratch (State.ctl_setCtl s _)
  · exact congrArg Ctl.lsel (State.ctl_setCtl s _)
  · exact (congrArg Ctl.target (State.ctl_setCtl s _)).trans (if_neg h)
  · exact (congrArg Ctl.target (State.ctl_setCtl s _)).trans (if_pos h)
  · exact congrArg LoopEntry.start ((congrArg selEntry (State.me_setMe s _)).trans (selEntry_setSelEntry h _))
  · exact congrArg LoopEntry.stop ((congrArg selEntry (State.me_setMe s _)).trans (selEntry_setSelEntry h _))
  · exact congrArg LoopEntry.count ((congrArg selEntry (State.me_setMe s _)).trans (selEntry_setSelEntry h _))
  iterate 3 exact (State.me_setMe s _).trans (setSelEntry_of_ge h _)
  · rw [State.writeCtl_depth_me, h, show setDepth s.me.loops 7 = s.me.loops from if_pos (by decide)]
  · rw [State.writeCtl_depth_me]
    exact setDepth_depth h
  · rw [State.writeCtl_depth_me]
    exact setDepth_get h k
  · exact (congrArg (BitVec.getLsbD · k) (congrArg Ctl.status (State.ctl_setCtl s _))).trans (statusWrite_getLsbD _ _ hk)

/-! ### `trap`, `rft` and the system words (R63, R99, R100) -/

theorem exec_trap (f : TrapK) (s : State) : exec (.trap f) s = execTrap f s := rfl
theorem exec_rft (f : Bare) (s : State) : exec (.rft f) s = execRft f s := rfl
theorem exec_ifence (f : Bare) (s : State) : exec (.ifence f) s = execIfence f s := rfl
theorem exec_pause (f : Bare) (s : State) : exec (.pause f) s = execPause f s := rfl
theorem exec_sdrain (f : Bare) (s : State) : exec (.sdrain f) s = execSdrain f s := rfl
theorem exec_halt (f : Bare) (s : State) : exec (.halt f) s = execHalt f s := rfl

/-- The sequencer after `rft`: STATUS, PC and the owed transfer come back, nothing else moves (R99). -/
theorem State.returnFromTrap_me (s : State) :
    s.returnFromTrap.me = { s.me with
      pc := s.me.ctl.resume.setWidth 57, dist := [], avail := []
      delay := if s.me.ctl.target.toNat % 4 = 0 then none
        else some ⟨s.me.ctl.target.toNat % 4, some ((s.me.ctl.target &&& ~~~3).setWidth 57)⟩
      owed := none, ctl := { s.me.ctl with status := withInstrip s.me.ctl.tstatus false } } := State.me_setMe _ _

/-- A word that stays where it is moves neither PC, loops, slots nor its mode. -/
theorem State.retire_stay (s : State) (i : Instr) :
    (s.retire i .stay).me.pc = s.me.pc ∧ (s.retire i .stay).me.loops = s.me.loops ∧
      (s.retire i .stay).me.delay = s.me.delay ∧ (s.retire i .stay).me.mode = s.me.mode := by
  obtain ⟨-, -, hpc, hloops, hdelay, hmode⟩ := State.retire_me s i .stay
  refine ⟨hpc, hloops, hdelay, ?_⟩
  rcases hmode with ⟨h, -⟩ | ⟨-, -, h, -⟩
  · exact h
  · cases h

/-- A privileged word that is well formed, waits for nothing and reads nothing takes the first cause of steps 2 and 3. -/
theorem run_stopped {s : State} {i : Instr} {group : VType → Bool} {body : State → Res} {c : Nat}
    (ht : heldByToken s.me (instrInfo i) = false) (hc : heldByChunks s.cmds s.cur (instrInfo i).masks = false)
    (hp : (s.atIssue i).precheck i group = .error (Trap.plain c)) (hx : c ≠ Cause.held) :
    runG i group body s = .next ((s.atIssue i).trapped i (Trap.plain c)) := by
  rw [runG, issue_eq, hp, ht, hc, Bool.or_false, Bool.and_false, if_neg Bool.false_ne_true]
  exact congrArg _ (State.stopWord_trap (x := Trap.plain c) hx _)

theorem precheck_privileged {s : State} {i : Instr} (group : VType → Bool) (hw : i.wf = true) (hn : needsPriv i = true)
    (hp : isPriv s.me.ctl.status = false) : s.precheck i group = .error (Trap.plain Cause.privileged) := by
  unfold State.precheck
  simp only [hw, hn, hp, Bool.not_true, Bool.false_eq_true, if_false, Bool.not_false, Bool.and_true, if_true]

theorem precheck_illegalInStrip {s : State} {i : Instr} (group : VType → Bool) (hw : i.wf = true)
    (hn : needsPriv i = true → isPriv s.me.ctl.status = true) (hi : illegalInStrip s.me i = true) :
    s.precheck i group = .error (Trap.plain Cause.illegalInStrip) := by
  have hp : (needsPriv i && !isPriv s.me.ctl.status) = false := by
    cases h : needsPriv i
    · rfl
    · rw [hn h]
      rfl
  unfold State.precheck
  simp only [hw, hp, hi, Bool.not_true, Bool.false_eq_true, if_false, if_true]

/-- A slot counted down by a word that goes elsewhere (R99). -/
theorem Seq.advance_goto_slot {m : Seq} {left : Nat} {t : VAddr} (h : m.delay = some ⟨left, some t⟩) (hl : ¬left ≤ 1)
    (p : VAddr) : m.advance (.goto p) = ({ m with pc := p, delay := some ⟨left - 1, some t⟩ }, false) := by
  simp only [Seq.advance, h, if_neg hl]

theorem Seq.advance_goto_last {m : Seq} {left : Nat} {t : VAddr} (h : m.delay = some ⟨left, some t⟩) (hl : left ≤ 1)
    (p : VAddr) : m.advance (.goto p) = ({ m with pc := t, delay := m.owed.map Delay.next, owed := none }, false) := by
  simp only [Seq.advance, h, if_pos hl]

theorem Seq.advance_branch_slot {m : Seq} {left : Nat} {t : VAddr} (h : m.delay = some ⟨left, some t⟩) (hl : ¬left ≤ 1)
    (o : Option VAddr) : m.advance (.branch o) =
      ({ m with pc := m.pc + 4, delay := some ⟨left - 1, some t⟩, owed := some ⟨2, o⟩ }, false) := by
  simp only [Seq.advance, h, if_neg hl]

theorem Seq.advance_branch_last {m : Seq} {left : Nat} {t : VAddr} (h : m.delay = some ⟨left, some t⟩) (hl : left ≤ 1)
    (o : Option VAddr) : m.advance (.branch o) = ({ m with pc := t, delay := some ⟨2, o⟩, owed := none }, false) := by
  simp only [Seq.advance, h, if_pos hl]

/-- The sequencer after a completed word: past the word, in its pace (R14, R56, R57). -/
def Seq.retired (m : Seq) (clock : Nat) (i : Instr) (f : Flow) : Seq :=
  { (m.advance f).1 with
    dist := if f = .stay then (m.advance f).1.dist
      else stepDist (m.advance f).1.dist (instrInfo i).w (instrInfo i).dsts (instrInfo i).lat
    avail := if f = .stay then (m.advance f).1.avail
      else stepAvail (m.advance f).1.avail clock (instrInfo i).dsts (instrInfo i).lat
    ready := clock + 1 + (instrInfo i).w
    tokens := if givesToken i then (m.advance f).1.tokens
      else (m.advance f).1.tokens.filter (fun r => !(instrInfo i).dsts.contains r) }

/-- The sequencer stopped at a pre-emption point of its iteration (R297). -/
def Seq.stoppedAt (m : Seq) (kind : Nat) : Seq :=
  { m with mode := .stopped kind, resv := none, replay := false, posted := none, late := [] }

/-- Retiring a word is the advance past it, and a stop where one is due. -/
theorem State.retire_me_cases (s : State) (i : Instr) (f : Flow) :
    (s.retire i f).me = s.me.retired s.clock i f ∨
      ((s.me.advance f).2 = true ∧ (s.retire i f).me = (s.me.retired s.clock i f).stoppedAt 2) := by
  unfold State.retire
  simp only []
  generalize hA : s.setMe _ = A
  have hm : A.me = s.me.retired s.clock i f := by
    rw [← hA]
    exact State.me_setMe ..
  generalize hC : (if (A.advanceChecks i).me.strip = none then (A.advanceChecks i).unpin s.me.pc.toNat
    else A.advanceChecks i) = C
  have hmC : C.me = s.me.retired s.clock i f := by
    rw [← hC, ← hm]
    split
    · rw [State.unpin_me, State.advanceChecks_me]
    · exact State.advanceChecks_me A i
  split
  · rename_i hb
    rcases State.stopIfAsked_cases C 2 with h | ⟨-, h⟩
    · exact .inl (by rw [h, hmC])
    · refine .inr ⟨hb.1, ?_⟩
      rw [h, State.me_setMe, hmC]
      rfl
  · exact .inl hmC

theorem State.retire_owed (s : State) (i : Instr) (f : Flow) : (s.retire i f).me.owed = (s.me.advance f).1.owed := by
  rcases State.retire_me_cases s i f with h | ⟨-, h⟩ <;> rw [h] <;> rfl

theorem decode1D_reject {x : Nat}
    (h : (fSel x ≠ 0 ∧ (fSel x < 0x100 ∨ 0x1FF < fSel x)) ∨ x / 262144 % 32 ≠ 0 ∨ x / 8192 % 32 ≠ 0) :
    ∃ e, decode1D x = .error e := by
  have hz : ¬(fSel x ≠ 0 ∧ (fSel x < 0x100 ∨ 0x1FF < fSel x)) → zDA x = false := by
    intro hn
    have h' := h.resolve_left hn
    rw [zDA, beq_eq_false_iff_ne]
    omega
  unfold decode1D
  split
  · exact ⟨_, unusedZero_false (hz (by omega)) _⟩
  · split
    · exact ⟨_, unusedZero_false (hz (by omega)) _⟩
    · exact ⟨_, rfl⟩

/-- A word that reads no register issues as soon as the clock lets it (R56). -/
theorem State.atIssue_of_noSources (s : State) {i : Instr} (h : (instrInfo i).srcs = []) : s.atIssue i = s.due := by
  simp only [State.atIssue, Seq.issueAt, h, List.foldl_nil, ite_self, State.due]

/-- Settles O22. -/
theorem softwareTrapAndReturn : Obligations.SoftwareTrapAndReturn := by
  refine ⟨fun s f h => (exec_trap f s).trans (run_trap h rfl (show Cause.softwareTrap ≠ Cause.held by decide)), fun s f => ⟨fun h => ?_, fun hp => ?_, fun hp ho => ?_⟩,
    fun s i left t hd => ?_, fun x hx hm h => ?_⟩
  · refine ⟨_, (exec_rft f s).trans (run_done h rfl), ?_⟩
    obtain ⟨hpc, hloops, hdelay, -⟩ := State.retire_stay s.due.returnFromTrap (.rft f)
    obtain ⟨hctx, hregs, -⟩ := State.retire_me s.due.returnFromTrap (.rft f) .stay
    have hme := State.returnFromTrap_me s.due
    rw [State.due_me] at hme
    rw [hme] at hpc hloops hdelay hregs hctx
    refine ⟨hpc, fun k hk => ?_, fun h4 => ?_, fun h4 => ?_, hregs, hloops, hctx.grant,
      ((SameMachine.due s).trans (SameMachine.setMe _ _)).trans (SameMachine.retire _ _ _)⟩
    · rw [hctx.ctl]
      exact withInstrip_getLsbD _ _ hk
    · rw [hdelay]
      exact if_pos h4
    · rw [hdelay]
      exact if_neg h4
  · rw [← State.atIssue_of_noSources s (i := .rft f) rfl]
    exact (exec_rft f s).trans (run_stopped rfl rfl (precheck_privileged (s := s.atIssue (.rft f)) noGroup rfl rfl hp) (by decide))
  · have hi : illegalInStrip s.me (.rft f) = true := by rw [illegalInStrip, ho]; rfl
    rw [← State.atIssue_of_noSources s (i := .rft f) rfl]
    exact (exec_rft f s).trans (run_stopped rfl rfl
      (precheck_illegalInStrip (s := s.atIssue (.rft f)) noGroup rfl (fun _ => hp) hi) (by decide))
  · simp only [State.retire_pc, State.retire_delay, State.retire_owed]
    refine ⟨fun h2 => ⟨?_, fun p => ?_, fun o => ?_⟩, fun h1 => ⟨?_, fun p => ?_, fun o => ?_⟩⟩
    · rw [Seq.advance_seq_slot hd (by omega)]
      exact ⟨rfl, rfl⟩
    · rw [Seq.advance_goto_slot hd (by omega)]
      exact ⟨rfl, rfl⟩
    · rw [Seq.advance_branch_slot hd (by omega)]
      exact ⟨rfl, rfl, rfl⟩
    · rw [Seq.advance_seq_last hd h1]
      exact ⟨rfl, fun ho => congrArg (Option.map Delay.next) ho, fun k o ho => congrArg (Option.map Delay.next) ho⟩
    · rw [Seq.advance_goto_last hd h1]
    · rw [Seq.advance_branch_last hd h1]
      exact ⟨rfl, rfl⟩
  · obtain ⟨e, he⟩ := decode1D_reject h
    exact illegalWord_of_decode hx ((decodeWord_1D hm).trans he)

/-- Settles O24. -/
theorem systemWords : Obligations.SystemWords := by
  refine ⟨fun s f => ⟨fun h => (exec_ifence f s).trans (run_done h rfl), fun h => (exec_pause f s).trans (run_done h rfl),
    fun h => (exec_sdrain f s).trans (run_done h rfl), fun h => ⟨_, (exec_halt f s).trans (run_done h rfl), ?_⟩⟩, fun s => ?_⟩
  · obtain ⟨hpc, hloops, -, hmode⟩ := State.retire_stay (s.due.setMe { s.due.me with mode := .halted }) (.halt f)
    obtain ⟨hctx, hregs, -⟩ := State.retire_me (s.due.setMe { s.due.me with mode := .halted }) (.halt f) .stay
    simp only [State.me_setMe] at hpc hloops hmode hregs hctx
    exact ⟨hmode, hpc, hregs, hloops, hctx.ctl,
      ((SameMachine.due s).trans (SameMachine.setMe _ _)).trans (SameMachine.retire _ _ _)⟩
  · show (_ → (∀ x, _ → (∀ e, _ → execIllegalInstruction s = _) ∧ (∀ i, _ → execIllegalInstruction s = _) ∧
      execInstructionFetchFault s = _) ∧ ∀ e, _ → execIllegalInstruction s = _ ∧ (_ → execInstructionFetchFault s = _) ∧
      (_ → execInstructionFetchFault s = _)) ∧ (_ → execIllegalInstruction s = _ ∧ execInstructionFetchFault s = _)
    refine ⟨fun hm => ⟨fun x hx => ⟨fun e he => ?_, fun i hi => ?_, ?_⟩, fun e he => ⟨?_, fun hc => ?_, fun hc => ?_⟩⟩,
      fun hm => ⟨?_, ?_⟩⟩
    · simp only [execIllegalInstruction, hm, hx, he]
      rfl
    · simp only [execIllegalInstruction, hm, hx, hi]
    · simp only [execInstructionFetchFault, hm, hx]
    · simp only [execIllegalInstruction, hm, he]
    · simp only [execInstructionFetchFault, hm, he, if_neg hc]
      rfl
    · simp only [execInstructionFetchFault, hm, he, if_pos hc]
    · unfold execIllegalInstruction
      split
      · exact absurd ‹_› hm
      · rfl
    · unfold execInstructionFetchFault
      split
      · exact absurd ‹_› hm
      · rfl

end Sys2Proof.Machine

/-! The first causes of an issuing word (O20), and what taking a trap does (O21, O23). -/

namespace Sys2Proof.Machine

set_option Elab.async false

/-! ### The clock of an issue (R56, R57) -/

theorem foldl_atLeast_le (f : Nat → Nat → Nat) (h : ∀ t r, t ≤ f t r) (l : List Nat) (t : Nat) : t ≤ l.foldl f t := by
  induction l generalizing t with
  | nil => exact Nat.le_refl t
  | cons r l ih => exact (h t r).trans (ih _)

/-- A fold of lower bounds is done once it has been made. -/
theorem foldl_atLeast_idem (g : Nat → Nat) (l : List Nat) (t u : Nat)
    (h : l.foldl (fun t r => if r = 0 then t else max t (g r)) t ≤ u) :
    l.foldl (fun t r => if r = 0 then t else max t (g r)) u = u := by
  induction l generalizing t with
  | nil => rfl
  | cons r l ih =>
    rw [List.foldl_cons] at h ⊢
    have hstep : (if r = 0 then u else max u (g r)) = u := by
      split
      · rfl
      · rename_i hr
        rw [if_neg hr] at h
        have hle := foldl_atLeast_le (fun t r => if r = 0 then t else max t (g r))
          (fun t r => by split <;> omega) l (max t (g r))
        exact max_eq_left ((le_max_right t (g r)).trans (hle.trans h))
    rw [hstep]
    exact ih _ h

theorem Seq.le_issueAt (m : Seq) (clock : Nat) (srcs : List Nat) : max clock m.ready ≤ m.issueAt clock srcs := by
  unfold Seq.issueAt
  simp only []
  split
  · exact Nat.le_refl _
  · exact foldl_atLeast_le _ (fun t r => by split <;> omega) _ _

/-- A word that has reached the clock of its issue issues there (R56, R57). -/
theorem Seq.issueAt_issueAt (m : Seq) (clock : Nat) (srcs : List Nat) :
    m.issueAt (m.issueAt clock srcs) srcs = m.issueAt clock srcs := by
  have hle := m.le_issueAt clock srcs
  have hmax : max (m.issueAt clock srcs) m.ready = m.issueAt clock srcs :=
    max_eq_left ((le_max_right _ _).trans hle)
  rw [Seq.issueAt.eq_def m (m.issueAt clock srcs), hmax]
  simp only []
  split
  · rfl
  · rename_i hc
    refine foldl_atLeast_idem _ srcs (max clock m.ready) _ ?_
    rw [Seq.issueAt.eq_def m clock]
    simp only [if_neg hc, le_refl]

theorem State.atIssue_atIssue (s : State) (i : Instr) : (s.atIssue i).atIssue i = s.atIssue i := by
  show ({ s with clock := _ } : State) = { s with clock := _ }
  rw [show (s.atIssue i).me.issueAt (s.atIssue i).clock (instrInfo i).srcs = s.me.issueAt s.clock (instrInfo i).srcs from
    s.me.issueAt_issueAt s.clock _]

/-- A word that waits for no token or chunk issues as it does at the clock of its issue. -/
theorem issue_atIssue {s : State} {i : Instr} (group : VType → Bool) (body : State → Res)
    (ht : heldByToken s.me (instrInfo i) = false) (hc : heldByChunks s.cmds s.cur (instrInfo i).masks = false) :
    s.issue i group body = (s.atIssue i).issue i group body := by
  rw [issue_eq, issue_eq (s.atIssue i), s.atIssue_atIssue, show (s.atIssue i).me = s.me from rfl,
    show (s.atIssue i).cmds = s.cmds from rfl, show (s.atIssue i).cur = s.cur from rfl, ht, hc]
  simp only [Bool.or_false, Bool.and_false, Bool.false_eq_true, if_false]

theorem precheck_noOpenStrip {s : State} {i : Instr} (group : VType → Bool) (hw : i.wf = true)
    (hn : needsPriv i = true → isPriv s.me.ctl.status = true) (hi : illegalInStrip s.me i = false) (hs : needsStrip i = true)
    (ho : s.me.strip = none) : s.precheck i group = .error (Trap.plain Cause.noOpenStrip) := by
  have hp : (needsPriv i && !isPriv s.me.ctl.status) = false := by
    cases h : needsPriv i
    · rfl
    · rw [hn h]
      rfl
  unfold State.precheck
  simp only [hw, hp, hi, hs, ho, Bool.not_true, Bool.false_eq_true, if_false, Option.isNone_none, Bool.and_true, if_true]

/-! ### The control-register words (R95) -/

/-- The rights of the registers, below the last number of the table. -/
theorem ctlRights_of_ge {n : Nat} (h : 51 ≤ n) : ctlRights n = none := by
  unfold ctlRights
  split <;> first | omega | rfl

theorem not_mem_of_ge {l : List Nat} {n : Nat} (hn : 51 ≤ n) (h : ∀ x ∈ l, x < 51) : n ∉ l := fun hm => by
  have := h n hm
  omega

theorem ctlReadable_eq_false_iff (n : Nat) : ctlReadable n = false ↔
    n ∉ [0, 1, 2, 3, 4, 5, 6, 0x10, 0x11, 0x12, 0x13, 0x14, 0x15, 0x16, 0x17, 0x20, 0x21, 0x22, 0x23, 0x24, 0x30,
        0x31, 0x32] := by
  by_cases h : n < 51
  · revert n
    decide
  · have hn : ctlReadable n = false := by rw [ctlReadable, ctlRights_of_ge (by omega)]; rfl
    exact iff_of_true hn (not_mem_of_ge (by omega) (by decide))

theorem ctlWritable_eq_false_iff (n : Nat) : ctlWritable n = false ↔
    n ∉ [0, 1, 2, 3, 4, 5, 6, 0x10, 0x11, 0x12, 0x13, 0x14, 0x15, 0x16, 0x17, 0x20, 0x21, 0x22, 0x23, 0x24] := by
  by_cases h : n < 51
  · revert n
    decide
  · have hn : ctlWritable n = false := by rw [ctlWritable, ctlRights_of_ge (by omega)]
    exact iff_of_true hn (not_mem_of_ge (by omega) (by decide))

theorem ctlRead_priv_iff (n : Nat) : ((ctlRights n).map (·.1) == some .priv) = true ↔
    n ∈ [6, 0x10, 0x11, 0x12, 0x13, 0x14, 0x15, 0x16, 0x17] := by
  by_cases h : n < 51
  · revert n
    decide
  · rw [ctlRights_of_ge (by omega)]
    exact iff_of_false (by decide) (not_mem_of_ge (by omega) (by decide))

theorem ctlWrite_priv_iff (n : Nat) :
    ((ctlRights n).map (·.2) == some .priv || (ctlRights n).map (·.1) == some .priv) = true ↔
    n ∈ [1, 5, 6, 0x10, 0x11, 0x12, 0x13, 0x14, 0x15, 0x16, 0x17, 0x21, 0x22, 0x23, 0x24] := by
  by_cases h : n < 51
  · revert n
    decide
  · rw [ctlRights_of_ge (by omega)]
    exact iff_of_false (by decide) (not_mem_of_ge (by omega) (by decide))

/-- Settles O20: every word runs in the frame of R62, whose checks are read off in their order. -/
theorem issueRefusals : Obligations.IssueRefusals := by
  refine ⟨fun s i hi => ?_, fun w d a n => ⟨ctlReadable_eq_false_iff _, ctlRead_priv_iff _, fun i hi => ?_⟩⟩
  · obtain ⟨group, body, he⟩ := exec_issues i hi
    have hrun : exec i s = runG i group body s := he s
    refine ⟨fun hw => hrun.trans (run_illFormed hw group body s), fun ht hc hw => ⟨?_, fun ⟨hn, hp⟩ => ?_, fun hn => ⟨fun hi => ?_,
      fun hi ⟨hs, ho⟩ => ?_⟩⟩⟩
    · rw [he, he, issue_atIssue group body ht hc]
    · exact hrun.trans (run_stopped ht hc (precheck_privileged (s := s.atIssue i) group hw hn hp) (by decide))
    · exact hrun.trans (run_stopped ht hc (precheck_illegalInStrip (s := s.atIssue i) group hw hn hi) (by decide))
    · exact hrun.trans (run_stopped ht hc (precheck_noOpenStrip (s := s.atIssue i) group hw hn hi hs ho) (by decide))
  · simp only [List.mem_cons, List.not_mem_nil, or_false] at hi
    rcases hi with rfl | rfl | rfl
    · exact ⟨ctlWritable_eq_false_iff _, ctlWrite_priv_iff _⟩
    · exact ⟨ctlWritable_eq_false_iff _, ctlWrite_priv_iff _⟩
    · exact ⟨ctlWritable_eq_false_iff _, ctlWrite_priv_iff _⟩

end Sys2Proof.Machine

/-! Taking a trap (O21) and the double fault (O23). -/

namespace Sys2Proof.Machine

set_option Elab.async false

/-! ### An abandoned strip (R19) -/

/-- A sequencer whose strip has been abandoned. -/
def Seq.abandoned (m : Seq) : Seq :=
  match m.strip with
  | none => m
  | some st =>
    { m with
      regs := st.ck.regs, loops := st.ck.loops, grant := st.ck.grant,
      truss := { m.truss with tx := st.ck.tx }, strip := none,
      early := m.early.filter (fun e => !st.holds e.loc e.size), late := [], shapes := [],
      ctl := { m.ctl with status := withInstrip (withSticky m.ctl.status st.ck.flags) false } }

theorem State.abandonStrip_me_eq (s : State) : s.abandonStrip.me = s.me.abandoned := s.abandonStrip_me

theorem Seq.abandoned_of_none {m : Seq} (h : m.strip = none) : m.abandoned = m := by
  unfold Seq.abandoned
  rw [h]

theorem Seq.abandoned_of_some {m : Seq} {st : Strip} (h : m.strip = some st) :
    m.abandoned = { m with
      regs := st.ck.regs, loops := st.ck.loops, grant := st.ck.grant,
      truss := { m.truss with tx := st.ck.tx }, strip := none,
      early := m.early.filter (fun e => !st.holds e.loc e.size), late := [], shapes := [],
      ctl := { m.ctl with status := withInstrip (withSticky m.ctl.status st.ck.flags) false } } := by
  unfold Seq.abandoned
  rw [h]

/-- What no abandoned strip changes. -/
theorem Seq.abandoned_keeps (m : Seq) :
    m.abandoned.pc = m.pc ∧ m.abandoned.strip = none ∧ m.abandoned.trapSeq = m.trapSeq ∧ m.abandoned.ring = m.ring ∧
      m.abandoned.work = m.work ∧ m.abandoned.openAt = m.openAt ∧
      m.abandoned.ctl = { m.ctl with status := m.abandoned.ctl.status } ∧
      m.abandoned.vregs = m.vregs ∧ m.abandoned.masks = m.masks ∧ m.abandoned.vt = m.vt ∧ m.abandoned.pend = m.pend ∧
      m.abandoned.mode = m.mode := by
  cases h : m.strip with
  | none =>
    rw [Seq.abandoned_of_none h]
    exact ⟨rfl, h, rfl, rfl, rfl, rfl, rfl, rfl, rfl, rfl, rfl, rfl⟩
  | some st =>
    rw [Seq.abandoned_of_some h]
    exact ⟨rfl, rfl, rfl, rfl, rfl, rfl, rfl, rfl, rfl, rfl, rfl, rfl⟩

@[simp] theorem State.abandonStrip_clock (s : State) : s.abandonStrip.clock = s.clock := by
  unfold State.abandonStrip
  split <;> rfl

/-- The rows of an abandoned strip's journal, laid back over the sole. -/
def Sole.restored (sl : Sole) (journal : List (Nat × Row)) : Sole :=
  journal.foldl (fun sl x => { sl with rows := SMap.put sl.rows x.1 x.2 }) sl

theorem Sole.find_restored {journal : SMap Row} (h : SMap.Rising journal) (sl : Sole) (r : Nat) :
    SMap.find (sl.restored journal).rows r = (SMap.find journal r).or (SMap.find sl.rows r) := by
  induction journal generalizing sl with
  | nil => rfl
  | cons x t ih =>
    obtain ⟨k, row⟩ := x
    obtain ⟨hk, ht⟩ := List.pairwise_cons.mp h
    rw [Sole.restored, List.foldl_cons]
    have := ih ht { sl with rows := SMap.put sl.rows k row }
    rw [Sole.restored] at this
    rw [this, SMap.find_put, SMap.find]
    by_cases hr : k = r
    · have hn : SMap.find t r = none := by
        subst hr
        by_contra hne
        obtain ⟨v, hv⟩ := Option.ne_none_iff_exists'.mp hne
        clear this ih h ht
        induction t with
        | nil => cases hv
        | cons y t iht =>
          obtain ⟨j, u⟩ := y
          have hj := hk (j, u) List.mem_cons_self
          rw [SMap.find, if_neg (by simp only at hj; omega)] at hv
          exact iht (fun z hz => hk z (List.mem_cons_of_mem _ hz)) (by rw [hv]; exact Option.some_ne_none v) hv
      rw [if_pos hr, if_pos hr, hn]
      rfl
    · rw [if_neg hr, if_neg hr]

theorem State.abandonStrip_soleAt {s : State} {st : Strip} (h : s.me.strip = some st) :
    s.abandonStrip.soleAt s.image = (s.soleAt s.image).restored st.journal := by
  simp only [State.abandonStrip, h]
  exact State.soleAt_setSole s s.image _

/-- Abandoning a strip changes no other sequencer. -/
theorem State.abandonStrip_others (s : State) {q : Nat} (hq : q ≠ s.cur) : s.abandonStrip.seqAt q = s.seqAt q := by
  cases h : s.me.strip with
  | none => simp only [State.abandonStrip, h]
  | some st =>
    simp only [State.abandonStrip, h]
    exact State.seqAt_setSeq_other _ _ (Ne.symm hq)

@[simp] theorem State.negate_seqs (s : State) (p : Option Nat) : (s.negate p).seqs = s.seqs := by cases p <;> rfl
@[simp] theorem State.negate_soles (s : State) (p : Option Nat) : (s.negate p).soles = s.soles := by cases p <;> rfl
@[simp] theorem State.negate_clock (s : State) (p : Option Nat) : (s.negate p).clock = s.clock := by cases p <;> rfl
@[simp] theorem State.negate_image (s : State) (p : Option Nat) : (s.negate p).image = s.image := by cases p <;> rfl

@[simp] theorem State.negate_soleAt (s : State) (p : Option Nat) (n : Nat) : (s.negate p).soleAt n = s.soleAt n := by
  rw [State.soleAt, State.negate_soles]
  rfl

@[simp] theorem State.negate_seqAt (s : State) (p : Option Nat) (q : Nat) : (s.negate p).seqAt q = s.seqAt q := by
  rw [State.seqAt, State.negate_seqs]
  rfl

/-! ### Entering the handler (R98, R285, R288) -/

/-- The state in which a trap is entered: the negative entry placed, the strip abandoned. -/
def State.dropped (s : State) (t : Trap) : State := (s.negate t.page).abandonStrip

theorem State.dropped_me (s : State) (t : Trap) : (s.dropped t).me = s.me.abandoned := by
  rw [State.dropped, State.abandonStrip_me_eq, State.negate_me]

/-- The record of a trap that enters a handler. -/
def State.trapRecord (s : State) (t : Trap) (n : Nat) : TrapRec :=
  ⟨Config.timeNs s.clock, n, t.cause, s.cur, s.me.strip.isSome, none, s.me.pc.setWidth 64, BitVec.ofNat 64 t.addr,
    BitVec.ofNat 64 t.elem, s.widOr0, 0⟩

/-- Entering a handler replaces the current sequencer of the state without the strip. -/
theorem State.takeTrap_eq {s : State} (t : Trap) (h : s.me.window = false) :
    ∃ m, s.takeTrap t = ((s.dropped t).setMe m).setMe { m with
      pc := s.me.abandoned.ctl.tvec.setWidth 57
      delay := none, owed := none, resv := none, dist := [], avail := [], late := [], window := true
      openAt := s.me.strip.isSome, replay := false, posted := none
      ctl := { s.me.abandoned.ctl with
        tstatus := withInstrip s.me.abandoned.ctl.status s.me.strip.isSome
        status := withPriv s.me.abandoned.ctl.status true
        resume := (resumePoint s.me t.cause).1, target := (resumePoint s.me t.cause).2
        cause := BitVec.ofNat 64 (t.cause + (s.me.abandoned.trapSeq + 1) % 4294967296 * 4294967296)
        trappc := s.me.abandoned.pc.setWidth 64, addr := BitVec.ofNat 64 t.addr, elem := BitVec.ofNat 64 t.elem } } ∧
      m = { s.me.abandoned with
        trapSeq := s.me.abandoned.trapSeq + 1
        ring := (s.me.abandoned.ring ++ [s.trapRecord t (s.me.abandoned.trapSeq + 1)]).drop
          (s.me.abandoned.ring.length + 1 - Config.trapRing) } := by
  have hrec : (s.negate t.page).abandonStrip.widOr0 = s.widOr0 := by
    rw [State.widOr0, State.widOr0, State.abandonStrip_me_eq, State.negate_me, s.me.abandoned_keeps.2.2.2.2.1]
  have hpc : s.me.abandoned.pc = s.me.pc := s.me.abandoned_keeps.1
  refine ⟨_, ?_, rfl⟩
  unfold State.takeTrap
  simp only [h, Bool.false_eq_true, if_false, State.negate_me, State.record_me]
  rw [show (s.negate t.page).abandonStrip = s.dropped t from rfl, State.record, State.dropped_me]
  simp only [State.trapRecord, hpc, hrec, State.dropped, State.abandonStrip_clock, State.negate_clock,
    State.abandonStrip_cur, State.negate_cur]

theorem State.setMe_seqAt_other (s : State) (m : Seq) {q : Nat} (hq : q ≠ s.cur) : (s.setMe m).seqAt q = s.seqAt q :=
  State.seqAt_setSeq_other s m (Ne.symm hq)

theorem State.dropped_others (s : State) (t : Trap) {q : Nat} (hq : q ≠ s.cur) : (s.dropped t).seqAt q = s.seqAt q := by
  rw [State.dropped, State.abandonStrip_others _ (by rwa [State.negate_cur]), State.negate_seqAt]

theorem State.dropped_cur (s : State) (t : Trap) : (s.dropped t).cur = s.cur := by
  rw [State.dropped, State.abandonStrip_cur, State.negate_cur]

theorem State.dropped_soleAt {s : State} {st : Strip} (t : Trap) (h : s.me.strip = some st) :
    (s.dropped t).soleAt s.image = (s.soleAt s.image).restored st.journal := by
  have := State.abandonStrip_soleAt (s := s.negate t.page) (st := st) (by rwa [State.negate_me])
  rwa [State.negate_image, State.negate_soleAt] at this

theorem State.widOr0_eq (s : State) : s.widOr0 = (s.me.work.map (·.wid)).getD 0 := by
  unfold State.widOr0
  cases s.me.work <;> rfl

/-- Where a trap outside a strip resumes (R98). -/
theorem resumePoint_closed {m : Seq} (h : m.strip = none) (c : Nat) :
    (c = Cause.softwareTrap → resumePoint m c = ((m.pc + 4).setWidth 64, 0)) ∧
    (c ≠ Cause.softwareTrap → (resumePoint m c).1 = m.pc.setWidth 64 ∧
      (resumePoint m c).2 = match m.delay with
        | some ⟨left, some tgt⟩ => (tgt.setWidth 64 &&& ~~~3) ||| BitVec.ofNat 64 left
        | _ => 0) := by
  unfold resumePoint
  rw [h]
  simp only []
  refine ⟨fun hc => if_pos hc, fun hc => ?_⟩
  rw [if_neg hc]
  rcases m.delay with _ | ⟨left, _ | tgt⟩ <;> exact ⟨rfl, rfl⟩

/-- Settles O21: the handler is entered in the state without the strip, whose sequencer is `Seq.abandoned`. -/
theorem trapEntry : Obligations.TrapEntry := by
  intro s t h
  obtain ⟨m₁, he, hm₁⟩ := State.takeTrap_eq t h
  obtain ⟨kpc, kstrip, kseq, kring, kwork, -, kctl, kvregs, kmasks, kvt, kpend, kmode⟩ := s.me.abandoned_keeps
  have hme : (s.takeTrap t).me = _ := (congrArg State.me he).trans (State.me_setMe _ _)
  have hsole : ∀ st, s.me.strip = some st →
      (s.takeTrap t).soleAt s.image = (s.soleAt s.image).restored st.journal := fun st hst => by
    rw [he]
    exact State.dropped_soleAt t hst
  have hothers : ∀ q, q ≠ s.cur → (s.takeTrap t).seqAt q = s.seqAt q := fun q hq => by
    have hq' : q ≠ (s.dropped t).cur := by rwa [State.dropped_cur]
    rw [he, State.setMe_seqAt_other _ _ (by rwa [State.setMe_cur]), State.setMe_seqAt_other _ _ hq', State.dropped_others s t hq]
  have hbytes : SameBytes s (s.takeTrap t) := fun a => by rw [State.byte, State.takeTrap_cells]; rfl
  have htvec : s.me.abandoned.ctl.tvec = s.me.ctl.tvec := by rw [kctl]
  simp only [hme, hm₁]
  refine ⟨by rw [htvec], by rw [kpc], trivial, trivial, by rw [kseq], fun k hk => ?tstatus, fun k hk => ?status, fun st hst => ?inside,
    ?ring, fun hst => ?closed, kstrip, trivial, trivial, trivial, by rw [kseq], kvregs, kmasks, kvt, kpend, kmode, kwork, hbytes, hothers⟩
  case tstatus =>
    rw [withInstrip_getLsbD _ _ hk]
    split
    · rfl
    · rename_i h7
      cases hst : s.me.strip with
      | none => rw [Seq.abandoned_of_none hst]
      | some st =>
        rw [Seq.abandoned_of_some hst]
        exact (withInstrip_getLsbD _ _ hk).trans (if_neg h7)
  case status =>
    rw [withPriv_getLsbD _ _ hk]
    split
    · rfl
    · cases hst : s.me.strip with
      | none =>
        rw [Seq.abandoned_of_none hst]
        split
        · rename_i h7
          rw [h7]
          rfl
        · rfl
      | some st =>
        rw [Seq.abandoned_of_some hst]
        exact withInstrip_getLsbD _ _ hk
  case inside =>
    have hres : resumePoint s.me t.cause = (st.pc.setWidth 64, 0) := by
      unfold resumePoint
      rw [hst]
    rw [hres, Seq.abandoned_of_some hst]
    refine ⟨rfl, rfl, fun e hmem => ?_, trivial, rfl, rfl, rfl, rfl, fun hj r => ?_⟩
    · simpa using (List.mem_filter.mp hmem).2
    · rw [hsole st hst]
      exact Sole.find_restored hj _ r
  case ring =>
    rw [kring, kseq, State.trapRecord, State.widOr0_eq]
  case closed =>
    obtain ⟨h1, h2⟩ := resumePoint_closed hst t.cause
    rw [Seq.abandoned_of_none hst]
    exact ⟨rfl, rfl, rfl, rfl, fun hc => by rw [h1 hc]; exact ⟨rfl, rfl⟩, fun hc => h2 hc⟩

/-! ### The double fault (R289) -/

/-- The record of a double fault (R285, R289). -/
def State.doubleFaultRecord (s : State) (t : Trap) (n : Nat) : TrapRec :=
  ⟨Config.timeNs s.clock, n, s.me.ctl.cause.toNat % 65536, s.cur, s.me.openAt, some t.cause, s.me.ctl.trappc, s.me.ctl.addr,
    s.me.ctl.elem, s.widOr0, s.me.pc.setWidth 64⟩

/-- Settles O23. -/
theorem doubleFault : Obligations.DoubleFault := by
  intro s t h
  obtain ⟨kpc, kstrip, kseq, kring, kwork, kopen, kctl, -⟩ := s.me.abandoned_keeps
  have he : s.takeTrap t = (s.negate t.page).takeDoubleFault t := by
    unfold State.takeTrap
    simp only [State.negate_me, h, if_true]
  have hcause : s.me.abandoned.ctl.cause = s.me.ctl.cause := by rw [kctl]
  have htrappc : s.me.abandoned.ctl.trappc = s.me.ctl.trappc := by rw [kctl]
  have haddr : s.me.abandoned.ctl.addr = s.me.ctl.addr := by rw [kctl]
  have helem : s.me.abandoned.ctl.elem = s.me.ctl.elem := by rw [kctl]
  obtain ⟨m₁, r, hd, hm₁, hr⟩ : ∃ m₁ r, s.takeTrap t = ((s.dropped t).setMe m₁).record r ∧
      m₁ = { s.me.abandoned with
        mode := .doubleFault, delay := none, owed := none, replay := false
        shadow := some (⟨s.me.ctl.cause.toNat % 65536, s.me.ctl.trappc, s.me.ctl.addr, s.me.ctl.elem⟩,
          ⟨t.cause, s.me.pc.setWidth 64, BitVec.ofNat 64 t.addr, BitVec.ofNat 64 t.elem⟩) } ∧
      ∀ n, (r n).second = some t.cause ∧ (r n).cause = s.me.ctl.cause.toNat % 65536 ∧ (r n).pc = s.me.ctl.trappc ∧
        (r n).addr = s.me.ctl.addr ∧ (r n).elem = s.me.ctl.elem ∧ (r n).other = s.me.pc.setWidth 64 ∧ (r n).seq = n ∧
        (r n).strip = s.me.openAt := by
    refine ⟨_, s.doubleFaultRecord t, he.trans ?_, rfl, ?_⟩
    · unfold State.takeDoubleFault
      simp only [State.abandonStrip_me_eq, State.negate_me, hcause, htrappc, haddr, helem, kpc, kopen, State.abandonStrip_clock,
        State.negate_clock, State.abandonStrip_cur, State.negate_cur, State.setMe_clock, State.setMe_cur, State.widOr0,
        State.me_setMe, kwork]
      rfl
    · intro n
      exact ⟨rfl, rfl, rfl, rfl, rfl, rfl, rfl, rfl⟩
  have hme : (s.takeTrap t).me = _ := (congrArg State.me hd).trans (State.record_me _ _)
  rw [State.me_setMe, hm₁] at hme
  obtain ⟨g1, g2, g3, g4, g5, g6, g7, g8⟩ := hr (s.me.abandoned.trapSeq + 1)
  have hsole : ∀ st, s.me.strip = some st →
      (s.takeTrap t).soleAt s.image = (s.soleAt s.image).restored st.journal := fun st hst => by
    rw [hd]
    exact State.dropped_soleAt t hst
  have hothers : ∀ q, q ≠ s.cur → (s.takeTrap t).seqAt q = s.seqAt q := fun q hq => by
    have hq' : q ≠ (s.dropped t).cur := by rwa [State.dropped_cur]
    rw [hd, State.record, State.setMe_seqAt_other _ _ (by rwa [State.setMe_cur]), State.setMe_seqAt_other _ _ hq',
      State.dropped_others s t hq]
  have hbytes : SameBytes s (s.takeTrap t) := fun a => by rw [State.byte, State.takeTrap_cells]; rfl
  simp only [hme]
  refine ⟨trivial, trivial, ⟨_, by rw [kring], g1, g2, g3, g4, g5, g6, g7.trans (by rw [kseq]), g8⟩, kpc, kstrip, ⟨_, kctl⟩, fun hst => ?_,
    fun st hst => ?_, hbytes, hothers⟩
  · rw [Seq.abandoned_of_none hst]
    exact ⟨rfl, rfl, rfl, rfl⟩
  · rw [Seq.abandoned_of_some hst]
    refine ⟨fun e hmem => ?_, rfl, rfl, rfl, fun hj r => ?_⟩
    · simpa using (List.mem_filter.mp hmem).2
    · rw [hsole st hst]
      exact Sole.find_restored hj _ r

end Sys2Proof.Machine

/-!
The instructions sorted: words, requests of a port, and the other events; and that each of them answers a next state (O58).
-/

namespace Sys2Proof.Machine

set_option Elab.async false

/-- An event that is no request of a port. -/
inductive Happening : Instr → Prop where
  | pop (q : Nat) : Happening (.pop q)
  | aging : Happening (.aging)
  | timeSliceQuantum (u : Nat) : Happening (.timeSliceQuantum u)
  | tenantSwitch (u : Nat) : Happening (.tenantSwitch u)
  | classTableSwap (u : Nat) : Happening (.classTableSwap u)
  | generationDrain (u : Nat) : Happening (.generationDrain u)
  | barwPhaseReached (q : Nat) : Happening (.barwPhaseReached q)
  | barwTimeout (q : Nat) : Happening (.barwTimeout q)
  | engineChunkComplete (c j : Nat) : Happening (.engineChunkComplete c j)
  | engineCommandComplete (c : Nat) : Happening (.engineCommandComplete c)
  | engineCommandFail (c : Nat) : Happening (.engineCommandFail c)
  | translationStallResolved (c : Nat) : Happening (.translationStallResolved c)
  | xqueryAnswer (c : Nat) : Happening (.xqueryAnswer c)
  | xgridDeclare (c : Nat) : Happening (.xgridDeclare c)
  | scaddUpdateArrival (n : Nat) : Happening (.scaddUpdateArrival n)
  | scatterRoundClose (r : Nat) : Happening (.scatterRoundClose r)
  | collectiveComplete (c : Nat) : Happening (.collectiveComplete c)
  | preemptionRequest (u : Nat) (why : Purpose) : Happening (.preemptionRequest u why)
  | preemptEscalation (u : Nat) : Happening (.preemptEscalation u)
  | contextSave (u : Nat) : Happening (.contextSave u)
  | contextRestore (u k : Nat) : Happening (.contextRestore u k)
  | doubleFaultRecovery (q : Nat) : Happening (.doubleFaultRecovery q)
  | haltedRecordEnd (q : Nat) : Happening (.haltedRecordEnd q)
  | tableRebuild (page : Nat) : Happening (.tableRebuild page)
  | weltRebind (sole half : Nat) : Happening (.weltRebind sole half)
  | crcFailure (t : Transfer) (crc : BitVec 32) : Happening (.crcFailure t crc)
  | linkLaneRetrain (link lane : Nat) : Happening (.linkLaneRetrain link lane)
  | fabricFrameReceive (port : Nat) (f : Frame) : Happening (.fabricFrameReceive port f)
  | keySwitch (port : Nat) : Happening (.keySwitch port)
  | poisonNotice (port : Nat) (device : Word) (n : NoticeBody) : Happening (.poisonNotice port device n)
  | sessionGapTimeout (mgmt : Bool) (ep : Nat) (sess : BitVec 16) : Happening (.sessionGapTimeout mgmt ep sess)
  | powerUp : Happening (.powerUp)
  | throttle : Happening (.throttle)
  | criticalTemperature (sensor : Nat) : Happening (.criticalTemperature sensor)
  | watchdogExpiry : Happening (.watchdogExpiry)
  | fatalError (cause : Nat) (cls num : Nat) (detail : Word) : Happening (.fatalError cause cls num detail)
  | powerStateEntry (p : Nat) : Happening (.powerStateEntry p)
  | wakeEvent (p : Nat) : Happening (.wakeEvent p)
  | illegalInstruction : Happening (.illegalInstruction)
  | instructionFetchFault : Happening (.instructionFetchFault)
  | powerLoss (writing : Bool) : Happening (.powerLoss writing)
  | throttleRelease : Happening (.throttleRelease)
  | rankUnreachable (c : Nat) : Happening (.rankUnreachable c)

/-- Every instruction has a word, is a request, or is another event. -/
theorem word_or_request_or_happening (i : Instr) :
    (encodeWord i).isSome = true ∨ (∃ h r, requestOf i = some (h, r)) ∨ Happening i := by
  cases i with
  | add f => exact .inl rfl
  | sub f => exact .inl rfl
  | and f => exact .inl rfl
  | or f => exact .inl rfl
  | xor f => exact .inl rfl
  | andn f => exact .inl rfl
  | sll f => exact .inl rfl
  | srl f => exact .inl rfl
  | sra f => exact .inl rfl
  | rol f => exact .inl rfl
  | slt f => exact .inl rfl
  | sltn f => exact .inl rfl
  | seq f => exact .inl rfl
  | min f => exact .inl rfl
  | max f => exact .inl rfl
  | minn f => exact .inl rfl
  | maxn f => exact .inl rfl
  | addw f => exact .inl rfl
  | subw f => exact .inl rfl
  | adds1 f => exact .inl rfl
  | adds2 f => exact .inl rfl
  | adds3 f => exact .inl rfl
  | slli f => exact .inl rfl
  | srli f => exact .inl rfl
  | srai f => exact .inl rfl
  | roli f => exact .inl rfl
  | mul f => exact .inl rfl
  | mulh f => exact .inl rfl
  | mulhn f => exact .inl rfl
  | div f => exact .inl rfl
  | divn f => exact .inl rfl
  | rem f => exact .inl rfl
  | remn f => exact .inl rfl
  | clz f => exact .inl rfl
  | ctz f => exact .inl rfl
  | cpop f => exact .inl rfl
  | bext f => exact .inl rfl
  | bins f => exact .inl rfl
  | addi f => exact .inl rfl
  | andi f => exact .inl rfl
  | ori f => exact .inl rfl
  | xori f => exact .inl rfl
  | lih f => exact .inl rfl
  | ldxb f => exact .inl rfl
  | ldxbn f => exact .inl rfl
  | ldxh f => exact .inl rfl
  | ldxhn f => exact .inl rfl
  | ldxw f => exact .inl rfl
  | ldxwn f => exact .inl rfl
  | ldxd f => exact .inl rfl
  | stxb f => exact .inl rfl
  | stxh f => exact .inl rfl
  | stxw f => exact .inl rfl
  | stxd f => exact .inl rfl
  | cwb f => exact .inl rfl
  | czero f => exact .inl rfl
  | ldd f => exact .inl rfl
  | ldw f => exact .inl rfl
  | ldwn f => exact .inl rfl
  | std f => exact .inl rfl
  | stw f => exact .inl rfl
  | lr f => exact .inl rfl
  | lrw f => exact .inl rfl
  | sc f => exact .inl rfl
  | scw f => exact .inl rfl
  | pref f => exact .inl rfl
  | beq f => exact .inl rfl
  | bne f => exact .inl rfl
  | blt f => exact .inl rfl
  | bge f => exact .inl rfl
  | bltn f => exact .inl rfl
  | bgen f => exact .inl rfl
  | jal f => exact .inl rfl
  | jalr f => exact .inl rfl
  | rdpc f => exact .inl rfl
  | loop f => exact .inl rfl
  | loopi f => exact .inl rfl
  | lpop f => exact .inl rfl
  | lbrk f => exact .inl rfl
  | lcnt f => exact .inl rfl
  | ldep f => exact .inl rfl
  | bgs f => exact .inl rfl
  | bgsn f => exact .inl rfl
  | mfc f => exact .inl rfl
  | mtc f => exact .inl rfl
  | mcset f => exact .inl rfl
  | mcclr f => exact .inl rfl
  | rft f => exact .inl rfl
  | trap f => exact .inl rfl
  | ifence f => exact .inl rfl
  | pause f => exact .inl rfl
  | sdrain f => exact .inl rfl
  | halt f => exact .inl rfl
  | vtype f => exact .inl rfl
  | mfg f => exact .inl rfl
  | zctw f => exact .inl rfl
  | zcswap f => exact .inl rfl
  | strip f => exact .inl rfl
  | sclose f => exact .inl rfl
  | scloseRel f => exact .inl rfl
  | zld f => exact .inl rfl
  | zst f => exact .inl rfl
  | zfind f => exact .inl rfl
  | zskip f => exact .inl rfl
  | vld f => exact .inl rfl
  | vlds f => exact .inl rfl
  | vldb f => exact .inl rfl
  | vldo f => exact .inl rfl
  | vldso f => exact .inl rfl
  | vldx f => exact .inl rfl
  | vldxo f => exact .inl rfl
  | vst f => exact .inl rfl
  | vsts f => exact .inl rfl
  | vstc f => exact .inl rfl
  | vsto f => exact .inl rfl
  | vstso f => exact .inl rfl
  | vstx f => exact .inl rfl
  | vstxo f => exact .inl rfl
  | vadd f => exact .inl rfl
  | vsub f => exact .inl rfl
  | vmul f => exact .inl rfl
  | vdiv f => exact .inl rfl
  | vmin f => exact .inl rfl
  | vmax f => exact .inl rfl
  | vabsd f => exact .inl rfl
  | vand f => exact .inl rfl
  | vor f => exact .inl rfl
  | vxor f => exact .inl rfl
  | vsll f => exact .inl rfl
  | vsrl f => exact .inl rfl
  | vsra f => exact .inl rfl
  | vneg f => exact .inl rfl
  | vabs f => exact .inl rfl
  | vsqrt f => exact .inl rfl
  | vmov f => exact .inl rfl
  | vadds f => exact .inl rfl
  | vmuls f => exact .inl rfl
  | vbcast f => exact .inl rfl
  | vid f => exact .inl rfl
  | vfma f => exact .inl rfl
  | vfms f => exact .inl rfl
  | vfnma f => exact .inl rfl
  | vtsum f => exact .inl rfl
  | vtprod f => exact .inl rfl
  | vceq f => exact .inl rfl
  | vcne f => exact .inl rfl
  | vclt f => exact .inl rfl
  | vcle f => exact .inl rfl
  | vcnan f => exact .inl rfl
  | vcvt f => exact .inl rfl
  | vqnt f => exact .inl rfl
  | vdqnt f => exact .inl rfl
  | vsel f => exact .inl rfl
  | vslup f => exact .inl rfl
  | vsldn f => exact .inl rfl
  | vperm f => exact .inl rfl
  | vcomp f => exact .inl rfl
  | vredo f => exact .inl rfl
  | vredt f => exact .inl rfl
  | vscano f => exact .inl rfl
  | vscanf f => exact .inl rfl
  | vredmin f => exact .inl rfl
  | vredmax f => exact .inl rfl
  | mand f => exact .inl rfl
  | mor f => exact .inl rfl
  | mxor f => exact .inl rfl
  | mandn f => exact .inl rfl
  | mnot f => exact .inl rfl
  | mlen f => exact .inl rfl
  | mpop f => exact .inl rfl
  | mfirst f => exact .inl rfl
  | tmac f => exact .inl rfl
  | tdist f => exact .inl rfl
  | tcupd f => exact .inl rfl
  | tacc f => exact .inl rfl
  | tdrain f => exact .inl rfl
  | tfill f => exact .inl rfl
  | tzero f => exact .inl rfl
  | tcdiv f => exact .inl rfl
  | tcget f => exact .inl rfl
  | tld f => exact .inl rfl
  | tmode f => exact .inl rfl
  | tmodr f => exact .inl rfl
  | tmodc f => exact .inl rfl
  | tbest f => exact .inl rfl
  | tcnt f => exact .inl rfl
  | cfun f => exact .inl rfl
  | ccor f => exact .inl rfl
  | cseq f => exact .inl rfl
  | cpar f => exact .inl rfl
  | cpipe f => exact .inl rfl
  | cfarm f => exact .inl rfl
  | cloop f => exact .inl rfl
  | capply f => exact .inl rfl
  | cret f => exact .inl rfl
  | cyield f => exact .inl rfl
  | wid f => exact .inl rfl
  | chput f => exact .inl rfl
  | chget f => exact .inl rfl
  | barv f => exact .inl rfl
  | barw f => exact .inl rfl
  | bara f => exact .inl rfl
  | amoSwap f => exact .inl rfl
  | amoAdd f => exact .inl rfl
  | amoAnd f => exact .inl rfl
  | amoOr f => exact .inl rfl
  | amoXor f => exact .inl rfl
  | amoMin f => exact .inl rfl
  | amoMax f => exact .inl rfl
  | amoMinn f => exact .inl rfl
  | amoMaxn f => exact .inl rfl
  | amoCas f => exact .inl rfl
  | scopen f => exact .inl rfl
  | scaddO f => exact .inl rfl
  | scaddU f => exact .inl rfl
  | scflush f => exact .inl rfl
  | fence f => exact .inl rfl
  | fenceAcq f => exact .inl rfl
  | fenceRel f => exact .inl rfl
  | xcopy f => exact .inl rfl
  | xcopyz f => exact .inl rfl
  | xfill f => exact .inl rfl
  | xquery f => exact .inl rfl
  | xgrid f => exact .inl rfl
  | xcoll f => exact .inl rfl
  | xnote f => exact .inl rfl
  | pop q => exact .inr (.inr (.pop q))
  | aging => exact .inr (.inr (.aging))
  | timeSliceQuantum u => exact .inr (.inr (.timeSliceQuantum u))
  | tenantSwitch u => exact .inr (.inr (.tenantSwitch u))
  | classTableSwap u => exact .inr (.inr (.classTableSwap u))
  | generationDrain u => exact .inr (.inr (.generationDrain u))
  | barwPhaseReached q => exact .inr (.inr (.barwPhaseReached q))
  | barwTimeout q => exact .inr (.inr (.barwTimeout q))
  | engineChunkComplete c j => exact .inr (.inr (.engineChunkComplete c j))
  | engineCommandComplete c => exact .inr (.inr (.engineCommandComplete c))
  | engineCommandFail c => exact .inr (.inr (.engineCommandFail c))
  | translationStallResolved c => exact .inr (.inr (.translationStallResolved c))
  | xqueryAnswer c => exact .inr (.inr (.xqueryAnswer c))
  | xgridDeclare c => exact .inr (.inr (.xgridDeclare c))
  | scaddUpdateArrival n => exact .inr (.inr (.scaddUpdateArrival n))
  | scatterRoundClose r => exact .inr (.inr (.scatterRoundClose r))
  | collectiveComplete c => exact .inr (.inr (.collectiveComplete c))
  | preemptionRequest u why => exact .inr (.inr (.preemptionRequest u why))
  | preemptEscalation u => exact .inr (.inr (.preemptEscalation u))
  | contextSave u => exact .inr (.inr (.contextSave u))
  | contextRestore u k => exact .inr (.inr (.contextRestore u k))
  | doubleFaultRecovery q => exact .inr (.inr (.doubleFaultRecovery q))
  | haltedRecordEnd q => exact .inr (.inr (.haltedRecordEnd q))
  | tableRebuild page => exact .inr (.inr (.tableRebuild page))
  | weltRebind sole half => exact .inr (.inr (.weltRebind sole half))
  | crcFailure t crc => exact .inr (.inr (.crcFailure t crc))
  | linkLaneRetrain link lane => exact .inr (.inr (.linkLaneRetrain link lane))
  | fabricFrameReceive port f => exact .inr (.inr (.fabricFrameReceive port f))
  | keySwitch port => exact .inr (.inr (.keySwitch port))
  | poisonNotice port device n => exact .inr (.inr (.poisonNotice port device n))
  | sessionGapTimeout mgmt ep sess => exact .inr (.inr (.sessionGapTimeout mgmt ep sess))
  | createPartition h b => exact .inr (.inl ⟨_, _, rfl⟩)
  | destroyPartition h number => exact .inr (.inl ⟨_, _, rfl⟩)
  | resize h number delta => exact .inr (.inl ⟨_, _, rfl⟩)
  | installKey h slot k1 k2 => exact .inr (.inl ⟨_, _, rfl⟩)
  | releaseKey h slot => exact .inr (.inl ⟨_, _, rfl⟩)
  | setPatternTable h addr => exact .inr (.inl ⟨_, _, rfl⟩)
  | setHandler h addr => exact .inr (.inl ⟨_, _, rfl⟩)
  | openSession h => exact .inr (.inl ⟨_, _, rfl⟩)
  | closeSession h => exact .inr (.inl ⟨_, _, rfl⟩)
  | map h b => exact .inr (.inl ⟨_, _, rfl⟩)
  | unmap h addr size => exact .inr (.inl ⟨_, _, rfl⟩)
  | copy h addr len toDevice => exact .inr (.inl ⟨_, _, rfl⟩)
  | launch h addr => exact .inr (.inl ⟨_, _, rfl⟩)
  | cancel h token => exact .inr (.inl ⟨_, _, rfl⟩)
  | signal h addr val => exact .inr (.inl ⟨_, _, rfl⟩)
  | latencyTolerance h ns => exact .inr (.inl ⟨_, _, rfl⟩)
  | registerGroup h g => exact .inr (.inl ⟨_, _, rfl⟩)
  | configurePort h port role => exact .inr (.inl ⟨_, _, rfl⟩)
  | fetchDump h off len => exact .inr (.inl ⟨_, _, rfl⟩)
  | readTrapLog h q count => exact .inr (.inl ⟨_, _, rfl⟩)
  | unknownRequestType h => exact .inr (.inl ⟨_, _, rfl⟩)
  | attest h nonce => exact .inr (.inl ⟨_, _, rfl⟩)
  | writeImage h off piece => exact .inr (.inl ⟨_, _, rfl⟩)
  | activateImage h => exact .inr (.inl ⟨_, _, rfl⟩)
  | readSensors h => exact .inr (.inl ⟨_, _, rfl⟩)
  | readErrorLog h first count => exact .inr (.inl ⟨_, _, rfl⟩)
  | mgmtFetchDump h off len => exact .inr (.inl ⟨_, _, rfl⟩)
  | resetDevice h => exact .inr (.inl ⟨_, _, rfl⟩)
  | powerOff h => exact .inr (.inl ⟨_, _, rfl⟩)
  | powerUp => exact .inr (.inr (.powerUp))
  | throttle => exact .inr (.inr (.throttle))
  | criticalTemperature sensor => exact .inr (.inr (.criticalTemperature sensor))
  | watchdogExpiry => exact .inr (.inr (.watchdogExpiry))
  | fatalError cause cls num detail => exact .inr (.inr (.fatalError cause cls num detail))
  | powerStateEntry p => exact .inr (.inr (.powerStateEntry p))
  | wakeEvent p => exact .inr (.inr (.wakeEvent p))
  | illegalInstruction => exact .inr (.inr (.illegalInstruction))
  | instructionFetchFault => exact .inr (.inr (.instructionFetchFault))
  | powerLoss writing => exact .inr (.inr (.powerLoss writing))
  | throttleRelease => exact .inr (.inr (.throttleRelease))
  | rankUnreachable c => exact .inr (.inr (.rankUnreachable c))

/-- Instruction `i` answers a next state in every state. -/
def Completes (i : Instr) : Prop := ∀ s, ∃ t, exec i s = .next t

theorem completes_pop (q : Nat) : Completes (.pop q) := fun _ => ⟨_, rfl⟩

theorem completes_aging : Completes (.aging) := fun _ => ⟨_, rfl⟩

theorem completes_timeSliceQuantum (u : Nat) : Completes (.timeSliceQuantum u) := fun _ => ⟨_, rfl⟩

theorem completes_tenantSwitch (u : Nat) : Completes (.tenantSwitch u) := fun s => by
  change ∃ v, execTenantSwitch u s = .next v
  unfold execTenantSwitch
  simp only []
  repeat' split
  all_goals exact ⟨_, rfl⟩

theorem completes_classTableSwap (u : Nat) : Completes (.classTableSwap u) := fun s => by
  change ∃ v, execClassTableSwap u s = .next v
  unfold execClassTableSwap
  simp only []
  repeat' split
  all_goals exact ⟨_, rfl⟩

theorem completes_generationDrain (u : Nat) : Completes (.generationDrain u) := fun s => by
  change ∃ v, execGenerationDrain u s = .next v
  unfold execGenerationDrain
  simp only []
  repeat' split
  all_goals exact ⟨_, rfl⟩

theorem completes_barwPhaseReached (q : Nat) : Completes (.barwPhaseReached q) := fun s => by
  change ∃ v, execBarwPhaseReached q s = .next v
  unfold execBarwPhaseReached
  repeat' split
  all_goals exact ⟨_, rfl⟩

theorem completes_barwTimeout (q : Nat) : Completes (.barwTimeout q) := fun s => by
  change ∃ v, execBarwTimeout q s = .next v
  unfold execBarwTimeout
  repeat' split
  all_goals exact ⟨_, rfl⟩

theorem completes_engineChunkComplete (c j : Nat) : Completes (.engineChunkComplete c j) := fun s => by
  change ∃ v, execEngineChunkComplete c j s = .next v
  unfold execEngineChunkComplete
  simp only []
  repeat' split
  all_goals exact ⟨_, rfl⟩

theorem completes_engineCommandComplete (c : Nat) : Completes (.engineCommandComplete c) := fun s => by
  change ∃ v, execEngineCommandComplete c s = .next v
  unfold execEngineCommandComplete
  repeat' split
  all_goals exact ⟨_, rfl⟩

theorem completes_engineCommandFail (c : Nat) : Completes (.engineCommandFail c) := fun s => by
  change ∃ v, execEngineCommandFail c s = .next v
  unfold execEngineCommandFail
  repeat' split
  all_goals exact ⟨_, rfl⟩

theorem completes_translationStallResolved (c : Nat) : Completes (.translationStallResolved c) := fun s => by
  change ∃ v, execTranslationStallResolved c s = .next v
  unfold execTranslationStallResolved
  repeat' split
  all_goals exact ⟨_, rfl⟩

theorem completes_xqueryAnswer (c : Nat) : Completes (.xqueryAnswer c) := fun s => by
  change ∃ v, execXqueryAnswer c s = .next v
  unfold execXqueryAnswer
  repeat' split
  all_goals exact ⟨_, rfl⟩

theorem completes_xgridDeclare (c : Nat) : Completes (.xgridDeclare c) := fun s => by
  change ∃ v, execXgridDeclare c s = .next v
  unfold execXgridDeclare
  repeat' split
  all_goals exact ⟨_, rfl⟩

theorem completes_scaddUpdateArrival (n : Nat) : Completes (.scaddUpdateArrival n) := fun s => by
  change ∃ v, execScaddUpdateArrival n s = .next v
  unfold execScaddUpdateArrival
  simp only []
  repeat' split
  all_goals exact ⟨_, rfl⟩

theorem completes_scatterRoundClose (r : Nat) : Completes (.scatterRoundClose r) := fun s => by
  change ∃ v, execScatterRoundClose r s = .next v
  unfold execScatterRoundClose
  repeat' split
  all_goals exact ⟨_, rfl⟩

theorem completes_collectiveComplete (c : Nat) : Completes (.collectiveComplete c) := fun s => by
  change ∃ v, execCollectiveComplete c s = .next v
  unfold execCollectiveComplete
  simp only []
  repeat' split
  all_goals exact ⟨_, rfl⟩

theorem completes_preemptionRequest (u : Nat) (why : Purpose) : Completes (.preemptionRequest u why) := fun s => by
  change ∃ v, execPreemptionRequest u why s = .next v
  unfold execPreemptionRequest
  simp only []
  repeat' split
  all_goals exact ⟨_, rfl⟩

theorem completes_preemptEscalation (u : Nat) : Completes (.preemptEscalation u) := fun s => by
  change ∃ v, execPreemptEscalation u s = .next v
  unfold execPreemptEscalation
  repeat' split
  all_goals exact ⟨_, rfl⟩

theorem completes_contextSave (u : Nat) : Completes (.contextSave u) := fun s => by
  change ∃ v, execContextSave u s = .next v
  unfold execContextSave
  simp only []
  repeat' split
  all_goals exact ⟨_, rfl⟩

theorem completes_contextRestore (u k : Nat) : Completes (.contextRestore u k) := fun s => by
  change ∃ v, execContextRestore u k s = .next v
  unfold execContextRestore
  repeat' split
  all_goals exact ⟨_, rfl⟩

theorem completes_doubleFaultRecovery (q : Nat) : Completes (.doubleFaultRecovery q) := fun s => by
  change ∃ v, execDoubleFaultRecovery q s = .next v
  unfold execDoubleFaultRecovery
  simp only []
  repeat' split
  all_goals exact ⟨_, rfl⟩

theorem completes_haltedRecordEnd (q : Nat) : Completes (.haltedRecordEnd q) := fun s => by
  change ∃ v, execHaltedRecordEnd q s = .next v
  unfold execHaltedRecordEnd
  repeat' split
  all_goals exact ⟨_, rfl⟩

theorem completes_tableRebuild (page : Nat) : Completes (.tableRebuild page) := fun s => by
  change ∃ v, execTableRebuild page s = .next v
  unfold execTableRebuild
  repeat' split
  all_goals exact ⟨_, rfl⟩

theorem completes_weltRebind (sole half : Nat) : Completes (.weltRebind sole half) := fun s => by
  change ∃ v, execWeltRebind sole half s = .next v
  unfold execWeltRebind
  simp only []
  repeat' split
  all_goals exact ⟨_, rfl⟩

theorem completes_crcFailure (t : Transfer) (crc : BitVec 32) : Completes (.crcFailure t crc) := fun s => by
  change ∃ v, execCrcFailure t crc s = .next v
  unfold execCrcFailure
  simp only []
  repeat' split
  all_goals exact ⟨_, rfl⟩

theorem completes_linkLaneRetrain (link lane : Nat) : Completes (.linkLaneRetrain link lane) := fun _ => ⟨_, rfl⟩

theorem completes_fabricFrameReceive (port : Nat) (f : Frame) : Completes (.fabricFrameReceive port f) := fun s => by
  change ∃ v, execFabricFrameReceive port f s = .next v
  unfold execFabricFrameReceive
  repeat' split
  all_goals exact ⟨_, rfl⟩

theorem completes_keySwitch (port : Nat) : Completes (.keySwitch port) := fun s => by
  change ∃ v, execKeySwitch port s = .next v
  unfold execKeySwitch
  repeat' split
  all_goals exact ⟨_, rfl⟩

theorem completes_poisonNotice (port : Nat) (device : Word) (n : NoticeBody) : Completes (.poisonNotice port device n) := fun _ => ⟨_, rfl⟩

theorem completes_sessionGapTimeout (mgmt : Bool) (ep : Nat) (sess : BitVec 16) : Completes (.sessionGapTimeout mgmt ep sess) := fun s => by
  change ∃ v, execSessionGapTimeout mgmt ep sess s = .next v
  unfold execSessionGapTimeout
  simp only []
  repeat' split
  all_goals exact ⟨_, rfl⟩

theorem completes_powerUp : Completes (.powerUp) := fun s => by
  change ∃ v, execPowerUp s = .next v
  unfold execPowerUp
  repeat' split
  all_goals exact ⟨_, rfl⟩

theorem completes_throttle : Completes (.throttle) := fun _ => ⟨_, rfl⟩

theorem completes_criticalTemperature (sensor : Nat) : Completes (.criticalTemperature sensor) := fun s => by
  change ∃ v, execCriticalTemperature sensor s = .next v
  unfold execCriticalTemperature
  repeat' split
  all_goals exact ⟨_, rfl⟩

theorem completes_watchdogExpiry : Completes (.watchdogExpiry) := fun s => by
  change ∃ v, execWatchdogExpiry s = .next v
  unfold execWatchdogExpiry
  repeat' split
  all_goals exact ⟨_, rfl⟩

theorem completes_fatalError (cause : Nat) (cls num : Nat) (detail : Word) : Completes (.fatalError cause cls num detail) := fun s => by
  change ∃ v, execFatalError cause cls num detail s = .next v
  unfold execFatalError
  repeat' split
  all_goals exact ⟨_, rfl⟩

theorem completes_powerStateEntry (p : Nat) : Completes (.powerStateEntry p) := fun s => by
  change ∃ v, execPowerStateEntry p s = .next v
  unfold execPowerStateEntry
  repeat' split
  all_goals exact ⟨_, rfl⟩

theorem completes_wakeEvent (p : Nat) : Completes (.wakeEvent p) := fun _ => ⟨_, rfl⟩

theorem completes_illegalInstruction : Completes (.illegalInstruction) := fun s => by
  change ∃ v, execIllegalInstruction s = .next v
  unfold execIllegalInstruction
  repeat' split
  all_goals exact ⟨_, rfl⟩

theorem completes_instructionFetchFault : Completes (.instructionFetchFault) := fun s => by
  change ∃ v, execInstructionFetchFault s = .next v
  unfold execInstructionFetchFault
  repeat' split
  all_goals exact ⟨_, rfl⟩

theorem completes_powerLoss (writing : Bool) : Completes (.powerLoss writing) := fun s => by
  change ∃ v, execPowerLoss writing s = .next v
  unfold execPowerLoss
  simp only []
  repeat' split
  all_goals exact ⟨_, rfl⟩

theorem completes_throttleRelease : Completes (.throttleRelease) := fun s => by
  change ∃ v, execThrottleRelease s = .next v
  unfold execThrottleRelease
  repeat' split
  all_goals exact ⟨_, rfl⟩

theorem completes_rankUnreachable (c : Nat) : Completes (.rankUnreachable c) := fun s => by
  change ∃ v, execRankUnreachable c s = .next v
  unfold execRankUnreachable
  repeat' split
  all_goals exact ⟨_, rfl⟩

theorem State.arrive_completes (s : State) (h : Hdr) (r : Req) : ∃ t, s.arrive h r = .next t := by
  unfold State.arrive
  split
  · exact ⟨_, rfl⟩
  · cases r <;> exact ⟨_, rfl⟩

theorem Happening.completes {i : Instr} (h : Happening i) : Completes i := by
  cases h with
  | pop q => exact completes_pop q
  | aging => exact completes_aging
  | timeSliceQuantum u => exact completes_timeSliceQuantum u
  | tenantSwitch u => exact completes_tenantSwitch u
  | classTableSwap u => exact completes_classTableSwap u
  | generationDrain u => exact completes_generationDrain u
  | barwPhaseReached q => exact completes_barwPhaseReached q
  | barwTimeout q => exact completes_barwTimeout q
  | engineChunkComplete c j => exact completes_engineChunkComplete c j
  | engineCommandComplete c => exact completes_engineCommandComplete c
  | engineCommandFail c => exact completes_engineCommandFail c
  | translationStallResolved c => exact completes_translationStallResolved c
  | xqueryAnswer c => exact completes_xqueryAnswer c
  | xgridDeclare c => exact completes_xgridDeclare c
  | scaddUpdateArrival n => exact completes_scaddUpdateArrival n
  | scatterRoundClose r => exact completes_scatterRoundClose r
  | collectiveComplete c => exact completes_collectiveComplete c
  | preemptionRequest u why => exact completes_preemptionRequest u why
  | preemptEscalation u => exact completes_preemptEscalation u
  | contextSave u => exact completes_contextSave u
  | contextRestore u k => exact completes_contextRestore u k
  | doubleFaultRecovery q => exact completes_doubleFaultRecovery q
  | haltedRecordEnd q => exact completes_haltedRecordEnd q
  | tableRebuild page => exact completes_tableRebuild page
  | weltRebind sole half => exact completes_weltRebind sole half
  | crcFailure t crc => exact completes_crcFailure t crc
  | linkLaneRetrain link lane => exact completes_linkLaneRetrain link lane
  | fabricFrameReceive port f => exact completes_fabricFrameReceive port f
  | keySwitch port => exact completes_keySwitch port
  | poisonNotice port device n => exact completes_poisonNotice port device n
  | sessionGapTimeout mgmt ep sess => exact completes_sessionGapTimeout mgmt ep sess
  | powerUp => exact completes_powerUp
  | throttle => exact completes_throttle
  | criticalTemperature sensor => exact completes_criticalTemperature sensor
  | watchdogExpiry => exact completes_watchdogExpiry
  | fatalError cause cls num detail => exact completes_fatalError cause cls num detail
  | powerStateEntry p => exact completes_powerStateEntry p
  | wakeEvent p => exact completes_wakeEvent p
  | illegalInstruction => exact completes_illegalInstruction
  | instructionFetchFault => exact completes_instructionFetchFault
  | powerLoss writing => exact completes_powerLoss writing
  | throttleRelease => exact completes_throttleRelease
  | rankUnreachable c => exact completes_rankUnreachable c

/-- No instruction stops the machine: each answers a next state. -/
theorem exec_completes (i : Instr) : Completes i := by
  rcases word_or_request_or_happening i with h | ⟨h, r, e⟩ | h
  · obtain ⟨group, body, he⟩ := exec_issues i h
    exact fun s => ⟨_, he s⟩
  · exact fun s => by
      rw [exec_request s e]
      exact s.arrive_completes h r
  · exact h.completes

end Sys2Proof.Machine

/-! A step runs the word at PC (O58), what reset leaves (O59), and sample words (O56). -/

namespace Sys2Proof.Machine

set_option Elab.async false

/-- Settles O56: the words are decoded by evaluation. -/
theorem decodeWords : Obligations.DecodeWords := by
  refine ⟨?_, ?_, ?_, ?_, ?_, ?_, ?_, ?_, ?_, ?_, ?_, ?_, ?_, ?_⟩ <;> rfl

/-! ### Whose turn a step is -/

theorem State.turn_prompt {s : State} (hr : s.dev.running = .up) (hp : s.prompt = true) :
    s.turn = .become (s.leaders.foldl State.promptTurn s) := if_pos ⟨hr, hp⟩

theorem State.turn_agenda {s : State} {a : Agent} {l : List Agent} (hn : ¬(s.dev.running = .up ∧ s.prompt = true))
    (ha : s.agenda = a :: l) : s.turn = ({ s with agenda := l } : State).agendaTurn a := by
  unfold State.turn
  rw [if_neg hn, ha]

/-- The turn of a sequencer that runs its words, on a device that serves and where nothing else is due. -/
theorem State.turn_fetch {s : State} (ha : s.agenda = []) (hr : s.dev.running = .up) (hp : s.prompt = false)
    (ho : s.othersDue = false) (hm : s.me.mode = .running) (ht : (s.upperAt (upperOf s.cur)).throttled = false)
    (hs : s.atStandard = false) : s.turn = s.fetchTurn := by
  have hn : ¬(s.dev.running = .up ∧ s.prompt = true) := fun h => by
    rw [hp] at h
    exact Bool.false_ne_true h.2
  unfold State.turn
  rw [if_neg hn, ha]
  simp only [ne_eq, hr, not_true_eq_false, if_false, ho, Bool.false_eq_true, State.ownTurn, hm, ht, hs]

theorem State.fetchWord_ok {s : State} {loc : Nat} (hf : SMap.find s.me.fetched s.me.pc.toNat = none)
    (hc : s.checkAccess s.ctx .fetch s.me.pc.toNat 4 = .ok loc) (hp : s.poisoned loc = false) :
    s.fetchWord = .ok (cellsNat s.mem.cells loc 4) := by
  unfold State.fetchWord
  simp only [hf, hc, hp, Bool.false_eq_true, if_false]

theorem State.agendaTurn_event {s : State} {i : Instr} (he : encodeWord i = none)
    (h : s.dev.running = .up ∨ takenDown i = true) : s.agendaTurn (.event i) = .run i s := by
  have hb : (s.dev.running == .up || takenDown i) = true := by
    rcases h with h | h
    · rw [h]
      rfl
    · rw [h, Bool.or_true]
  unfold State.agendaTurn
  simp only [he, hb, Option.isSome_none, Bool.not_true, Bool.or_false, Bool.false_eq_true, if_false]

/-! ### Before a word (log 2) -/

theorem State.settleLate_none {s : State} (h : s.me.late = []) (i : Instr) : s.settleLate i = s := by
  unfold State.settleLate
  rw [h]
  rfl

theorem State.landBefore_none {s : State} (h : s.me.unseen = []) (i : Instr) : s.landBefore i = s := by
  unfold State.landBefore
  rw [h]
  rfl

theorem State.voidEarly_none {s : State} (he : s.me.early = []) (ht : s.me.tokens = []) (hm : s.me.marked = []) (i : Instr) :
    s.voidEarly i = s := by
  unfold State.voidEarly
  split
  · rfl
  · rw [he, ht, hm]
    rfl

theorem State.readObjects_none {s : State} (h : s.me.early = []) (i : Instr) : s.readObjects i = s := by
  unfold State.readObjects
  rw [h]
  rfl

theorem State.landFirst_none {s : State} (h : s.flights = []) (i : Instr) : s.landFirst i = s := by
  unfold State.landFirst
  rw [h, List.any_nil, Bool.and_false]
  rfl

/-- Where nothing is ahead, late, unseen or under way, nothing comes before a word. -/
theorem State.before_none {s : State} (he : s.me.early = []) (hl : s.me.late = []) (hu : s.me.unseen = [])
    (ht : s.me.tokens = []) (hm : s.me.marked = []) (hf : s.flights = []) (i : Instr) : s.before i = s := by
  rw [State.before, State.settleLate_none hl, State.landBefore_none hu, State.voidEarly_none he ht hm, State.readObjects_none he,
    State.landFirst_none hf]

theorem step_completes {s : State} (h : s.cur < Config.allUppers * Config.seqsPerUpper) : ∃ t, step s = .next t := by
  rw [step_eq h]
  cases s.turn with
  | run i u => exact exec_completes i u
  | become u => exact ⟨u, rfl⟩

/-- Settles O58. -/
theorem stepRunsWord : Obligations.StepRunsWord := by
  refine ⟨fun s h => if_pos h, fun s hcur => ⟨fun ha hr hp ho hm ht hs => ⟨fun loc hf hc hpo => ?word, fun e he => ?fault⟩,
    fun i he hl hu ht hm hf => State.before_none he hl hu ht hm hf i, fun i l ha hi h => ?event, fun hr hp => ?prompt,
    step_completes hcur⟩⟩
  case word =>
    have hturn : s.turn = s.wordTurn (cellsNat s.mem.cells loc 4) := by
      rw [State.turn_fetch ha hr hp ho hm ht hs, State.fetchTurn_ok (State.fetchWord_ok hf hc hpo)]
    have hbytes := wordBytes_cellsNat s.mem.cells loc
    refine ⟨fun i hi => ?_, fun e he => ?_⟩
    · rw [step_eq hcur, hturn, State.wordTurn_ok ((congrArg decode hbytes).trans hi)]
    · rw [step_eq hcur, hturn, State.wordTurn_error ((congrArg decode hbytes).trans he)]
  case fault =>
    rw [step_eq hcur, State.turn_fetch ha hr hp ho hm ht hs, State.fetchTurn_error he]
  case event =>
    have hn : ¬(s.dev.running = .up ∧ s.prompt = true) := by
      rcases h with ⟨-, hp⟩ | ⟨hr, -⟩
      · rw [hp]
        exact fun h => Bool.false_ne_true h.2
      · exact fun h => hr h.1
    have hdown : ({ s with agenda := l } : State).dev.running = .up ∨ takenDown i = true :=
      h.imp (fun h => h.1) (fun h => h.2)
    rw [step_eq hcur, State.turn_agenda hn ha, State.agendaTurn_event hi hdown]
  case prompt =>
    rw [step_eq hcur, State.turn_prompt hr hp]

/-! ### Reset (R8, R10, R26) -/

/-- Every control register but STATUS and SEQID reads 0 after reset. -/
theorem readCtl_reset (q : Nat) {n : Nat} (h0 : n ≠ 0) (h32 : n ≠ 0x32) : ({ State.reset with cur := q } : State).readCtl n = 0 := by
  unfold State.readCtl
  split
  case h_1 => exact absurd rfl h0
  case h_22 => exact congrArg (BitVec.ofNat 64) (show Config.timeNs 0 = 0 from rfl)
  case h_23 => exact absurd rfl h32
  all_goals rfl

theorem get_replicate {α : Type} {n : Nat} (x : α) (k : Fin n) : (Vector.replicate n x).get k = x := by
  rw [Vector.get_eq_getElem, Vector.getElem_replicate]

/-- Settles O59: the reset state holds no entry in any table. -/
theorem resetMachine : Obligations.ResetMachine := by
  refine ⟨fun q => ?_, fun u => ⟨rfl, rfl, rfl, rfl, rfl, rfl, fun k => get_replicate _ k⟩, rfl, rfl, rfl, rfl, rfl, rfl, rfl, rfl, rfl,
    rfl, wf_reset, fun a => rfl⟩
  refine ⟨rfl, rfl, fun r => ?_, fun v => ?_, fun k => get_replicate _ k, rfl, rfl, rfl, fun k => get_replicate _ k, rfl, rfl, rfl, rfl,
    rfl, rfl, rfl, rfl, rfl, rfl, rfl, rfl, rfl, rfl, rfl, rfl, rfl, rfl, fun n => readCtl_reset q, rfl, rfl⟩
  · show Seq.reset.sreg r = 0
    rw [Seq.sreg, show Seq.reset.regs.get r = 0 from get_replicate _ r, ite_self]
  · rw [show (State.reset.seqAt q).vregs.get v = VReg.reset from get_replicate _ v]
    exact ⟨rfl, rfl, rfl, rfl⟩

end Sys2Proof.Machine

/-! What a word that writes one scalar register leaves alone (O6). -/

namespace Sys2Proof.Machine

set_option Elab.async false

/-- What the meaning of a word that writes scalar register `d` at the most may do, before the word retires. -/
structure ScalarStep (d : Reg) (s t : State) : Prop where
  machine : SameMachine s t
  context : SameContext s.me t.me
  regs : SameRegsBut d s.me t.me
  place : t.me.pc = s.me.pc ∧ t.me.loops = s.me.loops
  mode : t.me.mode = s.me.mode ∧ t.me.resv = s.me.resv

/-- A meaning that writes scalar register `d` at the most, or traps before it has changed anything. -/
def ScalarBody (d : Reg) (body : State → Res) : Prop :=
  ∀ s, (∃ fl t, body s = .done fl t ∧ ScalarStep d s t) ∨ ∃ x, body s = .trap x s

/-- A word whose meaning is of that kind. -/
def ScalarWord (i : Instr) (d : Reg) : Prop := ∃ body, ScalarBody d body ∧ ∀ s, exec i s = run i body s

theorem ScalarStep.refl (d : Reg) (s : State) : ScalarStep d s s :=
  ⟨SameMachine.refl s, SameContext.refl _, fun _ _ => rfl, ⟨rfl, rfl⟩, ⟨rfl, rfl⟩⟩

theorem ScalarStep.trans {d : Reg} {s t u : State} (h : ScalarStep d s t) (k : ScalarStep d t u) : ScalarStep d s u :=
  ⟨h.machine.trans k.machine, h.context.trans k.context, fun r hr => (k.regs r hr).trans (h.regs r hr),
    ⟨k.place.1.trans h.place.1, k.place.2.trans h.place.2⟩, ⟨k.mode.1.trans h.mode.1, k.mode.2.trans h.mode.2⟩⟩

theorem SameContext.setS (m : Seq) (r : Reg) (v : Word) : SameContext m (m.setS r v) := by
  unfold Seq.setS
  split
  · exact SameContext.refl m
  · constructor <;> first | rfl | exact fun _ h => h

theorem ScalarStep.setS (s : State) (d : Reg) (v : Word) : ScalarStep d s (s.setS d v) := by
  refine ⟨SameMachine.setMe s _, ?_, fun r hr => ?_, ?_, ?_⟩ <;> rw [State.me_setS]
  · exact SameContext.setS _ _ _
  · rw [Seq.sreg_setS, if_neg fun h => hr h.1]
  · exact ⟨Seq.setS_pc .., Seq.setS_loops ..⟩
  · exact ⟨Seq.setS_mode .., Seq.setS_resv ..⟩

theorem ScalarStep.loaded (d : Reg) (s : State) (l : List Access) : ScalarStep d s (s.loaded l) := by
  unfold State.loaded
  split
  · exact ScalarStep.refl d s
  · refine ⟨SameMachine.setMe s _, ?_, fun r hr => ?_, ?_, ?_⟩ <;> rw [State.me_setMe]
    · constructor <;> first | rfl | exact fun _ h => h
    · rfl
    · exact ⟨rfl, rfl⟩
    · exact ⟨rfl, rfl⟩

theorem ScalarBody.sets (d : Reg) (fl : State → Flow) (v : State → Word) :
    ScalarBody d (fun s => .done (fl s) (s.setS d (v s))) :=
  fun s => .inl ⟨_, _, rfl, ScalarStep.setS s d _⟩

theorem ScalarBody.nothing (fl : State → Flow) : ScalarBody 0 (fun s => .done (fl s) s) :=
  fun s => .inl ⟨_, _, rfl, ScalarStep.refl 0 s⟩

theorem ScalarBody.load (d : Reg) (signed : Bool) (size : Nat) (ea : State → Word) :
    ScalarBody d (fun s => loadBody d signed size (ea s) s) := by
  intro s
  simp only [loadBody]
  split
  · exact .inr ⟨_, rfl⟩
  · split
    · exact .inr ⟨_, rfl⟩
    · exact .inl ⟨_, _, rfl, (ScalarStep.setS s d _).trans (ScalarStep.loaded d _ _)⟩

theorem ScalarBody.maskRead (f : R2) (op : BitVec 4096 → Nat → Nat) :
    ScalarBody f.d (fun s =>
      match s.masksOk [f.a] (s.grantLen s.typeOr) with
      | .error e => .trap e s
      | .ok () => .done .seq (s.setS f.d (BitVec.ofNat 64 (op (s.maskReg f.a) (s.grantLen s.typeOr))))) := by
  intro s
  simp only []
  split
  · exact .inr ⟨_, rfl⟩
  · exact .inl ⟨_, _, rfl, ScalarStep.setS s _ _⟩

theorem ScalarBody.orTrap {d : Reg} {body : State → Res} (h : ScalarBody d body) (c : State → Prop) [DecidablePred c]
    (x : State → Trap) : ScalarBody d (fun s => if c s then .trap (x s) s else body s) := by
  intro s
  simp only []
  split
  · exact .inr ⟨_, rfl⟩
  · exact h s

theorem scalarWord_add (f : R3) : ScalarWord (.add f) f.d := ⟨_, ScalarBody.sets _ _ _, fun _ => rfl⟩
theorem scalarWord_sub (f : R3) : ScalarWord (.sub f) f.d := ⟨_, ScalarBody.sets _ _ _, fun _ => rfl⟩
theorem scalarWord_and (f : R3) : ScalarWord (.and f) f.d := ⟨_, ScalarBody.sets _ _ _, fun _ => rfl⟩
theorem scalarWord_or (f : R3) : ScalarWord (.or f) f.d := ⟨_, ScalarBody.sets _ _ _, fun _ => rfl⟩
theorem scalarWord_xor (f : R3) : ScalarWord (.xor f) f.d := ⟨_, ScalarBody.sets _ _ _, fun _ => rfl⟩
theorem scalarWord_andn (f : R3) : ScalarWord (.andn f) f.d := ⟨_, ScalarBody.sets _ _ _, fun _ => rfl⟩
theorem scalarWord_sll (f : R3) : ScalarWord (.sll f) f.d := ⟨_, ScalarBody.sets _ _ _, fun _ => rfl⟩
theorem scalarWord_srl (f : R3) : ScalarWord (.srl f) f.d := ⟨_, ScalarBody.sets _ _ _, fun _ => rfl⟩
theorem scalarWord_sra (f : R3) : ScalarWord (.sra f) f.d := ⟨_, ScalarBody.sets _ _ _, fun _ => rfl⟩
theorem scalarWord_rol (f : R3) : ScalarWord (.rol f) f.d := ⟨_, ScalarBody.sets _ _ _, fun _ => rfl⟩
theorem scalarWord_slt (f : R3) : ScalarWord (.slt f) f.d := ⟨_, ScalarBody.sets _ _ _, fun _ => rfl⟩
theorem scalarWord_sltn (f : R3) : ScalarWord (.sltn f) f.d := ⟨_, ScalarBody.sets _ _ _, fun _ => rfl⟩
theorem scalarWord_seq (f : R3) : ScalarWord (.seq f) f.d := ⟨_, ScalarBody.sets _ _ _, fun _ => rfl⟩
theorem scalarWord_min (f : R3) : ScalarWord (.min f) f.d := ⟨_, ScalarBody.sets _ _ _, fun _ => rfl⟩
theorem scalarWord_max (f : R3) : ScalarWord (.max f) f.d := ⟨_, ScalarBody.sets _ _ _, fun _ => rfl⟩
theorem scalarWord_minn (f : R3) : ScalarWord (.minn f) f.d := ⟨_, ScalarBody.sets _ _ _, fun _ => rfl⟩
theorem scalarWord_maxn (f : R3) : ScalarWord (.maxn f) f.d := ⟨_, ScalarBody.sets _ _ _, fun _ => rfl⟩
theorem scalarWord_addw (f : R3) : ScalarWord (.addw f) f.d := ⟨_, ScalarBody.sets _ _ _, fun _ => rfl⟩
theorem scalarWord_subw (f : R3) : ScalarWord (.subw f) f.d := ⟨_, ScalarBody.sets _ _ _, fun _ => rfl⟩
theorem scalarWord_adds1 (f : R3) : ScalarWord (.adds1 f) f.d := ⟨_, ScalarBody.sets _ _ _, fun _ => rfl⟩
theorem scalarWord_adds2 (f : R3) : ScalarWord (.adds2 f) f.d := ⟨_, ScalarBody.sets _ _ _, fun _ => rfl⟩
theorem scalarWord_adds3 (f : R3) : ScalarWord (.adds3 f) f.d := ⟨_, ScalarBody.sets _ _ _, fun _ => rfl⟩
theorem scalarWord_mul (f : R3) : ScalarWord (.mul f) f.d := ⟨_, ScalarBody.sets _ _ _, fun _ => rfl⟩
theorem scalarWord_mulh (f : R3) : ScalarWord (.mulh f) f.d := ⟨_, ScalarBody.sets _ _ _, fun _ => rfl⟩
theorem scalarWord_mulhn (f : R3) : ScalarWord (.mulhn f) f.d := ⟨_, ScalarBody.sets _ _ _, fun _ => rfl⟩
theorem scalarWord_div (f : R3) : ScalarWord (.div f) f.d := ⟨_, ScalarBody.sets _ _ _, fun _ => rfl⟩
theorem scalarWord_divn (f : R3) : ScalarWord (.divn f) f.d := ⟨_, ScalarBody.sets _ _ _, fun _ => rfl⟩
theorem scalarWord_rem (f : R3) : ScalarWord (.rem f) f.d := ⟨_, ScalarBody.sets _ _ _, fun _ => rfl⟩
theorem scalarWord_remn (f : R3) : ScalarWord (.remn f) f.d := ⟨_, ScalarBody.sets _ _ _, fun _ => rfl⟩
theorem scalarWord_bext (f : R3) : ScalarWord (.bext f) f.d := ⟨_, ScalarBody.sets _ _ _, fun _ => rfl⟩
theorem scalarWord_bins (f : R3) : ScalarWord (.bins f) f.d := ⟨_, ScalarBody.sets _ _ _, fun _ => rfl⟩
theorem scalarWord_ldxb (f : R3) : ScalarWord (.ldxb f) f.d := ⟨_, ScalarBody.load _ _ _ _, fun _ => rfl⟩
theorem scalarWord_ldxbn (f : R3) : ScalarWord (.ldxbn f) f.d := ⟨_, ScalarBody.load _ _ _ _, fun _ => rfl⟩
theorem scalarWord_ldxh (f : R3) : ScalarWord (.ldxh f) f.d := ⟨_, ScalarBody.load _ _ _ _, fun _ => rfl⟩
theorem scalarWord_ldxhn (f : R3) : ScalarWord (.ldxhn f) f.d := ⟨_, ScalarBody.load _ _ _ _, fun _ => rfl⟩
theorem scalarWord_ldxw (f : R3) : ScalarWord (.ldxw f) f.d := ⟨_, ScalarBody.load _ _ _ _, fun _ => rfl⟩
theorem scalarWord_ldxwn (f : R3) : ScalarWord (.ldxwn f) f.d := ⟨_, ScalarBody.load _ _ _ _, fun _ => rfl⟩
theorem scalarWord_ldxd (f : R3) : ScalarWord (.ldxd f) f.d := ⟨_, ScalarBody.load _ _ _ _, fun _ => rfl⟩
theorem scalarWord_mfg (f : R3) : ScalarWord (.mfg f) f.d := ⟨_, ScalarBody.sets _ _ _, fun _ => rfl⟩
theorem scalarWord_slli (f : Shift) : ScalarWord (.slli f) f.d := ⟨_, ScalarBody.sets _ _ _, fun _ => rfl⟩
theorem scalarWord_srli (f : Shift) : ScalarWord (.srli f) f.d := ⟨_, ScalarBody.sets _ _ _, fun _ => rfl⟩
theorem scalarWord_srai (f : Shift) : ScalarWord (.srai f) f.d := ⟨_, ScalarBody.sets _ _ _, fun _ => rfl⟩
theorem scalarWord_roli (f : Shift) : ScalarWord (.roli f) f.d := ⟨_, ScalarBody.sets _ _ _, fun _ => rfl⟩
theorem scalarWord_clz (f : R2) : ScalarWord (.clz f) f.d := ⟨_, ScalarBody.sets _ _ _, fun _ => rfl⟩
theorem scalarWord_ctz (f : R2) : ScalarWord (.ctz f) f.d := ⟨_, ScalarBody.sets _ _ _, fun _ => rfl⟩
theorem scalarWord_cpop (f : R2) : ScalarWord (.cpop f) f.d := ⟨_, ScalarBody.sets _ _ _, fun _ => rfl⟩
theorem scalarWord_jalr (f : R2) : ScalarWord (.jalr f) f.d := ⟨_, (ScalarBody.sets _ _ _).orTrap _ _, fun _ => rfl⟩
theorem exec_mpop (f : R2) (s : State) : exec (.mpop f) s = maskRead (.mpop f) f setBelow s := rfl
theorem scalarWord_mpop (f : R2) : ScalarWord (.mpop f) f.d := ⟨_, ScalarBody.maskRead f setBelow, exec_mpop f⟩
theorem exec_mfirst (f : R2) (s : State) : exec (.mfirst f) s = maskRead (.mfirst f) f (fun b l => firstSet b 0 l) s := rfl
theorem scalarWord_mfirst (f : R2) : ScalarWord (.mfirst f) f.d := ⟨_, ScalarBody.maskRead f (fun b l => firstSet b 0 l), exec_mfirst f⟩
theorem scalarWord_wid (f : R2) : ScalarWord (.wid f) f.d := ⟨_, ScalarBody.sets _ _ _, fun _ => rfl⟩
theorem scalarWord_addi (f : ImmI) : ScalarWord (.addi f) f.d := ⟨_, ScalarBody.sets _ _ _, fun _ => rfl⟩
theorem scalarWord_andi (f : ImmI) : ScalarWord (.andi f) f.d := ⟨_, ScalarBody.sets _ _ _, fun _ => rfl⟩
theorem scalarWord_ori (f : ImmI) : ScalarWord (.ori f) f.d := ⟨_, ScalarBody.sets _ _ _, fun _ => rfl⟩
theorem scalarWord_xori (f : ImmI) : ScalarWord (.xori f) f.d := ⟨_, ScalarBody.sets _ _ _, fun _ => rfl⟩
theorem scalarWord_ldd (f : ImmI) : ScalarWord (.ldd f) f.d := ⟨_, ScalarBody.load _ _ _ _, fun _ => rfl⟩
theorem scalarWord_ldw (f : ImmI) : ScalarWord (.ldw f) f.d := ⟨_, ScalarBody.load _ _ _ _, fun _ => rfl⟩
theorem scalarWord_ldwn (f : ImmI) : ScalarWord (.ldwn f) f.d := ⟨_, ScalarBody.load _ _ _ _, fun _ => rfl⟩
theorem scalarWord_lih (f : ImmJ) : ScalarWord (.lih f) f.d := ⟨_, ScalarBody.sets _ _ _, fun _ => rfl⟩
theorem scalarWord_jal (f : ImmJ) : ScalarWord (.jal f) f.d := ⟨_, ScalarBody.sets _ _ _, fun _ => rfl⟩
theorem scalarWord_rdpc (f : Dst) : ScalarWord (.rdpc f) f.d := ⟨_, ScalarBody.sets _ _ _, fun _ => rfl⟩
theorem scalarWord_lcnt (f : Dst) : ScalarWord (.lcnt f) f.d := ⟨_, ScalarBody.sets _ _ _, fun _ => rfl⟩
theorem scalarWord_ldep (f : Dst) : ScalarWord (.ldep f) f.d := ⟨_, ScalarBody.sets _ _ _, fun _ => rfl⟩
theorem scalarWord_tmodr (f : Dst) : ScalarWord (.tmodr f) f.d := ⟨_, ScalarBody.sets _ _ _, fun _ => rfl⟩
theorem scalarWord_tmodc (f : Dst) : ScalarWord (.tmodc f) f.d := ⟨_, ScalarBody.sets _ _ _, fun _ => rfl⟩
theorem scalarWord_tcget (f : TRng) : ScalarWord (.tcget f) f.a := ⟨_, ScalarBody.sets _ _ _, fun _ => rfl⟩
theorem scalarWord_beq (f : ImmB) : ScalarWord (.beq f) 0 := ⟨_, ScalarBody.nothing _, fun _ => rfl⟩
theorem scalarWord_bne (f : ImmB) : ScalarWord (.bne f) 0 := ⟨_, ScalarBody.nothing _, fun _ => rfl⟩
theorem scalarWord_blt (f : ImmB) : ScalarWord (.blt f) 0 := ⟨_, ScalarBody.nothing _, fun _ => rfl⟩
theorem scalarWord_bge (f : ImmB) : ScalarWord (.bge f) 0 := ⟨_, ScalarBody.nothing _, fun _ => rfl⟩
theorem scalarWord_bltn (f : ImmB) : ScalarWord (.bltn f) 0 := ⟨_, ScalarBody.nothing _, fun _ => rfl⟩
theorem scalarWord_bgen (f : ImmB) : ScalarWord (.bgen f) 0 := ⟨_, ScalarBody.nothing _, fun _ => rfl⟩
theorem scalarWord_bgs (f : Grant) : ScalarWord (.bgs f) 0 := ⟨_, ScalarBody.nothing _, fun _ => rfl⟩
theorem scalarWord_bgsn (f : Grant) : ScalarWord (.bgsn f) 0 := ⟨_, ScalarBody.nothing _, fun _ => rfl⟩
theorem scalarWord_pref (f : Pair) : ScalarWord (.pref f) 0 := ⟨_, ScalarBody.nothing _, fun _ => rfl⟩
theorem scalarWord_cwb (f : Pair) : ScalarWord (.cwb f) 0 := ⟨_, (ScalarBody.nothing _).orTrap _ _, fun _ => rfl⟩
theorem scalarWord_pause (f : Bare) : ScalarWord (.pause f) 0 := ⟨_, ScalarBody.nothing _, fun _ => rfl⟩
theorem scalarWord_sdrain (f : Bare) : ScalarWord (.sdrain f) 0 := ⟨_, ScalarBody.nothing _, fun _ => rfl⟩

/-- The words of `scalarDest` have such a meaning. -/
theorem scalarWord_of_dest {i : Instr} {d : Reg} (h : scalarDest i = some d) : ScalarWord i d := by
  unfold scalarDest at h
  split at h
  · cases h
    exact scalarWord_add _
  · cases h
    exact scalarWord_sub _
  · cases h
    exact scalarWord_and _
  · cases h
    exact scalarWord_or _
  · cases h
    exact scalarWord_xor _
  · cases h
    exact scalarWord_andn _
  · cases h
    exact scalarWord_sll _
  · cases h
    exact scalarWord_srl _
  · cases h
    exact scalarWord_sra _
  · cases h
    exact scalarWord_rol _
  · cases h
    exact scalarWord_slt _
  · cases h
    exact scalarWord_sltn _
  · cases h
    exact scalarWord_seq _
  · cases h
    exact scalarWord_min _
  · cases h
    exact scalarWord_max _
  · cases h
    exact scalarWord_minn _
  · cases h
    exact scalarWord_maxn _
  · cases h
    exact scalarWord_addw _
  · cases h
    exact scalarWord_subw _
  · cases h
    exact scalarWord_adds1 _
  · cases h
    exact scalarWord_adds2 _
  · cases h
    exact scalarWord_adds3 _
  · cases h
    exact scalarWord_mul _
  · cases h
    exact scalarWord_mulh _
  · cases h
    exact scalarWord_mulhn _
  · cases h
    exact scalarWord_div _
  · cases h
    exact scalarWord_divn _
  · cases h
    exact scalarWord_rem _
  · cases h
    exact scalarWord_remn _
  · cases h
    exact scalarWord_bext _
  · cases h
    exact scalarWord_bins _
  · cases h
    exact scalarWord_ldxb _
  · cases h
    exact scalarWord_ldxbn _
  · cases h
    exact scalarWord_ldxh _
  · cases h
    exact scalarWord_ldxhn _
  · cases h
    exact scalarWord_ldxw _
  · cases h
    exact scalarWord_ldxwn _
  · cases h
    exact scalarWord_ldxd _
  · cases h
    exact scalarWord_mfg _
  · cases h
    exact scalarWord_slli _
  · cases h
    exact scalarWord_srli _
  · cases h
    exact scalarWord_srai _
  · cases h
    exact scalarWord_roli _
  · cases h
    exact scalarWord_clz _
  · cases h
    exact scalarWord_ctz _
  · cases h
    exact scalarWord_cpop _
  · cases h
    exact scalarWord_jalr _
  · cases h
    exact scalarWord_mpop _
  · cases h
    exact scalarWord_mfirst _
  · cases h
    exact scalarWord_wid _
  · cases h
    exact scalarWord_addi _
  · cases h
    exact scalarWord_andi _
  · cases h
    exact scalarWord_ori _
  · cases h
    exact scalarWord_xori _
  · cases h
    exact scalarWord_ldd _
  · cases h
    exact scalarWord_ldw _
  · cases h
    exact scalarWord_ldwn _
  · cases h
    exact scalarWord_lih _
  · cases h
    exact scalarWord_jal _
  · cases h
    exact scalarWord_rdpc _
  · cases h
    exact scalarWord_lcnt _
  · cases h
    exact scalarWord_ldep _
  · cases h
    exact scalarWord_tmodr _
  · cases h
    exact scalarWord_tmodc _
  · cases h
    exact scalarWord_tcget _
  · cases h
    exact scalarWord_beq _
  · cases h
    exact scalarWord_bne _
  · cases h
    exact scalarWord_blt _
  · cases h
    exact scalarWord_bge _
  · cases h
    exact scalarWord_bltn _
  · cases h
    exact scalarWord_bgen _
  · cases h
    exact scalarWord_bgs _
  · cases h
    exact scalarWord_bgsn _
  · cases h
    exact scalarWord_pref _
  · cases h
    exact scalarWord_cwb _
  · cases h
    exact scalarWord_pause _
  · cases h
    exact scalarWord_sdrain _
  · cases h

/-- Waiting and the clock of the issue are nothing that a frame speaks of. -/
theorem SameMachine.waits (s : State) (c : Nat) : SameMachine s { s with clock := c, waited := true } :=
  ⟨rfl, rfl, rfl, fun _ _ => rfl, rfl, fun _ => SameSole.refl _, rfl, rfl, rfl, rfl, rfl, rfl, rfl, rfl, rfl, rfl,
    SameDev.refl _, rfl, rfl, rfl, rfl⟩

theorem SameMachine.atIssue (s : State) (i : Instr) : SameMachine s (s.atIssue i) :=
  ⟨rfl, rfl, rfl, fun _ _ => rfl, rfl, fun _ => SameSole.refl _, rfl, rfl, rfl, rfl, rfl, rfl, rfl, rfl, rfl, rfl,
    SameDev.refl _, rfl, rfl, rfl, rfl⟩

/-- The loop stack moves only at the last word of its top level (R92). -/
theorem Seq.advance_loops (m : Seq) (f : Flow) :
    (m.advance f).1.loops = m.loops ∨ (m.loops.depth ≠ 0 ∧ m.pc = (m.loops.top.stop - 4).setWidth 57) := by
  by_cases h : m.loops.depth = 0 ∨ m.pc ≠ (m.loops.top.stop - 4).setWidth 57
  · left
    have hl := loopStep_inside 7 h
    unfold Seq.advance
    rcases f with _ | t | p | _ <;> rcases m.delay with _ | ⟨left, _ | o⟩ <;> simp only [] <;> (try split) <;>
      simp only [hl]
  · right
    rw [not_or, ne_eq, not_not] at h
    exact h

/-- What such a word leaves alone when it takes no trap. -/
theorem ScalarWord.frame {i : Instr} {d : Reg} {s t : State} (hw : ScalarWord i d) (he : exec i s = .next t)
    (ht : t.me.trapSeq = s.me.trapSeq) :
    SameMachine s t ∧ SameContext s.me t.me ∧ SameRegsBut d s.me t.me ∧ Advanced s s.me t.me := by
  obtain ⟨body, hb, hrun⟩ := hw
  have hst : s.issue i noGroup body = t := by
    rw [hrun, run] at he
    exact Host.Outcome.next.inj he
  have stays (c : Nat) : SameMachine s { s with clock := c, waited := true } ∧ SameContext s.me s.me ∧
      SameRegsBut d s.me s.me ∧ Advanced s s.me s.me :=
    ⟨SameMachine.waits s c, SameContext.refl _, fun _ _ => rfl, ⟨.inl rfl, .inl ⟨rfl, rfl⟩⟩⟩
  rcases issue_no_trap (by rw [hst]; exact ht) with h | h | h
  · rw [← hst, h]
    exact stays s.clock
  · rw [← hst, h]
    exact stays _
  · rcases hb (s.atIssue i) with ⟨fl, u, hu, k⟩ | ⟨x, hx⟩
    · have htu : t = u.retire i fl := by rw [← hst, h, hu, conclude_done]
      obtain ⟨hctx, hregs, -, hloops, -, hmode⟩ := State.retire_me u i fl
      have hsu : SameMachine s u := (SameMachine.atIssue s i).trans k.machine
      have hcu : SameContext s.me u.me := k.context
      have hpend : u.stopPending = s.stopPending := State.stopPending_congr hsu hcu.work hcu.window
      rw [htu]
      refine ⟨hsu.trans (SameMachine.retire u i fl), hcu.trans hctx, fun r hr => ?_, ?_, ?_⟩
      · rw [Seq.sreg, hregs]
        exact k.regs r hr
      · have hadv := Seq.advance_loops u.me fl
        rw [hloops]
        rw [k.place.1, k.place.2] at hadv
        exact hadv
      · rcases hmode with ⟨h1, h2⟩ | ⟨h1, h2, -, -, h3⟩
        · exact .inl ⟨h1.trans k.mode.1, h2.trans k.mode.2⟩
        · exact .inr ⟨h1, h2, hpend ▸ h3⟩
    · rw [hx] at h
      rcases State.stopWord_cases (s.atIssue i) (s.atIssue i) x (instrInfo i).w with g | ⟨-, g⟩
      · rw [← hst, h, conclude, g]
        exact stays _
      · rw [← hst, h, conclude, g, State.atIssue_me] at ht
        omega

/-- Settles O6. -/
theorem scalarFrame : Obligations.ScalarFrame := fun _ _ _ _ hd he ht => by
  obtain ⟨h1, h2, h3, h4⟩ := (scalarWord_of_dest hd).frame he ht
  exact ⟨h1, h2, h3, h4, h1.sameBytes⟩

end Sys2Proof.Machine

/-!
The element loop: when it stops and why, and what it has formed (O25); the elements of a plain result (O27, O30).
-/

namespace Sys2Proof.Machine

set_option Elab.async false

/-! ### The element loop (R114) -/

/-- A source count or count limit is used up at element n. -/
def Exhausted (lims : List Nat) (n : Nat) : Prop := ∃ l, l ∈ lims ∧ l ≤ n

/-- A masked loop has run out of active elements at element n. -/
def MaskEnded (L : Nat) (lims : List Nat) (mask : Option (BitVec 4096)) (n : Nat) : Prop :=
  mask.isSome = true ∧ ∀ k, n ≤ k → k < L → ¬Exhausted lims k → activeAt mask k = false

theorem any_le_iff {lims : List Nat} {n : Nat} : lims.any (· ≤ n) = true ↔ Exhausted lims n := by
  simp [Exhausted]

theorem not_exhausted_iff {L : Nat} {lims : List Nat} {n : Nat} (hn : n < L) :
    ¬Exhausted lims n ↔ n < loopLimit L lims := by
  rw [lt_loopLimit]
  unfold Exhausted
  push Not
  exact ⟨fun h => ⟨hn, h⟩, fun h => h.2⟩

/-- The test of the loop for the end of the mask says that no active element is left. -/
theorem maskEnded_iff {L : Nat} {lims : List Nat} {mask : Option (BitVec 4096)} {n : Nat} :
    (mask.isSome && decide (lastActive mask (loopLimit L lims) ≤ n)) = true ↔ MaskEnded L lims mask n := by
  obtain ⟨hle, hoff, hon⟩ := lastActive_spec mask (loopLimit L lims)
  rw [Bool.and_eq_true, decide_eq_true_eq]
  refine ⟨fun ⟨h1, h2⟩ => ⟨h1, fun k h3 h4 h5 => hoff k (h2.trans h3) ((not_exhausted_iff h4).mp h5)⟩, fun ⟨h1, h2⟩ => ⟨h1, ?_⟩⟩
  by_contra hlt
  have hlast := hon (by omega)
  have hlim := (loopLimit_le L lims).1
  rw [h2 (lastActive mask (loopLimit L lims) - 1) (by omega) (by omega) ((not_exhausted_iff (L := L) (by omega)).mpr (by omega))] at hlast
  cases hlast

/-- Elements n to k - 1 have been formed one after another, and none of them once the loop was to stop. -/
def FormedRun {σ : Type} (L : Nat) (lims : List Nat) (mask : Option (BitVec 4096)) (form : Nat → σ → Formed σ) (n k : Nat)
    (x y : σ) : Prop :=
  ∃ f : Nat → σ, f n = x ∧ f k = y ∧
    ∀ j, n ≤ j → j < k → form j (f j) = .put (f (j + 1)) ∧ ¬Exhausted lims j ∧ ¬MaskEnded L lims mask j

theorem FormedRun.refl {σ : Type} (L : Nat) (lims : List Nat) (mask : Option (BitVec 4096)) (form : Nat → σ → Formed σ) (n : Nat)
    (x : σ) : FormedRun L lims mask form n n x x :=
  ⟨fun _ => x, rfl, rfl, fun j h1 h2 => absurd h1 (by omega)⟩

/-- An element formed before the others. -/
theorem FormedRun.cons {σ : Type} {L : Nat} {lims : List Nat} {mask : Option (BitVec 4096)} {form : Nat → σ → Formed σ} {n k : Nat}
    {x y z : σ} (hnk : n + 1 ≤ k) (hx : form n x = .put y) (he : ¬Exhausted lims n) (hm : ¬MaskEnded L lims mask n)
    (h : FormedRun L lims mask form (n + 1) k y z) : FormedRun L lims mask form n k x z := by
  obtain ⟨f, h1, h2, h3⟩ := h
  refine ⟨fun j => if j ≤ n then x else f j, if_pos (Nat.le_refl n), (if_neg (by omega)).trans h2, fun j hj1 hj2 => ?_⟩
  simp only []
  rw [if_neg (by omega : ¬j + 1 ≤ n)]
  by_cases hj : j = n
  · subst hj
    rw [if_pos (Nat.le_refl j), h1]
    exact ⟨hx, he, hm⟩
  · rw [if_neg (by omega)]
    exact h3 j (by omega) hj2

/-- Why a loop stops at element n, with y formed (R114). -/
def StopsFor {σ : Type} (L : Nat) (lims : List Nat) (mask : Option (BitVec 4096)) (form : Nat → σ → Formed σ) (n gs : Nat)
    (y : σ) : Prop :=
  (gs = 0 ∧ n = L ∧ ∀ l, l ∈ lims → l ≤ n) ∨
  (gs = 3 ∧ n = L ∧ ∃ l, l ∈ lims ∧ n < l) ∨
  (gs = 2 ∧ n < L ∧ Exhausted lims n) ∨
  (gs = 4 ∧ n < L ∧ ¬Exhausted lims n ∧ MaskEnded L lims mask n) ∨
  (gs = 1 ∧ n < L ∧ ¬Exhausted lims n ∧ ¬MaskEnded L lims mask n ∧ form n y = .full)

/-- What a loop that has come to element n answers. -/
def LoopAnswer {σ : Type} (L : Nat) (lims : List Nat) (mask : Option (BitVec 4096)) (form : Nat → σ → Formed σ) (n : Nat) (x : σ) :
    Except Trap (Nat × Nat × σ) → Prop
  | .ok (k, gs, y) => n ≤ k ∧ k ≤ L ∧ FormedRun L lims mask form n k x y ∧ StopsFor L lims mask form k gs y
  | .error t => ∃ k y, n ≤ k ∧ k < L ∧ ¬Exhausted lims k ∧ FormedRun L lims mask form n k x y ∧ form k y = .trap t

theorem loopFrom_answer {σ : Type} (L : Nat) (lims : List Nat) (mask : Option (BitVec 4096)) (form : Nat → σ → Formed σ)
    (fuel n : Nat) (x : σ) (hf : L < fuel + n) (hn : n ≤ L) :
    LoopAnswer L lims mask form n x
      (loopFrom L lims mask.isSome (lastActive mask (loopLimit L lims)) form fuel n x) := by
  induction fuel generalizing n x with
  | zero => exact absurd hf (by omega)
  | succ fuel ih =>
    unfold loopFrom
    split
    · rename_i h
      exact ⟨Nat.le_refl n, hn, .refl .., .inl ⟨rfl, h.1, by simpa using h.2⟩⟩
    · split
      · rename_i h1 h2
        have hlim : ∃ l, l ∈ lims ∧ n < l := by
          by_contra hno
          push Not at hno
          exact h1 ⟨h2, by simpa using hno⟩
        exact ⟨Nat.le_refl n, hn, .refl .., .inr (.inl ⟨rfl, h2, hlim⟩)⟩
      · split
        · exact ⟨Nat.le_refl n, hn, .refl .., .inr (.inr (.inl ⟨rfl, by omega, any_le_iff.mp ‹_›⟩))⟩
        · rename_i hne hex
          have hlt : n < L := by omega
          have he : ¬Exhausted lims n := fun h => hex (any_le_iff.mpr h)
          split
          · rename_i hme
            exact ⟨Nat.le_refl n, hn, .refl .., .inr (.inr (.inr (.inl ⟨rfl, hlt, he, maskEnded_iff.mp hme⟩)))⟩
          · rename_i hme
            have hm : ¬MaskEnded L lims mask n := fun h => hme (maskEnded_iff.mpr h)
            cases hform : form n x with
            | put y =>
              have hrest := ih (n + 1) y (by omega) hlt
              simp only []
              cases hloop : loopFrom L lims mask.isSome (lastActive mask (loopLimit L lims)) form fuel (n + 1) y with
              | ok r =>
                rw [hloop] at hrest
                obtain ⟨h1, h2, h3, h4⟩ := hrest
                exact ⟨by omega, h2, h3.cons h1 hform he hm, h4⟩
              | error t =>
                rw [hloop] at hrest
                obtain ⟨k, z, h1, h2, h3, h4, h5⟩ := hrest
                exact ⟨k, z, by omega, h2, h3, h4.cons h1 hform he hm, h5⟩
            | full => exact ⟨Nat.le_refl n, hn, .refl .., .inr (.inr (.inr (.inr ⟨rfl, hlt, he, hm, hform⟩)))⟩
            | trap t => exact ⟨n, x, Nat.le_refl n, hlt, he, .refl .., hform⟩

theorem elemLoop_answer {σ : Type} (L : Nat) (lims : List Nat) (mask : Option (BitVec 4096)) (form : Nat → σ → Formed σ) (x : σ) :
    LoopAnswer L lims mask form 0 x (elemLoop L lims mask form x) :=
  loopFrom_answer L lims mask form (L + 1) 0 x (by omega) (Nat.zero_le L)

/-- Settles O25. -/
theorem elementLoop : Obligations.ElementLoop := by
  intro σ L lims mask form x
  have hall := elemLoop_answer L lims mask form x
  refine ⟨fun n gs y h => ?_, fun t h => ?_⟩
  · rw [h] at hall
    obtain ⟨-, hn, ⟨f, h1, h2, h3⟩, hstop⟩ := hall
    exact ⟨hn, ⟨f, ⟨h1, fun k hk => h3 k (Nat.zero_le k) hk⟩, h2⟩, hstop⟩
  · rw [h] at hall
    obtain ⟨k, y, -, hk, he, ⟨f, h1, h2, h3⟩, htrap⟩ := hall
    exact ⟨k, f, hk, he, ⟨h1, fun j hj => h3 j (Nat.zero_le j) hj⟩, by rw [h2]; exact htrap⟩

/-- What holds before the first element and is kept by every element formed holds of what the loop answers. -/
theorem elemLoop_invariant {σ : Type} {L : Nat} {lims : List Nat} {mask : Option (BitVec 4096)} {form : Nat → σ → Formed σ} {x y : σ}
    {n gs : Nat} (P : Nat → σ → Prop) (h : elemLoop L lims mask form x = .ok (n, gs, y)) (h0 : P 0 x)
    (step : ∀ k y z, k < L → P k y → form k y = .put z → P (k + 1) z) : P n y ∧ n ≤ L := by
  have hall := elemLoop_answer L lims mask form x
  rw [h] at hall
  obtain ⟨-, hn, ⟨f, h1, h2, h3⟩, -⟩ := hall
  have key (k : Nat) (hk : k ≤ n) : P k (f k) := by
    induction k with
    | zero => rwa [h1]
    | succ k ih => exact step k (f k) _ (by omega) (ih (by omega)) (h3 k (Nat.zero_le k) (by omega)).1
  exact ⟨h2 ▸ key n (Nat.le_refl n), hn⟩

/-! ### The elements of a plain group (R128) -/

theorem Src.bitsFrom_lt (x : Src) (b n : Nat) : x.bitsFrom b n < 2 ^ n := by
  induction n with
  | zero => exact Nat.one_pos
  | succ n ih =>
    rw [Src.bitsFrom, Nat.pow_succ]
    split <;> omega

theorem Src.raw_lt (x : Src) (n : Nat) : x.raw n < 2 ^ x.size n := by
  unfold Src.raw Src.span
  split
  · exact Nat.mod_lt _ (Nat.two_pow_pos _)
  · exact x.bitsFrom_lt _ _

theorem Src.size_plain {x : Src} {f : Fmt} (h : x.lay = .plain f) (n : Nat) : x.size n = f.width := by
  unfold Src.size
  rw [h]

theorem Src.raw_lt_plain {x : Src} {f : Fmt} (h : x.lay = .plain f) (n : Nat) : x.raw n < 2 ^ f.width := by
  have := x.raw_lt n
  rwa [Src.size_plain h] at this

theorem Src.val_plain {x : Src} {f : Fmt} (h : x.lay = .plain f) (n : Nat) : x.val n = .ok (plainVal f (x.raw n)) := by
  unfold Src.val
  rw [h]

/-- A group of k elements of W bits, of which element j has the bits `e j`. -/
structure Out.Holds (o : Out) (W k : Nat) (e : Nat → Nat) : Prop where
  used : o.used = W * k
  bound : o.bits < 2 ^ (W * k)
  elem : ∀ j, j < k → o.bits / 2 ^ (W * j) % 2 ^ W = e j

theorem Out.Holds.zero (W : Nat) (e : Nat → Nat) : Out.Holds Out.zero W 0 e :=
  ⟨rfl, Nat.two_pow_pos _, fun j hj => absurd hj (Nat.not_lt_zero j)⟩

/-- Appending an element to a group. -/
theorem Out.Holds.push {o : Out} {W k : Nat} {e : Nat → Nat} (h : o.Holds W k e) {x : Nat} (hx : x % 2 ^ W = e k) (fl : FlagSet) :
    (o.push x W fl).Holds W (k + 1) e := by
  obtain ⟨hused, hbound, helem⟩ := h
  have hb : (o.push x W fl).bits = o.bits + 2 ^ (W * k) * (x % 2 ^ W) := by rw [Out.push, hused, Nat.mul_comm]
  refine ⟨by rw [Out.push, hused]; rfl, ?_, fun j hj => ?_⟩
  · have hlt : x % 2 ^ W + 1 ≤ 2 ^ W := Nat.mod_lt _ (Nat.two_pow_pos _)
    rw [hb, Nat.mul_succ, Nat.pow_add]
    calc o.bits + 2 ^ (W * k) * (x % 2 ^ W) < 2 ^ (W * k) + 2 ^ (W * k) * (x % 2 ^ W) := by omega
      _ = 2 ^ (W * k) * (x % 2 ^ W + 1) := by rw [Nat.mul_succ, Nat.add_comm]
      _ ≤ 2 ^ (W * k) * 2 ^ W := Nat.mul_le_mul_left _ hlt
  · rw [hb]
    by_cases hjk : j = k
    · subst hjk
      rw [Nat.add_mul_div_left _ _ (Nat.two_pow_pos _), Nat.div_eq_of_lt hbound, Nat.zero_add, Nat.mod_mod, hx]
    · have hj' : j < k := by omega
      have hsplit : 2 ^ (W * k) = 2 ^ (W * j) * (2 ^ W * 2 ^ (W * (k - j - 1))) := by
        rw [← Nat.pow_add, ← Nat.pow_add]
        congr 1
        obtain ⟨d, rfl⟩ : ∃ d, k = j + 1 + d := ⟨k - j - 1, by omega⟩
        rw [show j + 1 + d - j - 1 = d by omega]
        ring
      rw [hsplit, Nat.mul_assoc, Nat.add_mul_div_left _ _ (Nat.two_pow_pos _), Nat.mul_assoc, Nat.add_mul_mod_self_left]
      exact helem j hj'

/-! ### Plain integer results (R133) -/

/-- What bringing an exact integer into range gives: the nearest value in range under saturation, the value mod 2^W else, and the
flag exactly where it lies out of range. -/
theorem fitInt_spec (signed sat : Bool) (w : Nat) (x : Int) :
    let lo : Int := if signed then -(2 ^ (w - 1)) else 0
    let hi : Int := if signed then 2 ^ (w - 1) - 1 else 2 ^ w - 1
    (fitInt signed sat w x).1 = ((if sat then max lo (min hi x) else x) % 2 ^ w).toNat ∧
      (fitInt signed sat w x).2 = (if x < lo ∨ hi < x then flagIOV else noFlags) := by
  intro lo hi
  have hlohi : lo ≤ hi := by
    simp only [lo, hi]
    have h1 : (1 : Int) ≤ 2 ^ (w - 1) := one_le_pow₀ (by decide)
    have h2 : (1 : Int) ≤ 2 ^ w := one_le_pow₀ (by decide)
    split <;> omega
  have hf : fitInt signed sat w x =
      if lo ≤ x ∧ x ≤ hi then ((x % 2 ^ w).toNat, noFlags)
      else if sat then (((if x < lo then lo else hi) % 2 ^ w).toNat, flagIOV)
      else ((x % 2 ^ w).toNat, flagIOV) := by
    unfold fitInt
    simp only [lo, hi, Nat.cast_pow, Nat.cast_ofNat]
  rw [hf]
  clear_value lo hi
  by_cases hin : lo ≤ x ∧ x ≤ hi
  · have hout : ¬(x < lo ∨ hi < x) := by omega
    rw [if_pos hin, if_neg hout]
    refine ⟨?_, rfl⟩
    rw [min_eq_right hin.2, max_eq_right hin.1, ite_self]
  · have hout : x < lo ∨ hi < x := by omega
    rw [if_neg hin, if_pos hout]
    cases sat
    · exact ⟨rfl, rfl⟩
    · refine ⟨?_, rfl⟩
      simp only [if_true]
      by_cases hlo : x < lo
      · rw [if_pos hlo, min_eq_right (by omega), max_eq_left (by omega)]
      · rw [if_neg hlo, min_eq_left (by omega), max_eq_right hlohi]

/-- No flag of a float is raised. -/
def FlagSet.NoFloat (f : FlagSet) : Prop := f.nv = false ∧ f.dz = false ∧ f.ovf = false ∧ f.uf = false ∧ f.nx = false

theorem State.layout_plain (s : State) {t : VType} {f : Fmt} (h : t.fam = .plain f) : s.layout t = .plain f := by
  unfold State.layout State.coding
  rw [h]

theorem valsAt_plain_pair {x y : Src} {f : Fmt} (hx : x.lay = .plain f) (hy : y.lay = .plain f) (k : Nat) :
    valsAt k [x, y] = .ok [plainVal f (x.raw k), plainVal f (y.raw k)] := by
  simp only [valsAt, Src.val_plain hx, Src.val_plain hy]

theorem plainVal_int {f : Fmt} (h : f.isInt = true) (x : Nat) : plainVal f x = .int (intOf f.isSigned f.width x) := if_pos h

/-- One element of a plain integer result of two sources: what is pushed for it. -/
theorem State.elemOp_plainInt (s : State) {t : VType} {fm : Fmt} {mask : Option (BitVec 4096)} {x y : Src} {g : Int → Int → Int}
    {h : Machine.Num → Machine.Num → Exact × FlagSet} {k : Nat} {o z : Out} (hfam : t.fam = .plain fm) (hint : fm.isInt = true)
    (hx : x.lay = .plain fm) (hy : y.lay = .plain fm) (hz : s.elemOp t mask [x, y] (fun _ => bin g h) k o = .put z) :
    z = if activeAt mask k then
        o.push (fitInt fm.isSigned t.sat fm.width
            (g (intOf fm.isSigned fm.width (x.raw k)) (intOf fm.isSigned fm.width (y.raw k)))).1 fm.width
          (fitInt fm.isSigned t.sat fm.width
            (g (intOf fm.isSigned fm.width (x.raw k)) (intOf fm.isSigned fm.width (y.raw k)))).2
      else o.push 0 fm.width noFlags := by
  unfold State.elemOp at hz
  simp only [s.layout_plain hfam, valsAt_plain_pair hx hy, plainVal_int hint, bin, encodeResult, hint, if_true, zeroBits, Out.fit] at hz
  split at hz
  · cases hz
  · cases ha : activeAt mask k <;> rw [ha] at hz <;> simp only [Bool.not_true, Bool.not_false, if_true, if_false, Bool.false_eq_true] at hz ⊢ <;>
      exact (Formed.put.inj hz).symm

theorem FlagSet.join_noFlags (f : FlagSet) : f.join noFlags = f := by
  cases f
  simp [FlagSet.join, noFlags]

/-- Settles O27: the loop keeps, of the elements formed, their bits and the flag of those out of range. -/
theorem integerElements : Obligations.IntegerElements := by
  intro s t fm m x y g h n gs o hfam hint hx hy hrun W lo hi exact
  let e (k : Nat) : Nat :=
    if activeAt (s.maskOf m) k then ((if t.sat then max lo (min hi (exact k)) else exact k) % 2 ^ W).toNat else 0
  let out (k : Nat) : Prop := activeAt (s.maskOf m) k = true ∧ (exact k < lo ∨ hi < exact k)
  let P (k : Nat) (o : Out) : Prop := o.Holds W k e ∧ (o.flags.iov = true ↔ ∃ j, j < k ∧ out j) ∧ o.flags.NoFloat
  have hinv : P n o ∧ _ := elemLoop_invariant P hrun
    ⟨Out.Holds.zero W e, by simp [Out.zero, noFlags], rfl, rfl, rfl, rfl, rfl⟩ (fun k o z _ ⟨h1, h2, h3⟩ hz => by
      rw [s.elemOp_plainInt hfam hint hx hy hz]
      have hbits : (fitInt fm.isSigned t.sat fm.width (exact k)).1 =
          ((if t.sat then max lo (min hi (exact k)) else exact k) % 2 ^ W).toNat :=
        (fitInt_spec fm.isSigned t.sat fm.width (exact k)).1
      have hflags : (fitInt fm.isSigned t.sat fm.width (exact k)).2 =
          if exact k < lo ∨ hi < exact k then flagIOV else noFlags := (fitInt_spec fm.isSigned t.sat fm.width (exact k)).2
      have hsplit : (∃ j, j < k + 1 ∧ out j) ↔ (∃ j, j < k ∧ out j) ∨ out k := by
        refine ⟨fun ⟨j, hj, ho⟩ => ?_, fun h => ?_⟩
        · rcases Nat.lt_succ_iff_lt_or_eq.mp hj with hj | rfl
          · exact .inl ⟨j, hj, ho⟩
          · exact .inr ho
        · rcases h with ⟨j, hj, ho⟩ | ho
          · exact ⟨j, by omega, ho⟩
          · exact ⟨k, by omega, ho⟩
      by_cases ha : activeAt (s.maskOf m) k = true
      · rw [if_pos ha]
        have hek : (fitInt fm.isSigned t.sat fm.width (exact k)).1 % 2 ^ W = e k := by
          rw [hbits]
          simp only [e, if_pos ha]
          refine Nat.mod_eq_of_lt ?_
          have hpos : (0 : Int) < 2 ^ W := by positivity
          have h1 := Int.emod_nonneg (if t.sat then max lo (min hi (exact k)) else exact k) hpos.ne'
          have h2 := Int.emod_lt_of_pos (if t.sat then max lo (min hi (exact k)) else exact k) hpos
          zify
          rw [Int.toNat_of_nonneg h1]
          exact h2
        refine ⟨h1.push hek _, ?_, ?_⟩
        · rw [hsplit, ← h2]
          simp only [Out.push, FlagSet.join, Bool.or_eq_true]
          rw [hflags]
          have hout : out k ↔ (exact k < lo ∨ hi < exact k) := ⟨fun h => h.2, fun h => ⟨ha, h⟩⟩
          rw [hout]
          refine or_congr Iff.rfl ?_
          by_cases hr : exact k < lo ∨ hi < exact k
          · rw [if_pos hr]
            exact iff_of_true rfl hr
          · rw [if_neg hr]
            exact iff_of_false (by decide) hr
        · obtain ⟨f1, f2, f3, f4, f5⟩ := h3
          rw [hflags]
          split <;> exact ⟨by simp [Out.push, FlagSet.join, f1, flagIOV, noFlags], by simp [Out.push, FlagSet.join, f2, flagIOV, noFlags],
            by simp [Out.push, FlagSet.join, f3, flagIOV, noFlags], by simp [Out.push, FlagSet.join, f4, flagIOV, noFlags],
            by simp [Out.push, FlagSet.join, f5, flagIOV, noFlags]⟩
      · rw [if_neg ha]
        refine ⟨h1.push (by simp only [e, if_neg ha, Nat.zero_mod]) _, ?_, ?_⟩
        · rw [hsplit, ← h2]
          have hout : ¬out k := fun h => ha h.1
          simp only [Out.push, FlagSet.join_noFlags, hout, or_false]
        · simpa only [Out.push, FlagSet.join_noFlags] using h3)
  obtain ⟨⟨hh, hiov, hfl⟩, -⟩ := hinv
  exact ⟨hh.used, hh.elem, by simpa only [out, and_assoc] using hiov, hfl⟩

end Sys2Proof.Machine

/-!
What a vector word writes at its stop: the register group, the grant file and the sticky flags (R106, R115, R49).
-/

namespace Sys2Proof.Machine

set_option Elab.async false

/-! ### Vector registers -/

/-- Vector register v, as the group operations read it. -/
def Seq.vreg (m : Seq) (v : Nat) : VReg := m.vregs.toList.getD v VReg.reset

theorem Seq.vreg_fin (m : Seq) (v : Reg) : m.vreg v.val = m.vregs.get v := by
  have h : v.val < m.vregs.toList.length := by simp
  rw [Seq.vreg, List.getD_eq_getElem _ _ h]
  simp [Vector.get]

/-- A register after a register has been replaced. -/
theorem Seq.vreg_setV (m : Seq) {v : Nat} (hv : v < 32) (x : VReg) (w : Nat) :
    (m.setV v x).vreg w = if w = v then x else m.vreg w := by
  unfold Seq.setV Seq.vreg
  rw [dif_pos hv]
  simp only [Vector.toList_set, List.getD_eq_getElem?_getD, List.getElem?_set]
  by_cases hw : w = v
  · subst hw
    simp [hv]
  · rw [if_neg (Ne.symm hw), if_neg hw]

theorem Seq.setV_eq (m : Seq) (v : Nat) (x : VReg) : m.setV v x = { m with vregs := (m.setV v x).vregs } := by
  unfold Seq.setV
  split <;> rfl

/-! ### Groups -/

/-- Writing a group changes vector registers alone. -/
theorem writeGroup_eq (m : Seq) (gang d bits count len g : Nat) :
    writeGroup m gang d bits count len g = { m with vregs := (writeGroup m gang d bits count len g).vregs } := by
  induction g with
  | zero => rfl
  | succ g ih =>
    simp only [writeGroup]
    rw [Seq.setV_eq, ih]

/-- The part of a group's bits that its register j holds. -/
def groupPart (gang bits j : Nat) : BitVec 32768 := BitVec.ofNat 32768 (bits / 2 ^ (vregBits gang * j) % 2 ^ vregBits gang)

/-- A register after a group has been written: register j of the group holds its part, the lowest one the fill count and length. -/
theorem vreg_writeGroup (m : Seq) (gang bits count len : Nat) {d g : Nat} (hg : d + g ≤ 32) (w : Nat) :
    (writeGroup m gang d bits count len g).vreg w =
      if d ≤ w ∧ w < d + g then
        ⟨groupPart gang bits (w - d), if w = d then count else (m.vreg w).count, if w = d then len else (m.vreg w).len, []⟩
      else m.vreg w := by
  induction g with
  | zero => exact (if_neg (by omega)).symm
  | succ g ih =>
    have ih := ih (by omega)
    simp only [writeGroup]
    rw [Seq.vreg_setV _ (by omega)]
    by_cases hw : w = d + g
    · subst hw
      have hold : (writeGroup m gang d bits count len g).vreg (d + g) = m.vreg (d + g) := ih.trans (if_neg (by omega))
      rw [if_pos rfl, if_pos (show d ≤ d + g ∧ d + g < d + (g + 1) by omega), Nat.add_sub_cancel_left, groupPart]
      unfold Seq.vreg at hold ⊢
      rw [hold]
      simp only [show d + g = d ↔ g = 0 by omega]
    · rw [if_neg hw, ih]
      by_cases hin : d ≤ w ∧ w < d + g
      · rw [if_pos hin, if_pos (show d ≤ w ∧ w < d + (g + 1) by omega)]
      · rw [if_neg hin, if_neg (by omega)]

theorem groupPart_toNat {gang : Nat} (hgang : gang ≤ 4) (bits j : Nat) :
    (groupPart gang bits j).toNat = bits / 2 ^ (vregBits gang * j) % 2 ^ vregBits gang := by
  unfold groupPart
  rw [BitVec.toNat_ofNat]
  refine Nat.mod_eq_of_lt (lt_of_lt_of_le (Nat.mod_lt _ (Nat.two_pow_pos _)) (Nat.pow_le_pow_right (by decide) ?_))
  unfold vregBits
  omega

/-- A group whose registers hold their parts holds the bits. -/
theorem groupBits_of_parts {m : Seq} {gang d g bits : Nat}
    (h : ∀ j, j < g → (m.vreg (d + j)).bits.toNat % 2 ^ vregBits gang = bits / 2 ^ (vregBits gang * j) % 2 ^ vregBits gang) :
    groupBits m gang d g = bits % 2 ^ (vregBits gang * g) := by
  induction g with
  | zero => rw [groupBits, Nat.mul_zero, Nat.pow_zero, Nat.mod_one]
  | succ g ih =>
    have hg := h g (Nat.lt_succ_self g)
    unfold Seq.vreg at hg
    rw [groupBits, ih (fun j hj => h j (by omega)), hg, Nat.mul_succ, Nat.pow_add, Nat.mod_mul,
      Nat.mul_comm (bits / 2 ^ (vregBits gang * g) % 2 ^ vregBits gang)]

/-- A group no register of which has a marked byte has none. -/
theorem groupMarks_of_parts {m : Seq} {gang d g : Nat} (h : ∀ j, j < g → (m.vreg (d + j)).marks = []) : groupMarks m gang d g = [] := by
  induction g with
  | zero => rfl
  | succ g ih =>
    have hg := h g (Nat.lt_succ_self g)
    unfold Seq.vreg at hg
    rw [groupMarks, ih (fun j hj => h j (by omega)), hg]
    rfl

/-! ### Flags -/

theorem FlagSet.word_getLsbD (fl : FlagSet) (k : Nat) :
    fl.word.getLsbD k = (k == 1 && fl.nv || k == 2 && fl.dz || k == 3 && fl.ovf || k == 4 && fl.uf || k == 5 && fl.nx || k == 6 && fl.iov) := by
  obtain ⟨b1, b2, b3, b4, b5, b6⟩ := fl
  have hbig : k < 7 ∨ 7 ≤ k := by omega
  rcases hbig with hk | hk
  · have hall : ∀ k, k < 7 → ∀ b1 b2 b3 b4 b5 b6 : Bool, (FlagSet.mk b1 b2 b3 b4 b5 b6).word.getLsbD k =
        (k == 1 && b1 || k == 2 && b2 || k == 3 && b3 || k == 4 && b4 || k == 5 && b5 || k == 6 && b6) := by decide
    exact hall k hk b1 b2 b3 b4 b5 b6
  · have hlt : ((if b1 then 2 else 0) + (if b2 then 4 else 0) + (if b3 then 8 else 0) + (if b4 then 16 else 0) +
        (if b5 then 32 else 0) + (if b6 then 64 else 0)) < 2 ^ 7 := by
      revert b1 b2 b3 b4 b5 b6
      decide
    simp only [FlagSet.word, BitVec.getLsbD_ofNat]
    rw [Nat.testBit_lt_two_pow (lt_of_lt_of_le hlt (Nat.pow_le_pow_right (by decide) hk))]
    simp (disch := omega) [show k ≠ 1 by omega, show k ≠ 2 by omega, show k ≠ 3 by omega, show k ≠ 4 by omega, show k ≠ 5 by omega,
      show k ≠ 6 by omega]

theorem raiseFlags_getLsbD (st : Word) (fl : FlagSet) (k : Nat) : (raiseFlags st fl).getLsbD k = (st.getLsbD k ||
    (k == 1 && fl.nv || k == 2 && fl.dz || k == 3 && fl.ovf || k == 4 && fl.uf || k == 5 && fl.nx || k == 6 && fl.iov)) := by
  rw [raiseFlags, BitVec.getLsbD_or, fl.word_getLsbD]

theorem State.me_raise (s : State) (fl : FlagSet) :
    (s.raise fl).me = { s.me with ctl := { s.me.ctl with status := raiseFlags s.me.ctl.status fl } } := State.me_setCtl _ _

/-- The grant file that a word reports. -/
def Report.grant (r : Report) (gl : Word) : GrantFile :=
  ⟨gl, BitVec.ofNat 64 r.gk, BitVec.ofNat 64 r.gp, BitVec.ofNat 64 r.ga, BitVec.ofNat 64 r.gb, BitVec.ofNat 64 r.gd, BitVec.ofNat 3 r.gs⟩

theorem State.me_report (s : State) (r : Report) : (s.report r).me = { s.me with grant := r.grant s.me.grant.gl } :=
  State.me_setGrant _ _

/-- The sequencer after a word has written a group. -/
theorem State.me_finish (s : State) (g d : Nat) (o : Out) (n : Nat) (r : Report) :
    (s.finish g d o n r).me =
      { s.me with
        vregs := (writeGroup s.me s.gang d o.bits n o.used g).vregs
        grant := r.grant s.me.grant.gl
        ctl := { s.me.ctl with status := raiseFlags s.me.ctl.status o.flags } } := by
  unfold State.finish
  rw [State.me_report, State.me_raise, State.me_setMe, writeGroup_eq]

/-- What stands in the group, the grant file and STATUS after a word has written a group (R106, R115, R49). -/
theorem State.finish_group (s : State) {g d : Nat} (n : Nat) (o : Out) (r : Report) (hg : 0 < g) (hd : d + g ≤ 32) (hgang : s.gang ≤ 4) :
    let x := (s.finish g d o n r).me
    groupBits x s.gang d g = o.bits % 2 ^ (vregBits s.gang * g) ∧ fillCount x d = n ∧ fillLen x d = o.used ∧
      groupMarks x s.gang d g = [] ∧ (∀ v : Reg, v.val < d ∨ d + g ≤ v.val → x.vregs.get v = s.me.vregs.get v) := by
  intro x
  have hreg (w : Nat) : x.vreg w = (writeGroup s.me s.gang d o.bits n o.used g).vreg w := by
    simp only [x, State.me_finish, Seq.vreg]
  have hin (j : Nat) (hj : j < g) : x.vreg (d + j) = ⟨groupPart s.gang o.bits j, if d + j = d then n else (s.me.vreg (d + j)).count,
      if d + j = d then o.used else (s.me.vreg (d + j)).len, []⟩ := by
    rw [hreg, vreg_writeGroup _ _ _ _ _ hd, if_pos (by omega), show d + j - d = j by omega]
  have hlow := hin 0 hg
  rw [Nat.add_zero, if_pos rfl, if_pos rfl] at hlow
  refine ⟨groupBits_of_parts fun j hj => ?_, congrArg VReg.count hlow, congrArg VReg.len hlow,
    groupMarks_of_parts fun j hj => congrArg VReg.marks (hin j hj), fun v hv => ?_⟩
  · rw [hin j hj]
    simp only [groupPart_toNat hgang, Nat.mod_mod]
  · rw [← Seq.vreg_fin, ← Seq.vreg_fin, hreg, vreg_writeGroup _ _ _ _ _ hd, if_neg (by omega)]

end Sys2Proof.Machine

/-!
Elementwise words and compares (O26, O28): a word whose sources can be read forms its elements without a trap.
-/

namespace Sys2Proof.Machine

set_option Elab.async false

/-! ### One element of each source -/

theorem Src.check_clean {x : Src} {n : Nat} (h : x.marked n = false) : x.check n = .ok () := by
  rw [Src.check, h]
  rfl

theorem checksAt_clean {n : Nat} {srcs : List Src} (h : ∀ x, x ∈ srcs → x.marked n = false) : checksAt n srcs = .ok () := by
  induction srcs with
  | nil => rfl
  | cons x t ih => rw [checksAt, Src.check_clean (h x (List.mem_cons_self ..)), ih fun y hy => h y (List.mem_cons_of_mem _ hy)]

theorem valsAt_decodes {n : Nat} {srcs : List Src} (h : ∀ x, x ∈ srcs → ∃ v, x.val n = .ok v) : ∃ vs, valsAt n srcs = .ok vs := by
  induction srcs with
  | nil => exact ⟨[], rfl⟩
  | cons x t ih =>
    obtain ⟨v, hv⟩ := h x (List.mem_cons_self ..)
    obtain ⟨vs, hvs⟩ := ih fun y hy => h y (List.mem_cons_of_mem _ hy)
    exact ⟨v :: vs, by rw [valsAt, hv, hvs]⟩

/-- The elements of readable sources below the loop's limit. -/
theorem State.Readable.element {s : State} {t : VType} {m : Mask3} {srcs : List Src} (h : s.Readable t m srcs) {n : Nat}
    (hn : n < loopLimit (s.grantLen t) (srcs.map (·.count))) :
    checksAt n srcs = .ok () ∧ (activeAt (s.maskOf m) n = true → ∃ vs, valsAt n srcs = .ok vs) :=
  ⟨checksAt_clean fun x hx => (h x hx).1 n hn, fun ha => valsAt_decodes fun x hx => (h x hx).2 n hn ha⟩

/-! ### A group being formed -/

/-- The bits of a group lie below its length. -/
def Out.Fits (o : Out) : Prop := o.bits < 2 ^ o.used

theorem Out.Fits.zero : Out.Fits Out.zero := Nat.one_pos

theorem Out.Fits.push {o : Out} (h : o.Fits) (x len : Nat) (fl : FlagSet) : (o.push x len fl).Fits := by
  unfold Out.Fits at h ⊢
  have hx : x % 2 ^ len + 1 ≤ 2 ^ len := Nat.mod_lt _ (Nat.two_pow_pos _)
  simp only [Out.push]
  calc o.bits + x % 2 ^ len * 2 ^ o.used < 2 ^ o.used + x % 2 ^ len * 2 ^ o.used := by omega
    _ = (x % 2 ^ len + 1) * 2 ^ o.used := by rw [Nat.add_mul, Nat.one_mul, Nat.add_comm]
    _ ≤ 2 ^ len * 2 ^ o.used := Nat.mul_le_mul_right _ hx
    _ = 2 ^ (o.used + len) := by rw [← Nat.pow_add, Nat.add_comm]

/-- An element is appended or finds no room. -/
theorem Out.fit_cases (o : Out) (lay : Layout) (budget x len : Nat) (fl : FlagSet) :
    o.fit lay budget x len fl = .put (o.push x len fl) ∨ o.fit lay budget x len fl = .full := by
  unfold Out.fit
  cases lay with
  | plain f => exact .inl rfl
  | code k =>
    simp only []
    split
    · exact .inr rfl
    · exact .inl rfl

/-- An element of a layout is appended to a group that stays one, or finds no room. -/
theorem Out.Fits.fit {o : Out} (h : o.Fits) (lay : Layout) (budget x len : Nat) (fl : FlagSet) :
    (∃ z, o.fit lay budget x len fl = .put z ∧ z.Fits) ∨ o.fit lay budget x len fl = .full :=
  (o.fit_cases lay budget x len fl).imp (fun hf => ⟨_, hf, h.push x len fl⟩) id

/-! ### Elementwise words (R128) -/

theorem State.elemOp_forms (s : State) (t : VType) {mask : Option (BitVec 4096)} {srcs : List Src} (op : Nat → List Val → Result) {n : Nat}
    {o : Out} (hc : checksAt n srcs = .ok ()) (hv : activeAt mask n = true → ∃ vs, valsAt n srcs = .ok vs) (ho : o.Fits) :
    (∃ z, s.elemOp t mask srcs op n o = .put z ∧ z.Fits) ∨ s.elemOp t mask srcs op n o = .full := by
  unfold State.elemOp
  simp only [hc]
  cases ha : activeAt mask n with
  | false => exact ho.fit _ _ _ _ _
  | true =>
    obtain ⟨vs, hvs⟩ := hv ha
    simp only [hvs]
    exact ho.fit _ _ _ _ _

/-- With readable sources the loop of an elementwise word ends without a trap. -/
theorem State.mapRun_readable {s : State} {t : VType} {m : Mask3} {srcs : List Src} (h : s.Readable t m srcs)
    (op : Nat → List Val → Result) : ∃ n gs o, s.mapRun t m srcs op = .ok (n, gs, o) ∧ o.bits < 2 ^ o.used :=
  elemLoop_ok (fun _ (o : Out) => o.Fits) Out.Fits.zero fun _ _ hn ho =>
    s.elemOp_forms t op (h.element hn).1 (h.element hn).2 ho

/-- An elementwise word completes. -/
theorem mapVec_completes {s : State} {t : VType} {i : Instr} {c : Machine.Class} {d : Reg} {regs : List Reg} {m : Mask3}
    {op : VType → State → Nat → List Val → Result} (hexec : exec i s = run i (mapVec c d regs m op) s) (hr : s.VecReady i c m t)
    (hs : s.due.Readable t m (regs.map (fun r => s.due.srcOf (s.due.layout t) t.g r.val))) :
    ∃ n gs o, s.due.mapRun t m (regs.map (fun r => s.due.srcOf (s.due.layout t) t.g r.val)) (op t s.due) = .ok (n, gs, o) ∧
      o.bits < 2 ^ o.used ∧
      exec i s = .next ((s.due.finish t.g d.val o n ⟨n, n, spent (regs.map (fun r => s.due.srcOf (s.due.layout t) t.g r.val)) 0 n,
        spent (regs.map (fun r => s.due.srcOf (s.due.layout t) t.g r.val)) 1 n, o.used, gs⟩).retire i .seq) := by
  obtain ⟨n, gs, o, hrun, ho⟩ := State.mapRun_readable hs (op t s.due)
  refine ⟨n, gs, o, hrun, ho, hexec.trans (run_done hr.ready ?_)⟩
  unfold mapVec
  rw [classed_ready hr]
  simp only [hrun]

section
variable (s : State) (f : V3) (g : V2)
theorem exec_vadd : exec (.vadd f) s = run (.vadd f) (mapVec .arith f.d [f.a, f.b] f.m (fun t _ _ => bin (· + ·) (addNum t.rm))) s := rfl
theorem exec_vsub : exec (.vsub f) s = run (.vsub f) (mapVec .arith f.d [f.a, f.b] f.m (fun t _ _ => bin (· - ·) (subNum t.rm))) s := rfl
theorem exec_vmul : exec (.vmul f) s = run (.vmul f) (mapVec .arith f.d [f.a, f.b] f.m (fun _ _ _ => bin (· * ·) mulNum)) s := rfl
theorem exec_vdiv :
    exec (.vdiv f) s = run (.vdiv f) (mapVec .arith f.d [f.a, f.b] f.m (fun t s _ => bin (divInt (s.layout t)) divNum)) s := rfl
theorem exec_vmin : exec (.vmin f) s = run (.vmin f) (mapVec .arith f.d [f.a, f.b] f.m (fun _ _ _ => bin min minNum)) s := rfl
theorem exec_vmax : exec (.vmax f) s = run (.vmax f) (mapVec .arith f.d [f.a, f.b] f.m (fun _ _ _ => bin max maxNum)) s := rfl
theorem exec_vabsd : exec (.vabsd f) s =
    run (.vabsd f) (mapVec .arith f.d [f.a, f.b] f.m (fun t _ _ => bin (fun x y => (x - y).natAbs) (absdNum t.rm))) s := rfl
theorem exec_vand : exec (.vand f) s =
    run (.vand f) (mapVec .integer f.d [f.a, f.b] f.m (fun t s _ => bin (onBits (s.layout t) (· &&& ·)) noNum)) s := rfl
theorem exec_vor : exec (.vor f) s =
    run (.vor f) (mapVec .integer f.d [f.a, f.b] f.m (fun t s _ => bin (onBits (s.layout t) (· ||| ·)) noNum)) s := rfl
theorem exec_vxor : exec (.vxor f) s =
    run (.vxor f) (mapVec .integer f.d [f.a, f.b] f.m (fun t s _ => bin (onBits (s.layout t) (· ^^^ ·)) noNum)) s := rfl
theorem exec_vsll : exec (.vsll f) s = run (.vsll f) (mapVec .integer f.d [f.a, f.b] f.m
    (fun t s _ => bin (onBits (s.layout t) (fun x y => x * 2 ^ (y % (intShape (s.layout t)).1))) noNum)) s := rfl
theorem exec_vsrl : exec (.vsrl f) s = run (.vsrl f) (mapVec .integer f.d [f.a, f.b] f.m
    (fun t s _ => bin (onBits (s.layout t) (fun x y => x / 2 ^ (y % (intShape (s.layout t)).1))) noNum)) s := rfl
theorem exec_vsra : exec (.vsra f) s = run (.vsra f) (mapVec .integer f.d [f.a, f.b] f.m
    (fun t s _ => bin (onBits (s.layout t) (fun x y => sraBits (intShape (s.layout t)).1 x (y % (intShape (s.layout t)).1))) noNum)) s := rfl
theorem exec_vadds : exec (.vadds f) s = run (.vadds f) (mapVec .arith f.d [f.a] f.m
    (fun t s _ vs => bin (· + ·) (addNum t.rm) (vs ++ [scalarVal t (s.sreg f.b)]))) s := rfl
theorem exec_vmuls : exec (.vmuls f) s = run (.vmuls f) (mapVec .arith f.d [f.a] f.m
    (fun t s _ vs => bin (· * ·) mulNum (vs ++ [scalarVal t (s.sreg f.b)]))) s := rfl
theorem exec_vfma : exec (.vfma f) s = run (.vfma f) (mapVec .arith f.d [f.a, f.b, f.d] f.m (fun t _ _ => fused t.rm false false)) s := rfl
theorem exec_vfms : exec (.vfms f) s = run (.vfms f) (mapVec .arith f.d [f.a, f.b, f.d] f.m (fun t _ _ => fused t.rm false true)) s := rfl
theorem exec_vfnma : exec (.vfnma f) s = run (.vfnma f) (mapVec .arith f.d [f.a, f.b, f.d] f.m (fun t _ _ => fused t.rm true false)) s := rfl
theorem exec_vneg :
    exec (.vneg g) s = run (.vneg g) (mapVec .arith g.d [g.a] g.m (fun _ _ _ => un (fun x => -x) (signOp (!·)))) s := rfl
theorem exec_vabs :
    exec (.vabs g) s = run (.vabs g) (mapVec .arith g.d [g.a] g.m (fun _ _ _ => un (fun x => x.natAbs) (signOp (fun _ => false)))) s := rfl
theorem exec_vsqrt : exec (.vsqrt g) s = run (.vsqrt g) (mapVec .float g.d [g.a] g.m (fun _ _ _ => un id sqrtNum)) s := rfl
theorem exec_vid (f : V1) : exec (.vid f) s = run (.vid f) (mapVec .arith f.d [] f.m
    (fun _ s n _ => .int (s.me.ctl.sbase + BitVec.ofNat 64 n).toNat)) s := rfl
theorem exec_vbcast (f : VB) : exec (.vbcast f) s = run (.vbcast f) (classed .movable f.m (fun t s =>
    match elemLoop (s.grantLen t) [] none (s.elemOp t (s.maskOf f.m) [] (fun _ _ => roundVal (scalarVal t (s.sreg f.b)))) Out.zero with
    | .error e => .trap e s
    | .ok (n, gs, o) => .done .seq (s.finish t.g f.d.val o n ⟨n, n, 0, 0, o.used, gs⟩))) s := rfl
end

/-- vbcast has no source that could trap. -/
theorem vbcast_completes {s : State} {t : VType} {f : VB} (hr : s.VecReady (.vbcast f) .movable f.m t) :
    ∃ n gs o, elemLoop (s.due.grantLen t) [] none
        (s.due.elemOp t (s.due.maskOf f.m) [] (fun _ _ => roundVal (scalarVal t (s.sreg f.b)))) Out.zero = .ok (n, gs, o) ∧
      o.bits < 2 ^ o.used ∧
      exec (.vbcast f) s = .next ((s.due.finish t.g f.d.val o n ⟨n, n, 0, 0, o.used, gs⟩).retire (.vbcast f) .seq) := by
  obtain ⟨n, gs, o, hrun, ho⟩ := elemLoop_ok (L := s.due.grantLen t) (lims := []) (mask := none)
    (form := s.due.elemOp t (s.due.maskOf f.m) [] (fun _ _ => roundVal (scalarVal t (s.sreg f.b)))) (fun _ o => o.Fits) Out.Fits.zero
    fun n o _ ho => s.due.elemOp_forms t _ rfl (fun _ => ⟨[], rfl⟩) ho
  refine ⟨n, gs, o, hrun, ho, (exec_vbcast s f).trans (run_done hr.ready ?_)⟩
  rw [classed_ready hr]
  have hrun' : elemLoop (s.due.grantLen t) [] none
      (s.due.elemOp t (s.due.maskOf f.m) [] (fun _ _ => roundVal (scalarVal t (s.due.sreg f.b)))) Out.zero = .ok (n, gs, o) := hrun
  simp only [hrun']

/-- Settles O26. -/
theorem elementwiseWords : Obligations.ElementwiseWords := by
  refine ⟨fun s t f => ?_, fun s t f => ?_, fun s t f => vbcast_completes, fun s t f => (mapVec_completes (exec_vid s f) :), ?_, ?_⟩
  · exact ⟨(mapVec_completes (exec_vadd s f) :), (mapVec_completes (exec_vsub s f) :), (mapVec_completes (exec_vmul s f) :),
      (mapVec_completes (exec_vdiv s f) :), (mapVec_completes (exec_vmin s f) :), (mapVec_completes (exec_vmax s f) :),
      (mapVec_completes (exec_vabsd s f) :), (mapVec_completes (exec_vand s f) :), (mapVec_completes (exec_vor s f) :),
      (mapVec_completes (exec_vxor s f) :), (mapVec_completes (exec_vsll s f) :), (mapVec_completes (exec_vsrl s f) :),
      (mapVec_completes (exec_vsra s f) :), (mapVec_completes (exec_vadds s f) :), (mapVec_completes (exec_vmuls s f) :),
      (mapVec_completes (exec_vfma s f) :), (mapVec_completes (exec_vfms s f) :), (mapVec_completes (exec_vfnma s f) :)⟩
  · exact ⟨(mapVec_completes (exec_vneg s f) :), (mapVec_completes (exec_vabs s f) :), (mapVec_completes (exec_vsqrt s f) :)⟩
  · intro s g d n o r hg hd hgang m x
    obtain ⟨h1, h2, h3, h4, h5⟩ := s.finish_group n o r hg hd hgang
    have hx : x = _ := s.me_finish g d o n r
    refine ⟨h1, h2, h3, h4, h5, congrArg Seq.grant hx, ?_, ?_, s.me_raise o.flags⟩
    · rw [hx]
    · rw [s.me_report r, hx]
  · exact fun st fl k _ => raiseFlags_getLsbD st fl k

/-! ### Compares (R140) -/

/-- What a compare has formed after n elements: the bit of every active element below n for which the condition holds. -/
def Cond.Formed (c : Machine.Cond) (mask : Option (BitVec 4096)) (srcs : List Src) (n : Nat) (o : BitVec 4096 × FlagSet) : Prop :=
  ∀ k, k < 4096 → (o.1.getLsbD k = true ↔ k < n ∧ activeAt mask k = true ∧ ∃ vs, valsAt k srcs = .ok vs ∧ (c.eval vs).1 = true)

theorem Cond.Formed.zero (c : Machine.Cond) (mask : Option (BitVec 4096)) (srcs : List Src) (fl : FlagSet) :
    c.Formed mask srcs 0 (0, fl) := fun k _ => by simp

theorem getLsbD_or_one_shift (b : BitVec 4096) {n k : Nat} (hk : k < 4096) :
    (b ||| ((1 : BitVec 4096) <<< n)).getLsbD k = true ↔ b.getLsbD k = true ∨ k = n := by
  rw [BitVec.getLsbD_or, BitVec.getLsbD_shiftLeft]
  by_cases hkn : k = n
  · subst hkn
    simp [hk]
  · by_cases hlt : k < n
    · simp [hlt, hkn]
    · have hone : (1 : BitVec 4096).getLsbD (k - n) = false := by
        rw [show (1 : BitVec 4096) = 1#4096 from rfl, BitVec.getLsbD_one]
        simp only [show k - n ≠ 0 by omega, decide_false, Bool.and_false]
      rw [hone]
      simp only [Bool.and_false, Bool.or_false, hkn, or_false]

/-- An element of a compare of readable sources is formed. -/
theorem Cond.elem_forms (c : Machine.Cond) {mask : Option (BitVec 4096)} {srcs : List Src} {n : Nat} {o : BitVec 4096 × FlagSet}
    (hc : checksAt n srcs = .ok ()) (hv : activeAt mask n = true → ∃ vs, valsAt n srcs = .ok vs) (ho : c.Formed mask srcs n o) :
    ∃ z, c.elem mask srcs n o = .put z ∧ c.Formed mask srcs (n + 1) z := by
  unfold Cond.elem
  simp only [hc]
  cases ha : activeAt mask n with
  | false =>
    refine ⟨o, rfl, fun k hk => (ho k hk).trans ?_⟩
    refine ⟨fun ⟨h1, h2⟩ => ⟨by omega, h2⟩, fun ⟨h1, h2, h3⟩ => ⟨?_, h2, h3⟩⟩
    by_contra hkn
    rw [show k = n by omega, ha] at h2
    cases h2
  | true =>
    obtain ⟨vs, hvs⟩ := hv ha
    simp only [hvs]
    refine ⟨_, rfl, fun k hk => ?_⟩
    have hbit : (if (c.eval vs).1 then o.1 ||| ((1 : BitVec 4096) <<< n) else o.1).getLsbD k = true ↔
        o.1.getLsbD k = true ∨ (k = n ∧ (c.eval vs).1 = true) := by
      split
      · rename_i h
        rw [getLsbD_or_one_shift _ hk, h]
        simp
      · rename_i h
        simp [h]
    refine hbit.trans ((or_congr_left (ho k hk)).trans ?_)
    constructor
    · rintro (⟨h1, h2⟩ | ⟨rfl, h2⟩)
      · exact ⟨by omega, h2⟩
      · exact ⟨by omega, ha, vs, hvs, h2⟩
    · rintro ⟨h1, h2, ws, h3, h4⟩
      by_cases hkn : k = n
      · subst hkn
        obtain rfl : vs = ws := Except.ok.inj (hvs.symm.trans h3)
        exact .inr ⟨rfl, h4⟩
      · exact .inl ⟨by omega, h2, ws, h3, h4⟩

section
variable (s : State) (f : V3)
theorem exec_vceq : exec (.vceq f) s =
    compareVec (.vceq f) .arith f ⟨(· == ·), onOrdered (fun x y => cmpNum x y == 0) false, true⟩ s := rfl
theorem exec_vcne : exec (.vcne f) s =
    compareVec (.vcne f) .arith f ⟨(· != ·), onOrdered (fun x y => cmpNum x y != 0) true, true⟩ s := rfl
theorem exec_vclt : exec (.vclt f) s =
    compareVec (.vclt f) .arith f ⟨(· < ·), onOrdered (fun x y => cmpNum x y < 0) false, false⟩ s := rfl
theorem exec_vcle : exec (.vcle f) s =
    compareVec (.vcle f) .arith f ⟨(· ≤ ·), onOrdered (fun x y => cmpNum x y ≤ 0) false, false⟩ s := rfl
theorem exec_vcnan : exec (.vcnan f) s =
    compareVec (.vcnan f) .float f ⟨fun _ _ => false, fun x y => x.isNan || y.isNan, true⟩ s := rfl
end

/-- A compare completes and writes the bits of its condition. -/
theorem compareVec_completes {s : State} {t : VType} {f : V3} {i : Instr} {cl : Machine.Class} {c : Machine.Cond}
    (hexec : exec i s = compareVec i cl f c s) (hr : s.VecReady i cl f.m t)
    (hs : s.due.Readable t f.m ([f.a, f.b].map (fun r => s.due.srcOf (s.due.layout t) t.g r.val))) :
    let u := s.due
    let srcs := [f.a, f.b].map (fun r => u.srcOf (u.layout t) t.g r.val)
    ∃ n gs b fl,
      elemLoop (u.grantLen t) (srcs.map (·.count)) (u.maskOf f.m) (c.elem (u.maskOf f.m) srcs) (0, noFlags) = .ok (n, gs, b, fl) ∧
      exec i s = .next ((((u.writeMask f.d.val b).raise fl).report ⟨n, n, spent srcs 0 n, spent srcs 1 n, n, gs⟩).retire i .seq) ∧
      c.Formed (u.maskOf f.m) srcs n (b, fl) := by
  intro u srcs
  obtain ⟨n, gs, ⟨b, fl⟩, hrun, hb⟩ := elemLoop_ok (mask := u.maskOf f.m) (c.Formed (u.maskOf f.m) srcs) (Cond.Formed.zero c _ srcs noFlags)
    (form := c.elem (u.maskOf f.m) srcs) (L := u.grantLen t) (lims := srcs.map (·.count)) (x := (0, noFlags))
    fun n o hn ho => .inl (c.elem_forms (hs.element hn).1 (hs.element hn).2 ho)
  refine ⟨n, gs, b, fl, hrun, hexec.trans (run_done hr.ready ?_), hb⟩
  rw [classed_ready hr]
  simp only [u, srcs] at hrun
  simp only [hrun, u, srcs]

/-- Settles O28. -/
theorem compares : Obligations.Compares := fun s _ f =>
  ⟨compareVec_completes (exec_vceq s f), compareVec_completes (exec_vcne s f), compareVec_completes (exec_vclt s f),
    compareVec_completes (exec_vcle s f), compareVec_completes (exec_vcnan s f)⟩

end Sys2Proof.Machine

/-!
Moves, select, slides, permute and compress (O29), what they copy (O30), conversions, quantising and error-free pairs (O31).
-/

namespace Sys2Proof.Machine

set_option Elab.async false

/-! ### Copying an element -/

/-- The copy of an element that decodes is decided by its room alone. -/
theorem Src.copied_decodes {σ : Type} {x : Src} {j : Nat} {v : Val} (h : x.val j = .ok v) (n : Nat) (fit : Formed σ) :
    x.copied j n fit = fit := by
  unfold Src.copied
  cases fit with
  | put o => simp only [h]
  | full => rfl
  | trap t => rfl

/-- An element that is formed has been appended: whatever the layout, room or not. -/
theorem Out.fit_forms (o : Out) (lay : Layout) (budget x len : Nat) (fl : FlagSet) :
    (∃ z, o.fit lay budget x len fl = .put z) ∨ o.fit lay budget x len fl = .full :=
  (o.fit_cases lay budget x len fl).imp (fun h => ⟨_, h⟩) id

theorem State.moveElem_forms (s : State) (t : VType) {mask : Option (BitVec 4096)} {x : Src} {n : Nat} (o : Out)
    (hm : x.marked n = false) (hv : activeAt mask n = true → ∃ v, x.val n = .ok v) :
    (∃ z, s.moveElem t mask x n o = .put z) ∨ s.moveElem t mask x n o = .full := by
  unfold State.moveElem
  simp only [Src.check_clean hm]
  cases ha : activeAt mask n with
  | false => exact o.fit_forms ..
  | true =>
    obtain ⟨v, hv⟩ := hv ha
    simp only [if_true, Src.copied_decodes hv]
    exact o.fit_forms ..

theorem State.selElem_forms (s : State) (t : VType) (mask : Option (BitVec 4096)) {x y : Src} {n : Nat} (o : Out)
    (hx : x.marked n = false) (hy : y.marked n = false) (hvx : ∃ v, x.val n = .ok v) (hvy : ∃ v, y.val n = .ok v) :
    (∃ z, s.selElem t mask x y n o = .put z) ∨ s.selElem t mask x y n o = .full := by
  obtain ⟨v, hv⟩ := hvx
  obtain ⟨w, hw⟩ := hvy
  unfold State.selElem
  have hc : checksAt n [x, y] = .ok () := checksAt_clean (by simp [hx, hy])
  simp only [hc, Src.copied_decodes hv, Src.copied_decodes hw]
  exact o.fit_forms ..

/-- An element of a movement is formed when the element it takes can be read. -/
theorem State.copyElem_forms (s : State) (t : VType) {mask : Option (BitVec 4096)} {x : Src} {from_ : Nat → Option Nat} {n : Nat}
    (o : Out × Nat)
    (h : activeAt mask n = true → ∀ j, from_ n = some j → x.marked j = false ∧ ∃ v, x.val j = .ok v) :
    (∃ z, s.copyElem t x mask from_ n o = .put z) ∨ s.copyElem t x mask from_ n o = .full := by
  have hput (b len k : Nat) :
      (∃ z : Out × Nat, (match o.1.fit x.lay (t.budget s.gang) b len noFlags with
        | .put o' => Formed.put (o', o.2 + k)
        | .full => .full
        | .trap e => .trap e) = .put z) ∨
      (match o.1.fit x.lay (t.budget s.gang) b len noFlags with
        | .put o' => Formed.put (o', o.2 + k)
        | .full => .full
        | .trap e => .trap e) = .full := by
    rcases o.1.fit_forms x.lay (t.budget s.gang) b len noFlags with ⟨z, hz⟩ | hf
    · exact .inl ⟨_, by rw [hz]⟩
    · exact .inr (by rw [hf])
  unfold State.copyElem
  simp only []
  cases ha : activeAt mask n with
  | false => exact hput _ _ _
  | true =>
    cases hj : from_ n with
    | none => exact hput _ _ _
    | some j =>
      obtain ⟨hm, v, hv⟩ := h ha j hj
      simp only [Bool.not_true, Bool.false_eq_true, if_false, Src.check_clean hm, Src.copied_decodes hv]
      exact hput _ _ _

theorem State.compElem_forms (s : State) (t : VType) {mask : Option (BitVec 4096)} {x : Src} {n : Nat} {o : Out × Nat}
    (hm : x.marked n = false) (hv : activeAt mask n = true → ∃ v, x.val n = .ok v) (ho : o.2 = activeBelow mask n) :
    (∃ z, s.compElem t x mask n o = .put z ∧ z.2 = activeBelow mask (n + 1)) ∨ s.compElem t x mask n o = .full := by
  unfold State.compElem
  simp only [Src.check_clean hm]
  cases ha : activeAt mask n with
  | false => exact .inl ⟨o, rfl, by simp only [activeBelow, ha, ho, Bool.false_eq_true, if_false, Nat.add_zero]⟩
  | true =>
    obtain ⟨v, hv⟩ := hv ha
    simp only [Src.copied_decodes hv, Bool.not_true, Bool.false_eq_true, if_false]
    rcases o.1.fit_forms x.lay (t.budget s.gang) (x.raw n) (x.size n) noFlags with ⟨z, hz⟩ | hf
    · exact .inl ⟨(z, o.2 + 1), by rw [hz], by simp only [activeBelow, ha, ho, if_true]⟩
    · exact .inr (by rw [hf])

/-- A loop none of whose elements traps ends. -/
theorem elemLoop_forms {σ : Type} (L : Nat) (lims : List Nat) (mask : Option (BitVec 4096)) (form : Nat → σ → Formed σ) (x : σ)
    (h : ∀ n y, n < loopLimit L lims → (∃ z, form n y = .put z) ∨ form n y = .full) :
    ∃ n gs y, elemLoop L lims mask form x = .ok (n, gs, y) := by
  obtain ⟨n, gs, y, hrun, -⟩ := elemLoop_ok (fun _ _ => True) (mask := mask) (x := x) trivial fun n y hn _ =>
    (h n y hn).imp (fun ⟨z, hz⟩ => ⟨z, hz, trivial⟩) id
  exact ⟨n, gs, y, hrun⟩

/-! ### The movements complete -/

section
variable (s : State) (f : V3) (g : V2)
theorem exec_vmov : exec (.vmov g) s = run (.vmov g) (classed .movable g.m (fun t s =>
    match elemLoop (s.grantLen t) [(s.srcOf (s.layout t) t.g g.a.val).count] (s.maskOf g.m)
        (s.moveElem t (s.maskOf g.m) (s.srcOf (s.layout t) t.g g.a.val)) Out.zero with
    | .error e => .trap e s
    | .ok (n, gs, o) => .done .seq (s.finish t.g g.d.val o n
        ⟨n, n, (s.srcOf (s.layout t) t.g g.a.val).start n, 0, o.used, gs⟩))) s := rfl
theorem exec_vcomp : exec (.vcomp g) s = run (.vcomp g) (classed .movable g.m (fun t s =>
    match elemLoop (s.grantLen t) [(s.srcOf (s.layout t) t.g g.a.val).count] (s.maskOf g.m)
        (s.compElem t (s.srcOf (s.layout t) t.g g.a.val) (s.maskOf g.m)) (Out.zero, 0) with
    | .error e => .trap e s
    | .ok (n, gs, o, k) => .done .seq (s.finish t.g g.d.val o k
        ⟨n, k, (s.srcOf (s.layout t) t.g g.a.val).start n, 0, o.used, gs⟩))) s := rfl
theorem exec_vsel : exec (.vsel f) s = run (.vsel f) (classed .movable f.m (fun t s =>
    match elemLoop (s.grantLen t) [(s.srcOf (s.layout t) t.g f.a.val).count, (s.srcOf (s.layout t) t.g f.b.val).count] none
        (s.selElem t (s.maskOf f.m) (s.srcOf (s.layout t) t.g f.a.val) (s.srcOf (s.layout t) t.g f.b.val)) Out.zero with
    | .error e => .trap e s
    | .ok (n, gs, o) => .done .seq (s.finish t.g f.d.val o n
        ⟨n, n, (s.srcOf (s.layout t) t.g f.a.val).start n, (s.srcOf (s.layout t) t.g f.b.val).start n, o.used, gs⟩))) s := rfl
theorem exec_vslup : exec (.vslup f) s =
    slide (.vslup f) f (fun c k => c + k) (fun k n => if n < k then none else some (n - k)) s := rfl
theorem exec_vsldn : exec (.vsldn f) s = slide (.vsldn f) f (fun c k => c - k) (fun k n => some (n + k)) s := rfl
theorem exec_vperm : exec (.vperm f) s = runG (.vperm f) (indexOk f.b) (classed .movable f.m (fun t s =>
    match elemLoop (s.grantLen t) [(s.srcOf (.plain .n32) (indexRegs t) f.b.val).count] (s.maskOf f.m)
        (s.permElem t (s.srcOf (s.layout t) t.g f.a.val) (s.srcOf (.plain .n32) (indexRegs t) f.b.val) (s.maskOf f.m)) (Out.zero, 0) with
    | .error e => .trap e s
    | .ok (n, gs, o, ga) => .done .seq (s.finish t.g f.d.val o n ⟨n, n, ga, 32 * n, o.used, gs⟩))) s := rfl
end

theorem vmov_completes {s : State} {t : VType} {f : V2} (hr : s.VecReady (.vmov f) .movable f.m t) :
    let u := s.due
    let x := u.srcOf (u.layout t) t.g f.a.val
    let lim := loopLimit (u.grantLen t) [x.count]
    x.Clean lim → x.Decodes (u.maskOf f.m) lim →
      ∃ n gs o,
        elemLoop (u.grantLen t) [x.count] (u.maskOf f.m) (u.moveElem t (u.maskOf f.m) x) Out.zero = .ok (n, gs, o) ∧
        exec (.vmov f) s = .next ((u.finish t.g f.d.val o n ⟨n, n, x.start n, 0, o.used, gs⟩).retire (.vmov f) .seq) := by
  intro u x lim hclean hdec
  obtain ⟨n, gs, o, hrun⟩ := elemLoop_forms (u.grantLen t) [x.count] (u.maskOf f.m) (u.moveElem t (u.maskOf f.m) x) Out.zero
    fun n o hn => u.moveElem_forms t o (hclean n hn) (hdec n hn)
  refine ⟨n, gs, o, hrun, (exec_vmov s f).trans (run_done hr.ready ?_)⟩
  rw [classed_ready hr]
  simp only [u, x] at hrun
  simp only [hrun, u, x]

theorem vcomp_completes {s : State} {t : VType} {f : V2} (hr : s.VecReady (.vcomp f) .movable f.m t) :
    let u := s.due
    let x := u.srcOf (u.layout t) t.g f.a.val
    let lim := loopLimit (u.grantLen t) [x.count]
    x.Clean lim → x.Decodes (u.maskOf f.m) lim →
      ∃ n gs o k,
        elemLoop (u.grantLen t) [x.count] (u.maskOf f.m) (u.compElem t x (u.maskOf f.m)) (Out.zero, 0) = .ok (n, gs, o, k) ∧
        k = activeBelow (u.maskOf f.m) n ∧
        exec (.vcomp f) s = .next ((u.finish t.g f.d.val o k ⟨n, k, x.start n, 0, o.used, gs⟩).retire (.vcomp f) .seq) := by
  intro u x lim hclean hdec
  obtain ⟨n, gs, ⟨o, k⟩, hrun, hk⟩ := elemLoop_ok (L := u.grantLen t) (lims := [x.count]) (mask := u.maskOf f.m)
    (form := u.compElem t x (u.maskOf f.m)) (x := (Out.zero, 0)) (fun n o => o.2 = activeBelow (u.maskOf f.m) n) rfl
    fun n o hn ho => u.compElem_forms t (hclean n hn) (hdec n hn) ho
  refine ⟨n, gs, o, k, hrun, hk, (exec_vcomp s f).trans (run_done hr.ready ?_)⟩
  rw [classed_ready hr]
  simp only [u, x] at hrun
  simp only [hrun, u, x]

theorem vsel_completes {s : State} {t : VType} {f : V3} (hr : s.VecReady (.vsel f) .movable f.m t) :
    let u := s.due
    let x := u.srcOf (u.layout t) t.g f.a.val
    let y := u.srcOf (u.layout t) t.g f.b.val
    let both := loopLimit (u.grantLen t) [x.count, y.count]
    x.Clean both → y.Clean both → x.Decodes none both → y.Decodes none both →
      ∃ n gs o,
        elemLoop (u.grantLen t) [x.count, y.count] none (u.selElem t (u.maskOf f.m) x y) Out.zero = .ok (n, gs, o) ∧
        exec (.vsel f) s = .next ((u.finish t.g f.d.val o n ⟨n, n, x.start n, y.start n, o.used, gs⟩).retire (.vsel f) .seq) := by
  intro u x y both hcx hcy hdx hdy
  obtain ⟨n, gs, o, hrun⟩ := elemLoop_forms (u.grantLen t) [x.count, y.count] none (u.selElem t (u.maskOf f.m) x y) Out.zero
    fun n o hn => u.selElem_forms t _ o (hcx n hn) (hcy n hn) (hdx n hn rfl) (hdy n hn rfl)
  refine ⟨n, gs, o, hrun, (exec_vsel s f).trans (run_done hr.ready ?_)⟩
  rw [classed_ready hr]
  simp only [u, x, y] at hrun
  simp only [hrun, u, x, y]

/-- A slide completes when the elements that it takes can be read. -/
theorem slide_completes {s : State} {t : VType} {f : V3} {i : Instr} {lim : Nat → Nat → Nat} {from_ : Nat → Nat → Option Nat}
    (hexec : exec i s = slide i f lim from_ s) (hr : s.VecReady i .movable f.m t) :
    let u := s.due
    let x := u.srcOf (u.layout t) t.g f.a.val
    let k := (s.sreg f.b).toNat
    x.Copies (u.maskOf f.m) (loopLimit (u.grantLen t) [lim x.count k]) (from_ k) →
      ∃ n gs o ga, elemLoop (u.grantLen t) [lim x.count k] (u.maskOf f.m) (u.copyElem t x (u.maskOf f.m) (from_ k)) (Out.zero, 0) =
          .ok (n, gs, o, ga) ∧
        exec i s = .next ((u.finish t.g f.d.val o n ⟨n, n, ga, 0, o.used, gs⟩).retire i .seq) := by
  intro u x k hcopies
  obtain ⟨n, gs, ⟨o, ga⟩, hrun⟩ := elemLoop_forms (u.grantLen t) [lim x.count k] (u.maskOf f.m)
    (u.copyElem t x (u.maskOf f.m) (from_ k)) (Out.zero, 0) fun n o hn => u.copyElem_forms t o (hcopies n hn)
  refine ⟨n, gs, o, ga, hrun, hexec.trans (run_done hr.ready ?_)⟩
  rw [classed_ready hr]
  simp only [show s.due.sreg f.b = s.sreg f.b from rfl]
  simp only [u, x, k] at hrun
  simp only [hrun, u]

theorem vperm_completes {s : State} {t : VType} {f : V3} (hr : s.VecReady (.vperm f) .movable f.m t (indexOk f.b)) :
    let u := s.due
    let x := u.srcOf (u.layout t) t.g f.a.val
    let ix := u.srcOf (.plain .n32) (indexRegs t) f.b.val
    ix.Clean (loopLimit (u.grantLen t) [ix.count]) →
      x.Copies (u.maskOf f.m) (loopLimit (u.grantLen t) [ix.count])
        (fun n => if x.count ≤ ix.raw n then none else some (ix.raw n)) →
      ∃ n gs o ga,
        elemLoop (u.grantLen t) [ix.count] (u.maskOf f.m) (u.permElem t x ix (u.maskOf f.m)) (Out.zero, 0) = .ok (n, gs, o, ga) ∧
        exec (.vperm f) s = .next ((u.finish t.g f.d.val o n ⟨n, n, ga, 32 * n, o.used, gs⟩).retire (.vperm f) .seq) := by
  intro u x ix hclean hcopies
  obtain ⟨n, gs, ⟨o, ga⟩, hrun⟩ := elemLoop_forms (u.grantLen t) [ix.count] (u.maskOf f.m)
    (u.permElem t x ix (u.maskOf f.m)) (Out.zero, 0) fun n o hn => by
      unfold State.permElem
      simp only [Src.check_clean (hclean n hn)]
      exact u.copyElem_forms t o (hcopies n hn)
  refine ⟨n, gs, o, ga, hrun, (exec_vperm s f).trans (runG_done hr.ready ?_)⟩
  rw [classed_ready hr]
  simp only [u, x, ix] at hrun
  simp only [hrun, u]

/-- Settles O29. -/
theorem vectorMoves : Obligations.VectorMoves := by
  refine ⟨fun s t f => ⟨vmov_completes, vcomp_completes⟩, fun s t f => ⟨vsel_completes, ?_, ?_, vperm_completes⟩⟩
  · exact (slide_completes (exec_vslup s f) :)
  · exact (slide_completes (exec_vsldn s f) :)

/-! ### What the movements copy (R136, R142) -/

theorem Out.fit_plain (o : Out) (f : Fmt) (budget x len : Nat) (fl : FlagSet) :
    o.fit (.plain f) budget x len fl = .put (o.push x len fl) := rfl

/-- An element of vmov under a plain type: the bits as they stand, or 0. -/
theorem State.moveElem_plain (s : State) (t : VType) {mask : Option (BitVec 4096)} {x : Src} {fm : Fmt} (hx : x.lay = .plain fm)
    {n : Nat} {o z : Out} (h : s.moveElem t mask x n o = .put z) :
    z = o.push (if activeAt mask n then x.raw n else 0) fm.width noFlags := by
  unfold State.moveElem at h
  simp only [hx, Out.fit_plain, zeroBits, Src.size_plain hx, Src.copied_decodes (Src.val_plain hx n)] at h
  split at h
  · cases h
  · split at h
    · rename_i ha
      rw [if_pos ha]
      exact (Formed.put.inj h).symm
    · rename_i ha
      rw [if_neg ha]
      exact (Formed.put.inj h).symm

/-- An element of a movement under a plain type: the bits of the element taken, or 0. -/
theorem State.copyElem_plain (s : State) (t : VType) {mask : Option (BitVec 4096)} {x : Src} {fm : Fmt} (hx : x.lay = .plain fm)
    {from_ : Nat → Option Nat} {n : Nat} {o z : Out × Nat} (h : s.copyElem t x mask from_ n o = .put z) :
    z.1 = o.1.push (if activeAt mask n then ((from_ n).map x.raw).getD 0 else 0) fm.width noFlags := by
  unfold State.copyElem at h
  simp only [hx, Out.fit_plain, zeroBits] at h
  cases ha : activeAt mask n with
  | false =>
    rw [ha] at h
    exact congrArg Prod.fst (Formed.put.inj h).symm
  | true =>
    rw [ha] at h
    cases hj : from_ n with
    | none =>
      rw [hj] at h
      exact congrArg Prod.fst (Formed.put.inj h).symm
    | some j =>
      simp only [hj, Bool.not_true, Bool.false_eq_true, if_false, Src.copied_decodes (Src.val_plain hx j), Src.size_plain hx] at h
      split at h
      · cases h
      · exact congrArg Prod.fst (Formed.put.inj h).symm

/-- The elements of a group that a plain movement has formed. -/
theorem elemLoop_copies {s : State} {t : VType} {mask : Option (BitVec 4096)} {x : Src} {fm : Fmt} (hx : x.lay = .plain fm)
    {from_ : Nat → Option Nat} {L n gs ga : Nat} {lims : List Nat} {o : Out}
    (h : elemLoop L lims mask (s.copyElem t x mask from_) (Out.zero, 0) = .ok (n, gs, o, ga)) :
    o.Holds fm.width n (fun k => if activeAt mask k then ((from_ k).map x.raw).getD 0 else 0) := by
  refine (elemLoop_invariant (fun k (o : Out × Nat) => o.1.Holds fm.width k
    (fun k => if activeAt mask k then ((from_ k).map x.raw).getD 0 else 0)) h (Out.Holds.zero _ _) fun k o z _ ho hz => ?_).1
  rw [s.copyElem_plain t hx hz]
  refine ho.push (Nat.mod_eq_of_lt ?_) _
  have hpos : 0 < 2 ^ fm.width := Nat.two_pow_pos _
  split
  · cases from_ k with
    | none => exact hpos
    | some j => exact Src.raw_lt_plain hx j
  · exact hpos

/-- Settles O30. -/
theorem plainMoves : Obligations.PlainMoves := by
  intro s t fm mask x a L n gs lims hx W elem
  refine ⟨fun o h => ?_, fun o ga h => ?_, fun o ga h => ?_⟩
  · have hinv := (elemLoop_invariant (fun k (o : Out) => o.Holds fm.width k (fun k => if activeAt mask k then x.raw k else 0)) h
      (Out.Holds.zero _ _) fun k o z _ ho hz => by
        rw [s.moveElem_plain t hx hz]
        refine ho.push (Nat.mod_eq_of_lt ?_) _
        split
        · exact Src.raw_lt_plain hx k
        · exact Nat.two_pow_pos _).1
    exact ⟨hinv.used, hinv.elem⟩
  · have hinv := elemLoop_copies hx h
    refine ⟨hinv.used, fun k hk => (hinv.elem k hk).trans ?_⟩
    by_cases ha : activeAt mask k = true
    · by_cases hka : k < a
      · simp only [ha, hka, if_true, true_and]
        rw [if_neg (by omega)]
        rfl
      · simp only [ha, hka, if_true, if_false, true_and]
        rw [if_pos (by omega)]
        rfl
    · rw [if_neg ha, if_neg fun h => ha h.1]
  · have hinv := elemLoop_copies hx h
    exact ⟨hinv.used, hinv.elem⟩

end Sys2Proof.Machine

/-!
Conversions, quantising and error-free pairs (O31).
-/

namespace Sys2Proof.Machine

set_option Elab.async false

section
variable (s : State) (f : V3) (g : R2)
theorem exec_vcvt : exec (.vcvt f) s = run (.vcvt f) (classed .movable f.m (fun t s =>
    match s.mapRun t f.m [s.srcOf (s.cvtLayout t f.b.val) t.g f.a.val] (fun _ vs =>
        match vs with
        | v :: _ => roundVal v
        | [] => .int 0) with
    | .error e => .trap e s
    | .ok (n, gs, o) => .done .seq (s.finish t.g f.d.val o n
        ⟨n, n, spent [s.srcOf (s.cvtLayout t f.b.val) t.g f.a.val] 0 n, 0, o.used, gs⟩))) s := rfl
theorem exec_vqnt : exec (.vqnt g) s = runG (.vqnt g) (wideOk g.a) (classed .block 0 (fun t s =>
    match elemLoop (s.grantLen t) [(s.srcOf (.plain .fp32) (8 * t.g) g.a.val).count] none
        (s.srcOf (.plain .fp32) (8 * t.g) g.a.val).pass () with
    | .error e => .trap e s
    | .ok (n, gs, _) => .done .seq (s.finish t.g g.d.val
        (s.quantBlocks t (s.srcOf (.plain .fp32) (8 * t.g) g.a.val) n 0 Out.zero (blocksFor n)) n
        ⟨n, n, 32 * n, 0, (s.quantBlocks t (s.srcOf (.plain .fp32) (8 * t.g) g.a.val) n 0 Out.zero (blocksFor n)).used, gs⟩))) s := rfl
theorem exec_vdqnt : exec (.vdqnt g) s = runG (.vdqnt g) (wideOk g.d) (classed .block 0 (fun t s =>
    match elemLoop (s.grantLen t) [(s.srcOf (.plain .eb) t.g g.a.val).count] none (s.srcOf (.plain .eb) t.g g.a.val).dequant Out.zero with
    | .error e => .trap e s
    | .ok (n, gs, o) => .done .seq (s.finish (8 * t.g) g.d.val o n ⟨n, n, 80 * blocksFor n, 0, o.used, gs⟩))) s := rfl
theorem exec_vtsum : exec (.vtsum f) s = vecPair (.vtsum f) f (addNum .ne) s := rfl
theorem exec_vtprod : exec (.vtprod f) s = vecPair (.vtprod f) f mulNum s := rfl
end

theorem vcvt_completes {s : State} {t : VType} {f : V3} (hr : s.VecReady (.vcvt f) .movable f.m t) :
    let u := s.due
    let srcs := [u.srcOf (u.cvtLayout t f.b.val) t.g f.a.val]
    u.Readable t f.m srcs →
      ∃ n gs o, u.mapRun t f.m srcs (fun _ vs => roundVal (vs.headD (.int 0))) = .ok (n, gs, o) ∧
        exec (.vcvt f) s =
          .next ((u.finish t.g f.d.val o n ⟨n, n, spent srcs 0 n, 0, o.used, gs⟩).retire (.vcvt f) .seq) := by
  intro u srcs hs
  obtain ⟨n, gs, o, hrun, -⟩ := State.mapRun_readable hs (fun _ vs => roundVal (vs.headD (.int 0)))
  refine ⟨n, gs, o, hrun, (exec_vcvt s f).trans (run_done hr.ready ?_)⟩
  rw [classed_ready hr]
  have hop : (fun (_ : Nat) (vs : List Val) => match vs with
      | v :: _ => roundVal v
      | [] => .int 0) = fun _ vs => roundVal (vs.headD (.int 0)) := by
    funext _ vs
    cases vs <;> rfl
  simp only [hop]
  simp only [u, srcs] at hrun
  simp only [hrun, u, srcs]

/-! ### Where a loop without a mask stops -/

/-- A loop over one source without a mask comes to its limit, or to an element that does not fit. -/
theorem elemLoop_unmasked {σ : Type} {L c n gs : Nat} {form : Nat → σ → Formed σ} {x y : σ}
    (h : elemLoop L [c] none form x = .ok (n, gs, y)) :
    (gs = gsFull ∧ n < loopLimit L [c] ∧ form n y = .full) ∨
      (n = loopLimit L [c] ∧ gs = (if c < L then 2 else if L < c then 3 else 0)) := by
  have hall := elemLoop_answer L [c] none form x
  rw [h] at hall
  obtain ⟨-, hn, ⟨f, -, -, hrun⟩, hstop⟩ := hall
  have hc : n ≤ c := by
    by_contra hlt
    exact (hrun c (Nat.zero_le c) (by omega)).2.1 ⟨c, List.mem_singleton_self c, Nat.le_refl c⟩
  have hlim : loopLimit L [c] = min L c := rfl
  rw [hlim]
  rcases hstop with ⟨hg, hl, hall⟩ | ⟨hg, hl, l, hlm, hlt⟩ | ⟨hg, hlt, l, hlm, hle⟩ | ⟨-, -, -, hm, -⟩ | ⟨hg, hlt, he, -, hf⟩
  · have := hall c (List.mem_singleton_self c)
    rw [if_neg (by omega), if_neg (by omega)]
    omega
  · obtain rfl := List.mem_singleton.mp hlm
    rw [if_neg (by omega), if_pos (by omega)]
    omega
  · obtain rfl := List.mem_singleton.mp hlm
    rw [if_pos (by omega)]
    omega
  · cases hm
  · exact .inl ⟨hg, hlim ▸ (not_exhausted_iff hlt).mp he, hf⟩

/-- A loop over one source that knows no mask and is never full comes to its limit. -/
theorem elemLoop_reaches_limit {σ : Type} {L c n gs : Nat} {form : Nat → σ → Formed σ} {x y : σ}
    (h : elemLoop L [c] none form x = .ok (n, gs, y)) (hfull : ∀ n y, form n y ≠ .full) :
    n = loopLimit L [c] ∧ gs = (if c < L then 2 else if L < c then 3 else 0) :=
  (elemLoop_unmasked h).resolve_left fun hf => hfull n y hf.2.2

theorem Src.pass_ne_full (x : Src) (n : Nat) (y : Unit) : x.pass n y ≠ .full := by
  unfold Src.pass
  split <;> exact fun h => by cases h

theorem Src.pass_clean {x : Src} {n : Nat} (h : x.marked n = false) (y : Unit) : x.pass n y = .put y := by
  unfold Src.pass
  simp only [Src.check_clean h]

theorem vqnt_completes {s : State} {t : VType} {f : R2} (hr : s.VecReady (.vqnt f) .block 0 t (wideOk f.a)) :
    let u := s.due
    let x := u.srcOf (.plain .fp32) (8 * t.g) f.a.val
    x.Clean (loopLimit (u.grantLen t) [x.count]) →
      ∃ n gs, n = loopLimit (u.grantLen t) [x.count] ∧
        gs = (if x.count < u.grantLen t then 2 else if u.grantLen t < x.count then 3 else 0) ∧
        let o := u.quantBlocks t x n 0 Out.zero (blocksFor n)
        exec (.vqnt f) s = .next ((u.finish t.g f.d.val o n ⟨n, n, 32 * n, 0, o.used, gs⟩).retire (.vqnt f) .seq) := by
  intro u x hclean
  obtain ⟨n, gs, y, hrun⟩ := elemLoop_forms (u.grantLen t) [x.count] none x.pass () fun n y hn =>
    .inl ⟨y, Src.pass_clean (hclean n hn) y⟩
  obtain ⟨hn, hgs⟩ := elemLoop_reaches_limit hrun x.pass_ne_full
  refine ⟨n, gs, hn, hgs, (exec_vqnt s f).trans (runG_done hr.ready ?_)⟩
  rw [classed_ready hr]
  simp only [u, x] at hrun
  simp only [hrun, u, x]

/-! ### Dequantising (R148) -/

theorem Src.dequant_unmarked {x : Src} (h : x.marks = []) (n : Nat) (o : Out) :
    ∃ v fl, x.dequant n o = .put (o.push v 32 fl) := by
  have hb : x.blockMarked n = false := by simp [Src.blockMarked, h]
  unfold Src.dequant
  rw [hb]
  exact ⟨_, _, rfl⟩

theorem vdqnt_completes {s : State} {t : VType} {f : R2} (hr : s.VecReady (.vdqnt f) .block 0 t (wideOk f.d)) :
    let u := s.due
    let y := u.srcOf (.plain .eb) t.g f.a.val
    y.marks = [] →
      ∃ n gs o, elemLoop (u.grantLen t) [y.count] none y.dequant Out.zero = .ok (n, gs, o) ∧
        n = loopLimit (u.grantLen t) [y.count] ∧ o.used = 32 * n ∧
        exec (.vdqnt f) s =
          .next ((u.finish (8 * t.g) f.d.val o n ⟨n, n, 80 * blocksFor n, 0, o.used, gs⟩).retire (.vdqnt f) .seq) := by
  intro u y hm
  obtain ⟨n, gs, o, hrun, hused⟩ := elemLoop_ok (L := u.grantLen t) (lims := [y.count]) (mask := none) (form := y.dequant)
    (x := Out.zero) (fun n (o : Out) => o.used = 32 * n) rfl fun n o _ ho => by
      obtain ⟨v, fl, hv⟩ := Src.dequant_unmarked hm n o
      exact .inl ⟨_, hv, by simp only [Out.push, ho, Nat.mul_succ]⟩
  obtain ⟨hn, -⟩ := elemLoop_reaches_limit hrun fun n o hf => by
    obtain ⟨v, fl, hv⟩ := Src.dequant_unmarked hm n o
    rw [hv] at hf
    cases hf
  refine ⟨n, gs, o, hrun, hn, hused, (exec_vdqnt s f).trans (runG_done hr.ready ?_)⟩
  rw [classed_ready hr]
  simp only [u, y] at hrun
  simp only [hrun, u]

/-! ### Error-free pairs (R138, R139) -/

theorem State.pairElem_forms (s : State) {mask : Option (BitVec 4096)} {srcs : List Src}
    (op : Machine.Num → Machine.Num → Exact × FlagSet) {n : Nat} (o : Out × Out) (hc : checksAt n srcs = .ok ())
    (hv : activeAt mask n = true → ∃ vs, valsAt n srcs = .ok vs) : ∃ z, s.pairElem mask srcs op n o = .put z := by
  unfold State.pairElem
  simp only [hc]
  cases ha : activeAt mask n with
  | false => exact ⟨_, rfl⟩
  | true =>
    obtain ⟨vs, hvs⟩ := hv ha
    simp only [hvs]
    exact ⟨_, rfl⟩

theorem vecPair_completes {s : State} {t : VType} {f : V3} {i : Instr} {op : Machine.Num → Machine.Num → Exact × FlagSet}
    (hexec : exec i s = vecPair i f op s) (hr : s.VecReady i .fp32 f.m t (fun t => f.d.val % (2 * t.g) == 0)) :
    let u := s.due
    let srcs := [f.a, f.b].map (fun r => u.srcOf (u.layout t) t.g r.val)
    u.Readable t f.m srcs →
      ∃ n gs hi lo,
        elemLoop (u.grantLen t) (srcs.map (·.count)) (u.maskOf f.m) (u.pairElem (u.maskOf f.m) srcs op)
          (Out.zero, Out.zero) = .ok (n, gs, hi, lo) ∧
        let v := u.finish t.g f.d.val hi n ⟨n, n, spent srcs 0 n, spent srcs 1 n, 64 * n, gs⟩
        exec i s = .next (State.retire i .seq (v.setMe (writeGroup v.me v.gang (f.d.val + t.g) lo.bits n lo.used t.g))) := by
  intro u srcs hs
  obtain ⟨n, gs, ⟨hi, lo⟩, hrun⟩ := elemLoop_forms (u.grantLen t) (srcs.map (·.count)) (u.maskOf f.m)
    (u.pairElem (u.maskOf f.m) srcs op) (Out.zero, Out.zero) fun n o hn =>
      .inl (u.pairElem_forms op o (hs.element hn).1 (hs.element hn).2)
  refine ⟨n, gs, hi, lo, hrun, hexec.trans (runG_done hr.ready ?_)⟩
  rw [classed_ready hr]
  simp only [u, srcs] at hrun
  simp only [hrun, u, srcs]

/-- Settles O31. -/
theorem vectorConversions : Obligations.VectorConversions := by
  refine ⟨fun s t f => vcvt_completes, fun s t f => ⟨vqnt_completes, vdqnt_completes⟩, fun s t f i op hmem => ?_⟩
  rcases List.mem_cons.mp hmem with h | h
  · cases h
    exact (vecPair_completes (exec_vtsum s f) :)
  · cases List.mem_singleton.mp h
    exact (vecPair_completes (exec_vtprod s f) :)

end Sys2Proof.Machine

/-!
Reductions and scans (O32), and the words on mask registers (O33).
-/

namespace Sys2Proof.Machine

set_option Elab.async false

/-! ### Elements of a fold (R149, R150) -/

theorem foldElem_forms {x : Src} {mask : Option (BitVec 4096)} (step : Nat → Val → Val → Val × FlagSet) {n : Nat} (a : Val × FlagSet)
    (hm : x.marked n = false) (hv : activeAt mask n = true → ∃ v, x.val n = .ok v) : ∃ z, foldElem x mask step n a = .put z := by
  unfold foldElem
  simp only [Src.check_clean hm]
  cases ha : activeAt mask n with
  | false => exact ⟨a, rfl⟩
  | true =>
    obtain ⟨v, hv⟩ := hv ha
    simp only [hv]
    exact ⟨_, rfl⟩

theorem collectElem_forms {x : Src} {mask : Option (BitVec 4096)} {n : Nat} (l : List (Val × Nat)) (hm : x.marked n = false)
    (hv : activeAt mask n = true → ∃ v, x.val n = .ok v) :
    ∃ z, collectElem x mask n l = .put z ∧ z.length = l.length + (if activeAt mask n then 1 else 0) := by
  unfold collectElem
  simp only [Src.check_clean hm]
  cases ha : activeAt mask n with
  | false => exact ⟨l, rfl, rfl⟩
  | true =>
    obtain ⟨v, hv⟩ := hv ha
    simp only [hv]
    exact ⟨_, rfl, by simp⟩

theorem State.scanElem_forms (s : State) (t : VType) {x : Src} {mask : Option (BitVec 4096)} {n : Nat} (a : Fold)
    (hm : x.marked n = false) (hv : activeAt mask n = true → ∃ v, x.val n = .ok v) :
    (∃ z, s.scanElem t x mask n a = .put z) ∨ s.scanElem t x mask n a = .full := by
  have hput (r : Val) (fl : FlagSet) (b len : Nat) :
      (∃ z : Fold, (match a.out.fit (s.layout t) (t.budget s.gang) b len fl with
        | .put o => Formed.put (Fold.mk r o)
        | .full => .full
        | .trap e => .trap e) = .put z) ∨
      (match a.out.fit (s.layout t) (t.budget s.gang) b len fl with
        | .put o => Formed.put (Fold.mk r o)
        | .full => .full
        | .trap e => .trap e) = .full := by
    rcases a.out.fit_forms (s.layout t) (t.budget s.gang) b len fl with ⟨z, hz⟩ | hf
    · exact .inl ⟨_, by rw [hz]⟩
    · exact .inr (by rw [hf])
  unfold State.scanElem
  simp only [Src.check_clean hm]
  cases ha : activeAt mask n with
  | false => exact hput _ _ _ _
  | true =>
    obtain ⟨v, hv⟩ := hv ha
    simp only [hv]
    exact hput _ _ _ _

theorem State.scanfElem_forms (s : State) (t : VType) {x : Src} {mask : Option (BitVec 4096)} {n : Nat} (a : Scanf)
    (hm : x.marked n = false) (hv : activeAt mask n = true → ∃ v, x.val n = .ok v) :
    (∃ z, s.scanfElem t x mask n a = .put z) ∨ s.scanfElem t x mask n a = .full := by
  obtain ⟨l, hl, -⟩ := collectElem_forms a.vals hm hv
  unfold State.scanfElem
  simp only [hl]
  generalize (if activeAt mask n then s.anyFold t a.free l noFlags l.length else (a.acc, noFlags, a.free)) = r
  obtain ⟨r, fl, free⟩ := r
  simp only []
  rcases a.out.fit_forms (s.layout t) (t.budget s.gang) (encodeVal (s.roundCtx t n) (s.layout t) r).1
    (encodeVal (s.roundCtx t n) (s.layout t) r).2 fl with ⟨z, hz⟩ | hf
  · exact .inl ⟨_, by rw [hz]⟩
  · exact .inr (by rw [hf])

/-! ### Reductions and scans complete -/

section
variable (s : State) (f : V3)
theorem exec_vredo : exec (.vredo f) s = reduce (.vredo f) f (fun s t => s.addStep t) s := rfl
theorem exec_vredmin : exec (.vredmin f) s = extreme (.vredmin f) f min minNum s := rfl
theorem exec_vredmax : exec (.vredmax f) s = extreme (.vredmax f) f max maxNum s := rfl
theorem exec_vscano : exec (.vscano f) s = run (.vscano f) (classed .arith f.m (fun t s =>
    match s.foldInit t f.b with
    | .error e => .trap e s
    | .ok (v, gb) =>
      match elemLoop (s.grantLen t) [(s.srcOf (s.layout t) t.g f.a.val).count] (s.maskOf f.m)
          (s.scanElem t (s.srcOf (s.layout t) t.g f.a.val) (s.maskOf f.m)) ⟨v, Out.zero⟩ with
      | .error e => .trap e s
      | .ok (n, gs, r) => .done .seq (s.finish t.g f.d.val r.out n
          ⟨n, n, (s.srcOf (s.layout t) t.g f.a.val).start n, gb, r.out.used, gs⟩))) s := rfl
theorem exec_vredt : exec (.vredt f) s = run (.vredt f) (unordered (classed .arith f.m (fun t s =>
    match s.foldInit t f.b with
    | .error e => .trap e s
    | .ok (v, gb) =>
      match elemLoop (s.grantLen t) [(s.srcOf (s.layout t) t.g f.a.val).count] (s.maskOf f.m)
          (collectElem (s.srcOf (s.layout t) t.g f.a.val) (s.maskOf f.m)) [(v, 0)] with
      | .error e => .trap e s
      | .ok (n, gs, l) =>
        .done .seq (({ s with free := (s.anyFold t s.free l noFlags l.length).2.2 }).reduceDone t f.d
          (s.srcOf (s.layout t) t.g f.a.val) gb n gs (s.anyFold t s.free l noFlags l.length).1
          (s.anyFold t s.free l noFlags l.length).2.1)))) s := rfl
theorem exec_vscanf : exec (.vscanf f) s = run (.vscanf f) (unordered (classed .arith f.m (fun t s =>
    match s.foldInit t f.b with
    | .error e => .trap e s
    | .ok (v, gb) =>
      match elemLoop (s.grantLen t) [(s.srcOf (s.layout t) t.g f.a.val).count] (s.maskOf f.m)
          (s.scanfElem t (s.srcOf (s.layout t) t.g f.a.val) (s.maskOf f.m)) ⟨[(v, 0)], v, Out.zero, s.free⟩ with
      | .error e => .trap e s
      | .ok (n, gs, r) => .done .seq (({ s with free := r.free }).finish t.g f.d.val r.out n
          ⟨n, n, (s.srcOf (s.layout t) t.g f.a.val).start n, gb, r.out.used, gs⟩)))) s := rfl
end

theorem unordered_allowed {s : State} (h : s.me.ctl.det.getLsbD 0 = false) (body : State → Res) : unordered body s.due = body s.due := by
  unfold unordered
  exact if_neg (by rw [show s.due.me = s.me from rfl, h]; exact Bool.false_ne_true)

theorem unordered_trap {s : State} (h : s.me.ctl.det.getLsbD 0 = true) (body : State → Res) :
    unordered body s.due = .trap (Trap.plain Cause.unordered) s.due := by
  unfold unordered
  exact if_pos h

section
variable {s : State} {t : VType} {f : V3} {v : Val} {gb : Nat}
variable (hinit : s.due.foldInit t f.b = .ok (v, gb))
variable (hclean : (s.due.srcOf (s.due.layout t) t.g f.a.val).Clean
  (loopLimit (s.due.grantLen t) [(s.due.srcOf (s.due.layout t) t.g f.a.val).count]))
variable (hdec : (s.due.srcOf (s.due.layout t) t.g f.a.val).Decodes (s.due.maskOf f.m)
  (loopLimit (s.due.grantLen t) [(s.due.srcOf (s.due.layout t) t.g f.a.val).count]))
include hinit hclean hdec

theorem reduce_completes {i : Instr} {step : State → VType → Nat → Val → Val → Val × FlagSet} (hexec : exec i s = reduce i f step s)
    (hr : s.VecReady i .arith f.m t) :
    let u := s.due
    let x := u.srcOf (u.layout t) t.g f.a.val
    ∃ n gs r fl, elemLoop (u.grantLen t) [x.count] (u.maskOf f.m) (foldElem x (u.maskOf f.m) (step u t)) (v, noFlags) =
        .ok (n, gs, r, fl) ∧
      exec i s = .next ((u.reduceDone t f.d x gb n gs r fl).retire i .seq) := by
  intro u x
  obtain ⟨n, gs, ⟨r, fl⟩, hrun⟩ := elemLoop_forms (u.grantLen t) [x.count] (u.maskOf f.m) (foldElem x (u.maskOf f.m) (step u t))
    (v, noFlags) fun n a hn => .inl (foldElem_forms _ a (hclean n hn) (hdec n hn))
  refine ⟨n, gs, r, fl, hrun, hexec.trans (run_done hr.ready ?_)⟩
  rw [classed_ready hr]
  simp only [u, x] at hrun
  simp only [hinit, hrun, u, x]

theorem extreme_completes {i : Instr} {onInt : Int → Int → Int} {onNum : Machine.Num → Machine.Num → Exact × FlagSet}
    (hexec : exec i s = extreme i f onInt onNum s) (hr : s.VecReady i .arith f.m t) :
    let u := s.due
    let x := u.srcOf (u.layout t) t.g f.a.val
    ∃ n gs r fl, elemLoop (u.grantLen t) [x.count] (u.maskOf f.m) (foldElem x (u.maskOf f.m) (u.extremeStep t onInt onNum))
        (v, noFlags) = .ok (n, gs, r, fl) ∧
      exec i s = .next ((u.reduceDone t f.d x gb n gs (u.extremeDone r fl).1 (u.extremeDone r fl).2).retire i .seq) := by
  intro u x
  obtain ⟨n, gs, ⟨r, fl⟩, hrun⟩ := elemLoop_forms (u.grantLen t) [x.count] (u.maskOf f.m)
    (foldElem x (u.maskOf f.m) (u.extremeStep t onInt onNum)) (v, noFlags) fun n a hn =>
      .inl (foldElem_forms _ a (hclean n hn) (hdec n hn))
  refine ⟨n, gs, r, fl, hrun, hexec.trans (run_done hr.ready ?_)⟩
  rw [classed_ready hr]
  simp only [u, x] at hrun
  simp only [hinit, hrun, u, x]

theorem vscano_completes (hr : s.VecReady (.vscano f) .arith f.m t) :
    let u := s.due
    let x := u.srcOf (u.layout t) t.g f.a.val
    ∃ n gs r, elemLoop (u.grantLen t) [x.count] (u.maskOf f.m) (u.scanElem t x (u.maskOf f.m)) ⟨v, Out.zero⟩ = .ok (n, gs, r) ∧
      exec (.vscano f) s =
        .next ((u.finish t.g f.d.val r.out n ⟨n, n, x.start n, gb, r.out.used, gs⟩).retire (.vscano f) .seq) := by
  intro u x
  obtain ⟨n, gs, r, hrun⟩ := elemLoop_forms (u.grantLen t) [x.count] (u.maskOf f.m) (u.scanElem t x (u.maskOf f.m)) ⟨v, Out.zero⟩
    fun n a hn => u.scanElem_forms t a (hclean n hn) (hdec n hn)
  refine ⟨n, gs, r, hrun, (exec_vscano s f).trans (run_done hr.ready ?_)⟩
  rw [classed_ready hr]
  simp only [u, x] at hrun
  simp only [hinit, hrun, u, x]

theorem vredt_completes (hr : s.VecReady (.vredt f) .arith f.m t) (hdet : s.me.ctl.det.getLsbD 0 = false) :
    let u := s.due
    let x := u.srcOf (u.layout t) t.g f.a.val
    ∃ n gs l, elemLoop (u.grantLen t) [x.count] (u.maskOf f.m) (collectElem x (u.maskOf f.m)) [(v, 0)] = .ok (n, gs, l) ∧
      l.length = 1 + activeBelow (u.maskOf f.m) n ∧
      let r := u.anyFold t u.free l noFlags l.length
      exec (.vredt f) s = .next ((({ u with free := r.2.2 }).reduceDone t f.d x gb n gs r.1 r.2.1).retire (.vredt f) .seq) := by
  intro u x
  obtain ⟨n, gs, l, hrun, hlen⟩ := elemLoop_ok (L := u.grantLen t) (lims := [x.count]) (mask := u.maskOf f.m)
    (form := collectElem x (u.maskOf f.m)) (x := [(v, 0)]) (fun n l => l.length = 1 + activeBelow (u.maskOf f.m) n) rfl
    fun n l hn hl => by
      obtain ⟨z, hz, hlen⟩ := collectElem_forms l (hclean n hn) (hdec n hn)
      exact .inl ⟨z, hz, by rw [hlen, hl, activeBelow, Nat.add_assoc]⟩
  refine ⟨n, gs, l, hrun, hlen, (exec_vredt s f).trans (run_done hr.ready ?_)⟩
  rw [unordered_allowed hdet, classed_ready hr]
  simp only [u, x] at hrun
  simp only [hinit, hrun, u, x]

theorem vscanf_completes (hr : s.VecReady (.vscanf f) .arith f.m t) (hdet : s.me.ctl.det.getLsbD 0 = false) :
    let u := s.due
    let x := u.srcOf (u.layout t) t.g f.a.val
    ∃ n gs r, elemLoop (u.grantLen t) [x.count] (u.maskOf f.m) (u.scanfElem t x (u.maskOf f.m))
        ⟨[(v, 0)], v, Out.zero, u.free⟩ = .ok (n, gs, r) ∧
      exec (.vscanf f) s = .next ((({ u with free := r.free }).finish t.g f.d.val r.out n
        ⟨n, n, x.start n, gb, r.out.used, gs⟩).retire (.vscanf f) .seq) := by
  intro u x
  obtain ⟨n, gs, r, hrun⟩ := elemLoop_forms (u.grantLen t) [x.count] (u.maskOf f.m) (u.scanfElem t x (u.maskOf f.m))
    ⟨[(v, 0)], v, Out.zero, u.free⟩ fun n a hn => u.scanfElem_forms t a (hclean n hn) (hdec n hn)
  refine ⟨n, gs, r, hrun, (exec_vscanf s f).trans (run_done hr.ready ?_)⟩
  rw [unordered_allowed hdet, classed_ready hr]
  simp only [u, x] at hrun
  simp only [hinit, hrun, u, x]

end

/-- Settles O32. -/
theorem reductions : Obligations.Reductions := by
  refine ⟨?_, fun s f i hi hr hdet => ?_⟩
  · intro s t f v gb u x lim hinit hclean hdec
    refine ⟨?_, ?_, ?_, ?_, ?_, ?_⟩
    · exact (reduce_completes hinit hclean hdec (exec_vredo s f) :)
    · exact (extreme_completes hinit hclean hdec (exec_vredmin s f) :)
    · exact (extreme_completes hinit hclean hdec (exec_vredmax s f) :)
    · exact vscano_completes hinit hclean hdec
    · exact vredt_completes hinit hclean hdec
    · exact vscanf_completes hinit hclean hdec
  · rcases List.mem_cons.mp hi with rfl | h
    · exact (exec_vredt s f).trans (run_trap hr (unordered_trap hdet _))
    · obtain rfl := List.mem_singleton.mp h
      exact (exec_vscanf s f).trans (run_trap hr (unordered_trap hdet _))

/-! ### Mask registers (R152) -/

theorem Seq.maskMark_none {m : Seq} {k lim : Nat} (h : ∀ n, n < lim → 4096 * k + n ∉ m.mmarks) : m.maskMark k lim = none := by
  unfold Seq.maskMark
  rw [Option.map_eq_none_iff, List.find?_eq_none]
  intro x hx hmark
  rw [Bool.and_eq_true, beq_iff_eq, decide_eq_true_eq] at hmark
  exact h (x % 4096) hmark.2 (by rwa [← hmark.1, Nat.div_add_mod])

theorem State.masksOk_sound {s : State} {ks : List Reg} {lim : Nat} (h : ∀ k, k ∈ ks → s.me.maskMark k.val lim = none) :
    s.masksOk ks lim = .ok () := by
  have hnone : ks.findSome? (fun k => s.me.maskMark k.val lim) = none := List.findSome?_eq_none_iff.mpr h
  unfold State.masksOk
  rw [hnone]

theorem maskOp_completes {s : State} {i : Instr} {d : Reg} {ks : List Reg} {op : State → BitVec 4096} (hr : s.Ready i)
    (hs : ∀ k, k ∈ ks → s.me.MaskSound k) : maskOp i d ks op s = .next ((s.due.writeMask d.val (op s.due)).retire i .seq) := by
  refine run_done hr ?_
  have hok : s.due.masksOk ks 4096 = .ok () := State.masksOk_sound fun k hk => Seq.maskMark_none (hs k hk)
  simp only [hok]

theorem maskRead_completes {s : State} {i : Instr} {f : R2} {op : BitVec 4096 → Nat → Nat} (hr : s.Ready i)
    (hs : ∀ k, k < s.grantLen s.typeOr → 4096 * f.a.val + k ∉ s.me.mmarks) :
    maskRead i f op s = .next ((s.due.setS f.d (BitVec.ofNat 64 (op (s.maskReg f.a) (s.grantLen s.typeOr)))).retire i .seq) := by
  refine run_done hr ?_
  have hok : s.due.masksOk [f.a] (s.due.grantLen s.due.typeOr) = .ok () :=
    State.masksOk_sound fun k hk => by
      obtain rfl := List.mem_singleton.mp hk
      exact Seq.maskMark_none hs
  simp only [hok]
  rfl

section
variable (s : State) (f : R3) (g : R2)
theorem exec_mand : exec (.mand f) s = maskOp (.mand f) f.d [f.a, f.b] (fun s => s.maskReg f.a &&& s.maskReg f.b) s := rfl
theorem exec_mor : exec (.mor f) s = maskOp (.mor f) f.d [f.a, f.b] (fun s => s.maskReg f.a ||| s.maskReg f.b) s := rfl
theorem exec_mxor : exec (.mxor f) s = maskOp (.mxor f) f.d [f.a, f.b] (fun s => s.maskReg f.a ^^^ s.maskReg f.b) s := rfl
theorem exec_mandn : exec (.mandn f) s = maskOp (.mandn f) f.d [f.a, f.b] (fun s => s.maskReg f.a &&& ~~~(s.maskReg f.b)) s := rfl
theorem exec_mnot : exec (.mnot g) s = maskOp (.mnot g) g.d [g.a] (fun s => ~~~(s.maskReg g.a)) s := rfl
theorem exec_mlen : exec (.mlen g) s =
    maskOp (.mlen g) g.d [] (fun s => BitVec.ofNat 4096 (2 ^ min (s.sreg g.a).toNat 4096 - 1)) s := rfl
end

/-- Counting set bits below L counts the positions that hold one. -/
theorem setBelow_eq (b : BitVec 4096) (n : Nat) : setBelow b n = ((List.range n).filter (fun k => b.getLsbD k)).length := by
  induction n with
  | zero => rfl
  | succ n ih =>
    rw [setBelow, ih, List.range_succ, List.filter_append, List.length_append]
    cases hb : b.getLsbD n <;> simp [hb]

/-- The search from i ends at the first set bit, or at its limit. -/
theorem firstSet_spec (b : BitVec 4096) (i n : Nat) :
    i ≤ firstSet b i n ∧ firstSet b i n ≤ i + n ∧ (∀ k, i ≤ k → k < firstSet b i n → b.getLsbD k = false) ∧
      (firstSet b i n < i + n → b.getLsbD (firstSet b i n) = true) := by
  induction n generalizing i with
  | zero => exact ⟨Nat.le_refl i, Nat.le_refl i, fun k h1 h2 => absurd h2 (by simp only [firstSet]; omega),
      fun h => absurd h (by simp only [firstSet]; omega)⟩
  | succ n ih =>
    rw [firstSet]
    split
    · rename_i hb
      exact ⟨Nat.le_refl i, by omega, fun k h1 h2 => by omega, fun _ => hb⟩
    · rename_i hb
      obtain ⟨h1, h2, h3, h4⟩ := ih (i + 1)
      refine ⟨by omega, by omega, fun k hk hlt => ?_, fun h => h4 (by omega)⟩
      by_cases hki : k = i
      · subst hki
        simpa using hb
      · exact h3 k (by omega) hlt

theorem getLsbD_onesBelow (n : Nat) {k : Nat} (hk : k < 4096) :
    (BitVec.ofNat 4096 (2 ^ min n 4096 - 1)).getLsbD k = decide (k < n) := by
  rw [BitVec.getLsbD_ofNat, Nat.testBit_two_pow_sub_one]
  simp only [hk, decide_true, Bool.true_and]
  exact decide_eq_decide.mpr (by omega)

/-- Writing a mask register clears its marks and leaves the others (R315). -/
theorem State.writeMask_spec (s : State) (k : Fin 8) (b : BitVec 4096) :
    (s.writeMask k.val b).me.masks.get k = b ∧
      (∀ x, x ∈ (s.writeMask k.val b).me.mmarks ↔ x ∈ s.me.mmarks ∧ x / 4096 ≠ k.val) ∧
      ∀ j : Fin 8, j ≠ k → (s.writeMask k.val b).me.masks.get j = s.me.masks.get j := by
  have hw : s.writeMask k.val b = s.setMe { s.me with
      masks := s.me.masks.set k.val b k.isLt
      mmarks := s.me.mmarks.filter (· / 4096 != k.val)
      marked := s.me.marked.filter (· / 4096 != k.val) } := dif_pos k.isLt
  rw [hw, State.me_setMe]
  refine ⟨by simp [Vector.get_eq_getElem], fun x => by simp [List.mem_filter], fun j hj => ?_⟩
  have hne : k.val ≠ j.val := fun h => hj (Fin.ext h.symm)
  simp [Vector.get_eq_getElem, hne]

/-- Settles O33. -/
theorem maskWords : Obligations.MaskWords := by
  refine ⟨fun s f ha hb => ?_, fun s f => ⟨fun hr hs => ?_, fun hr => ?_, fun hr hs => ?_, fun hr hs => ?_⟩, State.writeMask_spec⟩
  · have hsound : ∀ k, k ∈ [f.a, f.b] → s.me.MaskSound k := by simp [ha, hb]
    exact ⟨fun hr => (exec_mand s f).trans (maskOp_completes hr hsound), fun hr => (exec_mor s f).trans (maskOp_completes hr hsound),
      fun hr => (exec_mxor s f).trans (maskOp_completes hr hsound), fun hr => (exec_mandn s f).trans (maskOp_completes hr hsound)⟩
  · exact (exec_mnot s f).trans (maskOp_completes hr fun k hk => by rwa [List.mem_singleton.mp hk])
  · exact ⟨_, (exec_mlen s f).trans (maskOp_completes hr fun k hk => absurd hk List.not_mem_nil), fun k hk => getLsbD_onesBelow _ hk⟩
  · refine ((exec_mpop f s).trans (maskRead_completes hr hs)).trans ?_
    rw [setBelow_eq]
  · obtain ⟨-, h2, h3, h4⟩ := firstSet_spec (s.maskReg f.a) 0 (s.grantLen s.typeOr)
    rw [Nat.zero_add] at h2 h4
    exact ⟨_, (exec_mfirst f s).trans (maskRead_completes hr hs), h2, fun k hk => h3 k (Nat.zero_le k) hk, h4⟩

end Sys2Proof.Machine

/-!
Plain vector loads (O34) and stores (O35).
-/

namespace Sys2Proof.Machine

set_option Elab.async false

/-! ### Formats and counts -/

/-- The elements of a vector memory word have whole bytes. -/
theorem plainFmt_width {t : VType} {fm : Fmt} (h : plainFmt t = some fm) : fm.width = 8 * (fm.width / 8) := by
  unfold plainFmt at h
  split at h
  · split at h
    · cases h
    · rename_i hne
      cases h
      revert hne
      cases fm <;> decide
  · cases h

theorem activeBelow_succ_of_active {mask : Option (BitVec 4096)} {n : Nat} (h : activeAt mask n = true) :
    activeBelow mask (n + 1) = activeBelow mask n + 1 := by simp only [activeBelow, h, if_true]

theorem activeBelow_succ_of_inactive {mask : Option (BitVec 4096)} {n : Nat} (h : activeAt mask n = false) :
    activeBelow mask (n + 1) = activeBelow mask n := by simp only [activeBelow, h, Bool.false_eq_true, if_false, Nat.add_zero]

/-! ### Loads (R122, R123) -/

theorem State.sectorNat_lt (s : State) (loc n : Nat) : s.sectorNat loc n < 256 ^ n := by
  unfold State.sectorNat
  split
  · exact Nat.mod_lt _ (Nat.pow_pos (by decide))
  · exact viewNat_lt s loc n

theorem State.elemNat_lt (s : State) (fm : Form) (f : Fmt) (whole : Bool) (loc k : Nat) :
    s.elemNat fm f whole loc k < 2 ^ (8 * (f.width / 8)) := by
  rw [Nat.pow_mul]
  unfold State.elemNat
  split
  · exact s.sectorNat_lt _ _
  · exact loadNat_lt s _ _ _

/-- With no load performed ahead an element takes the bytes as the sequencer sees them. -/
theorem State.elemNat_inPlace {s : State} (h : s.me.early = []) (fm : Form) (f : Fmt) (whole : Bool) (loc k : Nat) :
    s.elemNat fm f whole loc k = s.viewNat loc (f.width / 8) := by
  unfold State.elemNat State.sectorNat State.loadNat Seq.earlyAt
  rw [h]
  split <;> rfl

/-- The bits of element k of a load: what an active one takes, else 0. -/
def State.loadedBits (s : State) (fm : Form) (a : Word) (f : Fmt) (whole : Bool) (mask : Option (BitVec 4096)) (k : Nat) : Nat :=
  if activeAt mask k then
    match s.checkAccess s.ctx .load (fm.elemAddr a f mask k).toNat (f.width / 8) with
    | .ok loc => s.elemNat fm f whole loc k
    | .error _ => 0
  else 0

theorem State.loadedBits_active {s : State} {fm : Form} {a : Word} {f : Fmt} {whole : Bool} {mask : Option (BitVec 4096)} {k loc : Nat}
    (ha : activeAt mask k = true) (h : s.checkAccess s.ctx .load (fm.elemAddr a f mask k).toNat (f.width / 8) = .ok loc) :
    s.loadedBits fm a f whole mask k = s.elemNat fm f whole loc k := by
  unfold State.loadedBits
  rw [if_pos ha, h]

theorem State.loadedBits_inactive {s : State} {fm : Form} {a : Word} {f : Fmt} {whole : Bool} {mask : Option (BitVec 4096)} {k : Nat}
    (ha : activeAt mask k = false) : s.loadedBits fm a f whole mask k = 0 := if_neg (by rw [ha]; exact Bool.false_ne_true)

/-- What a load has formed before element n. -/
def State.LoadFormed (s : State) (fm : Form) (a : Word) (f : Fmt) (whole : Bool) (mask : Option (BitVec 4096)) (n : Nat)
    (x : Out × Nat) : Prop :=
  x.1.Holds f.width n (s.loadedBits fm a f whole mask) ∧ x.2 = activeBelow mask n

/-- An element of a load that can be accessed is formed. -/
theorem State.loadElem_forms {s : State} {fm : Form} {a : Word} {f : Fmt} {whole : Bool} {mask : Option (BitVec 4096)} {n lim : Nat}
    {x : Out × Nat} (hw : f.width = 8 * (f.width / 8)) (h : s.Loadable fm a f whole mask lim) (hn : n < lim)
    (hx : s.LoadFormed fm a f whole mask n x) :
    ∃ z, s.loadElem fm a f whole mask n x = .put z ∧ s.LoadFormed fm a f whole mask (n + 1) z := by
  obtain ⟨ho, hk⟩ := hx
  unfold State.loadElem
  simp only []
  cases ha : activeAt mask n with
  | false =>
    refine ⟨_, rfl, ho.push ?_ _, ?_⟩
    · rw [State.loadedBits_inactive ha, Nat.zero_mod]
    · rw [activeBelow_succ_of_inactive ha]
      exact hk
  | true =>
    obtain ⟨hc, loc, hloc, hbad⟩ := h n hn ha
    have haddr : fm.addr a (f.width / 8) n x.2 = fm.elemAddr a f mask n := by rw [hk]; rfl
    have hbad' : (if whole = true then s.sectorBad loc (f.width / 8) else s.loadBad loc (f.width / 8) (fm.key n)) = false := hbad
    simp only [hc, haddr, hloc, hbad', Bool.not_true, Bool.false_eq_true, if_false]
    refine ⟨_, rfl, ho.push ?_ _, ?_⟩
    · rw [State.loadedBits_active ha hloc]
      refine Nat.mod_eq_of_lt ?_
      have hlt := s.elemNat_lt fm f whole loc n
      rwa [← hw] at hlt
    · rw [activeBelow_succ_of_active ha, ← hk]

theorem State.viewNat_of_own {s t : State} (hm : t.mem = s.mem) (ho : ∀ c, t.me.ownByte c = s.me.ownByte c) (loc n : Nat) :
    t.viewNat loc n = s.viewNat loc n := by
  induction n generalizing loc with
  | zero => rfl
  | succ n ih =>
    have hb : t.viewByte loc = s.viewByte loc := by
      unfold State.viewByte State.byte
      rw [hm, ho]
    rw [State.viewNat, State.viewNat, hb, ih]

/-- Which loads an ordered form may take does not change what the sequencer sees. -/
theorem State.viewNat_inOrder (s : State) (fm : Form) (a : Word) (sz : Nat) (mask : Option (BitVec 4096)) (n loc k : Nat) :
    (s.inOrder fm a sz mask n).viewNat loc k = s.viewNat loc k := by
  unfold State.inOrder
  split
  · rfl
  · refine State.viewNat_of_own (s := s) (t := s.setMe _) rfl (fun c => ?_) loc k
    rw [State.me_setMe]
    rfl

/-- The state in which the elements of a load are read: an ordered form takes only loads performed ahead in order. -/
def State.readsFrom (s : State) (asc : Bool) (fm : Form) (a : Word) (sz : Nat) (mask : Option (BitVec 4096)) (n : Nat) : State :=
  if asc then s.inOrder fm a sz mask n else s

theorem State.viewNat_readsFrom (s : State) (asc : Bool) (fm : Form) (a : Word) (sz : Nat) (mask : Option (BitVec 4096)) (n loc k : Nat) :
    (s.readsFrom asc fm a sz mask n).viewNat loc k = s.viewNat loc k := by
  unfold State.readsFrom
  split
  · exact s.viewNat_inOrder ..
  · rfl

/-- A load whose active elements can be accessed completes (R122, R123). -/
theorem loadVec_completes {s : State} {t : VType} {fmt : Fmt} {i : Instr} {asc : Bool} {group : VType → Bool} {d a : Reg} {m : Mask3}
    {form : VType → State → Form} {fm : Form} (hexec : exec i s = runG i group (loadVec asc form d a m) s)
    (hform : form t s.due = fm) (hr : s.Ready i group) (ht : s.me.vt = some t) (hf : plainFmt t = some fmt)
    (hm : s.due.maskCheck m = .ok ()) :
    let u := s.due
    let W := fmt.width
    let mask := u.maskOf m
    let v := u.readsFrom asc fm (s.sreg a) (W / 8) mask (u.grantLen t)
    let whole := !asc && fm.bySector (W / 8) mask
    v.Loadable fm (s.sreg a) fmt whole mask (loopLimit (u.grantLen t) fm.lims) →
      ∃ n gs o,
        elemLoop (u.grantLen t) fm.lims mask (v.loadElem fm (s.sreg a) fmt whole mask) (Out.zero, 0) =
          .ok (n, gs, o, activeBelow mask n) ∧
        exec i s = .next (((u.finish t.g d.val o n
          ⟨n, n, if fm = .once then (if activeBelow mask n = 0 then 0 else W) else W * activeBelow mask n, fm.gb n,
            o.used, gs⟩).loaded (v.elemAccesses fm (s.sreg a) (W / 8) whole mask n)).retire i .seq) ∧
        o.used = W * n ∧
        ∀ k, k < n → (activeAt mask k = false → o.bits / 2 ^ (W * k) % 2 ^ W = 0) ∧
          (activeAt mask k = true → ∀ loc,
            v.checkAccess v.ctx .load (fm.elemAddr (s.sreg a) fmt mask k).toNat (W / 8) = .ok loc →
            o.bits / 2 ^ (W * k) % 2 ^ W = v.elemNat fm fmt whole loc k ∧
            (v.me.early = [] → v.elemNat fm fmt whole loc k = u.viewNat loc (W / 8))) := by
  intro u W mask v whole hload
  obtain ⟨n, gs, ⟨o, k⟩, hrun, ho, hk⟩ := elemLoop_ok (L := u.grantLen t) (lims := fm.lims) (mask := mask)
    (form := v.loadElem fm (s.sreg a) fmt whole mask) (x := (Out.zero, 0)) (v.LoadFormed fm (s.sreg a) fmt whole mask)
    ⟨Out.Holds.zero _ _, rfl⟩ fun n x hn hx => .inl (State.loadElem_forms (plainFmt_width hf) hload hn hx)
  simp only [] at hk
  subst hk
  refine ⟨n, gs, o, hrun, hexec.trans (runG_done hr ?_), ho.used, fun k hk => ⟨fun ha => ?_, fun ha loc hloc => ⟨?_, fun he => ?_⟩⟩⟩
  · have htype : s.due.typeOr = t := by simp [State.typeOr, ht]
    have hloop := hrun
    unfold loadVec
    simp only [u, W, mask, v, whole, State.readsFrom] at hloop
    simp only [htype, hf, hm, hform, show s.due.sreg a = s.sreg a from rfl, hloop, u, W, mask, v, whole, State.readsFrom]
    cases fm <;> rfl
  · rw [ho.elem k hk, State.loadedBits_inactive ha]
  · rw [ho.elem k hk, State.loadedBits_active ha hloc]
  · rw [State.elemNat_inPlace he, State.viewNat_readsFrom]

section
variable (s : State) (f : V2) (g : V3)
theorem exec_vld : exec (.vld f) s = run (.vld f) (fun s =>
    if s.typeOr.fam = .plain .eb ∧ f.m.val = 0 then loadEb s.typeOr f.d f.a s
    else loadVec false unitForm f.d f.a f.m s) s := rfl
theorem exec_vldo : exec (.vldo f) s = runG (.vldo f) noGroup (loadVec true unitForm f.d f.a f.m) s := rfl
theorem exec_vldb : exec (.vldb f) s = runG (.vldb f) noGroup (loadVec false (fun _ _ => .once) f.d f.a f.m) s := rfl
theorem exec_vlds : exec (.vlds g) s = runG (.vlds g) noGroup (loadVec false (strideForm g.b) g.d g.a g.m) s := rfl
theorem exec_vldso : exec (.vldso g) s = runG (.vldso g) noGroup (loadVec true (strideForm g.b) g.d g.a g.m) s := rfl
theorem exec_vldx : exec (.vldx g) s = runG (.vldx g) (indexOk g.b) (loadVec false (indexForm g.b) g.d g.a g.m) s := rfl
theorem exec_vldxo : exec (.vldxo g) s = runG (.vldxo g) (indexOk g.b) (loadVec true (indexForm g.b) g.d g.a g.m) s := rfl
end

theorem unitForm_eq {t : VType} {fm : Fmt} (h : plainFmt t = some fm) (s : State) :
    unitForm t s = .stride (BitVec.ofNat 64 (fm.width / 8)) := by
  unfold unitForm
  rw [h]

/-- A plain type is not eb: vld runs as the other loads do. -/
theorem exec_vld_plain {s : State} {t : VType} {fm : Fmt} (f : V2) (ht : s.me.vt = some t) (h : plainFmt t = some fm)
    (hr : s.Ready (.vld f)) : exec (.vld f) s = runG (.vld f) noGroup (loadVec false unitForm f.d f.a f.m) s := by
  have hne : ¬(s.due.typeOr.fam = .plain .eb ∧ f.m.val = 0) := by
    intro hcon
    have htype : s.due.typeOr = t := by simp [State.typeOr, ht]
    rw [htype] at hcon
    unfold plainFmt at h
    rw [hcon.1] at h
    cases h
  refine (exec_vld s f).trans ?_
  rw [run_ready hr, runG_ready hr, if_neg hne]

/-! ### eb blocks (R121) -/

/-- A loop without limits, mask and full destination comes to L. -/
theorem elemLoop_reaches_end {σ : Type} {L n gs : Nat} {form : Nat → σ → Formed σ} {x y : σ}
    (h : elemLoop L [] none form x = .ok (n, gs, y)) (hfull : ∀ n y, form n y ≠ .full) : n = L ∧ gs = 0 := by
  have hall := elemLoop_answer L [] none form x
  rw [h] at hall
  obtain ⟨-, -, -, hstop⟩ := hall
  rcases hstop with ⟨hg, hl, -⟩ | ⟨-, -, l, hl, -⟩ | ⟨-, -, l, hl, -⟩ | ⟨-, -, -, hm, -⟩ | ⟨-, -, -, -, hf⟩
  · exact ⟨hl, hg⟩
  · exact absurd hl List.not_mem_nil
  · exact absurd hl List.not_mem_nil
  · cases hm
  · exact absurd hf (hfull n y)

theorem vldEb_completes {s : State} {t : VType} {f : V2} {o : Out} (hr : s.Ready (.vld f)) (ht : s.me.vt = some t)
    (hfam : t.fam = .plain .eb) (hm : f.m = 0) :
    let u := s.due
    let n := u.grantLen t
    u.loadBlocks (s.sreg f.a) 0 Out.zero (blocksFor n) = .ok o →
      exec (.vld f) s = .next (((u.finish t.g f.d.val o n ⟨n, n, o.used, 0, o.used, 0⟩).loadedFrom (u.sectorAccess · 1) (s.sreg f.a).toNat
        (10 * blocksFor n)).retire (.vld f) .seq) := by
  intro u n hload
  refine (exec_vld s f).trans (run_done hr ?_)
  have htype : s.due.typeOr = t := by simp [State.typeOr, ht]
  obtain ⟨k, gs, y, hrun⟩ := elemLoop_forms (s.due.grantLen t) [] none (fun _ x => Formed.put x) () fun n y _ => .inl ⟨y, rfl⟩
  obtain ⟨rfl, rfl⟩ := elemLoop_reaches_end hrun fun n y h => by cases h
  have hload' : s.due.loadBlocks (s.due.sreg f.a) 0 Out.zero (blocksFor (s.due.grantLen t)) = .ok o := hload
  rw [if_pos ⟨by rw [htype, hfam], by rw [hm]; rfl⟩, htype]
  unfold loadEb
  simp only [hrun, hload']
  rfl

/-- Settles O34. -/
theorem vectorLoads : Obligations.VectorLoads := by
  refine ⟨fun s t fm f => ⟨?_, ?_, ?_⟩, fun s t fm f => ⟨?_, ?_, ?_, ?_⟩, fun s t f o => vldEb_completes⟩
  · exact fun hr ht hf => loadVec_completes (exec_vld_plain f ht hf hr) (unitForm_eq hf _) hr ht hf
  · exact fun hr ht hf => loadVec_completes (exec_vldo s f) (unitForm_eq hf _) hr ht hf
  · exact fun hr ht hf => loadVec_completes (exec_vldb s f) rfl hr ht hf
  · exact fun hr ht hf => loadVec_completes (exec_vlds s f) rfl hr ht hf
  · exact fun hr ht hf => loadVec_completes (exec_vldso s f) rfl hr ht hf
  · exact fun hr ht hf => loadVec_completes (exec_vldx s f) rfl hr ht hf
  · exact fun hr ht hf => loadVec_completes (exec_vldxo s f) rfl hr ht hf

/-! ### Stores (R110, R122, R123) -/

/-- What a store has formed before element n. -/
def State.StoreFormed (s : State) (fm : Form) (a : Word) (x : Src) (f : Fmt) (mask : Option (BitVec 4096)) (n : Nat)
    (st : SMap BufSector × Nat) : Prop := st = (s.stored fm a x f mask n, activeBelow mask n)

/-- An element of a store that can be stored is formed. -/
theorem State.storeElem_forms {s : State} {fm : Form} {a : Word} {x : Src} {f : Fmt} {mask : Option (BitVec 4096)} {n lim : Nat}
    {st : SMap BufSector × Nat} (h : s.Storable fm a x f mask lim) (hn : n < lim) (hst : s.StoreFormed fm a x f mask n st) :
    ∃ z, s.storeElem fm a x f mask n st = .put z ∧ s.StoreFormed fm a x f mask (n + 1) z := by
  obtain rfl := hst
  unfold State.storeElem State.StoreFormed
  simp only [State.stored]
  cases ha : activeAt mask n with
  | false => exact ⟨_, rfl, by rw [activeBelow_succ_of_inactive ha]⟩
  | true =>
    obtain ⟨hc, loc, hloc, hroom, hm⟩ := h n hn ha
    have haddr : fm.addr a (f.width / 8) n (activeBelow mask n) = fm.elemAddr a f mask n := rfl
    simp only [hc, haddr, hloc, hroom, Src.check_clean hm, Bool.not_true, Bool.false_eq_true, if_false,
      activeBelow_succ_of_active ha]
    exact ⟨_, rfl, rfl⟩

/-- A store whose active elements can be stored completes (R122, R123). -/
theorem storeVec_completes {s : State} {t : VType} {fmt : Fmt} {i : Instr} {asc : Bool} {group : VType → Bool} {d a : Reg} {m : Mask3}
    {form : VType → State → Form} {fm : Form} (hexec : exec i s = runG i group (storeVec asc form d a m) s)
    (hform : form t s.due = fm) (hr : s.Ready i group) (ht : s.me.vt = some t) (hf : plainFmt t = some fmt)
    (hm : s.due.maskCheck m = .ok ()) :
    let u := s.due
    let W := fmt.width
    let mask := u.maskOf m
    let x := u.srcOf (.plain fmt) t.g d.val
    let lims := x.count :: fm.lims
    u.Storable fm (s.sreg a) x fmt mask (loopLimit (u.grantLen t) lims) →
      ∃ n gs,
        elemLoop (u.grantLen t) lims mask (u.storeElem fm (s.sreg a) x fmt mask) ([], 0) =
          .ok (n, gs, u.stored fm (s.sreg a) x fmt mask n, activeBelow mask n) ∧
        exec i s = .next (((u.storeElems asc fm (s.sreg a) (W / 8) mask n (u.stored fm (s.sreg a) x fmt mask n)).report
          ⟨n, if fm = .packed then activeBelow mask n else n, W * n, fm.gb n, W * activeBelow mask n, gs⟩).retire i .seq) := by
  intro u W mask x lims hstore
  obtain ⟨n, gs, st, hrun, hst⟩ := elemLoop_ok (L := u.grantLen t) (lims := lims) (mask := mask)
    (form := u.storeElem fm (s.sreg a) x fmt mask) (x := ([], 0)) (u.StoreFormed fm (s.sreg a) x fmt mask) rfl
    fun n st hn hst => .inl (State.storeElem_forms hstore hn hst)
  obtain rfl := hst
  refine ⟨n, gs, hrun, hexec.trans (runG_done hr ?_)⟩
  have htype : s.due.typeOr = t := by simp [State.typeOr, ht]
  have hloop := hrun
  unfold storeVec
  simp only [u, mask, x, lims] at hloop
  simp only [htype, hf, hm, hform, show s.due.sreg a = s.sreg a from rfl, hloop, u, W, mask, x]
  cases fm <;> rfl

section
variable (s : State) (f : V2) (g : V3)
theorem exec_vst : exec (.vst f) s = run (.vst f) (fun s =>
    if s.typeOr.fam = .plain .eb ∧ f.m.val = 0 then storeEb s.typeOr f.d f.a s
    else storeVec false unitForm f.d f.a f.m s) s := rfl
theorem exec_vsto : exec (.vsto f) s = runG (.vsto f) noGroup (storeVec true unitForm f.d f.a f.m) s := rfl
theorem exec_vstc : exec (.vstc f) s = runG (.vstc f) noGroup (storeVec false (fun _ _ => .packed) f.d f.a f.m) s := rfl
theorem exec_vsts : exec (.vsts g) s = runG (.vsts g) noGroup (storeVec false (strideForm g.b) g.d g.a g.m) s := rfl
theorem exec_vstso : exec (.vstso g) s = runG (.vstso g) noGroup (storeVec true (strideForm g.b) g.d g.a g.m) s := rfl
theorem exec_vstx : exec (.vstx g) s = runG (.vstx g) (indexOk g.b) (storeVec false (indexForm g.b) g.d g.a g.m) s := rfl
theorem exec_vstxo : exec (.vstxo g) s = runG (.vstxo g) (indexOk g.b) (storeVec true (indexForm g.b) g.d g.a g.m) s := rfl
end

theorem exec_vst_plain {s : State} {t : VType} {fm : Fmt} (f : V2) (ht : s.me.vt = some t) (h : plainFmt t = some fm)
    (hr : s.Ready (.vst f)) : exec (.vst f) s = runG (.vst f) noGroup (storeVec false unitForm f.d f.a f.m) s := by
  have hne : ¬(s.due.typeOr.fam = .plain .eb ∧ f.m.val = 0) := by
    intro hcon
    have htype : s.due.typeOr = t := by simp [State.typeOr, ht]
    rw [htype] at hcon
    unfold plainFmt at h
    rw [hcon.1] at h
    cases h
  refine (exec_vst s f).trans ?_
  rw [run_ready hr, runG_ready hr, if_neg hne]

theorem vstEb_completes {s : State} {t : VType} {f : V2} {buf : SMap BufSector} :
    let u := s.due
    let x := u.srcOf (.plain .eb) t.g f.d.val
    let n := min (u.grantLen t) x.count
    s.Ready (.vst f) → s.me.vt = some t → t.fam = .plain .eb → f.m = 0 →
    u.storeBlocks (s.sreg f.a) x 0 [] (blocksFor n) = .ok buf →
      ∃ gs, gs = (if x.count < u.grantLen t then 2 else if u.grantLen t < x.count then 3 else 0) ∧
        exec (.vst f) s = .next (((u.storeRow buf).report ⟨n, n, 80 * blocksFor n, 0, 80 * blocksFor n, gs⟩).retire (.vst f) .seq) := by
  intro u x n hr ht hfam hm hstore
  have htype : s.due.typeOr = t := by simp [State.typeOr, ht]
  obtain ⟨k, gs, y, hrun⟩ := elemLoop_forms (u.grantLen t) [x.count] none (fun _ x => Formed.put x) () fun n y _ => .inl ⟨y, rfl⟩
  obtain ⟨hk, hgs⟩ := elemLoop_reaches_limit hrun fun n y h => by cases h
  obtain rfl : k = n := hk
  refine ⟨gs, hgs, (exec_vst s f).trans (run_done hr ?_)⟩
  rw [if_pos ⟨by rw [htype, hfam], by rw [hm]; rfl⟩, htype]
  unfold storeEb
  simp only [u, x] at hrun
  simp only [hrun, show s.due.sreg f.a = s.sreg f.a from rfl]
  simp only [u, x] at hstore
  simp only [hstore]
  rfl

/-! ### How a store's accesses are noted (R255, log 2) -/

theorem SMap.put_put {α : Type} (m : SMap α) (k : Nat) (u v : α) : SMap.put (SMap.put m k u) k v = SMap.put m k v := by
  induction m with
  | nil => simp [SMap.put]
  | cons h t ih =>
    obtain ⟨j, w⟩ := h
    by_cases h1 : k < j
    · simp [SMap.put, h1]
    · by_cases h2 : j = k
      · subst h2
        simp [SMap.put]
      · simp [SMap.put, h1, h2, ih]

theorem State.setMe_setMe (s : State) (m n : Seq) : (s.setMe m).setMe n = s.setMe n := by
  unfold State.setMe State.setSeq
  simp only [SMap.put_put]

/-- Two ways to note the accesses of one store differ in the notes alone. -/
theorem State.storeAs_notes (s : State) (x y : StoreShape) (b : SMap BufSector) :
    (s.storeAs x b).setMe { (s.storeAs x b).me with shapes := [] } = (s.storeAs y b).setMe { (s.storeAs y b).me with shapes := [] } := by
  unfold State.storeAs
  cases s.me.strip with
  | none => rfl
  | some st => simp only [State.setMe_setMe, State.me_setMe]

/-- Settles O35. -/
theorem vectorStores : Obligations.VectorStores := by
  refine ⟨fun s t fm f => ⟨?_, ?_, ?_⟩, fun s t fm f => ⟨?_, ?_, ?_, ?_⟩, fun s t f buf => vstEb_completes, ?_⟩
  · exact fun hr ht hf => storeVec_completes (exec_vst_plain f ht hf hr) (unitForm_eq hf _) hr ht hf
  · exact fun hr ht hf => storeVec_completes (exec_vsto s f) (unitForm_eq hf _) hr ht hf
  · exact fun hr ht hf => storeVec_completes (exec_vstc s f) rfl hr ht hf
  · exact fun hr ht hf => storeVec_completes (exec_vsts s f) rfl hr ht hf
  · exact fun hr ht hf => storeVec_completes (exec_vstso s f) rfl hr ht hf
  · exact fun hr ht hf => storeVec_completes (exec_vstx s f) rfl hr ht hf
  · exact fun hr ht hf => storeVec_completes (exec_vstxo s f) rfl hr ht hf
  · intro s b shape asc fm a sz mask n plain
    refine ⟨s.storeAs_notes _ _ b, s.storeAs_notes _ _ b, ?_⟩
    unfold State.storeElems
    split <;> exact s.storeAs_notes _ _ b

end Sys2Proof.Machine

/-!
The stream instructions (O37).
-/

namespace Sys2Proof.Machine

set_option Elab.async false

/-! ### The bits of a stream (R116) -/

theorem State.streamBits_lt (s : State) (b n : Nat) : s.streamBits b n < 2 ^ n := by
  induction n with
  | zero => exact Nat.one_pos
  | succ n ih =>
    rw [State.streamBits, Nat.pow_succ]
    split <;> omega

/-- Stream bits in two runs. -/
theorem State.streamBits_add (s : State) (b m n : Nat) :
    s.streamBits b (m + n) = s.streamBits b m + s.streamBits (b + m) n * 2 ^ m := by
  induction n with
  | zero => simp [State.streamBits]
  | succ n ih =>
    rw [← Nat.add_assoc, State.streamBits, ih, State.streamBits, Nat.add_mul, Nat.add_assoc, ← Nat.add_assoc b m n]
    congr 2
    split
    · rw [Nat.pow_add, Nat.mul_comm]
    · rw [Nat.zero_mul]

/-- What has been read of the stream at bit `a` before element n: its codes up to there, within the budget. -/
structure State.StreamRead (s : State) (k : Coding) (a : Nat) (budget : Option Nat) (n : Nat) (o : Out) : Prop where
  pos : a + o.used = s.streamPos k a n
  bits : o.bits = s.streamBits a o.used
  room : ∀ b, budget = some b → o.used ≤ b

/-- Reading one more code: it is appended, or does not fit the budget. -/
theorem State.takeCode_forms {s : State} {k : Coding} {a lim : Nat} {budget : Option Nat} {n : Nat} {o : Out} (h : s.Codes k a lim)
    (hn : n < lim) (ho : s.StreamRead k a budget n o) :
    (∃ z, s.takeCode k a budget n o = .put z ∧ s.StreamRead k a budget (n + 1) z) ∨
      (s.takeCode k a budget n o = .full ∧ ∃ b, budget = some b ∧ b < s.streamPos k a (n + 1) - a) := by
  obtain ⟨⟨c, hc, hcheck⟩, hgood⟩ := h n hn
  obtain ⟨hpos, hbits, hroom⟩ := ho
  have hnext : s.streamPos k a (n + 1) = s.streamPos k a n + codeLen k c := by simp only [State.streamPos, hc]
  rw [← hpos] at hc hcheck hgood hnext
  unfold State.takeCode
  simp only [hc, hcheck]
  by_cases hover : overBudget budget (o.used + codeLen k c) = true
  · rw [if_pos hover]
    refine .inr ⟨rfl, ?_⟩
    cases budget with
    | none => cases hover
    | some b =>
      refine ⟨b, rfl, ?_⟩
      have hlt : b < o.used + codeLen k c := of_decide_eq_true hover
      omega
  · rw [if_neg hover]
    have hput : s.StreamRead k a budget (n + 1) (o.push (s.streamBits (a + o.used) (codeLen k c)) (codeLen k c) noFlags) := by
      refine ⟨?_, ?_, fun b hb => ?_⟩
      · rw [hnext, Out.push, Nat.add_assoc]
      · simp only [Out.push, Nat.mod_eq_of_lt (s.streamBits_lt _ _), State.streamBits_add, hbits]
      · subst hb
        simp only [overBudget, decide_eq_true_eq, not_lt] at hover
        exact hover
    refine .inl ⟨_, ?_, hput⟩
    cases hdec : decodeCode k s.streamBit (a + o.used) with
    | malformed => exact absurd hdec hgood
    | int v => rfl
    | num v => rfl

/-! ### The instructions -/

section
variable (s : State) (f : R3) (g : R2)
theorem exec_zld : exec (.zld f) s = run (.zld f) (coded (fun t k s =>
    if 2 ^ 60 ≤ (s.sreg f.a).toNat then .trap ⟨Cause.addressRange, 0, (s.sreg f.a).toNat, none⟩ s
    else
      match elemLoop (s.grantLen t) [(s.sreg f.b).toNat] none (s.takeCode k (s.sreg f.a).toNat (some (t.budget s.gang))) Out.zero with
      | .error e => .trap e s
      | .ok (n, gs, o) => .done .seq ((s.finish t.g f.d.val o n ⟨n, n, o.used, 0, o.used, gs⟩).loadedStream
          (s.sreg f.a).toNat o.used))) s := rfl
theorem exec_zskip : exec (.zskip f) s = run (.zskip f) (coded (fun t k s =>
    if 2 ^ 60 ≤ (s.sreg f.a).toNat then .trap ⟨Cause.addressRange, 0, (s.sreg f.a).toNat, none⟩ s
    else
      match elemLoop (s.grantLen t) [(s.sreg f.b).toNat] none (s.takeCode k (s.sreg f.a).toNat none) Out.zero with
      | .error e => .trap e s
      | .ok (n, gs, o) => .done .seq (((s.setS f.d (BitVec.ofNat 64 ((s.sreg f.a).toNat + o.used))).report
          ⟨n, 0, o.used, 0, 0, gs⟩).loadedStream (s.sreg f.a).toNat o.used))) s := rfl
theorem exec_zfind : exec (.zfind g) s = run (.zfind g) (coded (fun t k s =>
    match elemLoop (s.grantLen t) [(s.srcOf (.code k) t.g g.a.val).count] none (s.srcOf (.code k) t.g g.a.val).offset Out.zero with
    | .error e => .trap e s
    | .ok (n, gs, o) => .done .seq (s.finish t.g g.d.val o n
        ⟨n, n, (s.srcOf (.code k) t.g g.a.val).start n, 0, 16 * n, gs⟩))) s := rfl
theorem exec_zst : exec (.zst g) s = execZst g s := rfl
end

/-- The frame of a stream instruction under a coded type. -/
theorem coded_ready {s : State} {t : VType} {k : Coding} (ht : s.me.vt = some t) (hl : s.due.layout t = .code k)
    (body : VType → Coding → State → Res) : coded body s.due = body t k s.due := by
  have htype : s.due.typeOr = t := by simp [State.typeOr, ht]
  unfold coded
  simp only [htype, hl]

/-- A stream instruction under a plain type (R116 to R119). -/
theorem coded_plain {s : State} {t : VType} {p : Fmt} (ht : s.me.vt = some t) (hp : t.fam = .plain p)
    (body : VType → Coding → State → Res) : coded body s.due = .trap (Trap.plain Cause.illegalType) s.due := by
  have htype : s.due.typeOr = t := by simp [State.typeOr, ht]
  unfold coded
  simp only [htype, s.due.layout_plain hp]

theorem zld_completes {s : State} {t : VType} {k : Coding} {f : R3} (ht : s.me.vt = some t) (hl : s.due.layout t = .code k)
    (hr : s.Ready (.zld f)) :
    let u := s.due
    let a := (s.sreg f.a).toNat
    let lim := loopLimit (u.grantLen t) [(s.sreg f.b).toNat]
    let ends (count : Nat) : Nat := if count < u.grantLen t then 2 else if u.grantLen t < count then 3 else 0
    a < 2 ^ 60 → u.Codes k a lim →
      ∃ n gs o, o.used = u.streamPos k a n - a ∧ o.bits = u.streamBits a o.used ∧ o.used ≤ t.budget u.gang ∧
        exec (.zld f) s = .next (((u.finish t.g f.d.val o n ⟨n, n, o.used, 0, o.used, gs⟩).loadedStream a o.used).retire (.zld f) .seq) ∧
        (gs = gsFull → n < lim ∧ t.budget u.gang < u.streamPos k a (n + 1) - a) ∧
        (gs ≠ gsFull → n = lim ∧ gs = ends (s.sreg f.b).toNat) := by
  intro u a lim ends ha hcodes
  obtain ⟨n, gs, o, hrun, ho⟩ := elemLoop_ok (L := u.grantLen t) (lims := [(s.sreg f.b).toNat]) (mask := none)
    (form := u.takeCode k a (some (t.budget u.gang))) (x := Out.zero) (u.StreamRead k a (some (t.budget u.gang)))
    ⟨rfl, rfl, fun b _ => Nat.zero_le b⟩ fun n o hn ho => (State.takeCode_forms hcodes hn ho).imp id And.left
  refine ⟨n, gs, o, by have := ho.pos; omega, ho.bits, ho.room _ rfl, (exec_zld s f).trans (run_done hr ?_), fun hg => ?_, fun hg => ?_⟩
  · rw [coded_ready ht hl]
    simp only [show s.due.sreg f.a = s.sreg f.a from rfl, show s.due.sreg f.b = s.sreg f.b from rfl]
    rw [if_neg (by omega)]
    simp only [u, a] at hrun
    simp only [hrun, u, a]
  · rcases elemLoop_unmasked hrun with ⟨-, hlt, hfull⟩ | ⟨-, hend⟩
    · refine ⟨hlt, ?_⟩
      rcases State.takeCode_forms hcodes hlt ho with ⟨z, hz, -⟩ | ⟨-, b, hb, hlt⟩
      · rw [hfull] at hz
        cases hz
      · cases hb
        exact hlt
    · rw [hg] at hend
      exfalso
      revert hend
      split
      · decide
      · split <;> decide
  · exact (elemLoop_unmasked hrun).resolve_left fun h => hg h.1

theorem zskip_completes {s : State} {t : VType} {k : Coding} {f : R3} (ht : s.me.vt = some t) (hl : s.due.layout t = .code k)
    (hr : s.Ready (.zskip f)) :
    let u := s.due
    let a := (s.sreg f.a).toNat
    let lim := loopLimit (u.grantLen t) [(s.sreg f.b).toNat]
    let ends (count : Nat) : Nat := if count < u.grantLen t then 2 else if u.grantLen t < count then 3 else 0
    a < 2 ^ 60 → u.Codes k a lim →
      exec (.zskip f) s = .next ((((u.setS f.d (BitVec.ofNat 64 (u.streamPos k a lim))).report
        ⟨lim, 0, u.streamPos k a lim - a, 0, 0, ends (s.sreg f.b).toNat⟩).loadedStream a (u.streamPos k a lim - a)).retire
          (.zskip f) .seq) := by
  intro u a lim ends ha hcodes
  obtain ⟨n, gs, o, hrun, ho⟩ := elemLoop_ok (L := u.grantLen t) (lims := [(s.sreg f.b).toNat]) (mask := none)
    (form := u.takeCode k a none) (x := Out.zero) (u.StreamRead k a none) ⟨rfl, rfl, fun b hb => by cases hb⟩
    fun n o hn ho => (State.takeCode_forms hcodes hn ho).imp id And.left
  rcases elemLoop_unmasked hrun with ⟨-, hlt, hfull⟩ | ⟨hn, hend⟩
  · rcases State.takeCode_forms hcodes hlt ho with ⟨z, hz, -⟩ | ⟨-, b, hb, -⟩
    · rw [hfull] at hz
      cases hz
    · cases hb
  · obtain rfl : n = lim := hn
    have hused : o.used = u.streamPos k a lim - a := by have := ho.pos; omega
    rw [← ho.pos] at *
    rw [Nat.add_sub_cancel_left]
    refine (exec_zskip s f).trans (run_done hr ?_)
    rw [coded_ready ht hl]
    simp only [show s.due.sreg f.a = s.sreg f.a from rfl, show s.due.sreg f.b = s.sreg f.b from rfl]
    rw [if_neg (by omega)]
    simp only [u, a] at hrun
    simp only [hrun, u, a, hend, ends]

theorem Src.offset_clean {x : Src} {n : Nat} (h : x.marked n = false) (o : Out) :
    x.offset n o = .put (o.push (x.start n % 65536) 16 noFlags) := by
  unfold Src.offset
  simp only [Src.check_clean h]

theorem Src.offset_ne_full (x : Src) (n : Nat) (o : Out) : x.offset n o ≠ .full := by
  unfold Src.offset
  split <;> exact fun h => by cases h

theorem zfind_completes {s : State} {t : VType} {k : Coding} {f : R2} (ht : s.me.vt = some t) (hl : s.due.layout t = .code k)
    (hr : s.Ready (.zfind f)) :
    let u := s.due
    let x := u.srcOf (.code k) t.g f.a.val
    let lim := loopLimit (u.grantLen t) [x.count]
    x.Clean lim →
      ∃ gs o, gs = (if x.count < u.grantLen t then 2 else if u.grantLen t < x.count then 3 else 0) ∧ o.used = 16 * lim ∧
        (∀ j, j < lim → o.bits / 2 ^ (16 * j) % 2 ^ 16 = x.start j % 65536) ∧
        exec (.zfind f) s =
          .next ((u.finish t.g f.d.val o lim ⟨lim, lim, x.start lim, 0, 16 * lim, gs⟩).retire (.zfind f) .seq) := by
  intro u x lim hclean
  obtain ⟨n, gs, o, hrun, ho⟩ := elemLoop_ok (L := u.grantLen t) (lims := [x.count]) (mask := none) (form := x.offset)
    (x := Out.zero) (fun n (o : Out) => o.Holds 16 n (fun j => x.start j % 65536)) (Out.Holds.zero _ _)
    fun n o hn ho => .inl ⟨_, Src.offset_clean (hclean n hn) o, ho.push (Nat.mod_mod _ _) _⟩
  obtain ⟨hn, hgs⟩ := elemLoop_reaches_limit hrun x.offset_ne_full
  obtain rfl : n = lim := hn
  refine ⟨gs, o, hgs, ho.used, ho.elem, (exec_zfind s f).trans (run_done hr ?_)⟩
  rw [coded_ready ht hl]
  simp only [u, x] at hrun
  simp only [hrun, u, x]

/-- Settles O37. -/
theorem streamWords : Obligations.StreamWords := by
  refine ⟨fun s t k f => ?_, fun s t k f => ?_, fun s t p i hi hr ht hp => ?_⟩
  · intro u a lim ends ht hl
    refine ⟨fun hr => zld_completes ht hl hr, fun hr => zskip_completes ht hl hr, fun i hi hr ha => ?_⟩
    rcases List.mem_cons.mp hi with rfl | hi
    · refine (exec_zld s f).trans (run_trap hr ?_ (show Cause.addressRange ≠ Cause.held by decide))
      rw [coded_ready ht hl]
      exact if_pos ha
    · obtain rfl := List.mem_singleton.mp hi
      refine (exec_zskip s f).trans (run_trap hr ?_ (show Cause.addressRange ≠ Cause.held by decide))
      rw [coded_ready ht hl]
      exact if_pos ha
  · intro u a x y lim len n ht hl
    refine ⟨fun hr => zfind_completes ht hl hr, fun hr hlen => ?_, fun hr hlen ha hcheck hmarks => ?_, fun hr hlen ha => ?_⟩
    · refine (exec_zst s f).trans (run_done hr ?_)
      rw [coded_ready ht hl]
      simp only [show fillLen s.due.me f.d.val = 0 from hlen, if_true]
      rfl
    · refine (exec_zst s f).trans (run_done hr ?_)
      rw [coded_ready ht hl]
      simp only []
      rw [if_neg (show ¬fillLen s.due.me f.d.val = 0 from Nat.ne_of_gt hlen), if_neg (show ¬2 ^ 60 ≤ (s.due.sreg f.a).toNat from Nat.not_le.mpr ha)]
      have hcheck' : s.due.zstCheck (s.due.sreg f.a).toNat ((s.due.sreg f.a).toNat / 8) ((s.due.sreg f.a).toNat / 8 / 32) []
          (((s.due.sreg f.a).toNat + fillLen s.due.me f.d.val - 1) / 8 / 32 - (s.due.sreg f.a).toNat / 8 / 32 + 1) = .ok () := hcheck
      have hmarks' : (s.due.srcOf (.code k) t.g f.d.val).marks = [] := hmarks
      simp only [hcheck', hmarks', List.any_nil, Bool.false_eq_true, if_false]
      rfl
    · refine (exec_zst s f).trans (run_trap hr ?_ (show Cause.addressRange ≠ Cause.held by decide))
      rw [coded_ready ht hl]
      simp only []
      rw [if_neg (show ¬fillLen s.due.me f.d.val = 0 from Nat.ne_of_gt hlen), if_pos (show 2 ^ 60 ≤ (s.due.sreg f.a).toNat from ha)]
      rfl
  · rcases hi with ⟨f, rfl | rfl⟩ | ⟨f, rfl | rfl⟩
    · exact (exec_zld s f).trans (run_trap hr (coded_plain ht hp _))
    · exact (exec_zskip s f).trans (run_trap hr (coded_plain ht hp _))
    · exact (exec_zfind s f).trans (run_trap hr (coded_plain ht hp _))
    · exact (exec_zst s f).trans (run_trap hr (coded_plain ht hp _))

end Sys2Proof.Machine

/-!
Opening and closing a strip (O38); the type register, the grant file and the class tables (O39).
-/

namespace Sys2Proof.Machine

set_option Elab.async false

/-! ### Strips (R108, R112) -/

/-- A word that waits keeps the state that it answers. -/
theorem run_wait {s t : State} {i : Instr} {body : State → Res} (hr : s.Ready i) (hb : body s.due = .wait t) :
    run i body s = .next { t with waited := true } := by
  rw [run_ready hr, hb]
  rfl

section
variable (s : State) (f : R3) (g : Bare)
theorem exec_strip : exec (.strip f) s = run (.strip f) (fun s =>
    match s.me.vt with
    | none => .trap (Trap.plain Cause.illegalType) s
    | some t =>
      if s.commitStrip.stopPending then .done .stay (s.commitStrip.stopIfAsked 0)
      else if s.commitStrip.swapHolds then .wait s.commitStrip
      else .done .seq (s.commitStrip.openStrip f.d (min (s.sreg f.a).toNat (t.emax s.commitStrip.gang)) (s.sreg f.b))) s := rfl
theorem exec_sclose : exec (.sclose g) s = run (.sclose g) (fun s => .done .seq (s.commitStrip.stopIfAsked 1)) s := rfl
theorem exec_scloseRel : exec (.scloseRel g) s = run (.scloseRel g) (fun s => .done .seq (s.commitStrip.stopIfAsked 1)) s := rfl
end

theorem State.stopIfAsked_none {s : State} (h : s.stopPending = false) (kind : Nat) : s.stopIfAsked kind = s := by
  unfold State.stopIfAsked
  simp only [h, Bool.false_eq_true, if_false]

/-- What opening a strip leaves (R108): the grant, the sampled base, the open strip with its checkpoint. -/
theorem State.openStrip_spec (u : State) (d : Reg) (n : Nat) (base : Word) :
    let v := u.openStrip d n base
    let gl := BitVec.ofNat 64 n
    v.me.grant = ⟨gl, 0, 0, 0, 0, 0, 0⟩ ∧ (d ≠ 0 → v.sreg d = gl) ∧ v.me.ctl.sbase = base ∧
      v.me.ctl.status.getLsbD 7 = true ∧ v.me.truss.tb = none ∧ v.me.vregs = u.me.vregs ∧
      ∃ st, v.me.strip = some st ∧ st.pc = u.me.pc ∧ st.buf = [] ∧ st.journal = [] ∧
        st.ck = ⟨v.me.regs, v.me.loops, v.me.grant, u.me.ctl.status &&& stickyMask, u.me.truss.tx, u.me.pend⟩ := by
  intro v gl
  have hv : v.me = { (({ u.me with
        grant := ⟨gl, 0, 0, 0, 0, 0, 0⟩, ctl := { u.me.ctl with sbase := base } } : Seq).setS d gl) with
      strip := some ⟨u.me.pc, (({ u.me with
        grant := ⟨gl, 0, 0, 0, 0, 0, 0⟩, ctl := { u.me.ctl with sbase := base } } : Seq).setS d gl).checkpoint, [], []⟩
      replay := false
      truss := { u.me.truss with tb := none }
      ctl := { u.me.ctl with sbase := base, status := withInstrip u.me.ctl.status true } } := by
    simp only [v, gl, State.openStrip, State.me_setMe, State.me_setS, State.me_setCtl, State.me_setGrant, Seq.setS_pc, Seq.setS_truss,
      Seq.setS_ctl]
  refine ⟨?_, fun hd => ?_, ?_, ?_, ?_, ?_, ⟨u.me.pc, (({ u.me with
    grant := ⟨gl, 0, 0, 0, 0, 0, 0⟩, ctl := { u.me.ctl with sbase := base } } : Seq).setS d gl).checkpoint, [], []⟩, ?_, rfl, rfl, rfl, ?_⟩
  · rw [hv]
    exact Seq.setS_grant _ _ _
  · unfold State.sreg
    rw [hv]
    have hread := Seq.sreg_setS { u.me with grant := ⟨gl, 0, 0, 0, 0, 0, 0⟩, ctl := { u.me.ctl with sbase := base } } d d gl
    rw [if_pos ⟨rfl, fun h => hd (Fin.ext h)⟩] at hread
    exact hread
  · rw [hv]
  · rw [hv]
    exact withInstrip_getLsbD_7 _ _
  · rw [hv]
  · rw [hv]
    exact Seq.setS_vregs _ _ _
  · rw [hv]
  · rw [hv]
    simp only [Seq.checkpoint, Seq.setS_loops, Seq.setS_grant, Seq.setS_ctl, Seq.setS_truss, Seq.setS_pend]

/-- Settles O38. -/
theorem strips : Obligations.Strips := by
  refine ⟨fun s f t hr ht => ?_, fun s f hr ht => ?_, fun s f i hi hr => ?_⟩
  · intro u gl
    have ht' : s.due.me.vt = some t := ht
    refine ⟨fun hstop hswap => ?_, fun hstop => ?_, fun hstop hswap => ?_, u.openStrip_spec f.d _ _⟩
    · refine (exec_strip s f).trans (run_done hr ?_)
      simp only [ht', show s.due.commitStrip.stopPending = false from hstop, show s.due.commitStrip.swapHolds = false from hswap,
        Bool.false_eq_true, if_false]
      rfl
    · refine (exec_strip s f).trans (run_done hr ?_)
      simp only [ht', show s.due.commitStrip.stopPending = true from hstop, if_true, State.stopIfAsked]
      rfl
    · refine (exec_strip s f).trans (run_wait hr ?_)
      simp only [ht', show s.due.commitStrip.stopPending = false from hstop, show s.due.commitStrip.swapHolds = true from hswap,
        Bool.false_eq_true, if_false, if_true]
      rfl
  · refine (exec_strip s f).trans (run_trap hr ?_)
    simp only [show s.due.me.vt = none from ht]
  · intro u
    have hexec : exec i s = run i (fun s => .done .seq (s.commitStrip.stopIfAsked 1)) s := by
      rcases List.mem_cons.mp hi with rfl | hi
      · exact exec_sclose s f
      · obtain rfl := List.mem_singleton.mp hi
        exact exec_scloseRel s f
    refine ⟨fun hstop => hexec.trans (run_done hr ?_), fun hstop => hexec.trans (run_done hr ?_)⟩
    · simp only [State.stopIfAsked_none (s := s.due.commitStrip) hstop]
      rfl
    · simp only [show s.due.commitStrip.stopPending = true from hstop, if_true, State.stopIfAsked]
      rfl

/-! ### The type register, the grant file, the class tables (R28 to R30, R104, R107) -/

section
variable (s : State) (f : R2) (g : R3) (b : Bare)
theorem exec_vtype : exec (.vtype f) s = run (.vtype f) (fun s =>
    .done .seq ((s.setMe { s.me with vt := vtOfImage (s.sreg f.a) }).setS f.d
      (match vtOfImage (s.sreg f.a) with | some t => BitVec.ofNat 64 (t.emax s.gang) | none => 0))) s := rfl
theorem exec_mfg : exec (.mfg g) s = run (.mfg g) (fun s => .done .seq (s.setS g.d (grantItem s.me g.b.val g.a))) s := rfl
theorem exec_zctw : exec (.zctw f) s = execZctw f s := rfl
theorem exec_zcswap : exec (.zcswap b) s = execZcswap b s := rfl
theorem exec_classTableSwap (u : Nat) : exec (.classTableSwap u) s = execClassTableSwap u s := rfl
theorem exec_generationDrain (u : Nat) : exec (.generationDrain u) s = execGenerationDrain u s := rfl
end

theorem State.setUpper_setUpper (s : State) (u : Nat) (x y : Upper) : (s.setUpper u x).setUpper u y = s.setUpper u y := by
  unfold State.setUpper
  simp only [SMap.put_put]

/-- Whether commands hold an older generation depends on the upper's generation alone. -/
theorem State.olderHeld_setUpper {s : State} {u : Nat} {x : Upper} (h : x.gen = (s.upperAt u).gen) :
    (s.setUpper u x).olderHeld u = s.olderHeld u := by
  unfold State.olderHeld
  rw [State.upperAt_setUpper, h]
  rfl

theorem State.swapReady_setUpper {s : State} {u : Nat} {x : Upper} (h : x.gen = (s.upperAt u).gen) :
    (s.setUpper u x).swapReady u = s.swapReady u := by
  unfold State.swapReady
  rw [State.olderHeld_setUpper h]
  rfl

/-- zctw with a well-formed table, and with any other image (R29). -/
theorem zctw_completes {s : State} {f : R2} (hr : s.Ready (.zctw f)) (h : f.d.val < 4) (hx : (s.sreg f.a).toNat < 2 ^ 56)
    (hw : wellFormedTable (widthsOf (s.sreg f.a)) f.d.val = true) :
    exec (.zctw f) s = .next (State.retire (.zctw f) .seq (s.due.setUpper (upperOf s.cur) { s.upperAt (upperOf s.cur) with
      shadow := (s.upperAt (upperOf s.cur)).shadow.set f.d.val (widthsOf (s.sreg f.a)) h })) := by
  refine (exec_zctw s f).trans (run_done hr ?_)
  have hok : ¬((s.due.sreg f.a).toNat / 2 ^ 56 ≠ 0 ∨ wellFormedTable (widthsOf (s.due.sreg f.a)) f.d.val = false) := by
    rw [show s.due.sreg f.a = s.sreg f.a from rfl, hw]
    simp only [Bool.true_eq_false, or_false, ne_eq, not_not]
    exact Nat.div_eq_of_lt hx
  simp only []
  rw [if_neg hok, dif_pos h]
  rfl

theorem zctw_traps {s : State} {f : R2} (hr : s.Ready (.zctw f))
    (h : 2 ^ 56 ≤ (s.sreg f.a).toNat ∨ wellFormedTable (widthsOf (s.sreg f.a)) f.d.val = false) :
    exec (.zctw f) s = .next (s.due.trapped (.zctw f) (Trap.plain Cause.illegalTable)) := by
  refine (exec_zctw s f).trans (run_trap hr ?_)
  have hbad : (s.due.sreg f.a).toNat / 2 ^ 56 ≠ 0 ∨ wellFormedTable (widthsOf (s.due.sreg f.a)) f.d.val = false :=
    h.imp_left fun hx => Nat.ne_of_gt (Nat.div_pos hx (Nat.two_pow_pos 56))
  simp only []
  rw [if_pos hbad]

/-- zcswap completes at once when nothing keeps it waiting (R30). -/
theorem zcswap_completes {s : State} {f : Bare} (hr : s.Ready (.zcswap f)) :
    let u := upperOf s.cur
    let up := s.upperAt u
    let v := (s.due.setUpper u { up with swapQueue := up.behind s.cur }).swapTables u
    up.swapWait = none → s.swapReady u = true → v.olderHeld u = false →
      exec (.zcswap f) s = .next (v.retire (.zcswap f) .seq) := by
  intro u up v hwait hready hold
  refine (exec_zcswap s f).trans (run_done hr ?_)
  have hwait' : (s.due.upperAt (upperOf s.due.cur)).swapWait = none := hwait
  have hready' : (s.due.setUpper u { up with swapQueue := up.behind s.cur }).swapReady u = true :=
    (State.swapReady_setUpper (s := s.due) (x := { up with swapQueue := up.behind s.cur }) rfl).trans hready
  simp only []
  split
  · exact (if_pos hready').trans (if_neg (Bool.eq_false_iff.mp hold))
  · rename_i q swapped w hsome
    rw [hwait'] at hsome
    cases hsome

/-- CLASS_TABLE_SWAP makes a waiting swap take effect, and does nothing else (R30). -/
theorem classTableSwap_spec (s : State) (u : Nat) :
    let up := s.upperAt u
    (∀ q w, up.swapWait = some (q, false, w) → s.swapReady u = true →
      exec (.classTableSwap u) s = .next (s.setUpper u
        { up with active := up.shadow, gen := up.gen + 1, swapWait := some (q, true, w) })) ∧
    ((∀ q w, up.swapWait ≠ some (q, false, w)) ∨ s.swapReady u = false → exec (.classTableSwap u) s = .next s) := by
  intro up
  refine ⟨fun q w hw hready => (exec_classTableSwap s u).trans ?_, fun h => (exec_classTableSwap s u).trans ?_⟩
  · unfold execClassTableSwap
    simp only [show (s.upperAt u).swapWait = some (q, false, w) from hw]
    rw [if_pos hready]
    simp only [State.swapTables, State.upperAt_setUpper, State.setUpper_setUpper]
    rfl
  · unfold execClassTableSwap
    split
    · rename_i q w hw
      rcases h with h | h
      · exact absurd hw (h q w)
      · rw [if_neg (by rw [h]; exact Bool.false_ne_true)]
    · rfl

/-- GENERATION_DRAIN finishes a swap whose old generation is drained, and does nothing else (R30). -/
theorem generationDrain_spec (s : State) (u : Nat) :
    let up := s.upperAt u
    (∀ q w, up.swapWait = some (q, true, w) → s.olderHeld u = false →
      exec (.generationDrain u) s = .next ({ State.retire (.zcswap ⟨w⟩) .seq
        { s.setUpper u { up with swapWait := none } with cur := q } with cur := s.cur })) ∧
    ((∀ q w, up.swapWait ≠ some (q, true, w)) ∨ s.olderHeld u = true → exec (.generationDrain u) s = .next s) := by
  intro up
  refine ⟨fun q w hw hold => (exec_generationDrain s u).trans ?_, fun h => (exec_generationDrain s u).trans ?_⟩
  · unfold execGenerationDrain
    simp only [show (s.upperAt u).swapWait = some (q, true, w) from hw]
    rw [if_neg (by rw [hold]; exact Bool.false_ne_true)]
  · unfold execGenerationDrain
    split
    · rename_i q w hw
      rcases h with h | h
      · exact absurd hw (h q w)
      · rw [if_pos h]
    · rfl

theorem grantItem_spec (m : Seq) (b a : Reg) :
    (b = 0 → grantItem m b.val a = m.grant.gl) ∧ (b = 1 → grantItem m b.val a = m.grant.gk) ∧
    (b = 2 → grantItem m b.val a = m.grant.gp) ∧ (b = 3 → grantItem m b.val a = m.grant.ga) ∧
    (b = 4 → grantItem m b.val a = m.grant.gb) ∧ (b = 5 → grantItem m b.val a = m.grant.gd) ∧
    (b = 6 → grantItem m b.val a = m.grant.gs.setWidth 64) ∧ (b = 7 → grantItem m b.val a = vtImage m.vt) ∧
    (b = 8 → grantItem m b.val a = BitVec.ofNat 64 (m.vregs.get a).count) ∧
    (b = 9 → grantItem m b.val a = BitVec.ofNat 64 (m.vregs.get a).len) := by
  refine ⟨?_, ?_, ?_, ?_, ?_, ?_, ?_, ?_, ?_, ?_⟩ <;> rintro rfl <;> rfl

/-- Settles O39. -/
theorem vectorSetup : Obligations.VectorSetup := by
  refine ⟨fun s f => ?_, fun s f hr => ?_, fun s f hr => ?_, fun s u => ?_⟩
  · intro u x
    refine ⟨fun hr t ht => ?_, fun hr ht => ?_, fun hr h hx hw => zctw_completes hr h hx hw, fun hr h => zctw_traps hr h, fun c => ?_⟩
    · refine (exec_vtype s f).trans (run_done hr ?_)
      simp only [show vtOfImage (s.due.sreg f.a) = some t from ht]
      rfl
    · refine (exec_vtype s f).trans (run_done hr ?_)
      simp only [show vtOfImage (s.due.sreg f.a) = none from ht]
      rfl
    · simp [widthsOf, Vector.get_eq_getElem, x]
  · exact ⟨_, (exec_mfg s f).trans (run_done hr rfl), grantItem_spec s.me f.b f.a⟩
  · intro u up v hwait hready hold
    refine ⟨zcswap_completes hr hwait hready hold, ?_, ?_⟩ <;> simp only [v, State.swapTables, State.upperAt_setUpper]
  · exact ⟨(classTableSwap_spec s u).1, (classTableSwap_spec s u).2, (generationDrain_spec s u).1, (generationDrain_spec s u).2⟩

end Sys2Proof.Machine

/-!
The words on truss rows (O40) and on the truss context (O41).
-/

namespace Sys2Proof.Machine

set_option Elab.async false

/-! ### Which sole a sequencer works on -/

/-- The context of the current sequencer's accesses rests on its record and its privilege. -/
theorem State.ctx_setMe (s : State) {m : Seq} (hw : m.work = s.me.work) :
    (s.setMe m).ctx = { s.ctx with priv := isPriv m.ctl.status } := by
  have hme : (s.setMe m).seqAt s.cur = m := s.me_setMe m
  have hw' : m.work = (s.seqAt s.cur).work := hw
  unfold State.ctx State.ctxOf
  simp only [State.setMe_cur, State.setMe_launches, hme, hw']
  cases (s.seqAt s.cur).work with
  | none => rfl
  | some r =>
    simp only []
    cases SMap.find s.launches r.launch with
    | none => rfl
    | some l =>
      simp only []
      split <;> rfl

theorem State.image_setMe (s : State) {m : Seq} (hw : m.work = s.me.work) : (s.setMe m).image = s.image := by
  unfold State.image
  rw [s.ctx_setMe hw]

theorem State.gang_setMe (s : State) {m : Seq} (hw : m.work = s.me.work) : (s.setMe m).gang = s.gang := by
  unfold State.gang
  rw [s.ctx_setMe hw]

theorem State.rowAt_setMe (s : State) {m : Seq} (hw : m.work = s.me.work) (r : Nat) : (s.setMe m).rowAt r = s.rowAt r := by
  unfold State.rowAt State.sole
  rw [s.image_setMe hw]
  rfl

theorem State.image_setRow (s : State) (r : Nat) (x : Row) : (s.setRow r x).image = s.image := rfl
theorem State.columns_setRow (s : State) (r : Nat) (x : Row) : (s.setRow r x).columns = s.columns := rfl

/-- A row after a row has been written. -/
theorem State.rowAt_setRow (s : State) (r k : Nat) (x : Row) : (s.setRow r x).rowAt k = if r = k then x else s.rowAt k := by
  have hs : (s.setRow r x).sole = { s.sole with rows := SMap.put s.sole.rows r x } := State.soleAt_setSole s s.image _
  unfold State.rowAt
  rw [hs, SMap.find_put]
  split <;> rfl

/-! ### The journal (R157) -/

/-- The journal keeps rows of the strip alone: it changes nothing but the strip. -/
theorem State.journalRows_ok {s j : State} {rs : List Nat} (h : s.journalRows rs = .ok j) :
    j = s ∨ ∃ st journal, s.me.strip = some st ∧ j = s.setMe { s.me with strip := some { st with journal := journal } } := by
  unfold State.journalRows at h
  split at h
  · exact .inl (Except.ok.inj h).symm
  · rename_i st hst
    simp only [] at h
    split at h
    · cases h
    · exact .inr ⟨st, _, hst, (Except.ok.inj h).symm⟩

theorem State.journalRows_error {s : State} {rs : List Nat} {e : Trap} (h : s.journalRows rs = .error e) :
    e.cause = Cause.journalOverflow := by
  unfold State.journalRows at h
  split at h
  · cases h
  · simp only [] at h
    split at h
    · cases h
      rfl
    · cases h

theorem State.rowAt_journal {s j : State} {rs : List Nat} (h : s.journalRows rs = .ok j) (r : Nat) : j.rowAt r = s.rowAt r := by
  rcases State.journalRows_ok h with rfl | ⟨st, journal, -, rfl⟩
  · rfl
  · exact s.rowAt_setMe (by exact rfl) r

theorem State.columns_journal {s j : State} {rs : List Nat} (h : s.journalRows rs = .ok j) : j.columns = s.columns := by
  rcases State.journalRows_ok h with rfl | ⟨st, journal, -, rfl⟩
  · rfl
  · unfold State.columns
    rw [s.gang_setMe (by exact rfl)]

theorem State.journalRows_closed {s : State} (h : s.me.strip = none) (rs : List Nat) : s.journalRows rs = .ok s := by
  unfold State.journalRows
  rw [h]

theorem newRows_append (j : SMap Row) (a b : List Nat) : newRows j (a ++ b) = newRows j a ++ newRows j b := List.filter_append a b

theorem newRows_cons_new {j : SMap Row} {r : Nat} (h : SMap.find j r = none) (t : List Nat) : newRows j (r :: t) = r :: newRows j t := by
  rw [newRows, List.filter_cons_of_pos (by rw [h]; rfl)]
  rfl

/-- The first row for which the journal has no room traps. -/
theorem State.journalRows_overflow {s : State} {st : Strip} {before after : List Nat} {r : Nat} (h : s.me.strip = some st)
    (hr : SMap.find st.journal r = none) (hfull : st.journal.length + (newRows st.journal before).length = 64) :
    s.journalRows (before ++ r :: after) = .error ⟨Cause.journalOverflow, r, 0, none⟩ := by
  have hidx : (newRows st.journal (before ++ r :: after))[64 - st.journal.length]? = some r := by
    rw [newRows_append, newRows_cons_new hr, show 64 - st.journal.length = (newRows st.journal before).length by omega]
    simp
  unfold State.journalRows
  rw [h]
  simp only [show Config.journalRows = 64 from rfl, hidx]

/-- Rows that the journal has room for are kept as they stand. -/
theorem State.journalRows_room {s : State} {st : Strip} {rs : List Nat} (h : s.me.strip = some st)
    (hroom : (newRows st.journal rs).length ≤ 64 - st.journal.length) :
    s.journalRows rs = .ok (s.setMe { s.me with
      strip := some { st with journal := (newRows st.journal rs).foldl (fun j r => SMap.put j r (s.rowAt r)) st.journal } }) := by
  have hidx : (newRows st.journal rs)[64 - st.journal.length]? = none := List.getElem?_eq_none hroom
  unfold State.journalRows
  rw [h]
  simp only [show Config.journalRows = 64 from rfl, hidx]

/-- The journal, row by row (R157). -/
theorem State.journalRows_spec (s : State) (r : Nat) :
    (s.me.strip = none → s.journalRows [r] = .ok s) ∧
    (∀ st, s.me.strip = some st → SMap.find st.journal r = none →
      (st.journal.length < 64 → s.journalRows [r] = .ok (s.setMe { s.me with
        strip := some { st with journal := SMap.put st.journal r (s.rowAt r) } })) ∧
      (st.journal.length = 64 → s.journalRows [r] = .error ⟨Cause.journalOverflow, r, 0, none⟩)) ∧
    (∀ st x, s.me.strip = some st → SMap.find st.journal r = some x → st.journal.length ≤ 64 →
      s.journalRows [r] = .ok (s.setMe s.me)) ∧
    (∀ st before after, s.me.strip = some st → SMap.find st.journal r = none →
      st.journal.length + (before.filter (fun x => (SMap.find st.journal x).isNone)).length = 64 →
      s.journalRows (before ++ r :: after) = .error ⟨Cause.journalOverflow, r, 0, none⟩) := by
  refine ⟨fun h => State.journalRows_closed h _, fun st h hr => ⟨fun hlen => ?_, fun hlen => ?_⟩, fun st x h hr hlen => ?_,
    fun st before after h hr hlen => State.journalRows_overflow h hr hlen⟩
  · have hnew : newRows st.journal [r] = [r] := newRows_cons_new hr []
    have hok := State.journalRows_room (rs := [r]) h (by rw [hnew]; simp only [List.length_singleton]; omega)
    rw [hnew] at hok
    exact hok
  · exact State.journalRows_overflow (before := []) h hr (by simpa [newRows] using hlen)
  · have hnew : newRows st.journal [r] = [] := by simp [newRows, hr]
    have hok := State.journalRows_room (rs := [r]) h (by rw [hnew]; exact Nat.zero_le _)
    rw [hnew, List.foldl_nil] at hok
    rw [hok, ← h]

/-! ### Columns -/

theorem rowCols_ok {col : Nat → Except Trap (Nat × Events)} {n k : Nat} (h : ∀ j, n ≤ j → j < n + k → ∃ r, col j = .ok r) :
    ∃ l ev, rowCols col n k = .ok (l, ev) ∧ l.length = k := by
  induction k generalizing n with
  | zero => exact ⟨[], noEvents, rfl, rfl⟩
  | succ k ih =>
    obtain ⟨⟨b, ev⟩, hb⟩ := h n (Nat.le_refl n) (by omega)
    obtain ⟨l, ev', hl, hlen⟩ := ih (n := n + 1) fun j h1 h2 => h j (by omega) (by omega)
    exact ⟨b :: l, ev.join ev', by simp only [rowCols, hb, hl], by rw [List.length_cons, hlen]⟩

theorem Slot.marked_none {x : Slot} (h : x.marks = []) (f : Fmt) (cb n k : Nat) : x.marked f cb n k = false := by
  simp [Slot.marked, h]

/-- A column of an unmarked row and unmarked weights is formed. -/
theorem Stream.column_ok {x : Stream} {old : Row} (hs : x.slot.marks = []) (ho : old.marks = []) (n : Nat) :
    ∃ r, x.column old n = .ok r := by
  have hnone : x.xs.any (fun (k, _) => x.slot.marked x.fmt x.cb n k) = false := by
    rw [List.any_eq_false]
    intro p _
    simp [Slot.marked_none hs]
  unfold Stream.column
  simp only [ho, List.contains_nil, Bool.false_or, hnone, Bool.false_eq_true, if_false]
  exact ⟨_, rfl⟩

theorem streamed_unmarked {x : Src} (h : x.marks = []) (f : Fmt) (mask : Option (BitVec 4096)) (k n : Nat) :
    ∃ xs, streamed x f mask k n = .ok xs := by
  have hm : (if f = .eb then x.blockMarked k else x.marked k) = false := by
    simp [Src.blockMarked, Src.marked, h]
  induction n generalizing k with
  | zero => exact ⟨[], rfl⟩
  | succ n ih =>
    obtain ⟨l, hl⟩ := ih (k + 1) (by simp [Src.blockMarked, Src.marked, h])
    simp only [streamed, hl, hm, Bool.false_eq_true, if_false]
    split
    · exact ⟨_, rfl⟩
    · exact ⟨_, rfl⟩

/-! ### Products and distances (R161 to R163) -/

section
variable (s : State) (f : TMac)
theorem exec_tmac : exec (.tmac f) s = trussRow (.tmac f) f false s := rfl
theorem exec_tdist : exec (.tdist f) s = trussRow (.tdist f) f true s := rfl
end

/-- The frame of a word with a truss type. -/
theorem trussTyped_ready {s : State} {t : VType} {K cb : Nat} (ht : s.me.vt = some t) (hk : trussShape t = some (K, cb))
    (body : VType → Nat → Nat → State → Res) : trussTyped body s.due = body t K cb s.due := by
  have htype : s.due.typeOr = t := by simp [State.typeOr, ht]
  unfold trussTyped
  simp only [htype, hk]

/-- A slot of another type is no slot of the word's. -/
theorem slot_tag_ok {tag : Option Fmt} {f : Fmt} (h : tag = none ∨ tag = some f) : (tag.isSome && tag != some f) = false := by
  rcases h with rfl | rfl <;> simp

/-- The columns of a product or distance: past the triangle's edge the constant, else what the streamed elements give. -/
def rowColumn (tm : Word) (tmc : BitVec 32) (row : Nat) (st : Stream) (old : Row) (n : Nat) : Except Trap (Nat × Events) :=
  if tmTri tm ∧ tmRowbase tm + row + tmDiag tm < n then .ok (tmc.toNat, noEvents) else st.column old n

theorem rowColumn_eq (tm : Word) (tmc : BitVec 32) (row : Nat) (st : Stream) (old : Row) :
    (fun n : Nat => if tmTri tm && decide (tmRowbase tm + row + tmDiag tm < n) then Except.ok (tmc.toNat, noEvents) else st.column old n) =
      rowColumn tm tmc row st old := by
  funext n
  unfold rowColumn
  simp only [Bool.and_eq_true, decide_eq_true_eq]

theorem rowColumn_ok {tm : Word} {tmc : BitVec 32} {row : Nat} {st : Stream} {old : Row} (hs : st.slot.marks = []) (ho : old.marks = [])
    (n : Nat) : ∃ r, rowColumn tm tmc row st old n = .ok r := by
  unfold rowColumn
  split
  · exact ⟨_, rfl⟩
  · exact Stream.column_ok hs ho n

/-- A product or distance whose slot, source and row are unmarked completes (R161 to R163). -/
theorem trussRow_completes {s j : State} {t : VType} {K cb : Nat} {f : TMac} {i : Instr} {dist : Bool}
    (hexec : exec i s = trussRow i f dist s) (hr : s.Ready i) (ht : s.me.vt = some t) (hk : trussShape t = some (K, cb))
    (hm : s.due.maskCheck f.m = .ok ()) :
    let u := s.due
    let x := u.srcOf (.plain t.fmt) t.g f.a.val
    let kn := min (min (u.grantLen t) K) x.count
    let slot := u.slotAt f.slot
    (slot.tag = none ∨ slot.tag = some t.fmt) → u.journalRows [f.row.val] = .ok j →
      x.marks = [] → slot.marks = [] → (u.rowAt f.row.val).marks = [] →
      ∃ xs cols ev, streamed x t.fmt (u.maskOf f.m) 0 kn = .ok xs ∧ cols.length = u.columns ∧
        rowCols (rowColumn s.me.truss.tm s.me.truss.tmc f.row.val ⟨xs, slot, t.fmt, cb, if dist = false then .product
            else if tmMetric s.me.truss.tm = 1 then .squared else .absolute⟩ (u.rowAt f.row.val)) 0 u.columns =
          Except.ok (cols, ev) ∧
        exec i s = .next (State.retire i .seq (State.report
          (((j.setRow f.row.val ⟨colsOf cols, (u.rowAt f.row.val).count, []⟩).countEvents ev).setBest
            (chain (!dist) (tmTie s.me.truss.tm) cols))
          ⟨kn, 1, streamBitsOf t.fmt kn, 0, 32 * u.columns, rowGs x.count (min (u.grantLen t) K) kn⟩)) := by
  intro u x kn slot htag hj hx hslot hold
  obtain ⟨xs, hxs⟩ := streamed_unmarked hx t.fmt (u.maskOf f.m) 0 kn
  obtain ⟨cols, ev, hcols, hlen⟩ := rowCols_ok (n := 0) (k := u.columns) fun n _ _ =>
    rowColumn_ok (tm := s.me.truss.tm) (tmc := s.me.truss.tmc) (row := f.row.val) (st := ⟨xs, slot, t.fmt, cb,
      if dist = false then .product else if tmMetric s.me.truss.tm = 1 then .squared else .absolute⟩) hslot hold n
  refine ⟨xs, cols, ev, hxs, hlen, hcols, hexec.trans (run_done hr ?_)⟩
  rw [trussTyped_ready ht hk]
  have htag' : ((s.due.slotAt f.slot).tag.isSome && (s.due.slotAt f.slot).tag != some t.fmt) = false := slot_tag_ok htag
  have hkind : (if (!dist) = true then Metric.product else if tmMetric s.due.me.truss.tm = 1 then .squared else .absolute) =
      if dist = false then .product else if tmMetric s.me.truss.tm = 1 then .squared else .absolute := by cases dist <;> rfl
  simp only [htag', Bool.false_eq_true, if_false, hm, show s.due.journalRows [f.row.val] = .ok j from hj,
    show streamed (s.due.srcOf (.plain t.fmt) t.g f.a.val) t.fmt (s.due.maskOf f.m) 0
      (min (min (s.due.grantLen t) K) (s.due.srcOf (.plain t.fmt) t.g f.a.val).count) = .ok xs from hxs, hkind, rowColumn_eq]
  simp only [show rowCols (rowColumn s.due.me.truss.tm s.due.me.truss.tmc f.row.val ⟨xs, s.due.slotAt f.slot, t.fmt, cb,
      if dist = false then .product else if tmMetric s.me.truss.tm = 1 then .squared else .absolute⟩ (s.due.rowAt f.row.val)) 0
      s.due.columns = .ok (cols, ev) from hcols]
  rfl

/-- The traps of a product or distance that come before its columns. -/
theorem trussRow_traps {s : State} {t : VType} {K cb : Nat} {f : TMac} {i : Instr} {dist : Bool}
    (hexec : exec i s = trussRow i f dist s) (hr : s.Ready i) (ht : s.me.vt = some t) (hk : trussShape t = some (K, cb))
    (hm : s.due.maskCheck f.m = .ok ()) :
    let u := s.due
    let slot := u.slotAt f.slot
    (slot.tag ≠ none → slot.tag ≠ some t.fmt → exec i s = .next (u.trapped i (Trap.plain Cause.trussFormat))) ∧
    (slot.tag = none ∨ slot.tag = some t.fmt → ∀ e, u.journalRows [f.row.val] = .error e → exec i s = .next (u.trapped i e)) := by
  intro u slot
  refine ⟨fun h1 h2 => hexec.trans (run_trap hr ?_), fun htag e he => hexec.trans (run_trap hr ?_ ?_)⟩
  · rw [trussTyped_ready ht hk]
    have hbad : ((s.due.slotAt f.slot).tag.isSome && (s.due.slotAt f.slot).tag != some t.fmt) = true := by
      rw [Bool.and_eq_true, bne_iff_ne, Option.isSome_iff_ne_none]
      exact ⟨h1, h2⟩
    exact if_pos hbad
  · rw [trussTyped_ready ht hk]
    have htag' : ((s.due.slotAt f.slot).tag.isSome && (s.due.slotAt f.slot).tag != some t.fmt) = false := slot_tag_ok htag
    simp only [htag', Bool.false_eq_true, if_false, hm, show s.due.journalRows [f.row.val] = .error e from he]
    rfl
  · rw [State.journalRows_error he]
    decide

/-! ### Rows from a vector group (R168, R169) -/

section
variable (s : State) (f : TRow)
theorem exec_tacc : exec (.tacc f) s =
    run (.tacc f) (classed .movable f.m (fun t s => rowFrom t f.a f.m f.row.val addCol true false s)) s := rfl
theorem exec_tfill : exec (.tfill f) s =
    run (.tfill f) (classed .movable f.m (fun t s => rowFrom t f.a f.m f.row.val fillCol false false s)) s := rfl
theorem exec_tcupd : exec (.tcupd f) s = run (.tcupd f) (classed .movable f.m (fun t s =>
    match s.me.truss.tb with
    | none => .trap (Trap.plain Cause.noBest) s
    | some (i, _) => rowFrom t f.a f.m (f.row.val + i) addCol true true s)) s := rfl
theorem exec_tdrain : exec (.tdrain f) s = run (.tdrain f) (classed .movable f.m (fun t s =>
    match elemLoop (min (s.grantLen t) s.columns) [] (s.maskOf f.m) (s.drainElem t (s.rowAt f.row.val) (s.maskOf f.m)) Out.zero with
    | .error e => .trap e s
    | .ok (n, gs, o) => .done .seq (s.finish t.g f.a.val o n ⟨n, n, 32 * n, 0, o.used, gs⟩))) s := rfl
end

theorem rowWith_ok {x : Src} {mask : Option (BitVec 4096)} {m : Nat} {old : Row} (op : Machine.Num → Machine.Num → Nat × Events)
    {needOld : Bool} (hx : x.Clean m) (hd : x.Decodes mask m)
    (ho : needOld = true → ∀ n, n < m → activeAt mask n = true → old.marks.contains n = false) (n : Nat) :
    ∃ r, rowWith x mask m old op needOld n = .ok r := by
  unfold rowWith
  split
  · exact ⟨_, rfl⟩
  · rename_i h
    simp only [Bool.or_eq_true, decide_eq_true_eq, Bool.not_eq_true', not_or, not_le, Bool.not_eq_false] at h
    obtain ⟨v, hv⟩ := hd n h.1 h.2
    have hneed : (needOld && old.marks.contains n) = false := by
      cases hb : needOld with
      | false => rfl
      | true => exact ho hb n h.1 h.2
    simp only [Src.check_clean (hx n h.1), hv, hneed, Bool.false_eq_true, if_false]
    exact ⟨_, rfl⟩

/-- What a word that writes a row from a group answers (R168, R169). -/
theorem rowFrom_completes {u j : State} {t : VType} {a : Reg} {mk : Mask3} {r : Nat} {op : Machine.Num → Machine.Num → Nat × Events}
    {needOld countUp : Bool} (hr : r < 256) (hj : u.journalRows [r] = .ok j) :
    let x := u.srcOf (u.layout t) t.g a.val
    let m := min (min (u.grantLen t) u.columns) x.count
    let mask := u.maskOf mk
    let old := u.rowAt r
    x.Clean m → x.Decodes mask m →
      (needOld = true → ∀ n, n < m → activeAt mask n = true → old.marks.contains n = false) →
      ∃ cols ev, rowCols (rowWith x mask m old op needOld) 0 u.columns = .ok (cols, ev) ∧ cols.length = u.columns ∧
        rowFrom t a mk r op needOld countUp u = .done .seq (State.report
          ((j.setRow r ⟨colsOf cols, if countUp then min (old.count + 1) 4294967295 else old.count,
            old.marks.filter (fun n => decide (m ≤ n) || !activeAt mask n)⟩).countEvents
            { ev with ov := ev.ov || (countUp && old.count == 4294967295) })
          ⟨m, m, x.start m, 0, 32 * m, rowGs x.count (min (u.grantLen t) u.columns) m⟩) := by
  intro x m mask old hx hd ho
  obtain ⟨cols, ev, hcols, hlen⟩ := rowCols_ok (n := 0) (k := u.columns) fun n _ _ => rowWith_ok op hx hd ho n
  refine ⟨cols, ev, hcols, hlen, ?_⟩
  simp only [x, m, mask, old] at hcols
  unfold rowFrom
  rw [if_neg (by omega)]
  simp only [hj, hcols]
  rfl

/-- The traps of such a word that come before its columns. -/
theorem rowFrom_traps {u : State} {t : VType} {a : Reg} {mk : Mask3} {r : Nat} {op : Machine.Num → Machine.Num → Nat × Events}
    {needOld countUp : Bool} :
    (256 ≤ r → rowFrom t a mk r op needOld countUp u = .trap ⟨Cause.rowRange, r, 0, none⟩ u) ∧
    (r < 256 → ∀ e, u.journalRows [r] = .error e → rowFrom t a mk r op needOld countUp u = .trap e u) := by
  unfold rowFrom
  refine ⟨fun h => if_pos (by omega), fun h e he => ?_⟩
  rw [if_neg (by omega)]
  simp only [he]

/-- The words that write a row from a group run `rowFrom` on the row that they name. -/
theorem rowWord_body {s : State} {f : TRow} {i : Instr} {r : Nat} {op : Machine.Num → Machine.Num → Nat × Events}
    {needOld countUp : Bool}
    (h : (i = .tacc f ∧ r = f.row.val ∧ op = addCol ∧ needOld = true ∧ countUp = false) ∨
     (i = .tfill f ∧ r = f.row.val ∧ op = fillCol ∧ needOld = false ∧ countUp = false) ∨
     (i = .tcupd f ∧ (∃ v, s.me.truss.tb = some (r - f.row.val, v)) ∧ f.row.val ≤ r ∧ op = addCol ∧ needOld = true ∧
       countUp = true)) :
    ∃ body, exec i s = run i (classed .movable f.m body) s ∧
      ∀ t, body t s.due = rowFrom t f.a f.m r op needOld countUp s.due := by
  rcases h with ⟨rfl, rfl, rfl, rfl, rfl⟩ | ⟨rfl, rfl, rfl, rfl, rfl⟩ | ⟨rfl, ⟨v, hv⟩, hle, rfl, rfl, rfl⟩
  · exact ⟨_, exec_tacc s f, fun t => rfl⟩
  · exact ⟨_, exec_tfill s f, fun t => rfl⟩
  · refine ⟨_, exec_tcupd s f, fun t => ?_⟩
    simp only [show s.due.me.truss.tb = some (r - f.row.val, v) from hv]
    rw [Nat.add_sub_cancel' hle]

/-! ### Drain (R167) -/

theorem State.drainElem_forms (s : State) (t : VType) {row : Row} {mask : Option (BitVec 4096)} {n : Nat} (o : Out)
    (h : activeAt mask n = true → row.marks.contains n = false) :
    (∃ z, s.drainElem t row mask n o = .put z) ∨ s.drainElem t row mask n o = .full := by
  unfold State.drainElem
  simp only []
  cases ha : activeAt mask n with
  | false => exact o.fit_forms ..
  | true =>
    simp only [h ha, Bool.not_true, Bool.false_eq_true, if_false]
    exact o.fit_forms ..

theorem tdrain_completes {s : State} {t : VType} {f : TRow} (hr : s.VecReady (.tdrain f) .movable f.m t)
    (h : ∀ n, n < min (s.due.grantLen t) s.due.columns → activeAt (s.due.maskOf f.m) n = true →
      (s.due.rowAt f.row.val).marks.contains n = false) :
    ∃ n gs o, elemLoop (min (s.due.grantLen t) s.due.columns) [] (s.due.maskOf f.m)
        (s.due.drainElem t (s.due.rowAt f.row.val) (s.due.maskOf f.m)) Out.zero = .ok (n, gs, o) ∧
      exec (.tdrain f) s =
        .next ((s.due.finish t.g f.a.val o n ⟨n, n, 32 * n, 0, o.used, gs⟩).retire (.tdrain f) .seq) := by
  obtain ⟨n, gs, o, hrun⟩ := elemLoop_forms (min (s.due.grantLen t) s.due.columns) [] (s.due.maskOf f.m)
    (s.due.drainElem t (s.due.rowAt f.row.val) (s.due.maskOf f.m)) Out.zero fun n o hn => s.due.drainElem_forms t o (h n hn)
  refine ⟨n, gs, o, hrun, (exec_tdrain s f).trans (run_done hr.ready ?_)⟩
  rw [classed_ready hr]
  simp only [hrun]

/-! ### Weights (R158) -/

theorem exec_tld (s : State) (f : TLd) : exec (.tld f) s = execTld f s := rfl

theorem tld_spec {s : State} {t : VType} {K cb v : Nat} {f : TLd} {locs : List Nat} (hr : s.Ready (.tld f)) (ht : s.me.vt = some t)
    (hk : trussShape t = some (K, cb)) :
    let u := s.due
    ((s.sreg f.a).toNat % 32 = 0 → u.tileCheck (s.sreg f.a) 0 (u.columns * cb / 32) = .ok locs →
      u.tileRead (s.sreg f.a) 0 locs = .ok v →
      exec (.tld f) s = .next (State.retire (.tld f) .seq (State.loadedFrom (u.setSole u.image { u.sole with
        slots := u.sole.slots.set f.slot.val ⟨some t.fmt, BitVec.ofNat 327680 v, []⟩ f.slot.isLt })
          (u.sectorAccess · 1) (s.sreg f.a).toNat (u.columns * cb)))) ∧
    ((s.sreg f.a).toNat % 32 ≠ 0 →
      exec (.tld f) s = .next (u.trapped (.tld f) ⟨Cause.misaligned, 0, 8 * (s.sreg f.a).toNat, none⟩)) := by
  intro u
  refine ⟨fun hal hcheck hread => (exec_tld s f).trans (run_done hr ?_), fun hal => (exec_tld s f).trans (run_trap hr ?_ ?_)⟩
  · rw [trussTyped_ready ht hk]
    simp only []
    rw [if_neg (show ¬(s.due.sreg f.a).toNat % 32 ≠ 0 from not_not.mpr hal)]
    simp only [show s.due.tileCheck (s.due.sreg f.a) 0 (s.due.columns * cb / 32) = .ok locs from hcheck,
      show s.due.tileRead (s.due.sreg f.a) 0 locs = .ok v from hread]
    rfl
  · rw [trussTyped_ready ht hk]
    exact if_pos hal
  · exact show Cause.misaligned ≠ Cause.held by decide

/-! ### Row ranges (R165, R166, R170) -/

section
variable (s : State) (f : TRng)
theorem exec_tzero : exec (.tzero f) s = rangeForm (.tzero f) f (fun _ _ => .ok (Row.zero, noEvents)) s := rfl
theorem exec_tcdiv : exec (.tcdiv f) s = rangeForm (.tcdiv f) f (fun s x => divRow s.columns x) s := rfl
theorem exec_tcget : exec (.tcget f) s =
    run (.tcget f) (fun s => .done .seq (s.setS f.a (BitVec.ofNat 64 (s.rowAt f.row.val).count))) s := rfl
end

/-- The change of one row of a range, with its events. -/
def rangeStep (op : State → Row → Except Trap (Row × Events)) (acc : Except Trap (State × Events)) (r : Nat) :
    Except Trap (State × Events) :=
  match acc with
  | .error e => .error e
  | .ok (st, ev) =>
    match op st (st.rowAt r) with
    | .error e => .error e
    | .ok (row, ev') => .ok (st.setRow r row, ev.join ev')

/-- The rows of a range are changed one after another, each from what stood there before the word. -/
theorem rangeFold_ok {op : State → Row → Except Trap (Row × Events)} {x : Nat → Row} {e : Nat → Events} {nc : Nat}
    (rs : List Nat) (hn : rs.Nodup) (j : State) (hc : j.columns = nc) (ev : Events)
    (h : ∀ st r, r ∈ rs → st.columns = nc → op st (j.rowAt r) = .ok (x r, e r)) :
    rs.foldl (rangeStep op) (.ok (j, ev)) =
      .ok (rs.foldl (fun v r => v.setRow r (x r)) j, rs.foldl (fun v r => v.join (e r)) ev) := by
  induction rs generalizing j ev with
  | nil => rfl
  | cons r t ih =>
    obtain ⟨hr, hn⟩ := List.nodup_cons.mp hn
    have hstep : rangeStep op (.ok (j, ev)) r = .ok (j.setRow r (x r), ev.join (e r)) := by
      unfold rangeStep
      simp only [h j r (List.mem_cons_self ..) hc]
    rw [List.foldl_cons, hstep, List.foldl_cons, List.foldl_cons]
    refine ih hn (j.setRow r (x r)) hc (ev.join (e r)) fun st k hk hst => ?_
    rw [State.rowAt_setRow, if_neg (fun heq : r = k => hr (heq ▸ hk))]
    exact h st k (List.mem_cons_of_mem _ hk) hst

/-- A range form: the range, the journal, then the rows one after another. -/
theorem rangeForm_eq (i : Instr) (f : TRng) (op : State → Row → Except Trap (Row × Events)) (s : State) :
    rangeForm i f op s = run i (fun s =>
      match rowRange f.row (s.sreg f.a) with
      | .error e => .trap e s
      | .ok rs =>
        match s.journalRows rs with
        | .error e => .trap e s
        | .ok s' =>
          match rs.foldl (rangeStep op) (.ok (s', noEvents)) with
          | .error e => .trap e s
          | .ok (st, ev) => .done .seq (st.countEvents ev)) s := rfl

theorem rangeRows_nodup (n row : Nat) : ((List.range n).map (· + row)).Nodup :=
  List.Nodup.map (fun _ _ h => Nat.add_right_cancel h) List.nodup_range

theorem rowRange_in {row : Fin 256} {c : Word} (h : row.val + c.toNat ≤ 256) :
    rowRange row c = .ok ((List.range c.toNat).map (· + row.val)) := by
  unfold rowRange
  split
  · rename_i h0
    rw [h0]
    rfl
  · rw [if_neg (by omega)]

theorem rowRange_out {row : Fin 256} {c : Word} (h0 : c ≠ 0) (h : 256 < row.val + c.toNat) :
    rowRange row c = .error ⟨Cause.rowRange, 256, 0, none⟩ := by
  unfold rowRange
  rw [if_neg h0, if_pos h]

section
variable {s : State} {i : Instr} {f : TRng} {op : State → Row → Except Trap (Row × Events)}

theorem rangeForm_out (hexec : exec i s = rangeForm i f op s) (hr : s.Ready i) (h : 256 < f.row.val + (s.sreg f.a).toNat)
    (h0 : s.sreg f.a ≠ 0) : exec i s = .next (s.due.trapped i ⟨Cause.rowRange, 256, 0, none⟩) := by
  refine (hexec.trans (rangeForm_eq i f op s)).trans (run_trap hr ?_ (show Cause.rowRange ≠ Cause.held by decide))
  simp only [show rowRange f.row (s.due.sreg f.a) = _ from rowRange_out h0 h]

theorem rangeForm_journal (hexec : exec i s = rangeForm i f op s) (hr : s.Ready i) (h : f.row.val + (s.sreg f.a).toNat ≤ 256)
    {e : Trap} (he : s.due.journalRows ((List.range (s.sreg f.a).toNat).map (· + f.row.val)) = .error e) :
    exec i s = .next (s.due.trapped i e) := by
  refine (hexec.trans (rangeForm_eq i f op s)).trans (run_trap hr ?_ ?_)
  · simp only [show s.due.sreg f.a = s.sreg f.a from rfl, rowRange_in h, he]
  · rw [State.journalRows_error he]
    decide

/-- A range form whose rows can all be changed completes. -/
theorem rangeForm_completes (hexec : exec i s = rangeForm i f op s) (hr : s.Ready i) (h : f.row.val + (s.sreg f.a).toNat ≤ 256)
    {j : State} (hj : s.due.journalRows ((List.range (s.sreg f.a).toNat).map (· + f.row.val)) = .ok j) (x : Nat → Row) (e : Nat → Events)
    (hop : ∀ st r, r ∈ (List.range (s.sreg f.a).toNat).map (· + f.row.val) → st.columns = s.due.columns →
      op st (s.due.rowAt r) = .ok (x r, e r)) :
    exec i s = .next (((((List.range (s.sreg f.a).toNat).map (· + f.row.val)).foldl (fun v r => v.setRow r (x r)) j).countEvents
      (((List.range (s.sreg f.a).toNat).map (· + f.row.val)).foldl (fun v r => v.join (e r)) noEvents)).retire i .seq) := by
  refine (hexec.trans (rangeForm_eq i f op s)).trans (run_done hr ?_)
  have hfold := rangeFold_ok (op := op) (x := x) (e := e) (nc := s.due.columns) ((List.range (s.sreg f.a).toNat).map (· + f.row.val))
    (rangeRows_nodup _ _) j (State.columns_journal hj) noEvents fun st r hmem hst => by
      rw [State.rowAt_journal hj]
      exact hop st r hmem hst
  simp only [show s.due.sreg f.a = s.sreg f.a from rfl, rowRange_in h, hj, hfold]

end

/-! ### The obligations -/

/-- A row divided by its count (R170): an unmarked row's columns are all formed. -/
theorem divRow_unmarked {nc : Nat} {x : Row} (h : x.marks = []) :
    ∃ y ev, divRow nc x = .ok (y, ev) ∧ (x.count = 0 → y = x ∧ ev = noEvents) ∧
      (x.count ≠ 0 → ∃ cols, y = ⟨colsOf cols, x.count, []⟩ ∧ cols.length = nc ∧
        rowCols (fun n => .ok (rowRound (divNum (x.numAt n) (.fin false x.count 0)).1 (x.numAt n matches .fin _ _ _)
          (x.numAt n).isNan (x.numAt n).isSig)) 0 nc = .ok (cols, ev)) := by
  by_cases h0 : x.count = 0
  · exact ⟨x, noEvents, if_pos h0, fun _ => ⟨rfl, rfl⟩, fun hne => absurd h0 hne⟩
  · obtain ⟨cols, ev, hcols, hlen⟩ := rowCols_ok (n := 0) (k := nc) (col := fun n =>
      .ok (rowRound (divNum (x.numAt n) (.fin false x.count 0)).1 (x.numAt n matches .fin _ _ _)
        (x.numAt n).isNan (x.numAt n).isSig)) fun n _ _ => ⟨_, rfl⟩
    refine ⟨⟨colsOf cols, x.count, []⟩, ev, ?_, fun hz => absurd hz h0, fun _ => ⟨cols, rfl, hlen, hcols⟩⟩
    have hcond (n : Nat) : ¬x.marks.contains n = true := by rw [h]; exact Bool.false_ne_true
    unfold divRow
    rw [if_neg h0]
    simp only []
    split
    · rename_i e he
      cases he.symm.trans ((congrArg (rowCols · 0 nc) (funext fun n => if_neg (hcond n))).trans hcols)
    · rename_i l ev' he
      cases he.symm.trans ((congrArg (rowCols · 0 nc) (funext fun n => if_neg (hcond n))).trans hcols)
      rfl

theorem foldl_join_noEvents (rs : List Nat) : rs.foldl (fun v _ => v.join noEvents) noEvents = noEvents := by
  induction rs with
  | nil => rfl
  | cons r t ih => exact ih

/-- The words on a range of rows (R166, R170). -/
theorem rangeWords {s : State} {f : TRng} {i : Instr} (hi : i ∈ [Instr.tzero f, .tcdiv f, .tcget f]) (hr : s.Ready i) :
    let u := s.due
    let rows := (List.range (s.sreg f.a).toNat).map (· + f.row.val)
    (i = .tcget f → exec i s = .next ((u.setS f.a (BitVec.ofNat 64 (u.rowAt f.row.val).count)).retire i .seq)) ∧
    (i ≠ .tcget f → 256 < f.row.val + (s.sreg f.a).toNat → s.sreg f.a ≠ 0 →
      exec i s = .next (u.trapped i ⟨Cause.rowRange, 256, 0, none⟩)) ∧
    (i ≠ .tcget f → f.row.val + (s.sreg f.a).toNat ≤ 256 → ∀ e, u.journalRows rows = .error e →
      exec i s = .next (u.trapped i e)) ∧
    (i ≠ .tcget f → f.row.val + (s.sreg f.a).toNat ≤ 256 → ∀ j, u.journalRows rows = .ok j →
      (i = .tzero f → exec i s = .next (((rows.foldl (fun v r => v.setRow r Row.zero) j).countEvents noEvents).retire i .seq)) ∧
      (i = .tcdiv f → (∀ r, r ∈ rows → (u.rowAt r).marks = []) →
        ∃ (x : Nat → Row) (e : Nat → Events),
          exec i s = .next (((rows.foldl (fun v r => v.setRow r (x r)) j).countEvents
            (rows.foldl (fun v r => v.join (e r)) noEvents)).retire i .seq) ∧
          ∀ r, r ∈ rows →
            let c := (u.rowAt r).count
            (c = 0 → x r = u.rowAt r ∧ e r = noEvents) ∧
            (c ≠ 0 → ∃ cols, x r = ⟨colsOf cols, c, []⟩ ∧ cols.length = u.columns ∧
              rowCols (fun n =>
                let a := (u.rowAt r).numAt n
                .ok (rowRound (divNum a (.fin false c 0)).1 (a matches .fin _ _ _) a.isNan a.isSig)) 0 u.columns =
                .ok (cols, e r)))) := by
  intro u rows
  refine ⟨?_, ?_⟩
  · rintro rfl
    exact (exec_tcget s f).trans (run_done hr rfl)
  · by_cases hget : i = .tcget f
    · exact ⟨fun h => absurd hget h, fun h => absurd hget h, fun h => absurd hget h⟩
    · obtain ⟨op, hexec⟩ : ∃ op, exec i s = rangeForm i f op s := by
        rcases List.mem_cons.mp hi with rfl | hi
        · exact ⟨_, exec_tzero s f⟩
        · rcases List.mem_cons.mp hi with rfl | hi
          · exact ⟨_, exec_tcdiv s f⟩
          · exact absurd (List.mem_singleton.mp hi) hget
      refine ⟨fun _ h h0 => rangeForm_out hexec hr h h0, fun _ h e he => rangeForm_journal hexec hr h he, fun _ h j hj => ⟨?_, ?_⟩⟩
      · rintro rfl
        have hdone := rangeForm_completes (exec_tzero s f) hr h hj (fun _ => Row.zero) (fun _ => noEvents) fun st r _ _ => rfl
        rw [foldl_join_noEvents] at hdone
        exact hdone
      · rintro rfl hmarks
        have hrow (r : Nat) : ∃ p : Row × Events, r ∈ rows → divRow u.columns (u.rowAt r) = .ok p ∧
            ((u.rowAt r).count = 0 → p.1 = u.rowAt r ∧ p.2 = noEvents) ∧
            ((u.rowAt r).count ≠ 0 → ∃ cols, p.1 = ⟨colsOf cols, (u.rowAt r).count, []⟩ ∧ cols.length = u.columns ∧
              rowCols (fun n => .ok (rowRound (divNum ((u.rowAt r).numAt n) (.fin false (u.rowAt r).count 0)).1
                ((u.rowAt r).numAt n matches .fin _ _ _) ((u.rowAt r).numAt n).isNan ((u.rowAt r).numAt n).isSig)) 0 u.columns =
                .ok (cols, p.2)) := by
          by_cases hmem : r ∈ rows
          · obtain ⟨y, ev, h1, h2, h3⟩ := divRow_unmarked (nc := u.columns) (hmarks r hmem)
            exact ⟨(y, ev), fun _ => ⟨h1, h2, h3⟩⟩
          · exact ⟨(Row.zero, noEvents), fun h => absurd h hmem⟩
        choose p hp using hrow
        refine ⟨fun r => (p r).1, fun r => (p r).2, ?_, fun r hmem => (hp r hmem).2⟩
        refine rangeForm_completes (exec_tcdiv s f) hr h hj _ _ fun st r hmem hst => ?_
        rw [hst]
        exact (hp r hmem).1

/-- Settles O40. -/
theorem trussWords : Obligations.TrussWords := by
  refine ⟨fun s t K cb f i dist j hmem => ?_, fun s t f i r op needOld countUp j hi => ?_, fun s t f hr hb => ?_,
    fun s t f hr h => tdrain_completes hr h, fun s t K cb v f locs => ?_, fun s r => s.journalRows_spec r,
    fun s f i hi => ?_⟩
  · intro u x kn slot hr ht hk hm
    have hexec : exec i s = trussRow i f dist s := by
      rcases List.mem_cons.mp hmem with h | h
      · cases h
        exact exec_tmac s f
      · cases List.mem_singleton.mp h
        exact exec_tdist s f
    exact ⟨trussRow_completes hexec hr ht hk hm, trussRow_traps hexec hr ht hk hm⟩
  · intro u x m mask old hr
    obtain ⟨body, hexec, hbody⟩ := rowWord_body hi
    obtain ⟨hrange, hjournal⟩ := rowFrom_traps (u := u) (t := t) (a := f.a) (mk := f.m) (r := r) (op := op) (needOld := needOld)
      (countUp := countUp)
    refine ⟨fun h256 hj hx hd ho => ?_, fun h256 => hexec.trans (run_trap hr.ready ?_ (show Cause.rowRange ≠ Cause.held by decide)),
      fun h256 e he => hexec.trans (run_trap hr.ready ?_ ?_)⟩
    · obtain ⟨cols, ev, hcols, hlen, hdone⟩ := rowFrom_completes (op := op) (countUp := countUp) h256 hj hx hd ho
      refine ⟨cols, ev, hcols, hlen, hexec.trans (run_done hr.ready ?_)⟩
      rw [classed_ready hr, hbody]
      exact hdone
    · rw [classed_ready hr, hbody]
      exact hrange h256
    · rw [classed_ready hr, hbody]
      exact hjournal h256 e he
    · rw [State.journalRows_error he]
      decide
  · refine (exec_tcupd s f).trans (run_trap hr.ready ?_)
    rw [classed_ready hr]
    simp only [show s.due.me.truss.tb = none from hb]
  · intro u hr ht hk
    exact tld_spec hr ht hk
  · intro u rows hr
    exact rangeWords hi hr

/-! ### The truss context (R159, R160, R164, R171) -/

section
variable (s : State) (f : Pair) (g : DstB) (h : R2)
theorem exec_tmode : exec (.tmode f) s = run (.tmode f) (fun s =>
    if !modeOk (s.sreg f.a) || (s.sreg f.b).toNat / 2 ^ 32 != 0 then .trap (Trap.plain Cause.trussMode) s
    else .done .seq (s.setMe { s.me with
      truss := { s.me.truss with tm := s.sreg f.a, tmc := (s.sreg f.b).setWidth 32, tb := none } })) s := rfl
theorem exec_tbest : exec (.tbest g) s = execTbest g s := rfl
theorem exec_tcnt : exec (.tcnt h) s = execTcnt h s := rfl
end
theorem exec_tmodr (s : State) (f : Dst) : exec (.tmodr f) s = run (.tmodr f) (fun s => .done .seq (s.setS f.d s.me.truss.tm)) s := rfl
theorem exec_tmodc (s : State) (f : Dst) :
    exec (.tmodc f) s = run (.tmodc f) (fun s => .done .seq (s.setS f.d (s.me.truss.tmc.setWidth 64))) s := rfl

/-- The control image and the column constant keep R159. -/
theorem mode_legal_iff (x c : Word) : (!modeOk x || c.toNat / 2 ^ 32 != 0) = false ↔
    x.toNat % 4 < 2 ∧ x.toNat / 16 % 16 = 0 ∧ x.toNat / 2 ^ 40 = 0 ∧ c.toNat / 2 ^ 32 = 0 := by
  simp only [modeOk, tmMetric, Bool.or_eq_false_iff, Bool.not_eq_false', Bool.and_eq_true, beq_iff_eq, bne_eq_false_iff_eq, and_assoc]
  exact and_congr_left' decide_eq_true_iff

/-- Settles O41. -/
theorem trussContext : Obligations.TrussContext := by
  refine ⟨fun s f hr => ?_, fun s f => ⟨fun hr => ?_, fun hr => ?_⟩, fun s f hr => ⟨fun n v hb => ?_, fun hb => ?_⟩, fun s f hr => ?_⟩
  · intro x c legal
    refine ⟨fun hl => (exec_tmode s f).trans (run_done hr ?_), fun hl => (exec_tmode s f).trans (run_trap hr ?_)⟩
    · have hcond : (!modeOk (s.due.sreg f.a) || (s.due.sreg f.b).toNat / 2 ^ 32 != 0) = false := (mode_legal_iff x c).mpr hl
      simp only [hcond, Bool.false_eq_true, if_false]
      rfl
    · have hcond : (!modeOk (s.due.sreg f.a) || (s.due.sreg f.b).toNat / 2 ^ 32 != 0) = true :=
        Bool.eq_true_of_not_eq_false fun h => hl ((mode_legal_iff x c).mp h)
      simp only [hcond, if_true]
  · exact (exec_tmodr s f).trans (run_done hr rfl)
  · exact (exec_tmodc s f).trans (run_done hr rfl)
  · refine (exec_tbest s f).trans (run_done hr ?_)
    simp only [show s.due.me.truss.tb = some (n, v) from hb]
  · refine (exec_tbest s f).trans (run_done hr ?_)
    simp only [show s.due.me.truss.tb = none from hb]
  · intro x
    refine ⟨fun ha => ?_, fun ha => ?_, fun ha => ?_, fun ha => ?_⟩ <;> refine (exec_tcnt s f).trans (run_done hr ?_) <;>
      simp only [ha] <;> rfl

end Sys2Proof.Machine

/-!
What a vector word and a truss word leave alone (O42).
-/

namespace Sys2Proof.Machine

set_option Elab.async false

/-! ### A word that takes no trap (R62) -/

/-- A word without a new trap record waited, or came through its meaning; one that needs an open strip then stood in one. -/
theorem issue_through {s : State} {i : Instr} {group : VType → Bool} {body : State → Res}
    (h : (s.issue i group body).me.trapSeq = s.me.trapSeq) :
    (∃ c, s.issue i group body = { s with clock := c, waited := true }) ∨
      (s.issue i group body = conclude (s.atIssue i) i (body (s.atIssue i)) ∧ (needsStrip i = true → s.me.strip.isSome = true)) := by
  by_cases hopen : needsStrip i = true → s.me.strip.isSome = true
  · rcases issue_no_trap h with hw | hw | hw
    · exact .inl ⟨s.clock, hw⟩
    · exact .inl ⟨_, hw⟩
    · exact .inr ⟨hw, hopen⟩
  · rw [Classical.not_imp, Bool.not_eq_true, Option.isSome_eq_false_iff] at hopen
    obtain ⟨hneeds, hclosed⟩ := hopen
    have hpre : ∃ x, (s.atIssue i).precheck i group = .error x := by
      unfold State.precheck
      simp only []
      by_cases h1 : (!i.wf) = true
      · exact ⟨_, if_pos h1⟩
      · rw [if_neg h1]
        by_cases h2 : (needsPriv i && !isPriv (s.atIssue i).me.ctl.status) = true
        · exact ⟨_, if_pos h2⟩
        · rw [if_neg h2]
          by_cases h3 : illegalInStrip (s.atIssue i).me i = true
          · exact ⟨_, if_pos h3⟩
          · rw [if_neg h3]
            exact ⟨_, if_pos (by rw [hneeds, State.atIssue_me, hclosed]; rfl)⟩
    obtain ⟨x, hx⟩ := hpre
    rw [issue_eq] at h ⊢
    split
    · exact .inl ⟨s.clock, rfl⟩
    · rename_i hgo
      rw [if_neg hgo] at h
      simp only [hx] at h ⊢
      rcases State.stopWord_cases (s.atIssue i) (s.atIssue i) x (instrInfo i).w with hw | ⟨-, hw⟩
      · exact .inl ⟨_, hw⟩
      · rw [hw, State.atIssue_me] at h
        omega

/-- What such a word answers when its meaning traps only before it has changed anything. -/
theorem exec_through {s t : State} {i : Instr} {group : VType → Bool} {body : State → Res} {P : State → Prop}
    (hexec : exec i s = runG i group body s) (he : exec i s = .next t) (ht : t.me.trapSeq = s.me.trapSeq)
    (hb : (needsStrip i = true → s.me.strip.isSome = true) →
      (∃ fl u, body (s.atIssue i) = .done fl u ∧ P u) ∨ ∃ x, body (s.atIssue i) = .trap x (s.atIssue i)) :
    (∃ c, t = { s with clock := c, waited := true }) ∨ ∃ fl u, t = u.retire i fl ∧ P u := by
  have hst : s.issue i group body = t := Host.Outcome.next.inj (hexec.symm.trans he)
  rcases issue_through (by rw [hst]; exact ht) with ⟨c, hw⟩ | ⟨hw, hopen⟩
  · exact .inl ⟨c, hst.symm.trans hw⟩
  · rcases hb hopen with ⟨fl, u, hu, hp⟩ | ⟨x, hx⟩
    · exact .inr ⟨fl, u, by rw [← hst, hw, hu, conclude_done], hp⟩
    · rw [hx] at hw
      rcases State.stopWord_cases (s.atIssue i) (s.atIssue i) x (instrInfo i).w with hg | ⟨-, hg⟩
      · exact .inl ⟨_, by rw [← hst, hw, conclude, hg]; rfl⟩
      · rw [← hst, hw, conclude, hg, State.atIssue_me] at ht
        omega

/-! ### What a vector word does before it retires -/

/-- What the meaning of a vector word that may write registers d to d + n - 1 may change. -/
structure GroupStep (d n : Nat) (s u : State) : Prop where
  machine : SameMachine { s with free := u.free } u
  own : u.me = { s.me with
    vregs := u.me.vregs, grant := u.me.grant, ctl := { s.me.ctl with status := u.me.ctl.status }, strip := u.me.strip
    early := u.me.early, late := u.me.late, shapes := u.me.shapes }
  vregs : ∀ r : Reg, r.val < d ∨ d + n ≤ r.val → u.me.vregs.get r = s.me.vregs.get r
  gl : u.me.grant.gl = s.me.grant.gl
  flags : u.me.ctl.status &&& ~~~stickyMask = s.me.ctl.status &&& ~~~stickyMask ∧
    s.me.ctl.status ||| u.me.ctl.status = u.me.ctl.status
  strip : u.me.strip.map (fun x => { x with buf := [] }) = s.me.strip.map (fun x => { x with buf := [] })

theorem GroupStep.refl (d n : Nat) (s : State) : GroupStep d n s s :=
  ⟨SameMachine.refl s, rfl, fun _ _ => rfl, rfl, ⟨rfl, BitVec.or_self⟩, rfl⟩

theorem SameMachine.withFree {s t : State} (h : SameMachine s t) (f : Nat) : SameMachine { s with free := f } { t with free := f } :=
  ⟨h.cur, h.agenda, h.mem, h.others, h.uppers, h.soles, h.parts, h.launches, h.nests, h.queue, h.yields, h.cmds, h.rounds, h.flights,
    h.holds, h.saves, h.dev, rfl, h.uid, h.tables, h.pages⟩

theorem GroupStep.trans {d n : Nat} {s u v : State} (h : GroupStep d n s u) (k : GroupStep d n u v) : GroupStep d n s v := by
  refine ⟨?_, ?_, fun r hr => (k.vregs r hr).trans (h.vregs r hr), k.gl.trans h.gl, ⟨k.flags.1.trans h.flags.1, ?_⟩,
    k.strip.trans h.strip⟩
  · exact (h.machine.withFree v.free).trans k.machine
  · exact k.own.trans (by rw [h.own])
  · rw [← k.flags.2, ← h.flags.2, ← BitVec.or_assoc, ← BitVec.or_assoc, BitVec.or_self]

/-- A step within fewer registers. -/
theorem GroupStep.widen {d n d' n' : Nat} {s u : State} (h : GroupStep d' n' s u) (h1 : d ≤ d') (h2 : d' + n' ≤ d + n) :
    GroupStep d n s u :=
  ⟨h.machine, h.own, fun r hr => h.vregs r (by omega), h.gl, h.flags, h.strip⟩

theorem GroupStep.none {d n : Nat} {s u : State} (h : GroupStep 0 0 s u) : GroupStep d n s u :=
  ⟨h.machine, h.own, fun r _ => h.vregs r (by omega), h.gl, h.flags, h.strip⟩

/-! ### The operations of a vector word -/

theorem vregs_writeGroup_other (m : Seq) (gang bits count len : Nat) {d g : Nat} {r : Reg} (h : r.val < d ∨ d + g ≤ r.val) :
    (writeGroup m gang d bits count len g).vregs.get r = m.vregs.get r := by
  induction g with
  | zero => rfl
  | succ g ih =>
    rw [← ih (by omega)]
    simp only [writeGroup]
    unfold Seq.setV
    split
    · have hne : d + g ≠ r.val := by omega
      simp [Vector.get_eq_getElem, hne]
    · rfl

theorem GroupStep.writeGroup (s : State) (d g bits count len : Nat) :
    GroupStep d g s (s.setMe (writeGroup s.me s.gang d bits count len g)) := by
  have hother (r : Reg) (hr : r.val < d ∨ d + g ≤ r.val) := vregs_writeGroup_other s.me s.gang bits count len hr
  have heq := writeGroup_eq s.me s.gang d bits count len g
  generalize (Machine.writeGroup s.me s.gang d bits count len g).vregs = v at heq hother
  refine ⟨SameMachine.setMe s _, ?_, fun r hr => ?_, ?_, ?_, ?_⟩ <;> rw [State.me_setMe, heq]
  · exact hother r hr
  · exact ⟨rfl, BitVec.or_self⟩

theorem raiseFlags_sticky (st : Word) (fl : FlagSet) :
    raiseFlags st fl &&& ~~~stickyMask = st &&& ~~~stickyMask ∧ st ||| raiseFlags st fl = raiseFlags st fl := by
  constructor
  · have hfl : fl.word &&& ~~~stickyMask = 0 := by
      have hall : ∀ b1 b2 b3 b4 b5 b6 : Bool, (FlagSet.mk b1 b2 b3 b4 b5 b6).word &&& ~~~stickyMask = 0 := by decide
      exact hall ..
    refine BitVec.eq_of_getLsbD_eq fun k hk => ?_
    have hbit : (fl.word &&& ~~~stickyMask).getLsbD k = false := by
      rw [hfl]
      simp
    rw [BitVec.getLsbD_and] at hbit
    rw [raiseFlags, BitVec.getLsbD_and, BitVec.getLsbD_or, BitVec.getLsbD_and, Bool.and_or_distrib_right, hbit, Bool.or_false]
  · rw [raiseFlags, ← BitVec.or_assoc, BitVec.or_self]

theorem GroupStep.raise (s : State) (fl : FlagSet) : GroupStep 0 0 s (s.raise fl) := by
  refine ⟨SameMachine.setMe s _, ?_, fun r hr => ?_, ?_, ?_, ?_⟩ <;> rw [State.me_raise]
  exact raiseFlags_sticky _ _

theorem GroupStep.report (s : State) (r : Report) : GroupStep 0 0 s (s.report r) := by
  refine ⟨SameMachine.setMe s _, ?_, fun r hr => ?_, ?_, ?_, ?_⟩ <;> rw [State.me_report]
  · rfl
  · exact ⟨rfl, BitVec.or_self⟩

theorem GroupStep.finish (s : State) (g d : Nat) (o : Out) (n : Nat) (r : Report) : GroupStep d g s (s.finish g d o n r) :=
  ((GroupStep.writeGroup s d g _ _ _).trans (GroupStep.raise _ _).none).trans (GroupStep.report _ _).none

theorem GroupStep.loaded (s : State) (l : List Access) : GroupStep 0 0 s (s.loaded l) := by
  unfold State.loaded
  split
  · exact GroupStep.refl 0 0 s
  · refine ⟨SameMachine.setMe s _, ?_, fun r hr => ?_, ?_, ?_, ?_⟩ <;> rw [State.me_setMe]
    exact ⟨rfl, BitVec.or_self⟩

theorem GroupStep.loadedFrom (s : State) (f : Nat → Access) (va n : Nat) : GroupStep 0 0 s (s.loadedFrom f va n) := by
  unfold State.loadedFrom
  split
  · exact GroupStep.refl 0 0 s
  · exact GroupStep.loaded s _

/-- The counter of free values moves. -/
theorem GroupStep.free (s : State) (f : Nat) : GroupStep 0 0 s { s with free := f } :=
  ⟨SameMachine.refl _, rfl, fun _ _ => rfl, rfl, ⟨rfl, BitVec.or_self⟩, rfl⟩

theorem foldl_forget_eq (b : SMap BufSector) (m : Seq) :
    b.foldl (fun m x => m.forget (enabledIn x.1 x.2.en)) m =
      { m with early := (b.foldl (fun m x => m.forget (enabledIn x.1 x.2.en)) m).early,
               late := (b.foldl (fun m x => m.forget (enabledIn x.1 x.2.en)) m).late } := by
  induction b generalizing m with
  | nil => rfl
  | cons x t ih => exact (ih (m.forget (enabledIn x.1 x.2.en))).trans rfl

/-- A store into the buffer of the open strip. -/
theorem GroupStep.storeAs {s : State} (h : s.me.strip.isSome = true) (shape : StoreShape) (b : SMap BufSector) :
    GroupStep 0 0 s (s.storeAs shape b) := by
  obtain ⟨st, hst⟩ := Option.isSome_iff_exists.mp h
  unfold State.storeAs
  rw [hst]
  simp only []
  rw [foldl_forget_eq]
  refine ⟨SameMachine.setMe s _, ?_, fun r hr => ?_, ?_, ?_, ?_⟩ <;> rw [State.me_setMe]
  · exact ⟨rfl, BitVec.or_self⟩
  · rw [hst]
    rfl

theorem GroupStep.storeElems {s : State} (h : s.me.strip.isSome = true) (asc : Bool) (fm : Form) (a : Word) (sz : Nat)
    (mask : Option (BitVec 4096)) (n : Nat) (b : SMap BufSector) : GroupStep 0 0 s (s.storeElems asc fm a sz mask n b) := by
  unfold State.storeElems
  split <;> exact GroupStep.storeAs h _ _

/-! ### The meanings -/

/-- At a state, a meaning does a vector word's step on registers d to d + n - 1, or traps before it has changed anything. -/
def GroupBody (d n : Nat) (body : State → Res) (s : State) : Prop :=
  (∃ fl u, body s = .done fl u ∧ GroupStep d n s u) ∨ ∃ x, body s = .trap x s

theorem GroupBody.classed {d n : Nat} {c : Machine.Class} {m : Mask3} {body : VType → State → Res} {s : State}
    (h : GroupBody d n (body s.typeOr) s) : GroupBody d n (classed c m body) s := by
  unfold GroupBody Machine.classed
  simp only []
  split
  · exact .inr ⟨_, rfl⟩
  · split
    · exact .inr ⟨_, rfl⟩
    · exact h

theorem GroupBody.unordered {d n : Nat} {body : State → Res} {s : State} (h : GroupBody d n body s) :
    GroupBody d n (unordered body) s := by
  unfold GroupBody Machine.unordered
  split
  · exact .inr ⟨_, rfl⟩
  · exact h

theorem GroupBody.coded {d n : Nat} {body : VType → Coding → State → Res} {s : State}
    (h : ∀ k, GroupBody d n (body s.typeOr k) s) : GroupBody d n (coded body) s := by
  unfold GroupBody Machine.coded
  simp only []
  split
  · exact .inr ⟨_, rfl⟩
  · exact h _

theorem GroupBody.mapVec (c : Machine.Class) (d : Reg) (regs : List Reg) (m : Mask3) (op : VType → State → Nat → List Val → Result)
    (s : State) : GroupBody d.val s.typeOr.g (mapVec c d regs m op) s := by
  refine GroupBody.classed ?_
  unfold GroupBody
  simp only []
  split
  · exact .inr ⟨_, rfl⟩
  · exact .inl ⟨_, _, rfl, GroupStep.finish ..⟩

theorem GroupBody.loadVec (asc : Bool) (form : VType → State → Form) (d a : Reg) (m : Mask3) (s : State) :
    GroupBody d.val s.typeOr.g (loadVec asc form d a m) s := by
  unfold GroupBody Machine.loadVec
  simp only []
  split
  · exact .inr ⟨_, rfl⟩
  · split
    · exact .inr ⟨_, rfl⟩
    · split
      · exact .inr ⟨_, rfl⟩
      · exact .inl ⟨_, _, rfl, (GroupStep.finish ..).trans (GroupStep.loaded ..).none⟩

theorem GroupBody.vld (f : V2) (s : State) :
    GroupBody f.d.val s.typeOr.g (fun s => if s.typeOr.fam = .plain .eb ∧ f.m.val = 0 then loadEb s.typeOr f.d f.a s
      else Machine.loadVec false unitForm f.d f.a f.m s) s := by
  unfold GroupBody
  simp only []
  split
  · unfold loadEb
    split
    · exact .inr ⟨_, rfl⟩
    · split
      · exact .inr ⟨_, rfl⟩
      · exact .inl ⟨_, _, rfl, (GroupStep.finish ..).trans (GroupStep.loadedFrom ..).none⟩
  · exact GroupBody.loadVec false unitForm f.d f.a f.m s

theorem GroupBody.storeVec (asc : Bool) (form : VType → State → Form) (d a : Reg) (m : Mask3) {s : State}
    (h : s.me.strip.isSome = true) : GroupBody 0 0 (storeVec asc form d a m) s := by
  unfold GroupBody Machine.storeVec
  simp only []
  split
  · exact .inr ⟨_, rfl⟩
  · split
    · exact .inr ⟨_, rfl⟩
    · split
      · exact .inr ⟨_, rfl⟩
      · exact .inl ⟨_, _, rfl, (GroupStep.storeElems h ..).trans (GroupStep.report ..)⟩

theorem GroupBody.vst (f : V2) {s : State} (h : s.me.strip.isSome = true) :
    GroupBody 0 0 (fun s => if s.typeOr.fam = .plain .eb ∧ f.m.val = 0 then storeEb s.typeOr f.d f.a s
      else Machine.storeVec false unitForm f.d f.a f.m s) s := by
  unfold GroupBody
  simp only []
  split
  · unfold storeEb
    simp only []
    split
    · exact .inr ⟨_, rfl⟩
    · split
      · exact .inr ⟨_, rfl⟩
      · exact .inl ⟨_, _, rfl, (GroupStep.storeAs h ..).trans (GroupStep.report ..)⟩
  · exact GroupBody.storeVec false unitForm f.d f.a f.m h

theorem GroupStep.reduceDone (s : State) (t : VType) (d : Reg) (x : Src) (gb n gs : Nat) (v : Val) (fl : FlagSet) :
    GroupStep d.val t.g s (s.reduceDone t d x gb n gs v fl) := by
  unfold State.reduceDone
  simp only []
  split <;> exact GroupStep.finish ..

/-- A vector word that may write the registers from `d` on, as many as `n` says of its type. -/
def VectorWord (i : Instr) (d : Nat) (n : VType → Nat) : Prop :=
  ∃ group body, (∀ s, exec i s = runG i group body s) ∧
    ∀ s, (needsStrip i = true → s.me.strip.isSome = true) → GroupBody d (n s.typeOr) body s

theorem vectorWord_vadd (f : V3) : VectorWord (.vadd f) f.d.val VType.g :=
  ⟨noGroup, _, fun s => exec_vadd s f, fun s _ => GroupBody.mapVec _ f.d _ f.m _ s⟩
theorem vectorWord_vsub (f : V3) : VectorWord (.vsub f) f.d.val VType.g :=
  ⟨noGroup, _, fun s => exec_vsub s f, fun s _ => GroupBody.mapVec _ f.d _ f.m _ s⟩
theorem vectorWord_vmul (f : V3) : VectorWord (.vmul f) f.d.val VType.g :=
  ⟨noGroup, _, fun s => exec_vmul s f, fun s _ => GroupBody.mapVec _ f.d _ f.m _ s⟩
theorem vectorWord_vdiv (f : V3) : VectorWord (.vdiv f) f.d.val VType.g :=
  ⟨noGroup, _, fun s => exec_vdiv s f, fun s _ => GroupBody.mapVec _ f.d _ f.m _ s⟩
theorem vectorWord_vmin (f : V3) : VectorWord (.vmin f) f.d.val VType.g :=
  ⟨noGroup, _, fun s => exec_vmin s f, fun s _ => GroupBody.mapVec _ f.d _ f.m _ s⟩
theorem vectorWord_vmax (f : V3) : VectorWord (.vmax f) f.d.val VType.g :=
  ⟨noGroup, _, fun s => exec_vmax s f, fun s _ => GroupBody.mapVec _ f.d _ f.m _ s⟩
theorem vectorWord_vabsd (f : V3) : VectorWord (.vabsd f) f.d.val VType.g :=
  ⟨noGroup, _, fun s => exec_vabsd s f, fun s _ => GroupBody.mapVec _ f.d _ f.m _ s⟩
theorem vectorWord_vand (f : V3) : VectorWord (.vand f) f.d.val VType.g :=
  ⟨noGroup, _, fun s => exec_vand s f, fun s _ => GroupBody.mapVec _ f.d _ f.m _ s⟩
theorem vectorWord_vor (f : V3) : VectorWord (.vor f) f.d.val VType.g :=
  ⟨noGroup, _, fun s => exec_vor s f, fun s _ => GroupBody.mapVec _ f.d _ f.m _ s⟩
theorem vectorWord_vxor (f : V3) : VectorWord (.vxor f) f.d.val VType.g :=
  ⟨noGroup, _, fun s => exec_vxor s f, fun s _ => GroupBody.mapVec _ f.d _ f.m _ s⟩
theorem vectorWord_vsll (f : V3) : VectorWord (.vsll f) f.d.val VType.g :=
  ⟨noGroup, _, fun s => exec_vsll s f, fun s _ => GroupBody.mapVec _ f.d _ f.m _ s⟩
theorem vectorWord_vsrl (f : V3) : VectorWord (.vsrl f) f.d.val VType.g :=
  ⟨noGroup, _, fun s => exec_vsrl s f, fun s _ => GroupBody.mapVec _ f.d _ f.m _ s⟩
theorem vectorWord_vsra (f : V3) : VectorWord (.vsra f) f.d.val VType.g :=
  ⟨noGroup, _, fun s => exec_vsra s f, fun s _ => GroupBody.mapVec _ f.d _ f.m _ s⟩
theorem vectorWord_vadds (f : V3) : VectorWord (.vadds f) f.d.val VType.g :=
  ⟨noGroup, _, fun s => exec_vadds s f, fun s _ => GroupBody.mapVec _ f.d _ f.m _ s⟩
theorem vectorWord_vmuls (f : V3) : VectorWord (.vmuls f) f.d.val VType.g :=
  ⟨noGroup, _, fun s => exec_vmuls s f, fun s _ => GroupBody.mapVec _ f.d _ f.m _ s⟩
theorem vectorWord_vfma (f : V3) : VectorWord (.vfma f) f.d.val VType.g :=
  ⟨noGroup, _, fun s => exec_vfma s f, fun s _ => GroupBody.mapVec _ f.d _ f.m _ s⟩
theorem vectorWord_vfms (f : V3) : VectorWord (.vfms f) f.d.val VType.g :=
  ⟨noGroup, _, fun s => exec_vfms s f, fun s _ => GroupBody.mapVec _ f.d _ f.m _ s⟩
theorem vectorWord_vfnma (f : V3) : VectorWord (.vfnma f) f.d.val VType.g :=
  ⟨noGroup, _, fun s => exec_vfnma s f, fun s _ => GroupBody.mapVec _ f.d _ f.m _ s⟩
theorem vectorWord_vneg (f : V2) : VectorWord (.vneg f) f.d.val VType.g :=
  ⟨noGroup, _, fun s => exec_vneg s f, fun s _ => GroupBody.mapVec _ f.d _ f.m _ s⟩
theorem vectorWord_vabs (f : V2) : VectorWord (.vabs f) f.d.val VType.g :=
  ⟨noGroup, _, fun s => exec_vabs s f, fun s _ => GroupBody.mapVec _ f.d _ f.m _ s⟩
theorem vectorWord_vsqrt (f : V2) : VectorWord (.vsqrt f) f.d.val VType.g :=
  ⟨noGroup, _, fun s => exec_vsqrt s f, fun s _ => GroupBody.mapVec _ f.d _ f.m _ s⟩
theorem vectorWord_vid (f : V1) : VectorWord (.vid f) f.d.val VType.g :=
  ⟨noGroup, _, fun s => exec_vid s f, fun s _ => GroupBody.mapVec _ f.d _ f.m _ s⟩
theorem vectorWord_vldo (f : V2) : VectorWord (.vldo f) f.d.val VType.g :=
  ⟨noGroup, _, fun s => exec_vldo s f, fun s _ => GroupBody.loadVec _ _ f.d f.a f.m s⟩
theorem vectorWord_vldb (f : V2) : VectorWord (.vldb f) f.d.val VType.g :=
  ⟨noGroup, _, fun s => exec_vldb s f, fun s _ => GroupBody.loadVec _ _ f.d f.a f.m s⟩
theorem vectorWord_vlds (f : V3) : VectorWord (.vlds f) f.d.val VType.g :=
  ⟨noGroup, _, fun s => exec_vlds s f, fun s _ => GroupBody.loadVec _ _ f.d f.a f.m s⟩
theorem vectorWord_vldso (f : V3) : VectorWord (.vldso f) f.d.val VType.g :=
  ⟨noGroup, _, fun s => exec_vldso s f, fun s _ => GroupBody.loadVec _ _ f.d f.a f.m s⟩
theorem vectorWord_vldx (f : V3) : VectorWord (.vldx f) f.d.val VType.g :=
  ⟨indexOk f.b, _, fun s => exec_vldx s f, fun s _ => GroupBody.loadVec _ _ f.d f.a f.m s⟩
theorem vectorWord_vldxo (f : V3) : VectorWord (.vldxo f) f.d.val VType.g :=
  ⟨indexOk f.b, _, fun s => exec_vldxo s f, fun s _ => GroupBody.loadVec _ _ f.d f.a f.m s⟩
theorem vectorWord_vld (f : V2) : VectorWord (.vld f) f.d.val VType.g := ⟨noGroup, _, fun s => exec_vld s f, fun s _ => GroupBody.vld f s⟩
theorem vectorWord_vsto (f : V2) : VectorWord (.vsto f) 0 (fun _ => 0) :=
  ⟨noGroup, _, fun s => exec_vsto s f, fun _ h => GroupBody.storeVec _ _ f.d f.a f.m (h rfl)⟩
theorem vectorWord_vstc (f : V2) : VectorWord (.vstc f) 0 (fun _ => 0) :=
  ⟨noGroup, _, fun s => exec_vstc s f, fun _ h => GroupBody.storeVec _ _ f.d f.a f.m (h rfl)⟩
theorem vectorWord_vsts (f : V3) : VectorWord (.vsts f) 0 (fun _ => 0) :=
  ⟨noGroup, _, fun s => exec_vsts s f, fun _ h => GroupBody.storeVec _ _ f.d f.a f.m (h rfl)⟩
theorem vectorWord_vstso (f : V3) : VectorWord (.vstso f) 0 (fun _ => 0) :=
  ⟨noGroup, _, fun s => exec_vstso s f, fun _ h => GroupBody.storeVec _ _ f.d f.a f.m (h rfl)⟩
theorem vectorWord_vstx (f : V3) : VectorWord (.vstx f) 0 (fun _ => 0) :=
  ⟨indexOk f.b, _, fun s => exec_vstx s f, fun _ h => GroupBody.storeVec _ _ f.d f.a f.m (h rfl)⟩
theorem vectorWord_vstxo (f : V3) : VectorWord (.vstxo f) 0 (fun _ => 0) :=
  ⟨indexOk f.b, _, fun s => exec_vstxo s f, fun _ h => GroupBody.storeVec _ _ f.d f.a f.m (h rfl)⟩
theorem vectorWord_vst (f : V2) : VectorWord (.vst f) 0 (fun _ => 0) :=
  ⟨noGroup, _, fun s => exec_vst s f, fun _ h => GroupBody.vst f (h rfl)⟩
theorem vectorWord_vbcast (f : VB) : VectorWord (.vbcast f) f.d.val VType.g := by
  refine ⟨noGroup, _, fun s => exec_vbcast s f, fun s _ => GroupBody.classed ?_⟩
  unfold GroupBody
  simp only []
  split
  · exact .inr ⟨_, rfl⟩
  · exact .inl ⟨_, _, rfl, GroupStep.finish ..⟩
theorem vectorWord_vcvt (f : V3) : VectorWord (.vcvt f) f.d.val VType.g := by
  refine ⟨noGroup, _, fun s => exec_vcvt s f, fun s _ => GroupBody.classed ?_⟩
  unfold GroupBody
  simp only []
  split
  · exact .inr ⟨_, rfl⟩
  · exact .inl ⟨_, _, rfl, GroupStep.finish ..⟩
theorem vectorWord_vmov (f : V2) : VectorWord (.vmov f) f.d.val VType.g := by
  refine ⟨noGroup, _, fun s => exec_vmov s f, fun s _ => GroupBody.classed ?_⟩
  unfold GroupBody
  simp only []
  split
  · exact .inr ⟨_, rfl⟩
  · exact .inl ⟨_, _, rfl, GroupStep.finish ..⟩
theorem vectorWord_vcomp (f : V2) : VectorWord (.vcomp f) f.d.val VType.g := by
  refine ⟨noGroup, _, fun s => exec_vcomp s f, fun s _ => GroupBody.classed ?_⟩
  unfold GroupBody
  simp only []
  split
  · exact .inr ⟨_, rfl⟩
  · exact .inl ⟨_, _, rfl, GroupStep.finish ..⟩
theorem vectorWord_vsel (f : V3) : VectorWord (.vsel f) f.d.val VType.g := by
  refine ⟨noGroup, _, fun s => exec_vsel s f, fun s _ => GroupBody.classed ?_⟩
  unfold GroupBody
  simp only []
  split
  · exact .inr ⟨_, rfl⟩
  · exact .inl ⟨_, _, rfl, GroupStep.finish ..⟩
theorem vectorWord_vperm (f : V3) : VectorWord (.vperm f) f.d.val VType.g := by
  refine ⟨indexOk f.b, _, fun s => exec_vperm s f, fun s _ => GroupBody.classed ?_⟩
  unfold GroupBody
  simp only []
  split
  · exact .inr ⟨_, rfl⟩
  · exact .inl ⟨_, _, rfl, GroupStep.finish ..⟩
theorem vectorWord_vqnt (f : R2) : VectorWord (.vqnt f) f.d.val VType.g := by
  refine ⟨wideOk f.a, _, fun s => exec_vqnt s f, fun s _ => GroupBody.classed ?_⟩
  unfold GroupBody
  simp only []
  split
  · exact .inr ⟨_, rfl⟩
  · exact .inl ⟨_, _, rfl, GroupStep.finish ..⟩
theorem vectorWord_tdrain (f : TRow) : VectorWord (.tdrain f) f.a.val VType.g := by
  refine ⟨noGroup, _, fun s => exec_tdrain s f, fun s _ => GroupBody.classed ?_⟩
  unfold GroupBody
  simp only []
  split
  · exact .inr ⟨_, rfl⟩
  · exact .inl ⟨_, _, rfl, GroupStep.finish ..⟩
theorem vectorWord_vdqnt (f : R2) : VectorWord (.vdqnt f) f.d.val (fun t => 8 * t.g) := by
  refine ⟨wideOk f.d, _, fun s => exec_vdqnt s f, fun s _ => GroupBody.classed ?_⟩
  unfold GroupBody
  simp only []
  split
  · exact .inr ⟨_, rfl⟩
  · exact .inl ⟨_, _, rfl, GroupStep.finish ..⟩
theorem GroupBody.slide (f : V3) (lim : Nat → Nat → Nat) (from_ : Nat → Nat → Option Nat) (s : State) :
    GroupBody f.d.val s.typeOr.g (Machine.classed .movable f.m (fun t s =>
      match elemLoop (s.grantLen t) [lim (s.srcOf (s.layout t) t.g f.a.val).count (s.sreg f.b).toNat] (s.maskOf f.m)
          (s.copyElem t (s.srcOf (s.layout t) t.g f.a.val) (s.maskOf f.m) (from_ (s.sreg f.b).toNat)) (Out.zero, 0) with
      | .error e => .trap e s
      | .ok (n, gs, o, ga) => .done .seq (s.finish t.g f.d.val o n ⟨n, n, ga, 0, o.used, gs⟩))) s := by
  refine GroupBody.classed ?_
  unfold GroupBody
  simp only []
  split
  · exact .inr ⟨_, rfl⟩
  · exact .inl ⟨_, _, rfl, GroupStep.finish ..⟩
theorem vectorWord_vslup (f : V3) : VectorWord (.vslup f) f.d.val VType.g :=
  ⟨noGroup, _, fun s => exec_vslup s f, fun s _ => GroupBody.slide f (fun c k => c + k) (fun k n => if n < k then none else some (n - k)) s⟩
theorem vectorWord_vsldn (f : V3) : VectorWord (.vsldn f) f.d.val VType.g :=
  ⟨noGroup, _, fun s => exec_vsldn s f, fun s _ => GroupBody.slide f (fun c k => c - k) (fun k n => some (n + k)) s⟩


theorem GroupBody.reduce (f : V3) (step : State → VType → Nat → Val → Val → Val × FlagSet) (s : State) :
    GroupBody f.d.val s.typeOr.g (Machine.classed .arith f.m (fun t s =>
      match s.foldInit t f.b with
      | .error e => .trap e s
      | .ok (v, gb) =>
        match elemLoop (s.grantLen t) [(s.srcOf (s.layout t) t.g f.a.val).count] (s.maskOf f.m)
            (foldElem (s.srcOf (s.layout t) t.g f.a.val) (s.maskOf f.m) (step s t)) (v, noFlags) with
        | .error e => .trap e s
        | .ok (n, gs, r, fl) => .done .seq (s.reduceDone t f.d (s.srcOf (s.layout t) t.g f.a.val) gb n gs r fl))) s := by
  refine GroupBody.classed ?_
  unfold GroupBody
  simp only []
  split
  · exact .inr ⟨_, rfl⟩
  · split
    · exact .inr ⟨_, rfl⟩
    · exact .inl ⟨_, _, rfl, GroupStep.reduceDone ..⟩

theorem vectorWord_vredo (f : V3) : VectorWord (.vredo f) f.d.val VType.g :=
  ⟨noGroup, _, fun s => exec_vredo s f, fun s _ => GroupBody.reduce f (fun s t => s.addStep t) s⟩

theorem GroupBody.extreme (f : V3) (onInt : Int → Int → Int) (onNum : Machine.Num → Machine.Num → Exact × FlagSet) (s : State) :
    GroupBody f.d.val s.typeOr.g (Machine.classed .arith f.m (fun t s =>
      match s.foldInit t f.b with
      | .error e => .trap e s
      | .ok (v, gb) =>
        match elemLoop (s.grantLen t) [(s.srcOf (s.layout t) t.g f.a.val).count] (s.maskOf f.m)
            (foldElem (s.srcOf (s.layout t) t.g f.a.val) (s.maskOf f.m) (s.extremeStep t onInt onNum)) (v, noFlags) with
        | .error e => .trap e s
        | .ok (n, gs, r, fl) => .done .seq (s.reduceDone t f.d (s.srcOf (s.layout t) t.g f.a.val) gb n gs
            (s.extremeDone r fl).1 (s.extremeDone r fl).2))) s := by
  refine GroupBody.classed ?_
  unfold GroupBody
  simp only []
  split
  · exact .inr ⟨_, rfl⟩
  · split
    · exact .inr ⟨_, rfl⟩
    · exact .inl ⟨_, _, rfl, GroupStep.reduceDone ..⟩

theorem vectorWord_vredmin (f : V3) : VectorWord (.vredmin f) f.d.val VType.g :=
  ⟨noGroup, _, fun s => exec_vredmin s f, fun s _ => GroupBody.extreme f min minNum s⟩
theorem vectorWord_vredmax (f : V3) : VectorWord (.vredmax f) f.d.val VType.g :=
  ⟨noGroup, _, fun s => exec_vredmax s f, fun s _ => GroupBody.extreme f max maxNum s⟩

theorem vectorWord_vscano (f : V3) : VectorWord (.vscano f) f.d.val VType.g := by
  refine ⟨noGroup, _, fun s => exec_vscano s f, fun s _ => GroupBody.classed ?_⟩
  unfold GroupBody
  simp only []
  split
  · exact .inr ⟨_, rfl⟩
  · split
    · exact .inr ⟨_, rfl⟩
    · exact .inl ⟨_, _, rfl, GroupStep.finish ..⟩

theorem vectorWord_vredt (f : V3) : VectorWord (.vredt f) f.d.val VType.g := by
  refine ⟨noGroup, _, fun s => exec_vredt s f, fun s _ => GroupBody.unordered (GroupBody.classed ?_)⟩
  unfold GroupBody
  simp only []
  split
  · exact .inr ⟨_, rfl⟩
  · split
    · exact .inr ⟨_, rfl⟩
    · exact .inl ⟨_, _, rfl, (GroupStep.free s _).none.trans (GroupStep.reduceDone ..)⟩

theorem vectorWord_vscanf (f : V3) : VectorWord (.vscanf f) f.d.val VType.g := by
  refine ⟨noGroup, _, fun s => exec_vscanf s f, fun s _ => GroupBody.unordered (GroupBody.classed ?_)⟩
  unfold GroupBody
  simp only []
  split
  · exact .inr ⟨_, rfl⟩
  · split
    · exact .inr ⟨_, rfl⟩
    · exact .inl ⟨_, _, rfl, (GroupStep.free s _).none.trans (GroupStep.finish ..)⟩

theorem GroupBody.pair (f : V3) (op : Machine.Num → Machine.Num → Exact × FlagSet) (s : State) :
    GroupBody f.d.val (2 * s.typeOr.g) (Machine.classed .fp32 f.m (fun t s =>
      match elemLoop (s.grantLen t) (([f.a, f.b].map (fun v => s.srcOf (s.layout t) t.g v.val)).map (·.count)) (s.maskOf f.m)
          (s.pairElem (s.maskOf f.m) ([f.a, f.b].map (fun v => s.srcOf (s.layout t) t.g v.val)) op) (Out.zero, Out.zero) with
      | .error e => .trap e s
      | .ok (n, gs, hi, lo) =>
        let s' := s.finish t.g f.d.val hi n ⟨n, n, spent ([f.a, f.b].map (fun v => s.srcOf (s.layout t) t.g v.val)) 0 n,
          spent ([f.a, f.b].map (fun v => s.srcOf (s.layout t) t.g v.val)) 1 n, 64 * n, gs⟩
        .done .seq (s'.setMe (Machine.writeGroup s'.me s'.gang (f.d.val + t.g) lo.bits n lo.used t.g)))) s := by
  refine GroupBody.classed ?_
  unfold GroupBody
  simp only []
  split
  · exact .inr ⟨_, rfl⟩
  · exact .inl ⟨_, _, rfl, ((GroupStep.finish ..).widen (Nat.le_refl _) (by omega)).trans
      ((GroupStep.writeGroup ..).widen (by omega) (by omega))⟩

theorem vectorWord_vtsum (f : V3) : VectorWord (.vtsum f) f.d.val (fun t => 2 * t.g) :=
  ⟨_, _, fun s => exec_vtsum s f, fun s _ => GroupBody.pair f (addNum .ne) s⟩
theorem vectorWord_vtprod (f : V3) : VectorWord (.vtprod f) f.d.val (fun t => 2 * t.g) :=
  ⟨_, _, fun s => exec_vtprod s f, fun s _ => GroupBody.pair f mulNum s⟩

theorem vectorWord_zld (f : R3) : VectorWord (.zld f) f.d.val VType.g := by
  refine ⟨noGroup, _, fun s => exec_zld s f, fun s _ => GroupBody.coded fun k => ?_⟩
  unfold GroupBody
  simp only []
  split
  · exact .inr ⟨_, rfl⟩
  · split
    · exact .inr ⟨_, rfl⟩
    · exact .inl ⟨_, _, rfl, (GroupStep.finish ..).trans (GroupStep.loadedFrom ..).none⟩

theorem vectorWord_zfind (f : R2) : VectorWord (.zfind f) f.d.val VType.g := by
  refine ⟨noGroup, _, fun s => exec_zfind s f, fun s _ => GroupBody.coded fun k => ?_⟩
  unfold GroupBody
  simp only []
  split
  · exact .inr ⟨_, rfl⟩
  · exact .inl ⟨_, _, rfl, GroupStep.finish ..⟩

theorem vectorWord_zst (f : R2) : VectorWord (.zst f) 0 (fun _ => 0) := by
  refine ⟨noGroup, _, fun s => exec_zst s f, fun s h => GroupBody.coded fun k => ?_⟩
  unfold GroupBody
  simp only []
  split
  · exact .inl ⟨_, _, rfl, GroupStep.report ..⟩
  · split
    · exact .inr ⟨_, rfl⟩
    · split
      · exact .inr ⟨_, rfl⟩
      · split
        · exact .inr ⟨_, rfl⟩
        · exact .inl ⟨_, _, rfl, (GroupStep.storeAs (h rfl) ..).trans (GroupStep.report ..)⟩

/-- Every word that `vectorDest` names is a vector word on those registers. -/
theorem vectorWord_of_dest {i : Instr} {d n : Nat} {s : State} (h : vectorDest s i = some (d, n)) :
    ∃ k, VectorWord i d k ∧ k s.typeOr = n := by
  cases i
  case vadd f =>
    cases h
    exact ⟨_, vectorWord_vadd f, rfl⟩
  case vsub f =>
    cases h
    exact ⟨_, vectorWord_vsub f, rfl⟩
  case vmul f =>
    cases h
    exact ⟨_, vectorWord_vmul f, rfl⟩
  case vdiv f =>
    cases h
    exact ⟨_, vectorWord_vdiv f, rfl⟩
  case vmin f =>
    cases h
    exact ⟨_, vectorWord_vmin f, rfl⟩
  case vmax f =>
    cases h
    exact ⟨_, vectorWord_vmax f, rfl⟩
  case vabsd f =>
    cases h
    exact ⟨_, vectorWord_vabsd f, rfl⟩
  case vand f =>
    cases h
    exact ⟨_, vectorWord_vand f, rfl⟩
  case vor f =>
    cases h
    exact ⟨_, vectorWord_vor f, rfl⟩
  case vxor f =>
    cases h
    exact ⟨_, vectorWord_vxor f, rfl⟩
  case vsll f =>
    cases h
    exact ⟨_, vectorWord_vsll f, rfl⟩
  case vsrl f =>
    cases h
    exact ⟨_, vectorWord_vsrl f, rfl⟩
  case vsra f =>
    cases h
    exact ⟨_, vectorWord_vsra f, rfl⟩
  case vadds f =>
    cases h
    exact ⟨_, vectorWord_vadds f, rfl⟩
  case vmuls f =>
    cases h
    exact ⟨_, vectorWord_vmuls f, rfl⟩
  case vfma f =>
    cases h
    exact ⟨_, vectorWord_vfma f, rfl⟩
  case vfms f =>
    cases h
    exact ⟨_, vectorWord_vfms f, rfl⟩
  case vfnma f =>
    cases h
    exact ⟨_, vectorWord_vfnma f, rfl⟩
  case vcvt f =>
    cases h
    exact ⟨_, vectorWord_vcvt f, rfl⟩
  case vsel f =>
    cases h
    exact ⟨_, vectorWord_vsel f, rfl⟩
  case vslup f =>
    cases h
    exact ⟨_, vectorWord_vslup f, rfl⟩
  case vsldn f =>
    cases h
    exact ⟨_, vectorWord_vsldn f, rfl⟩
  case vperm f =>
    cases h
    exact ⟨_, vectorWord_vperm f, rfl⟩
  case vredo f =>
    cases h
    exact ⟨_, vectorWord_vredo f, rfl⟩
  case vredt f =>
    cases h
    exact ⟨_, vectorWord_vredt f, rfl⟩
  case vredmin f =>
    cases h
    exact ⟨_, vectorWord_vredmin f, rfl⟩
  case vredmax f =>
    cases h
    exact ⟨_, vectorWord_vredmax f, rfl⟩
  case vscano f =>
    cases h
    exact ⟨_, vectorWord_vscano f, rfl⟩
  case vscanf f =>
    cases h
    exact ⟨_, vectorWord_vscanf f, rfl⟩
  case vlds f =>
    cases h
    exact ⟨_, vectorWord_vlds f, rfl⟩
  case vldso f =>
    cases h
    exact ⟨_, vectorWord_vldso f, rfl⟩
  case vldx f =>
    cases h
    exact ⟨_, vectorWord_vldx f, rfl⟩
  case vldxo f =>
    cases h
    exact ⟨_, vectorWord_vldxo f, rfl⟩
  case vneg f =>
    cases h
    exact ⟨_, vectorWord_vneg f, rfl⟩
  case vabs f =>
    cases h
    exact ⟨_, vectorWord_vabs f, rfl⟩
  case vsqrt f =>
    cases h
    exact ⟨_, vectorWord_vsqrt f, rfl⟩
  case vmov f =>
    cases h
    exact ⟨_, vectorWord_vmov f, rfl⟩
  case vcomp f =>
    cases h
    exact ⟨_, vectorWord_vcomp f, rfl⟩
  case vld f =>
    cases h
    exact ⟨_, vectorWord_vld f, rfl⟩
  case vldb f =>
    cases h
    exact ⟨_, vectorWord_vldb f, rfl⟩
  case vldo f =>
    cases h
    exact ⟨_, vectorWord_vldo f, rfl⟩
  case vbcast f =>
    cases h
    exact ⟨_, vectorWord_vbcast f, rfl⟩
  case vid f =>
    cases h
    exact ⟨_, vectorWord_vid f, rfl⟩
  case vtsum f =>
    cases h
    exact ⟨_, vectorWord_vtsum f, rfl⟩
  case vtprod f =>
    cases h
    exact ⟨_, vectorWord_vtprod f, rfl⟩
  case vqnt f =>
    cases h
    exact ⟨_, vectorWord_vqnt f, rfl⟩
  case zfind f =>
    cases h
    exact ⟨_, vectorWord_zfind f, rfl⟩
  case vdqnt f =>
    cases h
    exact ⟨_, vectorWord_vdqnt f, rfl⟩
  case zld f =>
    cases h
    exact ⟨_, vectorWord_zld f, rfl⟩
  case tdrain f =>
    cases h
    exact ⟨_, vectorWord_tdrain f, rfl⟩
  case vst f =>
    cases h
    exact ⟨_, vectorWord_vst f, rfl⟩
  case vstc f =>
    cases h
    exact ⟨_, vectorWord_vstc f, rfl⟩
  case vsto f =>
    cases h
    exact ⟨_, vectorWord_vsto f, rfl⟩
  case vsts f =>
    cases h
    exact ⟨_, vectorWord_vsts f, rfl⟩
  case vstso f =>
    cases h
    exact ⟨_, vectorWord_vstso f, rfl⟩
  case vstx f =>
    cases h
    exact ⟨_, vectorWord_vstx f, rfl⟩
  case vstxo f =>
    cases h
    exact ⟨_, vectorWord_vstxo f, rfl⟩
  case zst f =>
    cases h
    exact ⟨_, vectorWord_zst f, rfl⟩
  all_goals cases h

/-- A vector word that takes no trap changes nothing but what it may (R64, R106, R115, R130). -/
theorem VectorWord.frame {i : Instr} {d : Nat} {k : VType → Nat} {s t : State} (hw : VectorWord i d k) (he : exec i s = .next t)
    (ht : t.me.trapSeq = s.me.trapSeq) : VectorChange d (k s.typeOr) s t := by
  obtain ⟨group, body, hexec, hb⟩ := hw
  rcases exec_through (hexec s) he ht (hb (s.atIssue i)) with ⟨c, rfl⟩ | ⟨fl, u, rfl, hu⟩
  · exact ⟨(SameMachine.waits s c).withFree s.free, rfl, fun _ _ => rfl, ⟨rfl, rfl⟩, rfl, rfl, rfl, ⟨rfl, BitVec.or_self⟩, rfl,
      ⟨rfl, rfl, rfl, rfl, rfl, rfl, rfl⟩, ⟨.inl rfl, .inl ⟨rfl, rfl⟩⟩⟩
  · obtain ⟨hctx, hregs, -, hloops, -, hmode⟩ := State.retire_me u i fl
    have hret := SameMachine.retire u i fl
    have hown : u.me = { s.me with
        vregs := u.me.vregs, grant := u.me.grant, ctl := { s.me.ctl with status := u.me.ctl.status }, strip := u.me.strip
        early := u.me.early, late := u.me.late, shapes := u.me.shapes } := hu.own
    have hmachine : SameMachine { s with free := u.free } u := ((SameMachine.atIssue s i).withFree u.free).trans hu.machine
    have hpend : u.stopPending = s.stopPending :=
      (State.stopPending_congr (s := { s with free := u.free }) hmachine (congrArg Seq.work hown :) (congrArg Seq.window hown :) :)
    refine ⟨?_, hregs.trans (congrArg Seq.regs hown :), fun r hr => ?_, ⟨hctx.masks.trans (congrArg Seq.masks hown :),
      hctx.mmarks.trans (congrArg Seq.mmarks hown :)⟩, hctx.vt.trans (congrArg Seq.vt hown :), ?_, ?_, ?_, ?_,
      ⟨hctx.truss.trans (congrArg Seq.truss hown :), hctx.pend.trans (congrArg Seq.pend hown :),
        hctx.work.trans (congrArg Seq.work hown :), hctx.level.trans (congrArg Seq.level hown :),
        hctx.held.trans (congrArg Seq.held hown :), hctx.window.trans (congrArg Seq.window hown :),
        hctx.ring.trans (congrArg Seq.ring hown :)⟩, ⟨?_, ?_⟩⟩
    · have hfree : (u.retire i fl).free = u.free := hret.free
      rw [hfree]
      exact hmachine.trans hret
    · rw [hctx.vregs]
      exact hu.vregs r hr
    · rw [hctx.grant]
      exact hu.gl
    · rw [hctx.ctl]
      exact (congrArg Seq.ctl hown :)
    · rw [hctx.ctl]
      exact hu.flags
    · rw [hctx.strip]
      exact hu.strip
    · have hadv := Seq.advance_loops u.me fl
      rw [hloops]
      rw [show u.me.loops = s.me.loops from (congrArg Seq.loops hown :), show u.me.pc = s.me.pc from (congrArg Seq.pc hown :)] at hadv
      exact hadv
    · rcases hmode with ⟨h1, h2⟩ | ⟨h1, h2, -, -, h3⟩
      · exact .inl ⟨h1.trans (congrArg Seq.mode hown :), h2.trans (congrArg Seq.resv hown :)⟩
      · exact .inr ⟨h1, h2, hpend ▸ h3⟩

end Sys2Proof.Machine

/-!
What a word that writes truss rows leaves alone (O42, its second half).
-/

namespace Sys2Proof.Machine

set_option Elab.async false

/-! ### What such a word does before it retires -/

/-- What the meaning of a word that may write rows rs of its sole may change. -/
structure TrussStep (rs : List Nat) (s u : State) : Prop where
  machine : SameMachine { s with soles := u.soles } u
  own : u.me = { s.me with
    strip := u.me.strip, grant := u.me.grant, truss := { s.me.truss with tb := u.me.truss.tb, tx := u.me.truss.tx } }
  gl : u.me.grant.gl = s.me.grant.gl
  soles : ∀ n, n ≠ s.image → u.soleAt n = s.soleAt n
  slots : (u.soleAt s.image).slots = (s.soleAt s.image).slots
  rows : ∀ r, r ∉ rs → SMap.find (u.soleAt s.image).rows r = SMap.find (s.soleAt s.image).rows r

theorem SameMachine.withSoles {s t : State} (h : SameMachine s t) (l : SMap Sole) :
    SameMachine { s with soles := l } { t with soles := l } :=
  ⟨h.cur, h.agenda, h.mem, h.others, h.uppers, fun _ => SameSole.refl _, h.parts, h.launches, h.nests, h.queue, h.yields, h.cmds,
    h.rounds, h.flights, h.holds, h.saves, h.dev, h.free, h.uid, h.tables, h.pages⟩

/-- The sole that a sequencer works on rests on its record, the launches and the partitions. -/
theorem State.image_congr {s t : State} (hc : t.cur = s.cur) (hp : t.parts = s.parts) (hl : t.launches = s.launches)
    (hw : t.me.work = s.me.work) : t.image = s.image := by
  have hwq : (t.seqAt s.cur).work = (s.seqAt s.cur).work := by
    unfold State.me at hw
    rw [hc] at hw
    exact hw
  unfold State.image State.ctx State.ctxOf State.coreAt
  simp only [hc, hp, hl, hwq]
  cases (s.seqAt s.cur).work with
  | none => rfl
  | some r =>
    simp only []
    cases SMap.find s.launches r.launch with
    | none => rfl
    | some l =>
      simp only []
      split <;> rfl

theorem TrussStep.image {rs : List Nat} {s u : State} (h : TrussStep rs s u) : u.image = s.image :=
  State.image_congr h.machine.cur h.machine.parts h.machine.launches (congrArg Seq.work h.own :)

theorem TrussStep.refl (rs : List Nat) (s : State) : TrussStep rs s s :=
  ⟨SameMachine.refl s, rfl, rfl, fun _ _ => rfl, rfl, fun _ _ => rfl⟩

theorem TrussStep.trans {rs : List Nat} {s u v : State} (h : TrussStep rs s u) (k : TrussStep rs u v) : TrussStep rs s v := by
  have himg := h.image
  refine ⟨(h.machine.withSoles v.soles).trans k.machine, k.own.trans (by rw [h.own]), k.gl.trans h.gl, fun n hn => ?_, ?_, fun r hr => ?_⟩
  · exact (k.soles n (by rw [himg]; exact hn)).trans (h.soles n hn)
  · rw [← himg, k.slots, himg, h.slots]
  · rw [← himg, k.rows r hr, himg, h.rows r hr]

/-- A change of the sequencer's strip, grants, best register and event counters alone. -/
theorem TrussStep.setMe (rs : List Nat) (s : State) {m : Seq} (hm : m = { s.me with
      strip := m.strip, grant := m.grant, truss := { s.me.truss with tb := m.truss.tb, tx := m.truss.tx } })
    (hg : m.grant.gl = s.me.grant.gl) : TrussStep rs s (s.setMe m) :=
  ⟨SameMachine.setMe s m, by rw [State.me_setMe]; exact hm, by rw [State.me_setMe]; exact hg, fun _ _ => rfl, rfl, fun _ _ => rfl⟩

theorem TrussStep.journal {rs l : List Nat} {s j : State} (h : s.journalRows l = .ok j) : TrussStep rs s j := by
  rcases State.journalRows_ok h with rfl | ⟨st, journal, -, rfl⟩
  · exact TrussStep.refl rs _
  · exact TrussStep.setMe rs s rfl rfl

theorem TrussStep.events (rs : List Nat) (s : State) (e : Events) : TrussStep rs s (s.countEvents e) := TrussStep.setMe rs s rfl rfl
theorem TrussStep.best (rs : List Nat) (s : State) (b : Nat × Nat) : TrussStep rs s (s.setBest b) := TrussStep.setMe rs s rfl rfl
theorem TrussStep.report (rs : List Nat) (s : State) (r : Report) : TrussStep rs s (s.report r) := by
  exact TrussStep.setMe rs s rfl rfl

theorem State.soleAt_setSole_other (s : State) {i n : Nat} (x : Sole) (h : n ≠ i) : (s.setSole i x).soleAt n = s.soleAt n := by
  unfold State.soleAt State.setSole
  rw [SMap.find_put, if_neg (Ne.symm h)]

theorem TrussStep.setRow {rs : List Nat} {r : Nat} (hr : r ∈ rs) (s : State) (x : Row) : TrussStep rs s (s.setRow r x) := by
  refine ⟨SameMachine.refl _, rfl, rfl, fun n hn => State.soleAt_setSole_other s _ hn, ?_, fun k hk => ?_⟩
  · rw [State.setRow, State.soleAt_setSole]
    rfl
  · have hne : r ≠ k := fun he => hk (he ▸ hr)
    rw [State.setRow, State.soleAt_setSole]
    exact (SMap.find_put ..).trans (if_neg hne)

/-! ### The meanings -/

/-- At a state, a meaning does a truss word's step on rows rs, or traps before it has changed anything. -/
def TrussBody (rs : List Nat) (body : State → Res) (s : State) : Prop :=
  (∃ fl u, body s = .done fl u ∧ TrussStep rs s u) ∨ ∃ x, body s = .trap x s

theorem TrussBody.classed {rs : List Nat} {c : Machine.Class} {m : Mask3} {body : VType → State → Res} {s : State}
    (h : TrussBody rs (body s.typeOr) s) : TrussBody rs (classed c m body) s := by
  unfold TrussBody Machine.classed
  simp only []
  split
  · exact .inr ⟨_, rfl⟩
  · split
    · exact .inr ⟨_, rfl⟩
    · exact h

/-- The meaning of a product or distance. -/
theorem trussRow_body (i : Instr) (f : TMac) (dist : Bool) : ∃ body : State → Res,
    (∀ s, trussRow i f dist s = run i body s) ∧ ∀ s, TrussBody [f.row.val] body s := by
  refine ⟨_, fun s => rfl, fun s => ?_⟩
  unfold TrussBody trussTyped
  simp only []
  split
  · exact .inr ⟨_, rfl⟩
  · split
    · exact .inr ⟨_, rfl⟩
    · split
      · exact .inr ⟨_, rfl⟩
      · split
        · exact .inr ⟨_, rfl⟩
        · rename_i hj
          split
          · exact .inr ⟨_, rfl⟩
          · split
            · exact .inr ⟨_, rfl⟩
            · exact .inl ⟨_, _, rfl, (((TrussStep.journal hj).trans (TrussStep.setRow List.mem_cons_self ..)).trans
                (TrussStep.events ..)).trans ((TrussStep.best ..).trans (TrussStep.report ..))⟩

theorem rowFrom_body (t : VType) (a : Reg) (mk : Mask3) (r : Nat) (op : Machine.Num → Machine.Num → Nat × Events)
    (needOld countUp : Bool) (s : State) : TrussBody [r] (rowFrom t a mk r op needOld countUp) s := by
  unfold TrussBody rowFrom
  simp only []
  split
  · exact .inr ⟨_, rfl⟩
  · split
    · exact .inr ⟨_, rfl⟩
    · rename_i hj
      split
      · exact .inr ⟨_, rfl⟩
      · exact .inl ⟨_, _, rfl, ((TrussStep.journal hj).trans (TrussStep.setRow List.mem_cons_self ..)).trans
          ((TrussStep.events ..).trans (TrussStep.report ..))⟩

/-- The rows of a range form, changed one after another. -/
theorem TrussStep.range {rs : List Nat} {op : State → Row → Except Trap (Row × Events)} {l : List Nat} (hl : ∀ r, r ∈ l → r ∈ rs)
    {s u : State} (hu : TrussStep rs s u) {ev ev' : Events} {v : State}
    (h : l.foldl (rangeStep op) (.ok (u, ev)) = .ok (v, ev')) : TrussStep rs s v := by
  induction l generalizing u ev with
  | nil =>
    cases h
    exact hu
  | cons r l ih =>
    rw [List.foldl_cons] at h
    cases ho : op u (u.rowAt r) with
    | error e =>
      have hstep : rangeStep op (.ok (u, ev)) r = .error e := by simp only [rangeStep, ho]
      have hstuck : ∀ l, List.foldl (rangeStep op) (.error e) l = .error e := fun l => by
        induction l with
        | nil => rfl
        | cons _ _ ih => exact ih
      rw [hstep, hstuck] at h
      cases h
    | ok x =>
      have hstep : rangeStep op (.ok (u, ev)) r = .ok (u.setRow r x.1, ev.join x.2) := by simp only [rangeStep, ho]
      rw [hstep] at h
      exact ih (fun k hk => hl k (List.mem_cons_of_mem _ hk)) (hu.trans (TrussStep.setRow (hl r List.mem_cons_self) ..)) h

theorem rangeForm_body (f : TRng) (op : State → Row → Except Trap (Row × Events)) (s : State) :
    TrussBody ((List.range (s.sreg f.a).toNat).map (· + f.row.val)) (fun s =>
      match rowRange f.row (s.sreg f.a) with
      | .error e => .trap e s
      | .ok rs =>
        match s.journalRows rs with
        | .error e => .trap e s
        | .ok s' =>
          match rs.foldl (rangeStep op) (.ok (s', noEvents)) with
          | .error e => .trap e s
          | .ok (st, ev) => .done .seq (st.countEvents ev)) s := by
  unfold TrussBody
  simp only []
  split
  · exact .inr ⟨_, rfl⟩
  · rename_i rs hrs
    have hsub : ∀ r, r ∈ rs → r ∈ (List.range (s.sreg f.a).toNat).map (· + f.row.val) := by
      unfold rowRange at hrs
      split at hrs
      · cases hrs
        exact fun _ h => absurd h List.not_mem_nil
      · split at hrs
        · cases hrs
        · cases hrs
          exact fun _ h => h
    split
    · exact .inr ⟨_, rfl⟩
    · rename_i hj
      split
      · exact .inr ⟨_, rfl⟩
      · rename_i hfold
        exact .inl ⟨_, _, rfl, (TrussStep.range hsub (TrussStep.journal hj) hfold).trans (TrussStep.events ..)⟩

/-- Instruction i is a truss word that may write rows `rs s`. -/
def TrussWord (i : Instr) (rs : State → List Nat) : Prop :=
  (∃ group body, (∀ s, exec i s = runG i group body s) ∧ ∀ s, TrussBody (rs s) body s) ∧ ∀ s, rs (s.atIssue i) = rs s

theorem TrussBody.updates (f : TRow) (t : VType) (s : State) :
    TrussBody [f.row.val + (s.me.truss.tb.map (·.1)).getD 0] (fun s => match s.me.truss.tb with
      | none => .trap (Trap.plain Cause.noBest) s
      | some (i, _) => rowFrom t f.a f.m (f.row.val + i) addCol true true s) s := by
  unfold TrussBody
  simp only []
  cases hb : s.me.truss.tb with
  | none => exact .inr ⟨_, rfl⟩
  | some x => exact (rowFrom_body t f.a f.m (f.row.val + x.1) addCol true true s :)

section
variable (f : TRow) (g : TMac) (k : TRng)

theorem trussWord_tmac : TrussWord (.tmac g) fun _ => [g.row.val] := by
  obtain ⟨body, h1, h2⟩ := trussRow_body (.tmac g) g false
  exact ⟨⟨_, body, fun s => (exec_tmac s g).trans (h1 s), h2⟩, fun _ => rfl⟩

theorem trussWord_tdist : TrussWord (.tdist g) fun _ => [g.row.val] := by
  obtain ⟨body, h1, h2⟩ := trussRow_body (.tdist g) g true
  exact ⟨⟨_, body, fun s => (exec_tdist s g).trans (h1 s), h2⟩, fun _ => rfl⟩

theorem trussWord_tacc : TrussWord (.tacc f) fun _ => [f.row.val] :=
  ⟨⟨_, _, fun s => exec_tacc s f, fun s => TrussBody.classed (rowFrom_body s.typeOr f.a f.m f.row.val addCol true false s)⟩,
    fun _ => rfl⟩

theorem trussWord_tfill : TrussWord (.tfill f) fun _ => [f.row.val] :=
  ⟨⟨_, _, fun s => exec_tfill s f, fun s => TrussBody.classed (rowFrom_body s.typeOr f.a f.m f.row.val fillCol false false s)⟩,
    fun _ => rfl⟩

theorem trussWord_tcupd : TrussWord (.tcupd f) fun s => [f.row.val + (s.me.truss.tb.map (·.1)).getD 0] :=
  ⟨⟨_, _, fun s => exec_tcupd s f, fun s => TrussBody.classed (TrussBody.updates f s.typeOr s)⟩, fun _ => rfl⟩

theorem trussWord_tzero : TrussWord (.tzero k) fun s => (List.range (s.sreg k.a).toNat).map (· + k.row.val) :=
  ⟨⟨_, _, fun s => (exec_tzero s k).trans (rangeForm_eq ..), rangeForm_body k _⟩, fun _ => rfl⟩

theorem trussWord_tcdiv : TrussWord (.tcdiv k) fun s => (List.range (s.sreg k.a).toNat).map (· + k.row.val) :=
  ⟨⟨_, _, fun s => (exec_tcdiv s k).trans (rangeForm_eq ..), rangeForm_body k _⟩, fun _ => rfl⟩
end

theorem trussWord_of_rows {s : State} {i : Instr} {rs : List Nat} (h : trussRows s i = some rs) :
    ∃ k, TrussWord i k ∧ rs = k s := by
  unfold trussRows at h
  split at h <;> cases h
  case h_1 f => exact ⟨_, trussWord_tmac f, rfl⟩
  case h_2 f => exact ⟨_, trussWord_tdist f, rfl⟩
  case h_3 f => exact ⟨_, trussWord_tacc f, rfl⟩
  case h_4 f => exact ⟨_, trussWord_tfill f, rfl⟩
  case h_5 f => exact ⟨_, trussWord_tcupd f, rfl⟩
  case h_6 f => exact ⟨_, trussWord_tzero f, rfl⟩
  case h_7 f => exact ⟨_, trussWord_tcdiv f, rfl⟩

/-! ### The frame -/

theorem SameSole.slots {a b : Sole} (h : SameSole a b) : b.slots = a.slots := h.1
theorem SameSole.rows {a b : Sole} (h : SameSole a b) : b.rows = a.rows := h.2.1
theorem SameSole.eq {a b : Sole} (h : SameSole a b) : b = a := by
  obtain ⟨h1, h2, h3⟩ := h
  cases a
  cases b
  cases h1
  cases h2
  cases h3
  rfl

/-- A word that writes truss rows and takes no trap changes nothing but what it may (R64, R157, R161 to R170). -/
theorem TrussWord.frame {i : Instr} {k : State → List Nat} {s t : State} (hw : TrussWord i k)
    (he : exec i s = .next t) (ht : t.me.trapSeq = s.me.trapSeq) :
    TrussChange s t ∧ SameBytes s t ∧ ∀ r, r ∉ k s → t.rowAt r = s.rowAt r := by
  obtain ⟨⟨group, body, hexec, hb⟩, hk⟩ := hw
  rcases exec_through (hexec s) he ht (fun _ => hb (s.atIssue i)) with ⟨c, rfl⟩ | ⟨fl, u, rfl, hu⟩
  · exact ⟨⟨rfl, fun _ _ => rfl, fun _ _ => rfl, rfl, ⟨rfl, rfl, rfl, rfl, rfl, rfl, rfl, rfl, rfl, rfl⟩, rfl, rfl, rfl, rfl, rfl, rfl,
      ⟨rfl, rfl⟩⟩, (SameMachine.waits s c).sameBytes, fun _ _ => rfl⟩
  · rw [hk] at hu
    obtain ⟨hctx, hregs, -, -, -, -⟩ := State.retire_me u i fl
    have hret := SameMachine.retire u i fl
    have hall : SameMachine { s with soles := u.soles } (u.retire i fl) :=
      (((SameMachine.atIssue s i).withSoles u.soles).trans hu.machine).trans hret
    have hown : u.me = { s.me with
        strip := u.me.strip, grant := u.me.grant, truss := { s.me.truss with tb := u.me.truss.tb, tx := u.me.truss.tx } } := hu.own
    have hsole (n : Nat) : (u.retire i fl).soleAt n = u.soleAt n := (hret.soles n).eq
    have himg : (u.retire i fl).image = s.image :=
      State.image_congr hall.cur hall.parts hall.launches (hctx.work.trans (congrArg Seq.work hown :))
    have hrows (r : Nat) (hr : r ∉ k s) : (u.retire i fl).rowAt r = s.rowAt r := by
      unfold State.rowAt State.sole
      rw [himg, hsole]
      exact congrArg (·.getD Row.zero) (hu.rows r hr)
    refine ⟨⟨hall.mem, hall.others, fun n hn => (hsole n).trans (hu.soles n hn), ?_, ⟨hall.uppers, hall.parts, hall.launches, hall.nests,
      hall.queue, hall.cmds, hall.rounds, hall.flights, hall.free, hall.dev⟩, hregs.trans (congrArg Seq.regs hown :),
      hctx.vregs.trans (congrArg Seq.vregs hown :), hctx.masks.trans (congrArg Seq.masks hown :),
      hctx.vt.trans (congrArg Seq.vt hown :), ?_, hctx.ctl.trans (congrArg Seq.ctl hown :), ?_⟩, fun a => ?_, hrows⟩
    · unfold State.sole
      rw [himg, hsole]
      exact hu.slots
    · rw [hctx.grant]
      exact hu.gl
    · rw [hctx.truss]
      exact ⟨(congrArg (fun m => m.truss.tm) hown :), (congrArg (fun m => m.truss.tmc) hown :)⟩
    · exact hall.sameBytes a

/-- Settles O42: each such word waits, traps before it has changed anything, or does a step of its kind and retires. -/
theorem vectorTrussFrame : Obligations.VectorTrussFrame := by
  unfold Obligations.VectorTrussFrame
  refine ⟨fun i d n s t hd he ht => ?_, fun i rs s t hr he ht => ?_⟩
  · obtain ⟨k, hw, hn⟩ := vectorWord_of_dest hd
    subst hn
    have hframe := hw.frame he ht
    exact ⟨hframe, hframe.machine.sameBytes⟩
  · obtain ⟨k, hw, rfl⟩ := trussWord_of_rows hr
    exact hw.frame he ht

end Sys2Proof.Machine

/-!
The construction instructions (O43); `capply`, `cret` and `wid` (O44).
-/

namespace Sys2Proof.Machine

set_option Elab.async false

/-! ### Construction (R199 to R202) -/

section
variable {s : State} {f : R3} {i : Instr} {k : Kind}

/-- A node word that R202 allows. -/
def NodeWordOk (nw : Nat) : Prop := nw < 2 ^ 28 ∧ nw / 4096 % 16 ≤ 2 ∧ (nw / 4096 % 16 = 1 ∨ nw / 65536 % 4096 = 0)

theorem closing_error {α : Type} {chk : State → Except Trap α} {act : α → State → Res} {u : State} {e : Trap} (h : chk u = .error e) :
    closing chk act u = .trap e u := by
  rw [closing, h]

/-- A construction whose node word and operands are legal and whose entry can be stored. -/
theorem constructCheck_ok {u : State} {nw x y : Word} {a b shape loc : Nat} (hn : NodeWordOk nw.toNat)
    (hb : buildOperands k x.toNat y.toNat = some (a, b, shape))
    (hacc : u.checkAccess u.ctx .store (u.me.ctl.ptab + BitVec.ofNat 64 (64 * (nw.toNat % 4096))).toNat 1 = .ok loc) :
    u.constructCheck k nw x y = .ok ((u.me.ctl.ptab + BitVec.ofNat 64 (64 * (nw.toNat % 4096))).toNat, loc,
      packDwords [k.code + nw.toNat / 4096 % 16 * 16 + nw.toNat / 65536 % 4096 * 256, a, b, shape, 0, 0, 0, 0]) := by
  obtain ⟨h1, h2, h3⟩ := hn
  unfold State.constructCheck
  simp only []
  rw [if_neg (by omega), if_neg (by omega)]
  simp only [hb, hacc]

/-- A construction whose node word or operands are illegal. -/
theorem constructCheck_illegal {u : State} {nw x y : Word} (h : ¬ NodeWordOk nw.toNat ∨ buildOperands k x.toNat y.toNat = none) :
    u.constructCheck k nw x y = .error (Trap.plain Cause.illegalPattern) := by
  unfold State.constructCheck
  simp only []
  by_cases h1 : 268435456 ≤ nw.toNat ∨ 2 < nw.toNat / 4096 % 16
  · exact if_pos h1
  · rw [if_neg h1]
    by_cases h2 : nw.toNat / 4096 % 16 ≠ 1 ∧ nw.toNat / 65536 % 4096 ≠ 0
    · exact if_pos h2
    · rw [if_neg h2]
      rcases h with h | h
      · exact absurd ⟨by omega, by omega, by omega⟩ h
      · simp only [h]

theorem construct_eq (i : Instr) (k : Kind) (f : R3) (s : State) : construct i k f s = run i (fun s =>
    closing (fun u => u.constructCheck k (s.sreg f.d) (s.sreg f.a) (s.sreg f.b))
      (fun x u => .done .seq (u.store (bufNat [] x.1 x.2.1 64 x.2.2))) s) s := rfl

/-- What a construction instruction answers (R202). -/
theorem construct_result {a b shape : Nat} {fits : Prop} (hexec : exec i s = construct i k f s)
    (hok : operandsOk k a b shape = true → fits → buildOperands k (s.sreg f.a).toNat (s.sreg f.b).toNat = some (a, b, shape))
    (hno : ¬ (operandsOk k a b shape = true ∧ fits) → buildOperands k (s.sreg f.a).toNat (s.sreg f.b).toNat = none)
    (hr : s.Ready i) :
    let u := s.due
    let nw := (s.sreg f.d).toNat
    let route := nw / 4096 % 16
    let handler := nw / 65536 % 4096
    let ea := s.me.ctl.ptab + BitVec.ofNat 64 (64 * (nw % 4096))
    let legal : Prop := nw < 2 ^ 28 ∧ route ≤ 2 ∧ (route = 1 ∨ handler = 0)
    (legal → operandsOk k a b shape = true → fits → ∀ loc, u.checkAccess u.ctx .store ea.toNat 1 = .ok loc →
      exec i s = .next ((u.commitStrip.store (bufNat [] ea.toNat loc 64
        (packDwords [k.code + route * 16 + handler * 256, a, b, shape, 0, 0, 0, 0]))).retire i .seq)) ∧
    (¬ (legal ∧ operandsOk k a b shape = true ∧ fits) →
      exec i s = .next (u.trapped i (Trap.plain Cause.illegalPattern))) := by
  intro u nw route handler ea legal
  refine ⟨fun hl ho hf loc hloc => ?_, fun hn => ?_⟩
  · have hchk : s.due.constructCheck k (s.due.sreg f.d) (s.due.sreg f.a) (s.due.sreg f.b) = _ :=
      constructCheck_ok hl (hok ho hf) hloc
    rw [hexec, construct_eq, run_ready hr, closing_ok hchk, conclude_done]
    rfl
  · have hill : ¬ NodeWordOk nw ∨ buildOperands k (s.sreg f.a).toNat (s.sreg f.b).toNat = none := by
      by_cases hl : legal
      · exact .inr (hno fun h => hn ⟨hl, h⟩)
      · exact .inl hl
    have hchk : s.due.constructCheck k (s.due.sreg f.d) (s.due.sreg f.a) (s.due.sreg f.b) =
      .error (Trap.plain Cause.illegalPattern) := constructCheck_illegal hill
    rw [hexec, construct_eq, run_ready hr, closing_error hchk, conclude_trap (by decide)]
end

theorem exec_cfun (s : State) (f : R3) : exec (.cfun f) s = construct (.cfun f) .fn f s := rfl
theorem exec_ccor (s : State) (f : R3) : exec (.ccor f) s = construct (.ccor f) .cor f s := rfl
theorem exec_cseq (s : State) (f : R3) : exec (.cseq f) s = construct (.cseq f) .sq f s := rfl
theorem exec_cpar (s : State) (f : R3) : exec (.cpar f) s = construct (.cpar f) .par f s := rfl
theorem exec_cpipe (s : State) (f : R3) : exec (.cpipe f) s = construct (.cpipe f) .pipe f s := rfl
theorem exec_cfarm (s : State) (f : R3) : exec (.cfarm f) s = construct (.cfarm f) .farm f s := rfl
theorem exec_cloop (s : State) (f : R3) : exec (.cloop f) s = construct (.cloop f) .loop f s := rfl

/-- The operands that a construction takes from its registers. -/
def takenOperands (k : Kind) (x y : Nat) : Nat × Nat × Nat :=
  match k with
  | .fn | .cor => (x, 0, y)
  | .pipe => (x % 65536, x / 65536, y)
  | .farm | .sq | .par | .loop => (x, y, 0)

theorem buildOperands_eq (k : Kind) (x y : Nat) : buildOperands k x y =
    if operandsOk k (takenOperands k x y).1 (takenOperands k x y).2.1 (takenOperands k x y).2.2 && (k != .farm || y ≤ 65536) then
      some (takenOperands k x y) else none := by
  cases k <;> rfl

/-- A kind other than a farm asks for the ranges of its kind alone. -/
theorem construct_plain {s : State} {f : R3} {k : Kind} (hk : k ≠ .farm) {a b shape : Nat}
    (ht : takenOperands k (s.sreg f.a).toNat (s.sreg f.b).toNat = (a, b, shape)) :
    (operandsOk k a b shape = true → True → buildOperands k (s.sreg f.a).toNat (s.sreg f.b).toNat = some (a, b, shape)) ∧
    (¬ (operandsOk k a b shape = true ∧ True) → buildOperands k (s.sreg f.a).toNat (s.sreg f.b).toNat = none) := by
  rw [buildOperands_eq, ht, bne_iff_ne.mpr hk, Bool.true_or, Bool.and_true]
  exact ⟨fun h _ => if_pos h, fun h => if_neg fun h' => h ⟨h', trivial⟩⟩

theorem construct_farm (x y : Nat) :
    (operandsOk .farm x y 0 = true → y ≤ 65536 → buildOperands .farm x y = some (x, y, 0)) ∧
    (¬ (operandsOk .farm x y 0 = true ∧ y ≤ 65536) → buildOperands .farm x y = none) := by
  rw [buildOperands_eq, bne_self_eq_false, Bool.false_or]
  refine ⟨fun h1 h2 => if_pos ?_, fun h => if_neg ?_⟩
  · rw [Bool.and_eq_true, decide_eq_true_eq]
    exact ⟨h1, h2⟩
  · rw [Bool.and_eq_true, decide_eq_true_eq]
    exact h

/-- Settles O43, by what a construction of a legal and of an illegal entry answers. -/
theorem constructions : Obligations.Constructions := by
  unfold Obligations.Constructions
  intro s f
  have plain {i : Instr} {k : Kind} (hexec : exec i s = construct i k f s) (hk : k ≠ .farm) (hr : s.Ready i) :=
    construct_result hexec (construct_plain hk rfl).1 (construct_plain hk rfl).2 hr
  refine ⟨fun hr => ?_, fun hr => ?_, fun hr => ?_, fun hr => ?_, fun hr => ?_, fun hr => ?_, fun hr => ?_⟩
  · exact plain (exec_cfun s f) (by decide) hr
  · exact plain (exec_ccor s f) (by decide) hr
  · exact plain (exec_cseq s f) (by decide) hr
  · exact plain (exec_cpar s f) (by decide) hr
  · exact plain (exec_cpipe s f) (by decide) hr
  · exact construct_result (exec_cfarm s f) (construct_farm _ _).1 (construct_farm _ _).2 hr
  · exact plain (exec_cloop s f) (by decide) hr

/-! ### Walks and the sequencer that writes -/

/-- A walk reads memory alone: two states that read the same entries survey the same. -/
theorem State.survey_congr {s t : State} {w : Walk} (h : ∀ i, s.readEntry w i = t.readEntry w i) (fuel i depth hl : Nat) :
    s.survey w fuel i depth hl = t.survey w fuel i depth hl := by
  have hcond (e : Entry) (k : Kind) : s.condOk w e k = t.condOk w e k := by
    unfold State.condOk
    rw [h]
  induction fuel generalizing i depth hl with
  | zero => rfl
  | succ fuel ih =>
    unfold State.survey
    simp only [h, hcond, ih]

theorem State.buildNodes_congr {s t : State} {site : Site} (h : ∀ i, s.readEntry site.walk i = t.readEntry site.walk i) (fuel i : Nat)
    (x : Heir) (b : Build) : s.buildNodes site fuel i x b = t.buildNodes site fuel i x b := by
  induction fuel generalizing i x b with
  | zero => rfl
  | succ fuel ih =>
    unfold State.buildNodes
    simp only [h, ih]

theorem State.readEntry_mine (s : State) (w : Walk) (i : Nat) : s.mine.readEntry w i = s.readEntry w i := rfl

theorem State.survey_mine (s : State) (w : Walk) (fuel i depth hl : Nat) :
    s.mine.survey w fuel i depth hl = s.survey w fuel i depth hl := State.survey_congr (s.readEntry_mine w) ..

theorem State.reserve_mine (s : State) (q : Issuer) (x : Sums) : s.mine.reserve q x = s.reserve q x := by
  have hb (site : Site) (fuel i : Nat) (h : Heir) (b : Build) : s.mine.buildNodes site fuel i h b = s.buildNodes site fuel i h b :=
    State.buildNodes_congr (s.readEntry_mine site.walk) ..
  unfold State.reserve
  simp only [hb]
  rfl

/-! ### A nest that is made stands in the table -/

theorem State.hwWrite_nests (s : State) (u part va align n v : Nat) : (s.hwWrite u part va align n v).nests = s.nests := by
  have hlog (e : Miss) : (s.logHw u part e va).nests = s.nests := by
    unfold State.logHw State.logErr State.negate
    cases e.page <;> simp only [] <;> split <;> rfl
  unfold State.hwWrite
  split
  · exact hlog _
  · rfl

theorem State.find_setNode (s : State) (n x m : Nat) (d : Node) :
    (SMap.find (s.setNode n x d).nests m).isSome = (SMap.find s.nests m).isSome := by
  unfold State.setNode
  split
  · rfl
  · rename_i t ht
    simp only [SMap.find_put]
    split
    · rename_i h
      rw [← h, ht]
      rfl
    · rfl

theorem State.find_writeFrame (s : State) (u n x m : Nat) :
    (SMap.find (s.writeFrame u n x).nests m).isSome = (SMap.find s.nests m).isSome := by
  unfold State.writeFrame State.writeHead
  split
  · rfl
  · split
    · rfl
    · simp only [State.hwWrite_nests]
      split
      · rfl
      · exact State.find_setNode s n x m _

theorem State.find_writeFrames (u n m : Nat) (l : List Nat) (s : State) :
    (SMap.find (l.foldl (fun s k => s.writeFrame u n k) s).nests m).isSome = (SMap.find s.nests m).isSome := by
  induction l generalizing s with
  | nil => rfl
  | cons k l ih => exact (ih _).trans (State.find_writeFrame s u n k m)

theorem State.poke_nests (s : State) (loc n v : Nat) : (s.poke loc n v).nests = s.nests := rfl

theorem State.emptyChannel_nests (s : State) (loc : Nat) : (s.emptyChannel loc).nests = s.nests := by
  have h : ∃ n f, s.emptyChannel loc = { s.poke loc 64 n with free := f } := ⟨_, _, rfl⟩
  obtain ⟨n, f, h⟩ := h
  rw [h, ← State.poke_nests s loc 64 n]

theorem State.makeChannels_nests (image : Nat) (nodes : List Node) (w : Walk) (s : State) :
    (s.makeChannels image nodes w).nests = s.nests := by
  unfold State.makeChannels
  induction nodes generalizing s with
  | nil => rfl
  | cons d nodes ih =>
    rw [List.foldl_cons, ih]
    split
    · rfl
    · split
      · rfl
      · rw [State.emptyChannel_nests, State.poke_nests, State.setSole_nests]

/-- A nest whose checks pass and whose claims fit is made (R205 to R209). -/
theorem State.makeNest_ok {s : State} {q : Issuer} {sums : Sums} {x : Nat × List Node × List (Nat × Nat)}
    (hs : s.survey q.walk 16 q.root q.depth 0 = .ok sums) (hr : s.reserve q sums = .ok x) :
    ∃ n t, s.makeNest q = .ok (n, t) ∧ (SMap.find t.nests n).isSome = true := by
  unfold State.makeNest
  simp only [hs, hr]
  refine ⟨_, _, rfl, ?_⟩
  rw [State.find_writeFrames, State.makeChannels_nests]
  exact Option.isSome_iff_exists.mpr ⟨_, SMap.find_put_same ..⟩

theorem State.makeNest_refused {s : State} {q : Issuer} {r : Refused} (hs : s.survey q.walk 16 q.root q.depth 0 = .error r) :
    s.makeNest q = .error r := by
  unfold State.makeNest
  simp only [hs]

theorem State.makeNest_full {s : State} {q : Issuer} {sums : Sums} {reason : Nat}
    (hs : s.survey q.walk 16 q.root q.depth 0 = .ok sums) (hr : s.reserve q sums = .error reason) :
    s.makeNest q = .error (.node reason q.root) := by
  unfold State.makeNest
  simp only [hs, hr]

/-! ### `capply`, `cret` and `wid` -/

/-- What `capply` does after its issue checks and the commit of an open strip. -/
def applyBody (d : Reg) (root : Nat) (args : Word) (s : State) : Res :=
  match s.mine.makeNest (s.issuer root args) with
  | .error (.fault t) => .trap t s
  | .error (.node r i) => .done .seq (s.setS d (refusalWord r i))
  | .ok (n, t) => .done .seq (((t.setMe { t.me with pend := if d.val = 0 then t.me.pend else SMap.put t.me.pend d.val (.nest n) }).doActs
      [(.start n 0 t.me.level, upperOf t.cur)]).notMine)

theorem exec_capply (s : State) (f : R3) : exec (.capply f) s = run (.capply f) (fun s =>
    closing (fun _ => if 4095 < (s.sreg f.a).toNat then .error (Trap.plain Cause.illegalPattern) else .ok ())
      (fun _ => applyBody f.d (s.sreg f.a).toNat (s.sreg f.b)) s) s := rfl

theorem exec_cret (s : State) (f : Pair) : exec (.cret f) s = run (.cret f) (fun s =>
    closing (fun _ => if 65535 < (s.sreg f.b).toNat then .error (Trap.plain Cause.illegalPattern) else .ok ()) (fun _ v =>
      if v.endWaits v.cur then .wait v else .done .stay (v.endRecord v.cur (s.sreg f.b).toNat (s.sreg f.a))) s) s := rfl

theorem exec_wid (s : State) (f : R2) : exec (.wid f) s = run (.wid f) (fun s => .done .seq (s.setS f.d
    (if f.a.val = 6 then s.widOr0 else if f.a.val = 7 then BitVec.ofNat 64 ((s.me.work.map (·.depth)).getD 0)
      else widField (s.launchAt s.myLaunch).widths s.widOr0 f.a.val))) s := rfl

section
variable {s : State} {f : R3}

theorem capply_outside (hr : s.Ready (.capply f)) (h : 4096 ≤ (s.sreg f.a).toNat) :
    exec (.capply f) s = .next (s.due.trapped (.capply f) (Trap.plain Cause.illegalPattern)) := by
  have hchk : (if 4095 < (s.due.sreg f.a).toNat then Except.error (Trap.plain Cause.illegalPattern) else Except.ok ()) =
    .error (Trap.plain Cause.illegalPattern) := if_pos h
  rw [exec_capply, run_ready hr, closing_error hchk, conclude_trap (by decide)]

theorem capply_ready (hr : s.Ready (.capply f)) (h : (s.sreg f.a).toNat < 4096) : exec (.capply f) s =
    .next (conclude s.due (.capply f) (applyBody f.d (s.sreg f.a).toNat (s.sreg f.b) s.due.commitStrip)) := by
  have hchk : (if 4095 < (s.due.sreg f.a).toNat then Except.error (Trap.plain Cause.illegalPattern) else Except.ok ()) =
    .ok () := if_neg (show ¬ 4095 < (s.sreg f.a).toNat by omega)
  rw [exec_capply, run_ready hr, closing_ok hchk]
  rfl
end

theorem capply_spec (s : State) (f : R3) (hr : s.Ready (.capply f)) :
    let v := s.due.commitStrip
    let root := (s.sreg f.a).toNat
    let q := v.issuer root (s.sreg f.b)
    (4096 ≤ root → exec (.capply f) s = .next (s.due.trapped (.capply f) (Trap.plain Cause.illegalPattern))) ∧
    (root < 4096 → ∀ sums x, v.survey q.walk 16 root q.depth 0 = .ok sums → v.reserve q sums = .ok x →
      ∃ n t, v.mine.makeNest q = .ok (n, t) ∧ (SMap.find t.nests n).isSome = true ∧
        exec (.capply f) s = .next (State.retire (.capply f) .seq ((t.setMe { t.me with
          pend := if f.d.val = 0 then t.me.pend else SMap.put t.me.pend f.d.val (.nest n) }).doActs
            [(.start n 0 t.me.level, upperOf t.cur)]).notMine)) ∧
    (root < 4096 → ∀ reason entry, v.survey q.walk 16 root q.depth 0 = .error (.node reason entry) →
      exec (.capply f) s =
        .next ((v.setS f.d (tokenWord 3 (reason + entry * 256))).retire (.capply f) .seq)) ∧
    (root < 4096 → ∀ sums reason, v.survey q.walk 16 root q.depth 0 = .ok sums → v.reserve q sums = .error reason →
      exec (.capply f) s = .next ((v.setS f.d (tokenWord 3 (reason + root * 256))).retire (.capply f) .seq)) ∧
    (root < 4096 → ∀ t, v.survey q.walk 16 root q.depth 0 = .error (.fault t) → t.cause ≠ Cause.held →
      exec (.capply f) s = .next (v.trapped (.capply f) t)) := by
  intro v root q
  have hsurvey : v.mine.survey q.walk 16 q.root q.depth 0 = v.survey q.walk 16 root q.depth 0 := v.survey_mine ..
  have hreserve (x : Sums) : v.mine.reserve q x = v.reserve q x := v.reserve_mine q x
  refine ⟨fun h => capply_outside hr h, fun h sums x hs hx => ?_, fun h reason entry hs => ?_, fun h sums reason hs hx => ?_,
    fun h t hs ht => ?_⟩
  · obtain ⟨n, t, hnest, hfind⟩ := State.makeNest_ok (hsurvey.trans hs) ((hreserve sums).trans hx)
    refine ⟨n, t, hnest, hfind, (capply_ready hr h).trans ?_⟩
    have hbody : applyBody f.d root (s.sreg f.b) v = .done .seq (((t.setMe { t.me with
        pend := if f.d.val = 0 then t.me.pend else SMap.put t.me.pend f.d.val (.nest n) }).doActs
          [(.start n 0 t.me.level, upperOf t.cur)]).notMine) := by
      unfold applyBody
      simp only [show v.mine.makeNest (v.issuer root (s.sreg f.b)) = .ok (n, t) from hnest]
    rw [hbody, conclude_done]
  · have hbody : applyBody f.d root (s.sreg f.b) v = .done .seq (v.setS f.d (refusalWord reason entry)) := by
      unfold applyBody
      simp only [show v.mine.makeNest (v.issuer root (s.sreg f.b)) = .error (.node reason entry) from
        State.makeNest_refused (hsurvey.trans hs)]
    rw [capply_ready hr h, hbody, conclude_done]
    rfl
  · have hbody : applyBody f.d root (s.sreg f.b) v = .done .seq (v.setS f.d (refusalWord reason root)) := by
      unfold applyBody
      simp only [show v.mine.makeNest (v.issuer root (s.sreg f.b)) = .error (.node reason root) from
        State.makeNest_full (hsurvey.trans hs) ((hreserve sums).trans hx)]
    rw [capply_ready hr h, hbody, conclude_done]
    rfl
  · have hbody : applyBody f.d root (s.sreg f.b) v = .trap t v := by
      unfold applyBody
      simp only [show v.mine.makeNest (v.issuer root (s.sreg f.b)) = .error (.fault t) from
        State.makeNest_refused (hsurvey.trans hs)]
    rw [capply_ready hr h, hbody, conclude_trap ht]

theorem cret_spec (s : State) (f : Pair) (hr : s.Ready (.cret f)) :
    let v := s.due.commitStrip
    let cause := (s.sreg f.b).toNat
    (65536 ≤ cause → exec (.cret f) s = .next (s.due.trapped (.cret f) (Trap.plain Cause.illegalPattern))) ∧
    (cause < 65536 → v.endWaits v.cur = true → exec (.cret f) s = .next { v with waited := true }) ∧
    (cause < 65536 → v.endWaits v.cur = false →
      exec (.cret f) s = .next ((v.endRecord v.cur cause (s.sreg f.a)).retire (.cret f) .stay)) := by
  intro v cause
  refine ⟨fun h => ?_, fun h hw => ?_, fun h hw => ?_⟩
  · have hchk : (if 65535 < (s.due.sreg f.b).toNat then Except.error (Trap.plain Cause.illegalPattern) else Except.ok ()) =
      .error (Trap.plain Cause.illegalPattern) := if_pos h
    rw [exec_cret, run_ready hr, closing_error hchk, conclude_trap (by decide)]
  all_goals
    have hchk : (if 65535 < (s.due.sreg f.b).toNat then Except.error (Trap.plain Cause.illegalPattern) else Except.ok ()) =
      .ok () := if_neg (show ¬ 65535 < cause by omega)
    rw [exec_cret, run_ready hr, closing_ok hchk]
  · rw [if_pos hw]
    rfl
  · rw [if_neg (by rw [show s.due.commitStrip.endWaits s.due.commitStrip.cur = false from hw]; decide), conclude_done]
    rfl

theorem wid_spec (s : State) (f : R2) (hr : s.Ready (.wid f)) : ∃ x,
    exec (.wid f) s = .next ((s.due.setS f.d x).retire (.wid f) .seq) ∧
    let ws := (s.launchAt s.myLaunch).widths
    (f.a = 6 → x = s.widOr0) ∧ (f.a = 7 → x = BitVec.ofNat 64 ((s.me.work.map (·.depth)).getD 0)) ∧
    (f.a.val < 6 → f.a.val < fieldsUsed ws →
      x = BitVec.ofNat 64 (s.widOr0.toNat / 2 ^ fieldStart ws f.a.val % 2 ^ ws.getD f.a.val 0)) ∧
    (f.a.val < 6 → fieldsUsed ws ≤ f.a.val → x = 0) := by
  refine ⟨_, (exec_wid s f).trans (run_done hr rfl), fun h => if_pos (congrArg Fin.val h), fun h => ?_, fun h hu => ?_, fun h hu => ?_⟩
  · have h7 : f.a.val = 7 := congrArg Fin.val h
    rw [if_neg (by omega), if_pos h7]
    rfl
  · rw [if_neg (by omega), if_neg (by omega)]
    exact if_pos hu
  · rw [if_neg (by omega), if_neg (by omega)]
    exact if_neg (Nat.not_lt.mpr hu)

/-- Settles O44, word by word: a survey and its claims read the same whoever writes, and a nest that fits is made. -/
theorem applyWords : Obligations.ApplyWords := by
  unfold Obligations.ApplyWords
  exact ⟨capply_spec, cret_spec, wid_spec⟩

end Sys2Proof.Machine

/-!
The channel words (O45).
-/

namespace Sys2Proof.Machine

set_option Elab.async false

section
variable (s : State) (f : R3)

theorem exec_chput : exec (.chput f) s = run (.chput f) (fun s =>
    closing (fun u => u.chputCheck (s.sreg f.a) (s.sreg f.b))
      (fun loc u => u.chputAt (s.sreg f.a).toNat loc (s.sreg f.b).toNat f.d) s) s := rfl

theorem exec_chget : exec (.chget f) s = run (.chget f) (fun s =>
    closing (fun u => u.chgetCheck (s.sreg f.a) (s.sreg f.b))
      (fun loc u => u.chgetAt (s.sreg f.a).toNat loc (s.sreg f.b).toNat f.d) s) s := rfl

/-- What `cyield` does after its issue checks and the commit of an open strip (R222). -/
def yieldBody (d : Reg) (a b : Nat) (x : Rec × Option Nat) (u : State) : Res :=
  if u.unsettled u.cur then .wait u
  else if (x.2.map (fun loc => !u.chanLive loc)).getD false then .trap (Trap.plain Cause.badChannel) u
  else
    match x.2 with
    | none => .done .stay (u.yieldOn x.1 d none)
    | some loc =>
      if u.anyMarked loc 24 then .trap (poisonTrap 0 a) u
      else if u.condHolds loc b then .done .seq (u.setS d 1)
      else .done .stay (u.yieldOn x.1 d (some (loc, b)))

theorem exec_cyield : exec (.cyield f) s = run (.cyield f) (fun s =>
    closing (fun u => u.cyieldCheck (s.sreg f.a) (s.sreg f.b)) (yieldBody f.d (s.sreg f.a).toNat (s.sreg f.b).toNat) s) s := rfl
end

/-- Uncorrectable data is a cause that is taken. -/
theorem poisonTrap_taken (k a : Nat) : (poisonTrap k a).cause ≠ Cause.held :=
  show Cause.uncorrectable ≠ Cause.held by decide

/-! ### What a ready channel word whose issue checks pass answers -/

section
variable {s : State} {f : R3}

theorem chput_ready {loc : Nat} (hr : s.Ready (.chput f)) (hc : s.due.chputCheck (s.sreg f.a) (s.sreg f.b) = .ok loc) :
    exec (.chput f) s = .next (conclude s.due (.chput f)
      (s.due.commitStrip.chputAt (s.sreg f.a).toNat loc (s.sreg f.b).toNat f.d)) := by
  have hchk : s.due.chputCheck (s.due.sreg f.a) (s.due.sreg f.b) = .ok loc := hc
  rw [exec_chput, run_ready hr, closing_ok hchk]
  rfl

theorem chget_ready {loc : Nat} (hr : s.Ready (.chget f)) (hc : s.due.chgetCheck (s.sreg f.a) (s.sreg f.b) = .ok loc) :
    exec (.chget f) s = .next (conclude s.due (.chget f)
      (s.due.commitStrip.chgetAt (s.sreg f.a).toNat loc (s.sreg f.b).toNat f.d)) := by
  have hchk : s.due.chgetCheck (s.due.sreg f.a) (s.due.sreg f.b) = .ok loc := hc
  rw [exec_chget, run_ready hr, closing_ok hchk]
  rfl

theorem cyield_ready {x : Rec × Option Nat} (hr : s.Ready (.cyield f)) (hc : s.due.cyieldCheck (s.sreg f.a) (s.sreg f.b) = .ok x) :
    exec (.cyield f) s = .next (conclude s.due (.cyield f)
      (yieldBody f.d (s.sreg f.a).toNat (s.sreg f.b).toNat x s.due.commitStrip)) := by
  have hchk : s.due.cyieldCheck (s.due.sreg f.a) (s.due.sreg f.b) = .ok x := hc
  rw [exec_cyield, run_ready hr, closing_ok hchk]
  rfl
end

/-! ### A put and a get at their point in the channel's order (R221) -/

section
variable {v : State} {va loc src dst : Nat} {d : Reg}

/-- The channel is live and its counts are not marked. -/
def State.ChanOk (v : State) (loc : Nat) : Prop := v.chanLive loc = true ∧ v.anyMarked loc 24 = false

theorem chputAt_dead (h : v.chanLive loc = false) : v.chputAt va loc src d = .trap (Trap.plain Cause.badChannel) v := by
  simp [State.chputAt, h]

theorem chputAt_marked (h : v.chanLive loc = true) (hm : v.anyMarked loc 24 = true) :
    v.chputAt va loc src d = .trap (poisonTrap 0 va) v := by
  simp [State.chputAt, h, hm]

theorem chputAt_live (h : v.ChanOk loc) (hs : src ≠ 0) : v.chputAt va loc src d =
    match v.elemWhole .load src (v.chSize loc / 8) with
    | .error t => .trap t v
    | .ok () =>
      if v.chClosed loc then .done .seq (v.setS d 3)
      else if v.chHeld loc = v.chDepth loc then .done .seq (v.setS d 1)
      else
        match v.elemMarked src (v.chSize loc / 8) with
        | some t => .trap t v
        | none => .done .seq ((((v.commitSectors (bufNat [] (va + v.slotOff loc (v.chPut loc)) (loc + v.slotOff loc (v.chPut loc))
            (8 * (v.chSize loc / 8)) (v.elemRead src (v.chSize loc / 8)))).pokeMine (loc + 8) 8
            ((v.commitSectors (bufNat [] (va + v.slotOff loc (v.chPut loc)) (loc + v.slotOff loc (v.chPut loc))
            (8 * (v.chSize loc / 8)) (v.elemRead src (v.chSize loc / 8)))).chPut loc + 1)).wakeYields loc).setS d 0) := by
  unfold State.chputAt
  rw [h.1, h.2, if_neg (by decide), if_neg (by decide), if_neg hs] <;> rfl

theorem chputAt_close (h : v.ChanOk loc) : v.chputAt va loc 0 d =
    .done .seq (((v.pokeMine (loc + 16) 8 (cellsNat v.mem.cells (loc + 16) 4 + 4294967296)).wakeYields loc).setS d 0) := by
  unfold State.chputAt
  rw [h.1, h.2, if_neg (by decide), if_neg (by decide), if_pos rfl]

theorem chgetAt_dead (h : v.chanLive loc = false) : v.chgetAt va loc dst d = .trap (Trap.plain Cause.badChannel) v := by
  simp [State.chgetAt, h]

theorem chgetAt_marked (h : v.chanLive loc = true) (hm : v.anyMarked loc 24 = true) :
    v.chgetAt va loc dst d = .trap (poisonTrap 0 va) v := by
  simp [State.chgetAt, h, hm]

theorem chgetAt_live (h : v.ChanOk loc) : v.chgetAt va loc dst d =
    match v.elemWhole .store dst (v.chSize loc / 8) with
    | .error t => .trap t v
    | .ok () =>
      if v.chHeld loc = 0 then .done .seq (v.setS d (if v.chClosed loc then 2 else 1))
      else if v.anyMarked (loc + v.slotOff loc (v.chTaken loc)) (8 * (v.chSize loc / 8)) then
        .trap (poisonTrap 0 (va + v.slotOff loc (v.chTaken loc))) v
      else .done .seq (((((v.commitSectors (v.elemWrite [] dst (cellsNat v.mem.cells (loc + v.slotOff loc (v.chTaken loc))
            (8 * (v.chSize loc / 8))) (v.chSize loc / 8))).pokeMine loc 8
            ((v.commitSectors (v.elemWrite [] dst (cellsNat v.mem.cells (loc + v.slotOff loc (v.chTaken loc))
            (8 * (v.chSize loc / 8))) (v.chSize loc / 8))).chTaken loc + 1)).wakeYields loc).acquire sysScope).setS d 0) := by
  unfold State.chgetAt
  rw [h.1, h.2, if_neg (by decide), if_neg (by decide)] <;> rfl
end

theorem chput_spec (s : State) (f : R3) (loc : Nat) (hr : s.Ready (.chput f))
    (hc : s.due.chputCheck (s.sreg f.a) (s.sreg f.b) = .ok loc) :
    let v := s.due.commitStrip
    let a := (s.sreg f.a).toNat
    let src := (s.sreg f.b).toNat
    let n := v.chSize loc / 8
    let off := v.slotOff loc (v.chPut loc)
    let live : Prop := v.chanLive loc = true ∧ v.anyMarked loc 24 = false
    (v.chanLive loc = false → exec (.chput f) s = .next (v.trapped (.chput f) (Trap.plain Cause.badChannel))) ∧
    (v.chanLive loc = true → v.anyMarked loc 24 = true →
      exec (.chput f) s = .next (v.trapped (.chput f) (poisonTrap 0 a))) ∧
    (live → src = 0 → exec (.chput f) s = .next (State.retire (.chput f) .seq
      (((v.pokeMine (loc + 16) 8 (cellsNat v.mem.cells (loc + 16) 4 + 4294967296)).wakeYields loc).setS f.d 0))) ∧
    (live → src ≠ 0 → ∀ t, v.elemWhole .load src n = .error t → t.cause ≠ Cause.held →
      exec (.chput f) s = .next (v.trapped (.chput f) t)) ∧
    (live → src ≠ 0 → v.elemWhole .load src n = .ok () → v.chClosed loc = true →
      exec (.chput f) s = .next ((v.setS f.d 3).retire (.chput f) .seq)) ∧
    (live → src ≠ 0 → v.elemWhole .load src n = .ok () → v.chClosed loc = false →
      v.chHeld loc = v.chDepth loc →
      exec (.chput f) s = .next ((v.setS f.d 1).retire (.chput f) .seq)) ∧
    (live → src ≠ 0 → v.chClosed loc = false → v.chHeld loc ≠ v.chDepth loc →
      v.elemWhole .load src n = .ok () → v.elemMarked src n = none →
      let t := v.commitSectors (bufNat [] (a + off) (loc + off) (8 * n) (v.elemRead src n))
      exec (.chput f) s = .next (State.retire (.chput f) .seq
        (((t.pokeMine (loc + 8) 8 (t.chPut loc + 1)).wakeYields loc).setS f.d 0))) := by
  intro v a src n off live
  have done {t : State} (hb : v.chputAt a loc src f.d = .done .seq t) : exec (.chput f) s = .next (t.retire (.chput f) .seq) := by
    rw [chput_ready hr hc, hb, conclude_done]
  have trap {x : Trap} (hb : v.chputAt a loc src f.d = .trap x v) (hx : x.cause ≠ Cause.held) :
      exec (.chput f) s = .next (v.trapped (.chput f) x) := by
    rw [chput_ready hr hc, hb, conclude_trap hx]
  refine ⟨fun h => trap (chputAt_dead h) (by decide), fun h hm => trap (chputAt_marked h hm) (poisonTrap_taken _ _), fun h hs => done ?_,
    fun h hs t ht hx => trap ?_ hx, fun h hs hw hcl => done ?_, fun h hs hw hcl hf => done ?_, fun h hs hcl hf hw hm => done ?_⟩
  · rw [hs]
    exact chputAt_close h
  · rw [chputAt_live h hs]
    simp only [show v.elemWhole .load src (v.chSize loc / 8) = .error t from ht]
  all_goals
    rw [chputAt_live h hs]
    simp only [show v.elemWhole .load src (v.chSize loc / 8) = .ok () from hw]
  · exact if_pos hcl
  · rw [if_neg (by rw [hcl]; decide)]
    exact if_pos hf
  · rw [if_neg (by rw [hcl]; decide), if_neg hf]
    simp only [show v.elemMarked src (v.chSize loc / 8) = none from hm]
    rfl

theorem chget_spec (s : State) (f : R3) (loc : Nat) (hr : s.Ready (.chget f))
    (hc : s.due.chgetCheck (s.sreg f.a) (s.sreg f.b) = .ok loc) :
    let v := s.due.commitStrip
    let a := (s.sreg f.a).toNat
    let dst := (s.sreg f.b).toNat
    let n := v.chSize loc / 8
    let off := v.slotOff loc (v.chTaken loc)
    let live : Prop := v.chanLive loc = true ∧ v.anyMarked loc 24 = false
    (v.chanLive loc = false → exec (.chget f) s = .next (v.trapped (.chget f) (Trap.plain Cause.badChannel))) ∧
    (v.chanLive loc = true → v.anyMarked loc 24 = true →
      exec (.chget f) s = .next (v.trapped (.chget f) (poisonTrap 0 a))) ∧
    (live → ∀ t, v.elemWhole .store dst n = .error t → t.cause ≠ Cause.held →
      exec (.chget f) s = .next (v.trapped (.chget f) t)) ∧
    (live → v.elemWhole .store dst n = .ok () → v.chHeld loc = 0 → v.chClosed loc = false →
      exec (.chget f) s = .next ((v.setS f.d 1).retire (.chget f) .seq)) ∧
    (live → v.elemWhole .store dst n = .ok () → v.chHeld loc = 0 → v.chClosed loc = true →
      exec (.chget f) s = .next ((v.setS f.d 2).retire (.chget f) .seq)) ∧
    (live → v.chHeld loc ≠ 0 → v.elemWhole .store dst n = .ok () →
      v.anyMarked (loc + off) (8 * n) = false →
      let t := v.commitSectors (v.elemWrite [] dst (cellsNat v.mem.cells (loc + off) (8 * n)) n)
      exec (.chget f) s = .next (State.retire (.chget f) .seq
        ((((t.pokeMine loc 8 (t.chTaken loc + 1)).wakeYields loc).acquire sysScope).setS f.d 0))) := by
  intro v a dst n off live
  have done {t : State} (hb : v.chgetAt a loc dst f.d = .done .seq t) : exec (.chget f) s = .next (t.retire (.chget f) .seq) := by
    rw [chget_ready hr hc, hb, conclude_done]
  have trap {x : Trap} (hb : v.chgetAt a loc dst f.d = .trap x v) (hx : x.cause ≠ Cause.held) :
      exec (.chget f) s = .next (v.trapped (.chget f) x) := by
    rw [chget_ready hr hc, hb, conclude_trap hx]
  refine ⟨fun h => trap (chgetAt_dead h) (by decide), fun h hm => trap (chgetAt_marked h hm) (poisonTrap_taken _ _),
    fun h t ht hx => trap ?_ hx, fun h hw he hcl => done ?_, fun h hw he hcl => done ?_, fun h he hw hm => done ?_⟩
  · rw [chgetAt_live h]
    simp only [show v.elemWhole .store dst (v.chSize loc / 8) = .error t from ht]
  all_goals
    rw [chgetAt_live h]
    simp only [show v.elemWhole .store dst (v.chSize loc / 8) = .ok () from hw]
  · rw [if_pos he, hcl]
    rfl
  · rw [if_pos he, hcl]
    rfl
  · rw [if_neg he, if_neg (by rw [show v.anyMarked (loc + v.slotOff loc (v.chTaken loc)) (8 * (v.chSize loc / 8)) = false from hm]; decide)]

/-! ### `cyield` (R222) -/

/-- A record that is no coroutine cannot yield. -/
theorem cyieldCheck_leaf {u : State} {a b : Word} (h : u.me.work.map (·.coro) ≠ some true) :
    u.cyieldCheck a b = .error (Trap.plain Cause.notCoroutine) := by
  unfold State.cyieldCheck
  cases hw : u.me.work with
  | none => rfl
  | some r =>
    have hr : r.coro = false := by
      rw [hw] at h
      exact Bool.eq_false_iff.mpr fun ht => h (congrArg some ht)
    simp only [hr]
    rfl

theorem yieldBody_unsettled {d : Reg} {a b : Nat} {x : Rec × Option Nat} {u : State} (h : u.unsettled u.cur = true) :
    yieldBody d a b x u = .wait u := if_pos h

theorem yieldBody_on {d : Reg} {a b loc : Nat} {r : Rec} {u : State} (h : u.unsettled u.cur = false) :
    yieldBody d a b (r, some loc) u =
      if u.chanLive loc = false then .trap (Trap.plain Cause.badChannel) u
      else if u.anyMarked loc 24 then .trap (poisonTrap 0 a) u
      else if u.condHolds loc b then .done .seq (u.setS d 1)
      else .done .stay (u.yieldOn r d (some (loc, b))) := by
  unfold yieldBody
  rw [if_neg (by rw [h]; decide)]
  cases hl : u.chanLive loc with
  | false => rw [if_pos (by rw [Option.map_some, hl]; rfl), if_pos rfl]
  | true => rw [if_neg (by rw [Option.map_some, hl]; decide), if_neg (by decide)]

theorem cyield_spec (s : State) (f : R3) (hr : s.Ready (.cyield f)) :
    let v := s.due.commitStrip
    (s.me.work.map (·.coro) ≠ some true →
      exec (.cyield f) s = .next (s.due.trapped (.cyield f) (Trap.plain Cause.notCoroutine))) ∧
    (∀ x, s.due.cyieldCheck (s.sreg f.a) (s.sreg f.b) = .ok x → v.unsettled v.cur = true →
      exec (.cyield f) s = .next { v with waited := true }) ∧
    (∀ r loc, s.due.cyieldCheck (s.sreg f.a) (s.sreg f.b) = .ok (r, some loc) →
      (v.unsettled v.cur = false → v.chanLive loc = false →
        exec (.cyield f) s = .next (v.trapped (.cyield f) (Trap.plain Cause.badChannel))) ∧
      (v.unsettled v.cur = false → v.chanLive loc = true → v.anyMarked loc 24 = true →
        exec (.cyield f) s = .next (v.trapped (.cyield f) (poisonTrap 0 (s.sreg f.a).toNat))) ∧
      (v.chanLive loc = true → v.anyMarked loc 24 = false → v.unsettled v.cur = false →
        v.condHolds loc (s.sreg f.b).toNat = true →
        exec (.cyield f) s = .next ((v.setS f.d 1).retire (.cyield f) .seq)) ∧
      (v.chanLive loc = true → v.anyMarked loc 24 = false → v.unsettled v.cur = false →
        v.condHolds loc (s.sreg f.b).toNat = false →
        exec (.cyield f) s =
          .next ((v.yieldOn r f.d (some (loc, (s.sreg f.b).toNat))).retire (.cyield f) .stay))) ∧
    (∀ r, s.due.cyieldCheck (s.sreg f.a) (s.sreg f.b) = .ok (r, none) → v.unsettled v.cur = false →
      exec (.cyield f) s = .next ((v.yieldOn r f.d none).retire (.cyield f) .stay)) := by
  intro v
  refine ⟨fun h => ?_, fun x hx hw => ?_, fun r loc hx => ⟨fun hu hl => ?_, fun hu hl hm => ?_, fun hl hm hu hc => ?_, fun hl hm hu hc => ?_⟩,
    fun r hx hu => ?_⟩
  · have hchk : s.due.cyieldCheck (s.due.sreg f.a) (s.due.sreg f.b) = .error (Trap.plain Cause.notCoroutine) := cyieldCheck_leaf h
    rw [exec_cyield, run_ready hr, closing_error hchk, conclude_trap (by decide)]
  · rw [cyield_ready hr hx, yieldBody_unsettled hw]
    rfl
  · rw [cyield_ready hr hx, yieldBody_on hu, if_pos hl, conclude_trap (by decide)]
  · rw [cyield_ready hr hx, yieldBody_on hu, if_neg (by rw [hl]; decide), if_pos hm,
      conclude_trap (poisonTrap_taken _ _)]
  · rw [cyield_ready hr hx, yieldBody_on hu, if_neg (by rw [hl]; decide), if_neg (by rw [hm]; decide), if_pos hc, conclude_done]
  · rw [cyield_ready hr hx, yieldBody_on hu, if_neg (by rw [hl]; decide), if_neg (by rw [hm]; decide), if_neg (by rw [hc]; decide),
      conclude_done]
  · have hbody : yieldBody f.d (s.sreg f.a).toNat (s.sreg f.b).toNat (r, none) v = .done .stay (v.yieldOn r f.d none) := by
      unfold yieldBody
      rw [if_neg (by rw [hu]; decide)]
      rfl
    rw [cyield_ready hr hx, hbody, conclude_done]

/-! ### The record that yields -/

/-- Every sequencer is as it was, but for its reservation and its loads ahead, and the same one is in turn. -/
def State.SameSeqs (s t : State) : Prop := (∀ q, (s.seqAt q).ButLoads (t.seqAt q)) ∧ t.cur = s.cur

theorem State.SameSeqs.refl (s : State) : s.SameSeqs s := ⟨fun _ => Seq.ButLoads.refl _, rfl⟩

theorem State.SameSeqs.trans {s t u : State} (h : s.SameSeqs t) (k : t.SameSeqs u) : s.SameSeqs u :=
  ⟨fun q => (h.1 q).trans (k.1 q), k.2.trans h.2⟩

theorem State.SameSeqs.of_eq {s t : State} (h : t.seqs = s.seqs) (hc : t.cur = s.cur) : s.SameSeqs t :=
  ⟨fun q => by unfold State.seqAt; rw [h]; rfl, hc⟩

theorem State.SameSeqs.me {s t : State} (h : s.SameSeqs t) : s.me.ButLoads t.me := by
  rw [State.me, State.me, h.2]
  exact h.1 _

theorem dropGranules_butLoads (w : Nat × Nat) (loc n q : Nat) (m : SMap Seq) :
    ((SMap.find m q).getD Seq.reset).ButLoads ((SMap.find (dropGranules m w loc n) q).getD Seq.reset) := by
  unfold dropGranules
  generalize List.range ((loc + n + 63) / 64 - loc / 64) = l
  induction l generalizing m with
  | nil => rfl
  | cons k l ih => exact (find_loseReservations ..).trans (ih _)

theorem State.SameSeqs.pokeAs (s : State) (by_ loc n v : Nat) : s.SameSeqs (s.pokeAs by_ loc n v) :=
  ⟨fun q => dropGranules_butLoads _ loc n q s.seqs, rfl⟩

theorem State.SameSeqs.logHw (s : State) (u part : Nat) (e : Miss) (va : Nat) : s.SameSeqs (s.logHw u part e va) := by
  unfold State.logHw State.logErr State.negate
  cases e.page <;> simp only [] <;> split <;> exact State.SameSeqs.of_eq rfl rfl

theorem State.SameSeqs.queued (s : State) (f : Nat) (l : List QEntry) : s.SameSeqs { s with free := f, queue := l } :=
  State.SameSeqs.of_eq rfl rfl

theorem State.SameSeqs.putLast (s : State) (e : QEntry) : s.SameSeqs (s.putLast e) := by
  unfold State.putLast
  split
  · exact State.SameSeqs.of_eq rfl rfl
  · split
    · exact State.SameSeqs.logHw ..
    · simp only []
      generalize privateSector s.free = z
      exact (State.SameSeqs.pokeAs s otherParty _ 32 z).trans (State.SameSeqs.queued _ _ _)

theorem State.SameSeqs.ageOne (s : State) (d : Nat) (e : QEntry) : s.SameSeqs (s.ageOne d e) := by
  unfold State.ageOne
  split
  · exact (State.SameSeqs.of_eq (t := { s with queue := s.queue.erase e }) rfl rfl).trans (State.SameSeqs.putLast ..)
  · exact State.SameSeqs.of_eq rfl rfl

theorem State.SameSeqs.ageFuel (n : Nat) (s : State) : s.SameSeqs (s.ageFuel n) := by
  induction n generalizing s with
  | zero => exact State.SameSeqs.refl s
  | succ n ih =>
    unfold State.ageFuel
    split
    · exact State.SameSeqs.refl s
    · exact (State.SameSeqs.ageOne ..).trans (ih _)

/-- Queueing a record changes of every sequencer its reservation and its loads ahead at the most. -/
theorem State.SameSeqs.enqueue (s : State) (r : Rec) (u level : Nat) : s.SameSeqs (s.enqueue r u level) :=
  (State.SameSeqs.ageFuel ..).trans (State.SameSeqs.putLast ..)

theorem State.hwWrite_waiting (s : State) (u part va align n v : Nat) :
    (s.hwWrite u part va align n v).queue = s.queue ∧ (s.hwWrite u part va align n v).yields = s.yields ∧
      (s.hwWrite u part va align n v).cur = s.cur := by
  have hlog (e : Miss) : (s.logHw u part e va).queue = s.queue ∧ (s.logHw u part e va).yields = s.yields ∧
      (s.logHw u part e va).cur = s.cur := by
    unfold State.logHw State.logErr State.negate
    cases e.page <;> simp only [] <;> split <;> exact ⟨rfl, rfl, rfl⟩
  unfold State.hwWrite
  split
  · exact hlog _
  · exact ⟨rfl, rfl, rfl⟩

theorem State.yieldOn_error {s : State} {r : Rec} {e : Miss} (h : s.hwLoc r.part (r.frame.toNat + 0x80) 64 = .error e) (d : Reg)
    (chan : Option (Nat × Nat)) : s.yieldOn r d chan = { (s.saveCoro r).setMe s.me.cleared with
      yields := (s.saveCoro r).yields ++ [⟨{ r with resume := some (d, s.me.held) }, noChannel, 0, upperOf s.cur, s.me.level⟩] } := by
  unfold State.yieldOn
  simp only [h]
  rfl

theorem State.yieldOn_channel {s : State} {r : Rec} {at_ : Nat} (h : s.hwLoc r.part (r.frame.toNat + 0x80) 64 = .ok at_) (d : Reg)
    (loc cond : Nat) : s.yieldOn r d (some (loc, cond)) = { (s.saveCoro r).setMe s.me.cleared with
      yields := (s.saveCoro r).yields ++ [⟨{ r with resume := some (d, s.me.held) }, loc, cond, upperOf s.cur, s.me.level⟩] } := by
  unfold State.yieldOn
  simp only [h]
  rfl

theorem State.yieldOn_none {s : State} {r : Rec} {at_ : Nat} (h : s.hwLoc r.part (r.frame.toNat + 0x80) 64 = .ok at_) (d : Reg) :
    s.yieldOn r d none =
      ((s.saveCoro r).setMe s.me.cleared).enqueue { r with resume := some (d, s.me.held) } (upperOf s.cur) s.me.level := by
  unfold State.yieldOn
  simp only [h]

theorem yieldOn_spec (s : State) (r : Rec) (d : Reg) (chan : Option (Nat × Nat)) :
    let t := s.yieldOn r d chan
    let r' : Rec := { r with resume := some (d, s.me.held) }
    t.me.mode = .idle ∧
    (∀ e, s.hwLoc r.part (r.frame.toNat + 0x80) 64 = .error e →
      t.queue = s.queue ∧ t.yields = s.yields ++ [⟨r', noChannel, 0, upperOf s.cur, s.me.level⟩]) ∧
    (∀ at_ loc cond, s.hwLoc r.part (r.frame.toNat + 0x80) 64 = .ok at_ → chan = some (loc, cond) →
      t.queue = s.queue ∧ t.yields = s.yields ++ [⟨r', loc, cond, upperOf s.cur, s.me.level⟩]) := by
  intro t r'
  obtain ⟨hq, hy, -⟩ : (s.saveCoro r).queue = s.queue ∧ (s.saveCoro r).yields = s.yields ∧ (s.saveCoro r).cur = s.cur :=
    s.hwWrite_waiting ..
  have hidle : ((s.saveCoro r).setMe s.me.cleared).me.mode = .idle := by
    rw [State.me_setMe]
    rfl
  have hwaits (l : List Yield) : (State.me { (s.saveCoro r).setMe s.me.cleared with yields := l }).mode = .idle := hidle
  refine ⟨?_, fun e he => ?_, fun at_ loc cond ha hch => ?_⟩
  · show (s.yieldOn r d chan).me.mode = .idle
    cases hl : s.hwLoc r.part (r.frame.toNat + 0x80) 64 with
    | error e =>
      rw [State.yieldOn_error hl]
      exact hwaits _
    | ok at_ =>
      cases chan with
      | none =>
        rw [State.yieldOn_none hl, (State.SameSeqs.enqueue ..).me]
        exact hidle
      | some x =>
        rw [State.yieldOn_channel hl]
        exact hwaits _
  · show (s.yieldOn r d chan).queue = s.queue ∧ (s.yieldOn r d chan).yields = _
    rw [State.yieldOn_error he]
    exact ⟨hq, congrArg (· ++ _) hy⟩
  · show (s.yieldOn r d chan).queue = s.queue ∧ (s.yieldOn r d chan).yields = _
    rw [hch, State.yieldOn_channel ha]
    exact ⟨hq, congrArg (· ++ _) hy⟩

/-- Settles O45, word by word, with the record that yields. -/
theorem channelWords : Obligations.ChannelWords := by
  unfold Obligations.ChannelWords
  exact ⟨chput_spec, chget_spec, cyield_spec, yieldOn_spec⟩

end Sys2Proof.Machine

/-!
Barrier objects (O46); atomics and fences (O47).
-/

namespace Sys2Proof.Machine

set_option Elab.async false

/-! ### The object (R225 to R228) -/

/-- A phase turns when its arrivals are complete and its count is at most 0. -/
def BarObj.turned (c : BarObj) : BarObj := if c.arrived = c.expected ∧ c.count ≤ 0 then c.turn else c

theorem BarObj.advance_eq (b : BarObj) : b.advance = b.turned.turned := rfl

theorem BarObj.arrive_cases (b : BarObj) (tag bytes : Nat) :
    let d := phaseDiff tag b.phase
    (d < 0 → b.arrive tag bytes = .error (Cause.staleArrival, b)) ∧
    (2 ≤ d → b.arrive tag bytes = .error (Cause.barrierOverrun, { b with overrun := true })) ∧
    (d = 0 → b.arrived = b.expected → b.arrive tag bytes = .error (Cause.barrierOverrun, { b with overrun := true })) ∧
    (d = 0 → b.arrived < b.expected → b.count + bytes < 2 ^ 31 →
      b.arrive tag bytes = .ok { b with arrived := b.arrived + 1, count := b.count + bytes }.advance) ∧
    (d = 1 → b.early < b.expected → b.next + bytes < 2 ^ 29 →
      b.arrive tag bytes = .ok { b with early := b.early + 1, next := b.next + bytes }.advance) ∧
    (b.reached tag = true ↔ 0 ≤ phaseDiff b.phase tag) := by
  intro d
  unfold BarObj.arrive
  simp only []
  refine ⟨fun h1 => if_pos h1, fun h1 => ?_, fun h1 h2 => ?_, fun h1 h2 h3 => ?_, fun h1 h2 h3 => ?_, decide_eq_true_iff⟩
  · rw [if_neg (show ¬ d < 0 by omega)]
    exact if_pos h1
  all_goals rw [if_neg (show ¬ d < 0 by omega), if_neg (show ¬ 2 ≤ d by omega)]
  · rw [if_pos (show phaseDiff tag b.phase = 0 from h1), if_pos h2]
  · rw [if_pos (show phaseDiff tag b.phase = 0 from h1), if_neg (by omega), if_neg (by omega)]
  · rw [if_neg (show ¬ phaseDiff tag b.phase = 0 by omega), if_neg (by omega), if_neg (by omega)]

/-- The fields of the value that `barw` writes (R229). -/
theorem barwWord_fields (b : BarObj) (status : Nat) (hs : status < 256) (hp : b.phase < 65536) :
    (barwWord b status).toNat % 256 = status ∧ (barwWord b status).toNat / 65536 = b.phase ∧
    (barwWord b status).getLsbD 8 = b.surplus ∧ (barwWord b status).getLsbD 9 = b.overrun := by
  have hval : (barwWord b status).toNat = b.phase * 65536 + (if b.overrun then 512 else 0) + (if b.surplus then 256 else 0) + status := by
    unfold barwWord
    rw [BitVec.toNat_ofNat]
    refine Nat.mod_eq_of_lt ?_
    split <;> split <;> omega
  simp only [← BitVec.testBit_toNat, hval, Nat.testBit_eq_decide_div_mod_eq]
  cases b.overrun <;> cases b.surplus <;> simp only [if_true, if_false, Bool.false_eq_true, decide_eq_true_eq, decide_eq_false_iff_not] <;> omega

/-! ### `barv`, `bara` and `barw` -/

section
variable (s : State) (f : R3)

theorem exec_barv : exec (.barv f) s = run (.barv f) (fun s => closing (fun u => u.barCheck (s.sreg f.a) (s.sreg f.b) 16)
    (fun loc u => u.arriveAt (s.sreg f.a).toNat loc f.d ((s.sreg f.b).toNat % 65536) 0) s) s := rfl

theorem exec_bara : exec (.bara f) s = run (.bara f) (fun s => closing (fun u => u.barCheck (s.sreg f.a) (s.sreg f.b) 45)
    (fun loc u => u.arriveAt (s.sreg f.a).toNat loc f.d ((s.sreg f.b).toNat % 65536) ((s.sreg f.b).toNat / 65536 % 536870912)) s) s :=
  rfl

/-- What `barw` does after its issue checks and the commit of an open strip. -/
def barwBody (f : R3) (a b : Word) (loc : Nat) (u : State) : Res :=
  if u.viewBad loc 16 then .trap (poisonTrap 0 a.toNat) u
  else if (u.barAt loc).bad then .trap (Trap.plain Cause.badBarrier) u
  else if (u.barAt loc).reached (b.toNat % 65536) then .done .seq ((u.acquire sysScope).setS f.d (barwWord (u.barAt loc) 0))
  else .wait (u.beginWait ⟨f, a.toNat, b.toNat % 65536, u.barwDeadline b⟩)

theorem exec_barw : exec (.barw f) s = run (.barw f) (fun s => closing (fun u => u.barCheck (s.sreg f.a) (s.sreg f.b) 48)
    (barwBody f (s.sreg f.a) (s.sreg f.b)) s) s := rfl
end

theorem barCheck_ok {u : State} {a b : Word} {top loc : Nat} (h : u.checkAccess u.ctx .both a.toNat 16 = .ok loc)
    (hb : b.toNat < 2 ^ top) : u.barCheck a b top = .ok loc := by
  unfold State.barCheck
  rw [h]
  exact if_neg (Nat.not_le.mpr hb)

theorem barCheck_wide {u : State} {a b : Word} {top loc : Nat} (h : u.checkAccess u.ctx .both a.toNat 16 = .ok loc)
    (hb : 2 ^ top ≤ b.toNat) : u.barCheck a b top = .error (Trap.plain Cause.badBarrier) := by
  unfold State.barCheck
  rw [h]
  exact if_pos hb

theorem arriveAt_ok {v : State} {va loc tag bytes : Nat} {d : Reg} {b : BarObj} (hv : v.viewBad loc 16 = false)
    (hb : (v.barAt loc).bad = false) (h : (v.barAt loc).arrive tag bytes = .ok b) :
    v.arriveAt va loc d tag bytes = .done .seq ((v.putBar va loc b).setS d (BitVec.ofNat 64 b.phase)) := by
  unfold State.arriveAt
  simp only [hv, hb, h, Bool.false_eq_true, if_false]

/-- An arrival (R227). -/
theorem arrival_spec {s : State} {f : R3} {i : Instr} {top loc : Nat} {b : BarObj} (bytes : Word → Nat)
    (hexec : exec i s = run i (fun s => closing (fun u => u.barCheck (s.sreg f.a) (s.sreg f.b) top)
      (fun loc u => u.arriveAt (s.sreg f.a).toNat loc f.d ((s.sreg f.b).toNat % 65536) (bytes (s.sreg f.b))) s) s) (hr : s.Ready i)
    (hloc : s.due.checkAccess s.due.ctx .both (s.sreg f.a).toNat 16 = .ok loc) :
    let v := s.due.commitStrip
    (2 ^ top ≤ (s.sreg f.b).toNat → exec i s = .next (s.due.trapped i (Trap.plain Cause.badBarrier))) ∧
    ((s.sreg f.b).toNat < 2 ^ top → v.viewBad loc 16 = false → (v.barAt loc).bad = false →
      (v.barAt loc).arrive ((s.sreg f.b).toNat % 65536) (bytes (s.sreg f.b)) = .ok b →
      exec i s = .next (((v.putBar (s.sreg f.a).toNat loc b).setS f.d (BitVec.ofNat 64 b.phase)).retire i .seq)) := by
  intro v
  refine ⟨fun h => ?_, fun h hv hb ha => ?_⟩
  · have hchk : s.due.barCheck (s.due.sreg f.a) (s.due.sreg f.b) top = .error (Trap.plain Cause.badBarrier) := barCheck_wide hloc h
    rw [hexec, run_ready hr, closing_error hchk, conclude_trap (by decide)]
  · have hchk : s.due.barCheck (s.due.sreg f.a) (s.due.sreg f.b) top = .ok loc := barCheck_ok hloc h
    have hbody : v.arriveAt (s.due.sreg f.a).toNat loc f.d ((s.due.sreg f.b).toNat % 65536) (bytes (s.due.sreg f.b)) = _ := arriveAt_ok hv hb ha
    rw [hexec, run_ready hr, closing_ok hchk, hbody, conclude_done]
    rfl

theorem barw_spec (s : State) (f : R3) (loc : Nat) (hr : s.Ready (.barw f)) :
    let u := s.due
    let v := u.commitStrip
    let a := (s.sreg f.a).toNat
    let b := s.sreg f.b
    let o := v.barAt loc
    u.checkAccess u.ctx .both a 16 = .ok loc → b.toNat < 2 ^ 48 → v.viewBad loc 16 = false → o.bad = false →
    (o.reached (b.toNat % 65536) = true →
      exec (.barw f) s = .next (((v.acquire sysScope).setS f.d (barwWord o 0)).retire (.barw f) .seq)) ∧
    (o.reached (b.toNat % 65536) = false →
      exec (.barw f) s = .next { v.setMe { v.me with
        mode := .barw ⟨f, a, b.toNat % 65536, v.barwDeadline b⟩ } with waited := true }) := by
  intro u v a b o hloc hb hv ho
  have hchk : s.due.barCheck (s.due.sreg f.a) (s.due.sreg f.b) 48 = .ok loc := barCheck_ok hloc hb
  have hready : exec (.barw f) s = .next (conclude s.due (.barw f) (barwBody f (s.sreg f.a) b loc v)) := by
    rw [exec_barw, run_ready hr, closing_ok hchk]
    rfl
  have hbody : barwBody f (s.sreg f.a) b loc v =
      if o.reached (b.toNat % 65536) then .done .seq ((v.acquire sysScope).setS f.d (barwWord o 0))
      else .wait (v.beginWait ⟨f, a, b.toNat % 65536, v.barwDeadline b⟩) := by
    unfold barwBody
    rw [if_neg (by rw [hv]; decide), if_neg (by rw [show (v.barAt loc).bad = false from ho]; decide)]
  refine ⟨fun h => ?_, fun h => ?_⟩
  · rw [hready, hbody, if_pos h, conclude_done]
  · rw [hready, hbody, if_neg (by rw [h]; decide)]
    rfl

/-! ### The two events of a wait (R229) -/

section
variable {s : State} {q : Nat} {w : BarWait}

/-- What an event that ends a wait answers, where the deadline has passed or the event is the phase's. -/
theorem exec_wait {i : Instr} (hi : i ∈ [Instr.barwPhaseReached q, .barwTimeout q]) (hm : (s.seqAt q).mode = .barw w)
    (hl : i = .barwPhaseReached q ∨ (∃ t, w.deadline = some t ∧ t ≤ s.clock)) : exec i s =
      match s.barwLook q w with
      | none => .next s
      | some (.error t) => .next (s.trapWait q w t)
      | some (.ok o) => .next (if o.reached w.target then s.endWait q w (barwWord o 0)
          else if i = .barwTimeout q then s.endWait q w (barwWord o 1) else s) := by
  rw [List.mem_cons, List.mem_singleton] at hi
  rcases hi with rfl | rfl
  · have hexec : exec (.barwPhaseReached q) s = execBarwPhaseReached q s := rfl
    rw [hexec]
    unfold execBarwPhaseReached
    rw [hm]
    simp only [reduceCtorEq, if_false]
    cases s.barwLook q w with
    | none => rfl
    | some x =>
      cases x with
      | error t => rfl
      | ok o =>
        simp only []
        split <;> rfl
  · have hexec : exec (.barwTimeout q) s = execBarwTimeout q s := rfl
    have hlate : w.late s.clock = true := by
      obtain ⟨t, ht, hle⟩ := hl.resolve_left (by simp)
      unfold BarWait.late
      rw [ht]
      exact decide_eq_true hle
    rw [hexec]
    unfold execBarwTimeout
    rw [hm]
    simp only [hlate, Bool.not_true, Bool.false_eq_true, if_false, if_true]
    cases s.barwLook q w with
    | none => rfl
    | some x =>
      cases x with
      | error t => rfl
      | ok o =>
        simp only []
        split <;> rfl

theorem barwLook_error {e : Miss} (h : s.checkAccess (s.ctxOf q) .both w.addr 16 = .error e) :
    s.barwLook q w = if e.cause = Cause.held then none else some (.error (e.trap 0 w.addr)) := by
  unfold State.barwLook
  rw [h]

theorem barwLook_ok {loc : Nat} (h : s.checkAccess (s.ctxOf q) .both w.addr 16 = .ok loc) :
    s.barwLook q w = if s.poisoned loc then some (.error (poisonTrap 0 w.addr))
      else if (s.barAt loc).bad then some (.error (Trap.plain Cause.badBarrier)) else some (.ok (s.barAt loc)) := by
  unfold State.barwLook
  rw [h]
end

theorem wait_events (s : State) (q : Nat) (w : BarWait) (i : Instr) (hi : i ∈ [Instr.barwPhaseReached q, .barwTimeout q])
    (hm : (s.seqAt q).mode = .barw w) (hl : i = .barwPhaseReached q ∨ (∃ t, w.deadline = some t ∧ t ≤ s.clock)) :
    let x := s.checkAccess (s.ctxOf q) .both w.addr 16
    (∀ e, x = .error e → e.cause = Cause.held → exec i s = .next s) ∧
    (∀ e, x = .error e → e.cause ≠ Cause.held → exec i s = .next (s.trapWait q w (e.trap 0 w.addr))) ∧
    (∀ loc, x = .ok loc →
      let o := s.barAt loc
      (s.poisoned loc = true → exec i s = .next (s.trapWait q w (poisonTrap 0 w.addr))) ∧
      (s.poisoned loc = false → o.bad = true → exec i s = .next (s.trapWait q w (Trap.plain Cause.badBarrier))) ∧
      (s.poisoned loc = false → o.bad = false → o.reached w.target = true →
        exec i s = .next (s.endWait q w (barwWord o 0))) ∧
      (s.poisoned loc = false → o.bad = false → o.reached w.target = false →
        exec i s = .next (if i = .barwTimeout q then s.endWait q w (barwWord o 1) else s))) := by
  intro x
  have hexec := exec_wait hi hm hl
  refine ⟨fun e he hc => ?_, fun e he hc => ?_, fun loc hloc => ⟨fun hp => ?_, fun hp hb => ?_, fun hp hb hre => ?_, fun hp hb hre => ?_⟩⟩
  · rw [hexec, barwLook_error he, if_pos hc]
  · rw [hexec, barwLook_error he, if_neg hc]
  all_goals rw [hexec, barwLook_ok hloc]
  · rw [if_pos hp]
  all_goals rw [if_neg (by rw [hp]; decide)]
  · rw [if_pos hb]
  all_goals rw [if_neg (by rw [hb]; decide)]
  · simp only [hre, if_true]
  · simp only [hre, Bool.false_eq_true, if_false]

theorem wait_idle (s : State) (q : Nat) :
    (∀ w, (s.seqAt q).mode = .barw w → (∀ t, w.deadline = some t → s.clock < t) → exec (.barwTimeout q) s = .next s) ∧
    ((∀ w, (s.seqAt q).mode ≠ .barw w) →
      exec (.barwPhaseReached q) s = .next s ∧ exec (.barwTimeout q) s = .next s) := by
  have h1 : exec (.barwPhaseReached q) s = execBarwPhaseReached q s := rfl
  have h2 : exec (.barwTimeout q) s = execBarwTimeout q s := rfl
  rw [h1, h2]
  unfold execBarwPhaseReached execBarwTimeout
  refine ⟨fun w hw ht => ?_, fun hn => ⟨?_, ?_⟩⟩
  · have hlate : w.late s.clock = false := by
      unfold BarWait.late
      cases hd : w.deadline with
      | none => rfl
      | some t => exact decide_eq_false (Nat.not_le.mpr (ht t hd))
    rw [hw]
    simp only [hlate, Bool.not_false, if_true]
  · split
    · rename_i w hw
      exact absurd hw (hn w)
    · rfl
  · split
    · rename_i w hw
      exact absurd hw (hn w)
    · rfl

/-- Settles O46: the object's own laws, then the words and the events at what they find at the address. -/
theorem barriers : Obligations.Barriers := by
  unfold Obligations.Barriers
  refine ⟨fun b n => rfl, fun b tag bytes _ => b.arrive_cases tag bytes, fun s f i top bytes loc b hi hr hloc => ?_, barw_spec, wait_events, fun s q w t => rfl,
    wait_idle, barwWord_fields⟩
  rcases hi with ⟨rfl, rfl, rfl⟩ | ⟨rfl, rfl, rfl⟩
  · exact arrival_spec (fun _ => 0) (exec_barv s f) hr hloc
  · exact arrival_spec (fun b => b.toNat / 65536 % 536870912) (exec_bara s f) hr hloc

/-! ### Atomics and fences (R230, R231) -/

theorem amo_eq (i : Instr) (o : AmoOp) (f : Amo) (s : State) : amo i o f s = run i (fun s =>
    closing (fun u => u.scalarCheck .both (s.sreg f.a) (if f.narrow then 4 else 8))
      (fun loc u => u.amoAt o f (s.sreg f.a).toNat loc (if f.narrow then 4 else 8)
        ((s.sreg f.b).toNat % 2 ^ (8 * (if f.narrow then 4 else 8))) ((s.sreg f.d).toNat % 2 ^ (8 * (if f.narrow then 4 else 8)))) s) s :=
  rfl

/-- What an atomic leaves: the new value stored, if there is one, and the old one in sD. -/
def amoDone (v : State) (d : Reg) (a loc size : Nat) (zero : Bool) (new : Option Nat) : State :=
  State.loaded (State.setS
    (match new with
      | some n => v.commitSectors (bufNat [] a loc size n)
      | none => v)
    d (extendTo (!zero) size (cellsNat v.mem.cells loc size))) [inPlace loc size]

/-- An atomic at an accessible location of unmarked bytes (R230). -/
theorem amo_done {s : State} {f : Amo} {w : Instr} {o : AmoOp} {loc size : Nat} {new : Option Nat}
    (hexec : exec w s = amo w o f s) (hz : size = if f.narrow then 4 else 8)
    (hnew : o.apply (8 * size) (cellsNat s.due.commitStrip.mem.cells loc size) ((s.sreg f.b).toNat % 2 ^ (8 * size))
      ((s.sreg f.d).toNat % 2 ^ (8 * size)) = new)
    (hr : s.Ready w) (hloc : s.due.checkAccess s.due.ctx .both (s.sreg f.a).toNat size = .ok loc)
    (hv : s.due.commitStrip.viewBad loc size = false) :
    exec w s = .next (State.retire w .seq (amoDone s.due.commitStrip f.d (s.sreg f.a).toNat loc size o.unsigned new)) := by
  have hchk : s.due.scalarCheck .both (s.due.sreg f.a) size = .ok loc := State.scalarCheck_ok hloc
  have hbody : s.due.commitStrip.amoAt o f (s.due.sreg f.a).toNat loc size ((s.due.sreg f.b).toNat % 2 ^ (8 * size))
      ((s.due.sreg f.d).toNat % 2 ^ (8 * size)) =
      .done .seq (amoDone s.due.commitStrip f.d (s.sreg f.a).toNat loc size o.unsigned new) := by
    have happ : o.apply (8 * size) (cellsNat s.due.commitStrip.mem.cells loc size) ((s.due.sreg f.b).toNat % 2 ^ (8 * size))
      ((s.due.sreg f.d).toNat % 2 ^ (8 * size)) = new := hnew
    unfold State.amoAt
    rw [if_neg (by rw [hv]; decide)]
    simp only [happ]
    cases new <;> rfl
  rw [hexec, amo_eq, ← hz, run_ready hr, closing_ok hchk, hbody, conclude_done]

/-- A number of some bits, read as a signed one. -/
def signedAt (bits n : Nat) : Int := if 2 ^ (bits - 1) ≤ n then (n : Int) - 2 ^ bits else n

theorem signedAt_eq (bits n : Nat) : (if 2 ^ (bits - 1) ≤ n then (n : Int) - (2 ^ bits : Nat) else n) = signedAt bits n := by
  unfold signedAt
  rw [Int.natCast_pow]
  rfl

theorem AmoOp.apply_min (bits m x e : Nat) : AmoOp.min.apply bits m x e = some (if signedAt bits x < signedAt bits m then x else m) := by
  rw [← signedAt_eq, ← signedAt_eq]
  rfl

theorem AmoOp.apply_max (bits m x e : Nat) : AmoOp.max.apply bits m x e = some (if signedAt bits m < signedAt bits x then x else m) := by
  rw [← signedAt_eq, ← signedAt_eq]
  rfl

section
variable (s : State) (f : Amo)
theorem exec_amoSwap : exec (.amoSwap f) s = amo (.amoSwap f) .swap f s := rfl
theorem exec_amoAdd : exec (.amoAdd f) s = amo (.amoAdd f) .add f s := rfl
theorem exec_amoAnd : exec (.amoAnd f) s = amo (.amoAnd f) .and f s := rfl
theorem exec_amoOr : exec (.amoOr f) s = amo (.amoOr f) .or f s := rfl
theorem exec_amoXor : exec (.amoXor f) s = amo (.amoXor f) .xor f s := rfl
theorem exec_amoMin : exec (.amoMin f) s = amo (.amoMin f) .min f s := rfl
theorem exec_amoMax : exec (.amoMax f) s = amo (.amoMax f) .max f s := rfl
theorem exec_amoMinn : exec (.amoMinn f) s = amo (.amoMinn f) .minn f s := rfl
theorem exec_amoMaxn : exec (.amoMaxn f) s = amo (.amoMaxn f) .maxn f s := rfl
theorem exec_amoCas : exec (.amoCas f) s = amo (.amoCas f) .cas f s := rfl
end

section
variable (s : State) (f : FenceF)
theorem exec_fence : exec (.fence f) s = run (.fence f) fenceBody s := rfl
theorem exec_fenceAcq : exec (.fenceAcq f) s = run (.fenceAcq f) fenceBody s := rfl
theorem exec_fenceRel : exec (.fenceRel f) s = run (.fenceRel f) fenceBody s := rfl
end

theorem fence_spec (s : State) (f : FenceF) (i : Instr) (hi : i ∈ [Instr.fence f, .fenceAcq f, .fenceRel f]) (hr : s.Ready i) :
    exec i s = .next (s.due.commitStrip.retire i .seq) := by
  simp only [List.mem_cons, List.not_mem_nil, or_false] at hi
  rcases hi with rfl | rfl | rfl
  · exact (exec_fence s f).trans (run_done hr rfl)
  · exact (exec_fenceAcq s f).trans (run_done hr rfl)
  · exact (exec_fenceRel s f).trans (run_done hr rfl)

/-- Settles O47: each atomic is the common read-modify-write with its operation. -/
theorem atomicsAndFences : Obligations.AtomicsAndFences := by
  unfold Obligations.AtomicsAndFences
  refine ⟨fun s f loc => ⟨fun hr hloc hv => ?_, fun hr hloc hv => ?_, fun hr hloc hv => ?_, fun hr hloc hv => ?_, fun hr hloc hv => ?_,
    fun hr hloc hv => ?_, fun hr hloc hv => ?_, fun hr hloc hv => ?_, fun hr hloc hv => ?_, fun hr hloc hv => ?_⟩, fence_spec⟩
  · exact (amo_done (exec_amoSwap s f) rfl rfl hr hloc hv :)
  · exact (amo_done (exec_amoAdd s f) rfl rfl hr hloc hv :)
  · exact (amo_done (exec_amoAnd s f) rfl rfl hr hloc hv :)
  · exact (amo_done (exec_amoOr s f) rfl rfl hr hloc hv :)
  · exact (amo_done (exec_amoXor s f) rfl rfl hr hloc hv :)
  · exact (amo_done (exec_amoMin s f) rfl (AmoOp.apply_min ..) hr hloc hv :)
  · exact (amo_done (exec_amoMax s f) rfl (AmoOp.apply_max ..) hr hloc hv :)
  · exact (amo_done (exec_amoMinn s f) rfl rfl hr hloc hv :)
  · exact (amo_done (exec_amoMaxn s f) rfl rfl hr hloc hv :)
  · exact (amo_done (exec_amoCas s f) rfl rfl hr hloc hv :)

end Sys2Proof.Machine

/-!
Every step keeps the memory in its canonical form (O60): the operations of a sequencer and of the hardware.
-/

namespace Sys2Proof.Machine

set_option Elab.async false

/-! ### Folds -/

theorem State.MemoryOk.foldl {α : Type} {f : State → α → State} (hf : ∀ s x, s.MemoryOk → (f s x).MemoryOk) {s : State} (h : s.MemoryOk)
    (l : List α) : (l.foldl f s).MemoryOk := by
  induction l generalizing s with
  | nil => exact h
  | cons x t ih => exact ih (hf s x h)

/-! ### Words -/

/-- What a meaning answers keeps the canonical form, whether it completes, traps or waits. -/
def Res.MemoryOk : Res → Prop
  | .done _ t => t.MemoryOk
  | .trap _ t => t.MemoryOk
  | .wait t => t.MemoryOk

section
variable {s : State}

theorem State.MemoryOk.markSector (h : s.MemoryOk) {sec : Nat} : (s.markSector sec).MemoryOk := h.of_cells rfl
theorem State.MemoryOk.setMe (h : s.MemoryOk) {m : Seq} : (s.setMe m).MemoryOk := h.of_cells rfl
theorem State.MemoryOk.setSeq (h : s.MemoryOk) {q : Nat} {m : Seq} : (s.setSeq q m).MemoryOk := h.of_cells rfl
theorem State.MemoryOk.setS (h : s.MemoryOk) {r : Reg} {v : Word} : (s.setS r v).MemoryOk := h.of_cells rfl
theorem State.MemoryOk.setUpper (h : s.MemoryOk) {u : Nat} {x : Upper} : (s.setUpper u x).MemoryOk := h.of_cells rfl
theorem State.MemoryOk.setSole (h : s.MemoryOk) {n : Nat} {x : Sole} : (s.setSole n x).MemoryOk := h.of_cells rfl

theorem State.MemoryOk.negate (h : s.MemoryOk) {p : Option Nat} : (s.negate p).MemoryOk := h.of_cells (State.negate_cells s p)
theorem State.MemoryOk.logErr (h : s.MemoryOk) {kind part cls num : Nat} {cont : Bool} {d1 d2 : Nat} :
    (s.logErr kind part cls num cont d1 d2).MemoryOk := h.of_cells (State.logErr_cells ..)
theorem State.MemoryOk.logHw (h : s.MemoryOk) {u part : Nat} {e : Miss} {va : Nat} : (s.logHw u part e va).MemoryOk := h.negate.logErr
theorem State.MemoryOk.hashInto (h : s.MemoryOk) {launch serial : Nat} {bs : List Byte} : (s.hashInto launch serial bs).MemoryOk :=
  h.of_cells (State.hashInto_cells ..)

theorem State.MemoryOk.storeAs (h : s.MemoryOk) {shape : StoreShape} {b : SMap BufSector} : (s.storeAs shape b).MemoryOk := by
  unfold State.storeAs
  split
  · exact h.setMe
  · exact h.commitSectors b

theorem State.MemoryOk.landNth (h : s.MemoryOk) {q n : Nat} : (s.landNth q n).MemoryOk := by
  unfold State.landNth
  simp only []
  split
  · exact h
  · split
    · exact h
    · exact h.landPiece ..

theorem State.MemoryOk.commitStrip (h : s.MemoryOk) : s.commitStrip.MemoryOk := by
  unfold State.commitStrip
  split
  · exact h
  · rename_i st _
    exact ((h.commitSectors st.buf).of_cells (congrArg (·.cells) (State.unpin_mem ..))).setMe

theorem State.MemoryOk.loaded (h : s.MemoryOk) {l : List Access} : (s.loaded l).MemoryOk := by
  unfold State.loaded
  split
  · exact h
  · exact h.setMe

theorem State.MemoryOk.loadedFrom (h : s.MemoryOk) {f : Nat → Access} {va n : Nat} : (s.loadedFrom f va n).MemoryOk := by
  unfold State.loadedFrom
  split
  · exact h
  · exact h.loaded

theorem State.MemoryOk.acquire (h : s.MemoryOk) {sc : Nat} : (s.acquire sc).MemoryOk := by
  unfold State.acquire
  split
  · exact h
  · exact h.setMe

theorem State.MemoryOk.abandonStrip (h : s.MemoryOk) : s.abandonStrip.MemoryOk := by
  unfold State.abandonStrip
  split
  · exact h
  · exact (h.setSole).setMe

theorem State.MemoryOk.record (h : s.MemoryOk) {r : Nat → TrapRec} : (s.record r).MemoryOk := h.of_cells rfl

theorem State.MemoryOk.walked (h : s.MemoryOk) {c : Ctx} {acc : Acc} {va : Nat} : (s.walked c acc va).MemoryOk := by
  unfold State.walked
  split
  · exact h.negate
  · exact h

theorem State.MemoryOk.takeDoubleFault (h : s.MemoryOk) {t : Trap} : (s.takeDoubleFault t).MemoryOk := by
  unfold State.takeDoubleFault
  exact h.abandonStrip.setMe.record

theorem State.MemoryOk.takeTrap (h : s.MemoryOk) {t : Trap} : (s.takeTrap t).MemoryOk := by
  unfold State.takeTrap
  simp only []
  split
  · exact h.negate.takeDoubleFault
  · exact (h.negate.abandonStrip.record).setMe

theorem State.MemoryOk.retire (h : s.MemoryOk) (i : Instr) (f : Flow) : (s.retire i f).MemoryOk :=
  h.of_cells (congrArg (·.cells) (SameMachine.retire s i f).mem)

theorem State.MemoryOk.holdIssue (h : s.MemoryOk) {w : Nat} : (s.holdIssue w).MemoryOk := h.setMe

theorem State.MemoryOk.stopWord (hs : s.MemoryOk) {t : State} (ht : t.MemoryOk) {x : Trap} {w : Nat} : (s.stopWord t x w).MemoryOk := by
  unfold State.stopWord
  split
  · exact hs
  · exact ht.takeTrap.holdIssue

theorem State.MemoryOk.conclude (h : s.MemoryOk) {i : Instr} {r : Res} (hr : r.MemoryOk) : (conclude s i r).MemoryOk := by
  cases r with
  | done f t => exact State.MemoryOk.retire hr i f
  | trap x t => exact h.stopWord hr
  | wait t => exact State.MemoryOk.of_cells hr rfl
end

/-- A meaning that keeps the form wherever it runs. -/
def Keeps (body : State → Res) : Prop := ∀ u : State, u.MemoryOk → (body u).MemoryOk

/-- A word that keeps the form in its meaning keeps it in its issue (R62). -/
theorem Keeps.issue {body : State → Res} (hb : Keeps body) {s : State} (h : s.MemoryOk) {i : Instr} {group : VType → Bool} :
    (s.issue i group body).MemoryOk := by
  have ha : (s.atIssue i).MemoryOk := h.of_cells rfl
  rw [issue_eq]
  split
  · exact h.of_cells rfl
  · split
    · exact ha.stopWord ha
    · exact ha.conclude (hb _ ha)

/-- Instruction i keeps the form in every state. -/
def KeepsMemory (i : Instr) : Prop := ∀ s t : State, s.MemoryOk → exec i s = .next t → t.MemoryOk

theorem Keeps.word {i : Instr} {group : VType → Bool} {body : State → Res} (hexec : ∀ s, exec i s = runG i group body s)
    (hb : Keeps body) : KeepsMemory i := fun s t h he => by
  have ht : s.issue i group body = t := Host.Outcome.next.inj ((hexec s).symm.trans he)
  exact ht ▸ hb.issue h

end Sys2Proof.Machine

/-!
Every step keeps the memory in its canonical form (O60): tokens, launches, page tables, save areas and nests.
-/

namespace Sys2Proof.Machine

set_option Elab.async false

section
variable {s : State}

/-! ### Tokens, streams and launches -/

theorem State.MemoryOk.mine (h : s.MemoryOk) : s.mine.MemoryOk := h.of_cells rfl
theorem State.MemoryOk.notMine (h : s.MemoryOk) : s.notMine.MemoryOk := h.of_cells rfl
theorem State.MemoryOk.deliver (h : s.MemoryOk) {t : Tok} {v : Word} : (s.deliver t v).MemoryOk := h.of_cells rfl
theorem State.MemoryOk.send (h : s.MemoryOk) {x : Hdr} {type status : Nat} {body : List Byte} : (s.send x type status body).MemoryOk :=
  h.of_cells rfl

theorem State.MemoryOk.addStream (h : s.MemoryOk) {launch core : Nat} {bs : List Byte} : (s.addStream launch core bs).MemoryOk := by
  unfold State.addStream
  split
  · exact h
  · exact h.of_cells rfl

theorem State.MemoryOk.endStream (h : s.MemoryOk) {r : Rec} : (s.endStream r).MemoryOk := by
  unfold State.endStream
  split
  · exact h
  · split
    · exact h
    · exact h.of_cells rfl

theorem State.MemoryOk.backToOrdinary (h : s.MemoryOk) {p u k c : Nat} : (s.backToOrdinary p u k c).MemoryOk := by
  have hmove : (if s.launches.any (fun x => x.2.part == p) then s else s.moveImage (logicalImage k c) u).MemoryOk := by
    split
    · exact h
    · exact h.moveImage _ _
  unfold State.backToOrdinary
  generalize (if s.launches.any (fun x => x.2.part == p) then s else s.moveImage (logicalImage k c) u) = v at hmove ⊢
  simp only []
  split
  · exact State.MemoryOk.of_cells hmove rfl
  · exact hmove.setUpper

theorem State.MemoryOk.leaveTenants (h : s.MemoryOk) {p k : Nat} : (s.leaveTenants p k).MemoryOk := by
  unfold State.leaveTenants
  refine h.foldl (fun s x hs => ?_) s.uppers
  simp only []
  split
  · exact hs
  · exact hs.backToOrdinary

theorem State.MemoryOk.settle (h : s.MemoryOk) {k : Nat} : (s.settle k).MemoryOk := by
  unfold State.settle
  split
  · exact h
  · refine State.MemoryOk.leaveTenants ?_
    split
    · rename_i v _
      have hv : (s.complete (s.launchAt k) v).MemoryOk := h.send
      exact hv.of_cells rfl
    · exact h.of_cells rfl

/-! ### Page tables -/

theorem State.MemoryOk.putEntry (h : s.MemoryOk) {a v : Nat} : (s.putEntry a v).MemoryOk := by
  have hv := h.pokeAs otherParty a 8 v
  unfold State.putEntry
  exact hv.of_cells (by dsimp only)

theorem State.MemoryOk.newTable (h : s.MemoryOk) {size : Nat} : (s.newTable size).2.MemoryOk := h.of_cells rfl
theorem State.MemoryOk.newPages (h : s.MemoryOk) {lv n : Nat} : (s.newPages lv n).2.MemoryOk := h.of_cells rfl
theorem State.MemoryOk.fresh (h : s.MemoryOk) : s.fresh.2.MemoryOk := h.of_cells rfl

theorem State.MemoryOk.descend (h : s.MemoryOk) {table va lv n : Nat} : (s.descend table va lv n).2.MemoryOk := by
  induction n generalizing s table lv with
  | zero => exact h
  | succ n ih =>
    unfold State.descend
    simp only []
    split
    · exact ih h
    · exact ih h.newTable.putEntry

theorem State.MemoryOk.writeLeaf (h : s.MemoryOk) {root va lv pa perm key : Nat} : (s.writeLeaf root va lv pa perm key).MemoryOk :=
  State.MemoryOk.putEntry h.descend

theorem State.MemoryOk.writeLeaves (h : s.MemoryOk) {root va lv pa perm key n : Nat} :
    (s.writeLeaves root va lv pa perm key n).MemoryOk := by
  induction n generalizing s va pa with
  | zero => exact h
  | succ n ih => exact ih h.writeLeaf

theorem State.MemoryOk.clearLeaves (h : s.MemoryOk) {root va lv n : Nat} : (s.clearLeaves root va lv n).MemoryOk := by
  induction n generalizing s va with
  | zero => exact h
  | succ n ih => exact ih (State.MemoryOk.putEntry h.descend)

theorem State.MemoryOk.dropCached (h : s.MemoryOk) {part va size : Nat} : (s.dropCached part va size).MemoryOk := h.of_cells rfl

theorem State.MemoryOk.mapRange (h : s.MemoryOk) {part : Nat} {r : MapRange} {x : Nat × State} (hx : s.mapRange part r = some x) :
    x.2.MemoryOk := by
  unfold State.mapRange at hx
  split at hx
  · cases hx
  · have hv := h.newPages (lv := r.page) (n := (r.size + levelPage r.page - 1) / levelPage r.page)
    simp only [] at hx
    generalize s.newPages r.page ((r.size + levelPage r.page - 1) / levelPage r.page) = y at hx hv
    simp only [Option.ite_none_left_eq_some, Option.some.injEq] at hx
    obtain ⟨-, -, rfl⟩ := hx
    exact State.MemoryOk.of_cells (State.MemoryOk.dropCached (State.MemoryOk.writeLeaves (hv.clearPages _ _))) rfl

theorem State.MemoryOk.mapMissing (h : s.MemoryOk) {part va : Nat} {t : State} (ht : s.mapMissing part va = some t) : t.MemoryOk := by
  unfold State.mapMissing at ht
  split at ht
  · rename_i r _ _
    have hv := h.newPages (lv := r.page) (n := 1)
    simp only [] at ht
    generalize s.newPages r.page 1 = y at ht hv
    simp only [Option.ite_none_left_eq_some, Option.some.injEq] at ht
    obtain ⟨-, rfl⟩ := ht
    exact State.MemoryOk.writeLeaf (hv.clearPages _ _)
  · cases ht

theorem State.MemoryOk.serviceMap (h : s.MemoryOk) {part va : Nat} : (s.serviceMap part va).MemoryOk := by
  unfold State.serviceMap
  cases ht : s.mapMissing part va with
  | none => exact h
  | some t => exact h.mapMissing ht

theorem State.MemoryOk.copyTable (h : s.MemoryOk) {src dst n : Nat} : (s.copyTable src dst n).MemoryOk := by
  unfold State.copyTable
  simp only []
  generalize cellsNat s.mem.tables src n = v
  have hv := h.pokeAs otherParty dst n v
  exact hv.of_cells (by dsimp only)

theorem State.MemoryOk.repointEntry (h : s.MemoryOk) {a old new : Nat} : (s.repointEntry a old new).MemoryOk := by
  unfold State.repointEntry
  simp only []
  split
  · exact h.putEntry
  · exact h

theorem State.MemoryOk.repointTable (h : s.MemoryOk) {a old new n : Nat} : (s.repointTable a old new n).MemoryOk := by
  induction n generalizing s a with
  | zero => exact h
  | succ n ih =>
    unfold State.repointTable
    exact ih h.repointEntry

theorem State.MemoryOk.forgetPage (h : s.MemoryOk) {parts : SMap Partition} {negative : List Nat} {tlb : List (Nat × Nat × Nat × Nat × List Nat)} :
    State.MemoryOk { s with parts := parts, mem := { s.mem with negative := negative, tlb := tlb } } := h.of_cells rfl

theorem State.MemoryOk.rebuildPage (h : s.MemoryOk) {page : Nat} : (s.rebuildPage page).MemoryOk := by
  unfold State.rebuildPage
  exact State.MemoryOk.forgetPage (State.MemoryOk.foldl (fun _ _ hs => hs.repointTable) h.newTable.copyTable _)

theorem State.MemoryOk.rebuildRoot (h : s.MemoryOk) {root page : Nat} : (s.rebuildRoot root page).MemoryOk := by
  unfold State.rebuildRoot
  exact State.MemoryOk.forgetPage h.newTable.copyTable

/-! ### Save areas -/

theorem State.MemoryOk.putField (h : s.MemoryOk) {base : Nat} {f : Field} : (s.putField base f).MemoryOk := by
  unfold State.putField
  refine State.MemoryOk.foldl (fun s k hs => hs.markSector) ?_ f.marks
  split
  · exact h
  · exact h.poke _ _ _

theorem State.MemoryOk.putFields (h : s.MemoryOk) {base : Nat} {l : List Field} : (l.foldl (fun s f => s.putField base f) s).MemoryOk :=
  h.foldl (fun _ _ hs => hs.putField) l

theorem State.MemoryOk.writeSave (h : s.MemoryOk) {x : Saved} {slot image area : Nat} : (s.writeSave x slot image area).MemoryOk := by
  unfold State.writeSave
  refine State.MemoryOk.foldl (fun s j hs => (hs.savePad _ _ _).putFields) ?_ _
  refine State.MemoryOk.foldl (fun s y hs => ?_) (State.MemoryOk.putFields (h.clearPages _ _)) _
  simp only []
  split
  · exact hs.putFields
  · exact hs

theorem State.MemoryOk.saveArea (h : s.MemoryOk) {p image width : Nat} {x : Nat × State} (hx : s.saveArea p image width = some x) :
    x.2.MemoryOk := by
  unfold State.saveArea at hx
  split at hx
  · cases hx
  · split at hx
    · cases hx
      exact h
    · have hv := h.newPages (lv := 0) (n := 32 * (width + 1))
      simp only [] at hx
      generalize s.newPages 0 (32 * (width + 1)) = y at hx hv
      simp only [Option.ite_none_left_eq_some, Option.some.injEq] at hx
      obtain ⟨-, rfl⟩ := hx
      exact State.MemoryOk.of_cells hv rfl

theorem State.MemoryOk.loseSoleSector (h : s.MemoryOk) {image j off : Nat} : (s.loseSoleSector image j off).MemoryOk := by
  unfold State.loseSoleSector
  simp only []
  split
  · exact h.markSector
  · split
    · exact h.setSole
    · split
      · split
        · exact h.setSole
        · exact h
      · exact h

theorem State.MemoryOk.loseSector (h : s.MemoryOk) {sec : Nat} : (s.loseSector sec).MemoryOk := by
  unfold State.loseSector
  simp only []
  refine State.MemoryOk.foldl (fun s x hs => ?_) ?_ _
  · split
    · split
      · exact hs.loseSoleSector
      · exact hs
    · exact hs
  · exact h.markSector.of_cells (by dsimp only)

theorem State.MemoryOk.keepContext (h : s.MemoryOk) {p : Nat} {c : CoreOf} {why : Purpose} : (s.keepContext p c why).2.MemoryOk := by
  unfold State.keepContext
  simp only []
  split
  · exact h
  · rename_i hx
    exact State.MemoryOk.of_cells (State.MemoryOk.writeSave (h.saveArea hx)) rfl

/-! ### Nests and queues -/

theorem State.MemoryOk.setNode (h : s.MemoryOk) {n x : Nat} {d : Node} : (s.setNode n x d).MemoryOk := by
  unfold State.setNode
  split
  · exact h
  · exact h.of_cells rfl

theorem State.MemoryOk.writeHead (h : s.MemoryOk) {u n x bytes : Nat} : (s.writeHead u n x bytes).MemoryOk := by
  unfold State.writeHead
  split
  · exact h
  · split
    · exact h
    · refine State.MemoryOk.hwWrite (State.MemoryOk.hwWrite ?_ ..) ..
      split
      · exact h
      · exact h.setNode

theorem State.MemoryOk.refreshLine (h : s.MemoryOk) {u n x : Nat} : (s.refreshLine u n x).MemoryOk := by
  unfold State.refreshLine
  split
  · exact h
  · split
    · exact h
    · simp only []
      split
      · exact (h.hwWrite ..).hwWrite ..
      · exact h.hwWrite ..

theorem State.MemoryOk.setJoin (h : s.MemoryOk) {α : Type} {u part frame count : Nat} {next : List α} :
    (s.setJoin u part frame count next).1.MemoryOk := by
  unfold State.setJoin
  split
  · exact h.logHw
  · exact h.hwWrite ..

theorem State.MemoryOk.putLast (h : s.MemoryOk) {e : QEntry} : (s.putLast e).MemoryOk := by
  unfold State.putLast
  split
  · exact h.of_cells rfl
  · split
    · exact h.logHw
    · simp only []
      rename_i loc _
      generalize privateSector s.free = z
      have hv := h.pokeAs otherParty loc 32 z
      exact hv.of_cells (by dsimp only)

theorem State.MemoryOk.ageFuel (h : s.MemoryOk) {n : Nat} : (s.ageFuel n).MemoryOk := by
  induction n generalizing s with
  | zero => exact h
  | succ n ih =>
    unfold State.ageFuel
    split
    · exact h
    · refine ih ?_
      unfold State.ageOne
      split
      · refine State.MemoryOk.putLast ?_
        exact h.of_cells rfl
      · exact h.of_cells rfl

theorem State.MemoryOk.ageAll (h : s.MemoryOk) : s.ageAll.MemoryOk := h.ageFuel
theorem State.MemoryOk.enqueue (h : s.MemoryOk) {r : Rec} {u level : Nat} : (s.enqueue r u level).MemoryOk := h.ageAll.putLast

theorem State.emptyChannel_eq (s : State) (loc : Nat) : ∃ n f, s.emptyChannel loc = { s.poke loc 64 n with free := f } := ⟨_, _, rfl⟩

theorem State.MemoryOk.emptyChannel (h : s.MemoryOk) {loc : Nat} : (s.emptyChannel loc).MemoryOk := by
  obtain ⟨n, f, he⟩ := s.emptyChannel_eq loc
  rw [he]
  have hv := h.poke loc 64 n
  exact hv.of_cells (by dsimp only)

theorem State.MemoryOk.freeChannels (h : s.MemoryOk) {l : List (Nat × Nat × Nat)} : (s.freeChannels l).MemoryOk :=
  h.foldl (fun _ _ hs => hs.setSole) l

theorem State.MemoryOk.recordFault (h : s.MemoryOk) {u part frame sw : Nat} : (s.recordFault u part frame sw).MemoryOk := by
  unfold State.recordFault
  split
  · exact h.logHw
  · split
    · exact h.hwWrite ..
    · exact h

theorem State.MemoryOk.onStatus (h : s.MemoryOk) {u part frame : Nat} {next : State → Nat → State × List Act}
    (hn : ∀ v, (next s v).1.MemoryOk) : (s.onStatus u part frame next).1.MemoryOk := by
  unfold State.onStatus
  split
  · exact h.logHw
  · exact hn _

theorem State.MemoryOk.startNode (h : s.MemoryOk) {u n x lv : Nat} : (s.startNode u n x lv).1.MemoryOk := by
  unfold State.startNode
  split
  · exact h
  · split
    · exact h
    · split
      · exact h
      · have hset {d : Node} : (s.setNode n x d).MemoryOk := h.setNode
        simp only []
        split
        case h_1 | h_2 =>
          split
          · exact hset.onStatus fun _ => hset
          · exact hset.fresh.enqueue
        case h_7 =>
          split
          · exact hset.onStatus fun _ => hset
          · exact hset.setJoin
        all_goals exact hset.setJoin

theorem State.MemoryOk.resetNode (h : s.MemoryOk) {u n x : Nat} : (s.resetNode u n x).MemoryOk := by
  unfold State.resetNode
  split
  · exact h
  · split
    · exact h
    · rename_i t _ _ d _
      have hhead : ((s.setNode n x d.resetNode).writeHead u n x 16).MemoryOk := h.setNode.writeHead
      generalize (s.setNode n x d.resetNode).writeHead u n x 16 = v at hhead
      have hchan : (match d.kind, v.chanLoc t.launch t.part d.chan with
        | .pipe, some loc => v.emptyChannel loc
        | _, _ => v).MemoryOk := by
        split
        · exact hhead.emptyChannel
        · exact hhead
      simp only []
      split
      · split
        · exact State.MemoryOk.logHw (State.MemoryOk.setNode hchan)
        · exact State.MemoryOk.hwWrite hchan ..
      · exact hchan

theorem State.MemoryOk.resetSubtrees (h : s.MemoryOk) {u n : Nat} {kids : List Nat} : (s.resetSubtrees u n kids).MemoryOk := by
  unfold State.resetSubtrees
  refine h.foldl (fun s k hs => ?_) kids
  split
  · exact hs
  · exact hs.foldl (fun _ _ hs => hs.resetNode) _

theorem State.MemoryOk.stepNode (h : s.MemoryOk) {u n x lv : Nat} : (s.stepNode u n x lv).1.MemoryOk := by
  unfold State.stepNode
  split
  · exact h
  · split
    · exact h
    · refine h.onStatus fun v => ?_
      simp only []
      split
      · exact h
      · split
        · exact h.setNode.refreshLine.setJoin
        · split
          · exact h.resetSubtrees.setNode.refreshLine.setJoin
          · exact h

theorem State.MemoryOk.passUp (h : s.MemoryOk) {u n x sw : Nat} {t : Nest} {d : Node} : (s.passUp u n x sw t d).1.MemoryOk := by
  unfold State.passUp
  split
  · exact h
  · simp only []
    split
    · exact h.recordFault
    · exact h

theorem State.MemoryOk.finishNode (h : s.MemoryOk) {u n x sw lv : Nat} : (s.finishNode u n x sw lv).1.MemoryOk := by
  unfold State.finishNode
  split
  · exact h
  · split
    · exact h
    · simp only []
      split
      · exact h.setNode.passUp
      · split
        · exact h.setNode.passUp
        · split
          · split
            · exact h.setNode.logHw
            · exact h.setNode.poke _ _ _
          · exact h.setNode.passUp

end

end Sys2Proof.Machine

/-!
Every step keeps the memory in its canonical form (O60): cancellation, joins, and the end of a record.
-/

namespace Sys2Proof.Machine

set_option Elab.async false

section
variable {s : State}

/-! ### Parts of the state outside memory -/

theorem State.MemoryOk.withDev (h : s.MemoryOk) {d : Dev} : State.MemoryOk { s with dev := d } := h.of_cells rfl
theorem State.MemoryOk.withQueue (h : s.MemoryOk) {l : List QEntry} : State.MemoryOk { s with queue := l } := h.of_cells rfl
theorem State.MemoryOk.withYields (h : s.MemoryOk) {l : List Yield} : State.MemoryOk { s with yields := l } := h.of_cells rfl
theorem State.MemoryOk.withNests (h : s.MemoryOk) {l : SMap Nest} : State.MemoryOk { s with nests := l } := h.of_cells rfl
theorem State.MemoryOk.withParts (h : s.MemoryOk) {l : SMap Partition} : State.MemoryOk { s with parts := l } := h.of_cells rfl
theorem State.MemoryOk.withLaunches (h : s.MemoryOk) {l : SMap Launch} : State.MemoryOk { s with launches := l } := h.of_cells rfl
theorem State.MemoryOk.withCmds (h : s.MemoryOk) {l : SMap Command} : State.MemoryOk { s with cmds := l } := h.of_cells rfl
theorem State.MemoryOk.withRounds (h : s.MemoryOk) {l : SMap Round} : State.MemoryOk { s with rounds := l } := h.of_cells rfl
theorem State.MemoryOk.withFlights (h : s.MemoryOk) {l : List Update} : State.MemoryOk { s with flights := l } := h.of_cells rfl
theorem State.MemoryOk.withSaves (h : s.MemoryOk) {l : SMap Saved} : State.MemoryOk { s with saves := l } := h.of_cells rfl
theorem State.MemoryOk.withUppers (h : s.MemoryOk) {l : SMap Upper} : State.MemoryOk { s with uppers := l } := h.of_cells rfl
theorem State.MemoryOk.withChecks (h : s.MemoryOk) {l : SMap Checks} : State.MemoryOk { s with checks := l } := h.of_cells rfl
theorem State.MemoryOk.withCur (h : s.MemoryOk) {c : Nat} : State.MemoryOk { s with cur := c } := h.of_cells rfl
theorem State.MemoryOk.withFree (h : s.MemoryOk) {n : Nat} : State.MemoryOk { s with free := n } := h.of_cells rfl

/-! ### Cancellation -/

theorem State.MemoryOk.putControl (h : s.MemoryOk) {loc : Nat} {r : Round} {state : Nat} : (s.putControl loc r state).MemoryOk :=
  h.poke _ _ _

theorem State.MemoryOk.putCounts (h : s.MemoryOk) {loc : Nat} {r : Round} : (s.putCounts loc r).MemoryOk := (h.poke _ _ _).poke _ _ _

theorem State.MemoryOk.leaveRound (h : s.MemoryOk) {loc : Nat} : (s.leaveRound loc).MemoryOk := by
  unfold State.leaveRound
  split
  · exact h
  · exact h.withRounds.putControl

theorem State.MemoryOk.quitRound (h : s.MemoryOk) {loc serial : Nat} : (s.quitRound loc serial).MemoryOk := by
  unfold State.quitRound
  split
  · split
    · exact h
    · exact h.withRounds
  · exact h.leaveRound

theorem State.MemoryOk.dropWaiting (h : s.MemoryOk) {r : Rec} {saved : Option Seq} : (s.dropWaiting r saved).MemoryOk := by
  have hround {o : Option Nat} : (match o with
    | some loc => s.quitRound loc r.serial
    | none => s).MemoryOk := by
    split
    · exact h.quitRound
    · exact h
  unfold State.dropWaiting
  exact State.MemoryOk.endStream hround

theorem State.MemoryOk.unqueue (h : s.MemoryOk) {n x : Nat} {y : Nat × Rec × State} (hy : s.unqueue n x = some y) : y.2.2.MemoryOk := by
  unfold State.unqueue at hy
  split at hy
  · cases hy
    exact h.withQueue.dropWaiting
  · split at hy
    · cases hy
      exact h.withYields.dropWaiting
    · cases hy

theorem State.MemoryOk.askStop (h : s.MemoryOk) {u : Nat} {why : Purpose} : (s.askStop u why).MemoryOk := by
  unfold State.askStop
  simp only []
  split
  · exact h
  · exact h.setUpper

theorem State.MemoryOk.cancelLeaf (h : s.MemoryOk) {n x : Nat} : (s.cancelLeaf n x).1.MemoryOk := by
  unfold State.cancelLeaf
  split
  · rename_i hy
    exact h.unqueue hy
  · exact h.foldl (fun _ _ hs => hs.askStop) _

theorem State.MemoryOk.cancelNode (h : s.MemoryOk) {n x : Nat} : (s.cancelNode n x).1.MemoryOk := by
  unfold State.cancelNode
  split
  · exact h
  · rename_i d _
    have hfold (l : List Nat) (acc : State × List (Act × Nat)) (ha : acc.1.MemoryOk) :
        (l.foldl (fun acc y =>
          match acc.1.nodeAt n y with
          | none => acc
          | some e =>
            match e.progress with
            | .ended => acc
            | .waiting => (acc.1.setNode n y { e with progress := .ended, cancel := true }, acc.2)
            | .started =>
              let s := acc.1.setNode n y { e with cancel := true }
              if e.kind.leaf && !e.cancel then
                let (s, more) := s.cancelLeaf n y
                (s, acc.2 ++ more)
              else (s, acc.2)) acc).1.MemoryOk := by
      induction l generalizing acc with
      | nil => exact ha
      | cons y l ih =>
        refine ih _ ?_
        dsimp only
        split
        · exact ha
        · split
          · exact ha
          · exact ha.setNode
          · split
            · exact ha.setNode.cancelLeaf
            · exact ha.setNode
    exact hfold _ (s, []) h

/-! ### Joins -/

theorem State.MemoryOk.goneNode (h : s.MemoryOk) {n x : Nat} {r : Rec} : (s.goneNode n x r).1.MemoryOk := by
  unfold State.goneNode
  split
  · exact h
  · split
    · exact h
    · simp only []
      split <;> exact h.setNode

theorem State.MemoryOk.noteFrame (h : s.MemoryOk) {r : Rec} : (s.noteFrame r).MemoryOk := by
  unfold State.noteFrame
  split
  · exact h
  · split
    · exact h
    · exact h.withParts

theorem State.MemoryOk.readCont (h : s.MemoryOk) {u part launch va lv : Nat} : (s.readCont u part launch va lv).1.MemoryOk := by
  unfold State.readCont
  split
  · exact h.logHw
  · simp only []
    split
    · split
      · exact h
      · exact h.logErr
    · exact h.fresh.noteFrame.enqueue

theorem State.MemoryOk.decrJoin (h : s.MemoryOk) {u part launch va : Nat} {wid : Word} : (s.decrJoin u part launch va wid).1.MemoryOk := by
  unfold State.decrJoin
  split
  · exact h.logHw
  · simp only []
    split
    · exact h.logErr
    · split
      · exact h.hwWrite ..
      · split
        · exact h.hwWrite ..
        · exact (h.hwWrite ..).readCont

theorem State.MemoryOk.putToken (h : s.MemoryOk) {u part va : Nat} {v : Word} : (s.putToken u part va v).MemoryOk := by
  unfold State.putToken
  split
  · exact h.logHw
  · exact h.poke _ _ _

theorem State.MemoryOk.finalToken (h : s.MemoryOk) {u k : Nat} {v : Word} : (s.finalToken u k v).MemoryOk := by
  unfold State.finalToken
  simp only []
  split
  · exact h.putToken
  · exact h.putToken.withLaunches

theorem State.MemoryOk.endNest (h : s.MemoryOk) {u n : Nat} {value : Word} : (s.endNest u n value).MemoryOk := by
  unfold State.endNest
  split
  · exact h
  · simp only []
    split
    · exact h.withNests.freeChannels.deliver
    · exact h.withNests.freeChannels.finalToken

theorem State.MemoryOk.act (h : s.MemoryOk) {a : Act} {u : Nat} : (s.act a u).1.MemoryOk := by
  cases a with
  | start n x lv => exact h.startNode
  | step n x lv => exact h.stepNode
  | finish n x sw lv => exact h.finishNode
  | cancel n x => exact h.cancelNode
  | gone n x r => exact h.goneNode
  | decr part launch va wid => exact h.decrJoin
  | rootEnd n v => exact h.endNest

theorem State.MemoryOk.acts (h : s.MemoryOk) {l : List (Act × Nat)} {fuel : Nat} : (s.acts l fuel).MemoryOk := by
  induction fuel generalizing s l with
  | zero => exact h
  | succ fuel ih =>
    unfold State.acts
    split
    · exact h
    · exact ih h.act

theorem State.MemoryOk.doActs (h : s.MemoryOk) {l : List (Act × Nat)} : (s.doActs l).MemoryOk := h.acts

/-! ### The end of a record -/

theorem State.MemoryOk.storeResult (h : s.MemoryOk) {u : Nat} {r : Rec} {v : Word} : (s.storeResult u r v).MemoryOk := by
  unfold State.storeResult
  split
  · exact h
  · simp only []
    split
    · exact h.logHw
    · exact (h.poke _ _ _).hashInto

theorem State.MemoryOk.dropRecord (h : s.MemoryOk) {q : Nat} {r : Rec} : (s.dropRecord q r).MemoryOk := by
  have hround : (match (s.seqAt q).held with
    | some loc => s.quitRound loc r.serial
    | none => s).MemoryOk := by
    split
    · exact h.quitRound
    · exact h
  have hdrop : (((match (s.seqAt q).held with
    | some loc => s.quitRound loc r.serial
    | none => s).endStream r).dropPins q).MemoryOk := (State.MemoryOk.endStream hround).withChecks
  exact hdrop.setSeq

theorem State.MemoryOk.addAt (h : s.MemoryOk) {u : Update} : (s.addAt u).MemoryOk := h.withFlights.pokeAs ..

theorem State.MemoryOk.landOwn (h : s.MemoryOk) {q : Nat} : (s.landOwn q).MemoryOk := by
  unfold State.landOwn
  exact h.foldl (fun _ _ hs => hs.addAt) _

theorem State.MemoryOk.endRecord (h : s.MemoryOk) {q cause : Nat} {result : Word} : (s.endRecord q cause result).MemoryOk := by
  have hland : ((s.landOwn q).drainSeq q).MemoryOk := h.landOwn.drainSeq q
  unfold State.endRecord
  generalize (s.landOwn q).drainSeq q = v at hland ⊢
  simp only []
  split
  · exact hland.setSeq
  · rename_i r _
    have hdrop : ((v.storeResult (upperOf q) r result).dropRecord q r).MemoryOk := hland.storeResult.dropRecord
    refine State.MemoryOk.settle ?_
    generalize (v.storeResult (upperOf q) r result).dropRecord q r = w at hdrop ⊢
    split
    · rename_i n x _
      have hnode : (match w.nodeAt n x with
        | some d => w.setNode n x { d with result := result }
        | none => w).MemoryOk := by
        split
        · exact hdrop.setNode
        · exact hdrop
      split
      · exact State.MemoryOk.doActs hnode
      · exact State.MemoryOk.doActs hnode
    · split
      · exact hdrop
      · refine State.MemoryOk.doActs ?_
        split
        · exact hdrop
        · exact hdrop.recordFault

theorem State.MemoryOk.endCancelled (h : s.MemoryOk) {q : Nat} : (s.endCancelled q).MemoryOk := by
  have hland : ((s.landOwn q).drainSeq q).MemoryOk := h.landOwn.drainSeq q
  unfold State.endCancelled
  simp only []
  split
  · exact hland
  · refine State.MemoryOk.settle ?_
    split
    · exact hland.dropRecord.doActs
    · exact hland.dropRecord

end

end Sys2Proof.Machine

/-!
Every step keeps the memory in its canonical form (O60): scatter rounds, run queues and tenants.
-/

namespace Sys2Proof.Machine

set_option Elab.async false

section
variable {s : State}

/-! ### Scatter rounds -/

theorem State.MemoryOk.joinRound (h : s.MemoryOk) {loc va n : Nat} {f : Fmt} {t : State} (ht : s.joinRound loc f va n = .ok t) :
    t.MemoryOk := by
  unfold State.joinRound at ht
  simp only [] at ht
  split at ht
  · cases ht
  · split at ht
    · split at ht
      · cases ht
      · cases ht
        exact h.withRounds.putControl.setMe
    · split at ht
      · cases ht
      · cases ht
        exact h.withRounds.putControl.putCounts.setMe

theorem State.MemoryOk.sendUpdates (h : s.MemoryOk) {w : Fmt} {l : List (Nat × Nat × Nat × Nat)} : (s.sendUpdates w l).MemoryOk := by
  unfold State.sendUpdates
  split
  · exact h
  · exact h.withFlights

theorem State.MemoryOk.sendAdds (h : s.MemoryOk) {w : Fmt} {l : List (Nat × Nat × Nat × Nat)} : (s.sendAdds w l).MemoryOk := h.of_cells rfl

theorem State.MemoryOk.spillSectors {n va : Nat} {c : Ctx} {t : State} (h : s.MemoryOk) (ht : s.spillSectors c va n = .ok t) :
    t.MemoryOk := by
  induction n generalizing s va with
  | zero =>
    cases ht
    exact h
  | succ n ih =>
    unfold State.spillSectors at ht
    split at ht
    · cases ht
    · exact ih (h.poke _ _ _).withFree ht

theorem State.MemoryOk.spillRound (h : s.MemoryOk) {slice loc : Nat} {es : List Update} : (s.spillRound slice loc es).MemoryOk := by
  unfold State.spillRound
  split
  · exact h
  · rename_i r _
    simp only []
    split
    · exact h
    · split
      · exact h.withRounds
      · split
        · exact h.withRounds.negate.logErr
        · rename_i hs
          exact (h.spillSectors hs).withRounds.putCounts

theorem State.MemoryOk.withHolds (h : s.MemoryOk) {l : SMap (List Update)} : State.MemoryOk { s with holds := l } := h.of_cells rfl

theorem State.MemoryOk.spillAll (h : s.MemoryOk) {slice : Nat} {buf : List Update} : (s.spillAll slice buf).MemoryOk :=
  State.MemoryOk.withHolds (h.foldl (fun _ _ hs => hs.spillRound) _)

theorem State.MemoryOk.holdUpdate (h : s.MemoryOk) {slice : Nat} {u : Update} : (s.holdUpdate slice u).MemoryOk := h.of_cells rfl

theorem State.MemoryOk.leftLast (h : s.MemoryOk) {u : Update} : (s.leftLast u).MemoryOk := by
  unfold State.leftLast
  split
  · exact h
  · split
    · exact h
    · split
      · exact h.withRounds.leaveRound
      · exact h

theorem State.MemoryOk.logRuns (h : s.MemoryOk) {loc : Nat} {r : Round} : (s.logRuns loc r).MemoryOk := by
  unfold State.logRuns
  split
  · exact h
  · exact h.negate.logErr

theorem State.MemoryOk.foldAddress (h : s.MemoryOk) {f : Fmt} {loc : Nat} {us : List (Update × Bool)} :
    (s.foldAddress f loc us).MemoryOk := by
  unfold State.foldAddress
  generalize cellsNat s.mem.cells loc (f.width / 8) = v
  simp only []
  split
  · exact (h.poke _ _ _).markSector
  · exact h.poke _ _ _

theorem State.MemoryOk.withHoldsRounds (h : s.MemoryOk) {l : SMap (List Update)} {r : SMap Round} :
    State.MemoryOk { s with holds := l, rounds := r } := h.of_cells rfl

theorem State.MemoryOk.closeRound (h : s.MemoryOk) {loc : Nat} {r : Round} : (s.closeRound loc r).MemoryOk := by
  have hlog : (if r.failed then s else s.logRuns loc r).MemoryOk := by
    split
    · exact h
    · exact h.logRuns
  unfold State.closeRound
  generalize s.roundUpdates loc r = us
  generalize (if r.failed then s else s.logRuns loc r) = u at hlog ⊢
  refine State.MemoryOk.deliver (State.MemoryOk.putCounts (State.MemoryOk.poke (State.MemoryOk.addStream ?_) _ _ _))
  split
  · exact hlog.withHoldsRounds
  · exact hlog.withHoldsRounds.foldl (fun _ _ hs => hs.foldAddress) _

theorem State.MemoryOk.updateArrival {n : Nat} {t : State} (h : s.MemoryOk) (ht : execScaddUpdateArrival n s = .next t) : t.MemoryOk := by
  unfold execScaddUpdateArrival at ht
  split at ht
  · cases ht
    exact h
  · simp only [] at ht
    split at ht
    · cases ht
      exact h.addAt
    · split at ht
      · cases ht
        exact h.holdUpdate.leftLast
      · split at ht
        · cases ht
          exact h
        · split at ht
          · cases ht
            exact h.serviceMap
          · cases ht
            exact h.spillAll.holdUpdate.leftLast

theorem State.MemoryOk.roundClose {r : Nat} {t : State} (h : s.MemoryOk) (ht : execScatterRoundClose r s = .next t) : t.MemoryOk := by
  unfold execScatterRoundClose at ht
  split at ht
  · cases ht
    exact h
  · split at ht
    · cases ht
      exact h.closeRound.settle
    · cases ht
      exact h

/-! ### Entering a record -/

theorem State.MemoryOk.openStream (h : s.MemoryOk) {launch serial : Nat} : (s.openStream launch serial).MemoryOk := h.hashInto

theorem State.MemoryOk.badEntry (h : s.MemoryOk) {code : Word} : (s.badEntry code).MemoryOk := by
  unfold State.badEntry
  exact h.takeTrap.setMe

theorem State.MemoryOk.enter (h : s.MemoryOk) {r : Rec} {level age : Nat} : (s.enter r level age).MemoryOk := by
  unfold State.enter
  simp only []
  split
  · exact h.openStream.setMe
  · exact h.openStream.setMe.badEntry

theorem State.MemoryOk.restoreBlock (h : s.MemoryOk) {v : Nat} {d : Reg} : (s.restoreBlock v d).MemoryOk := by
  unfold State.restoreBlock
  exact h.setMe

theorem State.MemoryOk.runEntry (h : s.MemoryOk) {e : QEntry} : (s.runEntry e).MemoryOk := by
  unfold State.runEntry
  split
  · exact h.setMe.setMe
  · split
    · exact h.enter
    · split
      · exact h.logHw
      · simp only []
        split
        · exact h.enter.setMe.restoreBlock
        · exact h.enter.setMe

theorem State.MemoryOk.withQueueCur (h : s.MemoryOk) {l : List QEntry} {c : Nat} : State.MemoryOk { s with queue := l, cur := c } :=
  h.of_cells rfl

theorem State.MemoryOk.popBy (h : s.MemoryOk) {q : Nat} {e : QEntry} : (s.popBy q e).MemoryOk := by
  unfold State.popBy
  simp only []
  split
  · exact h.withQueueCur.logHw.withCur
  · exact h.withQueueCur.runEntry.withCur

theorem State.MemoryOk.popFor {n q : Nat} (h : s.MemoryOk) : (s.popFor q n).MemoryOk := by
  induction n generalizing s with
  | zero => exact h
  | succ n ih =>
    unfold State.popFor
    split
    · exact h
    · split
      · exact h.popBy
      · exact ih h.popBy

/-! ### Tenants -/

theorem State.MemoryOk.endStopped (h : s.MemoryOk) {q : Nat} : (s.endStopped q).MemoryOk := by
  unfold State.endStopped
  split
  · split
    · exact h.endCancelled
    · exact h
  · exact h

theorem State.MemoryOk.endStoppedAll (h : s.MemoryOk) {u : Nat} : (s.endStoppedAll u).MemoryOk :=
  (h.foldl (fun _ _ hs => hs.endStopped) (seqsOf u)).foldl (fun _ q hs => hs.drainSeq q) (seqsOf u)

theorem State.MemoryOk.requeueSeq (h : s.MemoryOk) {m : Seq} {u : Nat} {block : Option Nat} : (s.requeueSeq m u block).MemoryOk := by
  unfold State.requeueSeq
  split
  · exact h
  · exact h.ageAll.withQueue

theorem State.MemoryOk.requeueAll (h : s.MemoryOk) {u : Nat} {area : Option Nat} : (s.requeueAll u area).MemoryOk := by
  unfold State.requeueAll
  refine h.foldl (fun s q hs => ?_) _
  dsimp only
  split
  · exact (State.MemoryOk.withChecks hs.requeueSeq).setSeq
  · exact hs

theorem State.MemoryOk.putAside (h : s.MemoryOk) {p u : Nat} {why : Purpose} {area : Option Nat} : (s.putAside p u why area).MemoryOk := by
  unfold State.putAside
  simp only []
  split
  · exact h.fresh.withSaves
  · split
    · exact h.fresh.withSaves
    · exact h

theorem State.MemoryOk.switchTenant (h : s.MemoryOk) {p : Nat} {c : CoreOf} {t : Tenant} : (s.switchTenant p c t).MemoryOk := by
  have hkeep := (h.endStoppedAll (u := c.leader)).keepContext (p := p) (c := c) (why := .timeSlice)
  unfold State.switchTenant
  simp only []
  generalize (s.endStoppedAll c.leader).keepContext p c .timeSlice = y at hkeep ⊢
  have hre := hkeep.requeueAll (u := c.leader) (area := y.1)
  generalize y.2.requeueAll c.leader y.1 = v at hre ⊢
  split
  · exact hre.withSaves.putAside.setUpper
  · exact hre.putAside.setUpper

theorem State.MemoryOk.dropSlice (h : s.MemoryOk) {p : Nat} {c : CoreOf} : (s.dropSlice p c).MemoryOk := by
  have hkeep := (h.endStoppedAll (u := c.leader)).keepContext (p := p) (c := c) (why := .timeSlice)
  unfold State.dropSlice
  simp only []
  split
  · exact hkeep.requeueAll.setUpper
  · exact h

theorem State.MemoryOk.pop {q : Nat} {t : State} (h : s.MemoryOk) (ht : execPop q s = .next t) : t.MemoryOk := by
  have hage := h.ageAll
  unfold execPop at ht
  generalize s.ageAll = v at hage ht
  cases ht
  split
  · exact hage.popFor
  · exact hage

theorem State.MemoryOk.timeSlice {u : Nat} {t : State} (h : s.MemoryOk) (ht : execTimeSliceQuantum u s = .next t) : t.MemoryOk := by
  have hage := h.ageAll
  unfold execTimeSliceQuantum at ht
  generalize s.ageAll = v at hage ht
  cases ht
  split
  · exact hage.askStop
  · exact hage

theorem State.MemoryOk.tenantSwitch {u : Nat} {t : State} (h : s.MemoryOk) (ht : execTenantSwitch u s = .next t) : t.MemoryOk := by
  have hage := h.ageAll
  unfold execTenantSwitch at ht
  generalize s.ageAll = v at hage ht
  simp only [] at ht
  split at ht
  · cases ht
    exact hage
  · split at ht
    · cases ht
      exact hage.dropSlice
    · split at ht
      · exact Host.Outcome.next.inj ht ▸ hage.switchTenant
      · cases ht
        exact hage

end

end Sys2Proof.Machine

/-!
Every step keeps the memory in its canonical form (O60): nests, channels, barriers, strips and engine commands.
-/

namespace Sys2Proof.Machine

set_option Elab.async false

section
variable {s : State}

theorem State.MemoryOk.done {f : Flow} (h : s.MemoryOk) : (Res.done f s).MemoryOk := h

/-! ### Nests -/

theorem State.MemoryOk.writeFrame (h : s.MemoryOk) {u n x : Nat} : (s.writeFrame u n x).MemoryOk := h.writeHead

theorem State.MemoryOk.makeChannels (h : s.MemoryOk) {image : Nat} {nodes : List Node} {w : Walk} :
    (s.makeChannels image nodes w).MemoryOk := by
  unfold State.makeChannels
  refine h.foldl (fun s d hs => ?_) _
  dsimp only
  split
  · exact hs
  · split
    · exact hs
    · exact (hs.setSole.poke _ _ _).emptyChannel

theorem State.MemoryOk.makeNest (h : s.MemoryOk) {q : Issuer} {y : Nat × State} (hy : s.makeNest q = .ok y) : y.2.MemoryOk := by
  unfold State.makeNest at hy
  split at hy
  · cases hy
  · split at hy
    · cases hy
    · cases hy
      exact (State.MemoryOk.makeChannels h.fresh.withNests).foldl (fun _ _ hs => hs.writeFrame) _

/-! ### Channels -/

theorem State.MemoryOk.wakeYields (h : s.MemoryOk) {loc : Nat} : (s.wakeYields loc).MemoryOk := by
  unfold State.wakeYields
  refine h.foldl (fun s y hs => ?_) _
  exact hs.withYields.enqueue

theorem State.MemoryOk.chputAt (h : s.MemoryOk) {va loc src : Nat} {d : Reg} : (s.chputAt va loc src d).MemoryOk := by
  unfold State.chputAt
  generalize s.chHeld loc = held
  split
  · exact h
  · split
    · exact h
    · split
      · exact (h.pokeMine _ _ _).wakeYields.setS
      · simp only []
        split
        · exact h
        · split
          · exact h.setS
          · split
            · exact h.setS
            · split
              · exact h
              · exact State.MemoryOk.done (State.MemoryOk.setS (State.MemoryOk.wakeYields (State.MemoryOk.pokeMine (h.commitSectors _) _ _ _)))

theorem State.MemoryOk.chgetAt (h : s.MemoryOk) {va loc dst : Nat} {d : Reg} : (s.chgetAt va loc dst d).MemoryOk := by
  unfold State.chgetAt
  generalize s.chHeld loc = held
  split
  · exact h
  · split
    · exact h
    · simp only []
      split
      · exact h
      · split
        · exact h.setS
        · split
          · exact h
          · exact State.MemoryOk.done (State.MemoryOk.setS (State.MemoryOk.acquire (State.MemoryOk.wakeYields
              (State.MemoryOk.pokeMine (h.commitSectors _) _ _ _))))

theorem State.MemoryOk.saveCoro (h : s.MemoryOk) {r : Rec} : (s.saveCoro r).MemoryOk := h.hwWrite ..

theorem State.MemoryOk.yieldOn (h : s.MemoryOk) {r : Rec} {d : Reg} {chan : Option (Nat × Nat)} : (s.yieldOn r d chan).MemoryOk := by
  have hsave : ((s.saveCoro r).setMe s.me.cleared).MemoryOk := h.saveCoro.setMe
  unfold State.yieldOn
  simp only []
  generalize (s.saveCoro r).setMe s.me.cleared = v at hsave ⊢
  split
  · exact hsave.withYields
  · exact hsave.enqueue
  · exact hsave.withYields

/-! ### Barriers -/

theorem State.MemoryOk.putBar (h : s.MemoryOk) {va loc : Nat} {b : BarObj} : (s.putBar va loc b).MemoryOk := by
  unfold State.putBar
  exact h.foldl (fun _ _ hs => hs.writeSector ..) _

theorem State.MemoryOk.arriveAt (h : s.MemoryOk) {va loc : Nat} {d : Reg} {tag bytes : Nat} : (s.arriveAt va loc d tag bytes).MemoryOk := by
  unfold State.arriveAt
  simp only []
  split
  · exact h
  · split
    · exact h
    · split
      · split
        · exact h
        · exact h.putBar
      · exact h.putBar.setS

theorem State.MemoryOk.endWait (h : s.MemoryOk) {q : Nat} {w : BarWait} {v : Word} : (s.endWait q w v).MemoryOk := by
  have hrun : State.MemoryOk (({ s with cur := q } : State).setMe { State.me { s with cur := q } with mode := .running }) := h.withCur.setMe
  unfold State.endWait
  simp only []
  generalize ({ s with cur := q } : State).setMe _ = x at hrun ⊢
  split
  · exact (State.MemoryOk.retire hrun.acquire.setS _ _).withCur
  · exact (State.MemoryOk.retire hrun.setS _ _).withCur

theorem State.MemoryOk.trapWait (h : s.MemoryOk) {q : Nat} {w : BarWait} {t : Trap} : (s.trapWait q w t).MemoryOk := by
  unfold State.trapWait
  exact h.withCur.setMe.takeTrap.holdIssue.withCur

theorem State.MemoryOk.phaseReached {q : Nat} {t : State} (h : s.MemoryOk) (ht : execBarwPhaseReached q s = .next t) : t.MemoryOk := by
  unfold execBarwPhaseReached at ht
  split at ht
  · split at ht
    · exact Host.Outcome.next.inj ht ▸ h
    · exact Host.Outcome.next.inj ht ▸ h.trapWait
    · split at ht
      · exact Host.Outcome.next.inj ht ▸ h.endWait
      · exact Host.Outcome.next.inj ht ▸ h
  · exact Host.Outcome.next.inj ht ▸ h

theorem State.MemoryOk.barwTimeout {q : Nat} {t : State} (h : s.MemoryOk) (ht : execBarwTimeout q s = .next t) : t.MemoryOk := by
  unfold execBarwTimeout at ht
  split at ht
  · split at ht
    · exact Host.Outcome.next.inj ht ▸ h
    · split at ht
      · exact Host.Outcome.next.inj ht ▸ h
      · exact Host.Outcome.next.inj ht ▸ h.trapWait
      · exact Host.Outcome.next.inj ht ▸ h.endWait
  · exact Host.Outcome.next.inj ht ▸ h

/-! ### Strips -/

theorem State.MemoryOk.openStrip (h : s.MemoryOk) {d : Reg} {gl : Nat} {base : Word} : (s.openStrip d gl base).MemoryOk := h.of_cells rfl

theorem State.MemoryOk.stopIfAsked (h : s.MemoryOk) {k : Nat} : (s.stopIfAsked k).MemoryOk := by
  unfold State.stopIfAsked
  split
  · exact h.setMe
  · exact h

/-! ### Engine commands -/

theorem State.MemoryOk.issueCommand (h : s.MemoryOk) {d : Reg} {c : Command} : (s.issueCommand d c).MemoryOk := by
  unfold State.issueCommand
  exact h.fresh.setMe.withCmds

theorem State.MemoryOk.emptyCommand (h : s.MemoryOk) {d : Reg} {c : Command} : (s.emptyCommand d c).MemoryOk := by
  unfold State.emptyCommand
  simp only []
  split
  · exact h.addStream.setS
  · exact h.addStream.setS.setMe

theorem State.MemoryOk.writeDest (h : s.MemoryOk) {c : Command} {va : Nat} {en : BitVec 32} {data : BitVec 256} {m : Bool}
    {y : State × Command} (hy : s.writeDest c va en data m = .ok y) : y.1.MemoryOk := by
  unfold State.writeDest at hy
  split at hy
  · cases hy
  · rename_i loc _
    have hw := h.writeSector (engineParty c.seq) (loc / 32) en data
    generalize s.writeSector (engineParty c.seq) (loc / 32) en data = v at hw hy
    cases hy
    dsimp only
    split
    · exact hw.markSector
    · exact hw

theorem State.MemoryOk.moveSector (h : s.MemoryOk) {c : Command} {k : Nat} {y : State × Command} (hy : s.moveSector c k = .ok y) :
    y.1.MemoryOk := by
  unfold State.moveSector at hy
  split at hy
  · split at hy
    · exact h.writeDest hy
    · split at hy
      · cases hy
      · exact h.writeDest hy
  · exact h.writeDest hy
  · cases hy
    exact h

theorem State.MemoryOk.moveSectors {n k : Nat} {c : Command} (h : s.MemoryOk) : (s.moveSectors c k n).s.MemoryOk := by
  induction n generalizing s c k with
  | zero => exact h
  | succ n ih =>
    unfold State.moveSectors
    split
    · split
      · exact h
      · exact ih h
    · split
      · exact h
      · rename_i hy
        split
        · exact h.moveSector hy
        · exact ih (h.moveSector hy)

theorem State.MemoryOk.writeTile {n j : Nat} {c : Command} {va : Nat} {f : Fmt} {t : Tile} (h : s.MemoryOk) :
    (s.writeTile c va f t j n).s.MemoryOk := by
  induction n generalizing s c j with
  | zero => exact h
  | succ n ih =>
    unfold State.writeTile
    split
    · exact ih h
    · simp only []
      split
      · exact h
      · rename_i hy
        exact ih (h.writeDest hy)

theorem State.MemoryOk.expandTile (h : s.MemoryOk) {c : Command} {n : Nat} : (s.expandTile c n).s.MemoryOk := by
  unfold State.expandTile
  simp only []
  split
  · split
    · exact h
    · exact h
    · split
      · exact h.writeTile
      · split
        · exact h.writeTile
        · exact h.writeTile
  · exact h

theorem State.MemoryOk.expandTiles {n : Nat} {c : Command} (h : s.MemoryOk) : (s.expandTiles c n).s.MemoryOk := by
  induction n generalizing s c with
  | zero => exact h
  | succ n ih =>
    unfold State.expandTiles
    simp only []
    split
    · exact h.expandTile
    · exact ih h.expandTile

theorem State.MemoryOk.chunkWork (h : s.MemoryOk) {c : Command} {j : Nat} : (s.chunkWork c j).s.MemoryOk := by
  unfold State.chunkWork
  split
  · split
    · exact h.expandTiles
    · exact h
  · exact h.moveSectors

theorem State.MemoryOk.endCommand (h : s.MemoryOk) {id : Nat} {c : Command} {status detail : Nat} :
    (s.endCommand id c status detail).MemoryOk := by
  unfold State.endCommand
  exact h.withCmds.addStream.deliver.settle

theorem State.MemoryOk.mapFirst (h : s.MemoryOk) {c : Ctx} {acc : Acc} {va : Nat} : (s.mapFirst c acc va).MemoryOk := by
  unfold State.mapFirst
  split
  · split
    · exact h.serviceMap
    · exact h
  · exact h

theorem State.MemoryOk.deliverBar (h : s.MemoryOk) {c : Command} {bytes : Nat} {t : State} (ht : s.deliverBar c bytes = .ok t) :
    t.MemoryOk := by
  have hmap := h.mapFirst (c := c.ctx) (acc := .both) (va := c.bar)
  unfold State.deliverBar at ht
  generalize s.mapFirst c.ctx .both c.bar = v at hmap ht
  split at ht
  · cases ht
    exact h
  · simp only [] at ht
    split at ht
    · cases ht
    · split at ht
      · cases ht
      · split at ht
        · cases ht
        · cases ht
          exact hmap.foldl (fun _ _ hs => hs.writeSector ..) _

theorem State.MemoryOk.finishChunk (h : s.MemoryOk) {id : Nat} {c : Command} {j : Nat} : (s.finishChunk id c j).MemoryOk := by
  unfold State.finishChunk
  simp only []
  split
  · exact h.setSeq.negate.endCommand
  · rename_i hy
    exact (h.setSeq.deliverBar hy).withCmds

theorem State.MemoryOk.chunkComplete {id j : Nat} {t : State} (h : s.MemoryOk) (ht : execEngineChunkComplete id j s = .next t) :
    t.MemoryOk := by
  unfold execEngineChunkComplete at ht
  split at ht
  · exact Host.Outcome.next.inj ht ▸ h
  · split at ht
    · exact Host.Outcome.next.inj ht ▸ h
    · simp only [] at ht
      split at ht
      · exact Host.Outcome.next.inj ht ▸ h.chunkWork.finishChunk
      · split at ht
        · exact Host.Outcome.next.inj ht ▸ h.withCmds
        · exact Host.Outcome.next.inj ht ▸ h
      · exact Host.Outcome.next.inj ht ▸ h

theorem State.MemoryOk.stallResolved {id : Nat} {t : State} (h : s.MemoryOk) (ht : execTranslationStallResolved id s = .next t) :
    t.MemoryOk := by
  unfold execTranslationStallResolved at ht
  split at ht
  · exact Host.Outcome.next.inj ht ▸ h
  · split at ht
    · exact Host.Outcome.next.inj ht ▸ h
    · refine Host.Outcome.next.inj ht ▸ State.MemoryOk.withCmds ?_
      split
      · exact h.serviceMap
      · exact h

theorem State.MemoryOk.failing (h : s.MemoryOk) {c : Command} {y : State × Command × Nat × Option Nat} (hy : s.failing c = some y) :
    y.1.MemoryOk := by
  unfold State.failing at hy
  simp only [] at hy
  split at hy
  · split at hy
    · split at hy
      · cases hy
        exact h.negate
      · cases hy
    · split at hy
      · cases hy
        exact h
      · split at hy
        · split at hy
          · cases hy
            exact h.negate
          · cases hy
        · cases hy
  · split at hy
    · cases hy
    · split at hy
      · cases hy
        exact h.negate
      · cases hy
    · cases hy
  · split at hy
    · cases hy
    · obtain ⟨j, -, hj⟩ := List.exists_of_findSome?_eq_some hy
      split at hj
      · cases hj
        exact h.chunkWork.negate
      · cases hj

theorem State.MemoryOk.commandFail {id : Nat} {t : State} (h : s.MemoryOk) (ht : execEngineCommandFail id s = .next t) : t.MemoryOk := by
  unfold execEngineCommandFail at ht
  split at ht
  · exact Host.Outcome.next.inj ht ▸ h
  · split at ht
    · exact Host.Outcome.next.inj ht ▸ h
    · rename_i hy
      exact Host.Outcome.next.inj ht ▸ (h.failing hy).endCommand

theorem State.MemoryOk.commandComplete {id : Nat} {t : State} (h : s.MemoryOk) (ht : execEngineCommandComplete id s = .next t) :
    t.MemoryOk := by
  unfold execEngineCommandComplete at ht
  split at ht
  · exact Host.Outcome.next.inj ht ▸ h
  · split at ht
    · split at ht
      · exact Host.Outcome.next.inj ht ▸ h
      · exact Host.Outcome.next.inj ht ▸ h.withDev.endCommand
    · split at ht
      · exact Host.Outcome.next.inj ht ▸ h.endCommand
      · exact Host.Outcome.next.inj ht ▸ h

theorem State.MemoryOk.engineStep (h : s.MemoryOk) {id k : Nat} : (s.engineStep id k).MemoryOk := by
  unfold State.engineStep
  split
  · exact h
  · simp only []
    split
    · split
      · exact h
      · split
        · exact h
        · exact h.expandTile.withCmds
    · split
      · exact h
      · split
        · exact h
        · rename_i hy
          exact (h.moveSector hy).withCmds

theorem State.MemoryOk.engineRead (h : s.MemoryOk) {id k : Nat} : (s.engineRead id k).MemoryOk := by
  unfold State.engineRead
  split
  · exact h
  · split
    · split
      · exact h
      · split
        · exact h
        · exact h.withCmds
    · exact h

theorem State.MemoryOk.gridDeclare {id : Nat} {t : State} (h : s.MemoryOk) (ht : execXgridDeclare id s = .next t) : t.MemoryOk := by
  unfold execXgridDeclare at ht
  split at ht
  · exact Host.Outcome.next.inj ht ▸ h
  · split at ht
    · split at ht
      · exact Host.Outcome.next.inj ht ▸ h
      · exact Host.Outcome.next.inj ht ▸ (h.pokeAs ..).endCommand
    · exact Host.Outcome.next.inj ht ▸ h

theorem State.MemoryOk.storeAnswer (h : s.MemoryOk) {c : Command} {ans loc v : Nat} : (s.storeAnswer c ans loc v).1.MemoryOk := by
  unfold State.storeAnswer
  split
  · exact h.writeSector ..
  · exact h

theorem State.MemoryOk.queryAnswer {id : Nat} {t : State} (h : s.MemoryOk) (ht : execXqueryAnswer id s = .next t) : t.MemoryOk := by
  unfold execXqueryAnswer at ht
  split at ht
  · exact Host.Outcome.next.inj ht ▸ h
  · split at ht
    · split at ht
      · split at ht
        · exact Host.Outcome.next.inj ht ▸ h.endCommand
        · refine Host.Outcome.next.inj ht ▸ State.MemoryOk.endCommand (State.MemoryOk.storeAnswer ?_)
          split
          · exact h.pokeAs ..
          · exact h
      · exact Host.Outcome.next.inj ht ▸ h
    · exact Host.Outcome.next.inj ht ▸ h

end

end Sys2Proof.Machine

/-!
Every step keeps the memory in its canonical form (O60): collectives, the fabric, the welt and pre-emption.
-/

namespace Sys2Proof.Machine

set_option Elab.async false

section
variable {s : State}

/-! ### Collectives -/

theorem State.MemoryOk.readElems {n va w : Nat} {c : Ctx} {y : List (Nat × Bool) × State} (h : s.MemoryOk)
    (hy : s.readElems c va w n = .ok y) : y.2.MemoryOk := by
  induction n generalizing s va y with
  | zero =>
    cases hy
    exact h
  | succ n ih =>
    unfold State.readElems at hy
    simp only [] at hy
    split at hy
    · cases hy
    · split at hy
      · cases hy
      · rename_i hr
        have hv := ih h.mapFirst hr
        cases hy
        exact hv

theorem State.MemoryOk.collSectors {n va w : Nat} {c : Command} {l : List (Nat × Bool)} (h : s.MemoryOk) :
    (s.collSectors c va w l n).s.MemoryOk := by
  induction n generalizing s va c l with
  | zero => exact h
  | succ n ih =>
    unfold State.collSectors
    split
    · exact h
    · simp only []
      split
      · exact h.mapFirst
      · rename_i hy
        exact ih (h.mapFirst.writeDest hy)

theorem State.MemoryOk.collChunks {n id count w j : Nat} {l : List (Nat × Bool)} (h : s.MemoryOk) :
    (s.collChunks id count w j l n).MemoryOk := by
  induction n generalizing s j l with
  | zero =>
    unfold State.collChunks
    split
    · exact h
    · exact h.endCommand
  | succ n ih =>
    unfold State.collChunks
    split
    · exact h
    · simp only []
      split
      · exact h.collSectors.negate.endCommand
      · exact ih h.collSectors.finishChunk

theorem State.MemoryOk.storeResiduals (h : s.MemoryOk) {id va : Nat} {l : List Elem} {t : State}
    (ht : s.storeResiduals id va l = .ok t) : t.MemoryOk := by
  unfold State.storeResiduals at ht
  split at ht
  · cases ht
    exact h
  · simp only [] at ht
    split at ht
    · cases ht
    · cases ht
      exact h.collSectors.withCmds

theorem State.MemoryOk.sendOn (h : s.MemoryOk) {role : Nat} : (s.sendOn role).MemoryOk := by
  unfold State.sendOn
  split
  · exact h
  · exact h.withDev

theorem State.MemoryOk.sendFrame (h : s.MemoryOk) {f : Frame} {c : Nat} {dests : List (Nat × Nat)} : (s.sendFrame f c dests).MemoryOk := by
  unfold State.sendFrame
  split
  · exact h
  · refine State.MemoryOk.withDev ?_
    split
    · refine State.MemoryOk.sendOn ?_
      split
      · exact h.sendOn
      · exact h
    · split
      · exact h.sendOn
      · exact h

theorem State.MemoryOk.keepFormed (h : s.MemoryOk) {id level : Nat} {l : List (Nat × Bool)} : (s.keepFormed id level l).MemoryOk := by
  unfold State.keepFormed
  split
  · exact h
  · exact h.withCmds

theorem State.MemoryOk.form (h : s.MemoryOk) {x : Coll} {l level w : Nat} {m : Member} {v : List (Nat × Bool)} :
    (s.form x l level w m v).MemoryOk := h.keepFormed.sendFrame

theorem State.MemoryOk.announce (h : s.MemoryOk) {x : Coll} : (s.announce x).MemoryOk := by
  unfold State.announce
  split
  · exact h
  · simp only []
    split
    · exact h
    · exact h.form

theorem State.MemoryOk.readSources {n : Nat} {x : Coll} {t : State} (h : s.MemoryOk) (ht : s.readSources x n = .ok t) : t.MemoryOk := by
  induction n generalizing t with
  | zero =>
    cases ht
    exact h
  | succ n ih =>
    unfold State.readSources at ht
    split at ht
    · cases ht
    · rename_i hr
      have hv := ih hr
      split at ht
      · cases ht
        exact hv
      · split at ht
        · cases ht
          exact hv
        · simp only [] at ht
          split at ht
          · cases ht
          · rename_i he
            cases ht
            exact (hv.readElems he).form

theorem State.MemoryOk.residuals (h : s.MemoryOk) {m : Member} {lv : Nat} {y : Nat × List Elem × State} (hy : s.residuals m lv = .ok y) :
    y.2.2.MemoryOk := by
  unfold State.residuals at hy
  simp only [] at hy
  split at hy
  · cases hy
  · rename_i he
    cases hy
    exact h.readElems he

theorem State.MemoryOk.contribute (h : s.MemoryOk) {m : Member} {lv : Nat} {v : List Elem} {y : List Elem × State}
    (hy : s.contribute m lv v = .ok y) : y.2.MemoryOk := by
  unfold State.contribute at hy
  simp only [] at hy
  split at hy
  · split at hy
    · cases hy
    · rename_i hr
      split at hy
      · cases hy
      · rename_i hs
        cases hy
        exact (h.residuals hr).storeResiduals hs
  · cases hy
    exact h

theorem State.MemoryOk.formLevel (h : s.MemoryOk) {x : Coll} {lv : Nat} {vs : Option (List (List Elem))} {t : State}
    (ht : s.formLevel x lv vs = .ok t) : t.MemoryOk := by
  unfold State.formLevel at ht
  split at ht
  · split at ht
    · cases ht
      exact h
    · split at ht
      · cases ht
      · rename_i hc
        cases ht
        exact (h.contribute hc).form
  · cases ht
    exact h

theorem State.MemoryOk.reduceOn (h : s.MemoryOk) {x : Coll} {t : State} (ht : s.reduceOn x = .ok t) : t.MemoryOk := by
  unfold State.reduceOn at ht
  split at ht
  · cases ht
  · rename_i hf
    simp only [] at ht
    split at ht
    · exact (h.formLevel hf).formLevel ht
    · cases ht
      exact h.formLevel hf

theorem State.MemoryOk.advance (h : s.MemoryOk) {x : Coll} {t : State} (ht : s.advance x = .ok t) : t.MemoryOk := by
  unfold State.advance at ht
  split at ht
  · cases ht
  · rename_i hr
    split at ht
    · cases ht
      exact h.announce.readSources hr
    · exact (h.announce.readSources hr).reduceOn ht

theorem State.MemoryOk.tellPeers (h : s.MemoryOk) {x : Coll} : (s.tellPeers x).MemoryOk := h.withDev

theorem State.MemoryOk.tellPlan (h : s.MemoryOk) {part : Nat} {p : Plan} : (s.tellPlan part p).MemoryOk := by
  unfold State.tellPlan
  split
  · exact h
  · exact h.tellPeers

theorem State.MemoryOk.dropFrames (h : s.MemoryOk) {part : Nat} {p : Plan} : (s.dropFrames part p).MemoryOk := h.withDev

theorem State.MemoryOk.endMembers (h : s.MemoryOk) {part : Nat} {p : Plan} {status : Nat} : (s.endMembers part p status).MemoryOk :=
  (h.tellPlan.foldl (fun _ _ hs => hs.endCommand) _).dropFrames

theorem State.MemoryOk.distribute (h : s.MemoryOk) {x : Coll} {l : List (Nat × Bool)} : (s.distribute x l).MemoryOk :=
  (h.tellPeers.foldl (fun _ _ hs => hs.collChunks) _).dropFrames

theorem State.MemoryOk.failMember (h : s.MemoryOk) {x : Coll} {m : Member} {e : Denied} : (s.failMember x m e).MemoryOk := by
  unfold State.failMember
  refine State.MemoryOk.endMembers ?_
  split
  · exact h.negate.tellPeers.endCommand
  · exact h.negate.tellPeers

theorem State.MemoryOk.collectiveComplete {id : Nat} {t : State} (h : s.MemoryOk) (ht : execCollectiveComplete id s = .next t) :
    t.MemoryOk := by
  unfold execCollectiveComplete at ht
  split at ht
  · exact Host.Outcome.next.inj ht ▸ h
  · split at ht
    · simp only [] at ht
      split at ht
      · exact Host.Outcome.next.inj ht ▸ h.endMembers
      · split at ht
        · refine Host.Outcome.next.inj ht ▸ ?_
          split
          · exact h.announce.endMembers
          · exact h.announce
        · split at ht
          · exact Host.Outcome.next.inj ht ▸ h
          · split at ht
            · exact Host.Outcome.next.inj ht ▸ h.failMember
            · rename_i ha
              split at ht
              · exact Host.Outcome.next.inj ht ▸ h.advance ha
              · exact Host.Outcome.next.inj ht ▸ (h.advance ha).distribute
    · exact Host.Outcome.next.inj ht ▸ h

theorem State.MemoryOk.rankUnreachable {id : Nat} {t : State} (h : s.MemoryOk) (ht : execRankUnreachable id s = .next t) :
    t.MemoryOk := by
  unfold execRankUnreachable at ht
  split at ht
  · exact Host.Outcome.next.inj ht ▸ h
  · split at ht
    · exact Host.Outcome.next.inj ht ▸ h.endMembers
    · exact Host.Outcome.next.inj ht ▸ h

/-! ### Power states, frames, keys and transactions -/

theorem State.MemoryOk.refreshed (h : s.MemoryOk) : s.refreshed.MemoryOk := h.withDev

theorem State.MemoryOk.wake (h : s.MemoryOk) {part : Nat} : (s.wake part).MemoryOk := by
  unfold State.wake
  split
  · exact h
  · exact State.MemoryOk.refreshed (h.foldl (fun _ _ hs => hs.setUpper) _)

theorem State.MemoryOk.frameReceive {port : Nat} {f : Frame} {t : State} (h : s.MemoryOk) (ht : execFabricFrameReceive port f s = .next t) :
    t.MemoryOk := by
  unfold execFabricFrameReceive at ht
  split at ht
  · exact Host.Outcome.next.inj ht ▸ h
  · split at ht
    · exact Host.Outcome.next.inj ht ▸ h
    · split at ht
      · exact Host.Outcome.next.inj ht ▸ h
      · exact Host.Outcome.next.inj ht ▸ h.withDev.wake

theorem State.MemoryOk.keySwitch {port : Nat} {t : State} (h : s.MemoryOk) (ht : execKeySwitch port s = .next t) : t.MemoryOk := by
  unfold execKeySwitch at ht
  split at ht
  · exact Host.Outcome.next.inj ht ▸ h
  · split at ht
    · exact Host.Outcome.next.inj ht ▸ h
    · exact Host.Outcome.next.inj ht ▸ h.withDev

theorem State.MemoryOk.poisonNotice {port : Nat} {device : Word} {n : NoticeBody} {t : State} (h : s.MemoryOk)
    (ht : execPoisonNotice port device n s = .next t) : t.MemoryOk :=
  Host.Outcome.next.inj ht ▸ h.logErr.withDev

theorem State.MemoryOk.laneRetrain {link lane : Nat} {t : State} (h : s.MemoryOk) (ht : execLinkLaneRetrain link lane s = .next t) :
    t.MemoryOk := Host.Outcome.next.inj ht ▸ h.logErr

theorem State.MemoryOk.setCrc (h : s.MemoryOk) {x : Transfer} {n : Nat} : (s.setCrc x n).MemoryOk := h.withDev

theorem State.MemoryOk.withReturned (h : s.MemoryOk) {l : List Nat} : State.MemoryOk { s with mem := { s.mem with returned := l } } :=
  h.of_cells rfl

theorem State.MemoryOk.crcBad (h : s.MemoryOk) {x : Transfer} : (s.crcBad x).MemoryOk := by
  unfold State.crcBad
  simp only []
  split
  · exact h.markSector
  · split
    · exact h
    · exact h.markSector.withReturned

theorem State.MemoryOk.crcFailure {x : Transfer} {crc : BitVec 32} {t : State} (h : s.MemoryOk) (ht : execCrcFailure x crc s = .next t) :
    t.MemoryOk := by
  unfold execCrcFailure at ht
  split at ht
  · exact Host.Outcome.next.inj ht ▸ h.setCrc
  · simp only [] at ht
    split at ht
    · exact Host.Outcome.next.inj ht ▸ h.logErr.setCrc
    · exact Host.Outcome.next.inj ht ▸ h.logErr.crcBad.setCrc

/-! ### The welt -/

theorem State.MemoryOk.setWelt (h : s.MemoryOk) {v : Nat} {e : Word} : (s.setWelt v e).MemoryOk := h.withDev

theorem State.MemoryOk.pairUp (h : s.MemoryOk) {v : Nat} : (s.pairUp v).MemoryOk := by
  unfold State.pairUp
  split
  · exact h.setWelt
  · exact h

theorem State.MemoryOk.dissolve (h : s.MemoryOk) {u : Nat} : (s.dissolve u).MemoryOk := by
  unfold State.dissolve
  refine State.MemoryOk.foldl (fun s v hs => ?_) (h.foldl (fun _ _ hs => hs.setWelt) _) _
  split
  · exact hs.pairUp
  · exact hs

theorem State.MemoryOk.writeRepair (h : s.MemoryOk) : s.writeRepair.MemoryOk := h.withDev

theorem State.MemoryOk.bindGang (h : s.MemoryOk) {u g : Nat} {x : GangPlan} : (s.bindGang u g x).MemoryOk :=
  h.foldl (fun _ _ hs => hs.setWelt) _

theorem State.MemoryOk.formCore (h : s.MemoryOk) {u g : Nat} {t : State} (ht : s.formCore u g = some t) : t.MemoryOk := by
  unfold State.formCore at ht
  split at ht
  · split at ht
    · cases ht
      exact h
    · cases ht
  · obtain ⟨x, -, rfl⟩ := Option.map_eq_some_iff.mp ht
    exact h.bindGang

theorem State.MemoryOk.lowestCore {n g u : Nat} {y : Nat × State} (h : s.MemoryOk) (hy : s.lowestCore g u n = some y) : y.2.MemoryOk := by
  induction n generalizing u with
  | zero => cases hy
  | succ n ih =>
    unfold State.lowestCore at hy
    split at hy
    · rename_i hf
      cases hy
      exact h.formCore hf
    · exact ih hy

theorem State.MemoryOk.bindChain (h : s.MemoryOk) {l : List (Nat × Nat × Nat)} : (s.bindChain l).MemoryOk :=
  h.foldl (fun _ _ hs => hs.setWelt) _

/-! ### Pre-emption -/

theorem State.MemoryOk.askRemoval (h : s.MemoryOk) {u : Nat} : (s.askRemoval u).MemoryOk := h.setUpper
theorem State.MemoryOk.dropChange (h : s.MemoryOk) : s.dropChange.MemoryOk := h.withDev

theorem State.MemoryOk.removalStep (h : s.MemoryOk) {u : Nat} : (s.removalStep u).MemoryOk := by
  unfold State.removalStep
  split
  · split
    · exact h
    · split
      · split
        · exact h
        · exact h.askRemoval
      · exact h.dropChange
  · exact h

theorem State.MemoryOk.preemptionRequest {u : Nat} {why : Purpose} {t : State} (h : s.MemoryOk)
    (ht : execPreemptionRequest u why s = .next t) : t.MemoryOk := by
  unfold execPreemptionRequest at ht
  split at ht
  · exact Host.Outcome.next.inj ht ▸ h
  · split at ht
    · exact Host.Outcome.next.inj ht ▸ h.withDev.removalStep
    · exact Host.Outcome.next.inj ht ▸ h.askStop

theorem State.MemoryOk.dropSwap (h : s.MemoryOk) {q : Nat} : (s.dropSwap q).MemoryOk := h.setUpper

theorem State.MemoryOk.escalate (h : s.MemoryOk) {q : Nat} : (s.escalate q).MemoryOk := by
  unfold State.escalate
  split
  · exact h.setSeq.dropSwap
  · exact h

theorem State.MemoryOk.preemptEscalation {u : Nat} {t : State} (h : s.MemoryOk) (ht : execPreemptEscalation u s = .next t) :
    t.MemoryOk := by
  unfold execPreemptEscalation at ht
  split at ht
  · exact Host.Outcome.next.inj ht ▸ h
  · split at ht
    · exact Host.Outcome.next.inj ht ▸ h
    · exact Host.Outcome.next.inj ht ▸ h.foldl (fun _ _ hs => hs.escalate) _

theorem State.MemoryOk.scrubUpper (h : s.MemoryOk) {u : Nat} : (s.scrubUpper u).MemoryOk := h.setUpper
theorem State.MemoryOk.clearChecks (h : s.MemoryOk) {us : List Nat} : (s.clearChecks us).MemoryOk := h.withChecks

theorem State.MemoryOk.enterCore (h : s.MemoryOk) {u : Nat} : (s.enterCore u).MemoryOk := by
  unfold State.enterCore
  exact ((h.scrubUpper.foldl (fun _ _ hs => hs.setSeq) _).scrubSole u).clearChecks

/-! ### A core that leaves -/

theorem State.MemoryOk.moveWork (h : s.MemoryOk) {u v : Nat} : (s.moveWork u v).MemoryOk := h.of_cells rfl

theorem State.MemoryOk.rewriteLine (h : s.MemoryOk) {u n x : Nat} : (s.rewriteLine u n x).MemoryOk := by
  unfold State.rewriteLine
  split
  · exact h
  · split
    · exact h
    · exact h.hwWrite ..

theorem State.MemoryOk.withNestsYields (h : s.MemoryOk) {l : SMap Nest} {y : List Yield} :
    State.MemoryOk { s with nests := l, yields := y } := h.of_cells rfl

theorem State.MemoryOk.renameChannel (h : s.MemoryOk) {u n old new oldLoc newLoc : Nat} :
    (s.renameChannel u n old new oldLoc newLoc).MemoryOk := by
  unfold State.renameChannel
  split
  · exact h
  · exact h.withNestsYields.foldl (fun _ _ hs => hs.rewriteLine) _

theorem State.MemoryOk.moveLive (h : s.MemoryOk) {u v off new : Nat} : (s.moveLive u v off new).MemoryOk := by
  unfold State.moveLive
  exact h.setSole.setSole

theorem State.MemoryOk.moveChannel (h : s.MemoryOk) {share claimed : Nat} {c : CoreOf} {ds : List CoreOf} {n off size : Nat} :
    (s.moveChannel share claimed c ds n off size).MemoryOk := by
  unfold State.moveChannel
  split
  · exact h
  · exact (State.MemoryOk.moveLive (h.moveBytes _ _ _)).withNests.renameChannel

theorem State.MemoryOk.moveChannels (h : s.MemoryOk) {p share : Nat} {c : CoreOf} {ds : List CoreOf} :
    (s.moveChannels p share c ds).MemoryOk := h.foldl (fun _ _ hs => hs.moveChannel) _

theorem State.MemoryOk.redirect (h : s.MemoryOk) {f : Nat → Nat} : (s.redirect f).MemoryOk := h.of_cells rfl

theorem State.MemoryOk.withSeqs (h : s.MemoryOk) {l : SMap Seq} : State.MemoryOk { s with seqs := l } := h.of_cells rfl

theorem State.MemoryOk.ghost (h : s.MemoryOk) {u : Nat} : (s.ghost u).MemoryOk := h.withSeqs.redirect

theorem State.MemoryOk.trapWaiter (h : s.MemoryOk) {q : Nat} : (s.trapWaiter q).MemoryOk := by
  unfold State.trapWaiter
  split
  · split
    · exact h.trapWait
    · exact h
  · exact h

theorem State.MemoryOk.unsave (h : s.MemoryOk) {u : Nat} : (s.unsave u).MemoryOk := by
  unfold State.unsave
  refine h.foldl (fun s k hs => ?_) _
  dsimp only
  split
  · exact (State.MemoryOk.setUpper (hs.foldl (fun _ _ hs => hs.setSeq) _)).withSaves
  · exact hs

theorem State.MemoryOk.partTables (h : s.MemoryOk) {p u : Nat} : (s.partTables p u).MemoryOk := by
  unfold State.partTables
  refine State.MemoryOk.withSaves ?_
  split
  · exact h
  · exact h.putAside

theorem State.MemoryOk.withLaunchesParts (h : s.MemoryOk) {l : SMap Launch} {x : SMap Partition} :
    State.MemoryOk { s with launches := l, parts := x } := h.of_cells rfl

/-- The work and the channels of a core that leaves move to its refuge. -/
theorem State.MemoryOk.leaveCore (h : s.MemoryOk) {p u width : Nat} : (s.leaveCore p u width).MemoryOk := by
  have hre : (((s.unsave u).requeueAll u ((s.unsave u).areaOf p u width)).partTables p u).MemoryOk := h.unsave.requeueAll.partTables
  unfold State.leaveCore
  simp only []
  generalize ((s.unsave u).requeueAll u ((s.unsave u).areaOf p u width)).partTables p u = v at hre ⊢
  split
  · exact hre
  · refine State.MemoryOk.scrubUpper (State.MemoryOk.foldl (fun _ _ hs => hs.trapWaiter) (State.MemoryOk.ghost
      (State.MemoryOk.withLaunchesParts ?_)) _)
    split
    · split
      · exact hre.moveWork.moveChannels
      · exact hre.moveWork
    · exact hre

/-! ### Saved contexts -/

theorem State.MemoryOk.dropPins (h : s.MemoryOk) {q : Nat} : (s.dropPins q).MemoryOk := h.withChecks

theorem State.MemoryOk.saveCore (h : s.MemoryOk) {p area : Nat} {c : CoreOf} {why : Purpose} : (s.saveCore p area c why).MemoryOk := by
  unfold State.saveCore
  exact State.MemoryOk.withSaves (h.fresh.foldl (fun _ _ hs => hs.dropPins.setSeq) _)

theorem State.MemoryOk.contextSave {u : Nat} {t : State} (h : s.MemoryOk) (ht : execContextSave u s = .next t) : t.MemoryOk := by
  unfold execContextSave at ht
  split at ht
  · rename_i why _ p c _ _
    split at ht
    · exact Host.Outcome.next.inj ht ▸ h
    · have hend := h.endStoppedAll (u := u)
      generalize s.endStoppedAll u = v at hend ht
      simp only [] at ht
      split at ht
      · refine Host.Outcome.next.inj ht ▸ ?_
        split
        · exact hend.leaveCore
        · exact hend
      · have hkeep := hend.keepContext (p := p) (c := c) (why := why)
        split at ht
        · rename_i hk
          rw [hk] at hkeep
          refine Host.Outcome.next.inj ht ▸ ?_
          split
          · exact State.MemoryOk.leaveCore hkeep
          · exact hkeep
        · rename_i hk
          rw [hk] at hkeep
          refine Host.Outcome.next.inj ht ▸ ?_
          split
          · exact State.MemoryOk.leaveCore hkeep
          · exact State.MemoryOk.saveCore hkeep
  · exact Host.Outcome.next.inj ht ▸ h

theorem State.MemoryOk.freeUpper (h : s.MemoryOk) {u : Nat} {x : Saved} : (s.freeUpper u x).MemoryOk := by
  unfold State.freeUpper
  simp only []
  split
  · exact h
  · exact h.setUpper

theorem State.MemoryOk.leaveIfOver (h : s.MemoryOk) {p u : Nat} {t : Tenant} : (s.leaveIfOver p u t).MemoryOk := by
  unfold State.leaveIfOver
  split
  · exact h
  · split
    · exact h
    · exact h.backToOrdinary

theorem State.MemoryOk.restore (h : s.MemoryOk) {u k : Nat} {x : Saved} : (s.restore u k x).MemoryOk := by
  unfold State.restore
  refine State.MemoryOk.leaveIfOver (State.MemoryOk.withSaves (State.MemoryOk.setUpper (h.freeUpper.foldl (fun s m hs => ?_) _)))
  dsimp only
  split
  · exact hs.setSeq
  · exact hs

theorem State.MemoryOk.contextRestore {u k : Nat} {t : State} (h : s.MemoryOk) (ht : execContextRestore u k s = .next t) :
    t.MemoryOk := by
  unfold execContextRestore at ht
  split at ht
  · split at ht
    · exact Host.Outcome.next.inj ht ▸ h
    · exact Host.Outcome.next.inj ht ▸ h.restore
  · exact Host.Outcome.next.inj ht ▸ h

/-! ### Halted sequencers and check mismatches -/

theorem State.MemoryOk.logDouble (h : s.MemoryOk) {q : Nat} : (s.logDouble q).MemoryOk := by
  unfold State.logDouble
  simp only []
  split
  · exact h
  · exact h.logErr.logErr.setSeq

theorem State.MemoryOk.faultRecovery {q : Nat} {t : State} (h : s.MemoryOk) (ht : execDoubleFaultRecovery q s = .next t) :
    t.MemoryOk := by
  unfold execDoubleFaultRecovery at ht
  split at ht
  · exact Host.Outcome.next.inj ht ▸ h
  · simp only [] at ht
    split at ht
    · exact Host.Outcome.next.inj ht ▸ h.logDouble
    · exact Host.Outcome.next.inj ht ▸ h.logDouble.endRecord

theorem State.MemoryOk.haltedEnd {q : Nat} {t : State} (h : s.MemoryOk) (ht : execHaltedRecordEnd q s = .next t) : t.MemoryOk := by
  unfold execHaltedRecordEnd at ht
  split at ht
  · exact Host.Outcome.next.inj ht ▸ h
  · split at ht
    · exact Host.Outcome.next.inj ht ▸ h
    · exact Host.Outcome.next.inj ht ▸ h.endRecord

theorem State.MemoryOk.restartStrip (h : s.MemoryOk) : s.restartStrip.MemoryOk := by
  unfold State.restartStrip
  split
  · exact h
  · exact h.abandonStrip.setMe

theorem State.MemoryOk.toRebind (h : s.MemoryOk) {x : Nat} : (s.toRebind x).MemoryOk := by
  unfold State.toRebind
  split
  · exact h
  · exact h.withDev

theorem State.MemoryOk.markFailing (h : s.MemoryOk) {u v n : Nat} : (s.markFailing u v n).MemoryOk := by
  unfold State.markFailing
  exact h.withDev.logErr.askStop.toRebind

theorem State.MemoryOk.setPos (h : s.MemoryOk) {v : Nat} {x : Checks} : (s.setPos v x).MemoryOk := h.withChecks

theorem State.MemoryOk.mismatch (h : s.MemoryOk) {j : Nat} {column : Bool} : (s.mismatch j column).MemoryOk := by
  unfold State.mismatch
  refine State.MemoryOk.restartStrip ?_
  split
  · split
    · exact h.record.setPos.markFailing
    · exact h.record.setPos
  · split
    · exact h.record.setPos.markFailing
    · exact h.record.setPos

/-! ### Rebinding -/

theorem State.MemoryOk.restoreBound (h : s.MemoryOk) {us : List Nat} : (s.restoreBound us).MemoryOk := by
  unfold State.restoreBound
  refine h.foldl (fun s k hs => ?_) _
  dsimp only
  split
  · exact hs.restore
  · exact hs

theorem State.MemoryOk.strike (h : s.MemoryOk) {u : Nat} : (s.strike u).MemoryOk := by
  unfold State.strike
  exact (State.MemoryOk.withParts (h.foldl (fun _ _ hs => hs.setWelt) _)).writeRepair

theorem State.MemoryOk.removeFailed (h : s.MemoryOk) {u : Nat} : (s.removeFailed u).MemoryOk := by
  unfold State.removeFailed
  split
  · exact h.askRemoval
  · exact h.strike.dropChange

theorem State.MemoryOk.scrubBound (h : s.MemoryOk) {l : List (Nat × Nat × Nat)} : (s.scrubBound l).MemoryOk := h.clearChecks

theorem State.MemoryOk.rebindStep (h : s.MemoryOk) {v x : Nat} {links : Option (List (Nat × Nat × Nat))} :
    (s.rebindStep v x links).MemoryOk := by
  unfold State.rebindStep
  extract_lets l
  clear_value l
  split
  · exact h.withDev.removeFailed
  · split
    · exact h.withDev.bindChain.scrubBound.restoreBound.writeRepair.dropChange
    · exact h.withDev.foldl (fun _ _ hs => hs.askStop) _

theorem State.MemoryOk.weltRebind {sole half : Nat} {t : State} (h : s.MemoryOk) (ht : execWeltRebind sole half s = .next t) :
    t.MemoryOk := by
  have hq : (if s.halfStatus (2 * sole + half) = 1 ∧ (s.holderOf (2 * sole + half)).isSome = true then s.toRebind (2 * sole + half)
      else s).MemoryOk := by
    split
    · exact h.toRebind
    · exact h
  unfold execWeltRebind at ht
  simp only [] at ht
  generalize (if s.halfStatus (2 * sole + half) = 1 ∧ (s.holderOf (2 * sole + half)).isSome = true then s.toRebind (2 * sole + half)
    else s) = v at hq ht
  split at ht
  · split at ht
    · exact Host.Outcome.next.inj ht ▸ hq
    · split at ht
      · exact Host.Outcome.next.inj ht ▸ hq.dropChange
      · exact Host.Outcome.next.inj ht ▸ hq.rebindStep
  · exact Host.Outcome.next.inj ht ▸ hq

end

end Sys2Proof.Machine

/-!
Every step keeps the memory in its canonical form (O60): the cobbler, the requests of the host and their sessions.
-/

namespace Sys2Proof.Machine

set_option Elab.async false

section
variable {s : State}

/-! ### Boot, reset and power -/

theorem State.MemoryOk.bare : s.bare.MemoryOk := rfl

theorem State.MemoryOk.boot (h : s.MemoryOk) {updates : BitVec 256} : (s.boot updates).MemoryOk := by
  unfold State.boot
  simp only []
  split
  · exact h.withDev
  · exact h.of_cells rfl

theorem State.MemoryOk.resetDevice (h : s.MemoryOk) : s.resetDevice.MemoryOk := by
  unfold State.resetDevice
  refine State.MemoryOk.boot ?_
  exact wf_keptCells h

theorem State.MemoryOk.powerDown : s.powerDown.MemoryOk := rfl

theorem State.MemoryOk.powerUp {t : State} (h : s.MemoryOk) (ht : execPowerUp s = .next t) : t.MemoryOk := by
  unfold execPowerUp at ht
  split at ht
  · exact Host.Outcome.next.inj ht ▸ State.MemoryOk.bare.boot
  · exact Host.Outcome.next.inj ht ▸ h

theorem State.MemoryOk.powerLoss {writing : Bool} {t : State} (ht : execPowerLoss writing s = .next t) : t.MemoryOk := by
  unfold execPowerLoss at ht
  simp only [] at ht
  split at ht
  · exact Host.Outcome.next.inj ht ▸ State.MemoryOk.powerDown.withDev
  · exact Host.Outcome.next.inj ht ▸ State.MemoryOk.powerDown

theorem State.MemoryOk.writePiece (h : s.MemoryOk) {off : Nat} {piece : List Byte} : (s.writePiece off piece).2.MemoryOk := by
  unfold State.writePiece
  simp only []
  split
  · exact h
  · split
    · exact h
    · exact h.withDev

theorem State.MemoryOk.activate (h : s.MemoryOk) : s.activate.2.MemoryOk := by
  unfold State.activate
  simp only []
  split
  · exact h
  · exact h.withDev

theorem State.MemoryOk.readSensor (h : s.MemoryOk) {n v : Nat} : (s.readSensor n v).MemoryOk := h.withDev

theorem State.MemoryOk.throttle {t : State} (h : s.MemoryOk) (ht : execThrottle s = .next t) : t.MemoryOk :=
  Host.Outcome.next.inj ht ▸ h.foldl (fun _ _ hs => hs.setUpper) _

theorem State.MemoryOk.throttleRelease {t : State} (h : s.MemoryOk) (ht : execThrottleRelease s = .next t) : t.MemoryOk := by
  unfold execThrottleRelease at ht
  split at ht
  · exact Host.Outcome.next.inj ht ▸ h.withUppers
  · exact Host.Outcome.next.inj ht ▸ h

theorem State.MemoryOk.corrected (h : s.MemoryOk) {x : Soft} : (s.corrected x).MemoryOk := h.logErr

theorem State.MemoryOk.fatal (h : s.MemoryOk) {cause cls num detail : Nat} : (s.fatal cause cls num detail).MemoryOk := by
  unfold State.fatal
  exact h.logErr.withDev

theorem State.MemoryOk.fatalError {cause cls num : Nat} {detail : Word} {t : State} (h : s.MemoryOk)
    (ht : execFatalError cause cls num detail s = .next t) : t.MemoryOk := by
  unfold execFatalError at ht
  split at ht
  · exact Host.Outcome.next.inj ht ▸ h.fatal
  · exact Host.Outcome.next.inj ht ▸ h

theorem State.MemoryOk.criticalTemperature {sensor : Nat} {t : State} (h : s.MemoryOk)
    (ht : execCriticalTemperature sensor s = .next t) : t.MemoryOk := by
  unfold execCriticalTemperature at ht
  split at ht
  · exact Host.Outcome.next.inj ht ▸ h
  · split at ht
    · exact Host.Outcome.next.inj ht ▸ h
    · exact Host.Outcome.next.inj ht ▸ h.fatal

theorem State.MemoryOk.watchdog {t : State} (h : s.MemoryOk) (ht : execWatchdogExpiry s = .next t) : t.MemoryOk := by
  unfold execWatchdogExpiry at ht
  split at ht
  · exact Host.Outcome.next.inj ht ▸ h.fatal
  · exact Host.Outcome.next.inj ht ▸ h

theorem State.MemoryOk.powerStateEntry {n : Nat} {t : State} (h : s.MemoryOk) (ht : execPowerStateEntry n s = .next t) :
    t.MemoryOk := by
  unfold execPowerStateEntry at ht
  split at ht
  · exact Host.Outcome.next.inj ht ▸ h
  · split at ht
    · exact Host.Outcome.next.inj ht ▸ h
    · exact Host.Outcome.next.inj ht ▸ (h.foldl (fun _ _ hs => hs.setUpper) _).refreshed

/-! ### Words that cannot be executed -/

theorem State.MemoryOk.withClock (h : s.MemoryOk) {n : Nat} : State.MemoryOk { s with clock := n } := h.of_cells rfl
theorem State.MemoryOk.withWaited (h : s.MemoryOk) {b : Bool} : State.MemoryOk { s with waited := b } := h.of_cells rfl

theorem State.MemoryOk.illegalInstruction {t : State} (h : s.MemoryOk) (ht : execIllegalInstruction s = .next t) : t.MemoryOk := by
  unfold execIllegalInstruction at ht
  split at ht
  · split at ht
    · exact Host.Outcome.next.inj ht ▸ h
    · exact Host.Outcome.next.inj ht ▸ h.withClock.takeTrap.holdIssue
  · exact Host.Outcome.next.inj ht ▸ h

theorem State.MemoryOk.fetchFault {t : State} (h : s.MemoryOk) (ht : execInstructionFetchFault s = .next t) : t.MemoryOk := by
  unfold execInstructionFetchFault at ht
  split at ht
  · split at ht
    · exact Host.Outcome.next.inj ht ▸ h.withWaited
    · exact Host.Outcome.next.inj ht ▸ h.withClock.takeTrap
  · exact Host.Outcome.next.inj ht ▸ h

/-! ### Partitions -/

theorem State.MemoryOk.setPart (h : s.MemoryOk) {n : Nat} {p : Partition} : (s.setPart n p).MemoryOk := h.withParts
theorem State.MemoryOk.setKey (h : s.MemoryOk) {n : Nat} {k : KeySlot} : (s.setKey n k).MemoryOk := h.withDev

theorem State.MemoryOk.mapRanges {l : List MapRange} {n : Nat} {t : State} (h : s.MemoryOk) (ht : s.mapRanges n l = some t) :
    t.MemoryOk := by
  induction l generalizing s with
  | nil =>
    cases ht
    exact h
  | cons r l ih =>
    unfold State.mapRanges at ht
    split at ht
    · cases ht
    · rename_i hm
      exact ih (h.mapRange hm) ht

theorem State.MemoryOk.joinCore (h : s.MemoryOk) {n g u : Nat} {gang : Bool} : (s.joinCore n g u gang).MemoryOk := by
  unfold State.joinCore
  split
  · exact h
  · exact h.setPart.enterCore

theorem State.MemoryOk.addCore (h : s.MemoryOk) {n g : Nat} {t : State} (ht : s.addCore n g = some t) : t.MemoryOk := by
  unfold State.addCore at ht
  split at ht
  · cases ht
  · split at ht
    · cases ht
      exact h.joinCore
    · split at ht
      · cases ht
      · rename_i hl
        cases ht
        exact State.MemoryOk.joinCore (h.lowestCore hl)

theorem State.MemoryOk.addCores {k n g : Nat} {t : State} (h : s.MemoryOk) (ht : s.addCores n g k = some t) : t.MemoryOk := by
  induction k generalizing s with
  | zero =>
    cases ht
    exact h
  | succ k ih =>
    unfold State.addCores at ht
    split at ht
    · cases ht
    · rename_i hc
      exact ih (h.addCore hc) ht

theorem State.MemoryOk.numberSlots (h : s.MemoryOk) {n : Nat} : (s.numberSlots n).MemoryOk := by
  unfold State.numberSlots
  split
  · exact h
  · exact h.setPart

theorem State.MemoryOk.cancelLaunch (h : s.MemoryOk) {k : Nat} : (s.cancelLaunch k).MemoryOk := by
  unfold State.cancelLaunch
  split
  · exact h
  · split
    · exact h
    · refine State.MemoryOk.foldl (fun s x hs => hs.cancelNode.doActs) (State.MemoryOk.foldl (fun s x hs => ?_)
        (State.MemoryOk.foldl (fun s x hs => hs.tellPlan) h.withLaunches _) _) _
      dsimp only
      split
      · split
        · exact hs.endCommand
        · exact hs
      · exact hs

theorem State.MemoryOk.dropPart (h : s.MemoryOk) {n : Nat} : (s.dropPart n).MemoryOk := h.of_cells rfl

theorem State.MemoryOk.askLeave (h : s.MemoryOk) {us : List Nat} : (s.askLeave us).MemoryOk := by
  unfold State.askLeave
  refine h.foldl (fun s u hs => ?_) _
  split
  · exact hs.askStop
  · exact hs

theorem State.MemoryOk.addUppers (h : s.MemoryOk) {n g k : Nat} {t : State} (ht : s.addUppers n g k = some t) : t.MemoryOk := by
  unfold State.addUppers at ht
  simp only [] at ht
  split at ht
  · cases ht
  · rename_i h1
    split at ht
    · cases ht
    · rename_i h2
      exact ((h.addCores h1).addCores h2).addCores ht

/-! ### What a request does -/

/-- What serving a request leaves keeps the canonical form. -/
def Served.MemoryOk : Served → Prop
  | .reply _ _ t => t.MemoryOk
  | .sent _ t => t.MemoryOk
  | .later _ t => t.MemoryOk

theorem State.MemoryOk.answered_ (h : s.MemoryOk) {st : Nat} : (answer st s).MemoryOk := h

theorem State.MemoryOk.inPart (h : s.MemoryOk) {n : Nat} {act : Partition → Served} (ha : ∀ p, (act p).MemoryOk) :
    (s.inPart n act).MemoryOk := by
  unfold State.inPart
  split
  · exact h
  · exact ha _

theorem State.MemoryOk.actCreate (h : s.MemoryOk) {b : CreateBody} : (s.actCreate b).MemoryOk := by
  unfold State.actCreate
  split
  · exact h
  · split
    · exact h
    · split
      · exact h
      · split
        · exact h
        · simp only []
          split
          · exact h
          · rename_i hc
            split
            · exact h
            · rename_i hm
              split
              · exact h
              · exact (State.MemoryOk.numberSlots (h.setKey.newTable.setPart.addCores hc)).mapRanges hm

theorem State.MemoryOk.actDestroy (h : s.MemoryOk) {n : Nat} : (s.actDestroy n).MemoryOk := by
  unfold State.actDestroy
  refine h.inPart fun p => ?_
  have hl : ((s.launches.filter (fun x => x.2.part == n)).foldl (fun s x => s.cancelLaunch x.1) s).MemoryOk :=
    h.foldl (fun _ _ hs => hs.cancelLaunch) _
  generalize (s.launches.filter (fun x => x.2.part == n)).foldl (fun s x => s.cancelLaunch x.1) s = v at hl ⊢
  simp only []
  split
  · exact hl
  · exact State.MemoryOk.foldl (fun _ _ hs => hs.dissolve) (State.MemoryOk.dropPart (hl.foldl (fun _ _ hs => hs.enterCore) _)) _

theorem State.MemoryOk.startResize (h : s.MemoryOk) {n id : Nat} {delta : Int} : (s.startResize n delta id).MemoryOk := by
  unfold State.startResize
  split
  · exact h.dropChange
  · split
    · split
      · exact h
      · split
        · exact h.dropChange
        · rename_i ha
          exact (h.addUppers ha).dropChange
    · split
      · exact h.dropChange
      · exact h.askLeave

theorem State.MemoryOk.actResize (h : s.MemoryOk) {n : Nat} {delta : Int} {turn : Option (Nat × Option (List Nat))} :
    (s.actResize n delta turn).MemoryOk := by
  unfold State.actResize
  split
  · simp only []
    split
    · exact h.dropChange
    · exact h.askLeave
  · split
    · exact h.startResize
    · exact h
  · refine h.inPart fun p => ?_
    split
    · exact h
    · simp only []
      split
      · exact h.fresh.withDev.startResize
      · exact h.fresh.withDev

theorem State.MemoryOk.actInstall (h : s.MemoryOk) {n slot : Nat} {k1 k2 : BitVec 256} : (s.actInstall n slot k1 k2).MemoryOk := by
  unfold State.actInstall
  split
  · exact h.withDev
  · split
    · exact h
    · refine h.inPart fun p => ?_
      split
      · exact h.setKey
      · split
        · exact h
        · exact h.setKey

theorem State.MemoryOk.actRelease (h : s.MemoryOk) {n slot : Nat} : (s.actRelease n slot).MemoryOk := by
  unfold State.actRelease
  split
  · exact h
  · refine h.inPart fun p => ?_
    split
    · exact h
    · split
      · exact h
      · exact h.withDev

theorem State.MemoryOk.actPattern (h : s.MemoryOk) {n : Nat} {a : Word} : (s.actPattern n a).MemoryOk := by
  unfold State.actPattern
  refine h.inPart fun p => ?_
  split
  · exact h
  · split
    · exact h
    · exact h.setPart

theorem State.MemoryOk.actHandler (h : s.MemoryOk) {n : Nat} {a : Word} : (s.actHandler n a).MemoryOk := by
  unfold State.actHandler
  refine h.inPart fun p => ?_
  split
  · exact h
  · split
    · exact h
    · exact h.setPart

theorem State.MemoryOk.pokeBytes (h : s.MemoryOk) {loc : Nat} {l : List Byte} : (s.pokeBytes loc l).MemoryOk := h.poke _ _ _

theorem State.MemoryOk.actMap (h : s.MemoryOk) {n : Nat} {b : MapBody} : (s.actMap n b).MemoryOk := by
  unfold State.actMap
  refine h.inPart fun p => ?_
  split
  · exact h
  · split
    · exact h
    · rename_i hm
      exact State.MemoryOk.pokeBytes (h.mapRange hm)

theorem State.MemoryOk.dropFetched (h : s.MemoryOk) {part lo hi : Nat} : (s.dropFetched part lo hi).MemoryOk := h.withSeqs

theorem State.MemoryOk.settlePart (h : s.MemoryOk) {part : Nat} : (s.settlePart part).MemoryOk := by
  unfold State.settlePart
  refine h.foldl (fun s x hs => ?_) _
  dsimp only
  split
  · exact (hs.drainSeq _).setSeq
  · exact hs

theorem State.MemoryOk.unmapRange (h : s.MemoryOk) {part root a n : Nat} {r : MapRange} : (s.unmapRange part root r a n).MemoryOk := by
  unfold State.unmapRange
  exact h.clearLeaves.dropCached.dropFetched

theorem State.MemoryOk.actUnmap (h : s.MemoryOk) {n a len : Nat} : (s.actUnmap n a len).MemoryOk := by
  unfold State.actUnmap
  refine h.inPart fun p => ?_
  simp only []
  split
  · exact h
  · exact State.MemoryOk.setPart (h.settlePart.foldl (fun _ _ hs => hs.unmapRange) _)

theorem State.MemoryOk.copySectors {k n va : Nat} {l : List Byte} (h : s.MemoryOk) : (s.copySectors n va l k).1.MemoryOk := by
  induction k generalizing s va l with
  | zero => exact h
  | succ k ih =>
    unfold State.copySectors
    split
    · exact h
    · simp only []
      split
      · exact h.negate
      · exact ih (h.foldl (fun _ _ hs => hs.writeSector ..) _)

theorem State.MemoryOk.copyIn (h : s.MemoryOk) {n va : Nat} {l : List Byte} : (s.copyIn n va l).1.MemoryOk := h.copySectors

theorem State.MemoryOk.copyOut {k n va : Nat} {t : State} (h : s.MemoryOk) (ht : s.copyOut n va k = .error t) : t.MemoryOk := by
  induction k generalizing va with
  | zero => cases ht
  | succ k ih =>
    unfold State.copyOut at ht
    split at ht
    · cases ht
      exact h.negate
    · split at ht
      · cases ht
        exact h
      · split at ht
        · rename_i he
          cases ht
          exact ih he
        · cases ht

theorem State.MemoryOk.actCopy (h : s.MemoryOk) {n a len : Nat} {data : Option (List Byte)} : (s.actCopy n a len data).MemoryOk := by
  unfold State.actCopy
  refine h.inPart fun p => ?_
  split
  · exact h
  · split
    · split
      · exact h
      · exact h.copyIn
    · split
      · exact h
      · split
        · rename_i he
          exact h.copyOut he
        · exact h

theorem State.MemoryOk.actSignal (h : s.MemoryOk) {n : Nat} {a v : Word} : (s.actSignal n a v).MemoryOk := by
  unfold State.actSignal
  refine h.inPart fun p => ?_
  split
  · exact h
  · split
    · exact h
    · split
      · exact h.negate
      · exact h.foldl (fun _ _ hs => hs.writeSector ..) _

/-! ### Launches -/

theorem State.MemoryOk.failLaunch (h : s.MemoryOk) {k : Nat} {v : Word} : (s.failLaunch k v).MemoryOk := h.finalToken.settle

theorem State.MemoryOk.applyRoot {fuel : Nat} {p : Partition} {k n root : Nat} {t : State} (h : s.MemoryOk)
    (ht : s.applyRoot p k n root fuel = some t) : t.MemoryOk := by
  induction fuel generalizing s with
  | zero => cases ht
  | succ fuel ih =>
    unfold State.applyRoot at ht
    simp only [] at ht
    split at ht
    · rename_i hm
      cases ht
      exact State.MemoryOk.doActs (h.makeNest hm)
    · cases ht
      exact h.failLaunch
    · split at ht
      · cases ht
      · split at ht
        · rename_i hm
          obtain ⟨-, hm⟩ := Option.ite_none_right_eq_some.mp hm
          exact ih (h.mapMissing hm) ht
        · cases ht
          exact h.negate.failLaunch

theorem State.MemoryOk.post (h : s.MemoryOk) {m : Msg} : (s.post m).MemoryOk := h.withDev

theorem State.MemoryOk.acceptLaunch (h : s.MemoryOk) {hd : Hdr} {p : Partition} {v : Nat} : (s.acceptLaunch hd p v).MemoryOk := by
  unfold State.acceptLaunch
  simp only []
  split
  · exact h
  · rename_i ha
    exact State.MemoryOk.applyRoot (State.MemoryOk.startImages h.fresh.putToken.post.withLaunches _ _) ha

theorem State.MemoryOk.actLaunch (h : s.MemoryOk) {hd : Hdr} {addr : Word} : (s.actLaunch hd addr).MemoryOk := by
  unfold State.actLaunch
  refine h.inPart fun p => ?_
  split
  · exact h
  · split
    · exact h
    · split
      · exact h.negate
      · simp only []
        split
        · exact h
        · split
          · exact h
          · split
            · exact h
            · split
              · exact h.negate
              · split
                · exact h.putToken
                · exact h.acceptLaunch

theorem State.MemoryOk.actCancel (h : s.MemoryOk) {n : Nat} {tok : Word} : (s.actCancel n tok).MemoryOk := by
  unfold State.actCancel
  refine h.inPart fun p => ?_
  split
  · exact h
  · exact h.cancelLaunch

theorem State.MemoryOk.actGroup (h : s.MemoryOk) {n : Nat} {g : Sys2Proof.GroupBody} : (s.actGroup n g).MemoryOk := by
  unfold State.actGroup
  refine h.inPart fun p => ?_
  simp only []
  split
  · exact h
  · split
    · exact h
    · exact h.setPart

theorem State.MemoryOk.actPort (h : s.MemoryOk) {port role : Nat} : (s.actPort port role).MemoryOk := by
  unfold State.actPort
  split
  · exact h
  · simp only []
    split
    · exact h
    · exact h.withDev

theorem State.MemoryOk.actTrapLog (h : s.MemoryOk) {q count : Nat} : (s.actTrapLog q count).MemoryOk := by
  unfold State.actTrapLog
  split
  · exact h
  · exact h

/-! ### Serving -/

theorem State.MemoryOk.serveHost (h : s.MemoryOk) {hd : Hdr} {i : Req} {turn : Option (Nat × Option (List Nat))} :
    (s.serveHost hd i turn).MemoryOk := by
  unfold State.serveHost
  cases i with
  | createPartition b => exact h.actCreate
  | destroyPartition k => exact h.actDestroy
  | resize k d => exact h.actResize
  | installKey slot k1 k2 => exact h.actInstall
  | releaseKey slot => exact h.actRelease
  | setPatternTable a => exact h.actPattern
  | setHandler a => exact h.actHandler
  | map b => exact h.actMap
  | unmap a len => exact h.actUnmap
  | copy a len d => exact h.actCopy
  | launch a => exact h.actLaunch
  | cancel t => exact h.actCancel
  | signal a v => exact h.actSignal
  | latencyTolerance ns => exact h.inPart fun p => h.setPart
  | registerGroup g => exact h.actGroup
  | configurePort port role => exact h.actPort
  | readTrapLog q count => exact h.actTrapLog
  | _ => exact h

theorem State.MemoryOk.serveMgmt (h : s.MemoryOk) {hd : Hdr} {i : Req} : (s.serveMgmt hd i).MemoryOk := by
  unfold State.serveMgmt
  cases i with
  | writeImage off piece => exact h.writePiece
  | activateImage => exact h.activate
  | resetDevice => exact h.post.resetDevice
  | powerOff =>
    simp only []
    split
    · exact State.MemoryOk.powerDown
    · exact h
  | _ => exact h

theorem State.MemoryOk.serveFatal (h : s.MemoryOk) {i : Req} : (s.serveFatal i).MemoryOk := by
  unfold State.serveFatal
  cases i with
  | readTrapLog q count => exact h.actTrapLog
  | _ => exact h

theorem State.MemoryOk.serve (h : s.MemoryOk) {hd : Hdr} {i : Req} {turn : Option (Nat × Option (List Nat))} :
    (s.serve hd i turn).MemoryOk := by
  have hr : (if hd.mgmt then s.serveMgmt hd i else if s.dev.running = .up then s.serveHost hd i turn else s.serveFatal i).MemoryOk := by
    split
    · exact h.serveMgmt
    · split
      · exact h.serveHost
      · exact h.serveFatal
  unfold State.serve
  split
  · exact h
  · simp only []
    generalize (if hd.mgmt then s.serveMgmt hd i else if s.dev.running = .up then s.serveHost hd i turn else s.serveFatal i) = r at hr ⊢
    cases r with
    | reply st body t =>
      simp only []
      split
      · exact h
      · exact hr
    | sent m t => exact hr
    | later turn t => exact hr

/-! ### Sessions -/

theorem State.MemoryOk.setSession (h : s.MemoryOk) {x : Session} : (s.setSession x).MemoryOk := h.withDev

theorem State.MemoryOk.dropSession (h : s.MemoryOk) {x : Session} : (s.dropSession x).MemoryOk :=
  h.withDev.foldl (fun _ _ hs => hs.post) _

theorem State.MemoryOk.answered (h : s.MemoryOk) {hd : Hdr} {num : Nat} {m : Msg} : (s.answered hd num m).MemoryOk := by
  unfold State.answered
  split
  · exact h
  · exact h.setSession

theorem State.MemoryOk.serveNext (h : s.MemoryOk) {hd : Hdr} : (s.serveNext hd).1.MemoryOk := by
  unfold State.serveNext
  split
  · exact h
  · split
    · exact h
    · rename_i r _ _
      split
      · exact h
      · simp only []
        split
        · exact h.dropSession.post
        · have hs := h.serve (hd := r.hdr) (i := r.req) (turn := r.turn)
          generalize s.serve r.hdr r.req r.turn = v at hs ⊢
          cases v with
          | reply st body t => exact State.MemoryOk.answered (State.MemoryOk.post hs)
          | sent m t => exact State.MemoryOk.answered hs
          | later turn t =>
            simp only []
            split
            · exact hs
            · exact State.MemoryOk.setSession hs

theorem State.MemoryOk.drain {n : Nat} {hd : Hdr} (h : s.MemoryOk) : (s.drain hd n).MemoryOk := by
  induction n generalizing s with
  | zero => exact h
  | succ n ih =>
    have hn := h.serveNext (hd := hd)
    unfold State.drain
    split
    · rename_i he
      rw [he] at hn
      exact ih hn
    · rename_i he
      rw [he] at hn
      exact hn

theorem State.MemoryOk.openFor (h : s.MemoryOk) {hd : Hdr} : (s.openFor hd).MemoryOk := by
  unfold State.openFor
  simp only []
  split
  · exact h.post
  · exact h.post
  · split
    · exact h.post
    · split
      · exact h.post
      · split
        · exact h.post
        · exact h.withDev.post

theorem State.MemoryOk.inSession (h : s.MemoryOk) {hd : Hdr} {i : Req} : (s.inSession hd i).MemoryOk := by
  unfold State.inSession
  simp only []
  split
  · exact h.post
  · split
    · split
      · exact h.post
      · exact h.post
    · split
      · exact h.post
      · exact h.setSession.drain

theorem State.MemoryOk.arrive {hd : Hdr} {i : Req} {t : State} (h : s.MemoryOk) (ht : s.arrive hd i = .next t) : t.MemoryOk := by
  have hw : (s.arrived hd i).MemoryOk := h.of_cells (congrArg (·.cells) (s.arrived_same hd i).1.2.1)
  unfold State.arrive at ht
  split at ht
  · exact Host.Outcome.next.inj ht ▸ h
  · simp only [] at ht
    split at ht
    · exact Host.Outcome.next.inj ht ▸ hw.openFor
    · exact Host.Outcome.next.inj ht ▸ hw.inSession

theorem State.MemoryOk.gapTimeout {mgmt : Bool} {ep : Nat} {sess : BitVec 16} {t : State} (h : s.MemoryOk)
    (ht : execSessionGapTimeout mgmt ep sess s = .next t) : t.MemoryOk := by
  unfold execSessionGapTimeout at ht
  simp only [] at ht
  split at ht
  · exact Host.Outcome.next.inj ht ▸ h
  · split at ht
    · exact Host.Outcome.next.inj ht ▸ h
    · split at ht
      · exact Host.Outcome.next.inj ht ▸ h
      · exact Host.Outcome.next.inj ht ▸ h.dropSession

end

end Sys2Proof.Machine

/-!
Every step keeps the memory in its canonical form (O60): the words.
-/

namespace Sys2Proof.Machine

set_option Elab.async false

/-! ### Kinds of words -/

/-- A word that needs an open strip passes its checks in one only (R113). -/
theorem State.strip_of_precheck {s : State} {i : Instr} {group : VType → Bool} (h : s.precheck i group = .ok ())
    (hn : needsStrip i = true) : s.me.strip.isSome = true := by
  unfold State.precheck at h
  simp only [] at h
  split at h
  · cases h
  · split at h
    · cases h
    · split at h
      · cases h
      · split at h
        · cases h
        · rename_i hs
          exact Option.isSome_iff_ne_none.mpr (by simpa [hn] using hs)

/-- A meaning that changes no cell, in the states in which its word may issue. -/
theorem KeepsMemory.of_cells {i : Instr} {group : VType → Bool} {body : State → Res} (hexec : ∀ s, exec i s = runG i group body s)
    (hb : ∀ u : State, (needsStrip i = true → u.me.strip.isSome = true) →
      (∃ fl t, body u = .done fl t ∧ t.mem.cells = u.mem.cells) ∨ ∃ x, body u = .trap x u) : KeepsMemory i := fun s t h he => by
  have ht : s.issue i group body = t := Host.Outcome.next.inj ((hexec s).symm.trans he)
  have ha : (s.atIssue i).MemoryOk := h.of_cells rfl
  subst ht
  rw [issue_eq]
  split
  · exact h.of_cells rfl
  · split
    · exact ha.stopWord ha
    · rename_i hpre
      refine ha.conclude ?_
      rcases hb (s.atIssue i) (State.strip_of_precheck hpre) with ⟨fl, u, hu, hc⟩ | ⟨x, hx⟩
      · rw [hu]
        exact ha.of_cells hc
      · rw [hx]
        exact ha

theorem ScalarWord.keeps {i : Instr} {d : Reg} (hw : ScalarWord i d) : KeepsMemory i := by
  obtain ⟨body, hb, hexec⟩ := hw
  refine KeepsMemory.of_cells hexec fun u _ => ?_
  rcases hb u with ⟨fl, t, hu, ht⟩ | hx
  · exact .inl ⟨fl, t, hu, congrArg (·.cells) ht.machine.mem⟩
  · exact .inr hx

theorem VectorWord.keeps {i : Instr} {d : Nat} {n : VType → Nat} (hw : VectorWord i d n) : KeepsMemory i := by
  obtain ⟨group, body, hexec, hb⟩ := hw
  refine KeepsMemory.of_cells hexec fun u hs => ?_
  rcases hb u hs with ⟨fl, t, hu, ht⟩ | hx
  · exact .inl ⟨fl, t, hu, congrArg (·.cells) ht.machine.mem⟩
  · exact .inr hx

theorem TrussWord.keeps {i : Instr} {rs : State → List Nat} (hw : TrussWord i rs) : KeepsMemory i := by
  obtain ⟨⟨group, body, hexec, hb⟩, -⟩ := hw
  refine KeepsMemory.of_cells hexec fun u _ => ?_
  rcases hb u with ⟨fl, t, hu, ht⟩ | hx
  · exact .inl ⟨fl, t, hu, congrArg (·.cells) ht.machine.mem⟩
  · exact .inr hx

theorem KeepsMemory.scalar {i : Instr} {d : Reg} (h : scalarDest i = some d) : KeepsMemory i := (scalarWord_of_dest h).keeps

theorem KeepsMemory.vector {i : Instr} {d n : Nat} (h : vectorDest State.reset i = some (d, n)) : KeepsMemory i := by
  obtain ⟨_, hw, -⟩ := vectorWord_of_dest h
  exact hw.keeps

theorem KeepsMemory.truss {i : Instr} {l : List Nat} (h : trussRows State.reset i = some l) : KeepsMemory i := by
  obtain ⟨_, hw, -⟩ := trussWord_of_rows h
  exact hw.keeps

/-- A request keeps the form, as its arrival does. -/
theorem KeepsMemory.request {i : Instr} {hd : Hdr} {r : Req} (e : requestOf i = some (hd, r)) : KeepsMemory i := fun s _ h he =>
  h.arrive ((exec_request s e).symm.trans he)

/-! ### Shapes of meanings -/

theorem Keeps.closing {α : Type} {chk : State → Except Trap α} {act : α → State → Res} (h : ∀ x, Keeps (act x)) :
    Keeps (closing chk act) := fun u hu => by
  unfold Machine.closing
  split
  · exact hu
  · exact h _ _ hu.commitStrip

theorem Keeps.command {chk : State → Except Trap Command} {go : Command → State → State}
    (h : ∀ c u, u.MemoryOk → (go c u).MemoryOk) : Keeps (command chk go) := fun u hu => by
  unfold Machine.command
  split
  · split
    · exact hu
    · exact h _ _ hu.setMe
  · refine Keeps.closing (fun c v hv => ?_) u hu
    dsimp only
    split
    · exact hv.setMe
    · exact h _ _ hv

theorem Keeps.classed {c : Machine.Class} {m : Mask3} {body : VType → State → Res} (h : ∀ t, Keeps (body t)) :
    Keeps (classed c m body) := fun u hu => by
  unfold Machine.classed
  simp only []
  split
  · exact hu
  · split
    · exact hu
    · exact h _ _ hu

theorem Keeps.coded {body : VType → Coding → State → Res} (h : ∀ t k, Keeps (body t k)) : Keeps (coded body) := fun u hu => by
  unfold Machine.coded
  simp only []
  split
  · exact hu
  · exact h _ _ _ hu

theorem Keeps.trussTyped {body : VType → Nat → Nat → State → Res} (h : ∀ t k c, Keeps (body t k c)) : Keeps (trussTyped body) :=
  fun u hu => by
  unfold Machine.trussTyped
  simp only []
  split
  · exact hu
  · exact h _ _ _ _ hu

/-! ### Stores and the reserved pair -/

section
variable {s : State}

theorem State.MemoryOk.setCtl (h : s.MemoryOk) {c : Ctl} : (s.setCtl c).MemoryOk := h.setMe
theorem State.MemoryOk.setGrant (h : s.MemoryOk) {g : GrantFile} : (s.setGrant g).MemoryOk := h.setMe
theorem State.MemoryOk.raise (h : s.MemoryOk) {f : FlagSet} : (s.raise f).MemoryOk := h.setCtl
theorem State.MemoryOk.report (h : s.MemoryOk) {r : Report} : (s.report r).MemoryOk := h.setGrant

theorem State.MemoryOk.store (h : s.MemoryOk) {b : SMap BufSector} : (s.store b).MemoryOk := h.storeAs

theorem State.MemoryOk.writeMask (h : s.MemoryOk) {k : Nat} {b : BitVec 4096} : (s.writeMask k b).MemoryOk := by
  unfold State.writeMask
  split
  · exact h.setMe
  · exact h

theorem State.MemoryOk.closeWindow (h : s.MemoryOk) {n : Nat} : (s.closeWindow n).MemoryOk := by
  unfold State.closeWindow
  split
  · exact h.setMe
  · exact h

theorem State.MemoryOk.writeCtl (h : s.MemoryOk) {n : Nat} {v : Word} : (s.writeCtl n v).MemoryOk := by
  unfold State.writeCtl
  simp only []
  split
  case h_21 => exact h
  all_goals exact h.setMe

theorem State.MemoryOk.returnFromTrap (h : s.MemoryOk) : s.returnFromTrap.MemoryOk := by
  unfold State.returnFromTrap
  exact h.setMe
end

theorem Keeps.storeBody (size : Nat) (ea val : State → Word) : Keeps (fun s => storeBody size (ea s) (val s) s) := fun u hu => by
  dsimp only
  unfold Machine.storeBody
  split
  · exact hu
  · split
    · exact hu
    · exact hu.store

theorem Keeps.czero (f : Pair) : KeepsMemory (.czero f) := Keeps.word (fun _ => rfl) fun u hu => by
  dsimp only
  split
  · exact hu
  · split
    · exact hu
    · exact hu.store

theorem Keeps.reserveBody (d : Reg) (signed : Bool) (size : Nat) (ea : State → Word) :
    Keeps (fun s => reserveBody d signed size (ea s) s) := fun u hu => by
  refine Keeps.closing (fun loc v hv => ?_) u hu
  dsimp only
  split
  · exact hv
  · exact hv.setS.setMe.loaded

theorem Keeps.conditionalBody (d : Reg) (size : Nat) (ea val : State → Word) :
    Keeps (fun s => conditionalBody d size (ea s) (val s) s) := fun u hu => by
  refine Keeps.closing (fun loc v hv => ?_) u hu
  dsimp only
  split
  · exact hv.setMe.store.setS
  · exact hv.setMe.setS

theorem State.MemoryOk.amoAt {s : State} (h : s.MemoryOk) {o : AmoOp} {f : Amo} {va loc size x e : Nat} :
    (s.amoAt o f va loc size x e).MemoryOk := by
  unfold State.amoAt
  split
  · exact h
  · refine State.MemoryOk.loaded (State.MemoryOk.setS ?_)
    split
    · exact h
    · exact h.commitSectors _

theorem Keeps.amo {i : Instr} {o : AmoOp} {f : Amo} (hexec : ∀ s, exec i s = amo i o f s) : KeepsMemory i :=
  Keeps.word hexec fun u hu => Keeps.closing (fun _ _ hv => hv.amoAt) u hu

theorem Keeps.fenceBody : Keeps fenceBody := fun _ hu => hu.commitStrip

/-! ### Loops, control registers and system words -/

theorem Keeps.loopPush (count : State → Word) (imm : BitVec 13) : Keeps (fun s => loopPush (count s) imm s) := fun u hu => by
  dsimp only
  unfold Machine.loopPush
  simp only []
  split
  · exact hu
  · split
    · exact hu.setMe
    · exact hu

theorem Keeps.lpop (f : Bare) : KeepsMemory (.lpop f) := Keeps.word (fun _ => rfl) fun u hu => by
  dsimp only
  split
  · exact hu
  · exact hu.setMe

theorem Keeps.lbrk (f : Bare) : KeepsMemory (.lbrk f) := Keeps.word (fun _ => rfl) fun u hu => by
  dsimp only
  split
  · exact hu
  · exact hu.setMe

theorem Keeps.ctlWrite {i : Instr} {f : CtlW} (hexec : ∀ s, exec i s = ctlWrite i f s) : KeepsMemory i :=
  Keeps.word hexec fun _ hu => hu.closeWindow.writeCtl.setS

theorem Keeps.zctw (f : R2) : KeepsMemory (.zctw f) := Keeps.word (fun _ => rfl) fun u hu => by
  dsimp only
  split
  · exact hu
  · split
    · exact hu.setUpper
    · exact hu

theorem State.MemoryOk.swapTables {s : State} (h : s.MemoryOk) {u : Nat} : (s.swapTables u).MemoryOk := h.setUpper

theorem Keeps.zcswap (f : Bare) : KeepsMemory (.zcswap f) := Keeps.word (fun _ => rfl) fun u hu => by
  dsimp only
  split
  · split
    · split
      · exact hu.setUpper.swapTables.setUpper
      · exact hu.setUpper.swapTables
    · exact hu.setUpper.setUpper
  · split
    · exact hu.setUpper
    · split
      · split
        · exact hu
        · exact hu.setUpper
      · exact hu

theorem Keeps.strip (f : R3) : KeepsMemory (.strip f) := Keeps.word (fun _ => rfl) fun u hu => by
  dsimp only
  split
  · exact hu
  · split
    · exact hu.commitStrip.stopIfAsked
    · split
      · exact hu.commitStrip
      · exact hu.commitStrip.openStrip

/-! ### Vector words without a destination group, masks and the truss context -/

theorem Keeps.zskip (f : R3) : KeepsMemory (.zskip f) := Keeps.word (fun _ => rfl) (Keeps.coded fun t k u hu => by
  dsimp only
  split
  · exact hu
  · split
    · exact hu
    · exact hu.setS.report.loadedFrom)

theorem Keeps.compare {i : Instr} {cl : Machine.Class} {f : V3} {c : Cond} (hexec : ∀ s, exec i s = compareVec i cl f c s) :
    KeepsMemory i := Keeps.word hexec (Keeps.classed fun t u hu => by
  dsimp only
  split
  · exact hu
  · exact hu.writeMask.raise.report)

theorem Keeps.maskOp {i : Instr} {d : Reg} {ks : List Reg} {op : State → BitVec 4096} (hexec : ∀ s, exec i s = maskOp i d ks op s) :
    KeepsMemory i := Keeps.word hexec fun u hu => by
  split
  · exact hu
  · exact hu.writeMask

theorem Keeps.tld (f : TLd) : KeepsMemory (.tld f) := Keeps.word (fun _ => rfl) (Keeps.trussTyped fun t k c u hu => by
  dsimp only
  split
  · exact hu
  · split
    · exact hu
    · split
      · exact hu
      · exact hu.setSole.loadedFrom)

theorem Keeps.tmode (f : Pair) : KeepsMemory (.tmode f) := Keeps.word (fun _ => rfl) fun u hu => by
  dsimp only
  split
  · exact hu
  · exact hu.setMe

theorem Keeps.tbest (f : DstB) : KeepsMemory (.tbest f) := Keeps.word (fun _ => rfl) fun u hu => by
  split
  · exact hu.setS.setS
  · exact hu.setS.setS

theorem Keeps.tcnt (f : R2) : KeepsMemory (.tcnt f) := Keeps.word (fun _ => rfl) fun u hu => by
  dsimp only
  split
  · exact hu.setS
  · exact hu.setS
  · exact hu.setS
  · exact hu.setMe.setS

/-! ### Patterns, channels and barriers -/

theorem Keeps.construct {i : Instr} {k : Kind} {f : R3} (hexec : ∀ s, exec i s = construct i k f s) : KeepsMemory i :=
  Keeps.word hexec fun u hu => by
  refine Keeps.closing (fun _ v hv => ?_) u hu
  exact State.MemoryOk.done hv.store

theorem Keeps.capply (f : R3) : KeepsMemory (.capply f) := Keeps.word (fun _ => rfl) fun u hu => by
  refine Keeps.closing (fun _ v hv => ?_) u hu
  dsimp only
  split
  · exact hv
  · exact hv.setS
  · rename_i hn
    exact State.MemoryOk.notMine (State.MemoryOk.doActs (State.MemoryOk.setMe (hv.mine.makeNest hn)))

theorem Keeps.cret (f : Pair) : KeepsMemory (.cret f) := Keeps.word (fun _ => rfl) fun u hu => by
  refine Keeps.closing (fun _ v hv => ?_) u hu
  split
  · exact hv
  · exact hv.endRecord

theorem Keeps.chput (f : R3) : KeepsMemory (.chput f) := Keeps.word (fun _ => rfl) fun u hu =>
  Keeps.closing (fun _ _ hv => hv.chputAt) u hu

theorem Keeps.chget (f : R3) : KeepsMemory (.chget f) := Keeps.word (fun _ => rfl) fun u hu =>
  Keeps.closing (fun _ _ hv => hv.chgetAt) u hu

theorem Keeps.cyield (f : R3) : KeepsMemory (.cyield f) := Keeps.word (fun _ => rfl) fun u hu => by
  refine Keeps.closing (fun _ v hv => ?_) u hu
  split
  · exact hv
  · split
    · exact hv
    · split
      · exact hv.yieldOn
      · split
        · exact hv
        · split
          · exact hv.setS
          · exact hv.yieldOn

theorem Keeps.barv (f : R3) : KeepsMemory (.barv f) := Keeps.word (fun _ => rfl) fun u hu =>
  Keeps.closing (fun _ _ hv => hv.arriveAt) u hu

theorem Keeps.bara (f : R3) : KeepsMemory (.bara f) := Keeps.word (fun _ => rfl) fun u hu =>
  Keeps.closing (fun _ _ hv => hv.arriveAt) u hu

theorem Keeps.barw (f : R3) : KeepsMemory (.barw f) := Keeps.word (fun _ => rfl) fun u hu => by
  refine Keeps.closing (fun _ v hv => ?_) u hu
  dsimp only
  split
  · exact hv
  · split
    · exact hv
    · split
      · exact hv.acquire.setS
      · exact hv.setMe

/-! ### Scatter-add and engine commands -/

theorem Keeps.scopen (f : Pair) : KeepsMemory (.scopen f) := Keeps.word (fun _ => rfl) fun u hu => by
  refine Keeps.closing (fun _ v hv => ?_) u hu
  split
  · exact hv
  · rename_i hj
    exact (hv.mine.joinRound hj).notMine

theorem Keeps.scaddBody (ordered : Bool) (f : R3) : Keeps (scaddBody ordered f) := fun u hu => by
  refine Keeps.closing (fun _ v hv => ?_) u hu
  dsimp only
  split
  · exact hv.report.sendUpdates
  · exact hv.report.sendAdds

theorem Keeps.scflush (f : R2) : KeepsMemory (.scflush f) := Keeps.word (fun _ => rfl) fun u hu => by
  refine Keeps.closing (fun _ v hv => ?_) u hu
  dsimp only
  split
  · exact hv.walked
  · exact hv.walked.setMe.mine.leaveRound.notMine

theorem Keeps.copyBody (op : CopyOp) (f : Eng) : Keeps (copyBody op f) := fun u hu => by
  unfold Machine.copyBody
  refine Keeps.command (fun c v hv => ?_) u hu
  dsimp only
  split
  · exact hv.loadedFrom.emptyCommand
  · exact hv.loadedFrom.issueCommand

theorem Keeps.issues {chk : State → State → Except Trap Command} {d : Reg} :
    Keeps (fun s => Machine.command (chk s) (fun c t => t.issueCommand d c) s) := fun u hu =>
  Keeps.command (fun _ _ hv => hv.issueCommand) u hu

end Sys2Proof.Machine

/-!
Every step keeps the memory in its canonical form (O60): the events, the schedule and the step.
-/

namespace Sys2Proof.Machine

set_option Elab.async false

section
variable {s : State}

/-! ### The remaining events -/

theorem State.MemoryOk.tableRebuild {page : Nat} {t : State} (h : s.MemoryOk) (ht : execTableRebuild page s = .next t) : t.MemoryOk := by
  unfold execTableRebuild at ht
  split at ht
  · simp only [] at ht
    refine Host.Outcome.next.inj ht ▸ ?_
    split
    · split
      · exact h.rebuildRoot
      · exact h
    · split
      · exact h.rebuildPage
      · exact h
  · exact Host.Outcome.next.inj ht ▸ h

theorem State.MemoryOk.classTableSwap {u : Nat} {t : State} (h : s.MemoryOk) (ht : execClassTableSwap u s = .next t) : t.MemoryOk := by
  unfold execClassTableSwap at ht
  split at ht
  · split at ht
    · exact Host.Outcome.next.inj ht ▸ h.swapTables.setUpper
    · exact Host.Outcome.next.inj ht ▸ h
  · exact Host.Outcome.next.inj ht ▸ h

theorem State.MemoryOk.generationDrain {u : Nat} {t : State} (h : s.MemoryOk) (ht : execGenerationDrain u s = .next t) :
    t.MemoryOk := by
  unfold execGenerationDrain at ht
  split at ht
  · split at ht
    · exact Host.Outcome.next.inj ht ▸ h
    · exact Host.Outcome.next.inj ht ▸ (State.MemoryOk.retire h.setUpper.withCur _ _).withCur
  · exact Host.Outcome.next.inj ht ▸ h
end

/-- Every word and every event keeps the memory in its canonical form. -/
theorem keepsMemory (i : Instr) : KeepsMemory i := by
  cases i with
  | add | sub | and | or | xor | andn | sll | srl | sra | rol | slt | sltn | seq | min | max | minn | maxn | addw | subw | adds1
  | adds2 | adds3 | slli | srli | srai | roli | mul | mulh | mulhn | div | divn | rem | remn | clz | ctz | cpop | bext | bins | addi
  | andi | ori | xori | lih | ldxb | ldxbn | ldxh | ldxhn | ldxw | ldxwn | ldxd | ldd | ldw | ldwn | cwb | pref | beq | bne | blt
  | bge | bltn | bgen | jal | jalr | rdpc | lcnt | ldep | bgs | bgsn | pause | sdrain | mfg | mpop | mfirst | tcget | tmodr | tmodc
  | wid => exact KeepsMemory.scalar rfl
  | zld | zst | zfind | vld | vlds | vldb | vldo | vldso | vldx | vldxo | vst | vsts | vstc | vsto | vstso | vstx | vstxo | vadd
  | vsub | vmul | vdiv | vmin | vmax | vabsd | vand | vor | vxor | vsll | vsrl | vsra | vneg | vabs | vsqrt | vmov | vadds | vmuls
  | vbcast | vid | vfma | vfms | vfnma | vtsum | vtprod | vcvt | vqnt | vdqnt | vsel | vslup | vsldn | vperm | vcomp | vredo | vredt
  | vscano | vscanf | vredmin | vredmax | tdrain => exact KeepsMemory.vector rfl
  | tmac | tdist | tcupd | tacc | tfill | tzero | tcdiv => exact KeepsMemory.truss rfl
  | createPartition | destroyPartition | resize | installKey | releaseKey | setPatternTable | setHandler | openSession | closeSession
  | map | unmap | copy | launch | cancel | signal | latencyTolerance | registerGroup | configurePort | fetchDump | readTrapLog
  | unknownRequestType | attest | writeImage | activateImage | readSensors | readErrorLog | mgmtFetchDump | resetDevice | powerOff =>
    exact KeepsMemory.request rfl
  | stxb f => exact Keeps.word (fun _ => rfl) (Keeps.storeBody _ _ _)
  | stxh f => exact Keeps.word (fun _ => rfl) (Keeps.storeBody _ _ _)
  | stxw f => exact Keeps.word (fun _ => rfl) (Keeps.storeBody _ _ _)
  | stxd f => exact Keeps.word (fun _ => rfl) (Keeps.storeBody _ _ _)
  | std f => exact Keeps.word (fun _ => rfl) (Keeps.storeBody _ _ _)
  | stw f => exact Keeps.word (fun _ => rfl) (Keeps.storeBody _ _ _)
  | czero f => exact Keeps.czero f
  | lr f => exact Keeps.word (fun _ => rfl) (Keeps.reserveBody _ _ _ _)
  | lrw f => exact Keeps.word (fun _ => rfl) (Keeps.reserveBody _ _ _ _)
  | sc f => exact Keeps.word (fun _ => rfl) (Keeps.conditionalBody _ _ _ _)
  | scw f => exact Keeps.word (fun _ => rfl) (Keeps.conditionalBody _ _ _ _)
  | loop f => exact Keeps.word (fun _ => rfl) (Keeps.loopPush _ _)
  | loopi f => exact Keeps.word (fun _ => rfl) (Keeps.loopPush _ _)
  | lpop f => exact Keeps.lpop f
  | lbrk f => exact Keeps.lbrk f
  | mfc f => exact Keeps.word (fun _ => rfl) fun _ hu => hu.closeWindow.setS
  | mtc | mcset | mcclr => exact Keeps.ctlWrite fun _ => rfl
  | rft f => exact Keeps.word (fun _ => rfl) fun _ hu => hu.returnFromTrap
  | trap f => exact Keeps.word (fun _ => rfl) fun _ hu => hu
  | ifence f => exact Keeps.word (fun _ => rfl) fun _ hu => hu.setMe
  | halt f => exact Keeps.word (fun _ => rfl) fun _ hu => hu.setMe
  | vtype f => exact Keeps.word (fun _ => rfl) fun _ hu => hu.setMe.setS
  | zctw f => exact Keeps.zctw f
  | zcswap f => exact Keeps.zcswap f
  | strip f => exact Keeps.strip f
  | sclose f => exact Keeps.word (fun _ => rfl) fun _ hu => hu.commitStrip.stopIfAsked
  | scloseRel f => exact Keeps.word (fun _ => rfl) fun _ hu => hu.commitStrip.stopIfAsked
  | zskip f => exact Keeps.zskip f
  | vceq | vcne | vclt | vcle | vcnan => exact Keeps.compare fun _ => rfl
  | mand | mor | mxor | mandn | mnot => exact Keeps.maskOp fun _ => rfl
  | mlen f => exact Keeps.maskOp fun s => exec_mlen s f
  | tld f => exact Keeps.tld f
  | tmode f => exact Keeps.tmode f
  | tbest f => exact Keeps.tbest f
  | tcnt f => exact Keeps.tcnt f
  | cfun | ccor | cseq | cpar | cpipe | cfarm | cloop => exact Keeps.construct fun _ => rfl
  | capply f => exact Keeps.capply f
  | cret f => exact Keeps.cret f
  | cyield f => exact Keeps.cyield f
  | chput f => exact Keeps.chput f
  | chget f => exact Keeps.chget f
  | barv f => exact Keeps.barv f
  | barw f => exact Keeps.barw f
  | bara f => exact Keeps.bara f
  | amoSwap | amoAdd | amoAnd | amoOr | amoXor | amoMin | amoMax | amoMinn | amoMaxn | amoCas => exact Keeps.amo fun _ => rfl
  | scopen f => exact Keeps.scopen f
  | scaddO f => exact Keeps.word (fun _ => rfl) (Keeps.scaddBody true f)
  | scaddU f => exact Keeps.word (fun _ => rfl) (Keeps.scaddBody false f)
  | scflush f => exact Keeps.scflush f
  | fence f => exact Keeps.word (fun _ => rfl) Keeps.fenceBody
  | fenceAcq f => exact Keeps.word (fun _ => rfl) Keeps.fenceBody
  | fenceRel f => exact Keeps.word (fun _ => rfl) Keeps.fenceBody
  | xcopy f => exact Keeps.word (fun _ => rfl) (Keeps.copyBody .copy f)
  | xcopyz f => exact Keeps.word (fun _ => rfl) (Keeps.copyBody .expand f)
  | xfill f => exact Keeps.word (fun _ => rfl) (Keeps.copyBody .fill f)
  | xquery f => exact Keeps.word (fun _ => rfl) Keeps.issues
  | xgrid f => exact Keeps.word (fun _ => rfl) Keeps.issues
  | xcoll f => exact Keeps.word (fun _ => rfl) Keeps.issues
  | xnote f => exact Keeps.word (fun _ => rfl) Keeps.issues
  | pop q => exact fun _ _ h => h.pop
  | aging => exact fun _ _ h he => Host.Outcome.next.inj he ▸ h.ageAll
  | timeSliceQuantum u => exact fun _ _ h => h.timeSlice
  | tenantSwitch u => exact fun _ _ h => h.tenantSwitch
  | classTableSwap u => exact fun _ _ h => h.classTableSwap
  | generationDrain u => exact fun _ _ h => h.generationDrain
  | barwPhaseReached q => exact fun _ _ h => h.phaseReached
  | barwTimeout q => exact fun _ _ h => h.barwTimeout
  | engineChunkComplete c j => exact fun _ _ h => h.chunkComplete
  | engineCommandComplete c => exact fun _ _ h => h.commandComplete
  | engineCommandFail c => exact fun _ _ h => h.commandFail
  | translationStallResolved c => exact fun _ _ h => h.stallResolved
  | xqueryAnswer c => exact fun _ _ h => h.queryAnswer
  | xgridDeclare c => exact fun _ _ h => h.gridDeclare
  | scaddUpdateArrival n => exact fun _ _ h => h.updateArrival
  | scatterRoundClose r => exact fun _ _ h => h.roundClose
  | collectiveComplete c => exact fun _ _ h => h.collectiveComplete
  | rankUnreachable c => exact fun _ _ h => h.rankUnreachable
  | preemptionRequest u why => exact fun _ _ h => h.preemptionRequest
  | preemptEscalation u => exact fun _ _ h => h.preemptEscalation
  | contextSave u => exact fun _ _ h => h.contextSave
  | contextRestore u k => exact fun _ _ h => h.contextRestore
  | doubleFaultRecovery q => exact fun _ _ h => h.faultRecovery
  | haltedRecordEnd q => exact fun _ _ h => h.haltedEnd
  | tableRebuild page => exact fun _ _ h => h.tableRebuild
  | weltRebind sole half => exact fun _ _ h => h.weltRebind
  | crcFailure t crc => exact fun _ _ h => h.crcFailure
  | linkLaneRetrain link lane => exact fun _ _ h => h.laneRetrain
  | fabricFrameReceive port f => exact fun _ _ h => h.frameReceive
  | keySwitch port => exact fun _ _ h => h.keySwitch
  | poisonNotice port device n => exact fun _ _ h => h.poisonNotice
  | sessionGapTimeout mgmt ep sess => exact fun _ _ h => h.gapTimeout
  | powerUp => exact fun _ _ h => h.powerUp
  | powerLoss writing => exact fun _ _ _ => State.MemoryOk.powerLoss
  | throttle => exact fun _ _ h => h.throttle
  | throttleRelease => exact fun _ _ h => h.throttleRelease
  | criticalTemperature sensor => exact fun _ _ h => h.criticalTemperature
  | watchdogExpiry => exact fun _ _ h => h.watchdog
  | fatalError cause cls num detail => exact fun _ _ h => h.fatalError
  | powerStateEntry p => exact fun _ _ h => h.powerStateEntry
  | wakeEvent p => exact fun _ _ h he => Host.Outcome.next.inj he ▸ h.wake
  | illegalInstruction => exact fun _ _ h => h.illegalInstruction
  | instructionFetchFault => exact fun _ _ h => h.fetchFault

/-! ### What the parties of the schedule do -/

/-- A happening that keeps the form. -/
def Party (f : State → State) : Prop := ∀ u : State, u.MemoryOk → (f u).MemoryOk

theorem Party.after {f : State → Host.Outcome State Fault Refusal} (hf : ∀ s t : State, s.MemoryOk → f s = .next t → t.MemoryOk) :
    Party (after f) := fun u hu => by
  unfold Machine.after
  split
  · rename_i he
    exact hf _ _ hu he
  · exact hu
  · exact hu

/-- The happening that an instruction is. -/
theorem Party.exec {f : State → Host.Outcome State Fault Refusal} {i : Instr} (hf : exec i = f) : Party (Machine.after f) :=
  hf ▸ Party.after (keepsMemory i)

section
variable {s : State}

theorem State.MemoryOk.exec (h : s.MemoryOk) {i : Instr} : (after (exec i) s).MemoryOk := Party.exec rfl s h

theorem State.upperParties_keep {u : Nat} {f : State → State} (hf : f ∈ s.upperParties u) : Party f := by
  simp only [State.upperParties, List.cons_append, List.nil_append, List.mem_cons, List.mem_append, List.mem_map] at hf
  rcases hf with rfl | rfl | rfl | rfl | rfl | rfl | ⟨x, -, rfl⟩ | ⟨q, -, rfl⟩
  · exact Party.exec (i := .classTableSwap u) rfl
  · exact Party.exec (i := .generationDrain u) rfl
  · exact Party.exec (i := .preemptEscalation u) rfl
  · exact Party.exec (i := .contextSave u) rfl
  · exact Party.exec (i := .timeSliceQuantum u) rfl
  · exact Party.exec (i := .tenantSwitch u) rfl
  · exact Party.exec (i := .contextRestore u x.1) rfl
  · exact fun _ hu => hu.endStopped

theorem commandParties_keep {c : Nat} {x : Command} {f : State → State} (hf : f ∈ commandParties c x) : Party f := by
  simp only [commandParties, List.mem_cons, List.not_mem_nil, or_false] at hf
  rcases hf with rfl | rfl | rfl | rfl | rfl | rfl | rfl
  · exact Party.exec (i := .translationStallResolved c) rfl
  · exact Party.exec (i := .engineChunkComplete c x.nextChunk) rfl
  · exact Party.exec (i := .engineCommandComplete c) rfl
  · exact Party.exec (i := .xqueryAnswer c) rfl
  · exact Party.exec (i := .xgridDeclare c) rfl
  · exact Party.exec (i := .collectiveComplete c) rfl
  · exact Party.exec (i := .engineCommandFail c) rfl

theorem State.powerParties_keep {n : Nat} {f : State → State} (hf : f ∈ s.powerParties n) : Party f := by
  unfold State.powerParties at hf
  split at hf
  · cases List.mem_singleton.mp hf
    exact Party.exec (i := .powerStateEntry n) rfl
  · cases List.mem_singleton.mp hf
    exact Party.exec (i := .wakeEvent n) rfl

theorem sessionParties_keep {x : Session} {f : State → State} (hf : f ∈ sessionParties x) : Party f := by
  unfold sessionParties at hf
  rcases List.mem_append.mp hf with hf | hf
  · cases List.mem_singleton.mp hf
    exact Party.exec (i := .sessionGapTimeout x.mgmt x.ep x.sess) rfl
  · split at hf
    · cases List.mem_singleton.mp hf
      exact fun _ hu => hu.drain
    · cases hf

theorem Dev.changeParties_keep {d : Dev} {f : State → State} (hf : f ∈ d.changeParties) : Party f := by
  unfold Dev.changeParties at hf
  split at hf
  · rename_i x _ _ _
    cases List.mem_singleton.mp hf
    exact Party.exec (i := .weltRebind (x / 2) (x % 2)) rfl
  · cases List.mem_singleton.mp hf
    exact fun _ hu => hu.removalStep
  · cases hf

theorem Dev.portParties_keep {d : Dev} {f : State → State} (hf : f ∈ d.portParties) : Party f := by
  obtain ⟨x, -, rfl⟩ := List.mem_map.mp hf
  exact Party.exec (i := .keySwitch x.1) rfl

theorem State.parties_keep {f : State → State} (hf : f ∈ s.parties) : Party f := by
  simp only [State.parties, List.cons_append, List.nil_append, List.mem_append, List.mem_cons, List.not_mem_nil, or_false, List.mem_map,
    List.mem_flatMap] at hf
  rcases hf with rfl | rfl | hf
  · exact Party.exec (i := .aging) rfl
  · exact Party.exec (i := .scaddUpdateArrival 0) rfl
  · rcases hf with (((((((((⟨x, -, rfl⟩ | ⟨x, -, rfl⟩) | ⟨x, -, hx⟩) | ⟨u, -, hu⟩) | ⟨p, -, rfl⟩) | hc) | hp) | ⟨x, -, hx⟩) |
      ⟨x, -, hx⟩) | (rfl | rfl)) | ⟨x, -, rfl⟩
    · exact fun _ hu => hu.drainSeq _
    · exact Party.exec (i := .scatterRoundClose x.1) rfl
    · exact commandParties_keep hx
    · exact State.upperParties_keep hu
    · exact Party.exec (i := .tableRebuild p) rfl
    · exact Dev.changeParties_keep hc
    · exact Dev.portParties_keep hp
    · exact sessionParties_keep hx
    · exact State.powerParties_keep hx
    · exact Party.exec (i := .throttle) rfl
    · exact Party.exec (i := .throttleRelease) rfl
    · exact Party.exec (i := .criticalTemperature x.1) rfl

theorem State.MemoryOk.firstChange {l : List (State → State)} {t : State} (h : s.MemoryOk) (hl : ∀ f ∈ l, Party f)
    (ht : s.firstChange l = some t) : t.MemoryOk := by
  induction l with
  | nil => cases ht
  | cons f l ih =>
    unfold State.firstChange at ht
    split at ht
    · exact ih (fun g hg => hl g (List.mem_cons_of_mem _ hg)) ht
    · cases ht
      exact hl f List.mem_cons_self s h

theorem State.MemoryOk.rotate (h : s.MemoryOk) : s.rotate.MemoryOk := h.of_cells rfl

theorem State.MemoryOk.othersTurn (h : s.MemoryOk) : s.othersTurn.MemoryOk := by
  unfold State.othersTurn
  cases hf : s.firstChange s.parties with
  | none => exact h.rotate
  | some t => exact h.firstChange (fun f hf => State.parties_keep hf) hf

theorem State.MemoryOk.promptTurn (h : s.MemoryOk) {u : Nat} : (s.promptTurn u).MemoryOk := by
  unfold State.promptTurn
  split
  · exact Party.exec (i := .preemptEscalation u) rfl s h
  · split
    · exact Party.exec (i := .tenantSwitch u) rfl s h
    · split
      · exact Party.exec (i := .timeSliceQuantum u) rfl s h
      · exact h

/-! ### Before a word -/

theorem State.MemoryOk.settleLate (h : s.MemoryOk) {i : Instr} : (s.settleLate i).MemoryOk := by
  unfold State.settleLate
  split
  · exact h
  · exact h.setMe

theorem State.MemoryOk.landBefore (h : s.MemoryOk) {i : Instr} : (s.landBefore i).MemoryOk := by
  unfold State.landBefore
  split
  · exact h
  · split
    · exact h.drainSeq _
    · exact h.landHit ..

theorem State.MemoryOk.voidEarly (h : s.MemoryOk) {i : Instr} : (s.voidEarly i).MemoryOk := by
  unfold State.voidEarly
  split
  · exact h
  · split
    · exact h
    · exact h.acquire.setMe

theorem State.MemoryOk.readObjects (h : s.MemoryOk) {i : Instr} : (s.readObjects i).MemoryOk := by
  unfold State.readObjects
  split
  · exact h
  · exact h.loaded

theorem State.MemoryOk.landFirst (h : s.MemoryOk) {i : Instr} : (s.landFirst i).MemoryOk := by
  unfold State.landFirst
  split
  · exact h.landOwn
  · exact h

theorem State.MemoryOk.before (h : s.MemoryOk) {i : Instr} : (s.before i).MemoryOk :=
  h.settleLate.landBefore.voidEarly.readObjects.landFirst

/-! ### Accesses out of their place -/

theorem State.MemoryOk.loadAhead (h : s.MemoryOk) {q loc size elem : Nat} : (s.loadAhead q loc size elem).MemoryOk := by
  unfold State.loadAhead
  simp only []
  split
  · exact h
  · exact h.withCur.setMe.withCur

theorem State.MemoryOk.deferTurn (h : s.MemoryOk) : s.deferTurn.MemoryOk := by
  unfold State.deferTurn
  split
  · simp only []
    split
    · exact h
    · exact h.before.exec.setMe
  · exact h

theorem State.MemoryOk.performLate (h : s.MemoryOk) {e : Late} : (s.performLate e).MemoryOk := by
  unfold State.performLate
  split
  · exact h
  · split
    · exact h.setS
    · exact h.setMe

theorem State.MemoryOk.loadAgain (h : s.MemoryOk) : s.loadAgain.MemoryOk := by
  unfold State.loadAgain
  split
  · exact h
  · exact h.setMe.foldl (fun _ _ hs => hs.performLate) _

/-- What is not seen yet leaves memory as it was. -/
theorem State.MemoryOk.unseeing {t : State} (h : s.MemoryOk) {l : List Unseen} : (t.unseeing s l).MemoryOk := h

theorem State.MemoryOk.holdTurn (h : s.MemoryOk) : s.holdTurn.MemoryOk := by
  unfold State.holdTurn
  split
  · split
    · exact h
    · simp only []
      split
      · split
        · exact h
        · exact (State.MemoryOk.landBefore (State.MemoryOk.unseeing h.before)).exec
      · split
        · exact h
        · split
          · exact h
          · exact State.MemoryOk.unseeing h.before
      · exact h
  · exact h

/-! ### The agenda -/

theorem State.MemoryOk.withAgenda (h : s.MemoryOk) {l : List Agent} : State.MemoryOk { s with agenda := l } := h.of_cells rfl
theorem State.MemoryOk.withTlb (h : s.MemoryOk) {l : List (Nat × Nat × Nat × Nat × List Nat)} : State.MemoryOk { s with mem := { s.mem with tlb := l } } :=
  h.of_cells rfl

theorem State.MemoryOk.mismatchTurn (h : s.MemoryOk) {j : Nat} {column : Bool} : (s.mismatchTurn j column).MemoryOk := by
  unfold State.mismatchTurn
  split
  · split
    · exact h.mismatch
    · exact h
  · exact h

theorem State.MemoryOk.prefetch (h : s.MemoryOk) {q va : Nat} : (s.prefetch q va).MemoryOk := by
  unfold State.prefetch
  simp only []
  split
  · exact h
  · split
    · exact h
    · split
      · exact h
      · exact h.withCur.setMe.withCur

theorem State.MemoryOk.cacheWalk (h : s.MemoryOk) {part va : Nat} : (s.cacheWalk part va).MemoryOk := by
  unfold State.cacheWalk
  split
  · exact h
  · split
    · exact h
    · exact h.withTlb

theorem State.MemoryOk.markMask (h : s.MemoryOk) {q k n : Nat} : (s.markMask q k n).MemoryOk := by
  unfold State.markMask
  split
  · exact h.setSeq
  · exact h

theorem State.MemoryOk.markRow (h : s.MemoryOk) {image r n : Nat} : (s.markRow image r n).MemoryOk := by
  unfold State.markRow
  split
  · exact h.setSole
  · exact h

theorem State.MemoryOk.markSlot (h : s.MemoryOk) {image w n : Nat} : (s.markSlot image w n).MemoryOk := by
  unfold State.markSlot
  simp only []
  split
  · exact h.setSole
  · exact h

theorem State.MemoryOk.refetch (h : s.MemoryOk) {sec : Nat} : (s.refetch sec).MemoryOk := by
  unfold State.refetch
  split
  · exact h.of_cells rfl
  · exact h

theorem State.MemoryOk.happen (h : s.MemoryOk) {a : Agent} : (s.happen a).MemoryOk := by
  cases a with
  | event i => exact h
  | select q =>
    unfold State.happen
    simp only []
    split
    · exact h.withCur
    · exact h
  | tick n => exact h.withClock
  | prefetch q va => exact h.prefetch
  | poisonSector sec => exact h.loseSector
  | poisonReg q v n => exact h.setSeq
  | poisonMask q k n => exact h.markMask
  | poisonRow image r n => exact h.markRow
  | poisonSlot image w n => exact h.markSlot
  | corrected x => exact h.corrected
  | refetch sec => exact h.refetch
  | early q loc size elem => exact h.loadAhead
  | defer q => exact h.withCur.deferTurn.withCur
  | again q => exact h.withCur.loadAgain.withCur
  | hold q => exact h.withCur.holdTurn.withCur
  | land q n => exact h.landNth
  | cache part va => exact h.cacheWalk
  | uncache n => exact h.withTlb
  | engineRead c k => exact h.engineRead
  | engineWrite c k => exact h.engineStep
  | sensor n v => exact h.readSensor
  | mismatch q j column => exact h.withCur.mismatchTurn.withCur

/-! ### The current sequencer's turn -/

/-- What a turn leaves to do keeps the canonical form. -/
def Turn.MemoryOk : Turn → Prop
  | .run _ t => t.MemoryOk
  | .become t => t.MemoryOk

theorem State.MemoryOk.agendaTurn (h : s.MemoryOk) {a : Agent} : (s.agendaTurn a).MemoryOk := by
  unfold State.agendaTurn
  split
  · split
    · exact h
    · exact h
  · simp only [Turn.MemoryOk]
    split
    · exact h.happen
    · exact h

theorem State.MemoryOk.yieldTurn (h : s.MemoryOk) : s.yieldTurn.MemoryOk := h.withWaited

theorem State.MemoryOk.fetchTurn (h : s.MemoryOk) : s.fetchTurn.MemoryOk := by
  unfold State.fetchTurn
  split
  · exact h
  · unfold State.wordTurn
    split
    · exact State.MemoryOk.before h
    · exact h

theorem State.MemoryOk.standardResume (h : s.MemoryOk) : s.standardResume.MemoryOk := h.withClock.returnFromTrap

theorem State.MemoryOk.standardEnd (h : s.MemoryOk) {cause : Nat} : (s.standardEnd cause).MemoryOk := by
  unfold State.standardEnd
  split
  · exact h.yieldTurn
  · exact h.endRecord.withClock

theorem State.MemoryOk.walkTrap (h : s.MemoryOk) : s.walkTrap.MemoryOk := by
  unfold State.walkTrap
  simp only []
  split
  · exact h.walked
  · exact h.walked.walked

theorem State.MemoryOk.standard (h : s.MemoryOk) : s.standard.MemoryOk := by
  have hwin : (s.setMe { s.me with window := false }).MemoryOk := h.setMe
  unfold State.standard
  generalize s.setMe { s.me with window := false } = u at hwin ⊢
  have hwalk : (if u.me.ctl.cause.toNat % 65536 = Cause.tablePoisoned then u.walkTrap else u).MemoryOk := by
    split
    · exact hwin.walkTrap
    · exact hwin
  simp only []
  generalize (if u.me.ctl.cause.toNat % 65536 = Cause.tablePoisoned then u.walkTrap else u) = v at hwalk ⊢
  split
  · split
    · exact hwalk.standardResume
    · split
      · exact hwalk.serviceMap.standardResume
      · exact hwalk.standardEnd
  · split
    · split
      · exact hwalk.yieldTurn
      · exact hwalk.standardResume
    · exact hwalk.standardEnd

theorem State.MemoryOk.barwDue (h : s.MemoryOk) {q : Nat} : (s.barwDue q).MemoryOk :=
  Party.exec (i := .barwTimeout q) rfl _ (Party.exec (i := .barwPhaseReached q) rfl s h)

theorem State.MemoryOk.ownTurn (h : s.MemoryOk) : s.ownTurn.MemoryOk := by
  unfold State.ownTurn
  split
  · split
    · exact h.yieldTurn
    · split
      · exact h.standard
      · exact h.fetchTurn
  · simp only [Turn.MemoryOk]
    split
    · exact Party.exec (i := .pop s.cur) rfl s h
    · exact h.yieldTurn
  · simp only [Turn.MemoryOk]
    split
    · exact h.yieldTurn
    · exact h.barwDue
  · exact State.MemoryOk.yieldTurn (Party.exec (i := .haltedRecordEnd s.cur) rfl s h)
  · exact State.MemoryOk.yieldTurn (Party.exec (i := .doubleFaultRecovery s.cur) rfl s h)
  · exact h.yieldTurn

theorem State.MemoryOk.turn (h : s.MemoryOk) : s.turn.MemoryOk := by
  unfold State.turn
  split
  · exact h.foldl (fun _ _ hs => hs.promptTurn) s.leaders
  · split
    · exact h.withAgenda.agendaTurn
    · split
      · exact h.withClock
      · split
        · exact h.othersTurn
        · exact h.ownTurn

theorem State.MemoryOk.step {t : State} (h : s.MemoryOk) (ht : step s = .next t) : t.MemoryOk := by
  have hturn := h.turn
  unfold Machine.step at ht
  split at ht
  · cases ht
  · split at ht
    · rename_i i u he
      rw [he] at hturn
      exact keepsMemory i u t hturn ht
    · rename_i u he
      rw [he] at hturn
      exact Host.Outcome.next.inj ht ▸ hturn

end

/-! ### Equal memories hold equal lists -/

/-- The first location of a canonical list is the first one that does not read 0. -/
theorem cells_ext {m n : List Host.Cell} {lo : Nat} (hm : wfFrom lo m = true) (hn : wfFrom lo n = true)
    (h : ∀ a, cellGet m a = cellGet n a) : m = n := by
  induction m generalizing lo n with
  | nil =>
    cases n with
    | nil => rfl
    | cons c t =>
      obtain ⟨x, y⟩ := c
      simp only [wfFrom, Bool.and_eq_true, bne_iff_ne] at hn
      have hx := h x
      simp only [cellGet, if_pos] at hx
      exact absurd hx.symm hn.1.2
  | cons c t ih =>
    obtain ⟨x, y⟩ := c
    have hm' := hm
    simp only [wfFrom, Bool.and_eq_true, decide_eq_true_eq, bne_iff_ne] at hm'
    obtain ⟨⟨hlo, hy⟩, ht⟩ := hm'
    cases n with
    | nil =>
      have hx := h x
      simp only [cellGet, if_pos] at hx
      exact absurd hx hy
    | cons d u =>
      obtain ⟨z, w⟩ := d
      have hn' := hn
      simp only [wfFrom, Bool.and_eq_true, decide_eq_true_eq, bne_iff_ne] at hn'
      obtain ⟨⟨-, hw⟩, hu⟩ := hn'
      have hxz : x = z := by
        rcases Nat.lt_trichotomy x z with hlt | heq | hgt
        · have hx := h x
          have hbelow : cellGet ((z, w) :: u) x = 0 := by
            simp only [cellGet, if_neg (Nat.ne_of_gt hlt)]
            exact cellGet_below hu (by omega)
          rw [hbelow] at hx
          simp only [cellGet, if_pos] at hx
          exact absurd hx hy
        · exact heq
        · have hz := h z
          have hbelow : cellGet ((x, y) :: t) z = 0 := by
            simp only [cellGet, if_neg (Nat.ne_of_gt hgt)]
            exact cellGet_below ht (by omega)
          rw [hbelow] at hz
          simp only [cellGet, if_pos] at hz
          exact absurd hz.symm hw
      subst hxz
      have hyw : y = w := by
        have hx := h x
        simpa only [cellGet, if_pos] using hx
      subst hyw
      congr 1
      refine ih ht hu fun a => ?_
      by_cases ha : x = a
      · subst ha
        rw [cellGet_below ht (Nat.lt_succ_self x), cellGet_below hu (Nat.lt_succ_self x)]
      · have hg := h a
        simpa only [cellGet, if_neg ha] using hg

/-- Settles O60: every state function that a turn uses keeps the canonical form, and a canonical list is the list of the locations
that do not read 0. -/
theorem stepKeepsMemory : Obligations.StepKeepsMemory := by
  unfold Obligations.StepKeepsMemory
  exact ⟨fun _ _ h ht => h.step ht, fun _ _ hs ht h => cells_ext hs ht fun a => (h a).symm⟩

end Sys2Proof.Machine

/-!
Numbers in memory: what a run of bytes reads after writes, for the engines, the barriers and the host's accesses.
-/

namespace Sys2Proof.Machine

set_option Elab.async false

/-! ### Numbers and their bytes -/

theorem cellGet_cellsPut {m : List Host.Cell} (a n v c : Nat) (w : Memory.wf m = true) :
    cellGet (cellsPut m a n v) c = if a ≤ c ∧ c < a + n then BitVec.ofNat 8 (v / 256 ^ (c - a)) else cellGet m c := by
  induction n generalizing m a v with
  | zero => rw [cellsPut, if_neg (by omega)]
  | succ n ih =>
    rw [cellsPut, ih _ _ (wf_cellPut _ _ w), cellGet_cellPut _ _ _ w]
    by_cases hc : c = a
    · subst hc
      rw [if_neg (by omega), if_pos rfl, if_pos (by omega)]
      simp
    · by_cases h : a + 1 ≤ c ∧ c < a + 1 + n
      · rw [if_pos h, if_pos (by omega)]
        have : c - a = (c - (a + 1)) + 1 := by omega
        rw [this, Nat.pow_succ, Nat.mul_comm, Nat.div_div_eq_div_mul]
      · rw [if_neg h, if_neg hc, if_neg (by omega)]

/-- A run whose bytes are those of a number reads that number. -/
theorem cellsNat_of_bytes {m : List Host.Cell} {a n v : Nat} (h : ∀ k, k < n → cellGet m (a + k) = BitVec.ofNat 8 (v / 256 ^ k)) :
    cellsNat m a n = v % 2 ^ (8 * n) := by
  induction n generalizing a v with
  | zero => rw [cellsNat, Nat.mul_zero, Nat.pow_zero, Nat.mod_one]
  | succ n ih =>
    have hrest : ∀ k, k < n → cellGet m (a + 1 + k) = BitVec.ofNat 8 (v / 256 / 256 ^ k) := by
      intro k hk
      have hk1 := h (k + 1) (by omega)
      rw [Nat.pow_succ, Nat.mul_comm, ← Nat.div_div_eq_div_mul] at hk1
      rw [show a + 1 + k = a + (k + 1) by omega]
      exact hk1
    have h0 := h 0 (by omega)
    rw [Nat.add_zero, Nat.pow_zero, Nat.div_one] at h0
    rw [cellsNat, h0, ih hrest, BitVec.toNat_ofNat, show 8 * (n + 1) = 8 * n + 8 by omega, Nat.pow_add, Nat.mul_comm (2 ^ (8 * n)),
      Nat.mod_mul]

theorem cellsNat_congr {m l : List Host.Cell} {a n : Nat} (h : ∀ k, k < n → cellGet m (a + k) = cellGet l (a + k)) :
    cellsNat m a n = cellsNat l a n := by
  induction n generalizing a with
  | zero => rfl
  | succ n ih =>
    have hrest : ∀ k, k < n → cellGet m (a + 1 + k) = cellGet l (a + 1 + k) := fun k hk => by
      have := h (k + 1) (by omega)
      rw [show a + 1 + k = a + (k + 1) by omega]
      exact this
    rw [cellsNat, cellsNat, ih hrest]
    congr 2
    exact h 0 (by omega)

theorem cellsNat_div (m : List Host.Cell) (a n j : Nat) (hj : j < n) : cellsNat m a n / 256 ^ j % 256 = (cellGet m (a + j)).toNat := by
  induction n generalizing a j with
  | zero => omega
  | succ n ih =>
    have hb : (cellGet m a).toNat < 256 := (cellGet m a).isLt
    rw [cellsNat]
    cases j with
    | zero =>
      simp only [Nat.pow_zero, Nat.div_one, Nat.add_zero]
      omega
    | succ j =>
      rw [Nat.pow_succ, Nat.mul_comm (256 ^ j), ← Nat.div_div_eq_div_mul,
        show ((cellGet m a).toNat + 256 * cellsNat m (a + 1) n) / 256 = cellsNat m (a + 1) n by omega, ih (a + 1) j (by omega),
        show a + 1 + j = a + (j + 1) by omega]

theorem extract_ofNat (v j : Nat) (hj : j < 32) : (BitVec.ofNat 256 v).extractLsb' (8 * j) 8 = BitVec.ofNat 8 (v / 256 ^ j) := by
  apply BitVec.eq_of_toNat_eq
  rw [BitVec.extractLsb'_toNat, BitVec.toNat_ofNat, BitVec.toNat_ofNat, Nat.shiftRight_eq_div_pow]
  have h256 : (256 : Nat) ^ j = 2 ^ (8 * j) := by rw [Nat.pow_mul]
  have hsplit : (2 : Nat) ^ 256 = 2 ^ (8 * j) * (2 ^ 8 * 2 ^ (256 - 8 * j - 8)) := by
    rw [← Nat.pow_add, ← Nat.pow_add]
    congr 1
    omega
  rw [h256, hsplit, Nat.mod_mul_right_div_self, Nat.mod_mul_right_mod]

/-- Byte j of a sector read from a run of bytes. -/
theorem extract_cellsNat (m : List Host.Cell) (a j : Nat) (hj : j < 32) :
    (BitVec.ofNat 256 (cellsNat m a 32)).extractLsb' (8 * j) 8 = cellGet m (a + j) := by
  rw [extract_ofNat _ _ hj]
  apply BitVec.eq_of_toNat_eq
  rw [BitVec.toNat_ofNat]
  exact cellsNat_div m a 32 j hj

/-! ### Writes -/

theorem State.byte_pokeAs {s : State} (h : s.MemoryOk) (p loc n v c : Nat) :
    (s.pokeAs p loc n v).byte c = if loc ≤ c ∧ c < loc + n then BitVec.ofNat 8 (v / 256 ^ (c - loc)) else s.byte c :=
  cellGet_cellsPut loc n v c h

theorem State.cellsNat_pokeAs {s : State} (h : s.MemoryOk) (p loc n v : Nat) :
    cellsNat (s.pokeAs p loc n v).mem.cells loc n = v % 2 ^ (8 * n) := by
  refine cellsNat_of_bytes fun k hk => ?_
  have hb := State.byte_pokeAs h p loc n v (loc + k)
  rw [if_pos (by omega), Nat.add_sub_cancel_left] at hb
  exact hb

theorem State.pokeAs_sameBytesBut {s : State} (h : s.MemoryOk) (p loc n v : Nat) : SameBytesBut loc n s (s.pokeAs p loc n v) := by
  intro c hc
  rw [State.byte_pokeAs h, if_neg (by omega)]

/-- A number stored within one sector, made visible for party p. -/
def State.putNat (s : State) (p va loc n v : Nat) : State :=
  (bufNat [] va loc n v).foldl (fun s x => s.writeSector p x.1 x.2.en x.2.data) s

section
variable {s : State} {va loc n : Nat}

theorem State.putNat_one (p v : Nat) (hn : 0 < n) (h : loc % 32 + n ≤ 32) :
    ∃ e, bufNat [] va loc n v = [(loc / 32, e)] ∧ s.putNat p va loc n v = s.writeSector p (loc / 32) e.en e.data := by
  obtain ⟨k, rfl⟩ : ∃ k, n = k + 1 := Nat.exists_eq_succ_of_ne_zero (by omega)
  obtain ⟨e, he⟩ := bufNat_one va loc k v h
  refine ⟨e, he, ?_⟩
  unfold State.putNat
  rw [he]
  rfl

theorem State.byte_putNat (hm : s.MemoryOk) (p v c : Nat) (hn : 0 < n) (h : loc % 32 + n ≤ 32)
    (hl : s.liveLine (loc / 32 * 32) = false) :
    (s.putNat p va loc n v).byte c = if loc ≤ c ∧ c < loc + n then BitVec.ofNat 8 (v / 256 ^ (c - loc)) else s.byte c := by
  obtain ⟨e, he, hp⟩ := State.putNat_one (s := s) (va := va) p v hn h
  rw [hp, State.byte_writeSector hm p _ e c hl, ← he, bufGet_bufNat]
  split <;> rfl

theorem State.cellsNat_putNat (hm : s.MemoryOk) (p v : Nat) (hn : 0 < n) (h : loc % 32 + n ≤ 32)
    (hl : s.liveLine (loc / 32 * 32) = false) : cellsNat (s.putNat p va loc n v).mem.cells loc n = v % 2 ^ (8 * n) := by
  refine cellsNat_of_bytes fun k hk => ?_
  have hb := State.byte_putNat (va := va) hm p v (loc + k) hn h hl
  rw [if_pos (by omega), Nat.add_sub_cancel_left] at hb
  exact hb

theorem State.putNat_sameBytesBut (hm : s.MemoryOk) (p v : Nat) (hn : 0 < n) (h : loc % 32 + n ≤ 32)
    (hl : s.liveLine (loc / 32 * 32) = false) : SameBytesBut loc n s (s.putNat p va loc n v) := by
  intro c hc
  rw [State.byte_putNat hm p v c hn h hl, if_neg (by omega)]
end

/-- Sectors made visible change of the sequencers their reservations and loads ahead at the most. -/
theorem State.SameSeqs.writeSector (s : State) (p sec : Nat) (en : BitVec 32) (data : BitVec 256) :
    s.SameSeqs (s.writeSector p sec en data) :=
  ⟨fun q => State.writeSector_seqAt s p sec en data q, State.writeSector_cur ..⟩

theorem State.SameSeqs.putNat (s : State) (p va loc n v : Nat) : s.SameSeqs (s.putNat p va loc n v) := by
  unfold State.putNat
  generalize bufNat [] va loc n v = l
  induction l generalizing s with
  | nil => exact .refl s
  | cons x t ih => exact (State.SameSeqs.writeSector s ..).trans (ih _)

end Sys2Proof.Machine

/-!
Engine instructions at issue (O49).
-/

namespace Sys2Proof.Machine

set_option Elab.async false

/-! ### What the commit of a strip and a load leave of the command that a word has posted -/

theorem State.commitStrip_posted (s : State) : s.commitStrip.me.posted = s.me.posted := by
  cases h : s.me.strip with
  | none =>
    unfold State.commitStrip
    rw [h]
  | some st =>
    have hk : s.me.ButLoads (s.commitSectors st.buf).me := State.commitSectors_me s st.buf
    rw [(State.commitStrip_open h).2, hk]

/-- A load changes of the machine the loads performed ahead at the most. -/
def State.LoadStep (s t : State) : Prop := ∃ l, t = s ∨ t = s.setMe { s.me with early := l }

theorem State.loadedFrom_step (s : State) (f : Nat → Access) (va n : Nat) : s.LoadStep (s.loadedFrom f va n) := by
  unfold State.loadedFrom State.loaded
  split
  · exact ⟨[], .inl rfl⟩
  · exact ⟨_, .inr rfl⟩

theorem andThen_ok {α β : Type} {x : Except Trap α} {k : α → Except Trap β} {b : β} :
    andThen x k = .ok b ↔ ∃ a, x = .ok a ∧ k a = .ok b := by
  cases x with
  | error e => simp [andThen]
  | ok a => simp [andThen]

/-! ### Chunk masks (R269) -/

theorem Seq.clearChunks_masks (m : Seq) (c n : Nat) (k : Fin 8) : (m.clearChunks c n).masks.get k =
    if k.val = c ∧ k.val ≠ 0 then m.masks.get k &&& ~~~(BitVec.ofNat 4096 (2 ^ min n 4096 - 1)) else m.masks.get k := by
  unfold Seq.clearChunks
  by_cases hc : c < 8
  · rw [dif_pos hc]
    by_cases h0 : c = 0
    · rw [if_pos h0, if_neg (by omega)]
    · rw [if_neg h0]
      simp only [Vector.get_eq_getElem, Vector.getElem_set]
      by_cases hk : c = k.val
      · subst hk
        rw [if_pos rfl, if_pos ⟨rfl, h0⟩]
      · rw [if_neg hk, if_neg (by omega)]
  · rw [dif_neg hc, if_neg (by omega)]

theorem Seq.clearChunks_regs (m : Seq) (c n : Nat) : (m.clearChunks c n).regs = m.regs := by
  unfold Seq.clearChunks
  split
  · split <;> rfl
  · rfl

theorem Seq.clearChunks_posted (m : Seq) (c n : Nat) : (m.clearChunks c n).posted = m.posted := by
  unfold Seq.clearChunks
  split
  · split <;> rfl
  · rfl

/-! ### Issue (R266) -/

/-- What issuing a command leaves: the command outstanding under a fresh number, sD pending on it, its chunk bits clear. -/
structure State.Sent (v t : State) (d : Reg) (c : Command) : Prop where
  cmds : t.cmds = SMap.put v.cmds v.fresh.1 c
  pend : d.val ≠ 0 → SMap.find t.me.pend d.val = some (.cmd v.fresh.1)
  regs : t.me.regs = v.me.regs
  mem : t.mem = v.mem
  posted : t.me.posted = v.me.posted
  masks : ∀ k : Fin 8, t.me.masks.get k = if k.val = c.mask ∧ k.val ≠ 0 then
    v.me.masks.get k &&& ~~~(BitVec.ofNat 4096 (2 ^ min (chunkCount c.len) 4096 - 1)) else v.me.masks.get k

theorem State.issueCommand_me (v : State) (d : Reg) (c : Command) :
    let m := v.me.clearChunks c.mask (chunkCount c.len)
    (v.issueCommand d c).me = { m with pend := if d.val = 0 then m.pend else SMap.put m.pend d.val (.cmd v.fresh.1) } :=
  State.me_setMe _ _

theorem State.issueCommand_sent (v : State) (d : Reg) (c : Command) : v.Sent (v.issueCommand d c) d c := by
  refine ⟨rfl, fun hd => ?_, ?_, rfl, ?_, fun k => ?_⟩ <;> rw [State.issueCommand_me]
  · simp only [if_neg hd, SMap.find_put_same]
  · exact Seq.clearChunks_regs ..
  · exact Seq.clearChunks_posted ..
  · exact Seq.clearChunks_masks ..

/-- A command issued after a load is the one issued before it. -/
theorem State.issueCommand_loaded {v w : State} (d : Reg) (c : Command) (h : v.LoadStep w) : v.Sent (w.issueCommand d c) d c := by
  obtain ⟨cmds, pend, regs, mem, posted, masks⟩ := w.issueCommand_sent d c
  obtain ⟨l, rfl | rfl⟩ := h
  · exact ⟨cmds, pend, regs, mem, posted, masks⟩
  · rw [State.me_setMe] at regs posted masks
    exact ⟨cmds, pend, regs, mem, posted, masks⟩

theorem State.freshTable_loaded {v w : State} (c : Command) (h : v.LoadStep w) : w.freshTable c = v.freshTable c := by
  obtain ⟨l, rfl | rfl⟩ := h <;> rfl

section
variable {s : State} {i : Instr} {body : State → Res} {chk : State → Except Trap Command} {go : Command → State → State} {c : Command}

/-- The first turn of a word that issues a command: the check, the commit of an open strip, and the interlocks. -/
theorem command_first (hexec : exec i s = run i body s) (hgo : body s.due = command chk go s.due) (hr : s.Ready i)
    (hp : s.me.posted = none) (hc : chk s.due = .ok c) :
    let v := s.due.commitStrip
    (v.cmdWaits c.mask = true → exec i s = .next { v.setMe { v.me with posted := some c } with waited := true }) ∧
    (v.cmdWaits c.mask = false → exec i s = .next ((go c v).retire i .seq)) := by
  intro v
  have hp' : s.due.me.posted = none := hp
  have hbody : body s.due = if v.cmdWaits c.mask then .wait (v.setMe { v.me with posted := some c }) else .done .seq (go c v) := by
    rw [hgo]
    unfold command
    rw [hp']
    exact closing_ok hc
  refine ⟨fun h => ?_, fun h => ?_⟩ <;> rw [h] at hbody
  · exact hexec.trans (run_wait hr hbody)
  · exact hexec.trans (run_done hr hbody)

/-- A later turn of the word: the interlocks alone. -/
theorem command_again (hexec : exec i s = run i body s) (hgo : body s.due = command chk go s.due) (hr : s.Ready i)
    (hp : s.me.posted = some c) :
    (s.due.cmdWaits c.mask = true → exec i s = .next { s.due with waited := true }) ∧
    (s.due.cmdWaits c.mask = false →
      exec i s = .next ((go c (s.due.setMe { s.due.me with posted := none })).retire i .seq)) := by
  have hp' : s.due.me.posted = some c := hp
  have hbody : body s.due = if s.due.cmdWaits c.mask then .wait s.due
      else .done .seq (go c (s.due.setMe { s.due.me with posted := none })) := by
    rw [hgo]
    unfold command
    rw [hp']
  refine ⟨fun h => ?_, fun h => ?_⟩ <;> rw [h] at hbody
  · exact hexec.trans (run_wait hr hbody)
  · exact hexec.trans (run_done hr hbody)
end

/-- What a word of major 0x38 does with the command that it issues. -/
def copyGo (d : Reg) (va : Nat) (c : Command) (v : State) : State :=
  let w := v.loadedFrom (inPlace · 1) va 32
  if c.len = 0 then w.emptyCommand d c else w.issueCommand d (w.freshTable c)

theorem State.addStream_kept (v : State) (l k : Nat) (bs : List Byte) :
    (v.addStream l k bs).me = v.me ∧ (v.addStream l k bs).cmds = v.cmds ∧ (v.addStream l k bs).mem = v.mem := by
  unfold State.addStream
  split <;> exact ⟨rfl, rfl, rfl⟩

/-- A command of length 0 issues nothing and writes its token (R273). -/
theorem State.emptyCommand_spec {u w : State} {d : Reg} {c : Command} (h : (u.setMe { u.me with posted := none }).LoadStep w) :
    (w.emptyCommand d c).me.posted = none ∧ (w.emptyCommand d c).cmds = u.cmds ∧ (w.emptyCommand d c).mem = u.mem ∧
      (d.val ≠ 0 → (w.emptyCommand d c).sreg d = tokenWord 1 0) := by
  have hw : w.me.posted = none ∧ w.cmds = u.cmds ∧ w.mem = u.mem := by
    obtain ⟨l, rfl | rfl⟩ := h
    · exact ⟨by rw [State.me_setMe], rfl, rfl⟩
    · exact ⟨by rw [State.me_setMe, State.me_setMe], rfl, rfl⟩
  obtain ⟨hme, hcmds, hmem⟩ := w.addStream_kept c.launch c.core []
  have hp : ((w.addStream c.launch c.core []).setS d (tokenWord 1 0)).me.posted = none := by
    rw [State.me_setS, Seq.setS_posted, hme]
    exact hw.1
  have hs (hd : d.val ≠ 0) : ((w.addStream c.launch c.core []).setS d (tokenWord 1 0)).me.sreg d = tokenWord 1 0 := by
    rw [State.me_setS, Seq.sreg_setS, if_pos ⟨rfl, hd⟩]
  unfold State.emptyCommand
  simp only []
  split
  · exact ⟨hp, hcmds.trans hw.2.1, hmem.trans hw.2.2, fun hd => hs hd⟩
  · refine ⟨?_, hcmds.trans hw.2.1, hmem.trans hw.2.2, fun hd => ?_⟩
    · rw [State.me_setMe]
      exact hp
    · unfold State.sreg
      rw [State.me_setMe]
      exact hs hd

section
variable (s : State)
theorem exec_xcopy (f : Eng) : exec (.xcopy f) s = run (.xcopy f) (copyBody .copy f) s := rfl
theorem exec_xcopyz (f : Eng) : exec (.xcopyz f) s = run (.xcopyz f) (copyBody .expand f) s := rfl
theorem exec_xfill (f : Eng) : exec (.xfill f) s = run (.xfill f) (copyBody .fill f) s := rfl
theorem copyBody_eq (op : CopyOp) (f : Eng) : copyBody op f s =
    command (fun u => u.copyCheck op (s.sreg f.a) (s.sreg f.b) f.c.val) (copyGo f.d (s.sreg f.a).toNat) s := rfl

/-- The other words that issue a command: their check, and the command issued as it is. -/
theorem exec_xcoll (f : Eng) : exec (.xcoll f) s = run (.xcoll f) (fun s =>
    command (fun u => u.collCheck (s.sreg f.a) (s.sreg f.b) f.c.val) (fun c u => u.issueCommand f.d c) s) s := rfl
theorem exec_xnote (f : R2) : exec (.xnote f) s = run (.xnote f) (fun s =>
    command (fun u => .ok (u.newCommand (.note (s.sreg f.a)) 0 0 0 0)) (fun c u => u.issueCommand f.d c) s) s := rfl
theorem exec_xgrid (f : R3) : exec (.xgrid f) s = run (.xgrid f) (fun s =>
    command (fun u => andThen (u.gridCheck (s.sreg f.a)) (fun _ => andThen (must (dimsOk (s.sreg f.b).toNat) (badCommand 0)) (fun _ =>
      .ok (u.newCommand (.gridDecl (s.sreg f.a).toNat (s.sreg f.b)) 0 0 0 0)))) (fun c u => u.issueCommand f.d c) s) s := rfl
theorem exec_xquery (f : R3) : exec (.xquery f) s = run (.xquery f) (fun s =>
    command (fun u => andThen (u.gridCheck (s.sreg f.a)) (fun _ => andThen (must (u.answerOk (s.sreg f.b)) (badCommand (s.sreg f.b).toNat))
      (fun _ => .ok (u.newCommand (.query (s.sreg f.a).toNat (s.sreg f.b).toNat) 0 0 0 0)))) (fun c u => u.issueCommand f.d c) s) s := rfl
end

/-! ### The statement's shapes -/

/-- The word answers the command sent. -/
def SentBy (v : State) (i : Instr) (s : State) (d : Reg) (c : Command) : Prop :=
  ∃ (id : Nat) (t : State), exec i s = .next (t.retire i .seq) ∧ v.fresh.1 = id ∧
    t.cmds = SMap.put v.cmds id c ∧ (d.val ≠ 0 → SMap.find t.me.pend d.val = some (.cmd id)) ∧
    t.me.regs = v.me.regs ∧ t.mem = v.mem ∧ t.me.posted = none ∧
    ∀ k : Fin 8, t.me.masks.get k = if k.val = c.mask ∧ k.val ≠ 0 then
      v.me.masks.get k &&& ~~~(BitVec.ofNat 4096 (2 ^ min (chunkCount c.len) 4096 - 1)) else v.me.masks.get k

theorem State.Sent.sentBy {v t s : State} {i : Instr} {d : Reg} {c : Command} (h : v.Sent t d c) (hexec : exec i s = .next (t.retire i .seq))
    (hp : v.me.posted = none) : SentBy v i s d c :=
  ⟨v.fresh.1, t, hexec, rfl, h.cmds, h.pend, h.regs, h.mem, h.posted.trans hp, h.masks⟩

/-- A command issued from the state whose posted command is taken is one issued from the state before. -/
theorem State.Sent.unposted {v t : State} {d : Reg} {c : Command} (h : (v.setMe { v.me with posted := none }).Sent t d c) {i : Instr} {s : State}
    (hexec : exec i s = .next (t.retire i .seq)) : SentBy v i s d c := by
  obtain ⟨cmds, pend, regs, mem, posted, masks⟩ := h
  rw [State.me_setMe] at regs posted masks
  exact ⟨v.fresh.1, t, hexec, rfl, cmds, pend, regs, mem, posted, masks⟩

/-- A word that issues the command of its check as it is. -/
theorem issue_spec {s : State} {i : Instr} {body : State → Res} {chk : State → Except Trap Command} {d : Reg} {c : Command}
    (hexec : exec i s = run i body s) (hgo : body s.due = command chk (fun c u => u.issueCommand d c) s.due) (hr : s.Ready i)
    (hc : chk s.due = .ok c) (hk : s.due.commitStrip.freshTable c = c) :
    let v := s.due.commitStrip
    s.me.posted = none →
    (v.cmdWaits c.mask = true → exec i s = .next { v.setMe { v.me with posted := some c } with waited := true }) ∧
    (v.cmdWaits c.mask = false → SentBy v i s d (v.freshTable c)) := by
  intro v hp
  obtain ⟨h1, h2⟩ := command_first hexec hgo hr hp hc
  refine ⟨h1, fun hw => ?_⟩
  rw [hk]
  exact (v.issueCommand_sent d c).sentBy (h2 hw) ((State.commitStrip_posted _).trans hp)

theorem copyCheck_mask {s : State} {op : CopyOp} {a b : Word} {mask : Nat} {c : Command} (h : s.copyCheck op a b mask = .ok c) :
    c.mask = mask := by
  unfold State.copyCheck at h
  simp only [] at h
  split at h
  · cases h
  · split at h
    · cases h
    · simp only [andThen_ok] at h
      obtain ⟨-, -, -, -, -, -, -, -, -, -, -, -, -, -, -, -, h⟩ := h
      cases h
      rfl

theorem collCheck_kind {s : State} {a b : Word} {mask : Nat} {c : Command} (h : s.collCheck a b mask = .ok c) :
    ∃ p, c.kind = .coll p := by
  unfold State.collCheck at h
  obtain ⟨v, -, h⟩ := andThen_ok.mp h
  simp only [] at h
  split at h
  · cases h
  · simp only [andThen_ok] at h
    obtain ⟨-, -, -, -, -, -, -, -, -, -, h⟩ := h
    cases h
    exact ⟨_, rfl⟩

theorem freshTable_coll {s : State} {c : Command} (h : ∃ p, c.kind = .coll p) : s.freshTable c = c := by
  obtain ⟨p, h⟩ := h
  unfold State.freshTable
  rw [h]

/-- A later turn of a word that issues the command of its check as it is. -/
theorem issue_again {s : State} {i : Instr} {body : State → Res} {chk : State → Except Trap Command} {d : Reg} {c : Command}
    (hexec : exec i s = run i body s) (hgo : body s.due = command chk (fun c u => u.issueCommand d c) s.due) (hr : s.Ready i)
    (hp : s.me.posted = some c) :
    (s.due.cmdWaits c.mask = true → exec i s = .next { s.due with waited := true }) ∧
    (s.due.cmdWaits c.mask = false → SentBy s.due i s d c) := by
  obtain ⟨h1, h2⟩ := command_again hexec hgo hr hp
  exact ⟨h1, fun hw => ((s.due.setMe { s.due.me with posted := none }).issueCommand_sent d c).unposted (h2 hw)⟩

/-! ### The words -/

/-- A word of major 0x38 whose check passes. -/
theorem copy_spec {s : State} {f : Eng} {i : Instr} {op : CopyOp} {c : Command} (hexec : exec i s = run i (copyBody op f) s) (hr : s.Ready i)
    (hc : s.due.copyCheck op (s.sreg f.a) (s.sreg f.b) f.c.val = .ok c) :
    let v := s.due.commitStrip
    (c.len ≠ 0 → s.me.posted = none →
      (v.cmdWaits c.mask = true → exec i s = .next { v.setMe { v.me with posted := some c } with waited := true }) ∧
      (v.cmdWaits c.mask = false → SentBy v i s f.d (v.freshTable c))) ∧
    (c.len = 0 → s.me.posted = none → v.cmdWaits c.mask = false →
      exec i s = .next (((v.loadedFrom (inPlace · 1) (s.sreg f.a).toNat 32).emptyCommand f.d c).retire i .seq)) := by
  intro v
  refine ⟨fun hl hp => ?_, fun hl hp hw => ?_⟩ <;>
    obtain ⟨h1, h2⟩ := command_first hexec (copyBody_eq s.due op f) hr hp hc
  · refine ⟨h1, fun hw => ?_⟩
    have hload := v.loadedFrom_step (inPlace · 1) (s.sreg f.a).toNat 32
    have hsent := State.issueCommand_loaded f.d (v.freshTable c) hload
    refine hsent.sentBy ?_ ((State.commitStrip_posted _).trans hp)
    rw [h2 hw]
    unfold copyGo
    simp only [if_neg hl]
    exact congrArg (fun x => Host.Outcome.next (State.retire i .seq (State.issueCommand _ f.d x))) (State.freshTable_loaded c hload)
  · rw [h2 hw]
    unfold copyGo
    simp only [if_pos hl]
    rfl

/-- A later turn of a word of major 0x38. -/
theorem copy_again {s : State} {f : Eng} {i : Instr} {op : CopyOp} {c : Command} (hexec : exec i s = run i (copyBody op f) s) (hr : s.Ready i)
    (hp : s.me.posted = some c) :
    (s.due.cmdWaits c.mask = true → exec i s = .next { s.due with waited := true }) ∧
    (s.due.cmdWaits c.mask = false →
      (c.len ≠ 0 → SentBy s.due i s f.d (s.due.freshTable c)) ∧
      (c.len = 0 → ∃ t, exec i s = .next (State.retire i .seq t) ∧ t.me.posted = none ∧
        t.cmds = s.cmds ∧ t.mem = s.mem ∧ (f.d.val ≠ 0 → t.sreg f.d = tokenWord 1 0))) := by
  obtain ⟨h1, h2⟩ := command_again hexec (copyBody_eq s.due op f) hr hp
  refine ⟨h1, fun hw => ⟨fun hl => ?_, fun hl => ?_⟩⟩
  all_goals
    have hload := (s.due.setMe { s.due.me with posted := none }).loadedFrom_step (inPlace · 1) (s.sreg f.a).toNat 32
  · refine (State.issueCommand_loaded f.d (s.due.freshTable c) hload).unposted ?_
    rw [h2 hw]
    unfold copyGo
    simp only [if_neg hl]
    have hfresh : ((s.due.setMe { s.due.me with posted := none }).loadedFrom (inPlace · 1) (s.sreg f.a).toNat 32).freshTable c =
        s.due.freshTable c := (State.freshTable_loaded c hload).trans rfl
    exact congrArg (fun x => Host.Outcome.next (State.retire i .seq (State.issueCommand _ f.d x))) hfresh
  · refine ⟨_, h2 hw, ?_⟩
    unfold copyGo
    simp only [if_pos hl]
    exact State.emptyCommand_spec (u := s.due) hload

/-- The turns of the two kinds of word, in the form of the statement. -/
theorem turn_of_copies {A B P Q R : Prop} (h : A ∧ (B → Q ∧ R)) : A ∧ (B → (true = false → P) ∧ (true = true → Q) ∧ (true = true → R)) :=
  ⟨h.1, fun hb => ⟨fun hn => absurd hn (by decide), fun _ => (h.2 hb).1, fun _ => (h.2 hb).2⟩⟩

theorem turn_of_issues {A B P Q R : Prop} (h : A ∧ (B → P)) : A ∧ (B → (false = false → P) ∧ (false = true → Q) ∧ (false = true → R)) :=
  ⟨h.1, fun hb => ⟨fun _ => h.2 hb, fun hn => absurd hn (by decide), fun hn => absurd hn (by decide)⟩⟩

/-- Settles O49: each word is a `command` with its own check. -/
theorem engineIssue : Obligations.EngineIssue := by
  unfold Obligations.EngineIssue
  intro sent issued
  refine ⟨fun s f i op c hi hr hc => ?copies, fun s f c hr hc => ?coll, fun s f hr => ?note, fun s f hg => ⟨fun hr hd => ?grid, fun hr ha => ?query⟩,
    fun s f g h i d copies c hi hr hp => ?again⟩
  case copies =>
    have hexec : exec i s = run i (copyBody op f) s := by
      simp only [List.mem_cons, Prod.mk.injEq, List.not_mem_nil, or_false] at hi
      rcases hi with ⟨rfl, rfl⟩ | ⟨rfl, rfl⟩ | ⟨rfl, rfl⟩
      · exact exec_xcopy s f
      · exact exec_xcopyz s f
      · exact exec_xfill s f
    obtain ⟨h1, h2⟩ := copy_spec hexec hr hc
    have hmask := copyCheck_mask hc
    exact ⟨hmask, h1, fun hl hp hw => h2 hl hp (hmask ▸ hw)⟩
  case coll => exact issue_spec (exec_xcoll s f) rfl hr hc (freshTable_coll (collCheck_kind hc))
  case note => exact issue_spec (exec_xnote s f) rfl hr rfl rfl
  case grid =>
    refine issue_spec (exec_xgrid s f) rfl hr (andThen_ok.mpr ⟨(), hg, andThen_ok.mpr ⟨(), ?_, rfl⟩⟩) rfl
    exact if_pos hd
  case query =>
    refine issue_spec (exec_xquery s f) rfl hr (andThen_ok.mpr ⟨(), hg, andThen_ok.mpr ⟨(), ?_, rfl⟩⟩) rfl
    exact if_pos ha
  case again =>
    simp only [List.mem_cons, Prod.mk.injEq, List.not_mem_nil, or_false] at hi
    rcases hi with ⟨rfl, rfl, rfl⟩ | ⟨rfl, rfl, rfl⟩ | ⟨rfl, rfl, rfl⟩ | hi
    · exact turn_of_copies (copy_again (exec_xcopy s f) hr hp)
    · exact turn_of_copies (copy_again (exec_xcopyz s f) hr hp)
    · exact turn_of_copies (copy_again (exec_xfill s f) hr hp)
    · rcases hi with ⟨rfl, rfl, rfl⟩ | ⟨rfl, rfl, rfl⟩ | ⟨rfl, rfl, rfl⟩ | ⟨rfl, rfl, rfl⟩
      · exact turn_of_issues (issue_again (exec_xcoll s f) rfl hr hp)
      · exact turn_of_issues (issue_again (exec_xnote s g) rfl hr hp)
      · exact turn_of_issues (issue_again (exec_xgrid s h) rfl hr hp)
      · exact turn_of_issues (issue_again (exec_xquery s h) rfl hr hp)

end Sys2Proof.Machine

/-!
The events of engine commands (O50).
-/

namespace Sys2Proof.Machine

set_option Elab.async false

/-! ### A launch that is over, and a command that ends (R267, R277) -/

/-- What settling a launch leaves: the sequencers, the commands, the queue and the partitions; of the device only messages come. -/
structure State.Settled (s t : State) : Prop where
  seqs : t.seqs = s.seqs
  cmds : t.cmds = s.cmds
  cur : t.cur = s.cur
  clock : t.clock = s.clock
  queue : t.queue = s.queue
  parts : t.parts = s.parts
  dev : ∃ l, t.dev = { s.dev with out := s.dev.out ++ l }

theorem State.Settled.of_eq {s t : State} (seqs : t.seqs = s.seqs) (cmds : t.cmds = s.cmds) (cur : t.cur = s.cur)
    (clock : t.clock = s.clock) (queue : t.queue = s.queue) (parts : t.parts = s.parts) (dev : t.dev = s.dev) : s.Settled t :=
  ⟨seqs, cmds, cur, clock, queue, parts, [], by rw [dev, List.append_nil]⟩

theorem State.Settled.refl (s : State) : s.Settled s := .of_eq rfl rfl rfl rfl rfl rfl rfl

theorem State.Settled.trans {s t u : State} (h : s.Settled t) (k : t.Settled u) : s.Settled u := by
  obtain ⟨l, hl⟩ := h.dev
  obtain ⟨m, hm⟩ := k.dev
  refine ⟨k.seqs.trans h.seqs, k.cmds.trans h.cmds, k.cur.trans h.cur, k.clock.trans h.clock, k.queue.trans h.queue,
    k.parts.trans h.parts, l ++ m, ?_⟩
  rw [hm, hl, ← List.append_assoc]

theorem State.Settled.moveImage (s : State) (a b : Nat) : s.Settled (s.moveImage a b) := by
  unfold State.moveImage
  split
  · exact .refl s
  · exact .of_eq rfl rfl rfl rfl rfl rfl rfl

theorem State.Settled.backToOrdinary (s : State) (p u k c : Nat) : s.Settled (s.backToOrdinary p u k c) := by
  unfold State.backToOrdinary
  extract_lets v up x
  have hv : s.Settled v := by
    unfold v
    split
    · exact .refl s
    · exact .moveImage ..
  clear_value v up x
  split
  · exact hv.trans (.of_eq rfl rfl rfl rfl rfl rfl rfl)
  · exact hv.trans (.of_eq rfl rfl rfl rfl rfl rfl rfl)

theorem State.Settled.leaveTenants (s : State) (p k : Nat) : s.Settled (s.leaveTenants p k) := by
  unfold State.leaveTenants
  generalize s.uppers = l
  induction l generalizing s with
  | nil => exact .refl s
  | cons x t ih =>
    refine State.Settled.trans ?_ (ih _)
    obtain ⟨u, up⟩ := x
    simp only []
    split
    · exact .refl s
    · exact .backToOrdinary ..

theorem State.Settled.settle (s : State) (k : Nat) : s.Settled (s.settle k) := by
  unfold State.settle
  split
  · exact .refl s
  · extract_lets l v w
    have hv : s.Settled v := by
      unfold v
      split
      · exact ⟨rfl, rfl, rfl, rfl, rfl, rfl, _, rfl⟩
      · exact .refl s
    have hw : v.Settled w := .of_eq rfl rfl rfl rfl rfl rfl rfl
    exact (hv.trans hw).trans (State.Settled.leaveTenants ..)

theorem State.addStream_seqs (s : State) (l k : Nat) (bs : List Byte) :
    (s.addStream l k bs).seqs = s.seqs ∧ (s.addStream l k bs).cmds = s.cmds ∧ (s.addStream l k bs).dev = s.dev := by
  unfold State.addStream
  split <;> exact ⟨rfl, rfl, rfl⟩

theorem SMap.find_del {α : Type} {m : SMap α} (h : m.Rising) (k j : Nat) :
    SMap.find (SMap.del m k) j = if k = j then none else SMap.find m j := by
  induction m with
  | nil => simp [SMap.del]
  | cons x t ih =>
    obtain ⟨i, v⟩ := x
    obtain ⟨hx, ht⟩ := List.pairwise_cons.mp h
    rw [SMap.del]
    by_cases hi : i = k
    · subst hi
      rw [if_pos rfl, SMap.find]
      by_cases hj : i = j
      · subst hj
        rw [if_pos rfl]
        exact SMap.find_eq_none fun w hw => Nat.lt_irrefl _ (hx (i, w) hw)
      · rw [if_neg hj, if_neg hj]
    · rw [if_neg hi, SMap.find, SMap.find, ih ht]
      by_cases hj : i = j
      · subst hj
        rw [if_pos rfl, if_pos rfl, if_neg (Ne.symm hi)]
      · rw [if_neg hj, if_neg hj]

theorem SMap.mem_of_find {α : Type} {m : SMap α} {k : Nat} {v : α} (h : SMap.find m k = some v) : (k, v) ∈ m := by
  induction m with
  | nil => cases h
  | cons x t ih =>
    obtain ⟨j, u⟩ := x
    rw [SMap.find] at h
    split at h
    · cases h
      subst_vars
      exact List.mem_cons_self
    · exact List.mem_cons_of_mem _ (ih h)

/-! ### Tokens that arrive (R213) -/

theorem putRegs_get (regs : Vector Word 32) (rs : List Nat) (v : Word) (r : Reg) (hr : r.val ≠ 0) :
    (putRegs regs rs v).get r = if r.val ∈ rs then v else regs.get r := by
  unfold putRegs
  induction rs generalizing regs with
  | nil => simp
  | cons k t ih =>
    rw [List.foldl_cons, ih]
    by_cases hk : k = r.val
    · subst hk
      simp only [r.isLt, dif_pos, if_neg hr, List.mem_cons, true_or, if_true, Vector.get_eq_getElem, Vector.getElem_set_self, ite_self]
    · have hne : ∀ (h : k < 32), (regs.set k v h).get r = regs.get r := fun h => by
        simp only [Vector.get_eq_getElem, Vector.getElem_set, if_neg hk]
      simp only [List.mem_cons, Ne.symm hk, false_or]
      split
      · rfl
      · split
        · split
          · rfl
          · exact hne _
        · rfl

theorem State.seqAt_deliver (s : State) (tok : Tok) (v : Word) (q : Nat) : (s.deliver tok v).seqAt q = (s.seqAt q).deliver tok v := by
  have hf := SMap.find_mapVal s.seqs (fun _ m => m.deliver tok v) q
  have hs : (s.deliver tok v).seqAt q = (SMap.find (s.seqs.map fun x => (x.1, x.2.deliver tok v)) q).getD Seq.reset := rfl
  rw [hs, hf]
  unfold State.seqAt
  cases SMap.find s.seqs q with
  | none => rfl
  | some m => rfl

theorem Seq.deliver_regs {m : Seq} {tok : Tok} {r : Reg} (hr : r.val ≠ 0) (h : SMap.find m.pend r.val = some tok) (v : Word) :
    (m.deliver tok v).regs.get r = v := by
  have hmem : r.val ∈ tokRegs m.pend tok := by
    unfold tokRegs
    rw [List.mem_map]
    exact ⟨(r.val, tok), List.mem_filter.mpr ⟨SMap.mem_of_find h, by simp⟩, rfl⟩
  have hd : (m.deliver tok v).regs = putRegs m.regs (tokRegs m.pend tok) v := rfl
  rw [hd, putRegs_get _ _ _ _ hr, if_pos hmem]

theorem Seq.deliver_pend (m : Seq) (tok : Tok) (v : Word) : ∀ x ∈ (m.deliver tok v).pend, x.2 ≠ tok := by
  intro x hx
  have hd : (m.deliver tok v).pend = m.pend.filter (fun x => x.2 ≠ tok) := rfl
  rw [hd] at hx
  simpa using (List.mem_filter.mp hx).2

/-- What the end of a command leaves of the sequencers, the commands and the device. -/
theorem State.endCommand_spec (s : State) (id st d : Nat) (c : Command) :
    (∀ q, (s.endCommand id c st d).seqAt q = (s.seqAt q).deliver (.cmd id) (tokenWord st d)) ∧
    (s.endCommand id c st d).cmds = SMap.del s.cmds id ∧
    (∃ l, (s.endCommand id c st d).dev = { s.dev with out := s.dev.out ++ l }) := by
  unfold State.endCommand
  extract_lets v
  obtain ⟨hseqs, hcmds, hdev⟩ := State.addStream_seqs { s with cmds := SMap.del s.cmds id } c.launch c.core c.entries
  have hset := State.Settled.settle (v.deliver (.cmd id) (tokenWord st d)) c.launch
  refine ⟨fun q => ?_, hset.cmds.trans hcmds, ?_⟩
  · have hq : ((v.deliver (.cmd id) (tokenWord st d)).settle c.launch).seqAt q = (v.deliver (.cmd id) (tokenWord st d)).seqAt q := by
      unfold State.seqAt
      rw [hset.seqs]
    rw [hq, State.seqAt_deliver]
    unfold State.seqAt
    rw [show v.seqs = s.seqs from hseqs]
  · obtain ⟨l, hl⟩ := hset.dev
    exact ⟨l, hl.trans (by rw [show (v.deliver (.cmd id) (tokenWord st d)).dev = s.dev from hdev])⟩

end Sys2Proof.Machine

/-!
The events of engine commands (O50), continued: sectors, chunks and the objects of work queries.
-/

namespace Sys2Proof.Machine

set_option Elab.async false

/-! ### Sectors that a command moves (R273) -/

theorem mem_insertNat (l : List Nat) (n k : Nat) : k ∈ insertNat l n ↔ k = n ∨ k ∈ l := by
  induction l with
  | nil => simp [insertNat]
  | cons x t ih =>
    unfold insertNat
    split
    · simp
    · split
      · subst_vars
        simp
      · rw [List.mem_cons, ih, List.mem_cons]
        tauto

theorem State.writeSector_live {s : State} {sec : Nat} (h : s.liveLine (sec * 32) = false) (p : Nat) (data : BitVec 256) :
    (s.writeSector p sec (BitVec.allOnes 32) data).mem.poison = s.mem.poison.filter (· != sec) := by
  unfold State.writeSector
  rw [if_neg (by rw [h]; decide)]
  simp only [if_true]

/-- Byte j of a sector written whole. -/
theorem State.byte_writeSector_whole {s : State} (hm : s.MemoryOk) {b : Nat} (hb : b % 32 = 0) (hl : s.liveLine (b / 32 * 32) = false)
    (p : Nat) (data : BitVec 256) (x : Nat) : (s.writeSector p (b / 32) (BitVec.allOnes 32) data).byte x =
      if b ≤ x ∧ x < b + 32 then data.extractLsb' (8 * (x - b)) 8 else s.byte x := by
  have hbyte := State.byte_writeSector hm p (b / 32) ⟨0, BitVec.allOnes 32, data⟩ x hl
  rw [hbyte]
  unfold bufGet
  rw [SMap.find, SMap.find_nil]
  by_cases hx : b / 32 = x / 32
  · have h1 : x % 32 = x - b := by omega
    have hen : (BitVec.allOnes 32).getLsbD (x - b) = true := by
      rw [BitVec.getLsbD_allOnes]
      exact decide_eq_true (by omega)
    rw [if_pos hx, if_pos (by omega)]
    simp only [h1, hen, if_true, Option.getD_some]
  · rw [if_neg hx, if_neg (by omega)]
    rfl

/-- A whole sector written by a command, marked when its data are. -/
theorem State.writeDest_whole {s : State} {c : Command} {va b : Nat} (hm : s.MemoryOk) (hloc : s.engineLoc c.ctx .store va = .ok b)
    (hb : b % 32 = 0) (hl : s.liveLine b = false) (data : BitVec 256) (marked : Bool) :
    ∃ (t : State) (d : Command), s.writeDest c va (BitVec.allOnes 32) data marked = .ok (t, d) ∧
      (∀ j, j < 32 → t.byte (b + j) = data.extractLsb' (8 * j) 8) ∧ t.poisoned b = marked ∧ SameBytesBut b 32 s t := by
  have hl' : s.liveLine (b / 32 * 32) = false := by
    rw [show b / 32 * 32 = b by omega]
    exact hl
  unfold State.writeDest
  rw [hloc]
  simp only [hl, Bool.not_false, Bool.and_true]
  have hbyte := State.byte_writeSector_whole hm hb hl' (engineParty c.seq) data
  have hpois := State.writeSector_live hl' (engineParty c.seq) data
  generalize s.writeSector (engineParty c.seq) (b / 32) (BitVec.allOnes 32) data = v at *
  have hj (j : Nat) (h : j < 32) : v.byte (b + j) = data.extractLsb' (8 * j) 8 := by
    rw [hbyte, if_pos (by omega), Nat.add_sub_cancel_left]
  have hrest : SameBytesBut b 32 s v := fun x hx => by rw [hbyte, if_neg (by omega)]
  refine ⟨_, _, rfl, ?_⟩
  cases marked with
  | false =>
    refine ⟨hj, ?_, hrest⟩
    simp only [Bool.false_eq_true, if_false, State.poisoned, hpois, List.contains_eq_mem, List.mem_filter, bne_self_eq_false, and_false,
      decide_false]
  | true =>
    refine ⟨hj, ?_, hrest⟩
    simp only [if_true, State.poisoned, State.markSector, List.contains_eq_mem, mem_insertNat, true_or, decide_true]

theorem fillSector_byte (p : Word) (j : Nat) (hj : j < 32) : (fillSector p).extractLsb' (8 * j) 8 = p.extractLsb' (8 * (j % 8)) 8 := by
  apply BitVec.eq_of_getLsbD_eq
  intro i hi
  unfold fillSector
  simp only [BitVec.getLsbD_extractLsb', hi, decide_true, Bool.true_and, BitVec.getLsbD_append]
  have h : 8 * j + i < 64 ∨ 64 ≤ 8 * j + i ∧ 8 * j + i < 128 ∨ 128 ≤ 8 * j + i ∧ 8 * j + i < 192 ∨ 192 ≤ 8 * j + i ∧ 8 * j + i < 256 := by omega
  rcases h with h | ⟨h1, h2⟩ | ⟨h1, h2⟩ | ⟨h1, h2⟩
  · simp only [h, show 8 * (j % 8) + i = 8 * j + i by omega, if_pos]
  · simp only [show ¬ 8 * j + i < 64 by omega, show 8 * j + i - 64 < 64 by omega, if_true, if_false, show 8 * (j % 8) + i = 8 * j + i - 64 by omega]
  · simp only [show ¬ 8 * j + i < 64 by omega, show ¬ 8 * j + i - 64 < 64 by omega, show 8 * j + i - 64 - 64 < 64 by omega, if_true, if_false,
      show 8 * (j % 8) + i = 8 * j + i - 64 - 64 by omega]
  · simp only [show ¬ 8 * j + i < 64 by omega, show ¬ 8 * j + i - 64 < 64 by omega, show ¬ 8 * j + i - 64 - 64 < 64 by omega, if_false,
      show 8 * (j % 8) + i = 8 * j + i - 64 - 64 - 64 by omega]

/-- A sector copied and a sector filled (R273). -/
theorem moveSector_spec (s : State) (c : Command) (k b : Nat) (hm : s.MemoryOk)
    (hloc : s.engineLoc c.ctx .store (c.dst + 32 * k) = .ok b) (hb : b % 32 = 0) (hl : s.liveLine b = false) :
    (∀ src a, c.kind = .copy src → SMap.find c.held k = none → s.engineLoc c.ctx .load (src + 32 * k) = .ok a →
      ∃ (t : State) (d : Command), s.moveSector c k = .ok (t, d) ∧ (∀ j, j < 32 → t.byte (b + j) = s.byte (a + j)) ∧
        t.poisoned b = s.poisoned a ∧ SameBytesBut b 32 s t) ∧
    (∀ p, c.kind = .fill p →
      ∃ (t : State) (d : Command), s.moveSector c k = .ok (t, d) ∧
        (∀ j, j < 32 → t.byte (b + j) = p.extractLsb' (8 * (j % 8)) 8) ∧ t.poisoned b = false ∧ SameBytesBut b 32 s t) := by
  refine ⟨fun src a hk hh ha => ?_, fun p hk => ?_⟩
  · obtain ⟨t, d, ht, hbyte, hpois, hrest⟩ := State.writeDest_whole hm hloc hb hl (BitVec.ofNat 256 (cellsNat s.mem.cells a 32)) (s.poisoned a)
    refine ⟨t, d, ?_, fun j hj => (hbyte j hj).trans (extract_cellsNat _ _ _ hj), hpois, hrest⟩
    unfold State.moveSector State.readSector
    simp only [hk, hh, ha]
    exact ht
  · obtain ⟨t, d, ht, hbyte, hpois, hrest⟩ := State.writeDest_whole hm hloc hb hl (fillSector p) false
    refine ⟨t, d, ?_, fun j hj => (hbyte j hj).trans (fillSector_byte p j hj), hpois, hrest⟩
    unfold State.moveSector
    simp only [hk]
    exact ht

/-! ### Chunks that are done, and their deliveries (R269, R270) -/

theorem Seq.setChunk_masks (m : Seq) (c j : Nat) (k : Fin 8) : (m.setChunk c j).masks.get k =
    if k.val = c ∧ k.val ≠ 0 then m.masks.get k ||| ((1 : BitVec 4096) <<< j) else m.masks.get k := by
  unfold Seq.setChunk
  by_cases hc : c < 8
  · rw [dif_pos hc]
    by_cases h0 : c = 0
    · rw [if_pos h0, if_neg (by omega)]
    · rw [if_neg h0]
      simp only [Vector.get_eq_getElem, Vector.getElem_set]
      by_cases hk : c = k.val
      · subst hk
        rw [if_pos rfl, if_pos ⟨rfl, h0⟩]
      · rw [if_neg hk, if_neg (by omega)]
  · rw [dif_neg hc, if_neg (by omega)]

/-- An object reads the 16 bytes it is packed in and no more. -/
theorem BarObj.of_mod (v : Nat) : BarObj.of (v % 2 ^ 128) = BarObj.of v := by
  unfold BarObj.of
  have h0 : v % 2 ^ 128 % 65536 = v % 65536 := by omega
  have h1 : v % 2 ^ 128 / 65536 % 65536 = v / 65536 % 65536 := by omega
  have h2 : v % 2 ^ 128 / 2 ^ 32 % 65536 = v / 2 ^ 32 % 65536 := by omega
  have h3 : v % 2 ^ 128 / 2 ^ 48 % 65536 = v / 2 ^ 48 % 65536 := by omega
  have h4 : v % 2 ^ 128 / 2 ^ 64 % 4294967296 = v / 2 ^ 64 % 4294967296 := by omega
  have h5 : v % 2 ^ 128 / 2 ^ 96 % 536870912 = v / 2 ^ 96 % 536870912 := by omega
  have h6 : v % 2 ^ 128 / 2 ^ 125 % 2 = v / 2 ^ 125 % 2 := by omega
  have h7 : v % 2 ^ 128 / 2 ^ 126 % 2 = v / 2 ^ 126 % 2 := by omega
  have h8 : v % 2 ^ 128 / 2 ^ 127 % 2 = v / 2 ^ 127 % 2 := by omega
  simp only [h0, h1, h2, h3, h4, h5, h6, h7, h8]

theorem deliverBar_ok {s : State} {c : Command} {n loc : Nat} (h0 : c.bar ≠ 0) (hr : s.resolve c.ctx .both c.bar = .ok loc)
    (hp : s.poisoned loc = false) (hb : (s.barAt loc).bad = false) :
    s.deliverBar c n = .ok (s.putNat (engineParty c.seq) c.bar loc 16 ((s.barAt loc).deliver n).pack) := by
  have hmap : s.mapFirst c.ctx .both c.bar = s := by
    unfold State.mapFirst
    rw [hr]
  unfold State.deliverBar
  rw [if_neg h0]
  simp only [hmap, hr, hp, hb, Bool.false_eq_true, if_false]
  rfl

/-- A command with one more chunk done. -/
def Command.after (c : Command) (j : Nat) : Command := { c with chunks := c.chunks ++ [j], stalled := false }

/-- The chunk's bit is set before its bytes are delivered. -/
def State.chunkSet (s : State) (c : Command) (j : Nat) : State := s.setSeq c.seq ((s.seqAt c.seq).setChunk c.mask j)

theorem finishChunk_ok {s w : State} {id j : Nat} {c : Command}
    (h : (s.chunkSet c j).deliverBar (c.after j) (c.chunkBytes j) = .ok w) :
    s.finishChunk id c j = { w with cmds := SMap.put w.cmds id (c.after j) } := by
  unfold State.finishChunk
  extract_lets d v
  have hw : v.deliverBar d (d.chunkBytes j) = .ok w := h
  simp only [hw]
  rfl

theorem State.chunkSet_masks (s : State) (c : Command) (j : Nat) (k : Fin 8) : ((s.chunkSet c j).seqAt c.seq).masks.get k =
    if k.val = c.mask ∧ k.val ≠ 0 then (s.seqAt c.seq).masks.get k ||| ((1 : BitVec 4096) <<< j) else (s.seqAt c.seq).masks.get k := by
  unfold State.chunkSet
  rw [State.seqAt_setSeq, Seq.setChunk_masks]

/-- A chunk that is done (R269, R270). -/
theorem finishChunk_spec (s : State) (id j : Nat) (c : Command) :
    let t := s.finishChunk id c j
    let mark (k : Fin 8) : BitVec 4096 :=
      if k.val = c.mask ∧ k.val ≠ 0 then (s.seqAt c.seq).masks.get k ||| ((1 : BitVec 4096) <<< j)
      else (s.seqAt c.seq).masks.get k
    (c.bar = 0 → t.cmds = SMap.put s.cmds id { c with chunks := c.chunks ++ [j], stalled := false } ∧
      ∀ k : Fin 8, (t.seqAt c.seq).masks.get k = mark k) ∧
    (∀ loc, c.bar ≠ 0 → s.MemoryOk → s.resolve c.ctx .both c.bar = .ok loc → loc % 16 = 0 →
      s.liveLine (loc / 32 * 32) = false →
      s.poisoned loc = false → (s.barAt loc).bad = false →
      t.barAt loc = BarObj.of ((s.barAt loc).deliver (c.chunkBytes j)).pack ∧ SameBytesBut loc 16 s t ∧
      ∀ k : Fin 8, (t.seqAt c.seq).masks.get k = mark k) := by
  intro t mark
  refine ⟨fun h0 => ?_, fun loc h0 hm hr ha hl hp hb => ?_⟩
  · have hd : (s.chunkSet c j).deliverBar (c.after j) (c.chunkBytes j) = .ok (s.chunkSet c j) := if_pos h0
    have ht : t = _ := finishChunk_ok hd
    rw [ht]
    exact ⟨rfl, s.chunkSet_masks c j⟩
  · have hd := deliverBar_ok (s := s.chunkSet c j) (c := c.after j) (n := c.chunkBytes j) h0 hr hp hb
    have ht : t = _ := finishChunk_ok hd
    have hvm : (s.chunkSet c j).MemoryOk := hm
    have hvl : (s.chunkSet c j).liveLine (loc / 32 * 32) = false := hl
    have hbar : (s.chunkSet c j).barAt loc = s.barAt loc := rfl
    rw [hbar] at ht
    have hn := State.cellsNat_putNat (va := (c.after j).bar) hvm (engineParty (c.after j).seq) ((s.barAt loc).deliver (c.chunkBytes j)).pack
      (by decide : 0 < 16) (by omega : loc % 32 + 16 ≤ 32) hvl
    have hbytes := State.putNat_sameBytesBut (va := (c.after j).bar) hvm (engineParty (c.after j).seq)
      ((s.barAt loc).deliver (c.chunkBytes j)).pack (by decide : 0 < 16) (by omega : loc % 32 + 16 ≤ 32) hvl
    have hs := (State.SameSeqs.putNat (s.chunkSet c j) (engineParty (c.after j).seq) (c.after j).bar loc 16
      ((s.barAt loc).deliver (c.chunkBytes j)).pack).1 c.seq
    generalize (s.chunkSet c j).putNat (engineParty (c.after j).seq) (c.after j).bar loc 16
      ((s.barAt loc).deliver (c.chunkBytes j)).pack = w at *
    rw [ht]
    refine ⟨?_, hbytes, fun k => ?_⟩
    · exact (congrArg BarObj.of hn).trans (BarObj.of_mod _)
    · have hmask : (w.seqAt c.seq).masks = ((s.chunkSet c j).seqAt c.seq).masks := by rw [hs]
      exact (congrArg (·.get k) hmask).trans (s.chunkSet_masks c j k)

/-! ### Coordinates (R278) -/

theorem coordinate_spec (v i : Nat) (hv : dimsOk v = true) (hi : i < gridTotal v) :
    let n (k : Nat) : Nat := v / 65536 ^ k % 65536
    let x (k : Nat) : Nat := coordinate v i / 65536 ^ k % 65536
    x 0 < n 0 ∧ x 1 < n 1 ∧ x 2 < n 2 ∧ coordinate v i < 2 ^ 48 ∧ i = x 0 + n 0 * (x 1 + n 1 * x 2) := by
  intro n x
  simp only [dimsOk, Bool.and_eq_true, decide_eq_true_eq, bne_iff_ne, ne_eq] at hv
  obtain ⟨⟨⟨h48, h0⟩, h1⟩, h2⟩ := hv
  have hn0 : n 0 = v % 65536 := by simp [n]
  have hn1 : n 1 = v / 65536 % 65536 := by simp [n]
  have hn2 : n 2 = v / 2 ^ 32 % 65536 := by simp [n]
  have hpos0 : 0 < n 0 := by omega
  have hpos1 : 0 < n 1 := by omega
  have hlt (k : Nat) : n k < 65536 := Nat.mod_lt _ (by decide)
  have hc : coordinate v i = i % n 0 + i / n 0 % n 1 * 65536 + i / (n 0 * n 1) * 2 ^ 32 := by
    unfold coordinate
    rw [hn0, hn1]
  have ha : i % n 0 < n 0 := Nat.mod_lt _ hpos0
  have hb : i / n 0 % n 1 < n 1 := Nat.mod_lt _ hpos1
  have hd : i / (n 0 * n 1) < n 2 := by
    rw [Nat.div_lt_iff_lt_mul (Nat.mul_pos hpos0 hpos1), Nat.mul_comm (n 2)]
    have hg : gridTotal v = n 0 * n 1 * n 2 := by rw [hn0, hn1, hn2]; rfl
    rwa [← hg]
  have hi' : i = i % n 0 + n 0 * (i / n 0 % n 1 + n 1 * (i / (n 0 * n 1))) := by
    rw [← Nat.div_div_eq_div_mul, Nat.mod_add_div, Nat.mod_add_div]
  have := hlt 0
  have := hlt 1
  have := hlt 2
  have hx0 : x 0 = i % n 0 := by
    simp only [x, hc, Nat.pow_zero, Nat.div_one]
    omega
  have hx1 : x 1 = i / n 0 % n 1 := by
    simp only [x, hc, Nat.pow_one]
    omega
  have hx2 : x 2 = i / (n 0 * n 1) := by
    simp only [x, hc, show (65536 : Nat) ^ 2 = 4294967296 by decide]
    omega
  rw [hx0, hx1, hx2]
  exact ⟨ha, hb, hd, by rw [hc]; omega, hi'⟩

/-! ### The events -/

section
variable (s : State) (id j : Nat)
theorem exec_engineChunkComplete : exec (.engineChunkComplete id j) s = execEngineChunkComplete id j s := rfl
theorem exec_engineCommandComplete : exec (.engineCommandComplete id) s = execEngineCommandComplete id s := rfl
theorem exec_engineCommandFail : exec (.engineCommandFail id) s = execEngineCommandFail id s := rfl
theorem exec_translationStallResolved : exec (.translationStallResolved id) s = execTranslationStallResolved id s := rfl
theorem exec_xgridDeclare : exec (.xgridDeclare id) s = execXgridDeclare id s := rfl
theorem exec_xqueryAnswer : exec (.xqueryAnswer id) s = execXqueryAnswer id s := rfl
end

theorem engineEvent_absent (s : State) (id j : Nat) (i : Instr) (h : SMap.find s.cmds id = none)
    (hi : i ∈ [Instr.engineChunkComplete id j, .engineCommandComplete id, .engineCommandFail id, .translationStallResolved id,
      .xgridDeclare id, .xqueryAnswer id]) : exec i s = .next s := by
  simp only [List.mem_cons, List.not_mem_nil, or_false] at hi
  rcases hi with rfl | rfl | rfl | rfl | rfl | rfl
  · rw [exec_engineChunkComplete, execEngineChunkComplete, h]
  · rw [exec_engineCommandComplete, execEngineCommandComplete, h]
  · rw [exec_engineCommandFail, execEngineCommandFail, h]
  · rw [exec_translationStallResolved, execTranslationStallResolved, h]
  · rw [exec_xgridDeclare, execXgridDeclare, h]
  · rw [exec_xqueryAnswer, execXqueryAnswer, h]

section
variable {s : State} {id j : Nat} {c : Command}

/-- A chunk that can be worked on (R269). -/
theorem engineChunk_work (h : SMap.find s.cmds id = some c) (hm : c.kind.moves = true) (hj : j < chunkCount c.len)
    (hc : c.chunks.contains j = false) (hb : s.barHeld c = false) : exec (.engineChunkComplete id j) s =
      match (s.chunkWork c j).stop with
      | none => .next ((s.chunkWork c j).s.finishChunk id (s.chunkWork c j).c j)
      | some (.stall part va) =>
        if part < 16 ∧ s.canMap part va then .next { s with cmds := SMap.put s.cmds id { c with stalled := true } } else .next s
      | some _ => .next s := by
  have hcond : (!c.kind.moves || decide (chunkCount c.len ≤ j) || c.chunks.contains j || s.barHeld c) = false := by
    rw [hm, hc, hb, decide_eq_false (Nat.not_le.mpr hj)]
    rfl
  rw [exec_engineChunkComplete, execEngineChunkComplete, h]
  simp only [hcond, Bool.false_eq_true, if_false] <;> rfl

theorem engineChunk_spec (h : SMap.find s.cmds id = some c) (hm : c.kind.moves = true) :
    (s.barHeld c = true → exec (.engineChunkComplete id j) s = .next s) ∧
    (j < chunkCount c.len → c.chunks.contains j = false → s.barHeld c = false →
      let r := s.chunkWork c j
      (r.stop = none → exec (.engineChunkComplete id j) s = .next (r.s.finishChunk id r.c j)) ∧
      (∀ part va, r.stop = some (.stall part va) → part < 16 → s.canMap part va = true →
        exec (.engineChunkComplete id j) s = .next { s with cmds := SMap.put s.cmds id { c with stalled := true } }) ∧
      (r.stop = some .hold → exec (.engineChunkComplete id j) s = .next s) ∧
      (∀ st d page, r.stop = some (.fail st d page) → exec (.engineChunkComplete id j) s = .next s)) := by
  refine ⟨fun hb => ?_, fun hj hc hb => ?_⟩
  · rw [exec_engineChunkComplete, execEngineChunkComplete, h]
    simp only [hb, Bool.or_true, if_true]
  · intro r
    have hw := engineChunk_work h hm hj hc hb
    refine ⟨fun hs => ?_, fun part va hs hp hmap => ?_, fun hs => ?_, fun st d page hs => ?_⟩ <;>
      simp only [show (s.chunkWork c j).stop = _ from hs] at hw
    · exact hw
    · rw [hw, if_pos ⟨hp, hmap⟩]
    · exact hw
    · exact hw

theorem engineComplete_done (h : SMap.find s.cmds id = some c) (hm : c.kind.moves = true) (hc : c.chunks.length = chunkCount c.len) :
    exec (.engineCommandComplete id) s = .next (s.endCommand id c 1 c.detail) := by
  have hcond : (c.kind.moves && c.chunks.length == chunkCount c.len) = true := by
    rw [hm, hc, beq_self_eq_true]
    rfl
  rw [exec_engineCommandComplete, execEngineCommandComplete, h]
  simp only []
  split
  · rename_i v hk
    rw [hk] at hm
    cases hm
  · rw [if_pos hcond]

theorem engineFail_spec (h : SMap.find s.cmds id = some c) :
    (∀ u e st d, s.failing c = some (u, e, st, d) → exec (.engineCommandFail id) s =
      .next (u.endCommand id e st (d.getD (if e.kind.moves then e.failOffset else 0)))) ∧
    (s.failing c = none → exec (.engineCommandFail id) s = .next s) := by
  rw [exec_engineCommandFail, execEngineCommandFail, h]
  refine ⟨fun u e st d hf => ?_, fun hf => ?_⟩ <;> simp only [hf]

theorem stall_spec (h : SMap.find s.cmds id = some c) :
    (c.stalled = false → exec (.translationStallResolved id) s = .next s) ∧
    (c.stalled = true → ∃ t : State, exec (.translationStallResolved id) s = .next t ∧
      SMap.find t.cmds id = some { c with stalled := false } ∧
      ∀ part va, s.stallPage c = some (part, va) → t.mem = (s.serviceMap part va).mem) := by
  rw [exec_translationStallResolved, execTranslationStallResolved, h]
  refine ⟨fun hs => ?_, fun hs => ?_⟩
  · simp only [hs, Bool.not_false, if_true]
  · simp only [hs, Bool.not_true, Bool.false_eq_true, if_false]
    refine ⟨_, rfl, SMap.find_put_same .., fun part va hp => ?_⟩
    simp only [hp]

/-- A note leaves the device after the older notes of its sequencer (R353). -/
theorem note_spec {v : Word} (h : SMap.find s.cmds id = some c) (hk : c.kind = .note v) :
    (s.olderNote id c = true → exec (.engineCommandComplete id) s = .next s) ∧
    (s.olderNote id c = false → ∃ t : State, exec (.engineCommandComplete id) s = .next t ∧
      ∃ (m : Msg) (l : List Msg), t.dev.out = s.dev.out ++ m :: l ∧ m.type = 0x50 ∧ m.ep = (s.launchAt c.launch).hdr.ep ∧
        m.tag = (s.launchAt c.launch).hdr.tag ∧ m.body = bytesOf v.toNat 8 ++ bytesOf c.wid.toNat 8) := by
  rw [exec_engineCommandComplete, execEngineCommandComplete, h]
  simp only [hk]
  refine ⟨fun ho => ?_, fun ho => ?_⟩ <;> simp only [ho, if_true, Bool.false_eq_true, if_false]
  refine ⟨_, rfl, ?_⟩
  have hout (m : Msg) : ∃ l, (State.endCommand { s with dev := { s.dev with out := s.dev.out ++ [m] } } id c 1 0).dev.out = s.dev.out ++ m :: l := by
    obtain ⟨l, hl⟩ := (State.endCommand_spec { s with dev := { s.dev with out := s.dev.out ++ [m] } } id 1 0 c).2.2
    exact ⟨l, by rw [hl]; exact List.append_assoc ..⟩
  obtain ⟨l, hl⟩ := hout _
  exact ⟨_, l, hl, rfl, rfl, rfl, rfl⟩

theorem gridDeclare_spec {grid loc : Nat} {dims : Word} (h : SMap.find s.cmds id = some c) (hk : c.kind = .gridDecl grid dims)
    (hl : s.engineLoc c.ctx .both grid = .ok loc) : exec (.xgridDeclare id) s =
      .next ((s.pokeAs (engineParty c.seq) loc 64 (dims.toNat * 2 ^ 64)).endCommand id c 1 0) := by
  rw [exec_xgridDeclare, execXgridDeclare, h]
  simp only [hk, hl]

theorem query_spec {grid ans loc v a : Nat} (h : SMap.find s.cmds id = some c) (hk : c.kind = .query grid ans)
    (hg : s.gridAt c grid = .ok (loc, v)) (ha : s.engineLoc c.ctx .hw ans = .ok a) :
    let i := dword v 0
    let total := gridTotal (dword v 1)
    let give (u : State) (x d : Nat) : State := (u.storeAnswer c ans a x).1.endCommand id (u.storeAnswer c ans a x).2 1 d
    (gridOk v = false → exec (.xqueryAnswer id) s = .next (s.endCommand id c 7 0)) ∧
    (gridOk v = true → i < total →
      exec (.xqueryAnswer id) s = .next (give (s.pokeAs (engineParty c.seq) loc 8 (i + 1)) (coordinate (dword v 1) i) i)) ∧
    (gridOk v = true → total ≤ i → exec (.xqueryAnswer id) s = .next (give s (2 ^ 64 - 1) total)) := by
  intro i total give
  have hexec : exec (.xqueryAnswer id) s = if !gridOk v then .next (s.endCommand id c 7 0)
      else .next (give (if i < total then s.pokeAs (engineParty c.seq) loc 8 (i + 1) else s)
        (if i < total then coordinate (dword v 1) i else 18446744073709551615) (if i < total then i else total)) := by
    rw [exec_xqueryAnswer, execXqueryAnswer, h]
    simp only [hk, hg, ha] <;> rfl
  rw [hexec]
  refine ⟨fun ho => ?_, fun ho hi => ?_, fun ho hi => ?_⟩
  · rw [ho]
    exact if_pos rfl
  · rw [ho, if_neg (by decide), if_pos hi, if_pos hi, if_pos hi]
  · rw [ho, if_neg (by decide), if_neg (Nat.not_lt.mpr hi), if_neg (Nat.not_lt.mpr hi), if_neg (Nat.not_lt.mpr hi),
      show 2 ^ 64 - 1 = 18446744073709551615 by decide]
end

/-- Settles O50. -/
theorem engineEvents : Obligations.EngineEvents := by
  refine ⟨fun s id j i h hi => engineEvent_absent s id j i h hi, fun s id j c h hm => ?moves, fun s c k b hm hl hb hlive =>
    moveSector_spec s c k b hm hl hb hlive, finishChunk_spec, fun s id st d c => ?ends, fun s id c h => ?others, coordinate_spec⟩
  case moves =>
    obtain ⟨h1, h2⟩ := engineChunk_spec (j := j) h hm
    exact ⟨h1, h2, engineComplete_done h hm⟩
  case ends =>
    intro t
    obtain ⟨hseq, hcmds, -⟩ := s.endCommand_spec id st d c
    refine ⟨fun hr => ?_, fun q r hr hp => ⟨?_, ?_⟩⟩
    · rw [show t.cmds = _ from hcmds, SMap.find_del hr, if_pos rfl]
    · rw [show t.seqAt q = _ from hseq q]
      exact Seq.deliver_regs hr hp _
    · rw [show t.seqAt q = _ from hseq q]
      exact Seq.deliver_pend _ _ _
  case others =>
    obtain ⟨f1, f2⟩ := engineFail_spec h
    obtain ⟨s1, s2⟩ := stall_spec h
    exact ⟨f1, f2, s1, s2, fun v hk => note_spec h hk, fun grid dims loc hk hl => gridDeclare_spec h hk hl,
      fun grid ans loc v a hk hg ha => query_spec h hk hg ha⟩

end Sys2Proof.Machine

/-!
Requests and their sessions (O53).
-/

namespace Sys2Proof.Machine

set_option Elab.async false

/-! ### What is received, and what a header alone answers (R342, R344, R355) -/

theorem State.receives_off {s : State} {h : Hdr} (hr : s.dev.running = .off) : s.receives h = false := by
  unfold State.receives
  rw [hr]

theorem State.receives_up {s : State} {h : Hdr} (hr : s.dev.running = .up) : s.receives h = true ↔
    h.mgmt = true ∨ h.port < 16 ∧ ((SMap.find s.dev.ports h.port).getD Port.initial).role = 0 := by
  unfold State.receives
  rw [hr]
  simp only [Bool.or_eq_true, Bool.and_eq_true, decide_eq_true_eq, beq_iff_eq]

theorem headerStatus_version {h : Hdr} (r : Req) (hv : h.version ≠ 1) : headerStatus h r = some 2 := if_pos hv

theorem headerStatus_body {h : Hdr} (r : Req) (hv : h.version = 1) (hz : h.zeros = false ∨ bodyLimit < h.len) : headerStatus h r = some 3 := by
  unfold headerStatus
  rw [if_neg (by simpa using hv)]
  refine if_pos ?_
  rcases hz with hz | hz
  · simp [hz]
  · simp [hz]

theorem State.serve_status {s : State} {h : Hdr} {r : Req} {st : Nat} (hs : headerStatus h r = some st) (turn : Option (Nat × Option (List Nat))) :
    s.serve h r turn = .reply st [] s := by
  unfold State.serve
  rw [hs]
  rfl

/-- No reply is longer than 1 MiB (R342; log 18). -/
theorem State.serve_length {s v : State} {h : Hdr} {r : Req} {turn : Option (Nat × Option (List Nat))} {st : Nat} {body : List Byte}
    (hs : s.serve h r turn = .reply st body v) : body.length ≤ 1048576 := by
  unfold State.serve at hs
  split at hs
  · cases hs
    exact Nat.zero_le _
  · generalize (if h.mgmt = true then s.serveMgmt h r else if s.dev.running = .up then s.serveHost h r turn else s.serveFatal r) = w at hs
    cases w with
    | reply st' b t =>
      simp only [] at hs
      split at hs
      · cases hs
        exact Nat.zero_le _
      · rename_i hl
        cases hs
        exact Nat.not_lt.mp hl
    | sent m t => cases hs
    | later x t => cases hs

/-! ### Arrival (R345, R347) -/

theorem State.arrive_none {s : State} {h : Hdr} (r : Req) (hr : s.receives h = false) : s.arrive h r = .next s := by
  unfold State.arrive
  rw [hr]
  rfl

theorem State.arrive_open {s : State} {h : Hdr} (hr : s.receives h = true) : s.arrive h .openSession = .next (s.openFor h) := by
  unfold State.arrive
  rw [hr]
  simp only [wakes, ite_self]
  rfl

theorem State.arrive_request {s : State} {h : Hdr} {r : Req} (hr : s.receives h = true) (ho : r ≠ .openSession) :
    s.arrive h r = .next ((s.arrived h r).inSession h r) := by
  unfold State.arrive
  rw [hr]
  cases r <;> first | exact absurd rfl ho | rfl

section
variable {s : State} {h : Hdr}

/-- Opening a session (R347). -/
theorem openFor_spec :
    (∀ st, headerStatus h .openSession = some st → s.openFor h = s.post (replyTo h 0x08 st [])) ∧
    (headerStatus h .openSession = none → s.session h = none → s.sessions h = true → h.seq = 0 → h.len = 0 →
      (s.dev.sessions.filter (fun x => x.mgmt == h.mgmt)).length < 256 →
      (s.openFor h).dev.out = s.dev.out ++ [replyTo h 0x08 0 []] ∧ (s.openFor h).mem = s.mem ∧ (s.openFor h).seqs = s.seqs ∧
        (s.openFor h).session h = some ⟨h.mgmt, h.ep, h.sess, 1, [], [(0, replyTo h 0x08 0 [])], none⟩) ∧
    (headerStatus h .openSession = none → (s.session h).isSome = true ∨ s.sessions h = false → s.openFor h = s.post (replyTo h 0x08 5 [])) := by
  unfold State.openFor
  refine ⟨fun st hs => ?_, fun hs hn hses hq hl hc => ?_, fun hs hn => ?_⟩
  · simp only [hs]
  · simp only [hs, hn, hses, hq, hl, Bool.not_true, Bool.false_eq_true, if_false, ne_eq, not_true_eq_false, or_self,
      if_neg (Nat.not_le.mpr hc)]
    refine ⟨rfl, rfl, rfl, ?_⟩
    unfold State.session at hn ⊢
    refine (List.find?_append ..).trans ?_
    rw [hn]
    simp [Session.is]
  · cases hf : s.session h with
    | some x => simp only [hs]
    | none =>
      rw [hf] at hn
      simp only [hs, hn.resolve_left (by decide), Bool.not_false, if_true]

end

/-! ### The first missing number -/

theorem missingFrom_cons (n : Nat) (r : Held) (l : List Held) : missingFrom n (r :: l) = missingFrom (if r.num = n then n + 1 else n) l := rfl

theorem missingFrom_spec (n : Nat) (l : List Held) (hp : l.Pairwise (fun x y => x.num < y.num)) (hn : ∀ y ∈ l, n ≤ y.num) :
    n ≤ missingFrom n l ∧ (∀ k, n ≤ k → k < missingFrom n l → ∃ y ∈ l, y.num = k) ∧ ∀ y ∈ l, y.num ≠ missingFrom n l := by
  induction l generalizing n with
  | nil => exact ⟨Nat.le_refl n, fun k h1 h2 => absurd h1 (Nat.not_le.mpr h2), fun y hy => absurd hy List.not_mem_nil⟩
  | cons r l ih =>
    obtain ⟨hr, hl⟩ := List.pairwise_cons.mp hp
    have hrn := hn r List.mem_cons_self
    rw [missingFrom_cons]
    by_cases he : r.num = n
    · rw [if_pos he]
      obtain ⟨h1, h2, h3⟩ := ih (n + 1) hl fun y hy => by have := hr y hy; omega
      refine ⟨by omega, fun k hk hlt => ?_, fun y hy => ?_⟩
      · by_cases hkn : k = n
        · exact ⟨r, List.mem_cons_self, he.trans hkn.symm⟩
        · obtain ⟨y, hy, e⟩ := h2 k (by omega) hlt
          exact ⟨y, List.mem_cons_of_mem _ hy, e⟩
      · rcases List.mem_cons.mp hy with rfl | hy
        · omega
        · exact h3 y hy
    · rw [if_neg he]
      obtain ⟨h1, h2, h3⟩ := ih n hl fun y hy => hn y (List.mem_cons_of_mem _ hy)
      have hno : missingFrom n l = n := by
        refine Nat.le_antisymm (Nat.not_lt.mp fun hlt => ?_) h1
        obtain ⟨y, hy, e⟩ := h2 n (Nat.le_refl n) hlt
        have := hr y hy
        omega
      refine ⟨h1, fun k hk hlt => by omega, fun y hy => ?_⟩
      rcases List.mem_cons.mp hy with rfl | hy
      · omega
      · exact h3 y hy

/-! ### A request in its session (R345, R347) -/

section
variable {s : State} {h : Hdr} {r : Req}

theorem inSession_none (hx : s.session h = none) : (s.arrived h r).inSession h r = (s.arrived h r).post (replyTo h (reqType r) 5 []) := by
  unfold State.inSession
  rw [State.session_arrived, hx]

theorem inSession_old {x : Session} (hx : s.session h = some x) (hn : h.seq.toNat < x.next) :
    (∀ k m, x.kept.find? (fun k => k.1 == h.seq.toNat) = some (k, m) → (s.arrived h r).inSession h r = (s.arrived h r).post m) ∧
    (x.kept.find? (fun k => k.1 == h.seq.toNat) = none →
      (s.arrived h r).inSession h r = (s.arrived h r).post (replyTo h (reqType r) 5 [])) := by
  unfold State.inSession
  rw [State.session_arrived, hx]
  simp only [if_pos hn]
  refine ⟨fun k m hk => ?_, fun hk => ?_⟩ <;> simp only [hk]

/-- Nothing is served where the first request that waits is not the next one. -/
theorem State.drain_gap {t : State} {y : Session} {r : Held} {l : List Held} (k : Nat) (hy : t.session h = some y) (hh : y.held = r :: l)
    (hr : r.num ≠ y.next) : t.drain h k = t := by
  cases k with
  | zero => rfl
  | succ k =>
    unfold State.drain State.serveNext
    simp only [hy, hh, if_pos hr]

theorem heldInsert_head (l : List Held) (r : Held) {n : Nat} (hr : n < r.num) (hl : ∀ y ∈ l, n < y.num) :
    ∃ z t, heldInsert l r = z :: t ∧ n < z.num := by
  cases l with
  | nil => exact ⟨r, [], rfl, hr⟩
  | cons x t =>
    unfold heldInsert
    split
    · exact ⟨r, x :: t, rfl, hr⟩
    · split
      · exact ⟨x, t, rfl, hl x List.mem_cons_self⟩
      · exact ⟨x, heldInsert t r, rfl, hl x List.mem_cons_self⟩

/-- A request beyond the next one waits, unless it is one too many (R347). -/
theorem inSession_ahead {x : Session} (hx : s.session h = some x) (hn : x.next < h.seq.toNat) :
    let u := s.arrived h r
    let beyond := x.held.filter (fun y => missingFrom x.next x.held < y.num)
    let much := missingFrom x.next x.held < h.seq.toNat ∧ (64 ≤ beyond.length ∨
      16777216 < beyond.foldl (fun k y => k + y.hdr.len) h.len)
    let held := heldInsert x.held ⟨h.seq.toNat, h, r, s.clock, none⟩
    (much → u.inSession h r = u.post (replyTo h (reqType r) 4 [])) ∧
    (¬ much → (∀ y, y ∈ x.held → x.next < y.num) → u.inSession h r = u.setSession { x with
      held := held
      gapSince := leastOf ((held.filter (fun y => missingFrom x.next held < y.num)).map (·.since)) }) := by
  intro u beyond much held
  have hlt : ¬ h.seq.toNat < x.next := by omega
  have hclock : u.clock = s.clock := (s.arrived_same h r).1.2.2.2
  have hsession : u.session h = some x := (State.session_arrived ..).trans hx
  unfold State.inSession
  rw [hsession]
  simp only [if_neg hlt, hclock]
  refine ⟨fun hm => if_pos hm, fun hm ha => (if_neg hm).trans ?_⟩
  obtain ⟨z, t, hz, hnum⟩ := heldInsert_head x.held ⟨h.seq.toNat, h, r, s.clock, none⟩ hn ha
  exact State.drain_gap (y := x.holding held) (r := z) (l := t) _ (State.session_setSession _ hsession ⟨rfl, rfl, rfl⟩) hz (Nat.ne_of_gt hnum)

/-- The next request of a session that holds nothing else is tried at once. -/
theorem inSession_next {x : Session} (hx : s.session h = some x) (hn : h.seq.toNat = x.next) (hh : x.held = []) :
    (s.arrived h r).inSession h r = (s.serving h r x).drain h 2 := by
  have hclock : (s.arrived h r).clock = s.clock := (s.arrived_same h r).1.2.2.2
  unfold State.inSession
  rw [State.session_arrived, hx]
  simp only [hn, hh, heldInsert, State.serving, missingFrom, List.foldl_nil, Nat.lt_irrefl, if_false, false_and, hclock,
    Session.holding_alone x ⟨x.next, h, r, s.clock, none⟩ rfl, List.length_cons, List.length_nil]

/-- A session that has been removed is not found. -/
theorem State.session_dropped {t : State} {x : Session} (hx : t.session h = some x) (l : List Held) :
    (t.dropSession { x with held := l }).session h = none := by
  have hm := List.find?_some hx
  simp only [Session.is, Bool.and_eq_true, beq_iff_eq] at hm
  obtain ⟨⟨h1, h2⟩, h3⟩ := hm
  have hposts (l : List Held) (w : State) :
      (l.foldl (fun s r => s.post (replyTo r.hdr (reqType r.req) 5 [])) w).dev.sessions = w.dev.sessions := by
    induction l generalizing w with
    | nil => rfl
    | cons r l ih => exact ih _
  unfold State.session State.dropSession
  rw [hposts]
  refine List.find?_eq_none.mpr fun y hy => ?_
  have hy' := (List.mem_filter.mp hy).2
  rw [Bool.not_eq_true'] at hy'
  rw [show y.is h.mgmt h.ep h.sess = false by rw [← h1, ← h2, ← h3]; exact hy']
  decide

/-- A session that is removed changes the device's sessions and messages alone. -/
theorem State.dropSession_spec (t : State) (x : Session) :
    (t.dropSession x).mem = t.mem ∧ (t.dropSession x).seqs = t.seqs ∧
      (t.dropSession x).dev.out = t.dev.out ++ x.held.map (fun r => replyTo r.hdr (reqType r.req) 5 []) := by
  have hposts (l : List Held) (w : State) : let z := l.foldl (fun s r => s.post (replyTo r.hdr (reqType r.req) 5 [])) w
      z.mem = w.mem ∧ z.seqs = w.seqs ∧ z.dev.out = w.dev.out ++ l.map (fun r => replyTo r.hdr (reqType r.req) 5 []) := by
    induction l generalizing w with
    | nil => exact ⟨rfl, rfl, (List.append_nil _).symm⟩
    | cons r l ih =>
      obtain ⟨h1, h2, h3⟩ := ih (w.post (replyTo r.hdr (reqType r.req) 5 []))
      exact ⟨h1, h2, h3.trans (by simp [State.post])⟩
  exact hposts x.held _

theorem State.session_of_sessions {v w : State} (h : Hdr) (hv : v.dev.sessions = w.dev.sessions) : v.session h = w.session h := by
  unfold State.session
  rw [hv]

theorem State.running_serving (s : State) (h : Hdr) (r : Req) (x : Session) : (s.serving h r x).dev.running = s.dev.running := by
  have hd := (s.serving_same h r x).2.2.2.2.2.2.2.2
  have h := congrArg Dev.running hd
  exact h

theorem State.out_serving (s : State) (h : Hdr) (r : Req) (x : Session) : (s.serving h r x).dev.out = s.dev.out := by
  have hd := (s.serving_same h r x).2.2.2.2.2.2.2.2
  have h := congrArg Dev.out hd
  exact h

/-- What is left of a session once its one waiting request has been answered (R347). -/
theorem State.answered_spec {x : Session} {m : Msg} {r : Held} (hx : s.session h = some x) (hh : x.held = [r]) (hn : r.num = x.next) :
    ∃ y, (s.answered h x.next m).session h = some y ∧ y.next = x.next + 1 ∧ y.held = [] ∧ y.gapSince = none ∧
      y.kept.length ≤ 64 ∧ y.kept.getLast? = some (x.next, m) := by
  have hheld : x.held.filter (fun r => r.num != x.next) = [] := by
    rw [hh]
    simp [hn]
  unfold State.answered
  rw [hx]
  simp only [hheld, Session.holding_nil]
  refine ⟨_, State.session_setSession _ hx ⟨rfl, rfl, rfl⟩, rfl, rfl, rfl, ?_, ?_⟩
  · simp only [List.length_drop]
    omega
  · simp only [List.getLast?_drop, List.length_append, List.length_singleton]
    rw [if_neg (by omega), List.getLast?_append]
    rfl

/-- A session that has answered its one request has nothing more to serve. -/
theorem State.answered_drain {v : State} {x : Session} {rh : Held} {m : Msg} (hv : v.session h = some x) (hh : x.held = [rh]) (hn : rh.num = x.next)
    (k : Nat) : (v.answered h x.next m).drain h k = v.answered h x.next m := by
  refine State.drain_empty _ fun y hy => ?_
  obtain ⟨z, hz, -, hheld, -⟩ := State.answered_spec (m := m) hv hh hn
  rw [hz] at hy
  cases hy
  exact hheld
end

/-! ### The next request, served (R345, R347) -/

section
variable {s : State} {h : Hdr} {r : Req} {x : Session}

/-- Serving the one request that waits, as the session's first. -/
theorem serveNext_serving (hx : s.session h = some x) (hc : r ≠ .closeSession ∨ s.closes h = false) :
    (s.serving h r x).serveNext h = match (s.serving h r x).serve h r none with
      | .reply st body v => ((v.post (replyTo h (reqType r) st body)).answered h x.next (replyTo h (reqType r) st body), true)
      | .sent m v => (v.answered h x.next m, true)
      | .later turn v =>
        match v.session h with
        | none => (v, false)
        | some y => (v.setSession { y with held := { (⟨x.next, h, r, s.clock, none⟩ : Held) with turn := turn } :: y.held.drop 1 }, false) := by
  have hcloses : (s.serving h r x).closes h = s.closes h := by
    unfold State.closes State.sessions
    rw [State.running_serving]
  have hno : ¬(r = .closeSession ∧ (s.serving h r x).closes h = true) := by
    rw [hcloses]
    rintro ⟨h1, h2⟩
    rcases hc with hc | hc
    · exact hc h1
    · rw [h2] at hc
      cases hc
  unfold State.serveNext
  rw [State.session_serving r hx]
  simp only [ne_eq, not_true_eq_false, if_false, if_neg hno] <;> rfl

theorem serve_next {v : State} (hx : s.session h = some x) (hc : r ≠ .closeSession ∨ s.closes h = false)
    (hv : v.dev.sessions = (s.serving h r x).dev.sessions) :
    (∀ st body, (s.serving h r x).serve h r none = .reply st body v → (s.serving h r x).drain h 2 =
      (v.post (replyTo h (reqType r) st body)).answered h x.next (replyTo h (reqType r) st body)) ∧
    (∀ m, (s.serving h r x).serve h r none = .sent m v → (s.serving h r x).drain h 2 = v.answered h x.next m) ∧
    (∀ turn, (s.serving h r x).serve h r none = .later turn v → (s.serving h r x).drain h 2 =
      v.setSession { x with held := [⟨x.next, h, r, s.clock, turn⟩], gapSince := none }) := by
  have hsession : v.session h = some { x with held := [⟨x.next, h, r, s.clock, none⟩], gapSince := none } :=
    (State.session_of_sessions h hv).trans (State.session_serving r hx)
  have hnext := serveNext_serving hx hc
  refine ⟨fun st body hs => ?_, fun m hs => ?_, fun turn hs => ?_⟩ <;> simp only [hs] at hnext <;> rw [State.drain, hnext]
  · have hpost : (v.post (replyTo h (reqType r) st body)).session h = _ := hsession
    exact State.answered_drain hpost rfl rfl 1
  · exact State.answered_drain hsession rfl rfl 1
  · simp only [hsession] <;> rfl

/-- A close that takes effect removes the session and sends its reply (R347). -/
theorem close_next (hx : s.session h = some x) (hc : s.closes h = true) :
    let t := (s.serving h .closeSession x).drain h 2
    t.session h = none ∧ t.dev.out = s.dev.out ++ [replyTo h 0x09 0 []] ∧ t.mem = s.mem ∧ t.seqs = s.seqs := by
  intro t
  have hcloses : (s.serving h .closeSession x).closes h = true := by
    unfold State.closes State.sessions at *
    rw [State.running_serving]
    exact hc
  have hserving := State.session_serving .closeSession hx
  have ht : t = ((s.serving h .closeSession x).dropSession
      { ({ x with held := [⟨x.next, h, .closeSession, s.clock, none⟩], gapSince := none } : Session) with held := [] }).post (replyTo h 0x09 0 []) := by
    unfold t State.drain State.serveNext
    rw [hserving]
    simp only [ne_eq, not_true_eq_false, if_false, hcloses, and_self, if_true]
    rfl
  obtain ⟨hmem, hseqs, hout⟩ := (s.serving h .closeSession x).dropSession_spec
    { ({ x with held := [⟨x.next, h, .closeSession, s.clock, none⟩], gapSince := none } : Session) with held := [] }
  obtain ⟨-, smem, sseqs, -⟩ := s.serving_same h .closeSession x
  rw [ht]
  refine ⟨?_, ?_, hmem.trans smem, hseqs.trans sseqs⟩
  · exact State.session_dropped hserving []
  · have ho := hout.trans (List.append_nil _)
    exact congrArg (· ++ [replyTo h 0x09 0 []]) (ho.trans (State.out_serving ..))
end

/-! ### The gap (R347) -/

theorem exec_sessionGapTimeout (mgmt : Bool) (ep : Nat) (sess : BitVec 16) (s : State) :
    exec (.sessionGapTimeout mgmt ep sess) s = execSessionGapTimeout mgmt ep sess s := rfl

theorem sessionGapTimeout_spec (s : State) (mgmt : Bool) (ep : Nat) (sess : BitVec 16) :
    let h : Hdr := ⟨mgmt, ep, sess, 0, 0, 0, 0, 1, true, 0⟩
    (∀ x t, s.session h = some x → x.gapSince = some t → t + Config.clocks10s ≤ s.clock →
      ∃ v, exec (.sessionGapTimeout mgmt ep sess) s = .next v ∧ v.session h = none ∧ v.mem = s.mem ∧ v.seqs = s.seqs ∧
        v.dev.out = s.dev.out ++ x.held.map (fun r => replyTo r.hdr (reqType r.req) 5 [])) ∧
    ((∀ x t, s.session h = some x → x.gapSince = some t → s.clock < t + Config.clocks10s) →
      exec (.sessionGapTimeout mgmt ep sess) s = .next s) := by
  intro h
  rw [exec_sessionGapTimeout]
  unfold execSessionGapTimeout
  refine ⟨fun x t hx hg ht => ?_, fun hn => ?_⟩
  · obtain ⟨hmem, hseqs, hout⟩ := s.dropSession_spec x
    refine ⟨s.dropSession x, ?_, State.session_dropped hx x.held, hmem, hseqs, hout⟩
    simp only [show s.session ⟨mgmt, ep, sess, 0, 0, 0, 0, 1, true, 0⟩ = some x from hx, hg, if_neg (Nat.not_lt.mpr ht)]
  · cases hx : s.session h with
    | none => simp only [show s.session ⟨mgmt, ep, sess, 0, 0, 0, 0, 1, true, 0⟩ = none from hx]
    | some x =>
      cases hg : x.gapSince with
      | none => simp only [show s.session ⟨mgmt, ep, sess, 0, 0, 0, 0, 1, true, 0⟩ = some x from hx, hg]
      | some t => simp only [show s.session ⟨mgmt, ep, sess, 0, 0, 0, 0, 1, true, 0⟩ = some x from hx, hg, if_pos (hn x t hx hg)]

/-- Settles O53. -/
theorem sessionOrder : Obligations.SessionOrder := by
  refine ⟨fun s i h r hi => ?arrival, fun s h => State.receives_off, fun s h => State.receives_up, fun s h r turn => ⟨fun hv => ?version,
    fun hv hz => ?body, fun st body v => State.serve_length⟩, fun n l => missingFrom_spec n l, fun s h x m r => State.answered_spec,
    sessionGapTimeout_spec⟩
  case version => exact State.serve_status (headerStatus_version r hv) turn
  case body => exact State.serve_status (headerStatus_body r hv hz) turn
  case arrival =>
    intro reply u
    rw [exec_request s hi]
    refine ⟨fun hr => State.arrive_none r hr, fun hr => ⟨fun ho => ?opens, fun ho => ?waits⟩⟩
    case opens =>
      subst ho
      rw [State.arrive_open hr]
      obtain ⟨h1, h2, h3⟩ := openFor_spec (s := s) (h := h)
      exact ⟨fun st hs => congrArg Host.Outcome.next (h1 st hs), fun a b c d e f => ⟨_, rfl, h2 a b c d e f⟩,
        fun a b => congrArg Host.Outcome.next (h3 a b)⟩
    case waits =>
      rw [State.arrive_request hr ho]
      refine ⟨fun hx => congrArg Host.Outcome.next (inSession_none hx), fun x hx => ⟨fun hn => ?old, fun hn => ?ahead, fun hn hh => ?next⟩⟩
      case old =>
        obtain ⟨h1, h2⟩ := inSession_old (r := r) hx hn
        exact ⟨fun k m hk => congrArg Host.Outcome.next (h1 k m hk), fun hk => congrArg Host.Outcome.next (h2 hk)⟩
      case ahead =>
        obtain ⟨h1, h2⟩ := inSession_ahead (r := r) hx hn
        exact ⟨fun hm => congrArg Host.Outcome.next (h1 hm), fun hm ha => congrArg Host.Outcome.next (h2 hm ha)⟩
      case next =>
        rw [inSession_next hx hn hh]
        refine ⟨fun hcl hc => ?_, fun hc v hv => ?_⟩
        · subst hcl
          exact ⟨_, rfl, close_next hx hc⟩
        · obtain ⟨h1, h2, h3⟩ := serve_next hx hc hv
          exact ⟨fun st body hs => congrArg Host.Outcome.next (h1 st body hs), fun m hs => congrArg Host.Outcome.next (h2 m hs),
            fun turn hs => congrArg Host.Outcome.next (h3 turn hs)⟩

end Sys2Proof.Machine

/-!
A table page that the service cannot rebuild, since its pool has no page left (O55).
-/

namespace Sys2Proof.Machine

set_option Elab.async false

/-! ### What rebuilding a page takes from the pool (R313) -/

theorem State.copyTable_nextTable (s : State) (src dst n : Nat) : (s.copyTable src dst n).nextTable = s.nextTable := by
  unfold State.copyTable
  rfl

theorem State.newTable_nextTable (s : State) (n : Nat) : (s.newTable n).2.nextTable = alignUp s.nextTable n + n := rfl

theorem State.rebuildRoot_nextTable (s : State) (root page : Nat) :
    (s.rebuildRoot root page).nextTable = alignUp s.nextTable 2097152 + 2097152 := by
  unfold State.rebuildRoot
  simp only [State.copyTable_nextTable]
  exact s.newTable_nextTable 2097152

theorem le_alignUp (a n : Nat) (hn : 0 < n) : a ≤ alignUp a n := by
  unfold alignUp
  have h := Nat.div_add_mod (a + n - 1) n
  have := Nat.mod_lt (a + n - 1) hn
  rw [Nat.mul_comm] at h
  omega

/-- TABLE_REBUILD of a root's page does nothing once the pool of table pages is used up. -/
theorem tableRebuild_full {s : State} {page r : Nat} (hr : s.rootOf page = some r) (h : Config.tableEnd ≤ s.nextTable) :
    exec (.tableRebuild page) s = .next s := by
  have hlt : Config.tableEnd < (s.rebuildRoot r page).nextTable := by
    have := le_alignUp s.nextTable 2097152 (by decide)
    rw [State.rebuildRoot_nextTable]
    omega
  have hfull : (s.rebuildRoot r page).tablesFit = false := decide_eq_false (Nat.not_le.mpr hlt)
  have hexec : exec (.tableRebuild page) s = execTableRebuild page s := rfl
  rw [hexec]
  unfold execTableRebuild
  split
  · simp only [hr, hfull, Bool.false_eq_true, if_false]
  · rfl

/-- A partition of one core whose root page is the pool's first. -/
def poolPartition : Partition where
  cores := [⟨0, 1, 0⟩]
  root := Config.tablePool
  ptab := none
  handler := none
  stdVa := Config.stdHandlerVa
  pool := (Config.framePoolVa, 0)
  slotsPerUpper := 0
  area := 0
  share := 0
  tolerance := 1000
  maps := []
  groups := []
  gangs := []
  saveAreas := []
  frames := []

/-- A machine with one partition, whose root has a page with a negative entry, and whose pool of table pages is used up. -/
def fullPool : State :=
  { State.reset with
    nextTable := Config.tableEnd
    parts := [(0, poolPartition)]
    mem := { State.reset.mem with negative := [Config.tablePool / 4096] } }

/-- Refutes O55: in a machine whose pool of table pages is used up, TABLE_REBUILD of a page that has a negative entry changes nothing,
so the entry stays. -/
theorem not_managementAndPower : ¬ Obligations.ManagementAndPower := by
  unfold Obligations.ManagementAndPower
  rintro ⟨-, -, -, -, -, -, hrebuild, -⟩
  obtain ⟨t, ht, hnegative, -⟩ := (hrebuild fullPool (Config.tablePool / 4096)).2 rfl
  rw [tableRebuild_full (r := Config.tablePool) rfl (Nat.le_refl _)] at ht
  rw [← Host.Outcome.next.inj ht] at hnegative
  cases hnegative

end Sys2Proof.Machine

/-!
Collectives, frames, link keys, notices and CRC failures (O51).
-/

namespace Sys2Proof.Machine

set_option Elab.async false

/-! ### The error log (R361) -/

theorem State.logErr_fields (s : State) (kind part cls num : Nat) (cont : Bool) (d1 d2 : Nat) :
    ∃ l n, s.logErr kind part cls num cont d1 d2 = { s with dev := { s.dev with
      log := l ++ [⟨Config.timeNs s.clock, kind, part, cls, num, cont, BitVec.ofNat 64 d1, BitVec.ofNat 64 d2⟩], lost := n } } := by
  unfold State.logErr
  extract_lets e d
  split
  · exact ⟨_, _, rfl⟩
  · exact ⟨_, _, rfl⟩

theorem State.logErr_sameMachine (s : State) (kind part cls num : Nat) (cont : Bool) (d1 d2 : Nat) :
    SameMachine s (s.logErr kind part cls num cont d1 d2) := by
  obtain ⟨l, n, h⟩ := s.logErr_fields kind part cls num cont d1 d2
  rw [h]
  exact ⟨rfl, rfl, rfl, fun _ _ => rfl, rfl, fun _ => .refl _, rfl, rfl, rfl, rfl, rfl, rfl, rfl, rfl, rfl, rfl, rfl, rfl, rfl, rfl, rfl⟩

/-! ### The members of a collective (R352) -/

theorem SMap.mem_del {α : Type} {m : SMap α} (h : m.Rising) {k : Nat} {x : Nat × α} (hx : x ∈ SMap.del m k) : x ∈ m ∧ x.1 ≠ k := by
  induction m with
  | nil => cases hx
  | cons y t ih =>
    obtain ⟨j, v⟩ := y
    obtain ⟨hy, ht⟩ := List.pairwise_cons.mp h
    rw [SMap.del] at hx
    split at hx
    next hj => exact ⟨List.mem_cons_of_mem _ hx, fun e => Nat.lt_irrefl j (by have := hy x hx; omega)⟩
    next hj =>
      rcases List.mem_cons.mp hx with rfl | hx
      · exact ⟨List.mem_cons_self, hj⟩
      · exact ⟨List.mem_cons_of_mem _ (ih ht hx).1, (ih ht hx).2⟩

theorem SMap.del_sublist {α : Type} (m : SMap α) (k : Nat) : (SMap.del m k).Sublist m := by
  induction m with
  | nil => exact List.Sublist.refl _
  | cons y t ih =>
    obtain ⟨j, v⟩ := y
    rw [SMap.del]
    split
    · exact List.sublist_cons_self ..
    · exact ih.cons_cons _

theorem SMap.Rising.del {α : Type} {m : SMap α} (h : m.Rising) (k : Nat) : (SMap.del m k).Rising :=
  List.Pairwise.sublist (SMap.del_sublist m k) h

/-- Ending some commands leaves only others. -/
theorem State.endAll_cmds (l : List Member) (status : Nat) : ∀ s : State, s.cmds.Rising → ∀ x,
    x ∈ (l.foldl (fun s m => s.endCommand m.1 m.2.1 status 0) s).cmds → x ∈ s.cmds ∧ ∀ m ∈ l, m.1 ≠ x.1 := by
  induction l with
  | nil => exact fun s _ x hx => ⟨hx, by simp⟩
  | cons m t ih =>
    intro s hs x hx
    obtain ⟨-, hc, -⟩ := s.endCommand_spec m.1 status 0 m.2.1
    have hr : (s.endCommand m.1 m.2.1 status 0).cmds.Rising := hc ▸ hs.del m.1
    obtain ⟨hmem, hne⟩ := ih _ hr x hx
    rw [hc] at hmem
    obtain ⟨hin, hk⟩ := SMap.mem_del hs hmem
    refine ⟨hin, fun y hy => ?_⟩
    rcases List.mem_cons.mp hy with rfl | hy
    · exact Ne.symm hk
    · exact hne y hy

theorem State.mem_members {s : State} {part : Nat} {p : Plan} {m : Member} : m ∈ s.members part p ↔
    (m.1, m.2.1) ∈ s.cmds ∧ m.2.1.kind = .coll m.2.2 ∧ m.2.1.ctx.part = part ∧ m.2.2.group = p.group ∧ m.2.2.ident = p.ident := by
  obtain ⟨id, c, q⟩ := m
  unfold State.members
  rw [List.mem_filterMap]
  constructor
  · rintro ⟨⟨i, d⟩, hx, h⟩
    dsimp only at h
    split at h
    next q' hk =>
      split at h
      next hc =>
        cases h
        exact ⟨hx, hk, hc⟩
      next => cases h
    next => cases h
  · rintro ⟨hx, hk, hc⟩
    refine ⟨(id, c), hx, ?_⟩
    dsimp only at hk hc ⊢
    rw [hk]
    exact if_pos hc

theorem State.tellPlan_cmds (s : State) (part : Nat) (p : Plan) : (s.tellPlan part p).cmds = s.cmds := by
  unfold State.tellPlan State.tellPeers
  split <;> rfl

theorem State.members_endMembers (s : State) (part st : Nat) (p : Plan) (hs : s.cmds.Rising) :
    (s.endMembers part p st).members part p = [] := by
  rw [List.eq_nil_iff_forall_not_mem]
  intro m hm
  obtain ⟨hx, hk⟩ := State.mem_members.mp hm
  have ht := s.tellPlan_cmds part p
  have hx' : (m.1, m.2.1) ∈ (((s.tellPlan part p).members part p).foldl (fun s m => s.endCommand m.1 m.2.1 st 0)
    (s.tellPlan part p)).cmds := hx
  obtain ⟨hin, hne⟩ := State.endAll_cmds _ st _ (ht ▸ hs) _ hx'
  exact hne m (State.mem_members.mpr ⟨hin, hk⟩) rfl

theorem State.framesOf_endMembers (s : State) (part st : Nat) (p : Plan) : (s.endMembers part p st).framesOf part p = [] := by
  unfold State.endMembers State.dropFrames State.framesOf
  rw [List.filter_eq_nil_iff]
  intro f hf
  have h := (List.mem_filter.mp hf).2
  simpa [or_assoc, imp_iff_not_or] using h

/-! ### When plans differ (R352) -/

theorem mismatched_eq_false (p : Plan) (g : Sys2Proof.GroupBody) (l : List Member) (fs : List Frame) : mismatched p g l fs = false ↔
    (∀ m ∈ l, p.agrees m.2.2 = true) ∧ (l.map (fun m => m.2.2.rank)).Nodup ∧
    ∀ f ∈ fs, f.op = p.op ∧ f.type = p.type ∧ f.count = p.count ∧ f.comp1 = p.comp1 ∧ f.comp2 = p.comp2 ∧ f.seed = p.seed ∧
      f.sizes = (g.n0, g.n1, g.n2) ∧ f.map = g.map := by
  have hp : ∀ q : Plan, q.agrees p = p.agrees q := fun q => by
    unfold Plan.agrees
    simp only [BEq.comm (a := q.op), BEq.comm (a := q.type), BEq.comm (a := q.count), BEq.comm (a := q.comp1),
      BEq.comm (a := q.comp2), BEq.comm (a := q.seed)]
  simp only [mismatched, hp, Frame.agrees, Bool.or_eq_false_iff, List.any_eq_false, Bool.not_eq_true', Bool.not_eq_false',
    Bool.and_eq_true, beq_iff_eq, decide_eq_true_eq, Bool.not_eq_false, and_assoc]
  tauto

/-! ### What a device forms and receives -/

theorem foldVectors_append (l : List (List Elem)) (x : List Elem) (h : l ≠ []) :
    foldVectors (l ++ [x]) = List.zipWith foldStep (foldVectors l) x := by
  cases l with
  | nil => exact absurd rfl h
  | cons y t => exact List.foldl_append

theorem State.keepFormed_dev (s : State) (id level : Nat) (l : List (Nat × Bool)) : (s.keepFormed id level l).dev = s.dev := by
  unfold State.keepFormed
  split <;> rfl

theorem State.sendOn_sent (s : State) (role : Nat) : (s.sendOn role).dev.sent = s.dev.sent := by
  unfold State.sendOn
  split <;> rfl

theorem State.sendFrame_sent (s : State) (f : Frame) (c : Nat) {dests : List (Nat × Nat)} (h : dests ≠ []) :
    (s.sendFrame f c dests).dev.sent = s.dev.sent ++ [f] := by
  unfold State.sendFrame
  rw [if_neg (by simpa using h)]
  extract_lets a b
  have ha : a.dev.sent = s.dev.sent := by
    unfold a
    split
    · exact s.sendOn_sent 1
    · rfl
  have hb : b.dev.sent = a.dev.sent := by
    unfold b
    split
    · exact a.sendOn_sent 2
    · rfl
  exact congrArg (· ++ [f]) (hb.trans ha)

theorem State.form_sent (s : State) (x : Coll) (l level w : Nat) (m : Member) (v : List (Nat × Bool)) (h : x.dests l level ≠ []) :
    (s.form x l level w m v).dev.sent = s.dev.sent ++ [x.plan.frame x.g x.part (x.g.rankAt l x.d x.c) level w v] := by
  unfold State.form
  rw [State.sendFrame_sent _ _ _ h, State.keepFormed_dev]

theorem Coll.hears_iff (x : Coll) :
    x.hears = true ↔ ∀ y ∈ x.g.peers x.d x.c, ∃ f ∈ x.fs, (x.g.coords f.rank).2 = y := by
  simp [Coll.hears]

theorem Coll.result_none {x : Coll} (h : x.told = false ∨ x.hears = false) : x.result = none := by
  unfold Coll.result
  rw [if_pos (by rcases h with h | h <;> simp [h])]

theorem Coll.result_heard {x : Coll} (ht : x.told = true) (hh : x.hears = true) : x.result =
    if x.plan.op = 2 then x.gather
    else if x.plan.op = 3 then
      (if x.d = 0 ∧ x.c = 0 then x.own 0 0 else (frameFrom x.fs 0 0).map (fun f => f.elems x.plan.width))
    else x.far.map (fun l => (foldVectors l).map x.plan.finish) := by
  unfold Coll.result
  rw [if_neg (by simp [ht, hh])]

theorem allSome_map_some {α : Type} (l : List α) : allSome (l.map some) = some l := by
  induction l with
  | nil => rfl
  | cons x t ih => rw [List.map_cons, allSome, ih]; rfl

theorem Coll.gather_local {x : Coll} {l : List (List (Nat × Bool))} (hd : x.d = 0) (hc : x.c = 0) (h1 : x.g.n1 = 1) (h2 : x.g.n2 = 1)
    (hl : l.length = x.g.n0) (hown : ∀ k, k < x.g.n0 → x.own k 0 = l[k]?) : x.gather = some l.flatten := by
  have hparts : (List.range x.g.size).map (fun k =>
      let (i, d, c) := x.g.coords k
      if d = x.d ∧ c = x.c then x.own i 0 else (frameFrom x.fs k 0).map (fun f => f.elems x.plan.width)) = l.map some := by
    have hsize : x.g.size = x.g.n0 := by simp [Sys2Proof.GroupBody.size, h1, h2]
    refine List.ext_getElem (by simp [hsize, hl]) fun k hk hk' => ?_
    have hlt : k < x.g.n0 := by simpa [hl] using hk'
    have hco : x.g.coords k = (k, 0, 0) := by
      simp [Sys2Proof.GroupBody.coords, h1, Nat.mod_eq_of_lt hlt, Nat.div_eq_of_lt hlt]
    simp only [List.getElem_map, List.getElem_range, hco, hd, hc, and_self, if_true]
    rw [hown k hlt, List.getElem?_eq_getElem (by omega)]
  unfold Coll.gather
  exact (congrArg (Option.map List.flatten) ((congrArg allSome hparts).trans (allSome_map_some l)))

/-! ### Ports (R339, R340) -/

theorem Port.usable_iff (p : Port) (role : Nat) : p.usable role = true ↔
    p.role = role ∧ (p.next ≠ [] ∧ 2 ^ 63 ≤ p.pn + 1 ∨ p.key ≠ none ∧ p.pn < 2 ^ 63) := by
  unfold Port.usable Port.ready
  have hsw : p.switches = true ↔ p.next ≠ [] ∧ 2 ^ 63 ≤ p.pn + 1 := by simp [Port.switches]
  by_cases h : p.switches = true
  · obtain ⟨hn, hpn⟩ := hsw.mp h
    obtain ⟨k, t, hk⟩ := List.exists_cons_of_ne_nil hn
    have hp : p.switched = { p with key := some k, next := t, pn := 0 } := by
      unfold Port.switched
      rw [hk]
    rw [if_pos h, hp]
    simp only [Option.isSome_some, Bool.and_true, beq_iff_eq, decide_true, Nat.two_pow_pos]
    exact ⟨fun e => ⟨e, .inl ⟨hn, hpn⟩⟩, And.left⟩
  · have hno : ¬ (p.next ≠ [] ∧ 2 ^ 63 ≤ p.pn + 1) := fun e => h (hsw.mpr e)
    rw [if_neg h]
    simp only [hno, false_or, Bool.and_eq_true, beq_iff_eq, decide_eq_true_eq, Option.isSome_iff_ne_none, and_assoc, ne_eq]

theorem State.canSend_iff (s : State) (role : Nat) : s.canSend role = true ↔ ∃ y ∈ s.dev.ports, y.2.role = role ∧
    (y.2.next ≠ [] ∧ 2 ^ 63 ≤ y.2.pn + 1 ∨ y.2.key ≠ none ∧ y.2.pn < 2 ^ 63) := by
  unfold State.canSend
  rw [List.any_eq_true]
  exact exists_congr fun y => and_congr_right fun _ => Port.usable_iff y.2 role

theorem State.reaches_iff (s : State) (x : Coll) (l lv : Nat) : s.reaches x l lv = true ↔
    ((∃ y ∈ x.dests l lv, y.2 = x.c) → s.canSend 1 = true) ∧ ((∃ y ∈ x.dests l lv, y.2 ≠ x.c) → s.canSend 2 = true) := by
  have himp : ∀ (p : Nat × Nat → Bool) (b : Bool) (q : Nat × Nat → Prop), (∀ y, p y = true ↔ ¬ q y) →
      (((x.dests l lv).all p || b) = true ↔ ((∃ y ∈ x.dests l lv, q y) → b = true)) := fun p b q hq => by
    rw [Bool.or_eq_true, List.all_eq_true]
    constructor
    · rintro (h | h) ⟨y, hy, hqy⟩
      · exact absurd hqy ((hq y).mp (h y hy))
      · exact h
    · intro h
      by_cases hb : b = true
      · exact .inr hb
      · exact .inl fun y hy => (hq y).mpr fun hqy => hb (h ⟨y, hy, hqy⟩)
  unfold State.reaches
  rw [Bool.and_eq_true]
  exact and_congr (himp _ _ _ fun y => by simp) (himp _ _ _ fun y => by simp)

theorem State.wake_spec (s : State) (part : Nat) :
    ∃ up rf, s.wake part = { s with uppers := up, dev := { s.dev with refresh := rf } } := by
  have hfold : ∀ (l : List CoreOf) (t : State), ∃ up, l.foldl (fun s c =>
      s.setUpper c.leader { s.upperAt c.leader with power := .run }) t = { t with uppers := up } := by
    intro l
    induction l with
    | nil => exact fun t => ⟨t.uppers, rfl⟩
    | cons c l ih =>
      intro t
      obtain ⟨up, h⟩ := ih (t.setUpper c.leader { t.upperAt c.leader with power := .run })
      exact ⟨up, h⟩
  unfold State.wake
  split
  · exact ⟨s.uppers, s.dev.refresh, rfl⟩
  next p _ =>
    obtain ⟨up, h⟩ := hfold p.cores s
    rw [h]
    exact ⟨up, _, rfl⟩


/-! ### The events -/

section
variable {s : State}

/-- An event of a collective that is none. -/
theorem exec_notColl {id : Nat} {i : Instr} (hi : i ∈ [Instr.collectiveComplete id, .rankUnreachable id])
    (h : ∀ c p, SMap.find s.cmds id = some c → c.kind ≠ .coll p) : exec i s = .next s := by
  have hcoll : execCollectiveComplete id s = .next s := by
    unfold execCollectiveComplete
    split
    · rfl
    next c hc =>
      split
      next p hp => exact absurd hp (h c p hc)
      next => rfl
  have hrank : execRankUnreachable id s = .next s := by
    unfold execRankUnreachable
    split
    · rfl
    next c hc =>
      split
      next p hp => exact absurd hp (h c p hc)
      next => rfl
  simp only [List.mem_cons, List.not_mem_nil, or_false] at hi
  rcases hi with rfl | rfl
  · exact hcoll
  · exact hrank

section
variable {id : Nat} {c : Command} {p : Plan} (hc : SMap.find s.cmds id = some c) (hk : c.kind = .coll p)
include hc hk

theorem exec_rankUnreachable : exec (.rankUnreachable id) s = .next (s.endMembers c.ctx.part p 9) := by
  change execRankUnreachable id s = _
  unfold execRankUnreachable
  simp only [hc, hk]

theorem exec_collective_noGroup (hg : s.groupOf c.ctx.part p.group = none) :
    exec (.collectiveComplete id) s = .next (s.endMembers c.ctx.part p 8) := by
  change execCollectiveComplete id s = _
  unfold execCollectiveComplete
  simp only [hc, hk, hg]

variable {g : Sys2Proof.GroupBody} (hg : s.groupOf c.ctx.part p.group = some g)
include hg

theorem exec_collective_mismatched
    (hm : mismatched p g (s.members c.ctx.part p) (s.collHere c.ctx.part p g).fs = true) :
    exec (.collectiveComplete id) s = .next
      (if ((s.collHere c.ctx.part p g).now (s.announce (s.collHere c.ctx.part p g))).told
        then (s.announce (s.collHere c.ctx.part p g)).endMembers c.ctx.part p 8
        else s.announce (s.collHere c.ctx.part p g)) := by
  change execCollectiveComplete id s = _
  unfold execCollectiveComplete
  simp only [hc, hk, hg, hm, if_true]

/-- Every rank of this device and its leader are there, and no saved core holds an address of theirs. -/
def Coll.Ready (x : Coll) (s : State) : Prop :=
  x.g.n0 ≤ x.mine.length ∧ (x.local 0).isSome = true ∧ ∀ m ∈ x.mine, s.collHeld m = false

variable (hm : mismatched p g (s.members c.ctx.part p) (s.collHere c.ctx.part p g).fs = false)
include hm

theorem exec_collective_matched : exec (.collectiveComplete id) s =
    if (s.collHere c.ctx.part p g).mine.length < g.n0 || ((s.collHere c.ctx.part p g).local 0).isNone ||
        (s.collHere c.ctx.part p g).mine.any s.collHeld then .next s
    else
      match s.advance (s.collHere c.ctx.part p g) with
      | .error (m, e) => .next (s.failMember (s.collHere c.ctx.part p g) m e)
      | .ok t =>
        match ((s.collHere c.ctx.part p g).now t).result with
        | none => .next t
        | some l => .next (t.distribute ((s.collHere c.ctx.part p g).now t) l) := by
  change execCollectiveComplete id s = _
  unfold execCollectiveComplete
  simp only [hc, hk, hg, hm, Bool.false_eq_true, if_false] <;> rfl

theorem exec_collective_waits (hr : ¬ (s.collHere c.ctx.part p g).Ready s) : exec (.collectiveComplete id) s = .next s := by
  rw [exec_collective_matched hc hk hg hm, if_pos]
  by_contra hno
  simp only [Bool.or_eq_true, decide_eq_true_eq, Option.isNone_iff_eq_none, List.any_eq_true, not_or, not_exists, not_and] at hno
  obtain ⟨⟨hlen, hloc⟩, hheld⟩ := hno
  exact hr ⟨Nat.le_of_not_lt hlen, Option.isSome_iff_ne_none.mpr hloc, fun m hm => by simpa using hheld m hm⟩

theorem exec_collective_ready (hr : (s.collHere c.ctx.part p g).Ready s) : exec (.collectiveComplete id) s =
    match s.advance (s.collHere c.ctx.part p g) with
    | .error (m, e) => .next (s.failMember (s.collHere c.ctx.part p g) m e)
    | .ok t =>
      match ((s.collHere c.ctx.part p g).now t).result with
      | none => .next t
      | some l => .next (t.distribute ((s.collHere c.ctx.part p g).now t) l) := by
  obtain ⟨hlen, hloc, hheld⟩ := hr
  rw [exec_collective_matched hc hk hg hm, if_neg]
  simp only [Bool.or_eq_true, decide_eq_true_eq, Option.isNone_iff_eq_none, List.any_eq_true, not_or, not_exists, not_and]
  exact ⟨⟨Nat.not_lt.mpr hlen, Option.isSome_iff_ne_none.mp hloc⟩, fun m hm => by simp [hheld m hm]⟩

end

theorem announce_cons {x : Coll} {m : Member} {l : List Member} (h : x.mine = m :: l) : s.announce x =
    if x.told || !s.reaches x (x.g.coords m.2.2.rank).1 3 then s else s.form x (x.g.coords m.2.2.rank).1 3 4 m [] := by
  unfold State.announce
  rw [h]

theorem formLevel_next {x : Coll} {m : Member} {lv : Nat} {l : List (List Elem)} (hm : x.local 0 = some m) (ho : x.own 0 lv = none) :
    s.formLevel x lv (some l) = if !s.reaches x 0 lv then .ok s else
      match s.contribute m lv (foldVectors l) with
      | .error e => .error e
      | .ok (v, s) => .ok (s.form x 0 lv 4 m (wireElems v)) := by
  unfold State.formLevel
  simp only [hm, ho] <;> rfl

section
variable {port : Nat} {p : Port} (hp : SMap.find s.dev.ports port = some p)
include hp

/-- What a port does with a frame: it keeps one that authenticates and that its role carries, once (R339). -/
theorem exec_frame (f : Frame) : exec (.fabricFrameReceive port f) s =
    if !f.authentic || !levelFits f.level p.role || p.key.isNone || s.dev.running != .up then .next s
    else if s.dev.frames.any (fun x => x.part == f.part && x.group == f.group && x.ident == f.ident && x.rank == f.rank &&
      x.level == f.level) then .next s
    else .next ({ s with dev := { s.dev with frames := s.dev.frames ++ [f] } }.wake f.part) := by
  change execFabricFrameReceive port f s = _
  unfold execFabricFrameReceive
  rw [hp]

theorem exec_keySwitch : exec (.keySwitch port) s = if p.next.isEmpty then .next s
    else .next { s with dev := { s.dev with ports := SMap.put s.dev.ports port p.switched } } := by
  change execKeySwitch port s = _
  unfold execKeySwitch
  rw [hp]

end

theorem State.crcFailures_setCrc (t : Transfer) (n : Nat) : (s.setCrc t n).crcFailures t = n := by
  unfold State.crcFailures State.setCrc
  extract_lets l
  by_cases h : n = 0
  · have hno : l.find? (fun x => x.1 = t) = none := by
      rw [List.find?_eq_none]
      intro x hx
      have := (List.mem_filter.mp hx).2
      simpa using this
    simp [h, hno]
  · simp [h]

theorem State.crcBad_spec (t : Transfer) : (s.crcBad t).poisoned t.pa = true ∧ (s.crcBad t).mem.cells = s.mem.cells ∧
    (s.crcBad t).seqs = s.seqs ∧ (s.crcBad t).dev = s.dev := by
  have hmark : (s.markSector (t.pa / 32)).poisoned t.pa = true := by
    simp [State.poisoned, State.markSector, mem_insertNat]
  unfold State.crcBad
  extract_lets sec u
  split
  · exact ⟨hmark, rfl, rfl, rfl⟩
  · split
    next h => exact ⟨h, rfl, rfl, rfl⟩
    next => exact ⟨hmark, rfl, rfl, rfl⟩

theorem exec_crcFailure (x : Transfer) (crc : BitVec 32) : exec (.crcFailure x crc) s =
    if crc = x.crc then .next (s.setCrc x 0)
    else
      let n := s.crcFailures x + 1
      let s := s.logErr 7 255 3 (sliceOf x.pa) false x.pa (n + if n = 4 then 256 else 0)
      if n < 4 then .next (s.setCrc x n) else .next ((s.crcBad x).setCrc x 0) := rfl

/-- A transaction with a wrong CRC is logged, sent again three times, and then its sector is marked (R322). -/
theorem exec_crcFailure_wrong {x : Transfer} {crc : BitVec 32} (h : crc ≠ x.crc) :
    ∃ t, exec (.crcFailure x crc) s = .next t ∧ t.mem.cells = s.mem.cells ∧ t.seqs = s.seqs ∧
      (s.crcFailures x < 3 → t.crcFailures x = s.crcFailures x + 1 ∧ t.mem = s.mem) ∧
      (3 ≤ s.crcFailures x → t.crcFailures x = 0 ∧ t.poisoned x.pa = true) ∧
      ∃ e, t.dev.log.getLast? = some e ∧ e.kind = 7 ∧ e.d1 = BitVec.ofNat 64 x.pa := by
  obtain ⟨l, lost, hlog⟩ := s.logErr_fields 7 255 3 (sliceOf x.pa) false x.pa
    (s.crcFailures x + 1 + if s.crcFailures x + 1 = 4 then 256 else 0)
  rw [exec_crcFailure, if_neg h]
  dsimp only
  by_cases hn : s.crcFailures x + 1 < 4
  · rw [if_pos hn, hlog]
    exact ⟨_, rfl, rfl, rfl, fun _ => ⟨State.crcFailures_setCrc .., rfl⟩, fun hc => absurd hc (by omega), _,
      List.getLast?_concat .., rfl, rfl⟩
  · rw [if_neg hn, hlog]
    obtain ⟨hpois, hcells, hseqs, hdev⟩ := State.crcBad_spec (s := { s with dev := { s.dev with
      log := l ++ [⟨Config.timeNs s.clock, 7, 255, 3, sliceOf x.pa, false, BitVec.ofNat 64 x.pa,
        BitVec.ofNat 64 (s.crcFailures x + 1 + if s.crcFailures x + 1 = 4 then 256 else 0)⟩], lost := lost } }) x
    refine ⟨_, rfl, hcells, hseqs, fun hc => absurd hc (by omega), fun _ => ⟨State.crcFailures_setCrc .., hpois⟩, _,
      (congrArg (fun d : Dev => d.log.getLast?) hdev).trans (List.getLast?_concat ..), ?_⟩
    exact ⟨rfl, rfl⟩

end

theorem levelFits_iff (level role : Nat) : levelFits level role = true ↔ role = 1 ∨ role = 2 ∧ level ≠ 1 := by
  simp [levelFits]

/-- What frames and key switches do at a port (R339, R340). -/
theorem portEvents {s : State} {port : Nat} {p : Port} (f : Frame) (hp : SMap.find s.dev.ports port = some p) :
    let kept := s.dev.frames.any (fun x =>
      x.part == f.part && x.group == f.group && x.ident == f.ident && x.rank == f.rank && x.level == f.level)
    let takes := f.authentic = true ∧ levelFits f.level p.role = true ∧ p.key ≠ none ∧ s.dev.running = .up ∧ kept = false
    (takes → ∃ t, exec (.fabricFrameReceive port f) s = .next t ∧ t.dev.frames = s.dev.frames ++ [f] ∧ t.mem = s.mem ∧
      t.seqs = s.seqs) ∧
    (¬ takes → exec (.fabricFrameReceive port f) s = .next s) ∧
    (p.next = [] → exec (.keySwitch port) s = .next s) ∧
    (∀ k l, p.next = k :: l → ∃ t, exec (.keySwitch port) s = .next t ∧ t.mem = s.mem ∧ t.seqs = s.seqs ∧
      SMap.find t.dev.ports port = some ⟨p.role, some k, l, 0⟩) := by
  intro kept takes
  refine ⟨fun ⟨ha, hl, hk, hu, hn⟩ => ?_, fun hno => ?_, fun hn => ?_, fun k l hn => ?_⟩
  · obtain ⟨up, rf, hw⟩ := State.wake_spec { s with dev := { s.dev with frames := s.dev.frames ++ [f] } } f.part
    rw [exec_frame hp, if_neg (by simp [ha, hl, Option.isNone_iff_eq_none, hk, hu]), if_neg (by rw [Bool.not_eq_true]; exact hn), hw]
    exact ⟨_, rfl, rfl, rfl, rfl⟩
  · rw [exec_frame hp]
    split
    · rfl
    next h1 =>
      split
      · rfl
      next h2 =>
        simp only [Bool.or_eq_true, Bool.not_eq_true', Option.isNone_iff_eq_none, bne_iff_ne, ne_eq, not_or, not_not,
          Bool.not_eq_false] at h1
        obtain ⟨⟨⟨ha, hl⟩, hk⟩, hu⟩ := h1
        exact absurd ⟨ha, hl, hk, hu, Bool.eq_false_iff.mpr h2⟩ hno
  · rw [exec_keySwitch hp, if_pos (by simp [hn])]
  · rw [exec_keySwitch hp, if_neg (by simp [hn])]
    refine ⟨_, rfl, rfl, rfl, ?_⟩
    rw [show p.switched = ⟨p.role, some k, l, 0⟩ by unfold Port.switched; rw [hn]]
    exact SMap.find_put_same ..

/-- Settles O51: each event by the branches of its own definition. -/
theorem fabricEvents : Obligations.FabricEvents := by
  unfold Obligations.FabricEvents
  refine ⟨fun s id i hi h => exec_notColl hi h, ?_, mismatched_eq_false, ?_, fun l x h => foldVectors_append l x h, ?_, ?_, ?_, ?_,
    fun s port f p hp => portEvents f hp, State.reaches_iff, State.canSend_iff, ?_, levelFits_iff, ?_⟩
  · intro s id c p hc hk part all
    refine ⟨exec_rankUnreachable hc hk, exec_collective_noGroup hc hk, fun g hg => ⟨exec_collective_mismatched hc hk hg,
      exec_collective_waits hc hk hg, fun hm hr => ⟨?_, ?_, ?_⟩⟩⟩
    · intro t ht hres
      rw [exec_collective_ready hc hk hg hm hr, ht]
      dsimp only
      rw [hres]
    · intro t l ht hres
      rw [exec_collective_ready hc hk hg hm hr, ht]
      dsimp only
      rw [hres]
    · intro m e ht
      rw [exec_collective_ready hc hk hg hm hr, ht]
  · exact fun s part st p hs => ⟨State.members_endMembers s part st p hs, State.framesOf_endMembers s part st p⟩
  · intro s x m lv l hm ho
    refine ⟨fun h => ?_, fun v t h hv => ⟨?_, State.form_sent t x 0 lv 4 m (wireElems v)⟩⟩
    · rw [formLevel_next hm ho, if_pos (by simp [h])]
    · rw [formLevel_next hm ho, if_neg (by simp [h]), hv]
  · intro x l
    refine ⟨Coll.hears_iff x, Coll.result_none, fun ht hh => ⟨fun hop hd hc => ?_, fun hop hno => ?_, fun hop hd hc h1 h2 hl hown => ?_⟩⟩
    · rw [Coll.result_heard ht hh, if_neg (by omega), if_pos hop, if_pos ⟨hd, hc⟩]
    · rw [Coll.result_heard ht hh, if_neg (by omega), if_pos hop, if_neg hno]
    · rw [Coll.result_heard ht hh, if_pos hop]
      exact Coll.gather_local hd hc h1 h2 hl hown
  · intro p rank
    simp [Plan.takes]
  · intro s x m l hx rank
    refine ⟨fun h => ?_, fun ht hr => ⟨?_, fun hp => ?_⟩⟩
    · rw [announce_cons hx, if_pos (by rcases h with h | h <;> simp [h, rank] at *)]
    · rw [announce_cons hx, if_neg (by simp [ht]; exact hr)]
    · rw [announce_cons hx, if_neg (by simp [ht]; exact hr)]
      exact State.form_sent s x rank 3 4 m [] hp
  · intro s port f hp
    constructor
    · change execFabricFrameReceive port f s = _
      unfold execFabricFrameReceive
      rw [hp]
    · change execKeySwitch port s = _
      unfold execKeySwitch
      rw [hp]
  · intro s port link lane device ident ranges x crc
    refine ⟨?_, ?_, fun h => ?_, exec_crcFailure_wrong⟩
    · obtain ⟨l, lost, hlog⟩ := s.logErr_fields 6 255 6 (16 + port) false device.toNat ident.toNat
      refine ⟨_, rfl, ?_⟩
      rw [hlog]
      refine ⟨rfl, rfl, rfl, rfl, _, List.getLast?_concat .., rfl, ?_, ?_⟩
      · exact BitVec.ofNat_toNat ..
      · exact BitVec.ofNat_toNat ..
    · obtain ⟨l, lost, hlog⟩ := s.logErr_fields 8 255 6 link false lane 0
      refine ⟨_, rfl, State.logErr_sameMachine .., ?_⟩
      rw [hlog]
      exact ⟨rfl, _, List.getLast?_concat .., rfl, rfl, rfl⟩
    · rw [exec_crcFailure, if_pos h]
      exact ⟨_, rfl, State.crcFailures_setCrc .., rfl, rfl, rfl⟩

end Sys2Proof.Machine

/-!
Ordered scatter-add: joining, adding, leaving, arrival, spill and close (O48).
-/

namespace Sys2Proof.Machine

set_option Elab.async false

/-! ### Joining (R233) -/

section
variable {s t : State}

/-- A round that has been joined stands, is held, and counts one participant more. -/
theorem State.joinRound_ok {loc va n : Nat} {f : Fmt} (h : s.joinRound loc f va n = .ok t) : t.me.held = some loc ∧
    ∃ r, SMap.find t.rounds loc = some r ∧ r.fmt = f ∧ r.parts = n ∧
      r.joined = ((SMap.find s.rounds loc).map (·.joined)).getD 0 + 1 := by
  have hheld : ∀ v : State, (v.setMe { v.me with held := some loc }).me.held = some loc := fun v => by rw [State.me_setMe]
  have hput : ∀ r : Round, SMap.find (SMap.put s.rounds loc r) loc = some r := fun r => SMap.find_put_same ..
  unfold State.joinRound at h
  extract_lets v at h
  split at h
  · cases h
  · split at h
    next r hr =>
      split at h
      · cases h
      next hno =>
        simp only [Bool.or_eq_true, bne_iff_ne, ne_eq, not_or, not_not] at hno
        obtain ⟨⟨⟨-, hn⟩, hf⟩, -⟩ := hno
        cases h
        exact ⟨hheld _, _, hput _, hf, hn, by rw [hr]; rfl⟩
    next hr =>
      split at h
      · cases h
      · cases h
        exact ⟨hheld _, _, hput _, rfl, rfl, by rw [hr]; rfl⟩

end

section
variable {s : State}

theorem exec_scopen {f : Pair} {x : Nat × Fmt} {t : State} (hr : s.Ready (.scopen f))
    (hchk : s.due.scopenCheck (s.sreg f.a) (s.sreg f.b) = .ok x)
    (hj : s.due.commitStrip.mine.joinRound x.1 x.2 (s.sreg f.a).toNat (s.sreg f.b).toNat = .ok t) :
    exec (.scopen f) s = .next (t.notMine.retire (.scopen f) .seq) := by
  refine (show exec (.scopen f) s = run (.scopen f) _ s from rfl).trans (run_done hr ?_)
  refine (closing_ok hchk).trans ?_
  change (match s.due.commitStrip.mine.joinRound x.1 x.2 (s.sreg f.a).toNat (s.sreg f.b).toNat with
    | .error t => Res.trap t s.due.commitStrip
    | .ok t => .done .seq t.notMine) = _
  rw [hj]

/-! ### Adding (R234) -/

theorem exec_scaddO {f : R3} {w : Fmt} {n gs : Nat} {l : List (Nat × Nat × Nat × Nat)} (hr : s.Ready (.scaddO f) (scaddGroup f))
    (h : s.due.scaddCheck true f = .ok (w, n, gs, l)) : exec (.scaddO f) s = .next
      (((s.due.commitStrip.report ⟨n, n, w.width * n, 32 * n, 0, gs⟩).sendUpdates w l).retire (.scaddO f) .seq) :=
  (show exec (.scaddO f) s = runG (.scaddO f) (scaddGroup f) (scaddBody true f) s from rfl).trans
    (runG_done hr ((closing_ok (chk := fun s => s.scaddCheck true f) h).trans rfl))

theorem exec_scaddU {f : R3} {w : Fmt} {n gs : Nat} {l : List (Nat × Nat × Nat × Nat)} (hr : s.Ready (.scaddU f) (scaddGroup f))
    (h : s.due.scaddCheck false f = .ok (w, n, gs, l)) : exec (.scaddU f) s = .next
      (((s.due.commitStrip.report ⟨n, n, w.width * n, 32 * n, 0, gs⟩).sendAdds w l).retire (.scaddU f) .seq) :=
  (show exec (.scaddU f) s = runG (.scaddU f) (scaddGroup f) (scaddBody false f) s from rfl).trans
    (runG_done hr ((closing_ok (chk := fun s => s.scaddCheck false f) h).trans rfl))

theorem exec_scaddU_unordered {f : R3} (hr : s.Ready (.scaddU f) (scaddGroup f)) (hd : s.me.ctl.det.getLsbD 0 = true) :
    exec (.scaddU f) s = .next (s.due.trapped (.scaddU f) (Trap.plain Cause.unordered)) := by
  have hchk : s.due.scaddCheck false f = .error (Trap.plain Cause.unordered) := by
    unfold State.scaddCheck
    exact if_pos (show (!false && s.due.me.ctl.det.getLsbD 0) = true by rw [Bool.not_false, Bool.true_and]; exact hd)
  exact (show exec (.scaddU f) s = runG (.scaddU f) (scaddGroup f) (scaddBody false f) s from rfl).trans
    (runG_trap hr (closing_error hchk) (by decide))

theorem State.sendUpdates_flights {w : Fmt} {l : List (Nat × Nat × Nat × Nat)} {r : Nat} (h : s.me.held = some r) :
    (s.sendUpdates w l).flights = s.flights ++ l.map (fun e =>
      ⟨some r, s.cur, w, e.1, e.2.1, s.widOr0, s.me.ctl.sbase + BitVec.ofNat 64 e.2.2.1, e.2.2.2, s.mySerial⟩) := by
  unfold State.sendUpdates
  simp only [h]

/-! ### Leaving (R236) -/

/-- The act of `scflush`: it waits for its own updates, and then leaves the round. -/
theorem exec_scflush {f : R2} {loc : Nat} (hr : s.Ready (.scflush f)) (h : s.due.scflushCheck (s.sreg f.a) = .ok loc) :
    let w := s.due.commitStrip
    let v := w.walked w.ctx .hw (s.sreg f.a).toNat
    (v.flying loc v.mySerial = true → exec (.scflush f) s = .next { v with waited := true }) ∧
    (v.flying loc v.mySerial = false →
      exec (.scflush f) s = .next (State.retire (.scflush f) .seq ((v.setMe { v.me with
        held := none
        pend := if f.d.val = 0 then v.me.pend else SMap.put v.me.pend f.d.val (.round loc) }).asMine (·.leaveRound loc)))) := by
  intro w v
  refine ⟨fun hf => ?_, fun hf => ?_⟩
  · refine (show exec (.scflush f) s = run (.scflush f) _ s from rfl).trans (run_wait hr ?_)
    refine (closing_ok h).trans ?_
    exact if_pos hf
  · refine (show exec (.scflush f) s = run (.scflush f) _ s from rfl).trans (run_done hr ?_)
    refine (closing_ok h).trans ?_
    exact if_neg (by simpa using hf)

theorem exec_scflush_trap {f : R2} {t : Trap} (hr : s.Ready (.scflush f)) (h : s.due.scflushCheck (s.sreg f.a) = .error t)
    (hc : t.cause ≠ Cause.held) : exec (.scflush f) s = .next (s.due.trapped (.scflush f) t) := by
  refine (show exec (.scflush f) s = run (.scflush f) _ s from rfl).trans (run_trap hr (t := s.due) ?_ hc)
  exact closing_error h

/-- Which round `scflush` names. -/
theorem exec_scflush_names {f : R2} (hr : s.Ready (.scflush f)) :
    let u := s.due
    let a := (s.sreg f.a).toNat
    let trap : Prop := exec (.scflush f) s = .next (u.trapped (.scflush f) (Trap.plain Cause.scatterRound))
    (s.me.held = none → trap) ∧
    ∀ h, s.me.held = some h → u.heldAt u.ctx a = false →
      (∀ loc, u.resolve u.ctx .hw a = .ok loc → (loc = h → u.scflushCheck (s.sreg f.a) = .ok h) ∧ (loc ≠ h → trap)) ∧
      (∀ e r, u.resolve u.ctx .hw a = .error e → SMap.find s.rounds h = some r →
        (r.va = a → u.scflushCheck (s.sreg f.a) = .ok h) ∧
        (r.va ≠ a → exec (.scflush f) s = .next (u.trapped (.scflush f) ⟨Cause.scatterRound, 0, 0, e.page⟩))) := by
  intro u a trap
  refine ⟨fun hn => exec_scflush_trap hr ?_ (by decide), fun h hh hu => ?_⟩
  · unfold State.scflushCheck
    rw [show s.due.me.held = none from hn]
  have hchk : u.scflushCheck (s.sreg f.a) =
      match u.resolve u.ctx .hw a with
      | .ok loc => if loc = h then .ok h else .error (Trap.plain Cause.scatterRound)
      | .error e =>
        if (SMap.find u.rounds h).any (fun r => r.va == a) then .ok h
        else .error { Trap.plain Cause.scatterRound with page := e.page } := by
    unfold State.scflushCheck
    rw [show u.me.held = some h from hh]
    exact if_neg (by rw [Bool.not_eq_true]; exact hu)
  refine ⟨fun loc hl => ⟨fun he => ?_, fun he => exec_scflush_trap hr ?_ (by decide)⟩, fun e r hl hround => ⟨fun he => ?_,
    fun he => exec_scflush_trap hr (t := ⟨Cause.scatterRound, 0, 0, e.page⟩) ?_ (show Cause.scatterRound ≠ Cause.held by decide)⟩⟩
  · rw [hchk, hl]
    exact if_pos he
  · refine hchk.trans ?_
    rw [hl]
    exact if_neg he
  · rw [hchk, hl]
    exact if_pos (by rw [show SMap.find u.rounds h = some r from hround]; simp [he])
  · refine hchk.trans ?_
    rw [hl]
    exact if_neg (by rw [show SMap.find u.rounds h = some r from hround]; simp [he])

/-! ### What arrives, and what a spill leaves (R235) -/

theorem State.poke_flights (s : State) (loc n v f : Nat) : ({ s.poke loc n v with free := f } : State).flights = s.flights := rfl

theorem State.spillSectors_kept {c : Ctx} {va n : Nat} {t : State} (h : s.spillSectors c va n = .ok t) : t.flights = s.flights := by
  induction n generalizing s va with
  | zero =>
    cases h
    rfl
  | succ n ih =>
    unfold State.spillSectors at h
    split at h
    · cases h
    · exact (ih h).trans (State.poke_flights s _ 32 _ _)

theorem State.logErr_flights (s : State) (kind part cls num : Nat) (cont : Bool) (d1 d2 : Nat) :
    (s.logErr kind part cls num cont d1 d2).flights = s.flights := by
  obtain ⟨l, n, h⟩ := s.logErr_fields kind part cls num cont d1 d2
  rw [h]

theorem State.negate_flights (s : State) (p : Option Nat) : (s.negate p).flights = s.flights := by cases p <;> rfl

theorem State.spillRound_flights (s : State) (k loc : Nat) (es : List Update) : (s.spillRound k loc es).flights = s.flights := by
  unfold State.spillRound
  split
  · rfl
  · extract_lets need
    split
    · rfl
    · split
      · rfl
      · split
        · exact (State.logErr_flights ..).trans (State.negate_flights ..)
        next ht => exact (State.spillSectors_kept ht :)

theorem State.spillAll_flights (s : State) (k : Nat) (buf : List Update) : (s.spillAll k buf).flights = s.flights := by
  have hfold : ∀ (l : List Nat) (s : State),
      (l.foldl (fun s r => s.spillRound k r (ofRound buf r)) s).flights = s.flights := by
    intro l
    induction l with
    | nil => exact fun _ => rfl
    | cons r l ih => exact fun s => (ih _).trans (State.spillRound_flights ..)
  exact hfold (roundsIn buf) s

theorem State.leaveRound_kept (s : State) (loc : Nat) : (s.leaveRound loc).flights = s.flights ∧ (s.leaveRound loc).holds = s.holds := by
  unfold State.leaveRound
  split <;> exact ⟨rfl, rfl⟩

theorem State.leftLast_eq {y : Update} {loc : Nat} {r : Round} (hy : y.round = some loc) (hr : SMap.find s.rounds loc = some r) :
    s.leftLast y = if r.leaving.contains y.src && !s.flying loc y.src then
      ({ s with rounds := SMap.put s.rounds loc { r with leaving := r.leaving.erase y.src } } : State).leaveRound loc
    else s := by
  unfold State.leftLast
  simp only [hy, hr]

theorem State.leftLast_kept (s : State) (y : Update) : (s.leftLast y).flights = s.flights ∧ (s.leftLast y).holds = s.holds := by
  unfold State.leftLast
  split
  · exact ⟨rfl, rfl⟩
  · split
    · exact ⟨rfl, rfl⟩
    · split
      · exact State.leaveRound_kept ..
      · exact ⟨rfl, rfl⟩

theorem State.holdUpdate_holds (s : State) (k : Nat) (y : Update) :
    SMap.find (s.holdUpdate k y).holds k = some ((SMap.find s.holds k).getD [] ++ [y]) := SMap.find_put_same ..

/-- The update that arrives for update `x`: an older one with its address and tag, else itself. -/
def State.arriving (s : State) (x : Update) : Update := (s.flights.find? (fun u => u.before x)).getD x

theorem State.arriving_spec (s : State) (x : Update) :
    s.arriving x = x ∨ s.arriving x ∈ s.flights ∧ (s.arriving x).before x = true ∧ (s.arriving x).round = x.round := by
  unfold State.arriving
  cases h : s.flights.find? (fun u => u.before x) with
  | none => exact .inl rfl
  | some y =>
    have hb : y.before x = true := by simpa using List.find?_some h
    refine .inr ⟨List.mem_of_find?_eq_some h, hb, ?_⟩
    unfold Update.before at hb
    exact beq_iff_eq.mp (Bool.and_eq_true_iff.mp hb).1

theorem State.arriving_round (s : State) (x : Update) : (s.arriving x).round = x.round := by
  rcases s.arriving_spec x with h | ⟨-, -, h⟩
  · rw [h]
  · exact h

theorem exec_arrival {n : Nat} {x : Update} (h : s.flights[n]? = some x) : exec (.scaddUpdateArrival n) s =
    match (s.arriving x).round with
    | none => .next (s.addAt (s.arriving x))
    | some _ =>
      let slice := sliceOf (s.arriving x).loc
      let buf := (SMap.find s.holds slice).getD []
      if buf.length < Config.holdEntries then .next ((s.holdUpdate slice (s.arriving x)).leftLast (s.arriving x))
      else if (roundsIn buf).any s.spillHeld then .next s
      else
        match (roundsIn buf).findSome? (fun r => s.spillStall r (ofRound buf r).length) with
        | some (part, va) => .next (s.serviceMap part va)
        | none => .next (((s.spillAll slice buf).holdUpdate slice (s.arriving x)).leftLast (s.arriving x)) := by
  change execScaddUpdateArrival n s = _
  unfold execScaddUpdateArrival
  rw [h]
  rfl

/-- The arrival of an update (R234, R235). -/
theorem exec_scaddUpdateArrival {n : Nat} {x : Update} (hx : s.flights[n]? = some x) :
    ∃ y, (y = x ∨ y ∈ s.flights ∧ y.before x = true ∧ y.round = x.round) ∧
      let k := sliceOf y.loc
      let buf := (SMap.find s.holds k).getD []
      (x.round = none → exec (.scaddUpdateArrival n) s = .next (s.addAt y)) ∧
      (x.round ≠ none → buf.length < 16 → exec (.scaddUpdateArrival n) s = .next ((s.holdUpdate k y).leftLast y)) ∧
      (x.round ≠ none → 16 ≤ buf.length → (∃ r ∈ roundsIn buf, s.spillHeld r = true) →
        exec (.scaddUpdateArrival n) s = .next s) ∧
      (x.round ≠ none → 16 ≤ buf.length → (∀ r ∈ roundsIn buf, s.spillHeld r = false) →
        (∀ r ∈ roundsIn buf, s.spillStall r (ofRound buf r).length = none) →
        ∃ t, exec (.scaddUpdateArrival n) s = .next t ∧ SMap.find t.holds k = some [y] ∧ t.flights = s.flights.erase y) := by
  refine ⟨s.arriving x, s.arriving_spec x, ?_⟩
  intro k buf
  have hround := s.arriving_round x
  have hexec := exec_arrival hx
  rw [hround] at hexec
  cases hr : x.round with
  | none =>
    rw [hr] at hexec
    exact ⟨fun _ => hexec, fun h => absurd rfl h, fun h => absurd rfl h, fun h => absurd rfl h⟩
  | some r =>
    rw [hr] at hexec
    refine ⟨fun h => absurd h (Option.some_ne_none r), fun _ hlen => hexec.trans (if_pos hlen), fun _ hlen hheld => ?_, fun _ hlen hheld hstall => ?_⟩
    · refine hexec.trans ((if_neg (Nat.not_lt.mpr hlen)).trans (if_pos ?_))
      exact List.any_eq_true.mpr hheld
    · have hno : ¬ (roundsIn buf).any s.spillHeld = true := by
        rw [List.any_eq_true]
        rintro ⟨r, hr, h⟩
        exact absurd (hheld r hr) (by simp [h])
      have hnone : (roundsIn buf).findSome? (fun r => s.spillStall r (ofRound buf r).length) = none :=
        List.findSome?_eq_none_iff.mpr hstall
      have hgo := hexec.trans ((if_neg (Nat.not_lt.mpr hlen)).trans (if_neg hno))
      rw [hnone] at hgo
      obtain ⟨hfl, hho⟩ := ((s.spillAll k buf).holdUpdate k (s.arriving x)).leftLast_kept (s.arriving x)
      refine ⟨_, hgo, ?_, ?_⟩
      · rw [hho, State.holdUpdate_holds]
        have : SMap.find (s.spillAll k buf).holds k = some [] := SMap.find_put_same ..
        rw [this]
        rfl
      · rw [hfl]
        exact congrArg (List.erase · (s.arriving x)) (s.spillAll_flights k buf)

/-- A round after the spill of some entries. -/
def Round.spilled (r : Round) (es : List Update) : Round :=
  { r with used := r.used + 32 * (es.length + 1), runs := r.runs ++ [updSort es] }

/-- The spill of one round's entries (R235). -/
theorem State.spillRound_spec {k loc : Nat} {es : List Update} {r : Round} (hr : SMap.find s.rounds loc = some r) :
    (r.failed = true → s.spillRound k loc es = s) ∧
    (r.failed = false → r.size < r.used + 32 * (es.length + 1) →
      s.spillRound k loc es = { s with rounds := SMap.put s.rounds loc { r with failed := true } }) ∧
    (∀ t, r.failed = false → r.used + 32 * (es.length + 1) ≤ r.size →
      s.spillSectors r.ctx (r.base + r.used) (es.length + 1) = .ok t →
      SMap.find (s.spillRound k loc es).rounds loc =
        some { r with used := r.used + 32 * (es.length + 1), runs := r.runs ++ [updSort es] }) := by
  have hspill : s.spillRound k loc es =
      if r.failed then s
      else if r.size < r.used + 32 * (es.length + 1) then { s with rounds := SMap.put s.rounds loc { r with failed := true } }
      else
        match s.spillSectors r.ctx (r.base + r.used) (32 * (es.length + 1) / 32) with
        | .error (e, va) =>
          (({ s with rounds := SMap.put s.rounds loc { r with failed := true } } : State).negate e.page).logErr 11 r.ctx.part 3 k
            false va e.cause
        | .ok s =>
          ({ s with rounds := SMap.put s.rounds loc (r.spilled es) } : State).putCounts loc (r.spilled es) := by
    unfold State.spillRound
    rw [hr] <;> rfl
  refine ⟨fun h => hspill.trans (if_pos h), fun h hl => hspill.trans ((if_neg (by simp [h])).trans (if_pos hl)), fun t h hl ht => ?_⟩
  rw [hspill, if_neg (by simp [h]), if_neg (Nat.not_lt.mpr hl), Nat.mul_div_cancel_left _ (by decide), ht]
  exact SMap.find_put_same ..

end

/-! ### The order of updates (R236) -/

theorem updBefore_iff (x y : Update) : updBefore x y = true ↔ x.va < y.va ∨ (x.va = y.va ∧ (x.wid.toNat < y.wid.toNat ∨
    (x.wid = y.wid ∧ x.idx.toNat ≤ y.idx.toNat))) := by
  unfold updBefore
  by_cases hv : x.va = y.va
  · rw [if_neg (by simpa using hv)]
    by_cases hw : x.wid = y.wid
    · rw [if_neg (by simpa using hw)]
      simp [hv, hw]
    · rw [if_pos hw]
      simp [hv, hw]
  · rw [if_pos hv]
    simp [hv]

theorem updBefore_trans {x y z : Update} (h : updBefore x y = true) (k : updBefore y z = true) : updBefore x z = true := by
  rw [updBefore_iff] at h k ⊢
  simp only [← BitVec.toNat_inj] at h k ⊢
  omega

theorem updBefore_total {x y : Update} (h : updBefore x y = false) : updBefore y x = true := by
  have hno : ¬ updBefore x y = true := by simp [h]
  rw [updBefore_iff] at hno ⊢
  simp only [← BitVec.toNat_inj] at hno ⊢
  omega

theorem markedInsert_perm (l : List (Update × Bool)) (u : Update × Bool) : (markedInsert l u).Perm (u :: l) := by
  induction l with
  | nil => exact List.Perm.refl _
  | cons x t ih =>
    rw [markedInsert]
    split
    · exact (ih.cons x).trans (List.Perm.swap ..)
    · exact List.Perm.refl _

theorem markedInsert_sorted {l : List (Update × Bool)} (h : l.Pairwise (fun x y => updBefore x.1 y.1 = true)) (u : Update × Bool) :
    (markedInsert l u).Pairwise (fun x y => updBefore x.1 y.1 = true) := by
  induction l with
  | nil => exact List.pairwise_singleton ..
  | cons x t ih =>
    obtain ⟨hx, ht⟩ := List.pairwise_cons.mp h
    rw [markedInsert]
    split
    next hu =>
      refine List.pairwise_cons.mpr ⟨fun y hy => ?_, ih ht⟩
      rcases List.mem_cons.mp ((markedInsert_perm t u).mem_iff.mp hy) with rfl | hy
      · exact hu
      · exact hx y hy
    next hu =>
      have hux : updBefore u.1 x.1 = true := updBefore_total (by simpa using hu)
      refine List.pairwise_cons.mpr ⟨fun y hy => ?_, h⟩
      rcases List.mem_cons.mp hy with rfl | hy
      · exact hux
      · exact updBefore_trans hux (hx y hy)

theorem foldl_markedInsert (l : List (Update × Bool)) : ∀ acc : List (Update × Bool),
    acc.Pairwise (fun x y => updBefore x.1 y.1 = true) →
    (l.foldl markedInsert acc).Perm (l ++ acc) ∧ (l.foldl markedInsert acc).Pairwise (fun x y => updBefore x.1 y.1 = true) := by
  induction l with
  | nil => exact fun acc h => ⟨List.Perm.refl _, h⟩
  | cons u t ih =>
    intro acc h
    obtain ⟨hp, hs⟩ := ih (markedInsert acc u) (markedInsert_sorted h u)
    refine ⟨hp.trans (((markedInsert_perm acc u).append_left t).trans ?_), hs⟩
    exact List.perm_middle

section
variable (s : State) (loc : Nat) (r : Round)

theorem State.roundUpdates_spec :
    (s.roundUpdates loc r).Perm
      (s.runUpdates r 0 r.runs ++ (s.holds.flatMap (fun x => ofRound x.2 loc)).map (fun u => (u, false))) ∧
    ((s.roundUpdates loc r).map (·.1)).Pairwise (fun x y => updBefore x y = true) := by
  obtain ⟨hp, hs⟩ := foldl_markedInsert
    (s.runUpdates r 0 r.runs ++ (s.holds.flatMap (fun x => ofRound x.2 loc)).map (fun u => (u, false))) [] List.Pairwise.nil
  rw [List.append_nil] at hp
  exact ⟨hp, List.pairwise_map.mpr hs⟩

theorem State.runUpdates_fst (runs : List (List Update)) : ∀ off, (s.runUpdates r off runs).map (·.1) = runs.flatten := by
  induction runs with
  | nil => exact fun _ => rfl
  | cons x t ih =>
    intro off
    rw [State.runUpdates, List.map_append, ih, List.map_map, List.flatten_cons]
    congr 1
    exact List.map_id' x

end

/-! ### What a close leaves in memory (R236) -/

theorem nodup_eraseDups (l : List Nat) : l.eraseDups.Nodup :=
  match l with
  | [] => List.nodup_nil
  | a :: t => by
    rw [List.eraseDups_cons]
    refine List.nodup_cons.mpr ⟨fun h => ?_, nodup_eraseDups (t.filter (fun b => !b == a))⟩
    have := (List.mem_filter.mp (List.mem_eraseDups.mp h)).2
    simp at this
termination_by l.length
decreasing_by exact Nat.lt_succ_of_le (List.length_filter_le ..)

theorem cellsNat_mod (m : List Host.Cell) (a n : Nat) : cellsNat m a n = cellsNat m a n % 2 ^ (8 * n) := by
  refine cellsNat_of_bytes fun k hk => BitVec.eq_of_toNat_eq ?_
  rw [BitVec.toNat_ofNat]
  exact (cellsNat_div m a n k hk).symm

section
variable {s : State} (h : s.MemoryOk)
include h

theorem State.cellsNat_poke_other {loc n v a sz : Nat} (hd : a + sz ≤ loc ∨ loc + n ≤ a) :
    cellsNat (s.poke loc n v).mem.cells a sz = cellsNat s.mem.cells a sz := by
  refine cellsNat_congr fun k hk => ?_
  have hb := State.byte_pokeAs h s.writer loc n v (a + k)
  rw [if_neg (by omega)] at hb
  exact hb

theorem State.cellsNat_putCounts {loc a sz : Nat} {r : Round} (hd : a + sz ≤ loc ∨ loc + 64 ≤ a) :
    cellsNat (s.putCounts loc r).mem.cells a sz = cellsNat s.mem.cells a sz := by
  unfold State.putCounts
  rw [State.cellsNat_poke_other (h.poke ..) (by omega), State.cellsNat_poke_other h (by omega)]

theorem State.cellsNat_foldAddress (f : Fmt) (loc : Nat) (us : List (Update × Bool)) {a : Nat}
    (hl : loc % (f.width / 8) = 0) (ha : a % (f.width / 8) = 0) :
    cellsNat (s.foldAddress f loc us).mem.cells a (f.width / 8) =
      if a = loc then us.foldl (fun m u => foldAdd f m u.1.val) (cellsNat s.mem.cells a (f.width / 8)) % 2 ^ (8 * (f.width / 8))
      else cellsNat s.mem.cells a (f.width / 8) := by
  have hcells : ∀ v, (State.foldAddress s f loc us).mem.cells = (s.poke loc (f.width / 8) v).mem.cells →
      cellsNat (s.foldAddress f loc us).mem.cells a (f.width / 8) =
        if a = loc then v % 2 ^ (8 * (f.width / 8)) else cellsNat s.mem.cells a (f.width / 8) := fun v hv => by
    rw [hv]
    by_cases he : a = loc
    · rw [if_pos he, he]
      exact State.cellsNat_pokeAs h ..
    · rw [if_neg he]
      refine State.cellsNat_poke_other h ?_
      obtain ⟨i, hi⟩ := Nat.dvd_of_mod_eq_zero hl
      obtain ⟨j, hj⟩ := Nat.dvd_of_mod_eq_zero ha
      rw [hi, hj] at he ⊢
      rcases Nat.lt_or_gt_of_ne (fun e : i = j => he (e ▸ rfl)) with hij | hij
      · exact .inr (Nat.mul_le_mul_left _ hij)
      · exact .inl (Nat.mul_le_mul_left _ hij)
  have hfold := hcells (us.foldl (fun m u => foldAdd f m u.1.val) (cellsNat s.mem.cells loc (f.width / 8))) (by
    unfold State.foldAddress
    extract_lets n v t
    split <;> rfl)
  rw [hfold]
  by_cases he : a = loc
  · rw [if_pos he, if_pos he, he]
  · rw [if_neg he, if_neg he]

end

/-- The folds of a close, address by address: each address is folded once. -/
theorem State.cellsNat_foldAddresses (f : Fmt) (us : List (Update × Bool)) {a : Nat} (ha : a % (f.width / 8) = 0) (l : List Nat) :
    ∀ s : State, s.MemoryOk → l.Nodup → (∀ x ∈ l, x % (f.width / 8) = 0) →
    cellsNat (l.foldl (fun s x => s.foldAddress f x (us.filter (·.1.loc == x))) s).mem.cells a (f.width / 8) =
      if a ∈ l then (us.filter (·.1.loc == a)).foldl (fun m u => foldAdd f m u.1.val) (cellsNat s.mem.cells a (f.width / 8)) %
        2 ^ (8 * (f.width / 8))
      else cellsNat s.mem.cells a (f.width / 8) := by
  induction l with
  | nil => exact fun s _ _ _ => by simp
  | cons x t ih =>
    intro s h hn hl
    obtain ⟨hx, ht⟩ := List.nodup_cons.mp hn
    have hhead := State.cellsNat_foldAddress h f x (us.filter (·.1.loc == x)) (hl x List.mem_cons_self) ha
    rw [List.foldl_cons, ih _ h.foldAddress ht (fun y hy => hl y (List.mem_cons_of_mem _ hy)), hhead]
    by_cases he : a = x
    · rw [if_pos he, he, if_neg hx, if_pos List.mem_cons_self]
    · rw [if_neg he]
      simp only [List.mem_cons, he, false_or]

section
variable {s : State} (loc : Nat) (r : Round)

/-- The state of a close before it frees the descriptor: its sums are written. -/
def State.folded (s : State) (loc : Nat) (r : Round) : State :=
  let us := s.roundUpdates loc r
  let u := if r.failed then s else s.logRuns loc r
  let v := { u with
    holds := u.holds.map (fun (x : Nat × List Update) => (x.1, x.2.filter (fun u => u.round != some loc)))
    rounds := SMap.del u.rounds loc }
  if r.failed then v
  else ((us.map (fun x => x.1.loc)).eraseDups).foldl (fun s a => s.foldAddress r.fmt a (us.filter (·.1.loc == a))) v

theorem State.MemoryOk.folded (h : s.MemoryOk) : (s.folded loc r).MemoryOk := by
  unfold State.folded
  extract_lets us u v
  have hu : u.MemoryOk := by
    unfold u
    split
    · exact h
    · exact h.logRuns
  have hv : v.MemoryOk := hu.withHoldsRounds
  clear_value us v
  split
  · exact hv
  · exact hv.foldl (fun _ _ hs => hs.foldAddress) _

theorem State.closeRound_cells (s : State) : (s.closeRound loc r).mem.cells =
    (((s.folded loc r).addStream r.launch 0 (if r.failed then [] else (s.folded loc r).roundEntries r.fmt (s.roundUpdates loc r))).poke
      loc 8 0 |>.putCounts loc r).mem.cells := rfl

theorem State.cellsNat_closeRound (h : s.MemoryOk) {a sz : Nat} (hd : a + sz ≤ loc ∨ loc + 64 ≤ a) :
    cellsNat (s.closeRound loc r).mem.cells a sz = cellsNat (s.folded loc r).mem.cells a sz := by
  have hf := h.folded loc r
  rw [State.closeRound_cells]
  generalize (if r.failed then [] else (s.folded loc r).roundEntries r.fmt (s.roundUpdates loc r)) = bs
  rw [State.cellsNat_putCounts (hf.addStream.poke ..) hd, State.cellsNat_poke_other hf.addStream (by omega)]
  obtain ⟨-, -, hmem⟩ := (s.folded loc r).addStream_kept r.launch 0 bs
  rw [hmem]

theorem State.logRuns_cells (s : State) : (s.logRuns loc r).mem.cells = s.mem.cells := by
  unfold State.logRuns
  split
  · rfl
  next e va _ =>
    obtain ⟨l, n, hlog⟩ := (s.negate e.page).logErr_fields 11 r.ctx.part 3 (sliceOf loc) false va e.cause
    rw [hlog]
    exact State.negate_cells s e.page

/-- What a close leaves at an address outside the descriptor (R236). -/
theorem State.closeRound_sums (h : s.MemoryOk) {a : Nat} (hd : a + r.fmt.width / 8 ≤ loc ∨ loc + 64 ≤ a) :
    let us := s.roundUpdates loc r
    let sz := r.fmt.width / 8
    let old := cellsNat s.mem.cells a sz
    (r.failed = true → cellsNat (s.closeRound loc r).mem.cells a sz = old) ∧
    (r.failed = false → (∀ u ∈ us, u.1.loc % sz = 0) → a % sz = 0 → cellsNat (s.closeRound loc r).mem.cells a sz =
      (((us.map (·.1)).filter (fun u => u.loc == a)).foldl (fun m u => foldAdd r.fmt m u.val) old) % 2 ^ (8 * sz)) := by
  intro us sz old
  refine ⟨fun hf => ?_, fun hf hal ha => ?_⟩
  · rw [State.cellsNat_closeRound loc r h hd]
    unfold State.folded
    simp only [hf, if_true]
    rfl
  · rw [State.cellsNat_closeRound loc r h hd]
    unfold State.folded
    simp only [hf, Bool.false_eq_true, if_false]
    have hlog := State.logRuns_cells loc r s
    have hok : (s.logRuns loc r).MemoryOk := h.logRuns
    rw [State.cellsNat_foldAddresses r.fmt us ha _ _ hok.withHoldsRounds (nodup_eraseDups _) (fun x hx => by
      obtain ⟨u, hu, rfl⟩ := List.mem_map.mp (List.mem_eraseDups.mp hx)
      exact hal u hu)]
    dsimp only
    rw [hlog, List.filter_map, List.foldl_map]
    split
    · rfl
    next hno =>
      have hnil : us.filter ((fun u : Update => u.loc == a) ∘ fun x => x.1) = [] := by
        rw [List.filter_eq_nil_iff]
        intro u hu
        simp only [Function.comp, beq_iff_eq]
        exact fun e => hno (List.mem_eraseDups.mpr (List.mem_map.mpr ⟨u, hu, e⟩))
      rw [hnil]
      exact cellsNat_mod ..

end

theorem exec_scatterRoundClose (s : State) (r : Nat) :
    (∀ x, SMap.find s.rounds r = some x → x.closing = true → (∀ y, y ∈ s.flights → y.round ≠ some r) →
      exec (.scatterRoundClose r) s = .next ((s.closeRound r x).settle x.launch)) ∧
    ((∀ x, SMap.find s.rounds r = some x → x.closing = false ∨ ∃ y, y ∈ s.flights ∧ y.round = some r) →
      exec (.scatterRoundClose r) s = .next s) := by
  have hexec : exec (.scatterRoundClose r) s = execScatterRoundClose r s := rfl
  rw [hexec]
  unfold execScatterRoundClose
  refine ⟨fun x hx hc hf => ?_, fun h => ?_⟩
  · rw [hx]
    refine if_pos ?_
    rw [hc, Bool.true_and, Bool.not_eq_true', List.any_eq_false]
    intro y hy
    simpa using hf y hy
  · split
    · rfl
    next x hx =>
      refine if_neg ?_
      rw [Bool.and_eq_true, Bool.not_eq_true', List.any_eq_false]
      rintro ⟨hc, hf⟩
      rcases h x hx with h | ⟨y, hy, hr⟩
      · rw [h] at hc
        cases hc
      · exact hf y hy (by simp [hr])

/-- Settles O48: each word and event by its own branches; a close folds each address once, in the order of the sorted updates. -/
theorem scatterRounds : Obligations.ScatterRounds := by
  unfold Obligations.ScatterRounds
  refine ⟨fun s f x t hr => fun hchk hj => ⟨exec_scopen hr hchk hj, (State.joinRound_ok hj :)⟩, ?_, fun s f loc hr hchk => exec_scflush hr hchk,
    fun s f hr => exec_scflush_names hr, ?_, fun s k y => ⟨rfl, State.holdUpdate_holds s k y, rfl⟩, ?_,
    fun s k loc es r hr => State.spillRound_spec hr, fun s r => exec_scatterRoundClose s r, ?_, ?_, updBefore_iff⟩
  · intro s f w n gs l u v
    exact ⟨fun hr h => ⟨exec_scaddO hr h, fun r hheld => State.sendUpdates_flights hheld⟩,
      fun hr h => ⟨exec_scaddU hr h, rfl, rfl⟩, fun hr hd => exec_scaddU_unordered hr hd⟩
  · intro s n
    refine ⟨fun h => ?_, fun x hx => exec_scaddUpdateArrival hx⟩
    change execScaddUpdateArrival n s = _
    unfold execScaddUpdateArrival
    rw [h]
  · exact fun s y h => ⟨rfl, State.cellsNat_pokeAs (s := { s with flights := s.flights.erase y }) h ..⟩
  · intro s y loc r hy hr
    refine ⟨fun h => ?_, fun hl hf => ?_⟩
    · rw [State.leftLast_eq hy hr]
      refine if_neg ?_
      rw [Bool.and_eq_true, List.contains_iff_mem, Bool.not_eq_true']
      rintro ⟨hl, hf⟩
      rcases h with h | h
      · exact h hl
      · rw [h] at hf
        cases hf
    · rw [State.leftLast_eq hy hr]
      exact if_pos (by simp [hl, hf])
  · intro s loc r us held
    obtain ⟨hp, hs⟩ := s.roundUpdates_spec loc r
    exact ⟨hp, hs, s.runUpdates_fst r r.runs 0, fun a h hd => State.closeRound_sums loc r h hd⟩

end Sys2Proof.Machine

/-!
What the ends of records, the queues and the context-save engine leave of the clock, which no event moves (R191, R215, R301).
-/

namespace Sys2Proof.Machine

set_option Elab.async false

/-! ### Folds and simple updates -/

theorem foldl_clock {α : Type} {f : State → α → State} (hf : ∀ s x, (f s x).clock = s.clock) (l : List α) :
    ∀ s : State, (l.foldl f s).clock = s.clock := by
  induction l with
  | nil => exact fun _ => rfl
  | cons x l ih => exact fun s => (ih (f s x)).trans (hf s x)

section
variable (s : State)

@[simp] theorem State.logErr_clock (kind part cls num : Nat) (cont : Bool) (d1 d2 : Nat) :
    (s.logErr kind part cls num cont d1 d2).clock = s.clock := by
  obtain ⟨l, n, h⟩ := s.logErr_fields kind part cls num cont d1 d2
  rw [h]

@[simp] theorem State.logHw_clock (u part : Nat) (e : Miss) (va : Nat) : (s.logHw u part e va).clock = s.clock := by
  unfold State.logHw
  rw [State.logErr_clock, State.negate_clock]

@[simp] theorem State.pokeAs_clock (p loc n v : Nat) : (s.pokeAs p loc n v).clock = s.clock := rfl

@[simp] theorem State.poke_clock (loc n v : Nat) : (s.poke loc n v).clock = s.clock := rfl

@[simp] theorem State.hwWrite_clock (u part va align n v : Nat) : (s.hwWrite u part va align n v).clock = s.clock := by
  unfold State.hwWrite
  split
  · exact s.logHw_clock ..
  · exact s.poke_clock ..

@[simp] theorem State.hashInto_clock (launch serial : Nat) (bs : List Byte) : (s.hashInto launch serial bs).clock = s.clock := by
  unfold State.hashInto
  split <;> rfl

@[simp] theorem State.endStream_clock (r : Rec) : (s.endStream r).clock = s.clock := by
  unfold State.endStream
  split
  · rfl
  · split <;> rfl

@[simp] theorem State.settle_clock (k : Nat) : (s.settle k).clock = s.clock := (State.Settled.settle s k).clock

/-! ### The queues (R188 to R191) -/

theorem State.queued_clock (p loc n v f : Nat) (l : List QEntry) :
    ({ s.pokeAs p loc n v with free := f, queue := l } : State).clock = s.clock := rfl

@[simp] theorem State.putLast_clock (e : QEntry) : (s.putLast e).clock = s.clock := by
  unfold State.putLast
  split
  · rfl
  · split
    · exact s.logHw_clock ..
    · exact State.queued_clock ..

@[simp] theorem State.ageOne_clock (d : Nat) (e : QEntry) : (s.ageOne d e).clock = s.clock := by
  unfold State.ageOne
  split
  · exact State.putLast_clock ..
  · rfl

theorem State.ageFuel_clock (n : Nat) : ∀ s : State, (s.ageFuel n).clock = s.clock := by
  induction n with
  | zero => exact fun _ => rfl
  | succ n ih =>
    intro s
    unfold State.ageFuel
    split
    · rfl
    · exact (ih _).trans (s.ageOne_clock ..)

@[simp] theorem State.ageAll_clock : s.ageAll.clock = s.clock := State.ageFuel_clock _ s

@[simp] theorem State.enqueue_clock (r : Rec) (u level : Nat) : (s.enqueue r u level).clock = s.clock :=
  (State.putLast_clock ..).trans s.ageAll_clock

/-! ### Nests (R210 to R217) -/

@[simp] theorem State.setNode_clock (n x : Nat) (d : Node) : (s.setNode n x d).clock = s.clock := by
  unfold State.setNode
  split <;> rfl

@[simp] theorem State.writeHead_clock (u n x bytes : Nat) : (s.writeHead u n x bytes).clock = s.clock := by
  unfold State.writeHead
  split
  · rfl
  · split
    · rfl
    · dsimp only
      rw [State.hwWrite_clock, State.hwWrite_clock]
      split
      · rfl
      · exact s.setNode_clock ..

@[simp] theorem State.refreshLine_clock (u n x : Nat) : (s.refreshLine u n x).clock = s.clock := by
  unfold State.refreshLine
  split
  · rfl
  · split
    · rfl
    · dsimp only
      split
      · rw [State.hwWrite_clock, State.hwWrite_clock]
      · rw [State.hwWrite_clock]

@[simp] theorem State.setJoin_clock {α : Type} (u part frame count : Nat) (next : List α) :
    (s.setJoin u part frame count next).1.clock = s.clock := by
  unfold State.setJoin
  split
  · exact s.logHw_clock ..
  · exact s.hwWrite_clock ..

@[simp] theorem State.recordFault_clock (u part frame sw : Nat) : (s.recordFault u part frame sw).clock = s.clock := by
  unfold State.recordFault
  split
  · exact s.logHw_clock ..
  · split
    · exact s.hwWrite_clock ..
    · rfl

theorem State.onStatus_clock (u part frame : Nat) {next : State → Nat → State × List Act} (h : ∀ st, (next s st).1.clock = s.clock) :
    (s.onStatus u part frame next).1.clock = s.clock := by
  unfold State.onStatus
  split
  · exact s.logHw_clock ..
  · exact h _

theorem State.startNode_clock (u n x lv : Nat) : (s.startNode u n x lv).1.clock = s.clock := by
  unfold State.startNode
  split
  · rfl
  · split
    · rfl
    next d _ =>
      rename_i t _ _ _
      split
      · rfl
      · have hset : ∀ y, (s.setNode n x y).clock = s.clock := fun y => s.setNode_clock n x y
        extract_lets v
        have hv : v.clock = s.clock := hset _
        clear_value v
        have hjoin : ∀ (k : Nat) (l : List Act), (v.setJoin u t.part d.frame k l).1.clock = s.clock := fun k l =>
          (v.setJoin_clock ..).trans hv
        have hleaf : (if d.code = 0 then v.onStatus u t.part d.frame (fun s st => (s, [Act.finish n x st lv]))
            else
              let (id, s) := v.fresh
              let r : Rec := ⟨d.code, BitVec.ofNat 64 d.frame, BitVec.ofNat 64 (t.frameOf d.parent), d.wid, t.part, t.launch,
                d.depth, some (n, x), d.kind == .cor, none, id⟩
              (s.enqueue r u lv, [])).1.clock = s.clock := by
          split
          · exact (v.onStatus_clock _ _ _ fun _ => rfl).trans hv
          · exact (State.enqueue_clock ..).trans hv
        split
        · exact hleaf
        · exact hleaf
        · exact hjoin ..
        · exact hjoin ..
        · exact hjoin ..
        · exact hjoin ..
        · split
          · exact (v.onStatus_clock _ _ _ fun _ => rfl).trans hv
          · exact hjoin ..

theorem State.freed_clock (loc n v f : Nat) : ({ s.poke loc n v with free := f } : State).clock = s.clock := rfl

@[simp] theorem State.emptyChannel_clock (loc : Nat) : (s.emptyChannel loc).clock = s.clock := by
  unfold State.emptyChannel
  extract_lets g bytes
  exact State.freed_clock ..

@[simp] theorem State.resetNode_clock (u n x : Nat) : (s.resetNode u n x).clock = s.clock := by
  unfold State.resetNode
  split
  · rfl
  · split
    · rfl
    next t _ d _ =>
      extract_lets v w
      have hv : v.clock = s.clock := (State.writeHead_clock ..).trans (s.setNode_clock ..)
      have hw : w.clock = s.clock := by
        unfold w
        split
        · exact (v.emptyChannel_clock _).trans hv
        · exact hv
      clear_value w
      split
      · split
        · exact (State.logHw_clock ..).trans ((w.setNode_clock ..).trans hw)
        · exact (w.hwWrite_clock ..).trans hw
      · exact hw

@[simp] theorem State.resetSubtrees_clock (u n : Nat) (kids : List Nat) : (s.resetSubtrees u n kids).clock = s.clock := by
  refine foldl_clock (fun s k => ?_) kids s
  split
  · rfl
  · exact foldl_clock (fun s y => s.resetNode_clock u n y) _ s

theorem State.stepNode_clock (u n x lv : Nat) : (s.stepNode u n x lv).1.clock = s.clock := by
  unfold State.stepNode
  split
  · rfl
  · split
    · rfl
    · refine s.onStatus_clock _ _ _ fun st => ?_
      split
      · rfl
      · split
        · rw [State.setJoin_clock, State.refreshLine_clock, State.setNode_clock]
        · split
          · rw [State.setJoin_clock, State.refreshLine_clock, State.setNode_clock, State.resetSubtrees_clock]
          · rfl

theorem State.passUp_clock (u n x sw : Nat) (t : Nest) (d : Node) : (s.passUp u n x sw t d).1.clock = s.clock := by
  unfold State.passUp
  split
  · rfl
  · dsimp only
    split
    · exact s.recordFault_clock ..
    · rfl

theorem State.finishNode_clock (u n x sw lv : Nat) : (s.finishNode u n x sw lv).1.clock = s.clock := by
  unfold State.finishNode
  split
  · rfl
  · split
    · rfl
    · extract_lets v
      have hv : v.clock = s.clock := s.setNode_clock ..
      clear_value v
      split
      · exact (v.passUp_clock ..).trans hv
      · split
        · exact (v.passUp_clock ..).trans hv
        · split
          · split
            · exact (v.logHw_clock ..).trans hv
            · exact (v.poke_clock ..).trans hv
          · exact (v.passUp_clock ..).trans hv

@[simp] theorem State.leaveRound_clock (loc : Nat) : (s.leaveRound loc).clock = s.clock := by
  unfold State.leaveRound
  split <;> rfl

@[simp] theorem State.quitRound_clock (loc serial : Nat) : (s.quitRound loc serial).clock = s.clock := by
  unfold State.quitRound
  split
  · split <;> rfl
  · exact s.leaveRound_clock loc

@[simp] theorem State.dropWaiting_clock (r : Rec) (saved : Option Seq) : (s.dropWaiting r saved).clock = s.clock := by
  unfold State.dropWaiting
  extract_lets held v
  refine (State.endStream_clock ..).trans ?_
  unfold v
  cases held with
  | none => rfl
  | some loc => exact s.quitRound_clock ..

theorem State.unqueue_clock {n x : Nat} {y : Nat × Rec × State} (h : s.unqueue n x = some y) : y.2.2.clock = s.clock := by
  unfold State.unqueue at h
  split at h
  · cases h
    exact State.dropWaiting_clock ..
  · split at h
    · cases h
      exact State.dropWaiting_clock ..
    · cases h

@[simp] theorem State.askStop_clock (u : Nat) (why : Purpose) : (s.askStop u why).clock = s.clock := by
  unfold State.askStop
  extract_lets up
  split <;> rfl

theorem State.cancelLeaf_clock (n x : Nat) : (s.cancelLeaf n x).1.clock = s.clock := by
  unfold State.cancelLeaf
  split
  next h => exact s.unqueue_clock h
  · exact foldl_clock (fun s q => s.askStop_clock ..) _ s

theorem State.cancelNode_clock (n x : Nat) : (s.cancelNode n x).1.clock = s.clock := by
  unfold State.cancelNode
  split
  · rfl
  next d _ =>
    have hfold : ∀ {β : Type} (f : State × β → Nat → State × β), (∀ acc y, (f acc y).1.clock = acc.1.clock) →
        ∀ (l : List Nat) (acc : State × β), (l.foldl f acc).1.clock = acc.1.clock := by
      intro β f hf l
      induction l with
      | nil => exact fun _ => rfl
      | cons y l ih => exact fun acc => (ih _).trans (hf acc y)
    refine hfold _ (fun acc y => ?_) _ _
    dsimp only
    split
    · rfl
    · split
      · rfl
      · exact State.setNode_clock ..
      · split
        · exact (State.cancelLeaf_clock ..).trans (State.setNode_clock ..)
        · exact State.setNode_clock ..

theorem State.goneNode_clock (n x : Nat) (r : Rec) : (s.goneNode n x r).1.clock = s.clock := by
  unfold State.goneNode
  split
  · rfl
  · split
    · rfl
    · dsimp only
      split
      · exact State.setNode_clock ..
      · exact State.setNode_clock ..

@[simp] theorem State.noteFrame_clock (r : Rec) : (s.noteFrame r).clock = s.clock := by
  unfold State.noteFrame
  split
  · rfl
  · split <;> rfl

theorem State.readCont_clock (u part launch va lv : Nat) : (s.readCont u part launch va lv).1.clock = s.clock := by
  unfold State.readCont
  split
  · exact s.logHw_clock ..
  · dsimp only
    split
    · split
      · rfl
      · exact s.logErr_clock ..
    · exact (State.enqueue_clock ..).trans (State.noteFrame_clock ..)

theorem State.decrJoin_clock (u part launch va : Nat) (wid : Word) : (s.decrJoin u part launch va wid).1.clock = s.clock := by
  unfold State.decrJoin
  split
  · exact s.logHw_clock ..
  · dsimp only
    split
    · exact s.logErr_clock ..
    · split
      · exact s.hwWrite_clock ..
      · split
        · exact s.hwWrite_clock ..
        · exact (State.readCont_clock ..).trans (s.hwWrite_clock ..)

@[simp] theorem State.putToken_clock (u part va : Nat) (v : Word) : (s.putToken u part va v).clock = s.clock := by
  unfold State.putToken
  split
  · exact s.logHw_clock ..
  · exact s.poke_clock ..

@[simp] theorem State.finalToken_clock (u k : Nat) (v : Word) : (s.finalToken u k v).clock = s.clock := by
  unfold State.finalToken
  extract_lets l w
  have hw : w.clock = s.clock := s.putToken_clock ..
  clear_value w
  split
  · exact hw
  · exact hw

@[simp] theorem State.freeChannels_clock (chans : List (Nat × Nat × Nat)) : (s.freeChannels chans).clock = s.clock := by
  unfold State.freeChannels
  exact foldl_clock (fun s c => s.setSole_clock ..) chans s

@[simp] theorem State.endNest_clock (u n : Nat) (value : Word) : (s.endNest u n value).clock = s.clock := by
  unfold State.endNest
  split
  · rfl
  · extract_lets w
    have hw : w.clock = s.clock := State.freeChannels_clock ..
    clear_value w
    split
    · exact hw
    · exact (w.finalToken_clock ..).trans hw

theorem State.act_clock (a : Act) (u : Nat) : (s.act a u).1.clock = s.clock := by
  cases a with
  | start n x lv => exact s.startNode_clock u n x lv
  | step n x lv => exact s.stepNode_clock u n x lv
  | finish n x sw lv => exact s.finishNode_clock u n x sw lv
  | cancel n x => exact s.cancelNode_clock n x
  | gone n x r => exact s.goneNode_clock n x r
  | decr part launch va wid => exact s.decrJoin_clock u part launch va wid
  | rootEnd n v => exact s.endNest_clock u n v

theorem State.acts_clock (fuel : Nat) : ∀ (s : State) (l : List (Act × Nat)), (s.acts l fuel).clock = s.clock := by
  induction fuel with
  | zero => exact fun _ _ => rfl
  | succ n ih =>
    intro s l
    unfold State.acts
    split
    · rfl
    · exact (ih _ _).trans (s.act_clock ..)

@[simp] theorem State.doActs_clock (l : List (Act × Nat)) : (s.doActs l).clock = s.clock := State.acts_clock _ s l

/-! ### The end of a record (R215, R217) -/

@[simp] theorem State.addAt_clock (x : Update) : (s.addAt x).clock = s.clock := rfl

@[simp] theorem State.landOwn_clock (q : Nat) : (s.landOwn q).clock = s.clock := foldl_clock (fun s x => s.addAt_clock x) _ s

theorem State.writeSector_clock (p sec : Nat) (en : BitVec 32) (data : BitVec 256) : (s.writeSector p sec en data).clock = s.clock := by
  unfold State.writeSector
  split <;> rfl

theorem State.landAll_clock (q : Nat) (stay l : List Unseen) : ∀ s : State, (s.landAll q stay l).clock = s.clock := by
  induction l with
  | nil => exact fun _ => rfl
  | cons p t ih =>
    intro s
    refine (ih _).trans ?_
    unfold State.landPiece
    extract_lets v w
    have hv : v.clock = s.clock := s.writeSector_clock ..
    refine (State.setSeq_clock ..).trans ?_
    unfold w
    split
    · exact hv
    · exact hv

@[simp] theorem State.drainSeq_clock (q : Nat) : (s.drainSeq q).clock = s.clock := State.landAll_clock ..

@[simp] theorem State.dropPins_clock (q : Nat) : (s.dropPins q).clock = s.clock := rfl

@[simp] theorem State.dropRecord_clock (q : Nat) (r : Rec) : (s.dropRecord q r).clock = s.clock := by
  unfold State.dropRecord
  extract_lets m v
  refine (State.setSeq_clock ..).trans ((State.dropPins_clock ..).trans ((State.endStream_clock ..).trans ?_))
  unfold v
  split
  · exact s.quitRound_clock ..
  · rfl

@[simp] theorem State.endCancelled_clock (q : Nat) : (s.endCancelled q).clock = s.clock := by
  unfold State.endCancelled
  extract_lets v m
  have hv : v.clock = s.clock := (State.drainSeq_clock ..).trans (s.landOwn_clock q)
  clear_value v m
  split
  · exact hv
  next r _ =>
    refine (State.settle_clock ..).trans ?_
    have hd : (v.dropRecord q r).clock = s.clock := (v.dropRecord_clock ..).trans hv
    split
    · exact (State.doActs_clock ..).trans hd
    · exact hd

@[simp] theorem State.endStopped_clock (q : Nat) : (s.endStopped q).clock = s.clock := by
  unfold State.endStopped
  split
  · split
    · exact s.endCancelled_clock q
    · rfl
  · rfl

@[simp] theorem State.endStoppedAll_clock (u : Nat) : (s.endStoppedAll u).clock = s.clock :=
  (foldl_clock (fun s q => s.drainSeq_clock q) _ _).trans (foldl_clock (fun s q => s.endStopped_clock q) _ s)

/-! ### The context-save engine (R301 to R304) -/

@[simp] theorem State.putField_clock (base : Nat) (f : Field) : (s.putField base f).clock = s.clock := by
  unfold State.putField
  extract_lets v
  refine (foldl_clock (fun s k => s.markSector_clock _) _ v).trans ?_
  unfold v
  split
  · rfl
  · exact s.poke_clock ..

@[simp] theorem State.saveSole_clock (image j base : Nat) : (s.saveSole image j base).clock = s.clock :=
  (foldl_clock (fun s f => s.putField_clock base f) _ _).trans rfl

@[simp] theorem State.writeSave_clock (x : Saved) (slot image area : Nat) : (s.writeSave x slot image area).clock = s.clock := by
  unfold State.writeSave
  extract_lets soles v w
  have hv : v.clock = s.clock := (foldl_clock (fun s f => s.putField_clock area f) _ _).trans rfl
  have hw : w.clock = v.clock := by
    refine foldl_clock (fun s y => ?_) _ v
    dsimp only
    split
    · exact foldl_clock (fun s f => s.putField_clock _ f) _ s
    · rfl
  exact (foldl_clock (fun s j => s.saveSole_clock ..) _ w).trans (hw.trans hv)

theorem State.saveArea_clock {p image width a : Nat} {t : State} (h : s.saveArea p image width = some (a, t)) : t.clock = s.clock := by
  unfold State.saveArea at h
  split at h
  · cases h
  · split at h
    · cases h
      rfl
    · dsimp only at h
      split at h
      · cases h
      · cases h
        rfl

@[simp] theorem State.keepContext_clock (p : Nat) (c : CoreOf) (why : Purpose) : (s.keepContext p c why).2.clock = s.clock := by
  unfold State.keepContext
  dsimp only
  split
  · rfl
  next a t h => exact (State.writeSave_clock t ..).trans (s.saveArea_clock h)

@[simp] theorem State.requeueSeq_clock (m : Seq) (u : Nat) (block : Option Nat) : (s.requeueSeq m u block).clock = s.clock := by
  unfold State.requeueSeq
  split
  · rfl
  · exact s.ageAll_clock

@[simp] theorem State.requeueAll_clock (u : Nat) (area : Option Nat) : (s.requeueAll u area).clock = s.clock := by
  refine foldl_clock (fun s q => ?_) _ s
  dsimp only
  split
  · exact (State.setSeq_clock ..).trans ((State.dropPins_clock ..).trans (s.requeueSeq_clock ..))
  · rfl

@[simp] theorem State.putAside_clock (p u : Nat) (why : Purpose) (area : Option Nat) : (s.putAside p u why area).clock = s.clock := by
  unfold State.putAside
  extract_lets up alive
  clear_value alive
  split <;> rfl

end

end Sys2Proof.Machine

/-!
Aging and Pop (O52).
-/

namespace Sys2Proof.Machine

set_option Elab.async false

/-! ### What aging leaves alone (R191) -/

/-- What aging leaves: the clock, the uppers, the partitions and the launches. -/
structure State.Aged (s t : State) : Prop where
  clock : t.clock = s.clock
  uppers : t.uppers = s.uppers
  parts : t.parts = s.parts
  launches : t.launches = s.launches

theorem State.Aged.refl (s : State) : s.Aged s := ⟨rfl, rfl, rfl, rfl⟩

theorem State.Aged.trans {s t u : State} (h : s.Aged t) (k : t.Aged u) : s.Aged u :=
  ⟨k.clock.trans h.clock, k.uppers.trans h.uppers, k.parts.trans h.parts, k.launches.trans h.launches⟩

theorem State.Aged.negate (s : State) (p : Option Nat) : s.Aged (s.negate p) := by cases p <;> exact ⟨rfl, rfl, rfl, rfl⟩

theorem State.Aged.logHw (s : State) (u part : Nat) (e : Miss) (va : Nat) : s.Aged (s.logHw u part e va) := by
  unfold State.logHw
  obtain ⟨l, n, h⟩ := (s.negate e.page).logErr_fields 11 part 1 u false va e.cause
  rw [h]
  exact (State.Aged.negate s e.page).trans ⟨rfl, rfl, rfl, rfl⟩

theorem State.Aged.queued (s : State) (p loc n v f : Nat) (l : List QEntry) :
    s.Aged { s.pokeAs p loc n v with free := f, queue := l } := ⟨rfl, rfl, rfl, rfl⟩

section
variable {s : State} {e : QEntry}

theorem State.putLast_head (h : s.ringSlot e = none) : s.putLast e = { s with queue := s.queue ++ [{ e with ring := none }] } := by
  unfold State.putLast
  rw [h]

theorem State.putLast_lost {va : Nat} {m : Miss} (h : s.ringSlot e = some va) (hm : s.hwLoc e.work.part va 32 = .error m) :
    s.putLast e = s.logHw (s.placeUpper e.work e.place) e.work.part m va := by
  unfold State.putLast
  rw [h]
  dsimp only
  rw [hm]

theorem State.putLast_ring {va loc : Nat} (h : s.ringSlot e = some va) (hl : s.hwLoc e.work.part va 32 = .ok loc) :
    s.putLast e = { s.pokeAs otherParty loc 32 (privateSector s.free) with
      free := s.free + 32, queue := s.queue ++ [{ e with ring := some va }] } := by
  unfold State.putLast
  rw [h]
  dsimp only
  rw [hl]

theorem State.logHw_queue (s : State) (u part : Nat) (e : Miss) (va : Nat) : (s.logHw u part e va).queue = s.queue := by
  unfold State.logHw
  obtain ⟨l, n, h⟩ := (s.negate e.page).logErr_fields 11 part 1 u false va e.cause
  rw [h]
  cases e.page <;> rfl

/-- Where a record comes to stand, if it does: last in its queue. -/
theorem State.putLast_queue (s : State) (e : QEntry) : s.Aged (s.putLast e) ∧
    ((s.putLast e).queue = s.queue ∨ ∃ r, (s.putLast e).queue = s.queue ++ [{ e with ring := r }]) := by
  cases h : s.ringSlot e with
  | none =>
    rw [State.putLast_head h]
    exact ⟨⟨rfl, rfl, rfl, rfl⟩, .inr ⟨none, rfl⟩⟩
  | some va =>
    cases hl : s.hwLoc e.work.part va 32 with
    | error m =>
      rw [State.putLast_lost h hl]
      exact ⟨State.Aged.logHw .., .inl (State.logHw_queue ..)⟩
    | ok loc =>
      rw [State.putLast_ring h hl]
      generalize privateSector s.free = v
      exact ⟨State.Aged.queued .., .inr ⟨some va, rfl⟩⟩

end

theorem State.Aged.ageOne (s : State) (d : Nat) (e : QEntry) : s.Aged (s.ageOne d e) := by
  unfold State.ageOne
  split
  · exact State.Aged.trans (t := { s with queue := s.queue.erase e }) ⟨rfl, rfl, rfl, rfl⟩ (State.putLast_queue ..).1
  · exact ⟨rfl, rfl, rfl, rfl⟩

theorem State.Aged.ageFuel (n : Nat) : ∀ s : State, s.Aged (s.ageFuel n) := by
  induction n with
  | zero => exact State.Aged.refl
  | succ n ih =>
    intro s
    unfold State.ageFuel
    split
    · exact .refl s
    · exact (State.Aged.ageOne s ..).trans (ih _)

theorem State.Aged.ageAll (s : State) : s.Aged s.ageAll := State.Aged.ageFuel _ s

theorem State.Aged.theta {s t : State} (h : s.Aged t) (e : QEntry) : t.theta e = s.theta e := by
  unfold State.theta State.launchAt
  rw [h.launches]

theorem State.Aged.upperAt {s t : State} (h : s.Aged t) (u : Nat) : t.upperAt u = s.upperAt u := by
  unfold State.upperAt
  rw [h.uppers]

theorem State.Aged.coreAt {s t : State} (h : s.Aged t) (u : Nat) : t.coreAt u = s.coreAt u := by
  unfold State.coreAt
  rw [h.parts]

/-! ### Aging that is due (R191) -/

theorem State.nextAging_some {s : State} {l : List QEntry} {d : Nat} {e : QEntry} (h : s.nextAging l = some (d, e)) :
    e ∈ l ∧ e.overdue = false ∧ d ≤ s.clock := by
  induction l with
  | nil => cases h
  | cons x t ih =>
    rw [State.nextAging] at h
    have hx : ∀ d', s.ageDue x = some d' → x.overdue = false := fun d' hd => by
      unfold State.ageDue at hd
      cases ho : x.overdue with
      | false => rfl
      | true => rw [ho] at hd; cases hd
    have htail : s.nextAging t = some (d, e) → e ∈ x :: t ∧ e.overdue = false ∧ d ≤ s.clock := fun hn => by
      obtain ⟨hm, ho, hd⟩ := ih hn
      exact ⟨List.mem_cons_of_mem _ hm, ho, hd⟩
    split at h
    · exact htail h
    next d' _ hd =>
      split at h
      · cases h
        exact ⟨List.mem_cons_self, hx _ hd, by assumption⟩
      · cases h
    next d0 e0 d' hn hd =>
      split at h
      next hle =>
        cases h
        exact ⟨List.mem_cons_self, hx _ hd, hle.1⟩
      next =>
        cases h
        exact htail hn

theorem State.nextAging_none {s : State} {l : List QEntry} (h : s.nextAging l = none) {e : QEntry} (he : e ∈ l)
    (ho : e.overdue = false) : s.clock < max e.entered (e.age + s.theta e) := by
  induction l with
  | nil => cases he
  | cons x t ih =>
    rw [State.nextAging] at h
    have hdue : ∀ y : QEntry, y.overdue = false → s.ageDue y = some (max y.entered (y.age + s.theta y)) := fun y hy => by
      unfold State.ageDue
      rw [hy]
      rfl
    split at h
    next hx =>
      rcases List.mem_cons.mp he with rfl | he
      · rw [hdue e ho] at hx
        cases hx
      · exact ih h he
    next d hn hd =>
      split at h
      · cases h
      next hlt =>
        rcases List.mem_cons.mp he with rfl | he
        · rw [hdue e ho] at hd
          cases hd
          omega
        · exact ih hn he
    next =>
      split at h <;> cases h

/-- The steps that a queued record may still take: up to level 3, and there to be overdue. -/
def QEntry.steps (e : QEntry) : Nat := if e.overdue then 0 else 4 - min e.level 3

/-- The steps that a list of records may still take. -/
def queueSteps (l : List QEntry) : Nat := (l.map QEntry.steps).sum

theorem queueSteps_le (l : List QEntry) : queueSteps l ≤ 4 * l.length := by
  induction l with
  | nil => exact Nat.le_refl 0
  | cons e t ih =>
    have he : e.steps ≤ 4 := by
      unfold QEntry.steps
      split <;> omega
    have hc : queueSteps (e :: t) = e.steps + queueSteps t := by simp [queueSteps]
    rw [hc, List.length_cons]
    omega

theorem queueSteps_erase {l : List QEntry} {e : QEntry} (h : e ∈ l) : queueSteps l = e.steps + queueSteps (l.erase e) := by
  unfold queueSteps
  rw [((List.perm_cons_erase h).map QEntry.steps).sum_eq, List.map_cons, List.sum_cons]

theorem queueSteps_overdue {l : List QEntry} {e : QEntry} (h : e ∈ l) (ho : e.overdue = false) (hl : ¬ e.level < 3) :
    queueSteps (l.map (fun x => if x = e then { x with overdue := true } else x)) + 1 ≤ queueSteps l := by
  have he : e.steps = 1 := by
    unfold QEntry.steps
    rw [ho, if_neg (by decide)]
    omega
  have hle : ∀ m : List QEntry, queueSteps (m.map (fun x => if x = e then { x with overdue := true } else x)) ≤ queueSteps m := by
    intro m
    unfold queueSteps
    rw [List.map_map]
    refine List.sum_le_sum fun x _ => ?_
    dsimp only [Function.comp]
    split
    · exact Nat.zero_le _
    · exact Nat.le_refl _
  have hp : queueSteps (l.map (fun x => if x = e then { x with overdue := true } else x)) =
      queueSteps ((l.erase e).map (fun x => if x = e then { x with overdue := true } else x)) := by
    have hperm := ((List.perm_cons_erase h).map (fun x => if x = e then { x with overdue := true } else x)).map QEntry.steps
    unfold queueSteps
    rw [hperm.sum_eq, List.map_cons, List.map_cons, List.sum_cons, if_pos rfl]
    exact Nat.zero_add _
  rw [hp, queueSteps_erase h, he]
  have := hle (l.erase e)
  omega

/-- One step of aging takes a step off the queue, and leaves no record that entered its queue later than now. -/
theorem State.ageOne_steps {s : State} {d : Nat} {e : QEntry} (h : e ∈ s.queue) (ho : e.overdue = false) (hd : d ≤ s.clock)
    (hin : ∀ x ∈ s.queue, x.entered ≤ s.clock) :
    queueSteps (s.ageOne d e).queue + 1 ≤ queueSteps s.queue ∧ ∀ x ∈ (s.ageOne d e).queue, x.entered ≤ s.clock := by
  unfold State.ageOne
  split
  next hl =>
    obtain ⟨-, hq⟩ := State.putLast_queue { s with queue := s.queue.erase e } { e with level := e.level + 1, age := d, entered := d }
    have he : e.steps = 4 - e.level := by
      unfold QEntry.steps
      rw [ho, if_neg (by decide)]
      omega
    have hkeep : ∀ x ∈ s.queue.erase e, x.entered ≤ s.clock := fun x hx => hin x (List.mem_of_mem_erase hx)
    rcases hq with hq | ⟨r, hq⟩
    · rw [hq, queueSteps_erase h, he]
      exact ⟨by dsimp only; omega, hkeep⟩
    · have hlast : queueSteps (s.queue.erase e ++ [{ e with level := e.level + 1, age := d, entered := d, ring := r }]) =
          queueSteps (s.queue.erase e) + (4 - min (e.level + 1) 3) := by
        simp [queueSteps, QEntry.steps, ho]
      rw [hq, queueSteps_erase h, he]
      refine ⟨?_, fun x hx => ?_⟩
      · have := hlast
        dsimp only at this ⊢
        omega
      · rcases List.mem_append.mp hx with hx | hx
        · exact hkeep x hx
        · rw [List.mem_singleton] at hx
          rw [hx]
          exact hd
  next hl =>
    refine ⟨queueSteps_overdue h ho hl, fun x hx => ?_⟩
    obtain ⟨y, hy, rfl⟩ := List.mem_map.mp hx
    have := hin y hy
    split
    · exact this
    · exact this

/-- Aging ends with no record that is due. -/
theorem State.ageFuel_done (n : Nat) : ∀ s : State, queueSteps s.queue ≤ n → (∀ x ∈ s.queue, x.entered ≤ s.clock) →
    ∀ e ∈ (s.ageFuel n).queue, e.overdue = false → s.clock < e.age + s.theta e := by
  induction n with
  | zero =>
    intro s hn _ e he ho
    have hz := queueSteps_erase he
    have : 1 ≤ e.steps := by
      unfold QEntry.steps
      rw [ho, if_neg (by decide)]
      omega
    exact absurd hn (by
      have hq : queueSteps s.queue = e.steps + queueSteps (s.queue.erase e) := hz
      omega)
  | succ n ih =>
    intro s hn hin e he ho
    unfold State.ageFuel at he
    split at he
    next hnone =>
      have hlt := State.nextAging_none hnone he ho
      have := hin e he
      omega
    next d x hsome =>
      obtain ⟨hx, hxo, hd⟩ := State.nextAging_some hsome
      obtain ⟨hsteps, hent⟩ := State.ageOne_steps hx hxo hd hin
      have hag := State.Aged.ageOne s d x
      have := ih (s.ageOne d x) (by omega) (by rw [hag.clock]; exact hent) e he ho
      rw [hag.clock, hag.theta] at this
      exact this

/-- A queue that its head of 64 records has room for stays there. -/
theorem State.ageOne_head {s : State} {d : Nat} {e : QEntry} (h : e ∈ s.queue) (hr : ∀ x ∈ s.queue, x.ring = none)
    (hl : s.queue.length ≤ 64) : (s.ageOne d e).seqs = s.seqs ∧ (s.ageOne d e).mem = s.mem ∧
      (s.ageOne d e).queue.length = s.queue.length ∧ ∀ x ∈ (s.ageOne d e).queue, x.ring = none := by
  have hpos : 0 < s.queue.length := List.length_pos_of_mem h
  have hlen := List.length_erase_of_mem h
  unfold State.ageOne
  split
  · have hslot : State.ringSlot { s with queue := s.queue.erase e } { e with level := e.level + 1, age := d, entered := d } = none := by
      unfold State.ringSlot
      refine if_pos ⟨?_, ?_⟩
      · refine Nat.lt_of_le_of_lt (List.length_filter_le ..) ?_
        change (s.queue.erase e).length < 64
        omega
      · rw [List.filterMap_eq_nil_iff]
        intro x hx
        exact hr x (List.mem_of_mem_erase (List.mem_filter.mp hx).1)
    rw [State.putLast_head hslot]
    refine ⟨rfl, rfl, ?_, fun x hx => ?_⟩
    · rw [List.length_append, hlen, List.length_singleton]
      omega
    · rcases List.mem_append.mp hx with hx | hx
      · exact hr x (List.mem_of_mem_erase hx)
      · rw [List.mem_singleton.mp hx]
  · refine ⟨rfl, rfl, List.length_map .., fun x hx => ?_⟩
    obtain ⟨y, hy, rfl⟩ := List.mem_map.mp hx
    have := hr y hy
    split <;> exact this

theorem State.ageFuel_head (n : Nat) : ∀ s : State, (∀ x ∈ s.queue, x.ring = none) → s.queue.length ≤ 64 →
    (s.ageFuel n).seqs = s.seqs ∧ (s.ageFuel n).mem = s.mem ∧ (s.ageFuel n).queue.length = s.queue.length := by
  induction n with
  | zero => exact fun s _ _ => ⟨rfl, rfl, rfl⟩
  | succ n ih =>
    intro s hr hl
    unfold State.ageFuel
    split
    · exact ⟨rfl, rfl, rfl⟩
    next d e hsome =>
      obtain ⟨hs, hm, hq, hk⟩ := State.ageOne_head (d := d) (State.nextAging_some hsome).1 hr hl
      obtain ⟨hs', hm', hq'⟩ := ih (s.ageOne d e) hk (hq ▸ hl)
      exact ⟨hs'.trans hs, hm'.trans hm, hq'.trans hq⟩

/-- AGING (R191). -/
theorem exec_aging (s : State) (hin : ∀ e, e ∈ s.queue → e.entered ≤ s.clock) : ∃ t, exec .aging s = .next t ∧ t.clock = s.clock ∧
    (∀ e, e ∈ t.queue → e.overdue = false → s.clock < e.age + t.theta e) ∧
    ((∀ e, e ∈ s.queue → e.ring = none) → s.queue.length ≤ 64 →
      t.seqs = s.seqs ∧ t.mem = s.mem ∧ t.queue.length = s.queue.length) := by
  have hag := State.Aged.ageAll s
  refine ⟨s.ageAll, rfl, hag.clock, fun e he ho => ?_, State.ageFuel_head _ s⟩
  rw [hag.theta]
  exact State.ageFuel_done _ s (queueSteps_le _) hin e he ho

/-! ### Where a queued record comes to stand (R188) -/

theorem State.queued_sameBytesBut {s : State} (hm : s.MemoryOk) (p loc n v f : Nat) (l : List QEntry) :
    SameBytesBut loc n s { s.pokeAs p loc n v with free := f, queue := l } := State.pokeAs_sameBytesBut hm p loc n v

theorem State.putLast_spec (s : State) (e : QEntry) :
    (s.ringSlot e = none → s.putLast e = { s with queue := s.queue ++ [{ e with ring := none }] }) ∧
    ∀ va, s.ringSlot e = some va →
      (∀ m, s.hwLoc e.work.part va 32 = .error m →
        s.putLast e = s.logHw (s.placeUpper e.work e.place) e.work.part m va) ∧
      (∀ loc, s.MemoryOk → s.hwLoc e.work.part va 32 = .ok loc →
        (s.putLast e).queue = s.queue ++ [{ e with ring := some va }] ∧ SameBytesBut loc 32 s (s.putLast e)) := by
  refine ⟨State.putLast_head, fun va h => ⟨fun m => State.putLast_lost h, fun loc hm hl => ?_⟩⟩
  rw [State.putLast_ring h hl]
  exact ⟨rfl, State.queued_sameBytesBut hm otherParty loc 32 _ _ _⟩

end Sys2Proof.Machine

/-!
Pop, and how a record comes to run (O52).
-/

namespace Sys2Proof.Machine

set_option Elab.async false

/-! ### Who takes a record (R192) -/

theorem State.modeAt_ageAll (s : State) (q : Nat) : (s.ageAll.seqAt q).mode = (s.seqAt q).mode := by
  have h : s.ageAll.seqAt q = _ := (State.SameSeqs.ageFuel (4 * s.queue.length) s).1 q
  rw [h]

/-- The least of a list, kept from a first one on. -/
theorem foldl_min_mem (l : List Nat) : ∀ (b : Option Nat) (r : Nat),
    l.foldl (fun b r => some (match b with
      | none => r
      | some x => min x r)) b = some r → r ∈ l ∨ b = some r := by
  induction l with
  | nil => exact fun b r h => .inr h
  | cons y t ih =>
    intro b r h
    rcases ih _ r h with h | h
    · exact .inl (List.mem_cons_of_mem _ h)
    · cases b with
      | none =>
        cases h
        exact .inl List.mem_cons_self
      | some x =>
        have hxy : min x y = r := Option.some.inj h
        rcases Nat.le_total x y with hle | hle
        · exact .inr (by rw [← hxy, Nat.min_eq_left hle])
        · exact .inl (by rw [← hxy, Nat.min_eq_right hle]; exact List.mem_cons_self)

theorem State.rival_some {s : State} {q r : Nat} {e : QEntry} (h : s.rival q e = some r) :
    r < q ∧ (s.seqAt r).mode = .idle ∧ s.popChoice (upperOf r) = some e := by
  unfold State.rival at h
  rcases foldl_min_mem _ _ _ h with hm | hm
  · have hp := (List.mem_filter.mp hm).2
    simp only [Bool.and_eq_true, decide_eq_true_eq, beq_iff_eq] at hp
    obtain ⟨⟨hlt, hidle⟩, hc⟩ := hp
    exact ⟨hlt, hidle, hc⟩
  · cases hm

/-- POP (R192): aging first; then the lowest idle sequencer that reaches for the record takes it. -/
theorem exec_pop (s : State) (q : Nat) :
    let a := s.ageAll
    ((s.seqAt q).mode ≠ .idle → exec (.pop q) s = .next a) ∧
    ((s.seqAt q).mode = .idle → a.popChoice (upperOf q) = none → exec (.pop q) s = .next a) ∧
    ∀ e, (s.seqAt q).mode = .idle → a.popChoice (upperOf q) = some e →
      (∀ r, a.rival q e = some r → r < q ∧ (a.seqAt r).mode = .idle ∧ a.popChoice (upperOf r) = some e ∧
        exec (.pop q) s = .next ((a.popBy r e).popFor q (4 * a.leaders.length))) ∧
      (a.rival q e = none → exec (.pop q) s = .next (a.popBy q e)) := by
  intro a
  have hexec : exec (.pop q) s = .next (if (a.seqAt q).mode = .idle then a.popFor q (4 * a.leaders.length + 1) else a) := rfl
  rw [hexec, s.modeAt_ageAll q]
  refine ⟨fun hm => ?_, fun hm hc => ?_, fun e hm hc => ⟨fun r hr => ?_, fun hr => ?_⟩⟩
  · rw [if_neg hm]
  · rw [if_pos hm, State.popFor, hc]
  · obtain ⟨hlt, hidle, hce⟩ := State.rival_some hr
    refine ⟨hlt, hidle, hce, ?_⟩
    rw [if_pos hm, State.popFor, hc]
    dsimp only
    rw [hr]
  · rw [if_pos hm, State.popFor, hc]
    dsimp only
    rw [hr]

/-! ### How a record comes to run (R184, R222, R305) -/

section
variable (s : State)

theorem State.negate_queue (p : Option Nat) : (s.negate p).queue = s.queue := by cases p <;> rfl

theorem State.abandonStrip_queue : s.abandonStrip.queue = s.queue := by
  unfold State.abandonStrip
  split <;> rfl

theorem State.takeTrap_queue (t : Trap) : (s.takeTrap t).queue = s.queue := by
  unfold State.takeTrap
  extract_lets v res tgt w m pc n x
  have hv : v.queue = s.queue := s.negate_queue t.page
  split
  · unfold State.takeDoubleFault
    exact v.abandonStrip_queue.trans hv
  · exact v.abandonStrip_queue.trans hv

theorem State.openStream_queue (launch serial : Nat) : (s.openStream launch serial).queue = s.queue := by
  unfold State.openStream State.hashInto
  split <;> rfl

theorem State.badEntry_queue (code : Word) : (s.badEntry code).queue = s.queue := by
  unfold State.badEntry
  exact s.takeTrap_queue _

theorem State.enter_queue (r : Rec) (level age : Nat) : (s.enter r level age).queue = s.queue := by
  unfold State.enter
  extract_lets m regs v w
  have hw : w.queue = s.queue := (State.setMe_queue ..).trans (s.openStream_queue ..)
  clear_value w
  split
  · exact hw
  · exact (w.badEntry_queue _).trans hw

theorem State.runEntry_queue (e : QEntry) : (s.runEntry e).queue = s.queue := by
  unfold State.runEntry
  split
  · rfl
  · split
    · exact s.enter_queue ..
    · split
      · exact s.logHw_queue ..
      · extract_lets r v m w
        have hw : w.queue = s.queue := (v.setMe_queue _).trans (s.enter_queue ..)
        clear_value w
        split
        · exact hw
        · exact hw

end

section
variable {s : State} {e : QEntry}

/-- The state in which sequencer q runs a record that it has taken. -/
def State.taking (s : State) (q : Nat) (e : QEntry) : State := { s with queue := s.queue.erase e, cur := q }

theorem State.ringFault_taking (q : Nat) : (s.taking q e).ringFault e = s.ringFault e := rfl

theorem State.popBy_fault {q va : Nat} {x : Miss} (h : s.ringFault e = some (x, va)) :
    s.popBy q e = { (s.taking q e).logHw (upperOf q) e.work.part x va with cur := s.cur } := by
  have hpop : s.popBy q e = match (s.taking q e).ringFault e with
    | some (m, va) => { (s.taking q e).logHw (upperOf q) e.work.part m va with cur := s.cur }
    | none => { (s.taking q e).runEntry e with cur := s.cur } := rfl
  rw [hpop, State.ringFault_taking, h]

theorem State.popBy_run {q : Nat} (h : s.ringFault e = none) : s.popBy q e = { (s.taking q e).runEntry e with cur := s.cur } := by
  have hpop : s.popBy q e = match (s.taking q e).ringFault e with
    | some (m, va) => { (s.taking q e).logHw (upperOf q) e.work.part m va with cur := s.cur }
    | none => { (s.taking q e).runEntry e with cur := s.cur } := rfl
  rw [hpop, State.ringFault_taking, h]

theorem State.popBy_queue (q : Nat) : (s.popBy q e).queue = s.queue.erase e := by
  cases h : s.ringFault e with
  | none =>
    rw [State.popBy_run h]
    exact (s.taking q e).runEntry_queue e
  | some x =>
    obtain ⟨m, va⟩ := x
    rw [State.popBy_fault h]
    exact (s.taking q e).logHw_queue ..

theorem State.popBy_cur (q : Nat) : (s.popBy q e).cur = s.cur := by
  cases h : s.ringFault e with
  | none => rw [State.popBy_run h]
  | some x =>
    obtain ⟨m, va⟩ := x
    rw [State.popBy_fault h]

theorem State.logHw_withCur (s : State) (c u part : Nat) (x : Miss) (va : Nat) :
    ({ s with cur := c } : State).logHw u part x va = { s.logHw u part x va with cur := c } := by
  unfold State.logHw State.logErr
  cases x.page with
  | none =>
    dsimp only [State.negate]
    split <;> rfl
  | some k =>
    dsimp only [State.negate]
    split <;> rfl

theorem State.withCur_self {s : State} {c : Nat} (h : s.cur = c) : { s with cur := c } = s := by
  subst h
  rfl

theorem State.popBy_logged {q va : Nat} {x : Miss} (h : s.ringFault e = some (x, va)) :
    s.popBy q e = ({ s with queue := s.queue.erase e } : State).logHw (upperOf q) e.work.part x va := by
  have hcur : (({ s with queue := s.queue.erase e } : State).logHw (upperOf q) e.work.part x va).cur = s.cur :=
    (State.SameSeqs.logHw ..).2
  have hlog := State.logHw_withCur { s with queue := s.queue.erase e } q (upperOf q) e.work.part x va
  rw [State.popBy_fault h]
  exact (congrArg (fun v : State => { v with cur := s.cur }) hlog).trans (State.withCur_self hcur)

/-- A record that is entered at its code pointer (R184). -/
theorem State.popBy_enters {q : Nat} (h : s.ringFault e = none) (hs : e.saved = none) (hr : e.work.resume = none)
    (hc : e.work.code.toNat < 2 ^ 57) (ha : e.work.code.toNat % 4 = 0) :
    let m := (s.popBy q e).seqAt q
    m.mode = .running ∧ m.pc = e.work.code.setWidth 57 ∧ m.sreg 1 = e.work.frame ∧ m.sreg 2 = e.work.wid ∧
      m.sreg 3 = e.work.join ∧ (∀ r : Reg, 4 ≤ r.val → m.sreg r = 0) ∧ m.work = some e.work ∧ m.level = e.level ∧
      m.strip = none ∧ m.loops.depth = 0 ∧ m.ctl.status = 0 := by
  intro m
  have hrun : (s.taking q e).runEntry e = (s.taking q e).enter e.work e.level e.age := by
    unfold State.runEntry
    simp only [hs, hr]
  have hm : m = { (s.seqAt q).cleared with
      pc := e.work.code.setWidth 57
      regs := (((s.seqAt q).cleared.regs.set 1 e.work.frame).set 2 e.work.wid).set 3 e.work.join
      ctl := ((s.taking q e).openStream e.work.launch e.work.serial).entryCtl e.work
      mode := .running, work := some e.work, level := e.level, age := e.age
      ready := max ((s.taking q e).openStream e.work.launch e.work.serial).clock (s.seqAt q).cleared.ready } := by
    change (s.popBy q e).seqAt q = _
    rw [State.popBy_run h, hrun]
    unfold State.enter
    rw [if_pos ⟨hc, ha⟩]
    have hcur : ((s.taking q e).openStream e.work.launch e.work.serial).cur = q := by
      unfold State.openStream State.hashInto
      split <;> rfl
    have hset : ∀ (v : State) (y : Seq), v.cur = q → State.seqAt { v.setMe y with cur := s.cur } q = y := fun v y hv => by
      have := v.me_setMe y
      rw [State.me, State.setMe_cur, hv] at this
      exact this
    exact hset _ _ hcur
  rw [hm]
  refine ⟨rfl, rfl, ?_, ?_, ?_, fun r hr4 => ?_, rfl, rfl, rfl, rfl, rfl⟩
  · simp [Seq.sreg, Vector.get_eq_getElem]
  · simp [Seq.sreg, Vector.get_eq_getElem]
  · simp [Seq.sreg, Vector.get_eq_getElem]
  · have hz : (s.seqAt q).cleared.regs.get r = 0 := by
      simp [Seq.cleared, Seq.reset, Vector.get_eq_getElem]
    unfold Seq.sreg
    split
    · rfl
    · rw [Vector.get_eq_getElem] at hz ⊢
      rw [Vector.getElem_set, if_neg (by omega), Vector.getElem_set, if_neg (by omega), Vector.getElem_set, if_neg (by omega)]
      exact hz

/-- A saved context as a record that is popped continues it. -/
def Seq.continues (m old : Seq) (keep : Bool) (e : QEntry) : Seq := { m.resumed old keep with level := e.level, age := e.age }

theorem State.runEntry_saved {n : Seq} (hs : e.saved = some n) : ∃ (v : State) (image : Nat), v.cur = s.cur ∧
    s.runEntry e = v.setMe ((Seq.continues n s.me (s.workCancelled n) e).rehomed image) := by
  refine ⟨s.setMe (Seq.continues n s.me (s.workCancelled n) e), (s.setMe (Seq.continues n s.me (s.workCancelled n) e)).image,
    rfl, ?_⟩
  unfold State.runEntry
  simp only [hs]
  rw [← Seq.continues, State.me_setMe]

/-- A saved context that continues (R305). -/
theorem State.popBy_continues {q : Nat} {n : Seq} (h : s.ringFault e = none) (hs : e.saved = some n) :
    let m := (s.popBy q e).seqAt q
    ((∃ k, n.mode = .stopped k) → s.workCancelled n = false → m.mode = .running) ∧
      m.pc = n.pc ∧ m.regs = n.regs ∧ m.vregs = n.vregs ∧ m.masks = n.masks ∧ m.loops = n.loops ∧ m.ctl = n.ctl ∧
      m.dist = n.dist ∧ m.strip.map (fun x => { x with buf := [] }) = n.strip.map (fun x => { x with buf := [] }) := by
  intro m
  obtain ⟨v, image, hcur, hrun⟩ := State.runEntry_saved (s := s.taking q e) hs
  have hset : ∀ y : Seq, State.seqAt { v.setMe y with cur := s.cur } q = y := fun y => by
    have := v.me_setMe y
    rw [State.me, State.setMe_cur, hcur] at this
    exact this
  have hm : m = (Seq.continues n (s.taking q e).me ((s.taking q e).workCancelled n) e).rehomed image := by
    change (s.popBy q e).seqAt q = _
    rw [State.popBy_run h, hrun]
    exact hset _
  rw [hm]
  refine ⟨fun ⟨k, hk⟩ hc => ?_, rfl, rfl, rfl, rfl, rfl, rfl, rfl, ?_⟩
  · have hc' : (s.taking q e).workCancelled n = false := hc
    simp [Seq.rehomed, Seq.continues, Seq.resumed, hk, hc']
  · simp only [Seq.rehomed, Seq.continues, Seq.resumed, Option.map_map]
    rfl

end

/-! ### Pop of R192 -/

section
variable {u : Nat}

theorem ringDistance_lt (u v : Nat) : ringDistance u v < Config.allUppers := Nat.mod_lt _ (by decide)

theorem leastDistance_spec (u : Nat) {l : List QEntry} (h : l ≠ []) :
    (∀ e ∈ l, leastDistance u l ≤ ringDistance u e.place) ∧ ∃ e ∈ l, ringDistance u e.place = leastDistance u l := by
  have hgen : ∀ (l : List QEntry) (d : Nat), l.foldl (fun d e => min d (ringDistance u e.place)) d ≤ d ∧
      (∀ e ∈ l, l.foldl (fun d e => min d (ringDistance u e.place)) d ≤ ringDistance u e.place) ∧
      (l.foldl (fun d e => min d (ringDistance u e.place)) d = d ∨
        ∃ e ∈ l, ringDistance u e.place = l.foldl (fun d e => min d (ringDistance u e.place)) d) := by
    intro l
    induction l with
    | nil => exact fun d => ⟨Nat.le_refl d, by simp, .inl rfl⟩
    | cons x t ih =>
      intro d
      obtain ⟨hle, hall, hex⟩ := ih (min d (ringDistance u x.place))
      rw [List.foldl_cons]
      refine ⟨by omega, fun e he => ?_, ?_⟩
      · rcases List.mem_cons.mp he with rfl | he
        · omega
        · exact hall e he
      · rcases hex with hex | ⟨e, he, hd⟩
        · rcases Nat.le_total d (ringDistance u x.place) with hd | hd
          · exact .inl (by rw [hex, Nat.min_eq_left hd])
          · exact .inr ⟨x, List.mem_cons_self, by rw [hex, Nat.min_eq_right hd]⟩
        · exact .inr ⟨e, List.mem_cons_of_mem _ he, hd⟩
  obtain ⟨hle, hall, hex⟩ := hgen l Config.allUppers
  refine ⟨hall, hex.resolve_left fun heq => ?_⟩
  obtain ⟨x, hx⟩ := List.exists_mem_of_ne_nil l h
  have h1 := hall x hx
  have h2 := ringDistance_lt u x.place
  omega

theorem mem_fronts {l : List QEntry} {e : QEntry} : e ∈ fronts l ↔ e ∈ l ∧ l.find? (·.level == e.level) = some e := by
  unfold fronts
  rw [List.mem_filter, beq_iff_eq]

theorem fronts_ne_nil {l : List QEntry} (h : l ≠ []) : fronts l ≠ [] := by
  obtain ⟨x, t, rfl⟩ := List.exists_cons_of_ne_nil h
  have : x ∈ fronts (x :: t) := mem_fronts.mpr ⟨List.mem_cons_self, by simp⟩
  exact List.ne_nil_of_mem this

/-- The oldest of a list, the first of equally old ones. -/
theorem foldl_older (t : List QEntry) : ∀ x : QEntry,
    let e := t.foldl older x
    e ∈ x :: t ∧ (∀ y ∈ x :: t, e.age ≤ y.age) ∧ (x :: t).find? (·.age == e.age) = some e := by
  induction t with
  | nil => exact fun x => ⟨List.mem_cons_self, by simp, by simp⟩
  | cons z t ih =>
    intro x e
    obtain ⟨hm, hle, hf⟩ := ih (older x z)
    have he : e = t.foldl older (older x z) := rfl
    rw [← he] at hm hle hf
    have hold : older x z = if z.age < x.age then z else x := rfl
    by_cases hz : z.age < x.age
    · rw [hold, if_pos hz] at hm hle hf
      refine ⟨List.mem_cons_of_mem _ hm, fun y hy => ?_, ?_⟩
      · rcases List.mem_cons.mp hy with rfl | hy
        · exact Nat.le_trans (hle z List.mem_cons_self) (Nat.le_of_lt hz)
        · exact hle y hy
      · have hxe : (x.age == e.age) = false := by
          have := hle z List.mem_cons_self
          simp only [beq_eq_false_iff_ne, ne_eq]
          omega
        rw [List.find?_cons, hxe]
        exact hf
    · rw [hold, if_neg hz] at hm hle hf
      refine ⟨?_, fun y hy => ?_, ?_⟩
      · rcases List.mem_cons.mp hm with h | h
        · exact List.mem_cons.mpr (.inl h)
        · exact List.mem_cons_of_mem _ (List.mem_cons_of_mem _ h)
      · rcases List.mem_cons.mp hy with rfl | hy
        · exact hle _ List.mem_cons_self
        · rcases List.mem_cons.mp hy with rfl | hy
          · exact Nat.le_trans (hle x List.mem_cons_self) (Nat.le_of_not_lt hz)
          · exact hle y (List.mem_cons_of_mem _ hy)
      · rw [List.find?_cons] at hf ⊢
        by_cases hx : (x.age == e.age) = true
        · rw [hx] at hf ⊢
          exact hf
        · rw [Bool.not_eq_true] at hx
          rw [hx] at hf ⊢
          have hze : (z.age == e.age) = false := by
            have h1 := hle x List.mem_cons_self
            have h2 : x.age ≠ e.age := by simpa using hx
            simp only [beq_eq_false_iff_ne, ne_eq]
            omega
          dsimp only at hf ⊢
          rw [List.find?_cons, hze]
          exact hf

/-- The oldest record of a list: the first of its level there, the first of its age among the first of each level. -/
structure Oldest (l : List QEntry) (e : QEntry) : Prop where
  mem : e ∈ l
  first : l.find? (·.level == e.level) = some e
  tie : (fronts l).find? (·.age == e.age) = some e
  least : ∀ lv x, l.find? (·.level == lv) = some x → e.age ≤ x.age

theorem oldestHere_some {l : List QEntry} {e : QEntry} (h : oldestHere l = some e) : Oldest l e := by
  unfold oldestHere at h
  split at h
  · cases h
  next x t hf =>
    have he : e = t.foldl older x := (Option.some.inj h).symm
    obtain ⟨hm, hle, hfind⟩ := foldl_older t x
    rw [← he, ← hf] at hm hle hfind
    obtain ⟨hl, hfirst⟩ := mem_fronts.mp hm
    refine ⟨hl, hfirst, hfind, fun lv y hy => hle y (mem_fronts.mpr ⟨List.mem_of_find?_eq_some hy, ?_⟩)⟩
    have hlv : y.level = lv := by simpa using List.find?_some hy
    rw [hlv]
    exact hy

theorem oldestHere_none {l : List QEntry} (h : oldestHere l = none) : l = [] := by
  unfold oldestHere at h
  split at h
  next hf => exact by_contra fun hne => fronts_ne_nil hne hf
  · cases h

theorem nearest_some {l : List QEntry} {e : QEntry} (h : nearest u l = some e) :
    Oldest (l.filter (fun x => ringDistance u x.place == ringDistance u e.place)) e ∧
      ∀ x ∈ l, ringDistance u e.place ≤ ringDistance u x.place := by
  have ho := oldestHere_some h
  obtain ⟨hl, hd⟩ := List.mem_filter.mp ho.mem
  have hd : ringDistance u e.place = leastDistance u l := by simpa using hd
  obtain ⟨hle, -⟩ := leastDistance_spec u (List.ne_nil_of_mem hl)
  rw [hd]
  exact ⟨ho, hle⟩

theorem nearest_none {l : List QEntry} (h : nearest u l = none) : l = [] := by
  by_contra hne
  obtain ⟨-, e, he, hd⟩ := leastDistance_spec u hne
  have := oldestHere_none h
  rw [List.filter_eq_nil_iff] at this
  exact this e he (by simp [hd])

variable {s : State}

theorem State.popOrdinary_zero (q : List QEntry) : s.popOrdinary u q 0 = nearest u (q.filter (fun x => s.effective x == 0)) := by
  unfold State.popOrdinary
  cases nearest u (q.filter (fun x => s.effective x == 0)) <;> simp

theorem State.popOrdinary_succ (q : List QEntry) (n : Nat) : s.popOrdinary u q (n + 1) =
    (if n + 1 = 3 then nearest u (q.filter (·.overdue)) else none).or
      ((nearest u (q.filter (fun x => s.effective x == n + 1))).or (s.popOrdinary u q n)) := by
  rw [State.popOrdinary.eq_def]
  dsimp only
  cases (if n + 1 = 3 then nearest u (q.filter (·.overdue)) else none) with
  | some e => rfl
  | none => cases nearest u (q.filter (fun x => s.effective x == n + 1)) <;> simp

/-- A pop at level 3 takes an overdue record first. -/
theorem State.popOrdinary_overdue {q : List QEntry} {e : QEntry} (h : nearest u (q.filter (·.overdue)) = some e) :
    s.popOrdinary u q 3 = some e := by
  rw [State.popOrdinary_succ, if_pos rfl, h]
  rfl

/-- Below an overdue record, a pop takes the oldest of the nearest of the highest effective level. -/
theorem State.popOrdinary_level {q : List QEntry} {e : QEntry} (lv : Nat) (hn : nearest u (q.filter (·.overdue)) = none)
    (h : s.popOrdinary u q lv = some e) : ∃ k ≤ lv, nearest u (q.filter (fun x => s.effective x == k)) = some e ∧
      ∀ x ∈ q, s.effective x ≤ lv → s.effective x ≤ k := by
  induction lv with
  | zero => exact ⟨0, Nat.le_refl 0, s.popOrdinary_zero q ▸ h, fun x _ hx => hx⟩
  | succ n ih =>
    have hlate : (if n + 1 = 3 then nearest u (q.filter (·.overdue)) else none) = none := by
      split
      · exact hn
      · rfl
    rw [State.popOrdinary_succ, hlate, Option.none_or] at h
    cases hc : nearest u (q.filter (fun x => s.effective x == n + 1)) with
    | some y =>
      rw [hc] at h
      exact ⟨n + 1, Nat.le_refl _, hc.trans h, fun x _ hx => hx⟩
    | none =>
      rw [hc, Option.none_or] at h
      obtain ⟨k, hk, hnear, hmax⟩ := ih h
      have hnil := List.filter_eq_nil_iff.mp (nearest_none hc)
      refine ⟨k, Nat.le_succ_of_le hk, hnear, fun x hx hle => hmax x hx ?_⟩
      have hne : s.effective x ≠ n + 1 := by simpa using hnil x hx
      omega

/-- Pop of R192 (R191, R192). -/
theorem State.popOrdinary_spec {q : List QEntry} {e : QEntry} (h : s.popOrdinary u q 3 = some e) :
    let here := q.filter (fun x => s.effective x == s.effective e && ringDistance u x.place == ringDistance u e.place)
    e ∈ q ∧ ((∃ x ∈ q, x.overdue = true ∧ x.level ≤ 3) → e.overdue = true) ∧
    ((∀ x ∈ q, x.overdue = false) →
      (∀ x ∈ q, s.effective x ≤ 3 → s.effective x ≤ s.effective e ∧
        (s.effective x = s.effective e → ringDistance u e.place ≤ ringDistance u x.place)) ∧
      here.find? (·.level == e.level) = some e ∧ (fronts here).find? (·.age == e.age) = some e ∧
      ∀ lv x, lv ≤ 3 → here.find? (·.level == lv) = some x → e.age ≤ x.age) := by
  intro here
  cases hl : nearest u (q.filter (·.overdue)) with
  | some y =>
    rw [State.popOrdinary_overdue hl] at h
    obtain rfl := Option.some.inj h
    obtain ⟨hm, -⟩ := List.mem_filter.mp (nearest_some hl).1.mem
    obtain ⟨hq, ho⟩ := List.mem_filter.mp hm
    refine ⟨hq, fun _ => ho, fun hno => ?_⟩
    rw [hno y hq] at ho
    cases ho
  | none =>
    obtain ⟨k, -, hnear, hmax⟩ := State.popOrdinary_level 3 hl h
    obtain ⟨hold, hdist⟩ := nearest_some hnear
    obtain ⟨hm, -⟩ := List.mem_filter.mp hold.mem
    obtain ⟨hq, heff⟩ := List.mem_filter.mp hm
    have heff : s.effective e = k := by simpa using heff
    have hhere : here = (q.filter (fun x => s.effective x == k)).filter
        (fun x => ringDistance u x.place == ringDistance u e.place) := by
      rw [List.filter_filter]
      refine List.filter_congr fun x _ => ?_
      rw [heff, Bool.and_comm]
    rw [hhere]
    refine ⟨hq, fun ⟨x, hx, ho, _⟩ => ?_, fun _ => ⟨fun x hx hle => ⟨?_, fun he => ?_⟩, hold.first, hold.tie,
      fun lv x _ hx => hold.least lv x hx⟩⟩
    · exact absurd ho (List.filter_eq_nil_iff.mp (nearest_none hl) x hx)
    · rw [heff]
      exact hmax x hx hle
    · exact hdist x (List.mem_filter.mpr ⟨hx, by simp [he, heff]⟩)

end

end Sys2Proof.Machine

/-!
Pre-emption, tenants, saved contexts and the ends of stopped records (O52).
-/

namespace Sys2Proof.Machine

set_option Elab.async false

/-! ### Requests (R297, R338) -/

section
variable {s : State} {u p : Nat} {c : CoreOf}

theorem State.askStop_none {why : Purpose} (h : (s.upperAt u).preempt = none) :
    s.askStop u why = s.setUpper u { s.upperAt u with preempt := some (why, s.clock) } := by
  unfold State.askStop
  simp only [h]

theorem State.askStop_some {why : Purpose} {x : Purpose × Nat} (h : (s.upperAt u).preempt = some x) : s.askStop u why = s := by
  unfold State.askStop
  simp only [h]

theorem State.leader_of_coreAt (h : s.coreAt u = some (p, c)) : c.leader = u := by
  unfold State.coreAt at h
  generalize s.parts = ps at h
  induction ps with
  | nil => cases h
  | cons x t ih =>
    rw [findCore] at h
    split at h
    next d hd =>
      cases h
      simpa using List.find?_some hd
    next => exact ih h

theorem exec_preemptionRequest {why : Purpose} (hc : s.coreAt u = some (p, c)) : exec (.preemptionRequest u why) s =
    if why = .resize then
      .next (({ s with dev := { s.dev with changes := s.dev.changes ++ [.removal u] } } : State).removalStep u)
    else .next (s.askStop u why) := by
  change execPreemptionRequest u why s = _
  unfold execPreemptionRequest
  rw [hc]

theorem State.removalStep_other (h : ∀ l, s.dev.changes ≠ .removal u :: l) : s.removalStep u = s := by
  unfold State.removalStep
  split
  next v l hl =>
    refine if_pos fun he => ?_
    subst he
    exact h _ hl
  next => rfl

theorem State.removalStep_first {l : List Change} (h : s.dev.changes = .removal u :: l) (hc : s.coreAt u = some (p, c)) :
    s.removalStep u = if (s.upperAt u).preempt.map (·.1) = some .resize then s else s.askRemoval u := by
  unfold State.removalStep
  rw [h]
  dsimp only
  rw [if_neg (by simp), hc]
  rfl

theorem State.askRemoval_spec (s : State) (u : Nat) : (s.askRemoval u).dev = s.dev ∧ (s.askRemoval u).seqs = s.seqs ∧
    ((s.askRemoval u).upperAt u).preempt = some (.resize, ((s.upperAt u).preempt.map (·.2)).getD s.clock) := by
  unfold State.askRemoval
  extract_lets up t
  refine ⟨rfl, rfl, ?_⟩
  rw [State.upperAt_setUpper]
  unfold t
  change some (Purpose.resize, match (s.upperAt u).preempt with
    | some (_, t) => t
    | none => s.clock) = _
  cases (s.upperAt u).preempt <;> rfl

/-! ### Time slices (R196) -/

theorem State.sliceDue_iff (hc : s.coreAt u = some (p, c)) : s.sliceDue u = true ↔
    (s.upperAt u).preempt = none ∧ (s.upperAt u).since + Config.clocks100us ≤ s.clock ∧ ∃ k, s.nextTenant p u c.width = some k := by
  unfold State.sliceDue
  simp only [hc, Bool.and_eq_true, Option.isNone_iff_eq_none, decide_eq_true_eq, Option.isSome_iff_exists, and_assoc]

theorem exec_timeSlice (hc : s.coreAt u = some (p, c)) :
    let a := s.ageAll
    (∀ k, a.nextTenant p u c.width = some k → (s.upperAt u).preempt = none →
      (s.upperAt u).since + Config.clocks100us ≤ s.clock →
      exec (.timeSliceQuantum u) s = .next (a.askStop u .timeSlice)) ∧
    (a.nextTenant p u c.width = none ∨ s.clock < (s.upperAt u).since + Config.clocks100us ∨
      (s.upperAt u).preempt.isSome = true → exec (.timeSliceQuantum u) s = .next a) := by
  intro a
  have hag := State.Aged.ageAll s
  have hexec : exec (.timeSliceQuantum u) s = .next (if a.sliceDue u then a.askStop u .timeSlice else a) := rfl
  have hdue := State.sliceDue_iff (s := a) (u := u) ((hag.coreAt u).trans hc)
  rw [hag.upperAt u, hag.clock] at hdue
  refine ⟨fun k hk hp hq => ?_, fun h => ?_⟩
  · rw [hexec, if_pos (hdue.mpr ⟨hp, hq, k, hk⟩)]
  · rw [hexec, if_neg]
    rw [hdue]
    rintro ⟨hp, hq, k, hk⟩
    rcases h with h | h | h
    · rw [h] at hk
      cases hk
    · omega
    · rw [hp] at h
      cases h

/-! ### Tenant switches (R196, R366) -/

theorem State.work_ageAll (s : State) (q : Nat) : (s.ageAll.seqAt q).work = (s.seqAt q).work := by
  have h : s.ageAll.seqAt q = _ := (State.SameSeqs.ageFuel (4 * s.queue.length) s).1 q
  rw [h]

/-- One sequencer's context goes back to the queues. -/
def State.requeueOne (s : State) (u : Nat) (area : Option Nat) (q : Nat) : State :=
  if (s.seqAt q).work.isSome then
    ((s.requeueSeq (s.seqAt q) u (area.map (blockAt · (q % 4)))).dropPins q).setSeq q (s.seqAt q).cleared
  else s

theorem State.requeueAll_eq (s : State) (u : Nat) (area : Option Nat) :
    s.requeueAll u area = (seqsOf u).reverse.foldl (fun s q => s.requeueOne u area q) s := rfl

theorem State.requeueOne_work (s : State) (u : Nat) (area : Option Nat) (q x : Nat) :
    ((s.requeueOne u area q).seqAt x).work = if q = x then none else (s.seqAt x).work := by
  unfold State.requeueOne
  split
  next h =>
    by_cases hx : q = x
    · rw [if_pos hx, hx, State.seqAt_setSeq]
      rfl
    · rw [if_neg hx, State.seqAt_setSeq_other _ _ hx]
      unfold State.requeueSeq
      split
      · rfl
      · exact s.work_ageAll x
  next h =>
    by_cases hx : q = x
    · rw [if_pos hx, ← hx]
      simpa using h
    · rw [if_neg hx]

theorem State.requeueAll_work (s : State) (u : Nat) (area : Option Nat) {x : Nat} (hx : x ∈ seqsOf u) :
    ((s.requeueAll u area).seqAt x).work = none := by
  have hgen : ∀ (l : List Nat) (s : State), x ∈ l ∨ (s.seqAt x).work = none →
      ((l.foldl (fun s q => s.requeueOne u area q) s).seqAt x).work = none := by
    intro l
    induction l with
    | nil => exact fun s h => h.resolve_left (by simp)
    | cons q t ih =>
      intro s h
      refine ih _ ?_
      rw [State.requeueOne_work]
      by_cases hq : q = x
      · exact .inr (if_pos hq)
      · rw [if_neg hq]
        rcases h with h | h
        · exact .inl ((List.mem_cons.mp h).resolve_left (Ne.symm hq))
        · exact .inr h
  rw [State.requeueAll_eq]
  exact hgen _ s (.inl (List.mem_reverse.mpr hx))

theorem State.putAside_seqs (s : State) (p u : Nat) (why : Purpose) (area : Option Nat) : (s.putAside p u why area).seqs = s.seqs := by
  unfold State.putAside
  extract_lets up alive
  clear_value alive
  split <;> rfl

theorem State.switchTenant_spec (s : State) (p : Nat) (c : CoreOf) (t : Tenant) :
    ((s.switchTenant p c t).upperAt c.leader).tenant = t ∧ ((s.switchTenant p c t).upperAt c.leader).preempt = none ∧
      ((s.switchTenant p c t).upperAt c.leader).since = s.clock ∧
      ∀ x, x ∈ seqsOf c.leader → ((s.switchTenant p c t).seqAt x).work = none := by
  have hclock := ((s.endStoppedAll c.leader).keepContext_clock p c .timeSlice).trans (s.endStoppedAll_clock c.leader)
  unfold State.switchTenant
  dsimp only
  generalize (s.endStoppedAll c.leader).keepContext p c .timeSlice = y at hclock ⊢
  have hrc := (y.2.requeueAll_clock c.leader y.1).trans hclock
  have hrw := fun {x} (hx : x ∈ seqsOf c.leader) => y.2.requeueAll_work c.leader y.1 hx
  generalize y.2.requeueAll c.leader y.1 = v at hrc hrw ⊢
  have hend : ∀ (w : State) (x : Upper), w.clock = s.clock → w.seqs = v.seqs → x.tenant = t → x.preempt = none → x.since = w.clock →
      ((w.setUpper c.leader x).upperAt c.leader).tenant = t ∧ ((w.setUpper c.leader x).upperAt c.leader).preempt = none ∧
      ((w.setUpper c.leader x).upperAt c.leader).since = s.clock ∧
      ∀ x' ∈ seqsOf c.leader, ((w.setUpper c.leader x).seqAt x').work = none := by
    intro w x hw hseqs ht hp hs
    rw [State.upperAt_setUpper]
    refine ⟨ht, hp, hs.trans hw, fun x' hx' => ?_⟩
    have hq := hrw hx'
    unfold State.seqAt at hq ⊢
    rw [State.setUpper_seqs, hseqs]
    exact hq
  split
  · exact hend _ _ ((State.putAside_clock ..).trans hrc) (State.putAside_seqs ..) rfl rfl rfl
  · exact hend _ _ ((State.putAside_clock ..).trans hrc) (State.putAside_seqs ..) rfl rfl rfl

theorem exec_tenantSwitch (hc : s.coreAt u = some (p, c)) :
    let a := s.ageAll
    ∀ k, a.nextTenant p u c.width = some k → a.switchReady p u c.width = true →
      ∃ t, exec (.tenantSwitch u) s = .next t ∧ (t.upperAt u).tenant = k ∧ (t.upperAt u).preempt = none ∧
        (t.upperAt u).since = s.clock ∧ ∀ x, x ∈ seqsOf u → (t.seqAt x).work = none := by
  intro a k hk hr
  have hag := State.Aged.ageAll s
  have hexec : exec (.tenantSwitch u) s = .next (a.switchTenant p c k) := by
    change execTenantSwitch u s = _
    unfold execTenantSwitch
    dsimp only
    rw [hag.coreAt u, hc]
    dsimp only
    rw [hk]
    exact if_pos hr
  obtain ⟨ht, hp, hs, hw⟩ := a.switchTenant_spec p c k
  rw [State.leader_of_coreAt hc] at ht hp hs hw
  exact ⟨_, hexec, ht, hp, hs.trans hag.clock, hw⟩

/-! ### The context-save engine (R301 to R305) -/

/-- What a core's sequencers are once its context is saved. -/
theorem State.clearAll_spec (l : List Nat) : ∀ s : State,
    let t := l.foldl (fun s q => (s.dropPins q).setSeq q (s.seqAt q).cleared) s
    t.mem = s.mem ∧ t.saves = s.saves ∧ ∀ x, (x ∈ l ∨ (s.seqAt x).mode = .idle ∧ (s.seqAt x).work = none) →
      (t.seqAt x).mode = .idle ∧ (t.seqAt x).work = none := by
  induction l with
  | nil => exact fun s => ⟨rfl, rfl, fun x h => h.resolve_left (by simp)⟩
  | cons q l ih =>
    intro s t
    obtain ⟨hm, hs, hx⟩ := ih ((s.dropPins q).setSeq q (s.seqAt q).cleared)
    refine ⟨hm.trans rfl, hs.trans rfl, fun x h => hx x ?_⟩
    by_cases hq : q = x
    · right
      rw [hq, State.seqAt_setSeq]
      exact ⟨rfl, rfl⟩
    · rw [State.seqAt_setSeq_other _ _ hq]
      rcases h with h | h
      · exact .inl ((List.mem_cons.mp h).resolve_left (Ne.symm hq))
      · exact .inr h

theorem exec_contextSave_moving (hc : s.coreAt u = some (p, c)) (h : s.allStill u = false) : exec (.contextSave u) s = .next s := by
  cases hp : (s.upperAt u).preempt with
  | none =>
    change execContextSave u s = _
    unfold execContextSave
    simp only [hp]
  | some y =>
    obtain ⟨why, x⟩ := y
    change execContextSave u s = _
    unfold execContextSave
    rw [hp, hc]
    exact if_pos (by simp [h])

theorem State.keepContext_none {why : Purpose} (h : (s.keepContext p c why).1 = none) : (s.keepContext p c why).2 = s := by
  unfold State.keepContext at h ⊢
  dsimp only at h ⊢
  split
  · rfl
  next ht =>
    rw [ht] at h
    cases h

section
variable {why : Purpose} {x : Nat} (hc : s.coreAt u = some (p, c)) (hp : (s.upperAt u).preempt = some (why, x))
  (hw : why ≠ .timeSlice) (hs : s.allStill u = true)
include hc hp hw hs

section
variable {a : State} (ha : s.endStoppedAll u = a)
include ha

theorem exec_contextSave_saved (h : a.savedCore u = true) : exec (.contextSave u) s =
    .next (if why = .resize then a.leaveCore p u c.width else a) := by
  change execContextSave u s = _
  unfold execContextSave
  rw [hp, hc]
  dsimp only
  rw [ha]
  rw [if_neg (by simp [hw, hs]), if_pos h]

theorem exec_contextSave_full (h : a.savedCore u = false) {v : State}
    (hk : a.keepContext p c why = (none, v)) : exec (.contextSave u) s =
    .next (if why = .resize then v.leaveCore p u c.width else v) := by
  change execContextSave u s = _
  unfold execContextSave
  rw [hp, hc]
  dsimp only
  rw [ha]
  rw [if_neg (by simp [hw, hs]), if_neg (by simp [h]), hk]

theorem exec_contextSave_kept (h : a.savedCore u = false) {v : State} {area : Nat}
    (hk : a.keepContext p c why = (some area, v)) : exec (.contextSave u) s =
    .next (if why = .resize then v.leaveCore p u c.width else v.saveCore p area c why) := by
  change execContextSave u s = _
  unfold execContextSave
  rw [hp, hc]
  dsimp only
  rw [ha]
  rw [if_neg (by simp [hw, hs]), if_neg (by simp [h]), hk]

end

theorem exec_contextSave_still :
    let a := s.endStoppedAll u
    (why = .resize → exec (.contextSave u) s =
      .next ((if a.savedCore u then a else (a.keepContext p c why).2).leaveCore p u c.width)) ∧
    (why ≠ .resize → a.savedCore u = true ∨ (a.keepContext p c why).1 = none → exec (.contextSave u) s = .next a) ∧
    (∀ area v, why ≠ .resize → a.savedCore u = false → a.keepContext p c why = (some area, v) →
      ∃ (id : Nat) (y : Saved) (t : State), exec (.contextSave u) s = .next t ∧ SMap.find t.saves id = some y ∧
        y.upper = u ∧ y.part = p ∧ y.gang = c.width ∧ y.purpose = why ∧ y.seqs = (seqsOf u).map v.seqAt ∧
        y.area = some area ∧ y.since = (v.upperAt u).since ∧ t.mem = v.mem ∧
        ∀ x, x ∈ seqsOf u → (t.seqAt x).mode = .idle ∧ (t.seqAt x).work = none) := by
  intro a
  have ha : s.endStoppedAll u = a := rfl
  clear_value a
  refine ⟨fun hr => ?_, fun hr h => ?_, fun area v hr hn hk => ?_⟩
  · by_cases hsaved : a.savedCore u = true
    · rw [exec_contextSave_saved hc hp hw hs ha hsaved, if_pos hr, if_pos hsaved]
    · rw [if_neg hsaved]
      rcases hk : a.keepContext p c why with ⟨o, v⟩
      cases o with
      | none => rw [exec_contextSave_full hc hp hw hs ha (by simpa using hsaved) hk, if_pos hr]
      | some area => rw [exec_contextSave_kept hc hp hw hs ha (by simpa using hsaved) hk, if_pos hr]
  · by_cases hsaved : a.savedCore u = true
    · rw [exec_contextSave_saved hc hp hw hs ha hsaved, if_neg hr]
    · have hnone := h.resolve_left hsaved
      have hk : a.keepContext p c why = (none, a) := Prod.ext hnone (State.keepContext_none hnone)
      rw [exec_contextSave_full hc hp hw hs ha (by simpa using hsaved) hk, if_neg hr]
  · have hl := State.leader_of_coreAt hc
    have hgo := exec_contextSave_kept hc hp hw hs ha hn hk
    rw [if_neg hr] at hgo
    obtain ⟨hm, -, hidle⟩ := State.clearAll_spec (seqsOf c.leader) v.fresh.2
    refine ⟨v.fresh.1, v.fresh.2.contextOf p c.leader c.width area why, _, hgo, SMap.find_put_same .., hl, rfl, rfl, rfl, ?_, rfl, ?_,
      hm, fun x hx => hidle x (.inl (hl.symm ▸ hx))⟩
    · rw [← hl]
      rfl
    · rw [← hl]
      rfl

end

/-! ### A context that is restored (R305) -/

/-- Sequencer i of the core of upper u as it is restored from a saved one. -/
def State.restoreOne (s : State) (u image : Nat) (x : Seq × Nat) : State :=
  if x.1.work.isSome then
    s.setSeq (4 * u + x.2) ((x.1.resumed (s.seqAt (4 * u + x.2)) (s.workCancelled x.1)).rehomed image)
  else s

/-- What a restore leaves of a saved sequencer. -/
structure Restored (m n : Seq) : Prop where
  pc : n.pc = m.pc
  regs : n.regs = m.regs
  vregs : n.vregs = m.vregs
  ctl : n.ctl = m.ctl
  work : n.work = m.work
  dist : n.dist = m.dist
  resv : n.resv = none
  strip : n.strip.map (fun y => { y with buf := [], ck := { y.ck with pend := [] } }) =
    m.strip.map (fun y => { y with buf := [], ck := { y.ck with pend := [] } })

theorem Restored.resumed (m old : Seq) (keep : Bool) (image : Nat) : Restored m ((m.resumed old keep).rehomed image) :=
  ⟨rfl, rfl, rfl, rfl, rfl, rfl, rfl, by simp only [Seq.rehomed, Seq.resumed, Option.map_map]; rfl⟩

theorem State.restoreOne_uppers (s : State) (u image : Nat) (x : Seq × Nat) :
    (s.restoreOne u image x).uppers = s.uppers ∧ (s.restoreOne u image x).saves = s.saves ∧
      (s.restoreOne u image x).launches = s.launches := by
  unfold State.restoreOne
  split <;> exact ⟨rfl, rfl, rfl⟩

theorem State.restoreAll_kept (u image : Nat) (l : List (Seq × Nat)) : ∀ s : State,
    (l.foldl (fun s x => s.restoreOne u image x) s).uppers = s.uppers ∧
    (l.foldl (fun s x => s.restoreOne u image x) s).saves = s.saves ∧
    (l.foldl (fun s x => s.restoreOne u image x) s).launches = s.launches := by
  induction l with
  | nil => exact fun _ => ⟨rfl, rfl, rfl⟩
  | cons x t ih =>
    intro s
    obtain ⟨h1, h2, h3⟩ := ih (s.restoreOne u image x)
    obtain ⟨k1, k2, k3⟩ := s.restoreOne_uppers u image x
    exact ⟨h1.trans k1, h2.trans k2, h3.trans k3⟩

theorem State.restoreOne_other (s : State) {u image q : Nat} {x : Seq × Nat} (h : 4 * u + x.2 ≠ q) :
    (s.restoreOne u image x).seqAt q = s.seqAt q := by
  unfold State.restoreOne
  split
  · exact State.seqAt_setSeq_other _ _ h
  · rfl

/-- A sequencer that no saved one of a list goes to stays as it was. -/
theorem State.restoreAll_other (u image : Nat) (l : List (Seq × Nat)) {q : Nat} : ∀ s : State, (∀ x ∈ l, 4 * u + x.2 ≠ q) →
    (l.foldl (fun s x => s.restoreOne u image x) s).seqAt q = s.seqAt q := by
  induction l with
  | nil => exact fun _ _ => rfl
  | cons x t ih =>
    intro s h
    refine (ih _ (fun y hy => h y (List.mem_cons_of_mem _ hy))).trans ?_
    exact s.restoreOne_other (h x List.mem_cons_self)

theorem State.restoreAll_at (u image : Nat) (l : List Seq) : ∀ (k : Nat) (s : State) (i : Nat) (m : Seq), l[i]? = some m →
    m.work.isSome = true → Restored m (((l.zipIdx k).foldl (fun s x => s.restoreOne u image x) s).seqAt (4 * u + (k + i))) := by
  induction l with
  | nil => exact fun k s i m h => by simp at h
  | cons y t ih =>
    intro k s i m h hw
    rw [List.zipIdx_cons, List.foldl_cons]
    cases i with
    | zero =>
      rw [List.getElem?_cons_zero] at h
      obtain rfl := Option.some.inj h
      rw [State.restoreAll_other u image _ _ (fun x hx => by
        have := (List.mem_zipIdx hx).1
        omega)]
      unfold State.restoreOne
      rw [if_pos hw]
      change Restored y (State.seqAt _ (4 * u + k))
      rw [State.seqAt_setSeq]
      exact Restored.resumed ..
    | succ i =>
      rw [List.getElem?_cons_succ] at h
      have := ih (k + 1) (s.restoreOne u image (y, k)) i m h hw
      rwa [show k + 1 + i = k + (i + 1) by omega] at this

theorem State.freeUpper_kept (s : State) (u : Nat) (x : Saved) : (s.freeUpper u x).saves = s.saves ∧
    (s.freeUpper u x).launches = s.launches := by
  unfold State.freeUpper
  extract_lets up
  split <;> exact ⟨rfl, rfl⟩

/-- The state of a restore before it looks whether the tenant's launch is over. -/
def State.restored (s : State) (u k : Nat) (x : Saved) : State :=
  let t := x.seqs.zipIdx.foldl (fun s y => s.restoreOne u (x.tenant.site u 0).2 y) (s.freeUpper u x)
  let v := t.setUpper u { t.upperAt u with
    active := x.active, shadow := x.shadow, gen := x.gen, tenant := x.tenant, since := x.since, preempt := none }
  { v with saves := SMap.del v.saves k }

theorem State.restore_eq (s : State) (u k : Nat) (x : Saved) : s.restore u k x = (s.restored u k x).leaveIfOver x.part u x.tenant := rfl

theorem State.restored_spec (s : State) (u k : Nat) (x : Saved) (hr : s.saves.Rising) :
    let t := s.restored u k x
    SMap.find t.saves k = none ∧ t.launches = s.launches ∧ (t.upperAt u).preempt = none ∧
    (t.upperAt u).tenant = x.tenant ∧ (t.upperAt u).active = x.active ∧ (t.upperAt u).gen = x.gen ∧ (t.upperAt u).since = x.since ∧
    ∀ i m, x.seqs[i]? = some m → m.work.isSome = true → Restored m (t.seqAt (4 * u + i)) := by
  obtain ⟨hfs, hfl⟩ := s.freeUpper_kept u x
  obtain ⟨-, hs, hl⟩ := State.restoreAll_kept u (x.tenant.site u 0).2 x.seqs.zipIdx (s.freeUpper u x)
  intro t
  have hup : ∀ (v : State) (y : Upper) (m : SMap Saved), State.upperAt { v.setUpper u y with saves := m } u = y := fun v y m =>
    v.upperAt_setUpper u y
  have htu := hup (x.seqs.zipIdx.foldl (fun s y => s.restoreOne u (x.tenant.site u 0).2 y) (s.freeUpper u x))
    { (x.seqs.zipIdx.foldl (fun s y => s.restoreOne u (x.tenant.site u 0).2 y) (s.freeUpper u x)).upperAt u with
      active := x.active, shadow := x.shadow, gen := x.gen, tenant := x.tenant, since := x.since, preempt := none }
    (SMap.del (x.seqs.zipIdx.foldl (fun s y => s.restoreOne u (x.tenant.site u 0).2 y) (s.freeUpper u x)).saves k)
  have htu : t.upperAt u = _ := htu
  have hsaves : t.saves = SMap.del s.saves k := congrArg (SMap.del · k) (hs.trans hfs)
  rw [htu]
  refine ⟨?_, hl.trans hfl, rfl, rfl, rfl, rfl, rfl, fun i m hi hw => ?_⟩
  · rw [hsaves, SMap.find_del hr, if_pos rfl]
  · have := State.restoreAll_at u (x.tenant.site u 0).2 x.seqs 0 (s.freeUpper u x) i m hi hw
    rwa [Nat.zero_add] at this

theorem Saved.fits_iff (x : Saved) (u : Nat) : x.fits u = true ↔ x.tenant ≠ .ordinary ∨ x.upper = u := by
  simp [Saved.fits]

theorem exec_contextRestore {k : Nat} {x : Saved} (hx : SMap.find s.saves k = some x) (hc : s.coreAt u = some (p, c)) :
    exec (.contextRestore u k) s =
      if !x.core || !x.fits u || x.part != p || x.gang != c.width || !s.allIdle u || (x.purpose == .rebinding && s.dev.rebinding)
      then .next s else .next (s.restore u k x) := by
  change execContextRestore u k s = _
  unfold execContextRestore
  rw [hx, hc]

theorem exec_contextRestore_fits {k : Nat} {x : Saved} (hc : s.coreAt u = some (p, c)) (hx : SMap.find s.saves k = some x)
    (hrise : s.saves.Rising) (hcore : x.core = true) (hpart : x.part = p) (hgang : x.gang = c.width) (hidle : s.allIdle u = true)
    (hreb : (x.purpose == .rebinding && s.dev.rebinding) = false) (hfits : x.fits u = true)
    (hten : ∀ l d, x.tenant = .logical l d → (SMap.find s.launches l).isSome = true) :
    ∃ t, exec (.contextRestore u k) s = .next t ∧ SMap.find t.saves k = none ∧ (t.upperAt u).preempt = none ∧
      (t.upperAt u).tenant = x.tenant ∧ (t.upperAt u).active = x.active ∧ (t.upperAt u).gen = x.gen ∧
      (t.upperAt u).since = x.since ∧
      ∀ i m, x.seqs[i]? = some m → m.work.isSome = true → Restored m (t.seqAt (4 * u + i)) := by
  obtain ⟨hs, hl, hp, ht, ha, hg, hsi, hq⟩ := s.restored_spec u k x hrise
  refine ⟨s.restored u k x, ?_, hs, hp, ht, ha, hg, hsi, hq⟩
  rw [exec_contextRestore hx hc, if_neg (by rw [hcore, hfits, hpart, hgang, hidle, hreb]; simp), State.restore_eq]
  unfold State.leaveIfOver
  split
  · rfl
  next l d hld =>
    rw [if_pos (by rw [hl]; exact hten l d hld)]

end

/-! ### Escalation (R299) -/

section
variable {s : State}

theorem State.dropSwap_swapping (s : State) (q r : Nat) : (s.dropSwap q).swapping r = s.swapping r := by
  unfold State.dropSwap State.swapping
  extract_lets up
  by_cases hu : upperOf q = upperOf r
  · rw [← hu, State.upperAt_setUpper]
    dsimp only [up]
    cases hw : (s.upperAt (upperOf q)).swapWait with
    | none => rfl
    | some w =>
      obtain ⟨k, b, n⟩ := w
      cases b with
      | true => simp [Option.filter]
      | false =>
        by_cases hk : k = q <;> simp [Option.filter, hk]
  · have hother : (s.setUpper (upperOf q) { up with
        swapQueue := up.behind q, swapWait := up.swapWait.filter (fun w => w.1 != q || w.2.1) }).upperAt (upperOf r) =
        s.upperAt (upperOf r) := by
      unfold State.upperAt State.setUpper
      rw [SMap.find_put_other _ _ hu]
    rw [hother]

theorem State.escalate_swapping (s : State) (q r : Nat) : (s.escalate q).swapping r = s.swapping r := by
  unfold State.escalate
  split
  · rw [State.dropSwap_swapping]
    rfl
  · rfl

theorem State.escalate_mem (s : State) (q : Nat) : (s.escalate q).mem = s.mem := by
  unfold State.escalate
  split <;> rfl

theorem State.escalate_other (s : State) {q r : Nat} (h : q ≠ r) : (s.escalate q).seqAt r = s.seqAt r := by
  unfold State.escalate
  split
  · exact State.seqAt_setSeq_other _ _ h
  · rfl

theorem State.escalate_same (s : State) (q : Nat) : (s.escalate q).seqAt q =
    if s.escalates q then { s.seqAt q with mode := .stopped 3, resv := none, posted := none, early := [], late := [] } else s.seqAt q := by
  unfold State.escalate
  split
  · exact State.seqAt_setSeq ..
  · rfl

theorem State.escalates_congr {s t : State} {q : Nat} (h : t.seqAt q = s.seqAt q) (hw : t.swapping q = s.swapping q) :
    t.escalates q = s.escalates q := by
  unfold State.escalates
  rw [h, hw]

/-- Escalation stops each sequencer of a list by itself. -/
theorem State.escalateAll (l : List Nat) : ∀ s : State, l.Nodup → (l.foldl State.escalate s).mem = s.mem ∧
    ∀ q, (q ∉ l → (l.foldl State.escalate s).seqAt q = s.seqAt q) ∧
      (q ∈ l → (l.foldl State.escalate s).seqAt q = (s.escalate q).seqAt q) := by
  induction l with
  | nil => exact fun s _ => ⟨rfl, fun q => ⟨fun _ => rfl, by simp⟩⟩
  | cons x t ih =>
    intro s hn
    obtain ⟨hx, ht⟩ := List.nodup_cons.mp hn
    obtain ⟨hm, hq⟩ := ih (s.escalate x) ht
    refine ⟨hm.trans (s.escalate_mem x), fun q => ⟨fun h => ?_, fun h => ?_⟩⟩
    · obtain ⟨hqx, hqt⟩ := not_or.mp (fun e => h (List.mem_cons.mpr e))
      exact ((hq q).1 hqt).trans (s.escalate_other (Ne.symm hqx))
    · by_cases hqx : q = x
      · subst hqx
        exact (hq q).1 hx
      · have hqt := (List.mem_cons.mp h).resolve_left hqx
        have hsame := s.escalate_other (Ne.symm hqx)
        refine ((hq q).2 hqt).trans ?_
        rw [State.escalate_same, State.escalate_same, hsame, State.escalates_congr hsame (s.escalate_swapping x q)]

theorem seqsOf_nodup (u : Nat) : (seqsOf u).Nodup := by simp [seqsOf]

/-- PREEMPT_ESCALATION (R299). -/
theorem exec_escalation {u q x : Nat} {why : Purpose} (hp : (s.upperAt u).preempt = some (why, x)) (hq : q ∈ seqsOf u) :
    (s.clock < x + Config.clocks100us → exec (.preemptEscalation u) s = .next s) ∧
    (x + Config.clocks100us ≤ s.clock → ∃ t, exec (.preemptEscalation u) s = .next t ∧ t.mem = s.mem ∧
      (t.seqAt q).pc = (s.seqAt q).pc ∧ (t.seqAt q).regs = (s.seqAt q).regs ∧
      (((s.seqAt q).mode = .running ∧ s.swapping q = false ∨ ∃ w, (s.seqAt q).mode = .barw w) → (s.seqAt q).window = false →
        (t.seqAt q).mode = .stopped 3 ∧ (t.seqAt q).resv = none) ∧
      ((s.seqAt q).mode = .running → (s.seqAt q).window = true ∨ s.swapping q = true → t.seqAt q = s.seqAt q)) := by
  have hexec : exec (.preemptEscalation u) s =
      if s.clock < x + Config.clocks100us then .next s else .next ((seqsOf u).foldl State.escalate s) := by
    change execPreemptEscalation u s = _
    unfold execPreemptEscalation
    rw [hp]
  obtain ⟨hm, hat⟩ := State.escalateAll (seqsOf u) s (seqsOf_nodup u)
  have hqat := (hat q).2 hq
  rw [State.escalate_same] at hqat
  refine ⟨fun h => hexec.trans (if_pos h), fun h => ⟨_, hexec.trans (if_neg (by omega)), hm, ?_, ?_, fun hmode hwin => ?_,
    fun hrun hstay => ?_⟩⟩
  · rw [hqat]
    split <;> rfl
  · rw [hqat]
    split <;> rfl
  · have hesc : s.escalates q = true := by
      unfold State.escalates
      rcases hmode with ⟨hr, hsw⟩ | ⟨w, hb⟩
      · simp [hr, hwin, hsw]
      · simp [hb, hwin]
    rw [hqat, if_pos hesc]
    exact ⟨rfl, rfl⟩
  · have hesc : s.escalates q = false := by
      unfold State.escalates
      rcases hstay with h | h <;> simp [hrun, h]
    rw [hqat, if_neg (by simp [hesc])]

/-! ### The ends of stopped records (R290, R291) -/

theorem State.landAll_work (q : Nat) (stay l : List Unseen) (x : Nat) : ∀ s : State,
    ((s.landAll q stay l).seqAt x).work = (s.seqAt x).work := by
  induction l with
  | nil => exact fun _ => rfl
  | cons p t ih =>
    intro s
    refine (ih _).trans ?_
    unfold State.landPiece
    extract_lets v w
    have hv : (v.seqAt x).work = (s.seqAt x).work := by
      have h : v.seqAt x = _ := (State.SameSeqs.writeSector s q p.sec p.en p.data).1 x
      rw [h]
    have hw : (w.seqAt x).work = (v.seqAt x).work := by
      unfold w
      split <;> rfl
    clear_value v w
    by_cases hx : q = x
    · subst hx
      rw [State.seqAt_setSeq]
      exact hw.trans hv
    · rw [State.seqAt_setSeq_other _ _ hx]
      exact hw.trans hv

theorem State.landOwn_work (s : State) (q x : Nat) : ((s.landOwn q).seqAt x).work = (s.seqAt x).work := by
  unfold State.landOwn
  generalize s.flights.filter (fun u => u.round.isNone && u.by_ == q) = l
  induction l generalizing s with
  | nil => rfl
  | cons y t ih =>
    refine (ih _).trans ?_
    have h : (s.addAt y).seqAt x = _ := (State.SameSeqs.pokeAs { s with flights := s.flights.erase y } y.by_ y.loc (y.fmt.width / 8)
      (foldAdd y.fmt (cellsNat s.mem.cells y.loc (y.fmt.width / 8)) y.val)).1 x
    rw [h]
    rfl

/-- A record of no nest and no join ends and leaves its sequencer idle. -/
theorem State.endRecord_idle {q cause : Nat} {r : Rec} (hw : (s.seqAt q).work = some r) (hn : r.node = none) (hj : r.join = 0) :
    ((s.endRecord q cause 0).seqAt q).mode = .idle ∧ ((s.endRecord q cause 0).seqAt q).work = none := by
  have hwork : (((s.landOwn q).drainSeq q).seqAt q).work = some r :=
    (State.landAll_work ..).trans ((s.landOwn_work q q).trans hw)
  unfold State.endRecord
  extract_lets v m
  have hm : m.work = some r := hwork
  clear_value v m
  rw [hm]
  simp only [hn, hj, if_true]
  have hset := State.Settled.settle ((v.storeResult (upperOf q) r 0).dropRecord q r) r.launch
  have hseq : ∀ w : State, ((w.dropRecord q r).seqAt q).mode = .idle ∧ ((w.dropRecord q r).seqAt q).work = none := by
    intro w
    unfold State.dropRecord
    rw [State.seqAt_setSeq]
    exact ⟨rfl, rfl⟩
  unfold State.seqAt at hseq ⊢
  rw [hset.seqs]
  exact hseq _

theorem exec_recordEnd {q cause : Nat} {i : Instr} {bad : Mode} {u : State}
    (hi : (i, bad, cause, u) ∈ [(Instr.haltedRecordEnd q, Machine.Mode.halted, 0xF01, s),
      (.doubleFaultRecovery q, .doubleFault, 0xF00, s.logDouble q)]) :
    ((s.seqAt q).mode ≠ bad → exec i s = .next s) ∧
    ((s.seqAt q).mode = bad → u.endWaits q = true → exec i s = .next u) ∧
    ((s.seqAt q).mode = bad → u.endWaits q = false → exec i s = .next (u.endRecord q cause 0) ∧
      (∀ r, (u.seqAt q).work = some r → r.node = none → r.join = 0 →
        ((u.endRecord q cause 0).seqAt q).mode = .idle ∧ ((u.endRecord q cause 0).seqAt q).work = none)) := by
  have hexec : exec i s = if (s.seqAt q).mode ≠ bad then .next s
      else if u.endWaits q then .next u else .next (u.endRecord q cause 0) := by
    simp only [List.mem_cons, List.not_mem_nil, or_false, Prod.mk.injEq] at hi
    rcases hi with ⟨rfl, rfl, rfl, rfl⟩ | ⟨rfl, rfl, rfl, rfl⟩
    · rfl
    · rfl
  refine ⟨fun h => hexec.trans (if_pos h), fun h hw => hexec.trans ((if_neg (not_not.mpr h)).trans (if_pos hw)),
    fun h hw => ⟨hexec.trans ((if_neg (not_not.mpr h)).trans (if_neg (by simp [hw]))), fun r hr hn hj => State.endRecord_idle hr hn hj⟩⟩

end

/-- Settles O52: the queue's aging by the steps that its records may still take, each event by its own branches. -/
theorem coreEvents : Obligations.CoreEvents := by
  unfold Obligations.CoreEvents
  refine ⟨exec_aging, State.putLast_spec, exec_pop, ?_, fun s u q e h => State.popOrdinary_spec h, ?_,
    fun s u q x why hp hq => exec_escalation hp hq, fun s q i bad cause u hi => exec_recordEnd hi⟩
  · intro s q e t m
    exact ⟨State.popBy_cur q, State.popBy_queue q, fun x va h => State.popBy_logged h,
      fun h hs hr hc ha => State.popBy_enters h hs hr hc ha, fun n h hs => State.popBy_continues h hs⟩
  · intro s u p c hc a
    obtain ⟨hslice, hno⟩ := exec_timeSlice hc
    refine ⟨hslice, hno, exec_tenantSwitch hc, fun why hw => ?_, ?_, State.removalStep_other, fun l hl => ⟨fun hp => ?_, fun hp => ?_⟩,
      fun why hp => ?_, fun why x => State.askStop_some, fun why x hp hw hs => exec_contextSave_still hc hp hw hs,
      exec_contextSave_moving hc, ?_, ?_⟩
    · rw [exec_preemptionRequest hc, if_neg hw]
    · rw [exec_preemptionRequest hc, if_pos rfl]
    · rw [State.removalStep_first hl hc, if_pos hp]
    · rw [State.removalStep_first hl hc, if_neg hp]
      exact s.askRemoval_spec u
    · rw [State.askStop_none hp, State.upperAt_setUpper]
    · intro k x hx hrise hcore hpart hgang hidle hreb hfits hten
      obtain ⟨t, ht, hs, hp, hte, ha, hg, hsi, hq⟩ := exec_contextRestore_fits hc hx hrise hcore hpart hgang hidle hreb hfits hten
      refine ⟨t, ht, hs, hp, hte, ha, hg, hsi, fun i m hi hw => ?_⟩
      obtain ⟨h1, h2, h3, h4, h5, h6, h7, h8⟩ := hq i m hi hw
      exact ⟨h1, h2, h3, h4, h5, h6, h7, h8⟩
    · intro k x hx
      refine ⟨x.fits_iff u, fun hf => ?_⟩
      rw [exec_contextRestore hx hc, if_pos (by simp [hf])]

end Sys2Proof.Machine

/-!
What the requests of the host port do (O54): how one in its turn is served, and those that change the tables of the device or of a
partition alone.
-/

namespace Sys2Proof.Machine

set_option Elab.async false

/-! ### A request of the host port in its turn (R343, R347) -/

section
variable {s : State} {h : Hdr} {x : Session}

/-- Serving starts from a state in which nothing but power and the sessions may have changed. -/
theorem State.serving_eq (s : State) (h : Hdr) (r : Req) (x : Session) : ∃ up ss rf,
    s.serving h r x = { s with uppers := up, dev := { s.dev with sessions := ss, refresh := rf } } := by
  have harrived : ∃ up rf, s.arrived h r = { s with uppers := up, dev := { s.dev with refresh := rf } } := by
    unfold State.arrived
    split
    · exact s.wake_spec _
    · exact ⟨_, _, rfl⟩
  obtain ⟨up, rf, ha⟩ := harrived
  unfold State.serving
  rw [ha]
  exact ⟨up, _, rf, rfl⟩

/-- What a request that the resident service serves answers (R343). -/
theorem State.InTurn.serve (t : s.InTurn h x false) {r : Req} (hb : reqBytes r ≤ h.len) {st : Nat} {body : List Byte} {v : State}
    (hs : (s.serving h r x).serveHost h r none = .reply st body v) (hl : body.length ≤ bodyLimit) :
    (s.serving h r x).serve h r none = .reply st body v :=
  State.serve_host (t.headerOk hb) t.port ((State.running_serving ..).trans t.up) hs hl

/-- A request that the resident service serves with a reply, sessions unchanged. -/
theorem State.InTurn.replies (t : s.InTurn h x false) {i : Instr} {r : Req} {st : Nat} {body : List Byte} {v : State} {effect : State → Prop}
    (e : requestOf i = some (h, r)) (ho : r ≠ .openSession) (hc : r ≠ .closeSession) (hb : reqBytes r ≤ h.len)
    (hs : (s.serving h r x).serveHost h r none = .reply st body v) (hl : body.length ≤ bodyLimit)
    (hv : v.dev.sessions = (s.serving h r x).dev.sessions) (he : effect v) : s.Replies i h x st body effect :=
  State.replies_of_serve t e ho hc (t.serve hb hs hl) hv he

/-- A request whose serving answers something else than a reply. -/
theorem State.InTurn.serve_else (t : s.InTurn h x false) {r : Req} (hb : reqBytes r ≤ h.len) {y : Served}
    (hs : (s.serving h r x).serveHost h r none = y) (hy : ∀ st body v, y ≠ .reply st body v) : (s.serving h r x).serve h r none = y := by
  have hup : (s.serving h r x).dev.running = .up := (State.running_serving ..).trans t.up
  unfold State.serve
  simp only [t.headerOk hb, t.port, hup, Bool.false_eq_true, if_false, if_true, hs]

/-- What a served request leaves of a session that held nothing else. -/
theorem State.InTurn.exec_eq (t : s.InTurn h x false) {i : Instr} {r : Req} (e : requestOf i = some (h, r)) (ho : r ≠ .openSession) :
    exec i s = .next ((s.serving h r x).drain h 2) :=
  (exec_request s e).trans (State.arrive_inTurn t ho)

/-- A request that must wait stays in its session. -/
theorem State.InTurn.waits (t : s.InTurn h x false) {i : Instr} {r : Req} {turn : Option (Nat × Option (List Nat))} {v : State}
    (e : requestOf i = some (h, r)) (ho : r ≠ .openSession) (hc : r ≠ .closeSession) (hb : reqBytes r ≤ h.len)
    (hs : (s.serving h r x).serveHost h r none = .later turn v) (hv : v.dev.sessions = (s.serving h r x).dev.sessions) :
    exec i s = .next (v.setSession { x with held := [⟨x.next, h, r, s.clock, turn⟩], gapSince := none }) := by
  rw [t.exec_eq e ho, (serve_next t.found (.inl hc) hv).2.2 turn (t.serve_else hb hs nofun)]

/-- A request that names an existing partition. -/
theorem State.inPart_some {n : Nat} {p : Partition} (hp : SMap.find s.parts n = some p) (act : Partition → Served) :
    s.inPart n act = act p := by
  unfold State.inPart
  rw [hp]

theorem State.parts_serving (s : State) (h : Hdr) (r : Req) (x : Session) : (s.serving h r x).parts = s.parts :=
  (s.serving_same h r x).1

theorem State.mem_serving (s : State) (h : Hdr) (r : Req) (x : Session) : (s.serving h r x).mem = s.mem :=
  (s.serving_same h r x).2.1

theorem State.seqs_serving (s : State) (h : Hdr) (r : Req) (x : Session) : (s.serving h r x).seqs = s.seqs :=
  (s.serving_same h r x).2.2.1

theorem State.launches_serving (s : State) (h : Hdr) (r : Req) (x : Session) : (s.serving h r x).launches = s.launches :=
  (s.serving_same h r x).2.2.2.1

theorem State.cmds_serving (s : State) (h : Hdr) (r : Req) (x : Session) : (s.serving h r x).cmds = s.cmds :=
  (s.serving_same h r x).2.2.2.2.2.1

theorem State.ports_serving (s : State) (h : Hdr) (r : Req) (x : Session) : (s.serving h r x).dev.ports = s.dev.ports :=
  (congrArg Dev.ports (s.serving_same h r x).2.2.2.2.2.2.2.2 :)

theorem State.keys_serving (s : State) (h : Hdr) (r : Req) (x : Session) : (s.serving h r x).dev.keys = s.dev.keys :=
  (congrArg Dev.keys (s.serving_same h r x).2.2.2.2.2.2.2.2 :)

theorem State.dump_serving (s : State) (h : Hdr) (r : Req) (x : Session) : (s.serving h r x).dev.dump = s.dev.dump :=
  (congrArg Dev.dump (s.serving_same h r x).2.2.2.2.2.2.2.2 :)

theorem State.changes_serving (s : State) (h : Hdr) (r : Req) (x : Session) : (s.serving h r x).dev.changes = s.dev.changes :=
  (congrArg Dev.changes (s.serving_same h r x).2.2.2.2.2.2.2.2 :)

theorem State.resident_serving (s : State) (h : Hdr) (r : Req) (x : Session) (n : Nat) : (s.serving h r x).resident n = s.resident n := by
  unfold State.resident
  rw [State.launches_serving]

theorem State.groupBusy_serving (s : State) (h : Hdr) (r : Req) (x : Session) (n g : Nat) :
    (s.serving h r x).groupBusy n g = s.groupBusy n g := by
  unfold State.groupBusy
  rw [State.cmds_serving]

theorem State.roleBusy_serving (s : State) (h : Hdr) (r : Req) (x : Session) (role : Nat) :
    (s.serving h r x).roleBusy role = s.roleBusy role := by
  obtain ⟨up, ss, rf, hw⟩ := s.serving_eq h r x
  rw [hw]
  rfl

end

/-! ### Requests about tables of the device -/

section
variable {s : State} {h : Hdr} {x : Session}

theorem State.actInstall_link (s : State) (n : Nat) {j : Nat} (k1 k2 : BitVec 256) (hj : j < 16) :
    s.actInstall n (0xFFFF + j) k1 k2 = answer 0 { s with dev := { s.dev with
      ports := SMap.put s.dev.ports j (((SMap.find s.dev.ports j).getD Port.initial).install [k1, k2]) } } := by
  unfold State.actInstall
  rw [if_pos (by omega), Nat.add_sub_cancel_left]

theorem Port.install_two (q : Port) (k1 k2 : BitVec 256) :
    q.install [k1, k2] = if q.key = none then ⟨q.role, some k1, q.next ++ [k2], 0⟩ else ⟨q.role, q.key, q.next ++ [k1, k2], q.pn⟩ := by
  unfold Port.install
  cases q with
  | mk role key next pn => cases key <;> rfl

variable (t : s.InTurn h x false)
include t

theorem State.InTurn.unknown : s.Replies (.unknownRequestType h) h x 2 [] (fun v => v.mem = s.mem ∧ v.seqs = s.seqs) :=
  t.replies (r := .unknown) rfl nofun nofun (Nat.zero_le _) rfl (Nat.zero_le _) rfl ⟨State.mem_serving .., State.seqs_serving ..⟩

/-- Two link keys at a port: the first is in use at once where there was none (log 18). -/
theorem State.InTurn.installLink {j : Nat} (k1 k2 : BitVec 256) (hj : j < 16) :
    s.Replies (.installKey h (0xFFFF + j) k1 k2) h x 0 [] (fun v => (v.mem = s.mem ∧ v.seqs = s.seqs) ∧
      let q := (SMap.find s.dev.ports j).getD Port.initial
      SMap.find v.dev.ports j = some (if q.key = none then ⟨q.role, some k1, q.next ++ [k2], 0⟩
        else ⟨q.role, q.key, q.next ++ [k1, k2], q.pn⟩)) := by
  refine t.replies (r := .installKey (0xFFFF + j) k1 k2) rfl nofun nofun (Nat.zero_le _)
    (State.actInstall_link (s.serving h _ x) _ k1 k2 hj) (Nat.zero_le _) rfl ⟨⟨State.mem_serving _ _ _ x, State.seqs_serving _ _ _ x⟩, ?_⟩
  refine (SMap.find_put_same ..).trans ?_
  rw [State.ports_serving, Port.install_two]

theorem State.InTurn.configurePort {port role : Nat} (hp : port < 16) (hr : role < 4)
    (hb : ((SMap.find s.dev.ports port).getD Port.initial).role = role ∨
      s.roleBusy ((SMap.find s.dev.ports port).getD Port.initial).role = false) :
    s.Replies (.configurePort h port role) h x 0 [] (fun v => (v.mem = s.mem ∧ v.seqs = s.seqs) ∧
      SMap.find v.dev.ports port = some { (SMap.find s.dev.ports port).getD Port.initial with role := role }) := by
  have hs : (s.serving h (.configurePort port role) x).actPort port role = answer 0
      { s.serving h (.configurePort port role) x with dev := { (s.serving h (.configurePort port role) x).dev with
        ports := SMap.put (s.serving h (.configurePort port role) x).dev.ports port
          { (SMap.find (s.serving h (.configurePort port role) x).dev.ports port).getD Port.initial with role := role } } } := by
    unfold State.actPort
    rw [if_neg (by omega)]
    refine if_neg ?_
    rw [State.roleBusy_serving, State.ports_serving]
    rintro ⟨h1, h2⟩
    rcases hb with hb | hb
    · exact h1 hb
    · rw [hb] at h2
      cases h2
  refine t.replies (r := .configurePort port role) rfl nofun nofun (Nat.zero_le _) hs (Nat.zero_le _) rfl
    ⟨⟨State.mem_serving _ _ _ x, State.seqs_serving _ _ _ x⟩, ?_⟩
  refine (SMap.find_put_same ..).trans ?_
  rw [State.ports_serving]

theorem State.InTurn.fetchDump {off len : Nat} {d : Dump} (hd : s.dev.dump = some d) (hl : off + len ≤ d.length) (hn : len ≤ bodyLimit) :
    s.Replies (.fetchDump h off len) h x 0 ((List.range len).map (fun k => d.byte (off + k)))
      (fun v => v.mem = s.mem ∧ v.seqs = s.seqs) := by
  have hs : (s.serving h (.fetchDump off len) x).dumpReply off len = (0, (List.range len).map (fun k => d.byte (off + k))) := by
    unfold State.dumpReply
    simp only [State.dump_serving, hd, if_neg (Nat.not_lt.mpr hl)]
  refine t.replies (r := .fetchDump off len) (v := s.serving h (.fetchDump off len) x) rfl nofun nofun (Nat.zero_le _) ?_ ?_ rfl
    ⟨State.mem_serving .., State.seqs_serving ..⟩
  · unfold State.serveHost
    simp only [hs]
  · rw [List.length_map, List.length_range]
    exact hn

end

/-! ### Trap logs (R285) -/

theorem bytesOf_length (n v : Nat) : (bytesOf v n).length = n := by
  induction n generalizing v with
  | zero => rfl
  | succ n ih => exact congrArg (· + 1) (ih _)

theorem TrapRec.bytes_length (r : TrapRec) : r.bytes.length = 64 := by
  simp [TrapRec.bytes, bytesOf_length]

theorem trapRecs_length (l : List TrapRec) : (l.flatMap TrapRec.bytes).length = 64 * l.length := by
  induction l with
  | nil => rfl
  | cons r l ih => rw [List.flatMap_cons, List.length_append, ih, TrapRec.bytes_length, List.length_cons]; omega

theorem State.InTurn.readTrapLog {s : State} {h : Hdr} {x : Session} (t : s.InTurn h x false) {q count : Nat}
    (hq : q < Config.allUppers * Config.seqsPerUpper) (hn : count ≤ 16384) :
    s.Replies (.readTrapLog h q count) h x 0 (((s.seqAt q).ring.drop ((s.seqAt q).ring.length - count)).flatMap TrapRec.bytes)
      (fun v => v.mem = s.mem ∧ v.seqs = s.seqs) := by
  have hseq : (s.serving h (.readTrapLog q count) x).seqAt q = s.seqAt q := by
    unfold State.seqAt
    rw [State.seqs_serving]
  have hs : (s.serving h (.readTrapLog q count) x).actTrapLog q count =
      .reply 0 (((s.seqAt q).ring.drop ((s.seqAt q).ring.length - count)).flatMap TrapRec.bytes) (s.serving h (.readTrapLog q count) x) := by
    unfold State.actTrapLog
    rw [if_neg (Nat.not_le.mpr hq), hseq]
  refine t.replies (r := .readTrapLog q count) rfl nofun nofun (Nat.zero_le _) hs ?_ rfl ⟨State.mem_serving .., State.seqs_serving ..⟩
  rw [trapRecs_length, List.length_drop]
  unfold bodyLimit
  omega

/-! ### Requests about tables of a partition (R341, R346, R348, R362) -/

section
variable {s : State} {h : Hdr} {x : Session} {p : Partition}

/-- A request that names its header's partition is served on that partition. -/
theorem State.inPart_serving (hp : SMap.find s.parts h.part.val = some p) (r : Req) (act : Partition → Served) :
    (s.serving h r x).inPart h.part.val act = act p :=
  State.inPart_some ((congrArg (fun m => SMap.find m h.part.val) (State.parts_serving ..)).trans hp) act

/-- A request that replaces its partition's entry alone. -/
theorem State.InTurn.setsPart (t : s.InTurn h x false) {i : Instr} {r : Req} {q : Partition} (e : requestOf i = some (h, r))
    (ho : r ≠ .openSession) (hc : r ≠ .closeSession) (hb : reqBytes r ≤ h.len)
    (hs : (s.serving h r x).serveHost h r none = answer 0 ((s.serving h r x).setPart h.part.val q)) {effect : Partition → Prop} (he : effect q) :
    s.Replies i h x 0 [] (fun v => (v.mem = s.mem ∧ v.seqs = s.seqs) ∧ ∃ z, SMap.find v.parts h.part.val = some z ∧ effect z) :=
  t.replies e ho hc hb hs (Nat.zero_le _) rfl ⟨⟨State.mem_serving _ _ _ x, State.seqs_serving _ _ _ x⟩, q, SMap.find_put_same .., he⟩

/-- A reply stands for whatever its effect implies. -/
theorem State.Replies.imp {i : Instr} {st : Nat} {body : List Byte} {effect more : State → Prop} (hr : s.Replies i h x st body effect)
    (hm : ∀ v, effect v → more v) : s.Replies i h x st body more := by
  obtain ⟨r, v, hi, he, hx⟩ := hr
  exact ⟨r, v, hi, hm v he, hx⟩

variable (t : s.InTurn h x false) (hp : SMap.find s.parts h.part.val = some p)
include t hp

theorem State.InTurn.installKey {slot : Nat} (k1 k2 : BitVec 256) (hn : slot < 512) (hk : SMap.find s.dev.keys slot = none) :
    s.Replies (.installKey h slot k1 k2) h x 0 [] (fun v => (v.mem = s.mem ∧ v.seqs = s.seqs) ∧
      SMap.find v.dev.keys slot = some ⟨h.part.val, k1, k2⟩) := by
  have hs : (s.serving h (.installKey slot k1 k2) x).actInstall h.part.val slot k1 k2 =
      answer 0 ((s.serving h (.installKey slot k1 k2) x).setKey slot ⟨h.part.val, k1, k2⟩) := by
    unfold State.actInstall
    rw [if_neg (by omega), if_neg (Nat.not_le.mpr hn), State.inPart_serving hp, State.keys_serving, hk]
  exact t.replies (r := .installKey slot k1 k2) rfl nofun nofun (Nat.zero_le _) hs (Nat.zero_le _) rfl
    ⟨⟨State.mem_serving _ _ _ x, State.seqs_serving _ _ _ x⟩, SMap.find_put_same ..⟩

theorem State.InTurn.releaseKey {slot : Nat} {k : KeySlot} (hn : slot < 512) (hr : s.dev.keys.Rising) (hk : SMap.find s.dev.keys slot = some k)
    (hkp : k.part = h.part.val) (hu : p.usesKey slot = false) :
    s.Replies (.releaseKey h slot) h x 0 [] (fun v => (v.mem = s.mem ∧ v.seqs = s.seqs) ∧ SMap.find v.dev.keys slot = none) := by
  let w := s.serving h (.releaseKey slot) x
  have hs : w.actRelease h.part.val slot = answer 0 { w with dev := { w.dev with keys := SMap.del w.dev.keys slot } } := by
    unfold State.actRelease w
    rw [if_neg (Nat.not_le.mpr hn), State.inPart_serving hp, State.keys_serving, hk]
    exact if_neg (by rw [hu]; rintro (h | h); exacts [h hkp, nomatch h])
  refine t.replies (r := .releaseKey slot) rfl nofun nofun (Nat.zero_le _) hs (Nat.zero_le _) rfl
    ⟨⟨State.mem_serving _ _ _ x, State.seqs_serving _ _ _ x⟩, ?_⟩
  change SMap.find (SMap.del w.dev.keys slot) slot = none
  unfold w
  rw [State.keys_serving, SMap.find_del hr, if_pos rfl]

theorem State.InTurn.setPatternTable {a : Word} (ha : a.toNat < 2 ^ 57) (hm : a.toNat % 64 = 0) (hr : s.resident h.part.val = false) :
    s.Replies (.setPatternTable h a) h x 0 [] (fun v => (v.mem = s.mem ∧ v.seqs = s.seqs) ∧
      SMap.find v.parts h.part.val = some { p with ptab := some a }) := by
  have hs : (s.serving h (.setPatternTable a) x).actPattern h.part.val a =
      answer 0 ((s.serving h (.setPatternTable a) x).setPart h.part.val { p with ptab := some a }) := by
    unfold State.actPattern
    rw [State.inPart_serving hp, if_neg (by omega), State.resident_serving, hr]
    rfl
  refine (t.setsPart (r := .setPatternTable a) rfl nofun nofun (Nat.zero_le _) hs (effect := (· = { p with ptab := some a })) rfl).imp ?_
  rintro v ⟨hv, z, hz, rfl⟩
  exact ⟨hv, hz⟩

theorem State.InTurn.setHandler {a : Word} (ha : a.toNat < 2 ^ 57) (hm : a.toNat % 4 = 0) (hr : s.resident h.part.val = false) :
    s.Replies (.setHandler h a) h x 0 [] (fun v => (v.mem = s.mem ∧ v.seqs = s.seqs) ∧
      SMap.find v.parts h.part.val = some { p with handler := if a = 0 then none else some a }) := by
  have hs : (s.serving h (.setHandler a) x).actHandler h.part.val a =
      answer 0 ((s.serving h (.setHandler a) x).setPart h.part.val { p with handler := if a = 0 then none else some a }) := by
    unfold State.actHandler
    rw [State.inPart_serving hp, if_neg (by omega), State.resident_serving, hr]
    rfl
  refine (t.setsPart (r := .setHandler a) rfl nofun nofun (Nat.zero_le _) hs
    (effect := (· = { p with handler := if a = 0 then none else some a })) rfl).imp ?_
  rintro v ⟨hv, z, hz, rfl⟩
  exact ⟨hv, hz⟩

theorem State.InTurn.latencyTolerance (ns : Word) :
    s.Replies (.latencyTolerance h ns) h x 0 [] (fun v => (v.mem = s.mem ∧ v.seqs = s.seqs) ∧
      SMap.find v.parts h.part.val = some { p with tolerance := ns.toNat }) := by
  have hs : (s.serving h (.latencyTolerance ns) x).actTolerance h.part.val ns =
      answer 0 ((s.serving h (.latencyTolerance ns) x).setPart h.part.val { p with tolerance := ns.toNat }) :=
    State.inPart_serving hp ..
  refine (t.setsPart (r := .latencyTolerance ns) rfl nofun nofun (Nat.zero_le _) hs (effect := (· = { p with tolerance := ns.toNat })) rfl).imp ?_
  rintro v ⟨hv, z, hz, rfl⟩
  exact ⟨hv, hz⟩

theorem State.InTurn.registerGroup {g : Sys2Proof.GroupBody} (hn : g.num < 64) (h0 : 1 ≤ g.n0 ∧ g.n0 ≤ 65535) (h1 : 1 ≤ g.n1 ∧ g.n1 ≤ 65535)
    (h2 : 1 ≤ g.n2 ∧ g.n2 ≤ 65535) (hl : g.map.length = g.size) (hm : ∀ y, y ∈ g.map → y.1 < 1024) (hb : s.groupBusy h.part.val g.num = false) :
    s.Replies (.registerGroup h g) h x 0 [] (fun v => (v.mem = s.mem ∧ v.seqs = s.seqs) ∧ v.groupOf h.part.val g.num = some g) := by
  let q : Partition := { p with groups := p.groups.filter (fun x => x.num != g.num) ++ [g] }
  have hmap : ¬ g.map.any (fun x => decide (1024 ≤ x.1)) = true := by
    rw [List.any_eq_true]
    rintro ⟨y, hy, h⟩
    exact absurd (of_decide_eq_true h) (Nat.not_le.mpr (hm y hy))
  have hs : (s.serving h (.registerGroup g) x).actGroup h.part.val g = answer 0 ((s.serving h (.registerGroup g) x).setPart h.part.val q) := by
    unfold State.actGroup
    rw [State.inPart_serving hp, State.groupBusy_serving, hb]
    refine (if_neg ?_).trans rfl
    rintro (h | h | h | h)
    · exact absurd h (Nat.not_le.mpr hn)
    · simp [h0, h1, h2] at h
    · exact h hl
    · exact hmap h
  have hfind : q.groups.find? (fun y => y.num == g.num) = some g := by
    have hnone : (p.groups.filter (fun x => x.num != g.num)).find? (fun y => y.num == g.num) = none :=
      List.find?_eq_none.mpr fun y hy => by simpa using (List.mem_filter.mp hy).2
    refine (List.find?_append ..).trans ?_
    rw [hnone]
    simp
  refine (t.setsPart (r := .registerGroup g) rfl nofun nofun (Nat.zero_le _) hs
    (effect := fun z => z.groups.find? (fun y => y.num == g.num) = some g) hfind).imp ?_
  rintro v ⟨hv, z, hz, hg⟩
  refine ⟨hv, ?_⟩
  unfold State.groupOf
  rw [hz]
  exact hg

end

end Sys2Proof.Machine

/-!
Requests that read, write, map and unmap the memory of a partition (O54).
-/

namespace Sys2Proof.Machine

set_option Elab.async false

/-! ### What serving starts from, for accesses of the service -/

section
variable (s : State) (h : Hdr) (r : Req) (x : Session)

theorem walkFrom_serving (part va table : Nat) (pages levels : List Nat) :
    walkFrom (s.serving h r x) part va table pages levels = walkFrom s part va table pages levels := by
  obtain ⟨up, ss, rf, hw⟩ := s.serving_eq h r x
  rw [hw]
  induction levels generalizing table pages with
  | nil => rfl
  | cons lv levels ih =>
    unfold walkFrom
    simp only [ih]

theorem State.resolve_serving (c : Ctx) (acc : Acc) (va : Nat) : (s.serving h r x).resolve c acc va = s.resolve c acc va := by
  have hwalk := walkFrom_serving s h r x
  obtain ⟨up, ss, rf, hw⟩ := s.serving_eq h r x
  rw [hw] at hwalk ⊢
  unfold State.resolve State.translate
  simp only [hwalk]
  rfl

theorem State.spanHeld_serving (n a len : Nat) : (s.serving h r x).spanHeld n a len = s.spanHeld n a len := by
  obtain ⟨up, ss, rf, hw⟩ := s.serving_eq h r x
  rw [hw]
  rfl

theorem State.heldAt_serving (c : Ctx) (va : Nat) : (s.serving h r x).heldAt c va = s.heldAt c va := by
  obtain ⟨up, ss, rf, hw⟩ := s.serving_eq h r x
  rw [hw]
  rfl

theorem State.liveLine_serving (loc : Nat) : (s.serving h r x).liveLine loc = s.liveLine loc := by
  obtain ⟨up, ss, rf, hw⟩ := s.serving_eq h r x
  rw [hw]
  rfl

theorem State.byte_serving (loc : Nat) : (s.serving h r x).byte loc = s.byte loc := by
  unfold State.byte
  rw [State.mem_serving]

theorem State.memoryOk_serving (hm : s.MemoryOk) : (s.serving h r x).MemoryOk := hm.of_cells (by rw [State.mem_serving])

end

/-! ### Bytes of a list as a number -/

/-- Byte j of the little-endian number of a list. -/
theorem byte_leNat (l : List Byte) {j : Nat} {b : Byte} (hj : l[j]? = some b) : BitVec.ofNat 8 (leNat l / 256 ^ j) = b := by
  induction l generalizing j with
  | nil => simp at hj
  | cons c l ih =>
    have hc := c.isLt
    cases j with
    | zero =>
      obtain rfl : c = b := by simpa using hj
      apply BitVec.eq_of_toNat_eq
      simp only [leNat, Nat.pow_zero, Nat.div_one, BitVec.toNat_ofNat]
      omega
    | succ j =>
      have hj' : l[j]? = some b := by simpa using hj
      have hdiv : (c.toNat + 256 * leNat l) / 256 ^ (j + 1) = leNat l / 256 ^ j := by
        rw [Nat.pow_succ, Nat.mul_comm (256 ^ j), ← Nat.div_div_eq_div_mul, Nat.add_mul_div_left _ _ (by decide : 0 < 256),
          Nat.div_eq_of_lt hc, Nat.zero_add]
      rw [leNat, hdiv]
      exact ih hj'

/-! ### Copies to the device (R315, R343) -/

section
variable {s : State}

@[simp] theorem State.writeSector_dev (p sec : Nat) (en : BitVec 32) (data : BitVec 256) : (s.writeSector p sec en data).dev = s.dev := by
  unfold State.writeSector
  split <;> rfl

theorem State.putNat_dev (p va loc n v : Nat) : (s.putNat p va loc n v).dev = s.dev := by
  unfold State.putNat
  generalize bufNat [] va loc n v = l
  induction l generalizing s with
  | nil => rfl
  | cons y l ih => exact ih.trans (State.writeSector_dev ..)

theorem State.negate_dev (p : Option Nat) : (s.negate p).dev = s.dev := by
  unfold State.negate
  split <;> rfl

/-- One step of a copy. -/
theorem State.copySectors_succ (n va : Nat) (l : List Byte) (k : Nat) (hl : l ≠ []) : s.copySectors n va l (k + 1) =
    match s.resolve (serviceCtx n) .hw va with
    | .error e => (s.negate e.page, false)
    | .ok loc => (s.putNat otherParty va loc (l.take (32 - va % 32)).length (leNat (l.take (32 - va % 32)))).copySectors n
        (va + (32 - va % 32)) (l.drop (32 - va % 32)) k := by
  have he : l.isEmpty = false := by simpa using hl
  rw [State.copySectors, he]
  rfl

theorem State.copySectors_nil (n va k : Nat) : s.copySectors n va [] k = (s, true) := by
  cases k <;> rfl

theorem State.copySectors_dev (n va : Nat) (l : List Byte) (k : Nat) : (s.copySectors n va l k).1.dev = s.dev := by
  induction k generalizing s va l with
  | zero => rfl
  | succ k ih =>
    by_cases hl : l = []
    · rw [hl, State.copySectors_nil]
    · rw [State.copySectors_succ _ _ _ _ hl]
      split
      · exact State.negate_dev _
      · exact (ih _ _).trans (State.putNat_dev ..)

/-- Steps beyond those that the bytes take change nothing. -/
theorem State.copySectors_fuel (n va : Nat) (l : List Byte) (j k : Nat) (hj : va % 32 + l.length ≤ 32 * j) (hk : va % 32 + l.length ≤ 32 * k) :
    s.copySectors n va l j = s.copySectors n va l k := by
  induction j generalizing s va l k with
  | zero =>
    obtain rfl : l = [] := List.eq_nil_of_length_eq_zero (by omega)
    rw [State.copySectors_nil, State.copySectors_nil]
  | succ j ih =>
    by_cases hl : l = []
    · rw [hl, State.copySectors_nil, State.copySectors_nil]
    · have hpos := List.length_pos_iff.mpr hl
      obtain ⟨k, rfl⟩ : ∃ i, k = i + 1 := Nat.exists_eq_succ_of_ne_zero (by omega)
      rw [State.copySectors_succ _ _ _ _ hl, State.copySectors_succ _ _ _ _ hl]
      split
      · rfl
      · refine ih _ _ k ?_ ?_ <;> rw [List.length_drop] <;> omega

/-- A copy writes the bytes of its first sector, and goes on with the others. -/
theorem State.copyIn_step {n a loc : Nat} {l : List Byte} (hl : l ≠ []) (hr : s.resolve (serviceCtx n) .hw a = .ok loc) :
    s.copyIn n a l = (s.putNat otherParty a loc (l.take (32 - a % 32)).length (leNat (l.take (32 - a % 32)))).copyIn n
      (a + (32 - a % 32)) (l.drop (32 - a % 32)) := by
  have hstep := State.copySectors_succ (s := s) n a l (l.length / 32 + 1) hl
  rw [hr] at hstep
  refine hstep.trans (State.copySectors_fuel _ _ _ _ _ ?_ ?_) <;> rw [List.length_drop] <;> omega

/-- A sector written whole by a number loses its mark. -/
theorem State.putNat_poisoned {va loc : Nat} (p v : Nat) (h : loc % 32 = 0) (hl : s.liveLine (loc / 32 * 32) = false) :
    (s.putNat p va loc 32 v).poisoned loc = false := by
  obtain ⟨e, he, hput⟩ := State.putNat_one (s := s) (va := va) (loc := loc) p v (by decide : 0 < 32) (by omega)
  have hen : e.en = BitVec.allOnes 32 := by
    refine BitVec.eq_of_getLsbD_eq fun j hj => ?_
    have hget := bufGet_bufNat [] va loc 32 v (loc + j)
    rw [if_pos (by omega), he] at hget
    have h1 : (loc + j) / 32 = loc / 32 := by omega
    have h2 : (loc + j) % 32 = j := by omega
    simp only [bufGet, SMap.find, h1, h2, if_true] at hget
    rw [BitVec.getLsbD_allOnes, decide_eq_true hj]
    by_contra hne
    rw [if_neg hne] at hget
    cases hget
  rw [hput, hen]
  unfold State.poisoned
  rw [State.writeSector_live hl]
  simp

/-- What a copy writes to its first sector (R315). -/
theorem State.copyIn_first {n a loc : Nat} {l : List Byte} (hm : s.MemoryOk) (hl : l ≠ []) (hr : s.resolve (serviceCtx n) .hw a = .ok loc)
    (ha : loc % 32 = a % 32) (hlive : s.liveLine (loc / 32 * 32) = false) :
    let w := 32 - a % 32
    ∃ t, s.copyIn n a l = t.copyIn n (a + w) (l.drop w) ∧ (∀ (j : Nat) (b : Byte), j < w → l[j]? = some b → t.byte (loc + j) = b) ∧
      SameBytesBut loc (min w l.length) s t ∧ (32 ≤ l.length → w = 32 → t.poisoned loc = false) := by
  intro w
  have hpos := List.length_pos_iff.mpr hl
  have hlen : (l.take w).length = min w l.length := List.length_take ..
  have h1 : 0 < min w l.length := by omega
  have h2 : loc % 32 + min w l.length ≤ 32 := by omega
  refine ⟨_, State.copyIn_step hl hr, fun j b hj hb => ?_, ?_, fun hw hw' => ?_⟩
  · have hjl : j < l.length := (List.getElem?_eq_some_iff.mp hb).1
    rw [State.byte_putNat hm _ _ _ (hlen ▸ h1) (hlen ▸ h2) hlive, hlen, if_pos (by omega), Nat.add_sub_cancel_left]
    exact byte_leNat _ ((List.getElem?_take_of_lt hj).trans hb)
  · have hsame := State.putNat_sameBytesBut (va := a) hm otherParty (leNat (l.take w)) h1 h2 hlive
    rw [← hlen] at hsame ⊢
    exact hsame
  · have h32 : (l.take (32 - a % 32)).length = 32 := hlen.trans (by omega)
    rw [h32]
    exact State.putNat_poisoned _ _ (by omega) hlive

end

/-! ### Copies from the device -/

/-- What a copy reads: every byte at its location. -/
theorem State.copyOut_spec {s : State} {n a len : Nat} {l : List Byte} (hl : s.copyOut n a len = .ok l) : l.length = len ∧
    ∀ j, j < len → ∃ loc, s.resolve (serviceCtx n) .hw (a + j) = .ok loc ∧ l[j]? = some (s.byte loc) := by
  induction len generalizing a l with
  | zero =>
    cases hl
    exact ⟨rfl, fun j hj => absurd hj (Nat.not_lt_zero j)⟩
  | succ len ih =>
    unfold State.copyOut at hl
    split at hl
    · cases hl
    next loc hr =>
      split at hl
      · cases hl
      · split at hl
        · cases hl
        next m hm =>
          cases hl
          obtain ⟨hlen, hbytes⟩ := ih hm
          refine ⟨congrArg (· + 1) hlen, fun j hj => ?_⟩
          cases j with
          | zero => exact ⟨loc, hr, rfl⟩
          | succ j =>
            obtain ⟨loc', hr', hb⟩ := hbytes j (by omega)
            exact ⟨loc', by rw [show a + (j + 1) = a + 1 + j by omega]; exact hr', hb⟩

/-! ### Mapping and unmapping (R251) -/

section
variable {s : State}

@[simp] theorem State.putEntry_dev (a v : Nat) : (s.putEntry a v).dev = s.dev := rfl

@[simp] theorem State.descend_dev (table va lv n : Nat) : (s.descend table va lv n).2.dev = s.dev := by
  induction n generalizing s table lv with
  | zero => rfl
  | succ n ih =>
    unfold State.descend
    simp only []
    split
    · exact ih ..
    · exact ih ..

@[simp] theorem State.writeLeaf_dev (root va lv pa perm key : Nat) : (s.writeLeaf root va lv pa perm key).dev = s.dev :=
  State.descend_dev ..

@[simp] theorem State.writeLeaves_dev (root va lv pa perm key n : Nat) : (s.writeLeaves root va lv pa perm key n).dev = s.dev := by
  induction n generalizing s va pa with
  | zero => rfl
  | succ n ih => exact (ih _ _).trans (State.writeLeaf_dev ..)

@[simp] theorem State.clearLeaves_dev (root va lv n : Nat) : (s.clearLeaves root va lv n).dev = s.dev := by
  induction n generalizing s va with
  | zero => rfl
  | succ n ih => exact (ih _).trans (State.descend_dev ..)

/-- What mapping a range leaves: the device as it was, and the range noted with its partition. -/
theorem State.mapRange_spec {n : Nat} {r : MapRange} {p : Partition} {y : Nat × State} (hp : SMap.find s.parts n = some p)
    (hy : s.mapRange n r = some y) : y.2.dev = s.dev ∧ SMap.find y.2.parts n = some { p with maps := p.maps ++ [r] } := by
  unfold State.mapRange at hy
  rw [hp] at hy
  simp only [Option.ite_none_left_eq_some, Option.some.injEq] at hy
  obtain ⟨-, -, rfl⟩ := hy
  exact ⟨State.writeLeaves_dev .., SMap.find_put_same ..⟩

@[simp] theorem State.landPiece_dev (q : Nat) (p : Unseen) (rest : List Unseen) : (s.landPiece q p rest).dev = s.dev := by
  unfold State.landPiece
  simp only []
  split <;> exact State.writeSector_dev ..

theorem State.landAll_dev (q : Nat) (stay l : List Unseen) : (s.landAll q stay l).dev = s.dev := by
  induction l generalizing s with
  | nil => rfl
  | cons p l ih => exact ih.trans (State.landPiece_dev ..)

/-- A property that every step of a fold keeps. -/
theorem foldl_keeps {α β γ : Type} {f : α → β → α} (g : α → γ) (hf : ∀ a b, g (f a b) = g a) (l : List β) (a : α) : g (l.foldl f a) = g a := by
  induction l generalizing a with
  | nil => rfl
  | cons b l ih => exact (ih _).trans (hf a b)

theorem State.settlePart_dev (n : Nat) : (s.settlePart n).dev = s.dev := by
  unfold State.settlePart
  refine foldl_keeps State.dev (fun t y => ?_) _ s
  split
  · exact State.landAll_dev ..
  · rfl

theorem State.unmapRange_dev (part root : Nat) (r : MapRange) (a n : Nat) : (s.unmapRange part root r a n).dev = s.dev :=
  State.clearLeaves_dev ..

end

/-- What is left of a range meets none of the bytes that are taken out of it. -/
theorem meets_cut {r c : MapRange} {a n : Nat} (hc : c ∈ r.cut (max r.va a) (min (r.va + r.size) (a + n))) : meets c.va c.size a n = false := by
  simp only [MapRange.cut, List.mem_filter, List.mem_cons, List.not_mem_nil, or_false, bne_iff_ne, ne_eq] at hc
  obtain ⟨rfl | rfl, hne⟩ := hc
  · have hne : max r.va a - r.va ≠ 0 := hne
    refine Bool.eq_false_iff.mpr fun hm => ?_
    simp only [meets, Bool.and_eq_true, decide_eq_true_eq] at hm
    omega
  · have hne : r.va + r.size - min (r.va + r.size) (a + n) ≠ 0 := hne
    refine Bool.eq_false_iff.mpr fun hm => ?_
    simp only [meets, Bool.and_eq_true, decide_eq_true_eq] at hm
    omega

/-! ### The requests -/

section
variable {s : State} {h : Hdr} {x : Session} {p : Partition} (t : s.InTurn h x false) (hp : SMap.find s.parts h.part.val = some p)
include t hp

theorem State.InTurn.map {b : MapBody} {pa : Nat} {u : State} (hm : s.MemoryOk) (hl : (b.data.map List.length).getD 0 ≤ h.len)
    (hok : mapOk b p s.dev.keys h.part.val = true)
    (hu : (s.serving h (.map b) x).mapRange h.part.val ⟨b.addr, b.size, pageLevel b.page, b.key, permBits b.r b.w b.x b.u, false⟩ = some (pa, u)) :
    s.Replies (.map h b) h x 0 [] (fun v =>
      (∀ (j : Nat) (y : Byte), (b.data.getD [])[j]? = some y → v.byte (pa + j) = y) ∧
      ∃ q, SMap.find v.parts h.part.val = some q ∧ ∃ r, r ∈ q.maps ∧ r.va = b.addr ∧ r.size = b.size ∧ r.key = b.key) := by
  have hparts : SMap.find (s.serving h (.map b) x).parts h.part.val = some p := by rw [State.parts_serving, hp]
  have hs : (s.serving h (.map b) x).actMap h.part.val b = answer 0 (u.pokeBytes pa (b.data.getD [])) := by
    unfold State.actMap
    rw [State.inPart_serving hp, State.keys_serving, hok]
    simp only [Bool.not_true, Bool.false_eq_true, if_false, hu]
  obtain ⟨hdev, hfind⟩ := State.mapRange_spec hparts hu
  have hmu : u.MemoryOk := (State.memoryOk_serving s h (.map b) x hm).mapRange hu
  refine t.replies (r := .map b) rfl nofun nofun hl hs (Nat.zero_le _) (congrArg Dev.sessions hdev) ⟨fun j y hj => ?_, _, hfind, _,
    List.mem_append_right _ (List.mem_singleton.mpr rfl), rfl, rfl, rfl⟩
  have hlen := (List.getElem?_eq_some_iff.mp hj).1
  refine (State.byte_pokeAs hmu ..).trans ?_
  rw [if_pos (by omega), Nat.add_sub_cancel_left]
  exact byte_leNat _ hj

theorem State.InTurn.unmap {a len : Nat} (hl : len ≠ 0) (hhit : ∃ r, r ∈ p.maps ∧ meets r.va r.size a len = true)
    (hall : ∀ r, r ∈ p.maps → meets r.va r.size a len = true → r.service = false ∧ max r.va a % levelPage r.page = 0 ∧
      min (r.va + r.size) (a + len) % levelPage r.page = 0) :
    s.Replies (.unmap h a len) h x 0 [] (fun v => ∃ q, SMap.find v.parts h.part.val = some q ∧
      ∀ r, r ∈ q.maps → meets r.va r.size a len = false) := by
  let w := s.serving h (.unmap a len) x
  let u := (p.maps.filter (fun r => meets r.va r.size a len)).foldl (fun s r => s.unmapRange h.part.val p.root r a len) (w.settlePart h.part.val)
  let q : Partition := { p with maps := p.maps.flatMap (fun r =>
    if meets r.va r.size a len then r.cut (max r.va a) (min (r.va + r.size) (a + len)) else [r]) }
  have hok : ¬ (len = 0 ∨ (p.maps.filter (fun r => meets r.va r.size a len)).isEmpty = true ∨
      (p.maps.filter (fun r => meets r.va r.size a len)).any (fun r => r.service || max r.va a % levelPage r.page != 0 ||
        min (r.va + r.size) (a + len) % levelPage r.page != 0) = true) := by
    rintro (h | h | h)
    · exact hl h
    · obtain ⟨r, hr, hm⟩ := hhit
      rw [List.isEmpty_iff] at h
      exact List.not_mem_nil (h ▸ List.mem_filter.mpr ⟨hr, hm⟩)
    · obtain ⟨r, hr, h⟩ := List.any_eq_true.mp h
      obtain ⟨hr, hm⟩ := List.mem_filter.mp hr
      obtain ⟨h1, h2, h3⟩ := hall r hr hm
      simp [h1, h2, h3] at h
  have hs : w.actUnmap h.part.val a len = answer 0 (u.setPart h.part.val q) := by
    unfold State.actUnmap w
    rw [State.inPart_serving hp]
    exact if_neg hok
  have hdev : u.dev = w.dev := (foldl_keeps State.dev (fun s r => s.unmapRange_dev ..) _ _).trans (w.settlePart_dev _)
  refine t.replies (r := .unmap a len) rfl nofun nofun (Nat.zero_le _) hs (Nat.zero_le _) (congrArg Dev.sessions hdev)
    ⟨q, SMap.find_put_same .., fun r hr => ?_⟩
  obtain ⟨y, -, hy⟩ := List.mem_flatMap.mp hr
  split at hy
  next hm => exact meets_cut hy
  next hm =>
    rw [List.mem_singleton.mp hy]
    exact Bool.eq_false_iff.mpr hm

theorem State.InTurn.copyTo {a : Nat} {l : List Byte} {v : State} (hl : l.length ≤ h.len) (hh : s.spanHeld h.part.val a l.length = false)
    (hv : (s.serving h (.copy a l.length (some l)) x).copyIn h.part.val a l = (v, true)) :
    s.Replies (.copy h a l.length (some l)) h x 0 [] (fun u => u = v) := by
  have hs : (s.serving h (.copy a l.length (some l)) x).actCopy h.part.val a l.length (some l) = answer 0 v := by
    unfold State.actCopy
    rw [State.inPart_serving hp, State.spanHeld_serving, hh]
    simp only [Bool.false_eq_true, if_false, ne_eq, not_true_eq_false, hv, if_true]
  have hdev := State.copySectors_dev (s := s.serving h (.copy a l.length (some l)) x) h.part.val a l (l.length / 32 + 2)
  have hv' : ((s.serving h (.copy a l.length (some l)) x).copySectors h.part.val a l (l.length / 32 + 2)) = (v, true) := hv
  rw [hv'] at hdev
  exact t.replies (r := .copy a l.length (some l)) rfl nofun nofun hl hs (Nat.zero_le _) (congrArg Dev.sessions hdev) rfl

theorem State.InTurn.copyFrom {a len : Nat} {l : List Byte} (hh : s.spanHeld h.part.val a len = false) (hlen : len ≤ bodyLimit)
    (hl : (s.serving h (.copy a len none) x).copyOut h.part.val a len = .ok l) :
    s.Replies (.copy h a len none) h x 0 l (fun v => v.mem = s.mem ∧ v.seqs = s.seqs) ∧ l.length = len ∧
      ∀ j, j < len → ∃ loc, s.resolve (serviceCtx h.part.val) .hw (a + j) = .ok loc ∧ l[j]? = some (s.byte loc) := by
  obtain ⟨hcount, hbytes⟩ := State.copyOut_spec hl
  simp only [State.resolve_serving, State.byte_serving] at hbytes
  have hs : (s.serving h (.copy a len none) x).actCopy h.part.val a len none = .reply 0 l (s.serving h (.copy a len none) x) := by
    unfold State.actCopy
    rw [State.inPart_serving hp, State.spanHeld_serving, hh]
    simp only [Bool.false_eq_true, if_false, if_neg (Nat.not_lt.mpr hlen), hl]
  exact ⟨t.replies (r := .copy a len none) rfl nofun nofun (Nat.zero_le _) hs (hcount ▸ hlen) rfl
    ⟨State.mem_serving .., State.seqs_serving ..⟩, hcount, hbytes⟩

theorem State.InTurn.signal {a v : Word} {loc : Nat} (hm : s.MemoryOk) (ha : a.toNat % 8 = 0)
    (hh : s.heldAt (serviceCtx h.part.val) a.toNat = false) (hr : s.resolve (serviceCtx h.part.val) .store a.toNat = .ok loc)
    (hloc : loc % 8 = 0) (hl : s.liveLine (loc / 32 * 32) = false) :
    s.Replies (.signal h a v) h x 0 [] (fun t => cellsNat t.mem.cells loc 8 = v.toNat ∧ SameBytesBut loc 8 s t) := by
  let w := s.serving h (.signal a v) x
  have hs : w.actSignal h.part.val a v = answer 0 (w.putNat otherParty a.toNat loc 8 v.toNat) := by
    unfold State.actSignal w
    rw [State.inPart_serving hp, State.heldAt_serving, State.resolve_serving, hh, hr]
    exact if_neg (by omega)
  have hlive : w.liveLine (loc / 32 * 32) = false := (State.liveLine_serving ..).trans hl
  have hok : w.MemoryOk := State.memoryOk_serving _ _ _ _ hm
  refine t.replies (r := .signal a v) rfl nofun nofun (Nat.zero_le _) hs (Nat.zero_le _) (congrArg Dev.sessions (State.putNat_dev ..))
    ⟨?_, fun c hc => ?_⟩
  · rw [State.cellsNat_putNat hok _ _ (by decide) (by omega) hlive]
    exact Nat.mod_eq_of_lt v.isLt
  · exact (State.putNat_sameBytesBut hok _ _ (by decide) (by omega) hlive c hc).trans (State.byte_serving ..)

end

end Sys2Proof.Machine

/-!
Requests that create, resize and destroy partitions (O54).
-/

namespace Sys2Proof.Machine

set_option Elab.async false

/-! ### Cores that enter a partition (R334, R338) -/

section
variable {s t : State}

@[simp] theorem State.enterCore_parts (u : Nat) : (s.enterCore u).parts = s.parts := by
  change ((seqsOf u).foldl (fun s q => s.setSeq q { (s.seqAt q).cleared with fetched := [] }) (s.scrubUpper u)).parts = (s.scrubUpper u).parts
  refine foldl_keeps State.parts ?_ _ _
  exact fun _ _ => rfl

@[simp] theorem State.enterCore_dev (u : Nat) : (s.enterCore u).dev = s.dev := by
  change ((seqsOf u).foldl (fun s q => s.setSeq q { (s.seqAt q).cleared with fetched := [] }) (s.scrubUpper u)).dev = (s.scrubUpper u).dev
  refine foldl_keeps State.dev ?_ _ _
  exact fun _ _ => rfl

/-- Nothing changes but the welt. -/
def State.Welded (s t : State) : Prop := ∃ w, t = { s with dev := { s.dev with welt := w } }

theorem State.Welded.refl (s : State) : s.Welded s := ⟨_, rfl⟩

theorem State.Welded.trans {u : State} (h : s.Welded t) (k : t.Welded u) : s.Welded u := by
  obtain ⟨w, rfl⟩ := h
  obtain ⟨z, rfl⟩ := k
  exact ⟨z, rfl⟩

theorem State.Welded.foldl {α : Type} {f : State → α → State} (hf : ∀ (s : State) a, s.Welded (f s a)) (l : List α) (s : State) : s.Welded (l.foldl f s) := by
  induction l generalizing s with
  | nil => exact .refl s
  | cons a l ih => exact (hf s a).trans (ih _)

theorem State.Welded.bindGang (u g : Nat) (x : GangPlan) : s.Welded (s.bindGang u g x) := by
  unfold State.bindGang
  refine .foldl ?_ _ s
  exact fun _ _ => ⟨_, rfl⟩

theorem State.Welded.formCore {u g : Nat} (h : s.formCore u g = some t) : s.Welded t := by
  unfold State.formCore at h
  split at h
  · split at h
    · cases h
      exact .refl s
    · cases h
  · obtain ⟨x, -, rfl⟩ := Option.map_eq_some_iff.mp h
    exact .bindGang ..

theorem State.Welded.lowestCore {g u n v : Nat} (h : s.lowestCore g u n = some (v, t)) : s.Welded t := by
  induction n generalizing u with
  | zero => cases h
  | succ n ih =>
    unfold State.lowestCore at h
    split at h
    next hf =>
      cases h
      exact .formCore hf
    · exact ih h

theorem coreInsert_perm (l : List CoreOf) (c : CoreOf) : (coreInsert l c).Perm (c :: l) := by
  induction l with
  | nil => exact .refl _
  | cons y l ih =>
    unfold coreInsert
    split
    · exact .refl _
    · exact (ih.cons y).trans (.swap ..)

/-- How many uppers some cores hold. -/
def coreSum (l : List CoreOf) : Nat := (l.map (·.width)).foldl (· + ·) 0

theorem coreSum_eq (l : List CoreOf) : coreSum l = (l.map (·.width)).sum := List.sum_eq_foldl_nat.symm

/-- Cores of one width have been added to a list. -/
structure MoreCores (g k : Nat) (l m : List CoreOf) : Prop where
  count : m.length = l.length + k
  sum : coreSum m = coreSum l + k * g
  width : ∀ c ∈ m, c ∈ l ∨ c.width = g

theorem MoreCores.refl (g : Nat) (l : List CoreOf) : MoreCores g 0 l l := ⟨rfl, by simp, fun _ h => .inl h⟩

theorem MoreCores.insert {g k : Nat} {l m : List CoreOf} (u i : Nat) (h : MoreCores g k (coreInsert l ⟨u, g, i⟩) m) :
    MoreCores g (k + 1) l m := by
  have hperm := coreInsert_perm l ⟨u, g, i⟩
  have hsum : coreSum (coreInsert l ⟨u, g, i⟩) = g + coreSum l := by
    rw [coreSum_eq, coreSum_eq, (hperm.map _).sum_nat]
    rfl
  refine ⟨?_, ?_, fun c hc => ?_⟩
  · rw [h.count, hperm.length_eq, List.length_cons]
    omega
  · rw [h.sum, hsum, Nat.succ_mul]
    omega
  · rcases h.width c hc with hc | hc
    · rcases List.mem_cons.mp (hperm.mem_iff.mp hc) with rfl | hc
      · exact .inr rfl
      · exact .inl hc
    · exact .inr hc

/-- One core enters. -/
theorem State.joinCore_spec {n : Nat} {p : Partition} (hp : SMap.find s.parts n = some p) (g u : Nat) (gang : Bool) :
    (s.joinCore n g u gang).dev = s.dev ∧
    ∃ i gangs, SMap.find (s.joinCore n g u gang).parts n = some { p with cores := coreInsert p.cores ⟨u, g, i⟩, gangs := gangs } := by
  unfold State.joinCore
  rw [hp]
  refine ⟨State.enterCore_dev u, p.freeSlot, if gang then p.gangs ++ [u] else p.gangs, ?_⟩
  simp only [State.enterCore_parts]
  exact SMap.find_put_same ..

theorem State.addCore_spec {n g : Nat} {p : Partition} (hp : SMap.find s.parts n = some p) (h : s.addCore n g = some t) :
    (∃ w, t.dev = { s.dev with welt := w }) ∧
    ∃ u i gangs, SMap.find t.parts n = some { p with cores := coreInsert p.cores ⟨u, g, i⟩, gangs := gangs } := by
  unfold State.addCore at h
  rw [hp] at h
  simp only [] at h
  split at h
  next u _ =>
    cases h
    obtain ⟨hd, i, gangs, hf⟩ := State.joinCore_spec hp g u false
    exact ⟨⟨_, hd⟩, u, i, gangs, hf⟩
  · split at h
    · cases h
    next u v hl =>
      cases h
      obtain ⟨w, rfl⟩ := State.Welded.lowestCore hl
      obtain ⟨hd, i, gangs, hf⟩ := State.joinCore_spec (s := { s with dev := { s.dev with welt := w } }) hp g u (g != 1)
      exact ⟨⟨w, hd⟩, u, i, gangs, hf⟩

/-- Cores of one width enter, and nothing of the device but its welt changes. -/
theorem State.addCores_spec {n g k : Nat} {p : Partition} (hp : SMap.find s.parts n = some p) (h : s.addCores n g k = some t) :
    (∃ w, t.dev = { s.dev with welt := w }) ∧
    ∃ cores gangs, SMap.find t.parts n = some { p with cores := cores, gangs := gangs } ∧ MoreCores g k p.cores cores := by
  induction k generalizing s p with
  | zero =>
    cases h
    exact ⟨⟨_, rfl⟩, p.cores, p.gangs, hp, .refl g p.cores⟩
  | succ k ih =>
    unfold State.addCores at h
    split at h
    · cases h
    next v hv =>
      obtain ⟨⟨w, hw⟩, u, i, gangs, hf⟩ := State.addCore_spec hp hv
      obtain ⟨⟨z, hz⟩, cores, more, hfind, hmore⟩ := ih hf h
      exact ⟨⟨z, by rw [hz, hw]⟩, cores, more, hfind, hmore.insert u i⟩

/-- As many uppers as asked enter a partition. -/
theorem State.addUppers_spec {n g k : Nat} {p : Partition} (hp : SMap.find s.parts n = some p) (h : s.addUppers n g k = some t) :
    (∃ w, t.dev = { s.dev with welt := w }) ∧
    ∃ cores gangs, SMap.find t.parts n = some { p with cores := cores, gangs := gangs } ∧ coreSum cores = coreSum p.cores + k := by
  unfold State.addUppers at h
  simp only [] at h
  split at h
  · cases h
  next a ha =>
    split at h
    · cases h
    next b hb =>
      obtain ⟨⟨w1, h1⟩, c1, g1, f1, m1⟩ := State.addCores_spec hp ha
      obtain ⟨⟨w2, h2⟩, c2, g2, f2, m2⟩ := State.addCores_spec f1 hb
      obtain ⟨⟨w3, h3⟩, c3, g3, f3, m3⟩ := State.addCores_spec f2 h
      refine ⟨⟨w3, by rw [h3, h2, h1]⟩, c3, g3, f3, ?_⟩
      have hsum := m3.sum
      rw [m2.sum, m1.sum] at hsum
      have hdiv := Nat.div_add_mod' k g
      have htwo : (if g = 1 then 0 else k % g / 2) * 2 ≤ k % g := by
        split
        · omega
        · exact Nat.div_mul_le_self ..
      generalize (if g = 1 then 0 else k % g / 2) = two at hsum htwo
      generalize k / g * g = whole at hsum hdiv
      omega

end

/-! ### Creation (R343) -/

section
variable {s t : State}

theorem State.mapRanges_spec {n : Nat} {p : Partition} {l : List MapRange} (hp : SMap.find s.parts n = some p) (h : s.mapRanges n l = some t) :
    t.dev = s.dev ∧ SMap.find t.parts n = some { p with maps := p.maps ++ l } := by
  induction l generalizing s p with
  | nil =>
    cases h
    refine ⟨rfl, ?_⟩
    rw [List.append_nil]
    exact hp
  | cons r l ih =>
    unfold State.mapRanges at h
    split at h
    · cases h
    next y hy =>
      obtain ⟨hd, hf⟩ := State.mapRange_spec hp hy
      obtain ⟨hd', hf'⟩ := ih hf h
      refine ⟨hd'.trans hd, hf'.trans ?_⟩
      simp only [List.append_assoc, List.singleton_append]

/-- Cores numbered by their position. -/
theorem State.numberSlots_spec {n : Nat} {p : Partition} (hp : SMap.find s.parts n = some p) : (s.numberSlots n).dev = s.dev ∧
    SMap.find (s.numberSlots n).parts n = some { p with cores := p.cores.zipIdx.map (fun x => { x.1 with slot := x.2 }) } := by
  unfold State.numberSlots
  rw [hp]
  exact ⟨rfl, SMap.find_put_same ..⟩

/-- A partition as a creation makes it, before any core has entered it. -/
def newPartition (root : Nat) (b : CreateBody) : Partition :=
  { cores := [], root := root, ptab := none, handler := none, stdVa := Config.stdHandlerVa
    pool := (Config.framePoolVa, b.framePool / 64 * 64), slotsPerUpper := b.queueSlots, area := b.frameArea
    share := b.share, tolerance := 1000, maps := [], groups := [], gangs := [], saveAreas := [], frames := [] }

/-- A creation that is granted: its steps. -/
theorem State.actCreate_reply {b : CreateBody} {body : List Byte} (h : s.actCreate b = .reply 0 body t) :
    ∃ key u, s.freeKey = some key ∧
      (((s.setKey key ⟨b.number, 0, 0⟩).newTable 2097152).2.setPart b.number
        (newPartition ((s.setKey key ⟨b.number, 0, 0⟩).newTable 2097152).1 b)).addCores b.number b.gang (b.uppers / b.gang) = some u ∧
      (u.numberSlots b.number).mapRanges b.number (serviceRanges b key) = some t ∧ body.length = 40 := by
  unfold State.actCreate answer at h
  split at h
  · cases h
  · split at h
    · cases h
    · split at h
      · cases h
      · split at h
        · cases h
        next key hk =>
          simp only [] at h
          split at h
          · cases h
          next u hu =>
            split at h
            · cases h
            next v hv =>
              split at h
              · cases h
              · cases h
                exact ⟨key, u, hk, hu, hv, by simp [bytesOf_length]⟩

/-- What a creation that is granted leaves (R334, R343). -/
theorem State.actCreate_spec {b : CreateBody} {body : List Byte} (h : s.actCreate b = .reply 0 body t) :
    body.length = 40 ∧ t.dev.sessions = s.dev.sessions ∧
    ∃ key q, s.freeKey = some key ∧ SMap.find t.parts b.number = some q ∧ q.cores.length = b.uppers / b.gang ∧
      (∀ (i : Nat) (c : CoreOf), q.cores[i]? = some c → c.width = b.gang ∧ c.slot = i) ∧
      q.ptab = none ∧ q.handler = none ∧ q.tolerance = 1000 ∧ SMap.find t.dev.keys key = some ⟨b.number, 0, 0⟩ := by
  obtain ⟨key, u, hk, hu, ht, hbody⟩ := State.actCreate_reply h
  obtain ⟨⟨w, hw⟩, cores, gangs, hf, hmore⟩ := State.addCores_spec (SMap.find_put_same ..) hu
  obtain ⟨hd, hn⟩ := State.numberSlots_spec hf
  obtain ⟨hd', hm⟩ := State.mapRanges_spec hn ht
  have hdev := hd'.trans (hd.trans hw)
  refine ⟨hbody, (congrArg Dev.sessions hdev :), key, _, hk, hm, ?_, fun i c hc => ?_, rfl, rfl, rfl, ?_⟩
  · simp only [List.length_map, List.length_zipIdx, hmore.count]
    exact Nat.zero_add _
  · simp only [List.getElem?_map, List.getElem?_zipIdx, Option.map_map, Option.map_eq_some_iff] at hc
    obtain ⟨y, hy, rfl⟩ := hc
    refine ⟨(hmore.width y (List.mem_of_getElem? hy)).resolve_left (List.not_mem_nil), ?_⟩
    simp
  · rw [hdev]
    exact SMap.find_put_same ..

theorem State.InTurn.create {h : Hdr} {x : Session} (t : s.InTurn h x false) {b : CreateBody} {body : List Byte} {v : State}
    (hv : (s.serving h (.createPartition b) x).actCreate b = .reply 0 body v) :
    ∃ key q, s.freeKey = some key ∧ SMap.find v.parts b.number = some q ∧ q.cores.length = b.uppers / b.gang ∧
      (∀ (i : Nat) (c : CoreOf), q.cores[i]? = some c → c.width = b.gang ∧ c.slot = i) ∧
      q.ptab = none ∧ q.handler = none ∧ q.tolerance = 1000 ∧ SMap.find v.dev.keys key = some ⟨b.number, 0, 0⟩ ∧
      s.Replies (.createPartition h b) h x 0 body (fun u => u = v) := by
  obtain ⟨hlen, hsess, key, q, hk, hq, hcount, hcores, h1, h2, h3, hkey⟩ := State.actCreate_spec hv
  refine ⟨key, q, ?_, hq, hcount, hcores, h1, h2, h3, hkey, ?_⟩
  · unfold State.freeKey at hk ⊢
    rw [State.keys_serving] at hk
    exact hk
  · refine t.replies (r := .createPartition b) rfl nofun nofun (Nat.zero_le _) hv ?_ hsess rfl
    rw [hlen]
    decide

end

/-! ### Destruction (R334, R343) -/

section
variable {s : State}

theorem State.Welded.pairUp (v : Nat) : s.Welded (s.pairUp v) := by
  unfold State.pairUp
  split
  · exact ⟨_, rfl⟩
  · exact .refl s

theorem State.Welded.dissolve (u : Nat) : s.Welded (s.dissolve u) := by
  unfold State.dissolve
  refine State.Welded.trans (t := (s.lentTo u).foldl (fun s v => s.setWelt v (bareEntry 2)) s) (.foldl ?_ _ s) (.foldl ?_ _ _)
  · exact fun _ _ => ⟨_, rfl⟩
  · intro v u
    split
    · exact .pairUp u
    · exact .refl v

/-- A partition without launches is destroyed at once where no change was received before. -/
theorem State.actDestroy_quiet {k : Nat} {p : Partition} (hp : SMap.find s.parts k = some p) (hl : ∀ y, y ∈ s.launches → y.2.part ≠ k)
    (hc : s.dev.changes = []) :
    s.actDestroy k = answer 0 (p.gangs.foldl State.dissolve ((p.cores.foldl (fun s c => s.enterCore c.leader) s).dropPart k)) := by
  have hnone : s.launches.filter (fun x => x.2.part == k) = [] := by
    rw [List.filter_eq_nil_iff]
    intro y hy h
    exact hl y hy (beq_iff_eq.mp h)
  have hres : s.resident k = false := by
    refine Bool.eq_false_iff.mpr fun h => ?_
    obtain ⟨y, hy, h⟩ := List.any_eq_true.mp h
    exact hl y hy (beq_iff_eq.mp h)
  unfold State.actDestroy
  rw [State.inPart_some hp, hnone]
  simp only [List.foldl_nil, hres, hc, List.isEmpty_nil, Bool.not_true, Bool.or_self, Bool.false_eq_true, if_false]

/-- Nothing of a partition is left once it has been dropped. -/
theorem State.dropPart_gone (s : State) (k : Nat) (hr : s.parts.Rising) : let v := s.dropPart k
    SMap.find v.parts k = none ∧
      (∀ e, e ∈ v.queue → e.work.part ≠ k) ∧ (∀ e, e ∈ v.yields → e.work.part ≠ k) ∧
      (∀ e, e ∈ v.saves → e.2.part ≠ k) ∧ (∀ e, e ∈ v.dev.keys → e.2.part ≠ k) ∧ ∀ e, e ∈ v.mem.tlb → e.1 ≠ k := by
  refine ⟨(SMap.find_del hr ..).trans (if_pos rfl), ?_, ?_, ?_, ?_, ?_⟩ <;> exact fun e he => by simpa using (List.mem_filter.mp he).2

theorem State.InTurn.destroy {h : Hdr} {x : Session} (t : s.InTurn h x false) {k : Nat} (hr : s.parts.Rising)
    (hk : (SMap.find s.parts k).isSome = true) (hl : ∀ y, y ∈ s.launches → y.2.part ≠ k) (hc : s.dev.changes = []) :
    s.Replies (.destroyPartition h k) h x 0 [] (fun v => SMap.find v.parts k = none ∧
      (∀ e, e ∈ v.queue → e.work.part ≠ k) ∧ (∀ e, e ∈ v.yields → e.work.part ≠ k) ∧
      (∀ e, e ∈ v.saves → e.2.part ≠ k) ∧ (∀ e, e ∈ v.dev.keys → e.2.part ≠ k) ∧ ∀ e, e ∈ v.mem.tlb → e.1 ≠ k) := by
  let w := s.serving h (.destroyPartition k) x
  obtain ⟨p, hp⟩ := Option.isSome_iff_exists.mp hk
  have hpw : SMap.find w.parts k = some p := by rw [State.parts_serving, hp]
  have hs := State.actDestroy_quiet hpw (fun y hy => hl y (by rw [← State.launches_serving s h (.destroyPartition k) x]; exact hy))
    ((State.changes_serving ..).trans hc)
  let u := p.cores.foldl (fun s c => s.enterCore c.leader) w
  have hparts : u.parts = s.parts := by
    refine (foldl_keeps State.parts ?_ p.cores w).trans (State.parts_serving ..)
    exact fun s c => s.enterCore_parts c.leader
  have hdev : u.dev = w.dev := by
    refine foldl_keeps State.dev ?_ p.cores w
    exact fun s c => s.enterCore_dev c.leader
  obtain ⟨z, hz⟩ : (u.dropPart k).Welded (p.gangs.foldl State.dissolve (u.dropPart k)) := .foldl (fun s u => State.Welded.dissolve u) _ _
  have hs' : w.actDestroy k = answer 0 { u.dropPart k with dev := { (u.dropPart k).dev with welt := z } } := by rw [hs, ← hz]
  have hgone := u.dropPart_gone k (hparts ▸ hr)
  exact t.replies (r := .destroyPartition k) rfl nofun nofun (Nat.zero_le _) hs' (Nat.zero_le _) (congrArg Dev.sessions hdev :) hgone

end

/-! ### A resize (R337, R338) -/

section
variable {s : State} {h : Hdr} {x : Session}

theorem State.uid_serving (s : State) (h : Hdr) (r : Req) (x : Session) : (s.serving h r x).uid = s.uid := by
  obtain ⟨up, ss, rf, hw⟩ := s.serving_eq h r x
  rw [hw]

/-- The state in which a resize has taken its place among the changes. -/
def State.resizePlaced (s : State) (h : Hdr) (k : Nat) (d : Int) (x : Session) : State :=
  let v := (s.serving h (.resize k d) x).fresh.2
  { v with dev := { v.dev with changes := s.dev.changes ++ [.resize (s.uid + 1)] } }

variable {k : Nat} {d : Int} {q : Partition}

theorem State.actResize_none {s : State} (hq : SMap.find s.parts k = some q) (hd : d ≠ 0) : s.actResize k d none =
    let v := s.fresh.2
    let w : State := { v with dev := { v.dev with changes := s.dev.changes ++ [.resize (s.uid + 1)] } }
    if w.dev.resizing (s.uid + 1) then w.startResize k d (s.uid + 1) else .later (some (s.uid + 1, none)) w :=
  (State.inPart_some hq _).trans (if_neg hd)

theorem State.actResize_first (hq : SMap.find s.parts k = some q) (hd : d ≠ 0) : (s.serving h (.resize k d) x).actResize k d none =
    if (s.resizePlaced h k d x).dev.resizing (s.uid + 1) then (s.resizePlaced h k d x).startResize k d (s.uid + 1)
    else .later (some (s.uid + 1, none)) (s.resizePlaced h k d x) := by
  have hpart : SMap.find (s.serving h (.resize k d) x).parts k = some q := by rw [State.parts_serving, hq]
  have hresize := State.actResize_none hpart hd
  rw [State.changes_serving, State.uid_serving] at hresize
  exact hresize

theorem State.upperAt_setUpper_other {u a : Nat} (y : Upper) (hu : u ≠ a) : (s.setUpper a y).upperAt u = s.upperAt u :=
  congrArg (·.getD Upper.reset) (SMap.find_put_other s.uppers y hu.symm)

/-- A request to stop changes the uppers alone: it stands at its upper, and those that stand already are kept. -/
theorem State.askStop_spec (s : State) (a : Nat) (why : Purpose) : (∃ up, s.askStop a why = { s with uppers := up }) ∧
    (∀ u, (s.upperAt u).preempt.isSome = true → ((s.askStop a why).upperAt u).preempt.isSome = true) ∧
    ((s.askStop a why).upperAt a).preempt.isSome = true := by
  cases hp : (s.upperAt a).preempt with
  | some y =>
    rw [State.askStop_some hp]
    exact ⟨⟨_, rfl⟩, fun u h => h, by rw [hp]; rfl⟩
  | none =>
    rw [State.askStop_none hp]
    refine ⟨⟨_, rfl⟩, fun u h => ?_, by rw [State.upperAt_setUpper]; rfl⟩
    by_cases hu : u = a
    · subst hu
      rw [hp] at h
      cases h
    · rw [State.upperAt_setUpper_other _ hu]
      exact h

/-- Asking cores to leave changes the uppers alone; every upper of the list that leads a core is asked. -/
theorem State.askLeave_spec (us : List Nat) (s : State) : (∃ up, s.askLeave us = { s with uppers := up }) ∧
    (∀ u, (s.upperAt u).preempt.isSome = true → ((s.askLeave us).upperAt u).preempt.isSome = true) ∧
    ∀ u, u ∈ us → (s.coreAt u).isSome = true → ((s.askLeave us).upperAt u).preempt.isSome = true := by
  induction us generalizing s with
  | nil => exact ⟨⟨_, rfl⟩, fun u h => h, nofun⟩
  | cons a us ih =>
    have hleave : s.askLeave (a :: us) = (if (s.coreAt a).isSome then s.askStop a .resize else s).askLeave us := rfl
    rw [hleave]
    split
    next hc =>
      obtain ⟨⟨up, hup⟩, hkeep, hask⟩ := s.askStop_spec a .resize
      obtain ⟨⟨up', hup'⟩, hkeep', hask'⟩ := ih (s.askStop a .resize)
      refine ⟨⟨up', by rw [hup', hup]⟩, fun u h => hkeep' u (hkeep u h), fun u hu hcore => ?_⟩
      rcases List.mem_cons.mp hu with rfl | hu
      · exact hkeep' _ hask
      · exact hask' u hu (by rw [hup]; exact hcore)
    next hc =>
      obtain ⟨hup', hkeep', hask'⟩ := ih s
      refine ⟨hup', hkeep', fun u hu hcore => ?_⟩
      rcases List.mem_cons.mp hu with rfl | hu
      · exact absurd hcore hc
      · exact hask' u hu hcore

/-- A resize that is the first of the changes. -/
theorem State.resizing_alone (hc : s.dev.changes = []) : (s.resizePlaced h k d x).dev.resizing (s.uid + 1) = true := by
  have hchanges : (s.resizePlaced h k d x).dev.changes = [.resize (s.uid + 1)] := by
    unfold State.resizePlaced
    simp only [hc, List.nil_append]
  unfold Dev.resizing
  rw [hchanges]
  exact beq_self_eq_true _

theorem State.resizePlaced_parts : (s.resizePlaced h k d x).parts = s.parts := State.parts_serving s h (.resize k d) x

theorem State.startResize_grow {q : Partition} {id : Nat} (hq : SMap.find s.parts k = some q) (hd : 0 < d) :
    ((q.nextSlots d.toNat).any (s.slotBusy k) = true → s.startResize k d id = .later (some (id, none)) s) ∧
    ∀ t, (q.nextSlots d.toNat).any (s.slotBusy k) = false → s.addUppers k q.width d.toNat = some t →
      s.startResize k d id = answer 0 t.dropChange := by
  unfold State.startResize
  rw [hq]
  simp only [hd, if_true]
  refine ⟨fun h => by rw [h]; rfl, fun t h ht => by rw [h, ht]; rfl⟩

theorem State.startResize_shrink {q : Partition} {id : Nat} {us : List Nat} (hq : SMap.find s.parts k = some q) (hd : d < 0)
    (hu : lastCores q.cores.reverse d.natAbs = some us) : s.startResize k d id = .later (some (id, some us)) (s.askLeave us) := by
  unfold State.startResize
  rw [hq]
  simp only [if_neg (Int.not_lt.mpr (Int.le_of_lt hd)), hu]

/-- A resize waits in its session, at its place among the changes. -/
def State.ResizeWaits (s : State) (h : Hdr) (x : Session) (k : Nat) (d : Int) (turn : Option (List Nat)) (z : State) : Prop :=
  exec (.resize h k d) s = .next z ∧ z.dev.out = s.dev.out ∧ z.dev.changes = s.dev.changes ++ [.resize (s.uid + 1)] ∧
    ∃ y, z.session h = some y ∧ y.held = [⟨x.next, h, .resize k d, s.clock, some (s.uid + 1, turn)⟩]

theorem State.InTurn.resizeWaits (t : s.InTurn h x false) {turn : Option (List Nat)} {v : State}
    (hs : (s.serving h (.resize k d) x).actResize k d none = .later (some (s.uid + 1, turn)) v) (hv : v.dev = (s.resizePlaced h k d x).dev) :
    s.ResizeWaits h x k d turn
      (v.setSession { x with held := [⟨x.next, h, .resize k d, s.clock, some (s.uid + 1, turn)⟩], gapSince := none }) := by
  have hsess : v.dev.sessions = (s.serving h (.resize k d) x).dev.sessions := (congrArg Dev.sessions hv :)
  have hx : v.session h = some { x with held := [⟨x.next, h, .resize k d, s.clock, none⟩], gapSince := none } :=
    (State.session_of_sessions h hsess).trans (State.session_serving (.resize k d) t.found)
  refine ⟨t.waits (r := .resize k d) rfl nofun nofun (Nat.zero_le _) hs hsess, ?_, (congrArg Dev.changes hv :), _,
    State.session_setSession _ hx ⟨rfl, rfl, rfl⟩, rfl⟩
  exact (congrArg Dev.out hv).trans (State.out_serving s h (.resize k d) x)

/-- A resize waits for the changes that were received before it. -/
theorem State.InTurn.resize_behind (t : s.InTurn h x false) (hq : SMap.find s.parts k = some q) (hd : d ≠ 0)
    (hr : s.dev.resizing (s.uid + 1) = false) (hc : s.dev.changes ≠ []) : ∃ z, s.ResizeWaits h x k d none z := by
  have hno : (s.resizePlaced h k d x).dev.resizing (s.uid + 1) = false := by
    have hchanges : (s.resizePlaced h k d x).dev.changes = s.dev.changes ++ [.resize (s.uid + 1)] := rfl
    unfold Dev.resizing at hr ⊢
    rw [hchanges]
    cases hl : s.dev.changes with
    | nil => exact absurd hl hc
    | cons c l =>
      rw [hl] at hr
      cases c <;> exact hr
  have hs := State.actResize_first (h := h) (x := x) hq hd
  rw [hno] at hs
  exact ⟨_, t.resizeWaits hs rfl⟩

/-- A resize that begins at once. -/
theorem State.actResize_starts (hq : SMap.find s.parts k = some q) (hd : d ≠ 0) (hc : s.dev.changes = []) :
    (s.serving h (.resize k d) x).actResize k d none = (s.resizePlaced h k d x).startResize k d (s.uid + 1) :=
  (State.actResize_first hq hd).trans (if_pos (State.resizing_alone hc))

theorem State.resizePlaced_find (hq : SMap.find s.parts k = some q) : SMap.find (s.resizePlaced h k d x).parts k = some q :=
  (congrArg (fun m => SMap.find m k) State.resizePlaced_parts).trans hq

theorem State.InTurn.resize_busy (t : s.InTurn h x false) (hq : SMap.find s.parts k = some q) (hd : 0 < d) (hc : s.dev.changes = [])
    (hb : (q.nextSlots d.toNat).any ((s.resizePlaced h k d x).slotBusy k) = true) : ∃ z, s.ResizeWaits h x k d none z :=
  ⟨_, t.resizeWaits ((State.actResize_starts hq (Int.ne_of_gt hd) hc).trans ((State.startResize_grow (State.resizePlaced_find hq) hd).1 hb)) rfl⟩

/-- A resize that adds uppers. -/
theorem State.InTurn.resize_grows (t : s.InTurn h x false) (hq : SMap.find s.parts k = some q) (hd : 0 < d) (hc : s.dev.changes = [])
    {v : State} (hb : (q.nextSlots d.toNat).any ((s.resizePlaced h k d x).slotBusy k) = false)
    (hv : (s.resizePlaced h k d x).addUppers k q.width d.toNat = some v) :
    s.Replies (.resize h k d) h x 0 [] (fun u => u = v.dropChange ∧
      ∃ z, SMap.find u.parts k = some z ∧ coreSum z.cores = coreSum q.cores + d.toNat) := by
  have hfind := State.resizePlaced_find (h := h) (d := d) (x := x) hq
  have hs := (State.actResize_starts hq (Int.ne_of_gt hd) hc).trans ((State.startResize_grow hfind hd).2 v hb hv)
  obtain ⟨⟨w, hw⟩, cores, gangs, hf, hsum⟩ := State.addUppers_spec hfind hv
  exact t.replies (r := .resize k d) rfl nofun nofun (Nat.zero_le _) hs (Nat.zero_le _) (congrArg Dev.sessions hw :) ⟨rfl, _, hf, hsum⟩

/-- A resize that asks cores to leave. -/
theorem State.InTurn.resize_shrinks (t : s.InTurn h x false) (hq : SMap.find s.parts k = some q) (hd : d < 0) (hc : s.dev.changes = [])
    {us : List Nat} (hu : lastCores q.cores.reverse d.natAbs = some us) : ∃ z, s.ResizeWaits h x k d (some us) z ∧
      ∀ u, u ∈ us → (s.coreAt u).isSome = true → (z.upperAt u).preempt.isSome = true := by
  have hs := (State.actResize_starts (h := h) (x := x) hq (Int.ne_of_lt hd) hc).trans (State.startResize_shrink (State.resizePlaced_find hq) hd hu)
  obtain ⟨⟨up, hup⟩, -, hask⟩ := (s.resizePlaced h k d x).askLeave_spec us
  refine ⟨_, t.resizeWaits hs (by rw [hup]), fun u hu hc => hask u hu ?_⟩
  unfold State.coreAt at hc ⊢
  rw [State.resizePlaced_parts]
  exact hc

end

end Sys2Proof.Machine

/-!
Launches and their cancellation, and the requests of the host port as a whole (O54).
-/

namespace Sys2Proof.Machine

set_option Elab.async false

/-! ### Launches (R180, R181) -/

section
variable {s : State}

theorem State.pokeAs_dev (p loc n v : Nat) : (s.pokeAs p loc n v).dev = s.dev := rfl

theorem State.logErr_sessions (kind part cls num : Nat) (cont : Bool) (d1 d2 : Nat) :
    (s.logErr kind part cls num cont d1 d2).dev.sessions = s.dev.sessions := by
  unfold State.logErr
  simp only []
  split <;> rfl

theorem State.putToken_sessions (u part va : Nat) (v : Word) : (s.putToken u part va v).dev.sessions = s.dev.sessions := by
  unfold State.putToken
  split
  · unfold State.logHw
    rw [State.logErr_sessions, State.negate_dev]
  · exact congrArg Dev.sessions (State.pokeAs_dev ..)

/-- What stands at the address of a launch request, and can be accessed: an unmarked header, whose token the partition could write. -/
structure State.HeaderAt (s : State) (h : Hdr) (p : Partition) (a : Word) (at_ : Nat) : Prop where
  table : p.ptab.isSome = true
  free : s.heldAt (serviceCtx h.part.val) a.toNat = false
  loc : s.slotLoc h.part.val a.toNat 64 = .ok at_
  unmarked : s.anyMarked at_ 64 = false
  token : tokenOk (dword (cellsNat s.mem.cells at_ 64) 4) = true
  tokenFree : s.heldAt (serviceCtx h.part.val) (dword (cellsNat s.mem.cells at_ 64) 4) = false
  tokenLoc : ∃ loc, s.resolve ⟨h.part.val, false, 0, 0, none⟩ .store (dword (cellsNat s.mem.cells at_ 64) 4) = .ok loc

theorem State.HeaderAt.serving {h : Hdr} {p : Partition} {a : Word} {at_ : Nat} (y : s.HeaderAt h p a at_) (r : Req) (x : Session) :
    (s.serving h r x).HeaderAt h p a at_ := by
  have hmem := State.mem_serving s h r x
  have hloc : (s.serving h r x).slotLoc h.part.val a.toNat 64 = s.slotLoc h.part.val a.toNat 64 := by
    unfold State.slotLoc
    rw [State.resolve_serving]
  have hmark : (s.serving h r x).anyMarked at_ 64 = s.anyMarked at_ 64 := by
    unfold State.anyMarked
    rw [hmem]
  constructor
  · exact y.table
  · exact (State.heldAt_serving ..).trans y.free
  · exact hloc.trans y.loc
  · exact hmark.trans y.unmarked
  · rw [hmem]
    exact y.token
  · rw [hmem, State.heldAt_serving]
    exact y.tokenFree
  · rw [hmem]
    simp only [State.resolve_serving]
    exact y.tokenLoc

/-- A launch whose header can be read: what its header says decides. -/
theorem State.actLaunch_header {h : Hdr} {p : Partition} {a : Word} {at_ : Nat} (hp : SMap.find s.parts h.part.val = some p)
    (y : s.HeaderAt h p a at_) : s.actLaunch h a =
      match headerFault (cellsNat s.mem.cells at_ 64) with
      | some off => answer 3 (s.putToken 0 h.part.val (dword (cellsNat s.mem.cells at_ 64) 4) (tokenWord 2 off))
      | none => s.acceptLaunch h p (cellsNat s.mem.cells at_ 64) := by
  obtain ⟨loc, hloc⟩ := y.tokenLoc
  have htable : p.ptab.isNone = false := by
    rw [← Option.not_isSome, y.table]
    rfl
  unfold State.actLaunch
  rw [State.inPart_some hp]
  simp only [htable, y.free, y.loc, y.unmarked, y.tokenFree, y.token, hloc, Bool.not_true, Bool.false_eq_true, if_false] <;> rfl

end

section
variable {s : State} {h : Hdr} {x : Session} {p : Partition} (t : s.InTurn h x false) (hp : SMap.find s.parts h.part.val = some p)
include t hp

/-- A launch with a faulty header (R180 step 2). -/
theorem State.InTurn.launch_faulty {a : Word} {at_ off : Nat} (y : s.HeaderAt h p a at_)
    (hf : headerFault (cellsNat s.mem.cells at_ 64) = some off) :
    s.Replies (.launch h a) h x 3 [] (fun u => u = (s.serving h (.launch a) x).putToken 0 h.part.val
      (dword (cellsNat s.mem.cells at_ 64) 4) (tokenWord 2 off)) := by
  have hpart : SMap.find (s.serving h (.launch a) x).parts h.part.val = some p := by rw [State.parts_serving, hp]
  have hs := State.actLaunch_header hpart (y.serving (.launch a) x)
  rw [State.mem_serving, hf] at hs
  exact t.replies (r := .launch a) rfl nofun nofun (Nat.zero_le _) hs (Nat.zero_le _) (State.putToken_sessions ..) rfl

/-- An accepted launch: its logical cores begin with what the soles hold on which they are placed (log 43), and its root is applied. -/
theorem State.InTurn.launch_accepted {a : Word} {at_ : Nat} (y : s.HeaderAt h p a at_)
    (hf : headerFault (cellsNat s.mem.cells at_ 64) = none) :
    let v := cellsNat s.mem.cells at_ 64
    let n := h.part.val
    let w := s.serving h (.launch a) x
    let m := replyTo h 0x20 1 []
    let t := (w.fresh.2.putToken 0 n (dword v 4) 0).post m
    let l := t.fitLaunch p n (dword v 6) (launchOfHeader v n h)
    let u : State := ({ t with launches := SMap.put t.launches w.fresh.1 l } : State).startImages w.fresh.1 l.remap
    let root := u.applyRoot p w.fresh.1 n (dword v 0 / 65536 % 4096) 4098
    (∀ z, root = some z → exec (.launch h a) s = .next ((z.answered h x.next m).drain h 1)) ∧
    (root = none → exec (.launch h a) s =
      .next (w.setSession { x with held := [⟨x.next, h, .launch a, s.clock, none⟩], gapSince := none })) := by
  intro v n w m t' l u root
  have hpart : SMap.find w.parts h.part.val = some p := by rw [State.parts_serving, hp]
  have hs := State.actLaunch_header hpart (y.serving (.launch a) x)
  rw [State.mem_serving, hf] at hs
  have haccept : w.acceptLaunch h p v = match root with
      | none => .later none w
      | some z => .sent m z := rfl
  refine ⟨fun z hz => ?_, fun hz => ?_⟩
  · rw [hz] at haccept
    have hserve : w.serve h (.launch a) none = .sent m z := t.serve_else (r := .launch a) (Nat.zero_le _) (hs.trans haccept) nofun
    have hnext := serveNext_serving (r := .launch a) t.found (.inl nofun)
    rw [hserve] at hnext
    rw [t.exec_eq (r := .launch a) rfl nofun, State.drain, hnext]
  · rw [hz] at haccept
    exact t.waits (r := .launch a) rfl nofun nofun (Nat.zero_le _) (hs.trans haccept) rfl

/-- A cancel is answered at once (log 54). -/
theorem State.InTurn.cancel {tok : Word} {k : Nat} {l : Launch}
    (hl : s.launches.find? (fun y => y.2.part == h.part.val && y.2.token == tok.toNat) = some (k, l)) :
    let m := replyTo h 0x21 0 []
    exec (.cancel h tok) s = .next (((((s.serving h (.cancel tok) x).cancelLaunch k).post m).answered h x.next m).drain h 1) := by
  intro m
  have hs : (s.serving h (.cancel tok) x).actCancel h.part.val tok = answer 0 ((s.serving h (.cancel tok) x).cancelLaunch k) := by
    unfold State.actCancel
    rw [State.inPart_serving hp, State.launches_serving, hl]
  have hserve := t.serve (r := .cancel tok) (Nat.zero_le _) hs (Nat.zero_le _)
  have hnext := serveNext_serving (r := .cancel tok) t.found (.inl nofun)
  rw [hserve] at hnext
  rw [t.exec_eq (r := .cancel tok) rfl nofun, State.drain, hnext]
  rfl

end

/-! ### The requests of the host port -/

/-- Settles O54: every request of the host port, next in its session, takes its effect and is answered. -/
theorem hostRequests : Obligations.HostRequests := by
  intro s h x t n sameCode
  refine ⟨t.unknown, fun b body v hv => t.create hv, fun k hr hk hl hc => t.destroy hr hk hl hc, ?resize, fun j k1 k2 hj => t.installLink k1 k2 hj,
    fun port role hp hr hb => t.configurePort hp hr hb, fun off len d hd hl hn => t.fetchDump hd hl hn,
    fun q count hq hn => t.readTrapLog hq hn, fun p hp => ⟨fun slot k1 k2 hn hk => t.installKey hp k1 k2 hn hk,
      fun slot k hn hr hk hkp hu => t.releaseKey hp hn hr hk hkp hu, fun a ha hm hr => t.setPatternTable hp ha hm hr,
      fun a ha hm hr => t.setHandler hp ha hm hr, fun b pa u hm hl hok hu => t.map hp hm hl hok hu,
      fun a len hl hhit hall => t.unmap hp hl hhit hall, fun a l v hl hh hv => t.copyTo hp hl hh hv,
      fun a l loc hm hl hr ha hlive => State.copyIn_first hm hl hr ha hlive, fun a len l hh hlen hl => t.copyFrom hp hh hlen hl, ?launch,
      fun tok k l hl => t.cancel hp hl, fun a v loc hm ha hh hr hloc hlive => t.signal hp hm ha hh hr hloc hlive,
      fun ns => t.latencyTolerance hp ns,
      fun g hn h0 h0' h1 h1' h2 h2' hl hm hb => t.registerGroup hp hn ⟨h0, h0'⟩ ⟨h1, h1'⟩ ⟨h2, h2'⟩ hl hm hb,
      fun u k hu => State.drain_empty k hu⟩⟩
  case resize =>
    intro k d q hq hd id i v w uppers waits
    exact ⟨fun hr hc => t.resize_behind hq hd hr hc,
      fun hc hpos => ⟨fun hb => t.resize_busy hq hpos hc hb, fun u hb hu => t.resize_grows hq hpos hc hb hu⟩,
      fun us hc hneg hu => t.resize_shrinks hq hneg hc hu⟩
  case launch =>
    intro a at_ htable hfree hloc hmark v htok htokFree htokLoc
    have y : s.HeaderAt h p a at_ := ⟨htable, hfree, hloc, hmark, htok, htokFree, htokLoc⟩
    exact ⟨fun off hf => t.launch_faulty hp y hf, fun hf => t.launch_accepted hp y hf⟩

end Sys2Proof.Machine
